-- ==== Sys2Proof/Word.lean ====
section
/-!
DEFINITION. The word types of the module: bytes, 32-bit scalars, sparse maps and sparse byte memories.
A sparse map is a list of (key, value) pairs in one canonical form (Machine/Ops.lean: keys strictly rising, no entry equal to
what an unlisted key reads as), so that equal maps are equal data.
-/

namespace Sys2Proof.Machine

/-- A byte (00 R6: all multi-byte fields are little-endian). -/
abbrev Byte := BitVec 8

/-- A scalar register's word (03 R71). -/
abbrev Word := BitVec 32

/-- A sparse map from Nat keys; what an unlisted key reads as is given at each read. -/
abbrev SMap (α : Type) := List (Nat × α)

/-- A sparse byte memory; an unlisted address reads 0 (log 5). -/
abbrev Memory := List (Nat × BitVec 8)

end Sys2Proof.Machine
end

