-- ==== Sys2Proof/Machine/Hash.lean ====
section
/-!
DEFINITION. Check values: the CRCs, Fletcher-32 and SHA-256 of 03 R95, the CRCs that headers, flits and records carry, and
HMAC-SHA-256 over it; and little-endian bytes (00 R6).
-/

namespace Sys2Proof.Machine

/-- The number a list of bytes holds, lowest byte first (00 R6). -/
def leNat : List Byte → Nat
  | [] => 0
  | b :: t => b.toNat + 256 * leNat t

/-- The n low bytes of a number, lowest first. -/
def toLE : Nat → Nat → List Byte
  | 0, _ => []
  | n + 1, v => BitVec.ofNat 8 v :: toLE n (v / 256)

/-- The number a list of bytes holds, highest byte first (SHA-256 only). -/
def beNat (l : List Byte) : Nat := l.foldl (fun a b => a * 256 + b.toNat) 0

/-- The n low bytes of a number, highest first (SHA-256 only). -/
def toBE (n v : Nat) : List Byte := (toLE n v).reverse

/-- n bytes of l from offset o; bytes beyond the end read 0. -/
def slice (l : List Byte) (o n : Nat) : List Byte :=
  let t := (l.drop o).take n
  t ++ List.replicate (n - t.length) 0#8

/-- The little-endian field of n bytes at offset o. -/
def fieldAt (l : List Byte) (o n : Nat) : Nat := leNat ((l.drop o).take n)

/-- l with the bytes from offset o replaced by d, within l's length. -/
def patch (l : List Byte) (o : Nat) (d : List Byte) : List Byte :=
  l.take o ++ (d.take (l.length - o)) ++ l.drop (o + d.length)

/-- l cut or padded with zeros to n bytes. -/
def padTo (n : Nat) (l : List Byte) : List Byte := l.take n ++ List.replicate (n - l.length) 0#8

/-- Every byte is 0. -/
def allZero (l : List Byte) : Bool := l.all (· == 0#8)

/-- Consecutive pieces of n bytes; fuel bounds their number. -/
def chunksOf (n : Nat) : Nat → List Byte → List (List Byte)
  | 0, _ => []
  | fuel + 1, l => if l.isEmpty then [] else l.take n :: chunksOf n fuel (l.drop n)

/-- n steps of a reflected CRC register. -/
def crcStepR {w : Nat} (poly : BitVec w) : Nat → BitVec w → BitVec w
  | 0, r => r
  | n + 1, r => crcStepR poly n (if r.getLsbD 0 then (r >>> 1) ^^^ poly else r >>> 1)

/-- n steps of a non-reflected CRC register. -/
def crcStepN {w : Nat} (poly : BitVec w) : Nat → BitVec w → BitVec w
  | 0, r => r
  | n + 1, r => crcStepN poly n (if r.getMsbD 0 then (r <<< 1) ^^^ poly else r <<< 1)

/-- A reflected CRC fed one byte. -/
def crcByteR {w : Nat} (poly : BitVec w) (r : BitVec w) (b : Byte) : BitVec w :=
  crcStepR poly 8 (r ^^^ b.setWidth w)

/-- A non-reflected CRC fed one byte. -/
def crcByteN {w : Nat} (poly : BitVec w) (r : BitVec w) (b : Byte) : BitVec w :=
  crcStepN poly 8 (r ^^^ (b.setWidth w <<< (w - 8)))

/-- The reflected form of the CRC-32C polynomial 0x1EDC6F41. -/
def polyCrc32c : BitVec 32 := 0x82F63B78#32

/-- The reflected form of the IEEE 802.3 polynomial 0x04C11DB7. -/
def polyCrc32 : BitVec 32 := 0xEDB88320#32

/-- CRC-32C of a byte sequence (03 R95 code 0). -/
def crc32c (l : List Byte) : BitVec 32 := ~~~ (l.foldl (crcByteR polyCrc32c) 0xFFFFFFFF#32)

/-- CRC-64/ECMA-182 of a byte sequence (03 R95 code 3). -/
def crc64 (l : List Byte) : BitVec 64 := l.foldl (crcByteN 0x42F0E1EBA9EA3693#64) 0#64

/-- CRC-16/CCITT of a byte sequence (03 R95 code 2). -/
def crc16 (l : List Byte) : BitVec 16 := l.foldl (crcByteN 0x1021#16) 0xFFFF#16

/-- The two Fletcher-32 sums fed one 16-bit word (03 R95 code 4). -/
def fletcherWord (s : Nat × Nat) (w : Nat) : Nat × Nat :=
  let a := (s.1 + w) % 65535
  (a, (s.2 + a) % 65535)

/-- Round constants 0 to 7 of FIPS 180-4. -/
def shaK0 : List (BitVec 32) := [0x428A2F98#32, 0x71374491#32, 0xB5C0FBCF#32, 0xE9B5DBA5#32, 0x3956C25B#32, 0x59F111F1#32, 0x923F82A4#32, 0xAB1C5ED5#32]

/-- Round constants 8 to 15 of FIPS 180-4. -/
def shaK1 : List (BitVec 32) := [0xD807AA98#32, 0x12835B01#32, 0x243185BE#32, 0x550C7DC3#32, 0x72BE5D74#32, 0x80DEB1FE#32, 0x9BDC06A7#32, 0xC19BF174#32]

/-- Round constants 16 to 23 of FIPS 180-4. -/
def shaK2 : List (BitVec 32) := [0xE49B69C1#32, 0xEFBE4786#32, 0x0FC19DC6#32, 0x240CA1CC#32, 0x2DE92C6F#32, 0x4A7484AA#32, 0x5CB0A9DC#32, 0x76F988DA#32]

/-- Round constants 24 to 31 of FIPS 180-4. -/
def shaK3 : List (BitVec 32) := [0x983E5152#32, 0xA831C66D#32, 0xB00327C8#32, 0xBF597FC7#32, 0xC6E00BF3#32, 0xD5A79147#32, 0x06CA6351#32, 0x14292967#32]

/-- Round constants 32 to 39 of FIPS 180-4. -/
def shaK4 : List (BitVec 32) := [0x27B70A85#32, 0x2E1B2138#32, 0x4D2C6DFC#32, 0x53380D13#32, 0x650A7354#32, 0x766A0ABB#32, 0x81C2C92E#32, 0x92722C85#32]

/-- Round constants 40 to 47 of FIPS 180-4. -/
def shaK5 : List (BitVec 32) := [0xA2BFE8A1#32, 0xA81A664B#32, 0xC24B8B70#32, 0xC76C51A3#32, 0xD192E819#32, 0xD6990624#32, 0xF40E3585#32, 0x106AA070#32]

/-- Round constants 48 to 55 of FIPS 180-4. -/
def shaK6 : List (BitVec 32) := [0x19A4C116#32, 0x1E376C08#32, 0x2748774C#32, 0x34B0BCB5#32, 0x391C0CB3#32, 0x4ED8AA4A#32, 0x5B9CCA4F#32, 0x682E6FF3#32]

/-- Round constants 56 to 63 of FIPS 180-4. -/
def shaK7 : List (BitVec 32) := [0x748F82EE#32, 0x78A5636F#32, 0x84C87814#32, 0x8CC70208#32, 0x90BEFFFA#32, 0xA4506CEB#32, 0xBEF9A3F7#32, 0xC67178F2#32]

/-- The 64 round constants of FIPS 180-4. -/
def shaK : List (BitVec 32) := shaK0 ++ shaK1 ++ shaK2 ++ shaK3 ++ shaK4 ++ shaK5 ++ shaK6 ++ shaK7

/-- The initial hash words of FIPS 180-4. -/
def shaInit : List (BitVec 32) := [0x6A09E667#32, 0xBB67AE85#32, 0x3C6EF372#32, 0xA54FF53A#32, 0x510E527F#32, 0x9B05688C#32, 0x1F83D9AB#32, 0x5BE0CD19#32]

/-- The message schedule, newest word first, extended by n words. -/
def shaExtend : Nat → List (BitVec 32) → List (BitVec 32)
  | 0, w => w
  | n + 1, w =>
    let g (i : Nat) := w.getD i 0#32
    let s0 := (g 14).rotateRight 7 ^^^ (g 14).rotateRight 18 ^^^ (g 14 >>> 3)
    let s1 := (g 1).rotateRight 17 ^^^ (g 1).rotateRight 19 ^^^ (g 1 >>> 10)
    shaExtend n ((g 15 + s0 + g 6 + s1) :: w)

/-- One round of the compression function on the eight working words. -/
def shaRound (v : List (BitVec 32)) (kw : BitVec 32 × BitVec 32) : List (BitVec 32) :=
  match v with
  | [a, b, c, d, e, f, g, h] =>
    let s1 := e.rotateRight 6 ^^^ e.rotateRight 11 ^^^ e.rotateRight 25
    let ch := (e &&& f) ^^^ (~~~ e &&& g)
    let t1 := h + s1 + ch + kw.1 + kw.2
    let s0 := a.rotateRight 2 ^^^ a.rotateRight 13 ^^^ a.rotateRight 22
    let mj := (a &&& b) ^^^ (a &&& c) ^^^ (b &&& c)
    [t1 + (s0 + mj), a, b, c, d + t1, e, f, g]
  | v => v

/-- The hash words after one 64-byte block. -/
def shaBlock (h : List (BitVec 32)) (blk : List Byte) : List (BitVec 32) :=
  let w0 := (List.range 16).map fun i => BitVec.ofNat 32 (beNat (slice blk (4 * i) 4))
  let w := (shaExtend 48 w0.reverse).reverse
  let v := (shaK.zip w).foldl shaRound h
  (h.zip v).map fun p => p.1 + p.2

/-- Hash words after the whole blocks of l, and the bytes left over. -/
def shaFeed (h : List (BitVec 32)) (l : List Byte) : List (BitVec 32) × List Byte :=
  (chunksOf 64 (l.length / 64 + 1) l).foldl
    (fun p blk => if blk.length = 64 then (shaBlock p.1 blk, p.2) else (p.1, blk)) (h, [])

/-- The digest from hash words, the held bytes and the total length in bytes. -/
def shaFinish (h : List (BitVec 32)) (held : List Byte) (len : Nat) : List Byte :=
  let z := if held.length < 56 then 55 - held.length else 119 - held.length
  let p := held ++ [0x80#8] ++ List.replicate z 0#8 ++ toBE 8 (8 * len)
  ((shaFeed h p).1.map fun w => toBE 4 w.toNat).flatten

/-- SHA-256 of a byte sequence (03 R95 code 5). -/
def sha256 (l : List Byte) : List Byte :=
  let p := shaFeed shaInit l
  shaFinish p.1 p.2 l.length

/-- HMAC-SHA-256 (FIPS 198-1 with block size 64). -/
def hmacSha256 (key msg : List Byte) : List Byte :=
  let k := padTo 64 (if key.length > 64 then sha256 key else key)
  sha256 (k.map (· ^^^ 0x5C#8) ++ sha256 (k.map (· ^^^ 0x36#8) ++ msg))

end Sys2Proof.Machine
end

