-- ==== Sys2Proof/Syntax.lean ====
section
/-!
DEFINITION. The commands of the module, one constructor of Instr for each row of spec/opcode_table.json, with the operands
the row takes from outside (a ring and a doorbell value, a descriptor's bytes, a Tiller and a stream, a flit). What a row
finds inside the module it takes from State. The Shoze instruction of 03 R73, R74 is here too: CTX_LOAD decodes it from an
image, and a row such as ADD issues the one a stream's program counter names.
-/

namespace Sys2Proof.Machine

/-- The eleven number formats, in the order of the format codes of 03 R75. -/
inductive Fmt where
  | fp64 | fp32 | lb16 | lh16 | le4m3 | le5m2 | le2m3 | le2m1 | ls8 | int8 | int32
  deriving DecidableEq, Repr

/-- The Shoze instructions of 03 R78, by class and operation. -/
inductive Mnem where
  | nop | jmp | beq | bne | blt | bge | bltu | bgeu | call | ret | stepEnd | halt | fence
  | add | sub | and | or | xor | shl | shr | sra | slt | sltu | mul | mulhu | div | divu | rem | remu
  | li | lui | ldB | ldH | ldW | stB | stH | stW | spld | spst | rdcyc | rdtime | rdtile | seed
  | mm | mmBs | mmGs | mmBgs
  | trMap | trRed | trCvt | trLdprog
  | shPrune | shTmask
  | mvCopy | mvMesh | mvMrecv | mvGet | mvPut | mvSend | mvRecv
  | cvInit | cvWb | cvWh | cvWw | cvRead | cvSave | cvRestore | cvFeed
  | signal | wait | aspush
  deriving DecidableEq, Repr

/-- An operand descriptor (03 R74). -/
structure Desc where
  /-- base: scratchpad byte address of row 0 -/
  base : BitVec 21 := 0#21
  /-- fmt: format code of R75 -/
  fmt : BitVec 4 := 0#4
  /-- aux_scale -/
  scale : Bool := false
  /-- aux_mask -/
  mask : Bool := false
  /-- aux_sparse -/
  sparse : Bool := false
  /-- count: number of elements -/
  count : BitVec 24 := 0#24
  /-- row_len: elements per row, 0 for one row of count elements -/
  rowLen : BitVec 16 := 0#16
  /-- stride in 32-byte words, signed -/
  stride : BitVec 16 := 0#16
  /-- aux: scratchpad byte address of the auxiliary vector -/
  aux : BitVec 21 := 0#21
  deriving DecidableEq, Repr

/-- A Shoze instruction: word 0 of 03 R73 with its class and operation decoded, and its operand descriptors. -/
structure Shoze where
  /-- class and op, decoded under R78 -/
  mn : Mnem := .nop
  /-- rounding field of R50 -/
  rm : BitVec 3 := 0#3
  /-- scalar source a -/
  sa : BitVec 5 := 0#5
  /-- scalar source b -/
  sb : BitVec 5 := 0#5
  /-- scalar destination -/
  sd : BitVec 5 := 0#5
  /-- semaphore number -/
  sem : BitVec 4 := 0#4
  /-- descriptor 0 takes its row addresses from the engine's FIFO -/
  ast : Bool := false
  /-- descriptor 0's base is added to s[sa] at issue -/
  dyn : Bool := false
  /-- the program asserts that the dynamic range is disjoint -/
  disj : Bool := false
  /-- engine-specific flags -/
  ef : BitVec 2 := 0#2
  /-- 24-bit immediate -/
  imm : BitVec 24 := 0#24
  /-- operand descriptors, 0 to 4 -/
  ds : List Desc := []
  deriving DecidableEq, Repr

/-- The TAP instructions of 15 R399. -/
inductive TapInst where
  | bypass | idcode | samplePreload | extest | extestPulse | extestTrain | clamp | highz
  deriving DecidableEq, Repr

/-- The sensor readings of 13 R368, which commands that sample them bring in (log 12). -/
structure SensorVals where
  /-- junction temperatures of the switch die and compute dies 0 to 3, in 1/16 C -/
  tDie : List Int := [400, 400, 400, 400, 400]
  /-- coolant inlet temperature in 1/16 C -/
  tIn : Int := 400
  /-- coolant outlet temperature in 1/16 C -/
  tOut : Int := 400
  /-- coolant flow in mL/min -/
  flow : Nat := 4000
  /-- input voltage in 10 mV -/
  vIn : Nat := 7200
  /-- input current in 10 mA -/
  iIn : Nat := 0
  /-- domain powers in 0.25 W -/
  pDom : List Nat := []
  deriving DecidableEq, Repr

/-- A request a Tiller's firmware or program makes of the Seedbank (08 R238 and following). -/
structure SbAsk where
  /-- 1 to free, 0 to allocate -/
  free : Bool := false
  /-- owner in whose name the request is made -/
  owner : Nat := 0
  /-- pool -/
  pool : Nat := 0
  /-- die list asked for, 15 for any -/
  list : Nat := 15
  /-- device address to free -/
  addr : Nat := 0
  deriving DecidableEq, Repr

end Sys2Proof.Machine

namespace Sys2Proof

open Sys2Proof.Machine

/-- The commands of the module: one constructor for each row of spec/opcode_table.json. -/
inductive Instr where
  /-- DEV_IDENTIFY (R296): Fast-path command that returns the serial, stepping, grade, Harrow fuse map and firmware version. -/
  | devIdentify (c : Nat)
  /-- DEV_STATUS (R296): Returns DEV_STATE and, for each fabric port, the last discovery record, link state and down reason. -/
  | devStatus (c : Nat)
  /-- DEV_SET_MODE (R36): Sets DEV_MODE if no context exists and mode_lock is clear; otherwise completes with BAD_PARAM. -/
  | devSetMode (c : Nat)
  /-- DEV_WARM_RESET (R358): Accepts a warm reset: stops every ring fetching, latches the carrying ring and drains outstanding commands toward t0. -/
  | devWarmReset (c : Nat)
  /-- WARM_RESET_T0 (R358): Once the last pre-t0 record is written or its 10 ms wait passes, stops Tillers, tears down contexts, drops buffered packets and starts pausing peers. -/
  | warmResetT0
  /-- WARM_RESET_FORWARDING_RESUME (R266): Sends pause_us = 0 on every port, resumes forwarding and sends a level 2 FAULT_NOTICE. -/
  | warmResetForwardingResume
  /-- WARM_RESET_DONE (R359): Once the firmware processors have restarted, the state returns to READY or ISOLATED and the DEV_WARM_RESET record is written at the latched ring position. -/
  | warmResetDone
  /-- DEV_ISOLATE (R329): Quorum command that isolates every fabric port and sets the device state to ISOLATED. -/
  | devIsolate (c : Nat)
  /-- DEV_RESTORE (R329): Quorum command with the restore action: returns fabric ports not isolated by their own record to DOWN, and the state to READY. -/
  | devRestore (c : Nat)
  /-- PORT_ISOLATE (R329): Quorum command that moves one fabric port to ISOLATED and flushes it. -/
  | portIsolate (c : Nat)
  /-- PORT_RESTORE (R329): Quorum command with the restore action: returns one isolated port to DOWN so that it retrains. -/
  | portRestore (c : Nat)
  /-- ISOLATION_APPLY (R329): For a quorum command carried in MGMT, isolates the ports once the reply has left or 100 us after the store write, whichever comes first. -/
  | isolationApply
  /-- CTX_CREATE (R296): Creates a context bound to a completion ring and returns its number and epoch. -/
  | ctxCreate (c : Nat)
  /-- CTX_LOAD (R80): Checks and translates an image, reserves its resources and writes the lineage blocks, or refuses the load with nothing changed. -/
  | ctxLoad (c : Nat) (img : List Byte) (sizes : List Nat) (phases : List Nat)
  /-- CTX_START (R81): Starts every Tiller of a loaded context at instruction 0 in one CORE_CLK cycle aligned to a mesh frame. -/
  | ctxStart (c : Nat)
  /-- CTX_STOP (R296): Asks every Tiller of the context to stop at its next STEP_END or HALT. -/
  | ctxStop (c : Nat)
  /-- CTX_STOP_TIMEOUT (R296): When timeout_ms passes, stops the Tillers still running at their next instruction boundary and completes CTX_STOP with TIMEOUT. -/
  | ctxStopTimeout (x : Nat)
  /-- CTX_TEARDOWN (R363): Stops the context's Tillers, advances its epoch, drops steered packets and unbinds its slots. -/
  | ctxTeardown (c : Nat)
  /-- TEARDOWN_ENGINE_TIMEOUT (R363): Resets, with a sample, an engine that has not finished 100 us after teardown step 1. -/
  | teardownEngineTimeout (t : Nat) (e : Nat)
  /-- TEARDOWN_WRITES_ACKED (R363): Once every memory write of the context is acknowledged, releases buffers, queues, cells and Tillers, zeroes scratchpad and DMEM, and completes teardown. -/
  | teardownWritesAcked (x : Nat)
  /-- CXL_WRITE_ACK_TIMEOUT (R364): Takes a CXL port down when a write of a context being torn down is still unacknowledged 10 ms after teardown step 4 begins. -/
  | cxlWriteAckTimeout (x : Nat) (k : Nat)
  /-- COLL_BIND (R137): Checks a binding record and binds a collective slot, reserving its Tillers, cells, queues and step buffers. -/
  | collBind (c : Nat) (members : List Byte) (nbrs : List Byte) (ops : List Byte)
  /-- COLL_UNBIND (R139): COLL_BIND with op 0x00: aborts the slot's uncommitted steps with CONTEXT_GONE, releases its reservations and frees the slot. -/
  | collUnbind (c : Nat)
  /-- COLL_POST_CONTRIB (R299): COLL_POST kind 0: host software sends its contribution as CONTRIB chunks from port 36. -/
  | collPostContrib (c : Nat) (data : List Byte)
  /-- COLL_POST_COUNTS (R299): COLL_POST kind 1: host software sends one COUNT packet from port 36. -/
  | collPostCounts (c : Nat) (data : List Byte)
  /-- COLL_POST_RESULT_REQUEST (R299): COLL_POST kind 2: host software sends a RESULT_REQUEST from port 36. -/
  | collPostResultRequest (c : Nat)
  /-- POST_PACKET_ARRIVAL (R299): A COUNT_REPLY, RESULT or STEP_ABORT for an outstanding post is written at out_addr and may complete the post. -/
  | postPacketArrival (ecc : Option Nat)
  /-- COLL_QUERY (R174): Returns a slot's state, binding, drop counters, cumulative counters and straggler records. -/
  | collQuery (c : Nat)
  /-- COLL_SUBSTITUTE (R175): Replaces the member of a rank from eff_step on, aborting uncommitted steps with RETRY when the now flag is set. -/
  | collSubstitute (c : Nat)
  /-- ROUTE_WRITE (R185): Writes route table entries. -/
  | routeWrite (c : Nat)
  /-- ROUTE_READ (R185): Returns route table entries. -/
  | routeRead (c : Nat)
  /-- PORT_CONFIG (R187): Writes a port's rank, its scheduling settings and/or its link settings, as the select bits choose, subject to the rank, overhead and VC7 admission checks. -/
  | portConfig (c : Nat)
  /-- PORT_LOOP (R275): Puts a fabric port into a test loop, taking it down with reason LOOP, or takes it out with mode 0. -/
  | portLoop (c : Nat)
  /-- QUEUE_CONFIG_SQ_CFG (R208): QUEUE_CONFIG sub 0: binds, reweights or releases a range of stream queues. -/
  | queueConfigSqCfg (c : Nat)
  /-- QUEUE_CONFIG_SQ_MAP (R207): QUEUE_CONFIG sub 1: writes the SQ_MAP base and size of a port and VC. -/
  | queueConfigSqMap (c : Nat)
  /-- QUEUE_CONFIG_PORT_WDRR (R210): QUEUE_CONFIG sub 2: writes a port's VC weights, subject to the VC7 admission checks. -/
  | queueConfigPortWdrr (c : Nat)
  /-- QUEUE_CONFIG_BUF_CLASS (R192): QUEUE_CONFIG sub 3: writes min_cells and max_cells of a buffer class. -/
  | queueConfigBufClass (c : Nat)
  /-- SHAPER_CONFIG (R212): Writes a stream, service or port shaper, keeping its tokens. -/
  | shaperConfig (c : Nat)
  /-- POLICER_CONFIG (R216): Writes a stream queue's policer, subject to the VC7 reservation rules. -/
  | policerConfig (c : Nat)
  /-- WRED_PROFILE_PROFILE (R199): WRED_PROFILE sub 0: writes the three colour entries of a random early drop profile. -/
  | wredProfileProfile (c : Nat)
  /-- WRED_PROFILE_PORT_VC_RED (R199): WRED_PROFILE sub 1: writes a port's profile selection and averaging weight for each VC. -/
  | wredProfilePortVcRed (c : Nat)
  /-- POOL_CONFIG_COUNTS (R234): POOL_CONFIG sub 0: sets the buffer counts of pools 0 to 3 for each die. -/
  | poolConfigCounts (c : Nat)
  /-- POOL_CONFIG_MINIMA (R236): POOL_CONFIG sub 1: sets the system minima of the pools. -/
  | poolConfigMinima (c : Nat)
  /-- BUF_ALLOC (R237): Allocates a Seedbank buffer for an owner from a pool and list, under the reserved-minimum rule. -/
  | bufAlloc (c : Nat)
  /-- BUF_FREE (R239): Frees a buffer after the ownership and double-free checks, writing its header and pushing it onto its list. -/
  | bufFree (c : Nat)
  /-- SEEDBANK_REQUEST (R237): An allocation or free request from a prefix-store Tiller, received over a memory lane and served in arrival order. -/
  | seedbankRequest (t : Nat) (r : SbAsk)
  /-- SEEDBANK_REBUILD_DONE (R242): A list rebuild finishes: fresh headers are linked in ascending index, the rebuilding bit clears, and waiting requests are served. -/
  | seedbankRebuildDone (l : Nat)
  /-- PREFIX_CONFIG (R243): Enables, disables or reconfigures the prefix store, advancing its epoch or evicting blocks to meet new limits as needed. -/
  | prefixConfig (c : Nat)
  /-- TEL_READ (R296): Returns a block of counters from their shadow copies. -/
  | telRead (c : Nat)
  /-- TEL_WINDOW (R223): Sets the telemetry window length from the next window boundary. -/
  | telWindow (c : Nat)
  /-- ALMANAC_READ (R370): Returns Almanac records from a given sequence number on. -/
  | almanacRead (c : Nat)
  /-- FW_VERSION (R306): Fast-path command that returns the running firmware version, digest and translator version. -/
  | fwVersion (c : Nat)
  /-- FW_STAGE (R317): Writes a firmware image, equaliser table or quorum key set into the slot not in force, stopping short of the commit, and checks it. -/
  | fwStage (c : Nat) (obj : List Byte)
  /-- FW_ACTIVATE (R318): Commits a staged object; for firmware, all processors then restart from the boot ROM. -/
  | fwActivate (c : Nat)
  /-- ATTEST (R324): Returns an attestation report signed under the device HSS key, with the device certificate. -/
  | attest (c : Nat)
  /-- HSS_TREE_BUILT (R323): The background build of the next lower-level HSS tree completes. -/
  | hssTreeBuilt
  /-- PWR_POLICY (R388): Writes MULCH_CFG and PWR_KEEP_OFF. -/
  | pwrPolicy (c : Nat)
  /-- PWR_FLOOR (R379): Sets the power floor and reports warm_avail. -/
  | pwrFloor (c : Nat)
  /-- HEAT_REPORT (R383): Returns the energy counters, powers, temperatures and Mulch state. -/
  | heatReport (c : Nat)
  /-- DIAG_SELFTEST (R356): Runs the per-engine test streams, and optionally mesh tests, on free Tillers and returns pass and fail bits. -/
  | diagSelftest (c : Nat) (results : List Byte)
  /-- DIAG_SHADOW_RUN (R371): Captures a source Tiller's state and inputs for one step and repeats the step on a shadow Tiller to compare digests. -/
  | diagShadowRun (c : Nat)
  /-- SHADOW_REPEAT_START (R371): A shadow repeat starts once the die has held hold_temp for 100 ms, or 10 s after the hold began with the hold marked missed. -/
  | shadowRepeatStart
  /-- SHADOW_RUN_TIMEOUT (R371): The source has not finished its step within timeout_ms, so DIAG_SHADOW_RUN completes with TIMEOUT. -/
  | shadowRunTimeout
  /-- DIAG_SCRATCH_SAMPLE (R355): Returns scratchpad bytes, and optionally the Tiller state, of a Tiller that is not running. -/
  | diagScratchSample (c : Nat)
  /-- ENGINE_RESET (R354): Host-requested reset of one engine, a whole Tiller or a link-layer engine, with optional restart. -/
  | engineReset (c : Nat)
  /-- CMD_TAIL_WRITE (R287): Doorbell write of a ring's command tail, which starts fetching or stops the ring with OVERRUN. -/
  | cmdTailWrite (off : Nat) (width : Nat) (v : Nat)
  /-- CPL_HEAD_WRITE (R288): Doorbell write of the completion records the host has consumed, which frees completion ring space. -/
  | cplHeadWrite (off : Nat) (width : Nat) (v : Nat)
  /-- RING_ENABLE (R287): Writing 1 to RING_CFG.enable on a disabled ring zeroes CMD_HEAD, CPL_TAIL and the doorbell values. -/
  | ringEnable (r : Nat) (v : Nat)
  /-- RING_DISABLE (R287): Writing 0 to RING_CFG.enable stops fetching; enabled falls once the last record is written. -/
  | ringDisable (r : Nat) (v : Nat)
  /-- DESCRIPTOR_FETCH (R287): A command descriptor fetch completes, and the command is handed to the fast path or FWP-CMD, or the ring stops with HOST_READ. -/
  | descriptorFetch (r : Nat) (desc : List Byte) (params : List Byte)
  /-- COMPLETION_RECORD_WRITE (R288): A finished command's status record is written once the completion ring has room. -/
  | completionRecordWrite (c : Nat)
  /-- INTERRUPT_COALESCE_EXPIRY (R289): coalesce_us has passed since the first unsignalled record, so the ring's MSI-X vector is sent. -/
  | interruptCoalesceExpiry (r : Nat)
  /-- DEVICE_EVENT_WRITE (R301): A waiting device event record is written into its ring once space exists, with EVENTS_LOST reporting overflow. -/
  | deviceEventWrite (r : Nat)
  /-- REGISTER_WRITE (R7): A host write to a BAR2 register that has no row of its own, applied under its access code. -/
  | registerWrite (off : Nat) (width : Nat) (v : Nat)
  /-- BAR2_BAD_ACCESS (R282): A BAR2 access that is not 4 or 8 bytes wide or not naturally aligned completes with Completer Abort. -/
  | bar2BadAccess (off : Nat) (width : Nat) (write : Bool)
  /-- BAR4_READ (R30): Host read through the GDDR7 window, which completes with Completer Abort on an uncorrectable word. -/
  | bar4Read (off : Nat) (len : Nat) (ecc : Option Nat) (ce : List Nat)
  /-- BAR4_WRITE (R30): Host write through the GDDR7 window, carried out as a read-modify-write when narrower than 32 bytes. -/
  | bar4Write (off : Nat) (data : List Byte) (ecc : Option Nat) (ce : List Nat)
  /-- NOP (R78): Issues one cycle of nothing. -/
  | nop (t : Nat) (e : Nat)
  /-- JMP (R78): Jumps to index plus a signed immediate. -/
  | jmp (t : Nat) (e : Nat)
  /-- BEQ (R78): Branches if the two scalar sources are equal. -/
  | beq (t : Nat) (e : Nat)
  /-- BNE (R78): Branches if the two scalar sources are not equal. -/
  | bne (t : Nat) (e : Nat)
  /-- BLT (R78): Branches if s[sa] is less than s[sb], signed. -/
  | blt (t : Nat) (e : Nat)
  /-- BGE (R78): Branches if s[sa] is greater than or equal to s[sb], signed. -/
  | bge (t : Nat) (e : Nat)
  /-- BLTU (R78): Branches if s[sa] is less than s[sb], unsigned. -/
  | bltu (t : Nat) (e : Nat)
  /-- BGEU (R78): Branches if s[sa] is greater than or equal to s[sb], unsigned. -/
  | bgeu (t : Nat) (e : Nat)
  /-- CALL (R78): Pushes the return index and jumps, faulting on a 17th entry. -/
  | call (t : Nat) (e : Nat)
  /-- RET (R78): Pops the return stack and jumps, faulting on an empty stack. -/
  | ret (t : Nat) (e : Nat)
  /-- STEP_END (R84): Issues a program step boundary, which waits until every engine is idle. -/
  | stepEnd (t : Nat) (e : Nat)
  /-- STEP_END_RETIRE (R335): A STEP_END retires once its engines are idle and no CORE_CLK change is pending for it. -/
  | stepEndRetire (t : Nat) (e : Nat)
  /-- HALT (R78): Issues the end of the Tiller's program, which waits until every engine is idle. -/
  | halt (t : Nat) (e : Nat)
  /-- HALT_RETIRE (R297): A HALT retires once every engine is idle; when the context's last Tiller halts, a CTX_DONE event is sent. -/
  | haltRetire (t : Nat) (e : Nat)
  /-- FENCE (R78): Issues a wait until every engine is idle. -/
  | fence (t : Nat) (e : Nat)
  /-- FENCE_RETIRE (R78): A held FENCE retires once every engine is idle. -/
  | fenceRetire (t : Nat) (e : Nat)
  /-- ADD (R78): Scalar wrapping 32-bit addition. -/
  | add (t : Nat) (e : Nat)
  /-- SUB (R78): Scalar wrapping 32-bit subtraction. -/
  | sub (t : Nat) (e : Nat)
  /-- AND (R78): Scalar bitwise AND. -/
  | and (t : Nat) (e : Nat)
  /-- OR (R78): Scalar bitwise OR. -/
  | or (t : Nat) (e : Nat)
  /-- XOR (R78): Scalar bitwise XOR. -/
  | xor (t : Nat) (e : Nat)
  /-- SHL (R78): Scalar shift left by s[sb][4:0]. -/
  | shl (t : Nat) (e : Nat)
  /-- SHR (R78): Scalar logical shift right. -/
  | shr (t : Nat) (e : Nat)
  /-- SRA (R78): Scalar arithmetic shift right. -/
  | sra (t : Nat) (e : Nat)
  /-- SLT (R78): Sets the destination to 1 if s[sa] is less than s[sb], signed, else 0. -/
  | slt (t : Nat) (e : Nat)
  /-- SLTU (R78): Sets the destination to 1 if s[sa] is less than s[sb], unsigned, else 0. -/
  | sltu (t : Nat) (e : Nat)
  /-- MUL (R78): Scalar multiplication, keeping the low 32 bits. -/
  | mul (t : Nat) (e : Nat)
  /-- MULHU (R78): Scalar multiplication, keeping the unsigned high 32 bits. -/
  | mulhu (t : Nat) (e : Nat)
  /-- DIV (R78): Scalar signed division with the defined results for a zero divisor and overflow. -/
  | div (t : Nat) (e : Nat)
  /-- DIVU (R78): Scalar unsigned division. -/
  | divu (t : Nat) (e : Nat)
  /-- REM (R78): Scalar signed remainder. -/
  | rem (t : Nat) (e : Nat)
  /-- REMU (R78): Scalar unsigned remainder. -/
  | remu (t : Nat) (e : Nat)
  /-- LI (R78): Loads a sign-extended immediate into a scalar register. -/
  | li (t : Nat) (e : Nat)
  /-- LUI (R78): Loads the immediate into bits [31:8] of a scalar register and zero into bits [7:0]. -/
  | lui (t : Nat) (e : Nat)
  /-- LD_B (R71): Loads a zero-extended DMEM byte. -/
  | ldB (t : Nat) (e : Nat)
  /-- LD_H (R71): Loads a zero-extended DMEM half-word. -/
  | ldH (t : Nat) (e : Nat)
  /-- LD_W (R71): Loads a DMEM word. -/
  | ldW (t : Nat) (e : Nat)
  /-- ST_B (R71): Stores a byte to DMEM. -/
  | stB (t : Nat) (e : Nat)
  /-- ST_H (R71): Stores a half-word to DMEM. -/
  | stH (t : Nat) (e : Nat)
  /-- ST_W (R71): Stores a word to DMEM. -/
  | stW (t : Nat) (e : Nat)
  /-- SPLD (R77): Loads a 32-bit scratchpad word addressed at run time. -/
  | spld (t : Nat) (e : Nat)
  /-- SPST (R77): Stores a 32-bit scratchpad word addressed at run time. -/
  | spst (t : Nat) (e : Nat)
  /-- RDCYC (R78): Reads the low 32 bits of the cycles since CTX_START. -/
  | rdcyc (t : Nat) (e : Nat)
  /-- RDTIME (R78): Reads the low 32 bits of the time base. -/
  | rdtime (t : Nat) (e : Nat)
  /-- RDTILE (R78): Reads the Tiller's linear number. -/
  | rdtile (t : Nat) (e : Nat)
  /-- SEED (R53): Seeds the stochastic-rounding generator, storing 1 for a seed of 0. -/
  | seed (t : Nat) (e : Nat)
  /-- MM (R102): Dense Harrow matrix multiply with optional C, accumulated in ascending k. -/
  | mm (t : Nat) (e : Nat)
  /-- MM_BS (R113): Starts an asynchronous block-sparse Harrow multiply. -/
  | mmBs (t : Nat) (e : Nat)
  /-- MM_GS (R113): Starts an asynchronous group-sparse Harrow multiply. -/
  | mmGs (t : Nat) (e : Nat)
  /-- MM_BGS (R113): Starts an asynchronous block- and group-sparse Harrow multiply. -/
  | mmBgs (t : Nat) (e : Nat)
  /-- SPARSE_BAND_FAULT (R111): The band walk finds a format violation; earlier bands are written and the Tiller faults with FMT_VIOLATION. -/
  | sparseBandFault (t : Nat)
  /-- SPARSE_MM_COMPLETE (R113): A sparse Harrow form finishes writing D and signals its semaphore. -/
  | sparseMmComplete (t : Nat) (ecc : Option Nat)
  /-- TR_MAP (R127): Runs a micro-program slot element-wise over the sources into D. -/
  | trMap (t : Nat) (e : Nat)
  /-- TR_RED (R129): Reduces a vector to a summary register and optional per-row results. -/
  | trRed (t : Nat) (e : Nat)
  /-- TR_CVT (R128): Converts the source elements into the destination format. -/
  | trCvt (t : Nat) (e : Nat)
  /-- TR_LDPROG (R120): Starts loading a micro-program slot from scratchpad. -/
  | trLdprog (t : Nat) (e : Nat)
  /-- TR_LDPROG_CHECK (R124): In its completion cycle the micro-program is checked and written into its slot, or the Tiller faults with PROG_INVALID. -/
  | trLdprogCheck (t : Nat) (ecc : Option Nat)
  /-- SH_PRUNE (R130): Compresses a dense operand into group form, or rewrites its values in apply mode. -/
  | shPrune (t : Nat) (e : Nat)
  /-- SH_TMASK (R133): Writes the transposed form 4 operand for the backward pass. -/
  | shTmask (t : Nat) (e : Nat)
  /-- ENGINE_RESULT_COMPLETE (R82): A synchronous engine instruction's result latency elapses: its destination is written and its checker entry leaves. -/
  | engineResultComplete (t : Nat) (k : Nat) (ecc : Option Nat)
  /-- ASTREAM_ROW_FETCH (R88): An engine takes a row address from its address-stream FIFO, checked for range, underrun and leftovers. -/
  | astreamRowFetch (t : Nat) (e : Nat)
  /-- MV_COPY (R78): Copies whole words from one scratchpad descriptor to another. -/
  | mvCopy (t : Nat) (e : Nat)
  /-- MV_MESH (R93): Queues a tile-mesh send to another Tiller in its reserved slot phase. -/
  | mvMesh (t : Nat) (e : Nat)
  /-- MESH_SLOT_START (R93): The first cycle with the transfer's slot phase arrives and the mesh transfer starts. -/
  | meshSlotStart (t : Nat) (k : Nat) (ecc : Option Nat)
  /-- MESH_ARRIVAL (R94): Mesh data reaches the destination and is matched against an open claim, or faults with MESH_CLAIM. -/
  | meshArrival (t : Nat) (k : Nat)
  /-- MESH_TRANSFER_COMPLETE (R92): The last word is written at the destination, and the sender and receiver semaphores are signalled. -/
  | meshTransferComplete (t : Nat) (k : Nat)
  /-- MV_MRECV (R94): Opens a mesh receive claim on a channel. -/
  | mvMrecv (t : Nat) (e : Nat)
  /-- MV_GET (R78): Queues a read from a device address into scratchpad. -/
  | mvGet (t : Nat) (e : Nat)
  /-- MV_GET_COMPLETE (R85): The data of an MV_GET arrives, or its access faults, and its semaphore is signalled. -/
  | mvGetComplete (t : Nat) (k : Nat) (ecc : Bool) (ce : List Nat)
  /-- MV_PUT (R78): Queues a write from scratchpad to a device address. -/
  | mvPut (t : Nat) (e : Nat)
  /-- MV_PUT_COMPLETE (R85): An MV_PUT's write completes, or its access faults, and its semaphore is signalled. -/
  | mvPutComplete (t : Nat) (k : Nat) (ecc : Bool)
  /-- MV_SEND (R202): Queues a packet built from a header and a payload descriptor for port 37's return path. -/
  | mvSend (t : Nat) (e : Nat)
  /-- MV_SEND_ADMIT (R202): Port 37's buffer class admits the queued packet and the Mover hands it over. -/
  | mvSendAdmit (t : Nat) (ecc : Option Nat)
  /-- MV_SEND_COMPLETE (R202): The packet's last byte lies in the shared buffer and the semaphore is signalled. -/
  | mvSendComplete (t : Nat)
  /-- MV_RECV (R79): Claims the next packet of the Tiller's Mover receive queue. -/
  | mvRecv (t : Nat) (e : Nat)
  /-- RECEIVE_QUEUE_ARRIVAL (R20): A packet crosses the die bridge and enters the steered Tiller's Mover receive queue. -/
  | receiveQueueArrival (t : Nat) (ecc : Option Nat)
  /-- MV_RECV_COMPLETE (R79): A packet is written into the claim's words and the claim's semaphore is signalled. -/
  | mvRecvComplete (t : Nat)
  /-- CV_INIT (R95): Selects a CVU algorithm and sets its initial state. -/
  | cvInit (t : Nat) (e : Nat)
  /-- CV_WB (R96): Feeds one byte to the CVU. -/
  | cvWb (t : Nat) (e : Nat)
  /-- CV_WH (R96): Feeds two bytes to the CVU. -/
  | cvWh (t : Nat) (e : Nat)
  /-- CV_WW (R96): Feeds four bytes to the CVU. -/
  | cvWw (t : Nat) (e : Nat)
  /-- CV_READ (R97): Reads the check value or digest without changing the running state. -/
  | cvRead (t : Nat) (e : Nat)
  /-- CV_SAVE (R98): Writes the 128-byte CVU image to DMEM. -/
  | cvSave (t : Nat) (e : Nat)
  /-- CV_RESTORE (R98): Loads the CVU state from a DMEM image. -/
  | cvRestore (t : Nat) (e : Nat) (ecc : Option Nat)
  /-- CV_FEED (R87): Feeds the bytes of a descriptor to the CVU in a per-engine stream. -/
  | cvFeed (t : Nat) (e : Nat)
  /-- SIGNAL (R86): Increments a semaphore, faulting on overflow. -/
  | signal (t : Nat) (e : Nat)
  /-- WAIT (R86): Issues a wait on a semaphore, retiring at once if it is nonzero. -/
  | wait (t : Nat) (e : Nat)
  /-- WAIT_RETIRE (R86): A held WAIT finds its semaphore nonzero, decrements it and ends the claims of the oldest matching async instruction. -/
  | waitRetire (t : Nat) (e : Nat)
  /-- ASPUSH (R88): Pushes an address onto an engine's address-stream FIFO. -/
  | aspush (t : Nat) (e : Nat)
  /-- CORE_CLK_CHANGE_APPLY (R335): A pending CORE_CLK change takes effect once every Tiller of every started context is halted, faulted or held at an idle STEP_END. -/
  | coreClkChangeApply
  /-- CORE_CLK_STEP_DONE (R377): A CORE_CLK operating-point step finishes. -/
  | coreClkStepDone
  /-- TILLER_WATCHDOG_FIRE (R346): A Tiller engine makes no progress within tiller_limit_us, faults with WATCHDOG and stops. -/
  | tillerWatchdogFire (t : Nat) (e : Nat)
  /-- SAMPLE_COMPLETE (R348): Hardware finishes writing the SAMPLE record after a fault, and the engine reset then starts. -/
  | sampleComplete (t : Nat)
  /-- ENGINE_RESET_DONE (R349): An engine reset finishes; lane Tillers send STEP_REPLAY, and the Tiller restarts or stays stopped by its role. -/
  | engineResetDone (t : Nat)
  /-- ENGINE_RESET_OVERRUN (R352): An engine reset has not finished within 100 us and escalates to a Tiller reset. -/
  | engineResetOverrun (t : Nat)
  /-- TILLER_RESET_DONE (R350): A Tiller reset finishes, having reloaded the image, zeroed scratchpad and dropped the receive queue. -/
  | tillerResetDone (t : Nat) (eccBad : Bool)
  /-- TILLER_RESET_OVERRUN (R352): A Tiller reset has not finished within 1 ms and the device becomes WEDGED. -/
  | tillerResetOverrun (t : Nat)
  /-- TILLER_RESTART (R351): A reset lane or prefix-store Tiller issues instruction 0 at the first mesh frame after its reset. -/
  | tillerRestart (t : Nat)
  /-- LINK_WATCHDOG_FIRE (R346): A link-layer engine misses link_limit_us without starting a slot and is reset under the hold circuit. -/
  | linkWatchdogFire (p : Nat)
  /-- LINK_ENGINE_RESET_DONE (R266): A link-layer engine reset finishes and the engine resumes from its resume record with a NAK. -/
  | linkEngineResetDone (p : Nat)
  /-- LINK_ENGINE_RESET_OVERRUN (R352): A link-layer engine reset overruns 8 us, so its electrical port group is reset and its four ports go down with LOS. -/
  | linkEngineResetOverrun (p : Nat)
  /-- PORT_GROUP_RESET_DONE (R352): An electrical port group reset finishes and its ports retrain. -/
  | portGroupResetDone (g : Nat)
  /-- PORT_GROUP_RESET_OVERRUN (R352): An electrical port group reset overruns 1 ms and the device becomes WEDGED. -/
  | portGroupResetOverrun (g : Nat)
  /-- FLIT_SLOT_TRANSMIT (R256): A flit slot begins and carries a data flit, a control flit or a resend, following the lane map and grants. -/
  | flitSlotTransmit (p : Nat)
  /-- DATA_FLIT_RECEIVE (R261): A data flit arrives and is accepted into the packet byte stream or discarded with a NAK. -/
  | dataFlitReceive (p : Nat) (flit : List Byte)
  /-- CONTROL_FLIT_RECEIVE (R258): A control flit arrives, carrying acks, NAKs, pause, lane map and grants. -/
  | controlFlitReceive (p : Nat) (flit : List Byte)
  /-- DISCOVERY_FLIT_RECEIVE (R269): A discovery flit arrives and is recorded; in ACTIVE it means the peer restarted. -/
  | discoveryFlitReceive (p : Nat) (flit : List Byte)
  /-- TRAINING_BLOCK_RECEIVE (R268): A training block arrives on a lane during training. -/
  | trainingBlockReceive (p : Nat) (lane : Nat) (block : List Byte)
  /-- LANE_BLOCK_LOCK (R268): A lane reaches 64 consecutive valid sync headers and is declared block-locked. -/
  | laneBlockLock (p : Nat) (lane : Nat)
  /-- ENTER_DISCOVERY (R268): 256 unchanged training blocks have been received and sent with at least 6 lanes, so the port enters DISCOVERY. -/
  | enterDiscovery (p : Nat)
  /-- ENTER_ACTIVE (R269): After peer_seen and 16 more discovery flits, the port enters ACTIVE and its sequence, slot and grant counters start at 0. -/
  | enterActive (p : Nat)
  /-- REPLAY_TIMER_EXPIRY (R261): The 4 us replay timer expires while a resend is awaited, so the NAK is sent again. -/
  | replayTimerExpiry (p : Nat)
  /-- RETRY_EXHAUSTED (R263): naks_for_E reaches 8 and the link goes down. -/
  | retryExhausted (p : Nat)
  /-- CONTROL_TIMEOUT (R263): No good control flit has arrived for 10 us and the link goes down. -/
  | controlTimeout (p : Nat)
  /-- PAUSE_EXPIRY (R265): The requested pause period elapses and the side may start data flits again. -/
  | pauseExpiry (p : Nat)
  /-- PAUSE_TIMEOUT (R265): A side has been paused continuously for 1 ms and the link goes down. -/
  | pauseTimeout (p : Nat)
  /-- TRAINING_TIMEOUT (R268): ACTIVE is not reached within 20 ms of LANE_LOCK, so the port returns to DOWN. -/
  | trainingTimeout (p : Nat)
  /-- RETRAIN_TIMER (R267): An enabled DOWN port starts training again 1 ms after entering DOWN. -/
  | retrainTimer (p : Nat)
  /-- LANE_LOSS_OF_SIGNAL (R270): A lane of the lane map loses signal or block lock and the link goes down with LOS. -/
  | laneLossOfSignal (p : Nat) (lane : Nat)
  /-- SPARING_WINDOW_END (R271): A one-second sync-error window ends and lanes at the limit become sparing candidates. -/
  | sparingWindowEnd (p : Nat) (errs : List Nat)
  /-- LASER_FEED_LOW (R254): A feed wavelength stays below +11 dBm for 10 us and its ports are held with LASER_LOW. -/
  | laserFeedLow (o : Nat) (f : Nat)
  /-- LASER_FEED_RECOVERED (R254): All feed wavelengths have stayed at +12 dBm or above for 100 ms and training resumes. -/
  | laserFeedRecovered (o : Nat) (f : Nat)
  /-- OE_CALIBRATION_CYCLE (R254): An optical engine runs its 10 ms modulator calibration cycle and counts an overrun in oe_cal_lag. -/
  | oeCalibrationCycle (o : Nat) (overrun : Bool) (power : List Int)
  /-- HOST_PACKET_ADMIT (R193): Once its class admits it, the host port fetches a packet and enters it as arriving on port 36. -/
  | hostPacketAdmit
  /-- FORWARDING_DECISION (R184): A slice checks a packet, updates its route and rank state, classifies and polices it and links it onto a stream queue. -/
  | forwardingDecision (fs : Nat)
  /-- SCHEDULER_SELECT (R209): A scheduler port selects its next eligible packet through the VC and stream levels and charges its shapers. -/
  | schedulerSelect (p : Nat)
  /-- PACKET_TRANSMIT_COMPLETE (R18): A packet's last byte is handed to its output and its cells return to the free lists. -/
  | packetTransmitComplete (p : Nat) (ecc : Option Nat)
  /-- MGMT_REQUEST (R305): A MGMT packet from a permitted port carries a remote command to FWP-CMD, which sends back a reply packet. -/
  | mgmtRequest
  /-- NOTICE_RECEIVE (R362): A received FAULT_NOTICE or DELIVERY_LOST notice is reported to the host as a NOTICE event. -/
  | noticeReceive
  /-- NOTICE_QUEUE_SEND (R221): A queued DELIVERY_LOST or FAULT_NOTICE is sent as a NOTICE packet, or an Almanac record is written if it has no route. -/
  | noticeQueueSend
  /-- CONTRIB_RECEIVE (R143): A member's CONTRIB chunk arrives at a slot and is accepted into its step or dropped and counted. -/
  | contribReceive (t : Nat)
  /-- PARTIAL_RECEIVE (R148): A neighbour's PARTIAL node arrives and is merged with sibling nodes. -/
  | partialReceive (t : Nat)
  /-- RESULT_RECEIVE (R149): A RESULT from a parent or ring neighbour arrives and is forwarded unchanged to members and children. -/
  | resultReceive (t : Nat)
  /-- COUNT_RECEIVE (R157): A COUNT packet arrives and is kept or forwarded in the count phase. -/
  | countReceive (t : Nat)
  /-- STEP_ABORT_RECEIVE (R155): A STEP_ABORT from a neighbour aborts the same steps and is forwarded on. -/
  | stepAbortReceive (t : Nat)
  /-- STEP_REPLAY_RECEIVE (R144): A STEP_REPLAY from a neighbour makes this device resend its retained partials for the step. -/
  | stepReplayReceive (t : Nat)
  /-- RESULT_REQUEST_RECEIVE (R154): A member asks again for a step's results and is answered from the kept commit buffer or with DELIVERY_LOST. -/
  | resultRequestReceive (t : Nat)
  /-- STEP_COMMIT (R152): A computed step commits in ascending order, writes its straggler record and releases its RESULT packets. -/
  | stepCommit (l : Nat)
  /-- STEP_TIMEOUT (R155): step_timeout passes before commit, so the step and later ones are aborted with TIMEOUT. -/
  | stepTimeout (l : Nat) (n : Nat)
  /-- PUT (R246): A prefix-store PUT chunk arrives; the first chunk opens the put and takes a staging buffer. -/
  | put (t : Nat)
  /-- PUT_COMMIT (R246): All chunks are held and any CRC verify passes, so the block enters the index under its new version. -/
  | putCommit (k : Nat)
  /-- PUT_TIMEOUT (R246): A put has not committed within put_timeout_us and is discarded with TIMEOUT. -/
  | putTimeout (k : Nat)
  /-- GET (R247): A prefix-store GET is looked up and answered with GET_DATA chunks or PREFIX_MISS. -/
  | get (t : Nat) (ce : List Nat)
  /-- PREFIX_PROMOTE (R249): After the last chunk of a CXL hit is sent, the block moves to GDDR7 when promote is set and room can be made. -/
  | prefixPromote (b : List Byte)
  /-- PREFIX_DEMOTE_DONE (R248): A demotion copy finishes and the index entry switches to the CXL copy. -/
  | prefixDemoteDone (b : List Byte)
  /-- DELETE (R250): A prefix-store DELETE removes the block and replies. -/
  | delete (t : Nat)
  /-- PROBE (R245): A prefix-store PROBE returns a block's version, size and CRC, or PREFIX_MISS. -/
  | probe (t : Nat)
  /-- CXL_PORT_DOWN (R229): A CXL port fails, loses its expander, reference clock or power; its pool 4 list empties and its prefix blocks are removed. -/
  | cxlPortDown (k : Nat)
  /-- CXL_PORT_UP (R229): A CXL port returns with the same capacity and its free list is rebuilt. -/
  | cxlPortUp (k : Nat) (cap : Nat)
  /-- SCRUB_SLOT (R231): A scrub slot reads the next line, or writes back a corrected word, and handles uncorrectable words. -/
  | scrubSlot (m : Nat) (ecc : Nat)
  /-- GLEANER_PASS_START (R201): The Gleaner period elapses and a pass over the cells of ports 36 and 37 starts. -/
  | gleanerPassStart
  /-- GLEANER_PASS_END (R201): A Gleaner pass ends, returning cells found not live in two passes and counting glean_lag. -/
  | gleanerPassEnd
  /-- TELEMETRY_WINDOW_BOUNDARY (R223): A telemetry window ends, restarting q_peak and the first-drop records. -/
  | telemetryWindowBoundary
  /-- ALMANAC_RECORD_WRITE (R367): A record waiting in the always-on queue is written into the Almanac ring. -/
  | almanacRecordWrite
  /-- MULCH_TICK (R376): The 1 ms Mulch tick computes the cap and bounds, requests CORE_CLK steps and sets the warm-keeping load. -/
  | mulchTick (v : SensorVals)
  /-- ENERGY_INTEGRATION (R382): Every millisecond the sensor hardware integrates thermal, electrical and warm-keeping power into the energy counters. -/
  | energyIntegration (v : SensorVals)
  /-- EMERGENCY_SAMPLE (R384): The comparators sample every 10 us against the emergency thresholds. -/
  | emergencySample (v : SensorVals)
  /-- EMERGENCY_BEGIN (R384): A second consecutive sample beyond a threshold begins a condition; the ladder enters rung 1 and the EMERGENCY event is written. -/
  | emergencyBegin
  /-- EMERGENCY_CLEAR (R384): Every value has stayed inside its release limit for 10 ms and the condition clears. -/
  | emergencyClear
  /-- LADDER_CLIMB (R385): Each 100 us a condition persists, the ladder climbs one rung. -/
  | ladderClimb
  /-- LADDER_DESCEND (R385): Every 10 ms after all conditions clear, the ladder descends one rung; at rung 0 the emergency ends. -/
  | ladderDescend
  /-- DOMAIN_IDLE_EXPIRY (R375): With auto_off set, a domain that has held no live state for 1 s is turned off. -/
  | domainIdleExpiry (d : Nat)
  /-- DOMAIN_POWER_ON_DONE (R375): A switched domain finishes turning on and waiting loads proceed. -/
  | domainPowerOnDone (d : Nat)
  /-- DOMAIN_POWER_OFF_DONE (R375): A switched domain finishes turning off. -/
  | domainPowerOffDone (d : Nat)
  /-- INPUT_POWER_UP (R391): Both input blade pairs reach 57 V and the converters start. -/
  | inputPowerUp (volts : List Nat)
  /-- VAON_IN_REGULATION (R392): VAON comes into regulation; the always-on domain runs with the cold reset held. -/
  | vaonInRegulation
  /-- POWER_DOWN (R391): Either input pair falls below 54 V and the module powers down. -/
  | powerDown
  /-- COLD_RESET_REQUEST (R393): MOD_RST_N or PWR_OK is held low for at least 10 us, beginning a cold reset. -/
  | coldResetRequest
  /-- COLD_RESET_RELEASE (R392): 10 ms after PWR_OK and MOD_RST_N are high, the cold reset is released, straps are sampled, the time base starts and boot begins. -/
  | coldResetRelease (board : Nat)
  /-- FABREF_LOSS (R396): FABREF is lost for 1 us while PWR_OK is high and the device goes into cold reset. -/
  | fabrefLoss
  /-- PERST_N_ASSERT (R357): PERST_N returns the PCIe function, rings and host registers to reset values. -/
  | perstNAssert
  /-- PERST_N_DEASSERT (R392): PERST_N rises and the host link trains. -/
  | perstNDeassert (width : Nat) (gen : Nat)
  /-- HOST_REFCLK_LOSS (R396): Loss of the host reference clock takes down the PCIe link. -/
  | hostRefclkLoss
  /-- CXL_PERST_RELEASE (R392): A CXL port raises its PERST_N 1 ms after its domain is on and its reference is present. -/
  | cxlPerstRelease (k : Nat)
  /-- BOOT_IMAGE_VERIFIED (R315): The boot ROM verifies an image, or falls back, loads it and sets FW_DIGEST and FW_VER, or enters NO_FIRMWARE. -/
  | bootImageVerified
  /-- DEVICE_READY (R315): All five firmware processors are up and the state becomes READY or ISOLATED. -/
  | deviceReady
  /-- FWP_WATCHDOG_EXPIRY (R365): A firmware processor has not served its watchdog for 10 ms and restarts. -/
  | fwpWatchdogExpiry (q : Nat)
  /-- FWP_TRAP (R365): A firmware processor takes an illegal instruction or access trap and restarts. -/
  | fwpTrap (q : Nat)
  /-- FWP_MEMORY_UE (R32): A firmware processor memory word is found uncorrectable and the processor restarts. -/
  | fwpMemoryUe (q : Nat) (w : Nat)
  /-- FWP_RESTART_DONE (R365): A restarted processor's sections are reloaded and checked; it resumes, reports journalled commands and writes FWP_RESTART. -/
  | fwpRestartDone (q : Nat)
  /-- MGMT_STATUS_READ (R398): The board controller reads the management status block over I3C or SMBus. -/
  | mgmtStatusRead (cmd : Nat) (len : Nat)
  /-- MGMT_BLOCK_REFRESH (R398): The management status block is refreshed every millisecond. -/
  | mgmtBlockRefresh
  /-- TAP_INSTRUCTION (R399): An IEEE 1149.1 instruction is loaded into the TAP; the EXTEST family acts only during cold reset. -/
  | tapInstruction (inst : TapInst)
  /-- LOOP_LANE_ALIGNED (R275): A checking port in a PRBS31 test loop finds alignment between a returned lane and the sequence it sent, and begins counting loop_bits and loop_err. -/
  | loopLaneAligned (p : Nat) (lane : Nat)
  /-- LOOP_LANE_ALIGNMENT_LOST (R275): A checking lane in a PRBS31 loop loses alignment and counts every bit as an error until it aligns again. -/
  | loopLaneAlignmentLost (p : Nat) (lane : Nat)
  /-- I3C_DYNAMIC_ADDRESS_ASSIGN (R398): The board controller assigns the management target a dynamic I3C address, replacing static address 0x3C. -/
  | i3cDynamicAddressAssign (addr : Nat)
  /-- POST_STEP_REPLAY (R299): A STEP_REPLAY for an outstanding COLL_POST arrives at port 36, and the device reads the host contribution again and resends it. -/
  | postStepReplay (c : Nat) (data : List Byte)
  deriving DecidableEq, Repr

end Sys2Proof
end

