-- ==== Sys2Proof/Decode.lean ====
section
/-!
DEFINITION. Decoding. The module's commands have no bits of their own (spec/opcode_table.json gives none), so decodeTableWord reads
none of them; the encoding that the spec does give is that of the Shoze instructions of an image (03 R73, R74, R78), decoded here
with its encoder. Decoding refuses what no field of Shoze or Desc can hold; what an instruction must keep at 0 is checked by the
loader (Machine/Loader.lean).
-/

namespace Sys2Proof

/-- No row of the table has bits (spec/opcode_table.json), so no word spells a command. -/
def decodeTableWord (_nbits _w : Nat) : Option Instr := none

end Sys2Proof

namespace Sys2Proof.Machine

/-- Class and operation code of an instruction (03 R78). -/
def opCode : Mnem → Nat × Nat
  | .nop => (0, 0x00) | .jmp => (0, 0x01) | .beq => (0, 0x02) | .bne => (0, 0x03) | .blt => (0, 0x04) | .bge => (0, 0x05)
  | .bltu => (0, 0x06) | .bgeu => (0, 0x07) | .call => (0, 0x08) | .ret => (0, 0x09) | .stepEnd => (0, 0x0A) | .halt => (0, 0x0B)
  | .fence => (0, 0x0C)
  | .add => (1, 0x00) | .sub => (1, 0x01) | .and => (1, 0x02) | .or => (1, 0x03) | .xor => (1, 0x04) | .shl => (1, 0x05)
  | .shr => (1, 0x06) | .sra => (1, 0x07) | .slt => (1, 0x08) | .sltu => (1, 0x09) | .mul => (1, 0x0A) | .mulhu => (1, 0x0B)
  | .div => (1, 0x0C) | .divu => (1, 0x0D) | .rem => (1, 0x0E) | .remu => (1, 0x0F) | .li => (1, 0x10) | .lui => (1, 0x11)
  | .ldB => (1, 0x12) | .ldH => (1, 0x13) | .ldW => (1, 0x14) | .stB => (1, 0x15) | .stH => (1, 0x16) | .stW => (1, 0x17)
  | .spld => (1, 0x18) | .spst => (1, 0x19) | .rdcyc => (1, 0x1A) | .rdtime => (1, 0x1B) | .rdtile => (1, 0x1C) | .seed => (1, 0x1D)
  | .mm => (2, 0x00) | .mmBs => (2, 0x01) | .mmGs => (2, 0x02) | .mmBgs => (2, 0x03)
  | .trMap => (3, 0x00) | .trRed => (3, 0x01) | .trCvt => (3, 0x02) | .trLdprog => (3, 0x03)
  | .shPrune => (4, 0x00) | .shTmask => (4, 0x01)
  | .mvCopy => (5, 0x00) | .mvMesh => (5, 0x01) | .mvMrecv => (5, 0x02) | .mvGet => (5, 0x03) | .mvPut => (5, 0x04)
  | .mvSend => (5, 0x05) | .mvRecv => (5, 0x06)
  | .cvInit => (6, 0x00) | .cvWb => (6, 0x01) | .cvWh => (6, 0x02) | .cvWw => (6, 0x03) | .cvRead => (6, 0x04)
  | .cvSave => (6, 0x05) | .cvRestore => (6, 0x06) | .cvFeed => (6, 0x07)
  | .signal => (7, 0x00) | .wait => (7, 0x01) | .aspush => (7, 0x02)

/-- The instructions of each class, by operation code (03 R78). -/
def classMnems : Nat → List Mnem
  | 0 => [.nop, .jmp, .beq, .bne, .blt, .bge, .bltu, .bgeu, .call, .ret, .stepEnd, .halt, .fence]
  | 1 => [.add, .sub, .and, .or, .xor, .shl, .shr, .sra, .slt, .sltu, .mul, .mulhu, .div, .divu, .rem, .remu, .li, .lui, .ldB, .ldH,
          .ldW, .stB, .stH, .stW, .spld, .spst, .rdcyc, .rdtime, .rdtile, .seed]
  | 2 => [.mm, .mmBs, .mmGs, .mmBgs]
  | 3 => [.trMap, .trRed, .trCvt, .trLdprog]
  | 4 => [.shPrune, .shTmask]
  | 5 => [.mvCopy, .mvMesh, .mvMrecv, .mvGet, .mvPut, .mvSend, .mvRecv]
  | 6 => [.cvInit, .cvWb, .cvWh, .cvWw, .cvRead, .cvSave, .cvRestore, .cvFeed]
  | 7 => [.signal, .wait, .aspush]
  | _ => []

/-- The instruction of a class and an operation code; none for an unlisted one. -/
def decodeMnem (cls op : Nat) : Option Mnem := (classMnems cls)[op]?

/-- Word 0 of an instruction (03 R73). -/
def wordBits (i : Shoze) : BitVec 64 :=
  i.imm ++ i.ef ++ BitVec.ofBool i.disj ++ BitVec.ofBool i.dyn ++ BitVec.ofBool i.ast ++ i.sem ++ i.sd ++ i.sb ++ i.sa ++
    BitVec.ofNat 3 i.ds.length ++ i.rm ++ BitVec.ofNat 6 (opCode i.mn).2 ++ BitVec.ofNat 4 (opCode i.mn).1

/-- A descriptor's 128 bits (03 R74). -/
def descBits (d : Desc) : BitVec 128 :=
  0#11 ++ d.aux ++ d.stride ++ d.rowLen ++ 0#8 ++ d.count ++ 0#1 ++ BitVec.ofBool d.sparse ++ BitVec.ofBool d.mask ++
    BitVec.ofBool d.scale ++ d.fmt ++ 0#3 ++ d.base

/-- A descriptor from its 128 bits; a nonzero reserved bit is refused. -/
def decodeDesc (v : BitVec 128) : Option Desc :=
  if v.extractLsb' 21 3 = 0#3 && !v.getLsbD 31 && v.extractLsb' 56 8 = 0#8 && v.extractLsb' 117 11 = 0#11 then
    some { base := v.extractLsb' 0 21, fmt := v.extractLsb' 24 4, scale := v.getLsbD 28, mask := v.getLsbD 29, sparse := v.getLsbD 30,
           count := v.extractLsb' 32 24, rowLen := v.extractLsb' 64 16, stride := v.extractLsb' 80 16, aux := v.extractLsb' 96 21 }
  else none

/-- The bytes of an instruction: word 0, then its descriptors, all little-endian. -/
def encodeShoze (i : Shoze) : List Byte :=
  toLE 8 (wordBits i).toNat ++ (i.ds.map fun d => toLE 16 (descBits d).toNat).flatten

/-- n descriptors from bytes, and what follows them. -/
def decodeDescs : Nat → List Byte → Option (List Desc × List Byte)
  | 0, b => some ([], b)
  | n + 1, b =>
    if b.length < 16 then none
    else match decodeDesc (BitVec.ofNat 128 (leNat (b.take 16))), decodeDescs n (b.drop 16) with
      | some d, some r => some (d :: r.1, r.2)
      | _, _ => none

/-- The instruction at the head of some bytes, and the bytes after it; none for an unlisted class or operation, 5 to 7 descriptors, a
reserved bit of a descriptor, or an end inside it (03 R73, R74, R78). -/
def decodeShoze (b : List Byte) : Option (Shoze × List Byte) :=
  if b.length < 8 then none
  else
    let w := BitVec.ofNat 64 (leNat (b.take 8))
    let nd := (w.extractLsb' 13 3).toNat
    match decodeMnem (w.extractLsb' 0 4).toNat (w.extractLsb' 4 6).toNat, (if 4 < nd then none else decodeDescs nd (b.drop 8)) with
    | some mn, some r =>
      some ({ mn := mn, rm := w.extractLsb' 10 3, sa := w.extractLsb' 16 5, sb := w.extractLsb' 21 5, sd := w.extractLsb' 26 5,
              sem := w.extractLsb' 31 4, ast := w.getLsbD 35, dyn := w.getLsbD 36, disj := w.getLsbD 37, ef := w.extractLsb' 38 2,
              imm := w.extractLsb' 40 24, ds := r.1 }, r.2)
    | _, _ => none

/-- The instructions of some code, back to back; none when one of them does not decode. n bounds their number. -/
def decodeCode : Nat → List Byte → Option (List Shoze)
  | _, [] => some []
  | 0, _ => none
  | n + 1, b =>
    match decodeShoze b with
    | none => none
    | some r => (decodeCode n r.2).map (r.1 :: ·)

/-- The bytes of some instructions, back to back. -/
def encodeCode (l : List Shoze) : List Byte := (l.map encodeShoze).flatten

end Sys2Proof.Machine
end

