-- ==== Sys2Proof/Config.lean ====
section
/-!
DEFINITION. The values the spec leaves open, as constants without a body: no proof can see what they are, so a claim
about the module is true whatever they are (log 6, log 7, log 8, log 10).
-/

namespace Sys2Proof.Config

/-- A free value, applied to the counter State.freeCtr, which every draw advances (log 6). -/
opaque freeNat : Nat → Nat

/-- Thirds of a nanosecond by which CORE_CLK's copy of the time base lags its master, taken modulo 61: at most 20 ns (01 R26; log 13). -/
opaque coreLag : Nat

/-- The FP32 functions of the Trellis away from the points where 04 R126 fixes them, applied to the micro-operation's
opcode and the operand's bits; the same bits for the same input on every run, as R126 says (log 7). -/
opaque fp32Function : Nat → BitVec 32 → BitVec 32

/-- The identifier of a tree of the device's HSS key: how the key comes out of the fused secret is open (11 R322; log 10). -/
opaque hssIdentifier : List (BitVec 8) → Nat → List (BitVec 8)

/-- The start of a hash chain of the device's private key: secret, tree, leaf, chain (11 R322; log 10). -/
opaque hssPrivate : List (BitVec 8) → Nat → Nat → Nat → List (BitVec 8)

/-- The randomiser of a leaf of the device's HSS key (11 R322; log 10). -/
opaque hssRandomiser : List (BitVec 8) → Nat → Nat → List (BitVec 8)

/-- Which kept candidate an OP_SAMPLE row takes when its partial sums are NaN, so that no J of 05 R167 exists (log 36). -/
opaque sampleChoice : List Nat → Nat

/-- The digest of a partial combined in arrival order whose ranks are no single node of the rank tree, or are not known here, applied to the
digests of its inputs: the one digest it carries cannot give the tree's root (05 R147, R177; log 37). -/
opaque arrivalDigest : List (List (BitVec 8)) → List (BitVec 8)

/-- Whether a device of a ring, by its binding record, has all that its predecessor sends for a segment when it holds the nodes with these
tags: no packet field marks the last node (05 R148, R150; log 94). -/
opaque ringGathered : List (BitVec 8) → Nat → List Nat → Bool

/-- Step-buffer bytes that an operator other than the reducing ones declares for a binding record (05 R137; log 38). -/
opaque declaredStepBytes : List (BitVec 8) → Nat

end Sys2Proof.Config
end

