-- ==== Sys2Proof/Machine/Lms.lean ====
section
/-!
DEFINITION. The hash-based signatures of file 11: LMS verification under the boot ROM's key (R313), and the device's two-level HSS key and its
signatures (R322). The algorithms are those of RFC 8554, which both rules name (log 10); how the private key comes out of the fused
secret stays open.
-/

namespace Sys2Proof.Machine

/-- A pair of typecodes and what they stand for: SHA-256, n = m = 32. -/
structure LmsKind where
  /-- LMS typecode -/
  lms : Nat
  /-- LMOTS typecode -/
  ots : Nat
  /-- height of the tree -/
  h : Nat
  /-- bits of a coefficient -/
  w : Nat
  /-- hash chains of a one-time signature -/
  p : Nat
  /-- left shift of the checksum -/
  ls : Nat
  deriving DecidableEq, Repr

/-- LMS_SHA256_M32_H20 with LMOTS_SHA256_N32_W4 (R313). -/
def lmsFirmware : LmsKind := { lms := 8, ots := 3, h := 20, w := 4, p := 67, ls := 4 }

/-- LMS_SHA256_M32_H15 with LMOTS_SHA256_N32_W8 (R322). -/
def lmsDevice : LmsKind := { lms := 7, ots := 4, h := 15, w := 8, p := 34, ls := 0 }

/-- Bytes of a signature. -/
def LmsKind.sigLen (K : LmsKind) : Nat := 12 + 32 * (K.p + 1) + 32 * K.h

/-! ### One-time signatures -/

/-- Coefficient i, of w bits, of a byte string. -/
def lmsCoef (w : Nat) (l : List Byte) (i : Nat) : Nat := (l.getD (i * w / 8) 0#8).toNat / 2 ^ (8 - w - w * (i % (8 / w))) % 2 ^ w

/-- A digest with its checksum behind it. -/
def LmsKind.digits (K : LmsKind) (q : List Byte) : List Byte :=
  q ++ toBE 2 (((List.range (256 / K.w)).map fun i => 2 ^ K.w - 1 - lmsCoef K.w q i).foldl (· + ·) 0 * 2 ^ K.ls)

/-- n links of a hash chain from link j. -/
def lmsChain (pre : List Byte) : Nat → Nat → List Byte → List Byte
  | 0, _, t => t
  | n + 1, j, t => lmsChain pre n (j + 1) (sha256 (pre ++ toBE 1 j ++ t))

/-- What every hash of leaf q begins with, under a tree's identifier. -/
def lmsPrefix (id : List Byte) (q : Nat) : List Byte := id ++ toBE 4 q

/-- The coefficients that a message signed with randomiser c takes at leaf q. -/
def LmsKind.message (K : LmsKind) (id : List Byte) (q : Nat) (c msg : List Byte) : List Byte :=
  K.digits (sha256 (lmsPrefix id q ++ [0x81#8, 0x81#8] ++ c ++ msg))

/-- The one-time public key from the ends of its chains. -/
def lmsOtsKey (id : List Byte) (q : Nat) (ends : List (List Byte)) : List Byte := sha256 (lmsPrefix id q ++ [0x80#8, 0x80#8] ++ ends.flatten)

/-- The one-time public key that a signature (randomiser, then one value per chain) leads to. -/
def LmsKind.otsFrom (K : LmsKind) (id : List Byte) (q : Nat) (ots msg : List Byte) : List Byte :=
  let d := K.message id q (slice ots 0 32) msg
  lmsOtsKey id q ((List.range K.p).map fun i =>
    lmsChain (lmsPrefix id q ++ toBE 2 i) (2 ^ K.w - 1 - lmsCoef K.w d i) (lmsCoef K.w d i) (slice ots (32 + 32 * i) 32))

/-! ### The tree -/

/-- A leaf of the tree. -/
def lmsLeaf (id : List Byte) (node : Nat) (k : List Byte) : List Byte := sha256 (lmsPrefix id node ++ [0x82#8, 0x82#8] ++ k)

/-- An inner node of the tree. -/
def lmsInner (id : List Byte) (node : Nat) (l r : List Byte) : List Byte := sha256 (lmsPrefix id node ++ [0x83#8, 0x83#8] ++ l ++ r)

/-- The root that a path leads to from a node. -/
def lmsClimb (id : List Byte) : List (List Byte) → Nat → List Byte → List Byte
  | [], _, t => t
  | x :: path, n, t => lmsClimb id path (n / 2) (if n % 2 = 1 then lmsInner id (n / 2) x t else lmsInner id (n / 2) t x)

/-- The typecodes of a public key, and its length. -/
def LmsKind.keyOk (K : LmsKind) (key : List Byte) : Bool := key.length == 56 && beNat (key.take 4) == K.lms && beNat (slice key 4 4) == K.ots

/-- The length, typecodes and leaf number of a signature. -/
def LmsKind.sigOk (K : LmsKind) (sig : List Byte) : Bool :=
  sig.length == K.sigLen && decide (beNat (sig.take 4) < 2 ^ K.h) && beNat (slice sig 4 4) == K.ots && beNat (slice sig (40 + 32 * K.p) 4) == K.lms

/-- A signature over a message verifies under a public key (R313, R314). -/
def LmsKind.verifies (K : LmsKind) (key msg sig : List Byte) : Bool :=
  let id := slice key 8 16
  let q := beNat (sig.take 4)
  K.keyOk key && K.sigOk sig &&
    decide (lmsClimb id ((List.range K.h).map fun i => slice sig (44 + 32 * K.p + 32 * i) 32) (2 ^ K.h + q)
      (lmsLeaf id (2 ^ K.h + q) (K.otsFrom id q (slice sig 8 (32 + 32 * K.p)) msg)) = slice key 24 32)

/-! ### Signing -/

/-- A private key of a tree: its identifier, the start of chain i of leaf q, and the randomiser of leaf q. -/
structure LmsPrivate where
  /-- fused secret -/
  secret : List Byte
  /-- number of the tree: 0 the upper one, 1 + t lower tree t -/
  tree : Nat
  deriving DecidableEq, Repr

/-- Identifier of a tree. -/
def LmsPrivate.id (x : LmsPrivate) : List Byte := padTo 16 (Config.hssIdentifier x.secret x.tree)

/-- Start of chain i of leaf q. -/
def LmsPrivate.start (x : LmsPrivate) (q i : Nat) : List Byte := padTo 32 (Config.hssPrivate x.secret x.tree q i)

/-- Randomiser of leaf q. -/
def LmsPrivate.random (x : LmsPrivate) (q : Nat) : List Byte := padTo 32 (Config.hssRandomiser x.secret x.tree q)

/-- The node some levels above the leaves. -/
def LmsKind.node (K : LmsKind) (x : LmsPrivate) : Nat → Nat → List Byte
  | 0, n =>
    let q := n - 2 ^ K.h
    lmsLeaf x.id n (lmsOtsKey x.id q ((List.range K.p).map fun i => lmsChain (lmsPrefix x.id q ++ toBE 2 i) (2 ^ K.w - 1) 0 (x.start q i)))
  | k + 1, n => lmsInner x.id n (LmsKind.node K x k (2 * n)) (LmsKind.node K x k (2 * n + 1))

/-- The public key of a tree. -/
def LmsKind.publicKey (K : LmsKind) (x : LmsPrivate) : List Byte := toBE 4 K.lms ++ toBE 4 K.ots ++ x.id ++ K.node x K.h 1

/-- The signature over a message with leaf q. -/
def LmsKind.sign (K : LmsKind) (x : LmsPrivate) (q : Nat) (msg : List Byte) : List Byte :=
  let d := K.message x.id q (x.random q) msg
  toBE 4 q ++ toBE 4 K.ots ++ x.random q ++
    ((List.range K.p).map fun i => lmsChain (lmsPrefix x.id q ++ toBE 2 i) (lmsCoef K.w d i) 0 (x.start q i)).flatten ++
    toBE 4 K.lms ++ ((List.range K.h).map fun i => K.node x i (((2 ^ K.h + q) / 2 ^ i) ^^^ 1)).flatten

/-- The device's HSS public key, of 60 bytes (R322). -/
def hssPublic (secret : List Byte) : List Byte := padTo 60 (toBE 4 2 ++ lmsDevice.publicKey { secret := secret, tree := 0 })

/-- The HSS signature over a message with an index, of 3,284 bytes: lower tree index / 2^15, leaf index mod 2^15 (R322, R323). -/
def hssSign (secret : List Byte) (index : Nat) (msg : List Byte) : List Byte :=
  let lower : LmsPrivate := { secret := secret, tree := 1 + index / 2 ^ lmsDevice.h }
  let key := lmsDevice.publicKey lower
  padTo 3284 (toBE 4 1 ++ lmsDevice.sign { secret := secret, tree := 0 } (index / 2 ^ lmsDevice.h) key ++ key ++ lmsDevice.sign lower (index % 2 ^ lmsDevice.h) msg)

end Sys2Proof.Machine
end

