-- ==== Sys2Proof/Machine/Num.lean ====
section
/-!
DEFINITION. The number formats and arithmetic rules of file 02 (R39 to R68): exact values as signed dyadics, decoding and
rounding into every format, the IEEE operations, and the comparisons. A code of a format is a Nat below 2^width.
-/

namespace Sys2Proof.Machine

/-- A finite value (-1)^neg * m * 2^e; m = 0 keeps the sign of a zero (R41). -/
structure Dy where
  /-- sign -/
  neg : Bool
  /-- significand -/
  m : Nat
  /-- exponent -/
  e : Int
  deriving DecidableEq, Repr

/-- What a code stands for: a NaN, an infinity or a finite value. -/
inductive Val where
  | nan
  | inf (neg : Bool)
  | fin (d : Dy)
  deriving DecidableEq, Repr

/-- The format of a code of R75; 0xB to 0xF are reserved. -/
def Fmt.ofCode : Nat → Option Fmt
  | 0 => some .fp64 | 1 => some .fp32 | 2 => some .lb16 | 3 => some .lh16 | 4 => some .le4m3 | 5 => some .le5m2
  | 6 => some .le2m3 | 7 => some .le2m1 | 8 => some .ls8 | 9 => some .int8 | 10 => some .int32 | _ => none

/-- Width of a format in bits (R39). -/
def Fmt.width : Fmt → Nat
  | .fp64 => 64 | .fp32 => 32 | .lb16 => 16 | .lh16 => 16 | .le4m3 => 8 | .le5m2 => 8 | .le2m3 => 6 | .le2m1 => 4
  | .ls8 => 8 | .int8 => 8 | .int32 => 32

/-- Mantissa bits of a floating-point format (R39). -/
def Fmt.mant : Fmt → Nat
  | .fp64 => 52 | .fp32 => 23 | .lb16 => 7 | .lh16 => 10 | .le4m3 => 3 | .le5m2 => 2 | .le2m3 => 3 | .le2m1 => 1
  | _ => 0

/-- Exponent bits of a floating-point format (R39). -/
def Fmt.expo : Fmt → Nat
  | .fp64 => 11 | .fp32 => 8 | .lb16 => 8 | .lh16 => 5 | .le4m3 => 4 | .le5m2 => 5 | .le2m3 => 2 | .le2m1 => 2
  | .ls8 => 8 | _ => 0

/-- Bias of a floating-point format (R39). -/
def Fmt.bias : Fmt → Nat
  | .fp64 => 1023 | .fp32 => 127 | .lb16 => 127 | .lh16 => 15 | .le4m3 => 7 | .le5m2 => 15 | .le2m3 => 1 | .le2m1 => 1
  | .ls8 => 127 | _ => 0

/-- INT8 and INT32. -/
def Fmt.isInt : Fmt → Bool
  | .int8 | .int32 => true
  | _ => false

/-- The formats whose all-ones exponent holds Inf and NaN (R39, R40, R43). -/
def Fmt.ieee : Fmt → Bool
  | .fp64 | .fp32 | .lb16 => true
  | _ => false

/-- The saturating floating-point formats (R55). -/
def Fmt.saturating : Fmt → Bool
  | .lh16 | .le4m3 | .le5m2 | .le2m3 | .le2m1 => true
  | _ => false

/-- The canonical quiet NaN (R43, R57); +0 in a format without NaN (R56). -/
def Fmt.nanCode : Fmt → Nat
  | .fp64 => 0x7FF8000000000000 | .fp32 => 0x7FC00000 | .lb16 => 0x7FC0
  | _ => 0

/-- The sign bit of a format, set when neg. -/
def Fmt.signBit (f : Fmt) (neg : Bool) : Nat :=
  if neg then 2 ^ (f.width - 1) else 0

/-- The largest finite code of a floating-point format (R39, R42). -/
def Fmt.maxCode (f : Fmt) : Nat :=
  if f.ieee then (2 ^ f.expo - 1) * 2 ^ f.mant - 1 else 2 ^ (f.expo + f.mant) - 1

/-- The code of +Inf in a format that has one. -/
def Fmt.infCode (f : Fmt) : Nat := (2 ^ f.expo - 1) * 2 ^ f.mant

/-- The integer a two's complement code of w bits stands for. -/
def toSigned (w c : Nat) : Int :=
  let c := c % 2 ^ w
  if c < 2 ^ (w - 1) then (c : Int) else (c : Int) - (2 ^ w : Nat)

/-- The two's complement code of w bits of an integer. -/
def ofSigned (w : Nat) (i : Int) : Nat := (i % ((2 ^ w : Nat) : Int)).toNat

/-- An integer saturated to w bits (R45, R61). -/
def satInt (w : Nat) (i : Int) : Int :=
  max (-((2 ^ (w - 1) : Nat) : Int)) (min (((2 ^ (w - 1) : Nat) : Int) - 1) i)

/-- An integer as an exact value; integers have no -0 (R45). -/
def Dy.ofInt (i : Int) : Dy := { neg := i < 0, m := i.natAbs, e := 0 }

/-- The value of a code (R40, R43, R45). -/
def Fmt.decode (f : Fmt) (c : Nat) : Val :=
  match f with
  | .int8 => .fin (Dy.ofInt (toSigned 8 c))
  | .int32 => .fin (Dy.ofInt (toSigned 32 c))
  | .ls8 => .fin { neg := false, m := 1, e := (c : Int) - 127 }
  | _ =>
    let neg := Nat.testBit c (f.width - 1)
    let ex := c / 2 ^ f.mant % 2 ^ f.expo
    let ma := c % 2 ^ f.mant
    if f.ieee && ex == 2 ^ f.expo - 1 then
      if ma == 0 then .inf neg else .nan
    else if ex == 0 then
      .fin { neg := neg, m := if f = .lb16 then 0 else ma, e := 1 - (f.bias : Int) - f.mant }
    else .fin { neg := neg, m := 2 ^ f.mant + ma, e := (ex : Int) - f.bias - f.mant }

/-- The code is a NaN of its format. -/
def Fmt.isNan (f : Fmt) (c : Nat) : Bool := f.decode c = .nan

/-- Whether the magnitude k, cut off with remainder r of 2^sh, rounds up under rm (R50, R51, R53). -/
def roundsUp (rm : Nat) (draw : Nat) (neg : Bool) (k r sh : Nat) : Bool :=
  match rm with
  | 0 => 2 * r > 2 ^ sh || (2 * r == 2 ^ sh && k % 2 == 1)
  | 1 => decide (2 * r ≥ 2 ^ sh) && decide (r > 0)
  | 3 => decide (r > 0) && !neg
  | 4 => decide (r > 0) && neg
  | 5 => decide (2 ^ 32 * r / 2 ^ sh + draw ≥ 2 ^ 32)
  | _ => false

/-- The magnitude m * 2^e as a multiple of 2^q, rounded under rm. -/
def quantise (rm draw : Nat) (neg : Bool) (m : Nat) (e q : Int) : Nat :=
  if q ≤ e then m * 2 ^ (e - q).toNat
  else
    let sh := (q - e).toNat
    let k := m / 2 ^ sh
    let r := m % 2 ^ sh
    if roundsUp rm draw neg k r sh then k + 1 else k

/-- Whether a result beyond the range of an IEEE format becomes Inf under rm (R55; IEEE 754). -/
def overflowsToInf (rm : Nat) (neg : Bool) : Bool :=
  match rm with
  | 2 => false
  | 3 => !neg
  | 4 => neg
  | _ => true

/-- A finite value converted into a format under rm, rounded once (R51 to R56, R58, R60). draw is used for rm = 0b101 only. -/
def Fmt.roundDy (f : Fmt) (rm draw : Nat) (d : Dy) : Nat :=
  if f.isInt then
    let k : Int := quantise rm draw d.neg d.m d.e 0
    ofSigned f.width (satInt f.width (if d.neg then -k else k))
  else if d.m = 0 then f.signBit d.neg
  else
    let top : Int := (Nat.log2 d.m : Int) + d.e
    let emin : Int := 1 - (f.bias : Int)
    let q : Int := if f = .lb16 then top - f.mant else max (top - f.mant) (emin - f.mant)
    let k := quantise rm draw d.neg d.m d.e q
    if k = 0 then f.signBit d.neg
    else
      let top' : Int := (Nat.log2 k : Int) + q
      if top' < emin then
        if f = .lb16 then f.signBit d.neg else f.signBit d.neg + k
      else
        let ex : Int := top' + f.bias
        let sig := k / 2 ^ (Nat.log2 k - f.mant)
        if f.saturating then
          if ex ≥ (2 ^ f.expo : Nat) then f.signBit d.neg + f.maxCode
          else f.signBit d.neg + ex.toNat * 2 ^ f.mant + (sig - 2 ^ f.mant)
        else if ex ≥ (2 ^ f.expo : Nat) - (1 : Int) then
          if f = .lb16 || overflowsToInf rm d.neg then f.signBit d.neg + f.infCode
          else f.signBit d.neg + f.maxCode
        else f.signBit d.neg + ex.toNat * 2 ^ f.mant + (sig - 2 ^ f.mant)

/-- A value converted into a format under rm (R56). -/
def Fmt.round (f : Fmt) (rm draw : Nat) (v : Val) : Nat :=
  match v with
  | .nan => f.nanCode
  | .inf neg =>
    if f.isInt then ofSigned f.width (if neg then -((2 ^ (f.width - 1) : Nat) : Int) else (2 ^ (f.width - 1) : Nat) - (1 : Int))
    else if f.saturating then f.signBit neg + f.maxCode
    else f.signBit neg + f.infCode
  | .fin d => f.roundDy rm draw d

/-- The rounding encodings a destination format allows (R50). -/
def rmAllowed (f : Fmt) (rm : Nat) : Bool :=
  match rm with
  | 0 => true
  | 1 | 3 | 4 => f = .fp64 || f = .fp32
  | 2 => f = .fp64 || f = .fp32 || f.isInt
  | 5 => f = .lb16 || f.saturating || f = .int8
  | _ => false

/-- The generator's next state, which is also the draw (R53). -/
def xorshift (x : BitVec 32) : BitVec 32 :=
  let x := x ^^^ (x <<< 13)
  let x := x ^^^ (x >>> 17)
  x ^^^ (x <<< 5)

/-- The integer a finite value stands for in units of 2^q, for q at most its exponent. -/
def Dy.units (d : Dy) (q : Int) : Int :=
  let k : Int := (d.m * 2 ^ (d.e - q).toNat : Nat)
  if d.neg then -k else k

/-- Exact sum of two finite values; the sign of a zero sum is IEEE 754's under rm. -/
def Dy.add (rm : Nat) (a b : Dy) : Dy :=
  let q := min a.e b.e
  let t := a.units q + b.units q
  if t = 0 then
    { neg := if a.neg = b.neg then a.neg else rm == 4, m := 0, e := q }
  else { neg := t < 0, m := t.natAbs, e := q }

/-- Exact product of two finite values. -/
def Dy.mul (a b : Dy) : Dy := { neg := a.neg != b.neg, m := a.m * b.m, e := a.e + b.e }

/-- Sum of two values, exact where finite (R57, R58). -/
def Val.add (rm : Nat) : Val → Val → Val
  | .nan, _ => .nan
  | _, .nan => .nan
  | .inf a, .inf b => if a = b then .inf a else .nan
  | .inf a, .fin _ => .inf a
  | .fin _, .inf b => .inf b
  | .fin a, .fin b => .fin (a.add rm b)

/-- A value with its sign changed; a NaN stays a NaN. -/
def Val.negate : Val → Val
  | .nan => .nan
  | .inf a => .inf (!a)
  | .fin d => .fin { d with neg := !d.neg }

/-- The magnitude of a value; a NaN stays a NaN. -/
def Val.abs : Val → Val
  | .nan => .nan
  | .inf _ => .inf false
  | .fin d => .fin { d with neg := false }

/-- Product of two values, exact where finite. -/
def Val.mul : Val → Val → Val
  | .nan, _ => .nan
  | _, .nan => .nan
  | .inf a, .inf b => .inf (a != b)
  | .inf a, .fin d => if d.m = 0 then .nan else .inf (a != d.neg)
  | .fin d, .inf a => if d.m = 0 then .nan else .inf (a != d.neg)
  | .fin a, .fin b => .fin (a.mul b)

/-- Quotient of two finite values with a sticky last bit, to more bits than any format rounds to. -/
def Dy.div (a b : Dy) : Dy :=
  let s := 140 + Nat.log2 b.m - Nat.log2 a.m
  let n := a.m * 2 ^ s
  let q := n / b.m
  { neg := a.neg != b.neg, m := 2 * q + (if n % b.m = 0 then 0 else 1), e := a.e - b.e - s - 1 }

/-- Quotient of two values (IEEE 754). -/
def Val.div : Val → Val → Val
  | .nan, _ => .nan
  | _, .nan => .nan
  | .inf _, .inf _ => .nan
  | .inf a, .fin d => .inf (a != d.neg)
  | .fin d, .inf a => .fin { neg := d.neg != a, m := 0, e := 0 }
  | .fin a, .fin b =>
    if b.m = 0 then (if a.m = 0 then .nan else .inf (a.neg != b.neg))
    else .fin (a.div b)

/-- Integer square root by bits: the largest r with r * r at most n, below 2^(k) steps above r. -/
def isqrtFrom (n : Nat) : Nat → Nat → Nat
  | 0, r => r
  | k + 1, r => if (r + 2 ^ k) * (r + 2 ^ k) ≤ n then isqrtFrom n k (r + 2 ^ k) else isqrtFrom n k r

/-- Integer square root. -/
def isqrt (n : Nat) : Nat := isqrtFrom n (Nat.log2 n / 2 + 1) 0

/-- Square root of a value (IEEE 754), with a sticky last bit. -/
def Val.sqrt : Val → Val
  | .nan => .nan
  | .inf neg => if neg then .nan else .inf false
  | .fin d =>
    if d.m = 0 then .fin d
    else if d.neg then .nan
    else
      let s := 260 - Nat.log2 d.m
      let s := if (d.e - s) % 2 = 0 then s else s + 1
      let n := d.m * 2 ^ s
      let r := isqrt n
      .fin { neg := false, m := 2 * r + (if r * r = n then 0 else 1), e := (d.e - s) / 2 - 1 }

/-- Order of two finite values as numbers. -/
def Dy.lt (a b : Dy) : Bool :=
  let q := min a.e b.e
  a.units q < b.units q

/-- Equality of two finite values as numbers. -/
def Dy.eq (a b : Dy) : Bool :=
  let q := min a.e b.e
  a.units q == b.units q

/-- a precedes b in the total order of R65, in which -0 precedes +0 and NaN is greatest. -/
def Val.before : Val → Val → Bool
  | .nan, _ => false
  | _, .nan => true
  | .inf a, .inf b => a && !b
  | .inf a, .fin _ => a
  | .fin _, .inf b => !b
  | .fin a, .fin b => a.lt b || (a.m == 0 && b.m == 0 && a.neg && !b.neg)

/-- IEEE equality; a NaN equals nothing. -/
def Val.ieeeEq : Val → Val → Bool
  | .inf a, .inf b => a == b
  | .fin a, .fin b => a.eq b
  | _, _ => false

/-- IEEE less-than; false with a NaN. -/
def Val.ieeeLt : Val → Val → Bool
  | .nan, _ => false
  | _, .nan => false
  | .inf a, .inf b => a && !b
  | .inf a, .fin _ => a
  | .fin _, .inf b => !b
  | .fin a, .fin b => a.lt b

/-- Maximum under R66: NaN if either is NaN, else the greater in the order of R65. -/
def Val.maxR (a b : Val) : Val :=
  if a = .nan || b = .nan then .nan else if a.before b then b else a

/-- Minimum under R66. -/
def Val.minR (a b : Val) : Val :=
  if a = .nan || b = .nan then .nan else if b.before a then b else a

/-- The value of an element under a block scale e (R48): e = 0xFF reads as +0. -/
def scaled (e : Nat) (v : Val) : Val :=
  if e = 0xFF then .fin { neg := false, m := 0, e := 0 }
  else match v with
    | .fin d => .fin { d with e := d.e + (e : Int) - 127 }
    | v => v

/-- Short formats widened exactly to FP32, with overflow of a scaled element to Inf (R59). -/
def widen32 (f : Fmt) (e : Nat) (c : Nat) : Nat :=
  if f = .fp32 then c else Fmt.fp32.round 0 0 (scaled e (f.decode c))

/-- The magnitude m * 2^x at most num/den. -/
def dyAtMost (m : Nat) (x : Int) (num den : Nat) : Bool :=
  if 0 ≤ x then decide (m * 2 ^ x.toNat * den ≤ num) else decide (m * den ≤ num * 2 ^ (-x).toNat)

/-- The largest finite value of a block-scaled format as a fraction (R49). -/
def blockMax : Fmt → Nat × Nat
  | .le2m1 => (6, 1)
  | .le2m3 => (15, 2)
  | _ => (480, 1)

/-- Smallest scale from e upwards, within n steps, that brings the magnitude under the format's largest value. -/
def leastScale (f : Fmt) (m : Nat) (x : Int) : Nat → Nat → Nat
  | 0, e => e
  | n + 1, e => if dyAtMost m (x + 127 - e) (blockMax f).1 (blockMax f).2 then e else leastScale f m x n (e + 1)

/-- The greater of two finite magnitudes. -/
def Dy.maxMag (a b : Dy) : Dy :=
  if Dy.lt { a with neg := false } { b with neg := false } then { b with neg := false } else { a with neg := false }

/-- The scale chosen for a block from its results (R49). -/
def chooseScale (f : Fmt) (vs : List Val) : Nat :=
  let big := vs.foldl (fun (acc : Dy) v => match v with | .fin d => acc.maxMag d | _ => acc) { neg := false, m := 0, e := 0 }
  if big.m = 0 then 0x7F else leastScale f big.m big.e 254 0

/-- One element of a block-scaled destination under scale e: x * 2^(127 - e), converted under rm (R49). -/
def toScaled (f : Fmt) (rm draw e : Nat) (v : Val) : Nat :=
  if e = 0xFF then 0
  else match v with
    | .fin d => f.round rm draw (.fin { d with e := d.e + 127 - (e : Int) })
    | v => f.round rm draw v

/-- One step of the Harrow's accumulation (R62): exact sum, rounded once to FP32. -/
def accFp32 (acc : Option Nat) (p : Val) : Option Nat :=
  match acc with
  | none => some (Fmt.fp32.round 0 0 p)
  | some a => some (Fmt.fp32.round 0 0 (Val.add 0 (Fmt.fp32.decode a) p))

/-- The identity of an empty reduction (R67); op as in R129: 0 sum, 1 product, 2 max, 3 min, 4 argmax, 5 argmin, 6 count, 7 any. -/
def identityOf (f : Fmt) (op : Nat) : Nat :=
  match op with
  | 1 => f.round 0 0 (.fin { neg := false, m := 1, e := 0 })
  | 2 => if f.isInt then ofSigned f.width (-((2 ^ (f.width - 1) : Nat) : Int)) else if f.ieee then f.signBit true + f.infCode else f.signBit true + f.maxCode
  | 3 => if f.isInt then 2 ^ (f.width - 1) - 1 else if f.ieee then f.infCode else f.maxCode
  | 4 | 5 => 0xFFFFFFFF
  | _ => 0

/-- One pairwise combination of a reduction, rounded once to the accumulation format f (R64, R66); integers saturate (R61). -/
def combine (f : Fmt) (op : Nat) (a b : Nat) : Nat :=
  if f.isInt then
    let x := toSigned f.width a
    let y := toSigned f.width b
    ofSigned f.width (satInt f.width (match op with | 0 => x + y | 1 => x * y | 2 => max x y | _ => min x y))
  else
    let x := f.decode a
    let y := f.decode b
    f.round 0 0 (match op with | 0 => Val.add 0 x y | 1 => Val.mul x y | 2 => Val.maxR x y | _ => Val.minR x y)

/-- Accumulation format of a reduction over a source format (R64). -/
def accFmt : Fmt → Fmt
  | .fp64 => .fp64
  | .int8 | .int32 => .int32
  | _ => .fp32

/-- One level of the lane tree of R64: neighbours combine, an empty side passes the other up. -/
def treeLevel (g : Nat → Nat → Nat) : List (Option Nat) → List (Option Nat)
  | a :: b :: rest =>
    (match a, b with
      | some x, some y => some (g x y)
      | some x, none => some x
      | none, y => y) :: treeLevel g rest
  | l => l

/-- The elements of lane l of 32, in ascending index. -/
def laneOf (l : Nat) (xs : List (Nat × Option Nat)) : List Nat :=
  xs.filterMap fun p => if p.1 % 32 = l then p.2 else none

/-- Reduction over the present elements of a vector in the order of R64; none when no element is present. -/
def treeReduce (g : Nat → Nat → Nat) (xs : List (Option Nat)) : Option Nat :=
  let ix := (List.range xs.length).zip xs
  let lanes := (List.range 32).map fun l =>
    match laneOf l ix with
    | [] => none
    | x :: rest => some (rest.foldl g x)
  let up := treeLevel g (treeLevel g (treeLevel g (treeLevel g (treeLevel g lanes))))
  up.headD none

end Sys2Proof.Machine
end

