-- ==== Sys2Proof/Machine/State.lean ====
section
/-!
DEFINITION. The state of the module as plain data: every register, buffer, queue, counter, mode and pin the spec gives it,
and the queue of waiting commands; its faults and refusals; and its state at reset. INVENTORY.md lists each field with the
rule of spec/ that names it. Every structure's default value is its value at reset; a sparse map lists only what differs
from what an unlisted key reads as (the functions of Machine/Ops.lean named default...).
-/

namespace Sys2Proof.Machine

/-- Supply and reset phase of the module (15 R391 to R394). -/
inductive PowerPhase where
  | off | converters | held | running
  deriving DecidableEq, Repr

/-- DEV_STATE.state (10 R285), in the order of its codes. -/
inductive DevState where
  | booting | ready | wedged | isolated | noFirmware
  deriving DecidableEq, Repr

/-- Who sent a command: a ring, a MGMT packet with its header bytes and sequence number (10 R305), or a ring that PERST_N took away, so
that its record is discarded (13 R357). -/
inductive CmdSrc where
  | ring (r : Nat)
  | mgmt (hdr : List Byte) (seq : Nat)
  | gone
  deriving DecidableEq, Repr

/-- A command fetched and not yet finished (10 R290, R294, R366). -/
structure Cmd where
  /-- the model's number for it, in fetch order -/
  id : Nat := 0
  /-- where it came from -/
  src : CmdSrc := .ring 0
  /-- opcode -/
  opcode : Nat := 0
  /-- the barrier flag -/
  barrier : Bool := false
  /-- tag -/
  tag : Nat := 0
  /-- parameter record -/
  params : List Byte := []
  /-- the processor that serves it has taken it up -/
  taken : Bool := false
  /-- progress of a command that takes several steps: words it keeps -/
  work : List Nat := []
  deriving DecidableEq, Repr

/-- A finished command's record, waiting to be written (10 R288, R291). -/
structure Done where
  /-- command number -/
  id : Nat := 0
  /-- where the record goes -/
  src : CmdSrc := .ring 0
  /-- status code of R292 -/
  status : Nat := 0
  /-- opcode -/
  opcode : Nat := 0
  /-- tag -/
  tag : Nat := 0
  /-- result words -/
  words : List Nat := []
  /-- time it finished, in thirds -/
  stamp : Nat := 0
  deriving DecidableEq, Repr

/-- A device event waiting to be written (10 R301). -/
structure Event where
  /-- completion ring -/
  ring : Nat := 0
  /-- event code -/
  code : Nat := 0
  /-- status code -/
  status : Nat := 0
  /-- words -/
  words : List Nat := []
  deriving DecidableEq, Repr

/-- An outstanding COLL_POST command (10 R299). -/
structure Post where
  /-- command number -/
  cmd : Nat := 0
  /-- slot -/
  slot : Nat := 0
  /-- 0 contribution, 1 counts, 2 result request -/
  kind : Nat := 0
  /-- member rank -/
  rank : Nat := 0
  /-- step number -/
  step : Nat := 0
  /-- host address for results -/
  outAddr : Nat := 0
  /-- bytes available there -/
  outLen : Nat := 0
  /-- highest offset written -/
  high : Nat := 0
  /-- chunks of the answer held: twice the index, plus one where the chunk carried the last flag -/
  got : List Nat := []
  /-- length needed, once a chunk has passed out_len -/
  need : Option Nat := none
  deriving DecidableEq, Repr

/-- The completion position latched at the acceptance of DEV_WARM_RESET (13 R359). -/
structure Latch where
  /-- host address of the record -/
  addr : Nat := 0
  /-- phase bit -/
  phase : Nat := 0
  /-- MSI-X vector -/
  vector : Nat := 0
  /-- the DEV_WARM_RESET that it is latched for -/
  cmd : Nat := 0
  /-- ring -/
  ring : Nat := 0
  /-- tag -/
  tag : Nat := 0
  deriving DecidableEq, Repr

/-- A packet held by the device (06 R178, R191, R192). -/
structure Pkt where
  /-- header and payload -/
  bytes : List Byte := []
  /-- scheduler port of arrival -/
  inPort : Nat := 0
  /-- sub-channel it arrived in -/
  sc : Nat := 0
  /-- slot to whose reservation its cells are charged; none: to its arrival class -/
  slot : Option Nat := none
  /-- Tiller that sent it, for a packet from port 37 -/
  sender : Option Nat := none
  /-- cells taken from each quadrant -/
  cells : List Nat := [0, 0, 0, 0]
  /-- stream queue it was linked onto -/
  queue : Nat := 0
  /-- output scheduler port -/
  outPort : Nat := 0
  /-- sub-channel it leaves in -/
  outSc : Nat := 0
  /-- time base when its last byte was received, in ns -/
  stamp : Nat := 0
  /-- FAB_CLK cycle in which its last byte was received, plus one -/
  rxCyc : Nat := 0
  /-- Tiller the steering table names, for port 37 -/
  steer : Nat := 0
  /-- command or unit the device built it for (the model's own): a post's command number plus one, or 0 -/
  origin : Nat := 0
  deriving DecidableEq, Repr

/-- A packet of a Tiller waiting for port 37's class (06 R202). -/
structure SendItem where
  /-- header and payload -/
  bytes : List Byte := []
  /-- issue cycle of the MV_SEND it belongs to; none for a packet of a lane or service operation -/
  issue : Option Nat := none
  deriving DecidableEq, Repr

/-- A notice waiting to be sent (07 R221, 10 R304, 13 R361). -/
structure Notice where
  /-- payload of R304 -/
  payload : List Byte := []
  /-- route field -/
  route : List Byte := []
  /-- virtual channel -/
  vc : Nat := 0
  /-- tag -/
  tag : Nat := 0
  deriving DecidableEq, Repr

/-- A context teardown in progress (13 R363). -/
structure Tear where
  /-- command to complete; none for the teardown of a warm reset -/
  cmd : Option Nat := none
  /-- step reached: 1, or 4 once the writes are awaited -/
  step : Nat := 1
  /-- time the step began, in thirds -/
  since : Nat := 0
  deriving DecidableEq, Repr

/-- What a stream is held by (03 R86, R89). -/
inductive Hold where
  | none
  | wait (sem : Nat)
  | fence
  | stepEnd
  | halt
  deriving DecidableEq, Repr

/-- What a Tiller is held for. -/
inductive TRole where
  | free | ctx | store | selftest | shadow
  deriving DecidableEq, Repr

/-- Run state of a Tiller (03 R90, 10 R296, 13 R349). -/
inductive TRun where
  | free | loaded | running | halted | stopped | faulted
  deriving DecidableEq, Repr

/-- The fault that stopped a Tiller (03 R90, 13 R347). -/
structure FaultInfo where
  /-- fault code of 10 R302 -/
  code : Nat := 0
  /-- engine code -/
  engine : Nat := 0
  /-- Almanac sequence number of its record -/
  seq : Nat := 0
  deriving DecidableEq, Repr

/-- A reset of engines of one Tiller, or of the whole Tiller (13 R347 to R354). -/
structure ResetInfo where
  /-- engines to reset; 7 names the whole Tiller -/
  engines : List Nat := []
  /-- fault code that caused it, 0 when the host asked -/
  cause : Nat := 0
  /-- the sample is still to be written -/
  sample : Bool := false
  /-- sequence number of the fault record the sample belongs to -/
  faultSeq : Option Nat := none
  /-- sequence number of the sample -/
  sampleSeq : Option Nat := none
  /-- start of the reset in thirds; none while the sample is awaited -/
  start : Option Nat := none
  /-- escalated from a lower reset -/
  escalated : Bool := false
  /-- a restart follows -/
  restart : Bool := false
  /-- ENGINE_RESET commands that complete with it -/
  cmds : List Nat := []
  /-- sequence number of the last reset record written for it -/
  recSeq : Option Nat := none
  deriving DecidableEq, Repr

/-- Link states of 09 R267, in the order of their codes. -/
inductive LinkState where
  | down | laneLock | deskew | discovery | active | loop | isolated | held
  deriving DecidableEq, Repr

/-- States of a collective slot (05 R134), in the order of their codes. -/
inductive SlotState where
  | free | bound | faulted
  deriving DecidableEq, Repr

/-- A Seedbank request that waits for a rebuild (08 R242). -/
structure SbReq where
  /-- command that made it; none for a Tiller's request -/
  cmd : Option Nat := none
  /-- Tiller that made it -/
  tiller : Nat := 0
  /-- owner -/
  owner : Nat := 0
  /-- pool -/
  pool : Nat := 0
  /-- list asked for, 15 for any -/
  list : Nat := 15
  /-- zero the buffer -/
  zero : Bool := false
  /-- list number it waits for -/
  on : Nat := 0
  /-- the place in the queue of a row that takes buffers for itself (the model's own) -/
  mark : Bool := false
  deriving DecidableEq, Repr

/-- A warm reset accepted (13 R358). -/
structure Warm where
  /-- command number of DEV_WARM_RESET -/
  cmd : Nat := 0
  /-- t0 in thirds, once reached -/
  t0 : Option Nat := none
  /-- time of acceptance in thirds -/
  accepted : Nat := 0
  /-- forwarding has resumed -/
  resumed : Bool := false
  deriving DecidableEq, Repr

/-- An isolation or restore of a MGMT quorum command that waits for its reply to leave (11 R329). -/
structure IsoPend where
  /-- command number -/
  cmd : Nat := 0
  /-- action: 1 port isolate, 2 port restore, 3 device isolate, 4 device restore -/
  action : Nat := 0
  /-- port -/
  port : Nat := 0
  /-- time the store was written, in thirds -/
  since : Nat := 0
  /-- the reply has left -/
  left : Bool := false
  deriving DecidableEq, Repr

/-- What the device answered to a BAR access (10 R281, R282, 01 R30). -/
inductive BarReply where
  | none
  | data (bytes : List Byte)
  | accepted
  | completerAbort
  deriving DecidableEq, Repr


/-- A RESULT packet of a kept commit buffer (05 R154). -/
structure RPkt where
  /-- segment -/
  seg : Nat := 0
  /-- chunk index -/
  chunk : Nat := 0
  /-- flags [3:0] of the prefix -/
  flags : Nat := 0
  /-- data -/
  data : List Byte := []
  deriving DecidableEq, Repr

/-- The routing record of an OP_MOE_DISPATCH step (05 R169): per source rank and token, the experts in selection order with their
weights and whether they accepted the token. -/
structure Routing where
  /-- step -/
  num : Nat := 0
  /-- source rank, then one entry per token: expert, weight, accepted -/
  ranks : List (Nat × List (List (Nat × (Nat × Bool)))) := []
  deriving DecidableEq, Repr
/-- Clock: the clocks of the module (R12, R23, R25, R26); one idle step is a third of a nanosecond (log 1, log 18). -/
structure Clock where
  /-- 00 R9: thirds of a nanosecond since the cold reset was released -/
  third : Nat := 0
  /-- 01 R26: phase of FABREF within its 6.4 ns period, in fifths of a third -/
  fabrefAcc : Nat := 0
  /-- 01 R26: FABREF cycles since the cold reset was released; the time base is floor(6.4 x this) ns -/
  fabref : Nat := 0
  /-- 07 R212: FAB_CLK cycles (1,500 MHz) since the cold reset was released -/
  fab : Nat := 0
  /-- 01 R25: phase of CORE_CLK, in units of 1/3000 of a cycle -/
  coreAcc : Nat := 0
  /-- 03 R93: CORE_CLK cycles since the cold reset was released (mesh frames are 256 of them) -/
  core : Nat := 0
  /-- 14 R377, R388: CORE_CLK in MHz -/
  coreMHz : Nat := 1700
  /-- 14 R385: cycle number modulo 4 within the clock-stop pattern of the ladder -/
  gate : Nat := 0
  deriving DecidableEq, Repr

/-- Sensors: the latest sensor readings (R368). -/
structure Sensors where
  /-- 13 R368: junction temperatures of the switch die and compute dies 0 to 3, in 1/16 C -/
  tDie : List Int := [400, 400, 400, 400, 400]
  /-- 13 R368: coolant inlet temperature in 1/16 C -/
  tIn : Int := 400
  /-- 13 R368: coolant outlet temperature in 1/16 C -/
  tOut : Int := 400
  /-- 13 R368: coolant flow in mL/min -/
  flow : Nat := 4000
  /-- 13 R368: input voltage in 10 mV -/
  vIn : Nat := 7200
  /-- 13 R368: input current in 10 mA -/
  iIn : Nat := 0
  /-- 13 R368: domain powers in 0.25 W (a missing entry reads 0) -/
  pDom : List Nat := []
  deriving DecidableEq, Repr

/-- Power: input power, resets, switched domains, Mulch and the throttle ladder (files 14, 15). -/
structure Power where
  /-- 15 R391, R392: off, converters running, cold reset held, or running -/
  phase : PowerPhase := .running
  /-- 15 R392: PWR_OK pin -/
  pwrOk : Bool := true
  /-- 15 R392: MOD_RST_N pin -/
  modRstN : Bool := true
  /-- 15 R392: earliest time in thirds since which PWR_OK, MOD_RST_N and FABREF may all be good, while the cold reset is held -/
  readySince : Option Nat := none
  /-- 01 R16, 14 R375: switched domain n is on -/
  domOn : SMap Bool := []
  /-- 14 R375: time since which a turn-on of domain n has been requested -/
  domReq : SMap (Option Nat) := []
  /-- 14 R375: time since which domain n is turning off -/
  domOff : SMap (Option Nat) := []
  /-- 14 R375: time since which domain n has held no live state -/
  domIdle : SMap Nat := []
  /-- 14 R388: MULCH_CFG: ramp 10, cap 2400, tau 300, i_limit 42, min_step 17 -/
  mulchCfg : BitVec 64 := 0x046A_0000_12C9_600A#64
  /-- 14 R388: PWR_KEEP_OFF -/
  keepOff : BitVec 64 := 0#64
  /-- 14 R379, R388: floor_w of PWR_FLOOR -/
  floorW : Nat := 0
  /-- 14 R376: A, the module power Mulch allows, in W -/
  allowA : Rat := 0
  /-- 14 R381: p_lag; none until the first tick after a cold reset or an FWP-PWR restart -/
  pLag : Option Rat := none
  /-- 14 R376, R388: W, the warm-keeping load in W -/
  warmW : Rat := 0
  /-- 14 R376, R383: cap in force in W -/
  cap : Rat := 2400
  /-- 14 R376, R382: p_th at the latest tick -/
  pTh : Rat := 0
  /-- 14 R376: p_e at the latest tick -/
  pE : Rat := 0
  /-- 14 R388: MULCH_STATUS.derating -/
  derating : Bool := false
  /-- 14 R388: MULCH_STATUS.floor_short -/
  floorShort : Bool := false
  /-- 14 R383: ramp_over_ms -/
  rampOverMs : Nat := 0
  /-- 14 R383: floor_short_ms -/
  floorShortMs : Nat := 0
  /-- 14 R376: time of the next Mulch tick, ns -/
  nextTick : Nat := 0
  /-- 14 R383: time base at the latest tick -/
  tickTime : Nat := 0
  /-- 14 R387: the next tick first sets A to the measured p_e -/
  setAToPe : Bool := true
  /-- 14 R377, 12 R335: CORE_CLK request that waits (MULCH_STATUS.held) -/
  clkReq : Option Nat := none
  /-- 14 R377: CORE_CLK step in progress: new MHz and start time -/
  clkStep : Option (Nat × Nat) := none
  /-- 14 R382: thermal energy counter, mJ -/
  heat : Rat := 0
  /-- 14 R382: electrical energy counter, mJ -/
  elec : Rat := 0
  /-- 14 R382: warm-keeping energy counter, mJ -/
  warmE : Rat := 0
  /-- 14 R382: time of the next energy integration, ns -/
  nextInt : Nat := 0
  /-- 14 R383: sum of p_th over the samples of the current telemetry window -/
  winSum : Rat := 0
  /-- 14 R383: samples of p_th in the current telemetry window -/
  winN : Nat := 0
  /-- 14 R383: window_p_th, mean p_th over the last complete window -/
  winPth : Rat := 0
  /-- 14 R385, R388: rung of the throttle ladder -/
  rung : Nat := 0
  /-- 14 R384, R388: emergency causes in force -/
  causes : BitVec 5 := 0#5
  /-- 14 R384: causes whose last sample lay beyond the threshold -/
  beyond : BitVec 5 := 0#5
  /-- 14 R384: causes whose second consecutive sample lay beyond the threshold -/
  due : BitVec 5 := 0#5
  /-- 14 R384: time since which every value has stayed inside its release limit -/
  insideSince : Option Nat := none
  /-- 14 R384: time of the next comparator sample, ns -/
  nextSample : Nat := 0
  /-- 14 R385: time of the last climb or descent, ns -/
  rungAt : Nat := 0
  /-- 14 R385: time the emergency began -/
  emStart : Nat := 0
  /-- 14 R385: causes of the emergency in progress -/
  emMask : BitVec 5 := 0#5
  /-- 14 R385: highest rung of the emergency in progress -/
  emRung : Nat := 0
  /-- 14 R385: extreme junction temperature of the emergency -/
  emTj : Int := 0
  /-- 14 R385: extreme input voltage of the emergency -/
  emVin : Nat := 0
  /-- 13 R368: latest sensor readings -/
  sens : Sensors := {}
  deriving DecidableEq, Repr

/-- Part: what is fused or strapped for the life of the part (R2 to R4, R284, R321). -/
structure Part where
  /-- 00 R4: serial number, ASCII -/
  serial : List Byte := [76, 75, 88, 65, 48, 48, 48, 52, 49, 49, 56, 55]
  /-- 10 R284: 0 LKX-3600-A, 1 LKX-3600-B -/
  grade : Nat := 0
  /-- 00 R2: Harrow fuse map -/
  fuse : BitVec 192 := BitVec.allOnes 192
  /-- 11 R321: fused minimum security version -/
  svMin : Nat := 0
  /-- 11 R313: the firmware public key in the boot ROM; empty, it reads as its typecodes and zeros -/
  romKey : List Byte := []
  /-- 11 R322: secret fused at manufacture; empty, it reads as zeros -/
  secret : List Byte := []
  /-- 11 R322: leaf of the manufacturing key that signed the device certificate -/
  certLeaf : Nat := 0
  /-- 11 R322: one-time signature of the device certificate: randomiser and chains -/
  certOts : List Byte := []
  /-- 11 R322: tree path of the device certificate's signature -/
  certPath : List Byte := []
  deriving DecidableEq, Repr

/-- Dev: device registers (R285, R201, R231, R346) and device-wide state. -/
structure Dev where
  /-- 01 R35: DEV_MODE -/
  mode : BitVec 32 := 1#32
  /-- 10 R285: DEV_STATE.state -/
  state : DevState := .booting
  /-- 10 R285: DEV_STATE.fwp_up -/
  fwpUp : BitVec 5 := 0#5
  /-- 10 R285: DEV_STATE.emergency -/
  emergency : Bool := false
  /-- 10 R284: FW_VER -/
  fwVer : BitVec 32 := 0#32
  /-- 10 R284: FW_DIGEST (empty reads as 32 zero bytes) -/
  fwDigest : List Byte := []
  /-- 11 R313: translator version of the running image -/
  translator : List Byte := [0, 0, 0]
  /-- 01 R30: BAR4_WINDOW -/
  bar4Window : BitVec 32 := 0#32
  /-- 10 R285: DEV_EVENT_CFG -/
  eventCfg : BitVec 32 := 0#32
  /-- 08 R231: SCRUB_CFG -/
  scrubCfg : BitVec 64 := 0x0000_0E10_000A_0003#64
  /-- 06 R201: GLEANER_CFG -/
  gleanerCfg : BitVec 32 := 0x0000_400A#32
  /-- 10 R285: HRX_BASE -/
  hrxBase : BitVec 64 := 0#64
  /-- 10 R285: HRX_CFG -/
  hrxCfg : BitVec 32 := 0x40#32
  /-- 10 R285: HRX_TAIL -/
  hrxTail : BitVec 32 := 0#32
  /-- 10 R285: HRX_HEAD -/
  hrxHead : BitVec 32 := 0#32
  /-- 10 R285: MGMT_CFG -/
  mgmtCfg : BitVec 64 := 0x3F_FFFF_FFFF#64
  /-- 13 R346: WDOG_CFG -/
  wdogCfg : BitVec 32 := 0x0104_07D0#32
  /-- 15 R397: BOARD_ID as last sampled -/
  boardId : BitVec 6 := 0#6
  /-- 07 R223: telemetry window length in force, us -/
  telLen : Nat := 1000
  /-- 07 R223: window length from the next boundary -/
  telNext : Nat := 1000
  /-- 07 R223: end of the current telemetry window, ns -/
  telEnd : Nat := 1000000
  /-- 13 R358: the warm reset in progress -/
  warm : Option Warm := none
  /-- 11 R329: isolation of a MGMT quorum command waiting for its reply to leave -/
  isoPend : Option IsoPend := none
  /-- 15 R392: the host PCIe link is trained -/
  pcieUp : Bool := false
  /-- 15 R392: PERST_N pin -/
  perstN : Bool := false
  /-- 10 R279: lanes that the host port's link partner brings up -/
  pcieWidth : Nat := 16
  /-- 10 R279: PCIe generation at which the host port trains: 6, 5 or 4 -/
  pcieGen : Nat := 6
  /-- 15 R396: FABREF is present -/
  fabrefOk : Bool := true
  /-- 13 R368: cold resets since power-up, modulo 256 -/
  bootCnt : Nat := 0
  /-- 15 R399: instruction in force in the TAP -/
  tapInst : TapInst := .idcode
  /-- 15 R398: management protocol: none not chosen, false SMBus, true I3C -/
  mgProto : Option Bool := none
  /-- 15 R398: management target address -/
  mgAddr : Nat := 0x3C
  /-- 15 R398: management status block as last refreshed -/
  mgBlock : List Byte := []
  /-- 15 R398: time of the next refresh, ns -/
  mgNext : Nat := 0
  /-- 15 R398: what the last management read returned (none: NACK) -/
  mgOut : Option (List Byte) := none
  /-- 10 R282, 01 R30: what the device answered to the last BAR access -/
  barOut : BarReply := .none
  deriving DecidableEq, Repr

/-- Ring: one ring register set (R286) and its doorbells. -/
structure Ring where
  /-- 10 R286: CMD_RING_BASE -/
  cmdBase : BitVec 64 := 0#64
  /-- 10 R286: CPL_RING_BASE -/
  cplBase : BitVec 64 := 0#64
  /-- 10 R286: RING_CFG -/
  cfg : BitVec 32 := 0#32
  /-- 10 R286: RING_STATUS.enabled -/
  enabled : Bool := false
  /-- 10 R286: RING_STATUS.error -/
  error : Bool := false
  /-- 10 R286: RING_STATUS.cause -/
  cause : Nat := 0
  /-- 10 R286: CMD_HEAD -/
  cmdHead : BitVec 32 := 0#32
  /-- 10 R286: CPL_TAIL -/
  cplTail : BitVec 32 := 0#32
  /-- 10 R281, R287: last CMD_TAIL doorbell value -/
  tailDb : BitVec 32 := 0#32
  /-- 10 R281, R288: last CPL_HEAD doorbell value -/
  headDb : BitVec 32 := 0#32
  /-- 10 R289: time of the first record not yet signalled -/
  unsig : Option Nat := none
  /-- 10 R301: events lost for want of space, not yet reported -/
  evLost : Nat := 0
  deriving DecidableEq, Repr

/-- HostIf: rings, commands, events, interrupts, posts and host memory as the device has written it. -/
structure HostIf where
  /-- 10 R286: ring register sets -/
  rings : SMap Ring := []
  /-- 10 R287, R294: commands fetched and not yet reported, oldest first -/
  cmds : List Cmd := []
  /-- 10 R288, R294: records of finished commands waiting to be written, in completion order -/
  dones : List Done := []
  /-- 10 R287: number given to the next command fetched -/
  nextId : Nat := 0
  /-- 10 R301: device events waiting for space -/
  events : List Event := []
  /-- 10 R294, R299: outstanding COLL_POST commands -/
  posts : List Post := []
  /-- 10 R288, R293: host memory as the device has written it -/
  mem : Memory := []
  /-- 10 R283: MSI-X table, one entry per dword -/
  msix : SMap (BitVec 32) := []
  /-- 10 R283: MSI-X pending bits -/
  pba : SMap Bool := []
  /-- 10 R289: MSI-X messages sent, per vector -/
  sent : SMap Nat := []
  /-- 13 R359: completion position latched for the DEV_WARM_RESET record -/
  latched : Option Latch := none
  /-- 10 R299, R22: packets of host commands waiting for port 36's classes to admit them -/
  admitQ : List Pkt := []
  /-- 10 R288: completion records written, per ring (all enables) -/
  stats : SMap Nat := []
  deriving DecidableEq, Repr

/-- Ctx: one context (R134, R297, R363). -/
structure Ctx where
  /-- 10 R296: the context exists -/
  live : Bool := false
  /-- 10 R297: completion ring of its events -/
  ring : Nat := 0
  /-- 10 R296: diagnostic flag -/
  diag : Bool := false
  /-- 03 R80: an image is loaded -/
  loaded : Bool := false
  /-- 03 R81: started and neither stopped nor done -/
  started : Bool := false
  /-- 10 R297: CTX_START has run -/
  everStarted : Bool := false
  /-- 10 R296: CTX_STOPs in progress: command number and deadline (thirds) -/
  stops : List (Nat × Nat) := []
  /-- 13 R363: teardown in progress -/
  tear : Option Tear := none
  /-- 03 R72: Tillers of the image, ascending -/
  tillers : List Nat := []
  /-- 03 R72: image level -/
  level : Nat := 2
  /-- 08 R236: Seedbank minima of pools 0 to 4 -/
  minima : List Nat := [0, 0, 0, 0, 0]
  /-- 10 R298: steering bytes -/
  steering : List Nat := []
  /-- 10 R298: stream queues taken over as owner 2 -/
  queues : List Nat := []
  /-- 10 R298: route declarations -/
  routes : List (List Byte) := []
  /-- 10 R298: program-image digest -/
  digest : List Byte := []
  /-- 12 R338: determinism signature -/
  signature : BitVec 64 := 0#64
  /-- 13 R349: Seedbank buffers holding the loader's copy -/
  copies : List Nat := []
  /-- 03 R93: mesh link-cycles reserved: link and cycle within the frame -/
  meshSlots : List (Nat × Nat) := []
  /-- 10 R297: CTX_DONE has been sent since the start -/
  doneSent : Bool := false
  deriving DecidableEq, Repr

/-- Cvu: the check-value unit (R95 to R98). -/
structure Cvu where
  /-- 03 R95: algorithm selected -/
  alg : Option Nat := none
  /-- 03 R98: CRC register before xorout; Fletcher sums in the low 32 bits -/
  reg : BitVec 64 := 0#64
  /-- 03 R98: SHA-256 hash words -/
  hash : List (BitVec 32) := []
  /-- 03 R98: bytes held towards the next block or word -/
  held : List Byte := []
  /-- 03 R98: bytes fed since CV_INIT -/
  length : Nat := 0
  /-- 03 R96: cycle at which the compression in progress ends -/
  busyUntil : Nat := 0
  deriving DecidableEq, Repr

/-- MicroProg: one Trellis micro-program slot (R120). -/
structure MicroProg where
  /-- 04 R120: stages -/
  stages : Nat := 0
  /-- 04 R120: initiation interval -/
  ii : Nat := 0
  /-- 04 R120: result micro-operation -/
  out : Nat := 0
  /-- 04 R120: constants k0 to k5 -/
  ks : List (BitVec 32) := []
  /-- 04 R121: micro-operations -/
  ops : List (BitVec 32) := []
  deriving DecidableEq, Repr

/-- Entry: one hazard-checker entry with what the instruction still has to write (R89). -/
structure Entry where
  /-- 03 R89: Shoze index -/
  index : Nat := 0
  /-- 03 R89: engine code -/
  engine : Nat := 0
  /-- 03 R82: the instruction, descriptor 0 with its dynamic base -/
  inst : Shoze := {}
  /-- 03 R85: async: claims until the WAIT -/
  async : Bool := false
  /-- 03 R82: issue cycle -/
  issue : Nat := 0
  /-- 03 R82: first cycle in which the result may be read (sync) -/
  done : Nat := 0
  /-- 03 R89: source footprints, first and last word -/
  srcs : List (Nat × Nat) := []
  /-- 03 R89: destination footprints, first and last word -/
  dsts : List (Nat × Nat) := []
  /-- 04 R101: source footprints named by a sparse metadata header, in force from the cycle after the issue -/
  headSrcs : List (Nat × Nat) := []
  /-- 04 R101: destination footprints named by a sparse metadata header -/
  headDsts : List (Nat × Nat) := []
  /-- 03 R89: scalar destinations not yet written -/
  regs : List Nat := []
  /-- 03 R82: values to be written to them, when fixed at issue -/
  vals : List (BitVec 32) := []
  /-- 04 R122: s[sa] (and s[sa+1]) read at issue -/
  sa : BitVec 64 := 0#64
  /-- 04 R122: s[sb] (and s[sb+1]) read at issue -/
  sb : BitVec 64 := 0#64
  /-- 02 R54: generator as this instruction finds it -/
  gen : BitVec 32 := 0#32
  /-- 03 R88: row addresses taken from the address stream (the byte address of an SPLD or SPST) -/
  rows : List Nat := []
  /-- 03 R88: cycles between two rows' addresses -/
  every : Nat := 0
  /-- 03 R85: the transfer or computation has completed -/
  finished : Bool := false
  /-- 03 R85: its completion signal has been delivered -/
  signalled : Bool := false
  /-- 03 R85: a WAIT has retired for it -/
  waited : Bool := false
  /-- 03 R93: mesh slot phase -/
  phase : Nat := 0
  /-- 03 R92: cycle at which the mesh slot started -/
  started : Option Nat := none
  /-- 06 R202: MV_SEND: handed over to the shared buffer -/
  admitted : Bool := false
  /-- 03 R94: MV_MRECV or MV_RECV claim: matched with a transfer or packet -/
  arrived : Bool := false
  /-- 06 R202: words in flight or packet bytes -/
  data : List Byte := []
  /-- 06 R202: packet being handed over to the shared buffer -/
  pkt : Option Pkt := none
  /-- 03 R94: MV_MRECV claim: sending Tiller and issue cycle of the transfer matched with it -/
  peer : Option (Nat × Nat) := none
  /-- 04 R125: micro-program of a TR_MAP as it found it at issue -/
  prog : MicroProg := {}
  deriving DecidableEq, Repr

/-- StreamSt: one issue stream of a Tiller (R78, R87). -/
structure StreamSt where
  /-- 03 R78: index issued next -/
  pc : Nat := 0
  /-- 03 R86: what the stream is held by -/
  hold : Hold := .none
  /-- 03 R82: first cycle in which it may issue again -/
  next : Nat := 0
  /-- 13 R344: time of the last issue (thirds) -/
  prog : Nat := 0
  /-- 03 R87: the stream has reached HALT -/
  halted : Bool := false
  /-- 03 R87: the stream exists in this mode -/
  on : Bool := false
  deriving DecidableEq, Repr

/-- BalCopy: the loader's balanced copy of one sparse operand, in scratchpad it reserves (R114). -/
structure BalCopy where
  /-- 03 R89: Shoze index of the instruction that reads it -/
  index : Nat := 0
  /-- 04 R114: first byte of the copy, its header -/
  head : Nat := 0
  /-- 04 R114: first byte of its values -/
  values : Nat := 0
  /-- 04 R114: the copy's bytes from its header on -/
  bytes : List Byte := []
  /-- 04 R114: each split tile row, its number of chunks and the first byte of its FP32 partials -/
  splits : List (Nat × Nat × Nat) := []
  deriving DecidableEq, Repr

/-- TImage: the loader's copy of one Tiller's initial contents (R298, R349). -/
structure TImage where
  /-- 03 R72: Shoze code -/
  code : List Shoze := []
  /-- 10 R298: 0 unified, 1 per-engine -/
  mode : Nat := 0
  /-- 10 R298: stochastic-rounding seed -/
  seed : Option (BitVec 32) := none
  /-- 10 R298: DMEM contents -/
  dmem : List Byte := []
  /-- 10 R298: scratchpad segments -/
  segs : List (Nat × List Byte) := []
  /-- 10 R298: per-engine entry indices -/
  entries : List Nat := []
  /-- 04 R125: recorded stages and ii per TR_MAP index -/
  progs : List (Nat × (Nat × Nat)) := []
  /-- 03 R93: slot phase per MV_MESH index -/
  phases : List (Nat × Nat) := []
  /-- 10 R298, 04 R114: scratchpad bytes the program and the loader's copies use -/
  spUsed : Nat := 0
  /-- 04 R114: balanced copies, by instruction -/
  copies : List BalCopy := []
  deriving DecidableEq, Repr

/-- Tiller: one Tiller (R69). -/
structure Tiller where
  /-- 03 R80: context it belongs to -/
  ctx : Option Nat := none
  /-- 08 R243: free, context, prefix store, self-test or shadow -/
  owner : TRole := .free
  /-- 03 R90: free, loaded, running, halted, stopped, faulted or resetting -/
  run : TRun := .free
  /-- 03 R87: 0 unified, 1 per-engine -/
  mode : Nat := 0
  /-- 13 R349: the loader's copy -/
  img : TImage := {}
  /-- 03 R81: CORE_CLK cycle that is cycle 0 of RDCYC -/
  startCyc : Nat := 0
  /-- 03 R71: s1 to s31 -/
  regs : SMap (BitVec 32) := []
  /-- 03 R71: data memory -/
  dmem : Memory := []
  /-- 03 R70: scratchpad -/
  sp : Memory := []
  /-- 01 R32: scratchpad words found uncorrectable -/
  spUe : List Nat := []
  /-- 01 R32: words of data memory found uncorrectable -/
  dmUe : List Nat := []
  /-- 01 R32: instructions whose words in instruction memory are uncorrectable -/
  imUe : List Nat := []
  /-- 03 R87: issue streams, by engine code -/
  streams : SMap StreamSt := []
  /-- 03 R78: return stack, top first -/
  rstack : List Nat := []
  /-- 03 R86: semaphore counts -/
  sems : SMap Nat := []
  /-- 03 R86: increments not yet visible: semaphore and cycle of issue -/
  semInc : List (Nat × Nat) := []
  /-- 03 R88: address-stream FIFOs of engines 1 to 4 -/
  fifos : SMap (List (BitVec 32)) := []
  /-- 02 R53: stochastic-rounding generator -/
  gen : BitVec 32 := 1#32
  /-- 04 R120: micro-program slots (stages 0: empty) -/
  progs : SMap MicroProg := []
  /-- 03 R82: first cycle in which engine e accepts its next instruction -/
  busy : SMap Nat := []
  /-- 03 R89: hazard-checker entries, in issue order -/
  checker : List Entry := []
  /-- 03 R79: Mover receive queue -/
  recvQ : List Pkt := []
  /-- 06 R202: packets waiting for port 37's class (MV_SEND and replies of firmware-run Tillers) -/
  sendQ : List SendItem := []
  /-- 03 R95: check-value unit -/
  cvu : Cvu := {}
  /-- 10 R296: stop at the next STEP_END or HALT -/
  stopReq : Bool := false
  /-- 13 R347: the fault that stopped it -/
  fault : Option FaultInfo := none
  /-- 13 R349, R350: engine or Tiller reset in progress -/
  reset : Option ResetInfo := none
  /-- 13 R344: time of the last progress event of engine e (thirds) -/
  engProg : SMap Nat := []
  /-- 14 R385: per engine: a time of last progress, and the thirds in which CORE_CLK has stood since -/
  wdSkip : SMap (Nat × Nat) := []
  /-- 13 R345: time the last watchdog exemption of its control core ended (thirds) -/
  exemptEnd : Nat := 0
  /-- 13 R371: STEP_ENDs retired since the start -/
  stepNo : Nat := 0
  deriving DecidableEq, Repr

/-- Shaper: one token-bucket shaper (R212). -/
structure Shaper where
  /-- 07 R212: SHAPER_CFG -/
  cfg : BitVec 64 := 0#64
  /-- 07 R212: T, in 2^-16 counted bytes -/
  tokens : Int := 0
  /-- 07 R214: it has held tokens -/
  ever : Bool := false
  deriving DecidableEq, Repr

/-- Policer: one policer (R215). -/
structure Policer where
  /-- 07 R216: POLICER_CFG -/
  cfg : BitVec 128 := 0#128
  /-- 07 R215: Tc -/
  tc : Int := 0
  /-- 07 R215: Tp -/
  tp : Int := 0
  /-- 07 R214: its mode has been nonzero since the cold reset -/
  ever : Bool := false
  deriving DecidableEq, Repr

/-- SqCfg: SQ_CFG of one stream queue (R206). -/
structure SqCfg where
  /-- 07 R206: scheduler port -/
  port : Nat := 0
  /-- 07 R206: VC -/
  vc : Nat := 0
  /-- 07 R206: bound -/
  inUse : Bool := false
  /-- 07 R206: stream-level weight -/
  weight : Nat := 1
  /-- 07 R206: owner -/
  owner : Nat := 0
  /-- 07 R206: vc7_hop -/
  hop : Nat := 0
  /-- 07 R206: context or slot number -/
  ownerId : Nat := 0
  deriving DecidableEq, Repr

/-- Drr: deficit round robin entry (R210). -/
structure Drr where
  /-- 07 R210: deficit in counted bytes -/
  deficit : Nat := 0
  /-- 07 R210: grant flag -/
  granted : Bool := false
  deriving DecidableEq, Repr

/-- Slice: one forwarding slice (R195, R199). -/
structure Slice where
  /-- 06 R199: early-drop generator; 0 before the entropy source seeds it -/
  gen : BitVec 32 := 0#32
  /-- 06 R195: decision queue -/
  dq : List Pkt := []
  /-- 06 R195: credit withheld since the queue reached 448 -/
  holding : Bool := false
  deriving DecidableEq, Repr

/-- Fabric: shared buffer, queues, meters, steering and notices (files 06, 07). -/
structure Fabric where
  /-- 07 R207: SQ_MAP base and log2_size of (p, v) at 8p + v -/
  sqMap : SMap (Nat × Nat) := []
  /-- 07 R206: SQ_CFG -/
  sqCfg : SMap SqCfg := []
  /-- 07 R206: packets of each stream queue, head first -/
  sq : SMap (List Pkt) := []
  /-- 07 R212: stream shapers -/
  strShaper : SMap Shaper := []
  /-- 07 R212, R213: service shapers -/
  svcShaper : SMap Shaper := []
  /-- 07 R212: port shapers -/
  portShaper : SMap Shaper := []
  /-- 07 R216: policers -/
  policer : SMap Policer := []
  /-- 06 R199: RED_PROFILE n, colour c at 4n + c -/
  red : SMap (BitVec 64) := []
  /-- 06 R199: average depth of (p, v), 8 fraction bits -/
  redAvg : SMap Nat := []
  /-- 06 R192: BUF_CLASS_CFG min_cells and max_cells at 16p + c -/
  bufCfg : SMap (Nat × Nat) := []
  /-- 06 R192: cells charged to class 16p + c -/
  classUse : SMap Nat := []
  /-- 06 R193: cells set aside for grants of class 16p + c -/
  setAside : SMap Nat := []
  /-- 06 R191: free cells of each quadrant (log 9) -/
  quadFree : List Nat := [196608, 196608, 196608, 196608]
  /-- 06 R191: quadrant that gives the next cell -/
  quadTurn : Nat := 0
  /-- 06 R195: forwarding slices -/
  slices : SMap Slice := []
  /-- 06 R185: route table -/
  routes : SMap (List Byte) := []
  /-- 01 R20: injection steering table: context c sub-stream u at 16c + u, slot n at 4096 + 16n + u -/
  steer : SMap (Option Nat) := []
  /-- 07 R209: packet a scheduler port is transmitting -/
  txPkt : SMap (Option Pkt) := []
  /-- 07 R210: VC-level deficits, at 8p + v -/
  drrVc : SMap Drr := []
  /-- 07 R210: stream-level deficits -/
  drrSq : SMap Drr := []
  /-- 07 R210: VC served last by port p -/
  lastVc : SMap Nat := []
  /-- 07 R210: stream queue served last by (p, v) -/
  lastSq : SMap Nat := []
  /-- 01 R20: packets on their way over a die bridge, with the Tiller steered to -/
  transit : List (Nat × Pkt) := []
  /-- 06 R179: management mailbox of FWP-CMD -/
  mailbox : List Pkt := []
  /-- 07 R221: notices waiting to be sent -/
  notices : List Notice := []
  /-- 13 R361: contexts and levels a FAULT_NOTICE has been sent for in this window -/
  noticed : List (Nat × Nat) := []
  /-- 06 R204: q_peak of (p, v) -/
  qPeak : SMap Nat := []
  /-- 06 R205: ROUTE_RANK and EPOCH_STALE drops of port p in this window, at 2p and 2p + 1 -/
  winDrops : SMap Nat := []
  /-- 07 R222: FAB_CLK cycle, plus one, of the last turn taken, and that turn's place in the order of a cycle -/
  turn : Nat × Nat := (0, 0)
  /-- 06 R201: packets whose cells nothing reaches, and the passes that found them -/
  stranded : List (Pkt × Nat) := []
  /-- 06 R201: time the next Gleaner pass is due, ns -/
  gleanNext : Nat := 10000000
  /-- 06 R201: a pass is running -/
  gleaning : Bool := false
  /-- 06 R194: cells charged to each slot's reservation -/
  slotUse : SMap Nat := []
  /-- 13 R352: electrical port group resets in progress, with their start (thirds) -/
  groupReset : SMap (Option Nat) := []
  /-- 13 R358: forwarding suspended by a warm reset -/
  drainPause : Bool := false
  deriving DecidableEq, Repr

/-- Link: one fabric port's link layer (file 09). -/
structure Link where
  /-- 09 R267: PORT_LINK_STATUS.state -/
  state : LinkState := .down
  /-- 09 R270: down_reason -/
  reason : Nat := 0
  /-- 09 R276: tx_map -/
  txMap : BitVec 8 := 0#8
  /-- 09 R276: rx_map -/
  rxMap : BitVec 8 := 0#8
  /-- 09 R276: loop mode -/
  loop : Nat := 0
  /-- 09 R275: loop pattern -/
  pattern : Nat := 0
  /-- 09 R276: peer_changed -/
  peerChanged : Bool := false
  /-- 09 R269: identity and port number last seen -/
  lastPeer : Option (List Byte) := none
  /-- 09 R269: discovery flit bytes 2 to 23 last received -/
  disc : List Byte := []
  /-- 10 R296: time of the last entry to ACTIVE -/
  activeAt : Nat := 0
  /-- 09 R261: E -/
  expect : BitVec 12 := 0#12
  /-- 09 R261: awaiting a resend -/
  awaiting : Bool := false
  /-- 09 R261: naks_for_E -/
  naks : Nat := 0
  /-- 09 R261: start of the replay timer, thirds -/
  replayAt : Nat := 0
  /-- 09 R256: a NAK is pending for the next slot -/
  nakPend : Bool := false
  /-- 09 R256: a pause change is pending for the next slot -/
  pausePend : Bool := false
  /-- 09 R257: next new sequence number -/
  seq : BitVec 12 := 0#12
  /-- 09 R262: retry buffer, oldest first -/
  retry : List (BitVec 12 × List Byte) := []
  /-- 09 R262: flits to be resent before new ones -/
  resend : List (BitVec 12 × List Byte) := []
  /-- 09 R256: slot number s since the start of the stripe -/
  slot : Nat := 0
  /-- 09 R262: latest ack_next received -/
  ackSeen : BitVec 12 := 0#12
  /-- 09 R264: grant[c] sent to the peer -/
  grantTx : SMap (BitVec 16) := []
  /-- 09 R264: G_c -/
  grantRx : SMap (BitVec 16) := []
  /-- 09 R264: U_c -/
  used : SMap (BitVec 16) := []
  /-- 09 R264: packets received in class c since the stripe start -/
  rxCnt : SMap Nat := []
  /-- 09 R265: pause_us this side sends -/
  pauseTx : Nat := 0
  /-- 09 R265: since when the peer has paused this side -/
  pausedAt : Option Nat := none
  /-- 09 R265: when the pause ends -/
  pauseEnd : Nat := 0
  /-- 09 R263: time of the last good control flit -/
  lastCtl : Nat := 0
  /-- 09 R258: next_map -/
  nextMap : BitVec 8 := 0#8
  /-- 09 R258: switch_after of the change in progress -/
  switchAfter : Nat := 0
  /-- 09 R258: drop_req this side sends -/
  dropReq : BitVec 8 := 0#8
  /-- 09 R271: lane-map change the peer has announced, with the slots left to it -/
  rxNext : Option (BitVec 8 × Nat) := none
  /-- 09 R260: bytes of the packet being received -/
  rxBuf : List Byte := []
  /-- 09 R266: stream bytes still to be discarded -/
  rxSkip : Nat := 0
  /-- 09 R266: the packet being received is to be discarded once its length is known -/
  rxDrop : Bool := false
  /-- 09 R256: bytes of the packet being sent, not yet in a flit -/
  txBuf : List Byte := []
  /-- 09 R264: packets whose first byte is in txBuf: where, and their class -/
  txStarts : List (Nat × Nat) := []
  /-- 09 R255: scrambler of each transmit lane: the last 58 bits sent, the latest at the top -/
  txScr : SMap (BitVec 58) := []
  /-- 09 R255: descrambler of each receive lane: the last 58 bits received -/
  rxScr : SMap (BitVec 58) := []
  /-- 09 R255: blocks of the latest slot: lane, and sync header + 4 × scrambled payload -/
  txBlocks : List (Nat × Nat) := []
  /-- 09 R256: number of the next slot received since the start of the stripe -/
  rxSlot : Nat := 0
  /-- 09 R256: the flit of the latest slot -/
  lastFlit : List Byte := []
  /-- 09 R268: lanes block-locked -/
  locked : BitVec 8 := 0#8
  /-- 09 R268: lanes aligned by the training block counter -/
  inLine : BitVec 8 := 0#8
  /-- 09 R268: counter of the last training block received on each lane -/
  laneCtr : SMap (Option Nat) := []
  /-- 09 R268: index of the next training block sent -/
  trainIdx : Nat := 0
  /-- 09 R268: rx_locked last reported by the peer -/
  peerLocked : BitVec 8 := 0#8
  /-- 09 R268: consecutive training blocks with an unchanged rx_locked -/
  trainRx : Nat := 0
  /-- 09 R268: training blocks sent reporting an unchanged mask -/
  trainTx : Nat := 0
  /-- 09 R274: lanes the equaliser table marks unusable -/
  laneBad : BitVec 8 := 0#8
  /-- 09 R269: a discovery flit has been received -/
  peerSeen : Bool := false
  /-- 09 R269: a discovery flit with peer_seen = 1 has been received -/
  seenSeen : Bool := false
  /-- 09 R269: discovery flits sent with peer_seen = 1 since then -/
  sent16 : Nat := 0
  /-- 09 R267: time of entry to the current state (thirds) -/
  since : Nat := 0
  /-- 09 R268: time of entry to LANE_LOCK (thirds) -/
  lockAt : Nat := 0
  /-- 09 R267: held for LASER_LOW -/
  heldLaser : Bool := false
  /-- 09 R267: held for NO_EQ -/
  heldEq : Bool := false
  /-- 09 R267: held for POWER -/
  heldPower : Bool := true
  /-- 13 R344: time the last transmit slot started (thirds) -/
  slotAt : Nat := 0
  /-- 09 R266: link-layer engine reset in progress since -/
  resetAt : Option Nat := none
  /-- 13 R352: fault code of that reset -/
  resetFault : Nat := 0
  /-- 09 R271: end of the current sync-error window, ns -/
  winEnd : Nat := 1000000000
  /-- 09 R271: invalid sync headers of each lane in that window, seen in blocks -/
  winErr : SMap Nat := []
  /-- 09 R275: lanes aligned in a PRBS31 check -/
  aligned : BitVec 8 := 0#8
  /-- 09 R275: lanes that have lost alignment in a PRBS31 check -/
  lost : BitVec 8 := 0#8
  /-- 13 R354: ENGINE_RESET commands that complete with the reset in progress -/
  cmds : List Nat := []
  deriving DecidableEq, Repr

/-- Port: one scheduler port's registers (R283). -/
structure Port where
  /-- 06 R187: PORT_RANK.rank -/
  rank : Nat := 0
  /-- 06 R199: PORT_VC_RED -/
  vcRed : BitVec 64 := 0#64
  /-- 07 R210: PORT_WDRR w_1 to w_7 -/
  wdrr : List Nat := [16, 16, 16, 16, 16, 16, 16]
  /-- 07 R211: PORT_SCHED_CFG.overhead -/
  overhead : Int := 0
  /-- 07 R211: PORT_SCHED_CFG.trust -/
  trust : Bool := false
  /-- 09 R276: PORT_LINK_CFG.enable -/
  enable : Bool := true
  /-- 09 R276: PORT_LINK_CFG.spare_enable -/
  spare : Bool := true
  /-- 09 R276: PORT_LINK_CFG.lane_err_limit -/
  errLimit : Nat := 16
  /-- 09 R267: link layer (fabric ports) -/
  link : Link := {}
  deriving DecidableEq, Repr

/-- Engine9: one optical engine (R254, R277). -/
structure Engine9 where
  /-- 09 R254: feeds below +11 dBm -/
  feedLow : BitVec 2 := 0#2
  /-- 09 R277: power of each feed wavelength, at 4f + w -/
  power : SMap Int := []
  deriving DecidableEq, Repr

/-- Ctrl: one memory controller or CXL port for scrub (R231). -/
structure Ctrl where
  /-- 08 R231: line scrubbed next -/
  line : Nat := 0
  /-- 08 R231: words (address / 32) waiting to be written back corrected -/
  back : List Nat := []
  /-- 08 R231: start of the current pass, ns -/
  passAt : Nat := 0
  deriving DecidableEq, Repr

/-- Cxl: one CXL host port (R227 to R229). -/
structure Cxl where
  /-- 08 R229: the port is up -/
  up : Bool := false
  /-- 08 R228: mapped capacity U in bytes -/
  cap : Nat := 0
  /-- 08 R229: capacity of the last time it was up -/
  lastCap : Option Nat := none
  /-- 08 R229: held down until a cold reset -/
  heldDown : Bool := false
  /-- 15 R392: its reference clock is present -/
  refOk : Bool := true
  /-- 15 R392: CXn_PERST_N -/
  perstN : Bool := false
  /-- 15 R392: time its domain and reference became good, ns -/
  clearAt : Nat := 0
  deriving DecidableEq, Repr

/-- MemTier: GDDR7 and the CXL tier (file 08). -/
structure MemTier where
  /-- 01 R27: memory contents -/
  bytes : Memory := []
  /-- 01 R32: words (address / 32) known uncorrectable -/
  ue : List Nat := []
  /-- 01 R33: words (address / 32) whose stored copy has a single-bit error -/
  ce : List Nat := []
  /-- 08 R231: scrub state: 0 to 23 controllers, 24 and 25 CXL ports -/
  ctrls : SMap Ctrl := []
  /-- 08 R227: CXL host ports -/
  cxl : SMap Cxl := []
  deriving DecidableEq, Repr

/-- SbEntry: one Seedbank entry (R235). -/
structure SbEntry where
  /-- 08 R235: state bit -/
  alloc : Bool := false
  /-- 08 R235: quarantine bit -/
  quar : Bool := false
  /-- 08 R235: owner -/
  owner : Nat := 0x3FF
  /-- 08 R235: slot mark -/
  slot : Option Nat := none
  deriving DecidableEq, Repr

/-- SbList: one pool list (R233, R235, R242). -/
structure SbList where
  /-- 08 R237: buffers pushed, head first -/
  pushed : List Nat := []
  /-- 08 R233: first buffer of the run never popped -/
  fresh : Nat := 0
  /-- 08 R229: emptied because its CXL port is down -/
  drained : Bool := false
  /-- 08 R235: rebuilding -/
  rebuilding : Bool := false
  deriving DecidableEq, Repr

/-- Seedbank: the buffer pools (file 08). -/
structure Seedbank where
  /-- 08 R233: n_k of die d at 4k + d -/
  counts : SMap Nat := []
  /-- 08 R235: state memory, at list x 2^22 + i -/
  entries : SMap SbEntry := []
  /-- 08 R233: lists: 4k + d, and 16 + c for pool 4 -/
  lists : SMap SbList := []
  /-- 08 R236: m(o, k) at 8o + k -/
  minima : SMap Nat := []
  /-- 08 R242: requests waiting for a rebuild, in arrival order -/
  waiting : List SbReq := []
  /-- 08 R242: header words (address / 32) of never-popped free buffers that a write has gone over -/
  touched : List Nat := []
  deriving DecidableEq, Repr

/-- Stream: one input stream of a step (R142). -/
structure Stream where
  /-- 05 R141: packet kind -/
  kind : Nat := 1
  /-- 05 R140: rank field -/
  rank : Nat := 0
  /-- 05 R140: tag -/
  tag : Nat := 0
  /-- 05 R140: segment -/
  seg : Nat := 0
  /-- 05 R148: neighbour it came from -/
  nbr : Option Nat := none
  /-- 05 R173: scheduler port it arrived on -/
  port : Nat := 0
  /-- 05 R142: chunks held: index, place in the arrival order, data -/
  chunks : List (Nat × (Nat × List Byte)) := []
  /-- 05 R142: indices of the chunks that carried the last flag -/
  ends : List Nat := []
  /-- 05 R140: rank field of the packets -/
  slow : Nat := 0
  /-- 05 R173: stamp of the packet with the last flag -/
  stamp : Nat := 0
  /-- 05 R177: node digest -/
  digest : List Byte := []
  deriving DecidableEq, Repr

/-- StepSt: one step of a slot (R152). -/
structure StepSt where
  /-- 05 R140: step number -/
  num : Nat := 0
  /-- 05 R155: time of the first accepted packet (thirds) -/
  start : Nat := 0
  /-- 05 R143: input streams -/
  streams : List Stream := []
  /-- 05 R153: replays so far -/
  replays : Nat := 0
  /-- 05 R157: COUNT_REPLY has been sent -/
  counted : Bool := false
  /-- 05 R148: nodes sent onward: segment and tag; a RESULT passed on round the ring as tag 65,536 -/
  sentNodes : List (Nat × Nat) := []
  /-- 05 R157: local ranks whose counts this device has sent to its neighbours (OP_FILTER) -/
  counting : List Nat := []
  deriving DecidableEq, Repr

/-- Commit: a kept commit buffer (R154). -/
structure Commit where
  /-- 05 R154: step number -/
  num : Nat := 0
  /-- 05 R154: RESULT packets per recipient (rank, or 4096 + neighbour) -/
  outs : List (Nat × List RPkt) := []
  /-- 05 R154: the commit buffer was lost -/
  lost : Bool := false
  deriving DecidableEq, Repr

/-- OldMember: a member-table entry that COLL_SUBSTITUTE has replaced (R175), with its counters. -/
structure OldMember where
  /-- 05 R136: scheduler port -/
  port : Nat := 0
  /-- 05 R136: first global token index -/
  base : Nat := 0
  /-- 05 R136: route to the member -/
  route : List Byte := []
  /-- 05 R175: first step in which this entry held the rank -/
  since : Nat := 0
  /-- 05 R174: times_last -/
  timesLast : Nat := 0
  /-- 05 R174: lateness -/
  lateness : Nat := 0
  deriving DecidableEq, Repr

/-- Member: one member-table entry (R136) with its counters (R174). -/
structure Member where
  /-- 05 R136: rank -/
  rank : Nat := 0
  /-- 05 R136: scheduler port -/
  port : Nat := 0
  /-- 05 R136: first global token index -/
  base : Nat := 0
  /-- 05 R136: route to the member -/
  route : List Byte := []
  /-- 05 R175: first step in which this entry holds the rank -/
  since : Nat := 0
  /-- 05 R174: times_last -/
  timesLast : Nat := 0
  /-- 05 R174: lateness -/
  lateness : Nat := 0
  /-- 05 R175: the entries replaced, the latest first -/
  old : List OldMember := []
  deriving DecidableEq, Repr

/-- Nbr: one neighbour-table entry (R136) with its counters. -/
structure Nbr where
  /-- 05 R136: role -/
  role : Nat := 0
  /-- 05 R136: nbr_slot -/
  slot : Nat := 0
  /-- 05 R136: rank_lo -/
  lo : Nat := 0
  /-- 05 R136: rank_hi -/
  hi : Nat := 0
  /-- 05 R136: nbr_gen -/
  gen : Nat := 0
  /-- 05 R136: route -/
  route : List Byte := []
  /-- 05 R174: times_last -/
  timesLast : Nat := 0
  /-- 05 R174: lateness -/
  lateness : Nat := 0
  deriving DecidableEq, Repr

/-- Binding: the binding record (R135), parsed. -/
structure Binding where
  /-- 05 R135: op -/
  op : Nat := 0
  /-- 05 R135: vc -/
  vc : Nat := 4
  /-- 05 R135: weight -/
  weight : Nat := 1
  /-- 05 R135: group_size -/
  gsize : Nat := 1
  /-- 05 R135: local_count -/
  nloc : Nat := 0
  /-- 05 R135: in_fmt -/
  inFmt : Nat := 0
  /-- 05 R135: out_fmt -/
  outFmt : Nat := 0
  /-- 05 R135: red -/
  redOp : Nat := 0
  /-- 05 R135: rm -/
  rm : Nat := 0
  /-- 05 R135: chunk_words -/
  cw : Nat := 1
  /-- 05 R135: depth -/
  depth : Nat := 1
  /-- 05 R135: lanes -/
  lanes : Nat := 1
  /-- 05 R135: xtopo -/
  xtopo : Nat := 0
  /-- 05 R135: n_max -/
  nmax : Nat := 1
  /-- 05 R135: step_timeout -/
  tmo : Nat := 0
  /-- 05 R135: context -/
  ctx : Nat := 0
  /-- 05 R135: flags -/
  flags : Nat := 0
  /-- 05 R135: root -/
  root : Nat := 0
  /-- 05 R135: nbr_count -/
  nnbr : Nat := 0
  /-- 05 R135: param0 -/
  p0 : Nat := 0
  /-- 05 R135: param1 -/
  p1 : Nat := 0
  /-- 05 R135: param2 -/
  p2 : Nat := 0
  /-- 05 R135: pair_slot -/
  pair : Nat := 0
  /-- 05 R135: gen -/
  gen : Nat := 0
  /-- 05 R135: ring_pos -/
  ringPos : Nat := 0
  /-- 05 R135: ring_size -/
  ringSize : Nat := 0
  /-- 05 R135: the record as written -/
  raw : List Byte := []
  deriving DecidableEq, Repr

/-- Slot: one collective slot (R134). -/
structure Slot where
  /-- 05 R134: FREE, BOUND or FAULTED -/
  state : SlotState := .free
  /-- 05 R135: binding record -/
  bind : Binding := {}
  /-- 05 R137: gen of the last binding since the cold reset -/
  prevGen : Option Nat := none
  /-- 05 R136: member table -/
  members : List Member := []
  /-- 05 R136: neighbour table -/
  nbrs : List Nbr := []
  /-- 05 R137: lane Tillers -/
  laneTs : List Nat := []
  /-- 05 R137: cells reserved -/
  cells : Nat := 0
  /-- 05 R137: stream queues held: port and queue -/
  queues : List (Nat × Nat) := []
  /-- 05 R137: Seedbank step buffers -/
  bufs : List Nat := []
  /-- 05 R137: step-buffer bytes -/
  bufBytes : Nat := 0
  /-- 05 R143: step after the last committed -/
  sLow : Nat := 0
  /-- 05 R152: uncommitted steps -/
  steps : List StepSt := []
  /-- 05 R154: commit buffers kept -/
  kept : List Commit := []
  /-- 05 R173: straggler records, newest first -/
  strag : List (List Byte) := []
  /-- 05 R143: protocol drops -/
  proto : BitVec 64 := 0#64
  /-- 05 R143: window drops -/
  window : BitVec 64 := 0#64
  /-- 05 R143: duplicate drops -/
  dup : BitVec 64 := 0#64
  /-- 05 R169: gate drops -/
  gateDrop : BitVec 64 := 0#64
  /-- 05 R169: capacity drops -/
  capDrop : BitVec 64 := 0#64
  /-- 05 R168: weights digest -/
  wDigest : List Byte := []
  /-- 05 R168: gate matrix -/
  gateW : List Byte := []
  /-- 05 R168: owner rank of each expert -/
  owners : List Nat := []
  /-- 05 R153: steps to be replayed once the reset has finished, with each recipient that had sent input (a rank, or 4096 + neighbour) -/
  replayQ : List (Nat × Nat) := []
  /-- 05 R147: arrival counter -/
  arrivals : Nat := 0
  /-- 05 R169: routing records kept until the matching OP_MOE_COMBINE step commits -/
  routing : List Routing := []
  /-- 05 R150: committed steps of a ring whose other segments are still going round -/
  ring : List StepSt := []
  /-- 05 R155: steps aborted and not begun again, whose abort has been passed on -/
  aborted : List Nat := []
  deriving DecidableEq, Repr

/-- PBlock: one prefix-store block (R246). -/
structure PBlock where
  /-- 08 R244: key -/
  key : List Byte := []
  /-- 08 R244: 1 MiB (else 64 KiB) -/
  big : Bool := false
  /-- 08 R246: version -/
  version : Nat := 0
  /-- 08 R244: block_crc -/
  crc : BitVec 32 := 0#32
  /-- 08 R248: held in the CXL tier -/
  cxl : Bool := false
  /-- 08 R246: device address -/
  addr : Nat := 0
  /-- 08 R248: use stamp -/
  stamp : Nat := 0
  /-- 08 R248: demotion or promotion target -/
  copying : Option Nat := none
  /-- 08 R249: to be promoted once its last chunk has been sent -/
  promote : Bool := false
  deriving DecidableEq, Repr

/-- PPut: one put in progress (R246). -/
structure PPut where
  /-- 08 R246: number of the put -/
  pid : Nat := 0
  /-- 08 R244: service Tiller -/
  tiller : Nat := 0
  /-- 08 R244: key -/
  key : List Byte := []
  /-- 08 R244: size -/
  big : Bool := false
  /-- 08 R244: block_crc -/
  crc : BitVec 32 := 0#32
  /-- 08 R244: req_id -/
  req : Nat := 0
  /-- 08 R244: header of its first packet, for the reply -/
  hdr : List Byte := []
  /-- 08 R246: staging buffer -/
  addr : Nat := 0
  /-- 08 R246: chunks held -/
  held : List Nat := []
  /-- 08 R246: time of its opening (thirds) -/
  openedAt : Nat := 0
  /-- 08 R246: refused with POOL_EMPTY; its chunks are dropped -/
  refused : Bool := false
  /-- 08 R248: its buffer comes free when a demotion finishes -/
  waitDemote : Bool := false
  deriving DecidableEq, Repr

/-- Prefix: the prefix store (R243 to R251). -/
structure Prefix where
  /-- 08 R243: enabled -/
  on : Bool := false
  /-- 08 R243: verify -/
  verify : Bool := false
  /-- 08 R243: promote -/
  promote : Bool := false
  /-- 08 R243: service Tillers -/
  tillers : List Nat := []
  /-- 08 R243: gddr_64k -/
  lim64 : Nat := 0
  /-- 08 R243: gddr_1m -/
  lim1m : Nat := 0
  /-- 08 R243: cxl_slabs -/
  slabs : Nat := 0
  /-- 08 R243: put_timeout_us -/
  tmo : Nat := 1000
  /-- 08 R243: port_mask -/
  mask : BitVec 38 := 0#38
  /-- 08 R243: context number of the store -/
  ctx : Nat := 0
  /-- 08 R246: commit sequence -/
  seq : Nat := 0
  /-- 08 R246: index -/
  blocks : List PBlock := []
  /-- 08 R250: blocks out of the index whose buffers gets still read -/
  dying : List PBlock := []
  /-- 08 R246: puts in progress -/
  puts : List PPut := []
  /-- 08 R248: slabs held: address and size -/
  slabList : List (Nat × Bool) := []
  /-- 08 R246: number of the next put -/
  nextPut : Nat := 0
  deriving DecidableEq, Repr

/-- Proc: one firmware processor (R307, R365). -/
structure Proc where
  /-- 13 R365: time of the trigger of the restart (thirds) -/
  downAt : Nat := 0
  /-- 13 R369: cause of the restart -/
  cause : Nat := 0
  /-- 13 R365: times of recent restarts (ns) -/
  recent : List Nat := []
  /-- 13 R365: a restart is in progress -/
  restarting : Bool := false
  /-- 13 R369: program counter at the restart -/
  pc : Nat := 0
  /-- 11 R307: code memory, 1 MiB -/
  code : Memory := []
  /-- 11 R307: data memory, 512 KiB -/
  data : Memory := []
  /-- 01 R32: 256-bit words known uncorrectable: code words from 0, data words from 32,768 -/
  ue : List Nat := []
  /-- 13 R365: SHA-256 of each section of this processor, as boot computed it -/
  sums : List (List Byte) := []
  deriving DecidableEq, Repr

/-- FlashSlot: one slot of one store (R310). -/
structure FlashSlot where
  /-- 11 R310: slot header, 64 bytes; an erased slot lists none -/
  header : List Byte := []
  /-- 11 R310: content, from slot offset 64 -/
  content : List Byte := []
  deriving DecidableEq, Repr

/-- Firmware: processors, flash stores, quorum, attestation (file 11). -/
structure Firmware where
  /-- 11 R307: firmware processors -/
  procs : SMap Proc := []
  /-- 11 R309, R323, R327: store k, slot A at 2 (k - 1), slot B behind it; store 4 holds quorum_seq, the isolated ports and the device flag, store 5 next_reserved -/
  flash : SMap FlashSlot := []
  /-- 11 R317: slot staged for store 1 to 3 -/
  staged : SMap (Option Nat) := []
  /-- 11 R323: next signature index -/
  hssIdx : Nat := 0
  /-- 11 R323: the next lower-level tree is built -/
  treeReady : Bool := true
  /-- 11 R324: 0 slot in force, 1 fallback -/
  bootKind : Nat := 0
  /-- 11 R315: an image has been verified and started -/
  verified : Bool := false
  /-- 11 R315: boot step reached -/
  bootStep : Nat := 2
  /-- 11 R318: firmware activation in progress: command and burn_sv -/
  act : Option (Nat × Bool) := none
  /-- 09 R272: equaliser table in use -/
  eqTable : List Byte := []
  /-- 09 R274: the table passed its checks and holds this board's record -/
  eqOk : Bool := false
  /-- 09 R272: FWP-LNK has read the equaliser table since the cold reset -/
  eqRead : Bool := false
  /-- 11 R324: security_version of the running image -/
  svRun : Nat := 0
  deriving DecidableEq, Repr

/-- ARec: one Almanac record (R368). -/
structure ARec where
  /-- 13 R368: seq -/
  seq : Nat := 0
  /-- 13 R369: type -/
  type : Nat := 0
  /-- 13 R368: fault code -/
  fault : Nat := 0
  /-- 13 R368: level -/
  level : Nat := 0xFF
  /-- 13 R368: late flag -/
  late : Bool := false
  /-- 13 R368: time -/
  time : Nat := 0
  /-- 13 R368: context -/
  ctx : Nat := 0xFFFFFFFF
  /-- 13 R368: unit -/
  unit : Nat := 0xFFFF
  /-- 13 R368: engine -/
  engine : Nat := 0xFF
  /-- 13 R368: boot -/
  boot : Nat := 0
  /-- 13 R368: signature -/
  signature : BitVec 64 := 0#64
  /-- 13 R369: detail -/
  detail : List Byte := []
  /-- 13 R368: measurements -/
  sens : Sensors := {}
  /-- 13 R368: core_mhz -/
  mhz : Nat := 1700
  /-- 13 R348: sample payload -/
  payload : List Byte := []
  deriving DecidableEq, Repr

/-- Almanac: the black-box record (R367). -/
structure Almanac where
  /-- 13 R367: records held, oldest first -/
  recs : List ARec := []
  /-- 01 R37: records waiting for FWP-LOG -/
  waiting : List ARec := []
  /-- 13 R367: next sequence number -/
  nextSeq : Nat := 0
  /-- 13 R370: records lost to a full queue since power-up -/
  lost : Nat := 0
  deriving DecidableEq, Repr

/-- Shadow: a shadow run in progress (R371). -/
structure Shadow where
  /-- 13 R371: command number -/
  cmd : Nat := 0
  /-- 13 R371: context -/
  ctx : Nat := 0
  /-- 13 R371: source Tiller -/
  src : Nat := 0
  /-- 13 R371: shadow Tiller -/
  dst : Nat := 0
  /-- 13 R371: repeats asked for -/
  repeats : Nat := 1
  /-- 13 R371: hold flag -/
  hold : Bool := false
  /-- 13 R371: hold_temp -/
  temp : Int := 0
  /-- 13 R371: end of timeout_ms (thirds) -/
  deadline : Nat := 0
  /-- 13 R371: 0 waiting for the first STEP_END, 1 recording, 2 repeating -/
  stage : Nat := 0
  /-- 13 R371: the two pool 3 buffers -/
  bufs : List Nat := []
  /-- 13 R371: captured state of the source -/
  snap : Option Tiller := none
  /-- 13 R371: recorded inputs -/
  inputs : List Byte := []
  /-- 13 R372: outputs in issue order -/
  outputs : List Byte := []
  /-- 13 R371: bytes of the inputs served to the repeat in progress -/
  pos : Nat := 0
  /-- 13 R372: outputs of the repeat in progress, in issue order -/
  repOut : List Byte := []
  /-- 13 R372: cycle at which the step began -/
  startCyc : Nat := 0
  /-- 13 R372: source digest -/
  digest : List Byte := []
  /-- 13 R372: source cycles -/
  cycles : Nat := 0
  /-- 13 R372: result entries of the repeats -/
  done : List (List Byte) := []
  /-- 13 R371: time Mulch began to hold the temperature (thirds) -/
  holdAt : Nat := 0
  /-- 13 R371: time since which the junction has stayed within 1 C of hold_temp -/
  okSince : Option Nat := none
  /-- 13 R371: the hold was missed for the repeat in progress -/
  missed : Bool := false
  /-- 13 R372: die temperature at the start of the repeat -/
  repTemp : Int := 0
  deriving DecidableEq, Repr

/-- State: the whole module. -/
structure State where
  /-- (this task): commands waiting, first in first out -/
  pending : List Instr := []
  /-- 01 R23: clocks -/
  clk : Clock := {}
  /-- 14, 15: power, resets, Mulch, ladder -/
  pwr : Power := {}
  /-- 00 R2: fused identity -/
  part : Part := {}
  /-- 10 R285: device registers and device-wide state -/
  dev : Dev := {}
  /-- 10: host interface -/
  host : HostIf := {}
  /-- 10 R296: contexts -/
  ctxs : SMap Ctx := []
  /-- 13 R364: context epoch counters -/
  epochs : SMap (BitVec 8) := []
  /-- 03 R69: Tillers -/
  tillers : SMap Tiller := []
  /-- 06, 07: shared buffer, queues and meters -/
  fab : Fabric := {}
  /-- 10 R283: scheduler ports -/
  ports : SMap Port := []
  /-- 09 R254: optical engines -/
  oes : SMap Engine9 := []
  /-- 08: GDDR7 and CXL tier -/
  mem : MemTier := {}
  /-- 08 R233: Seedbank -/
  seed : Seedbank := {}
  /-- 05 R134: collective slots -/
  slots : SMap Slot := []
  /-- 08 R243: prefix store -/
  pfx : Prefix := {}
  /-- 11: firmware, flash, quorum -/
  fw : Firmware := {}
  /-- 13 R367: Almanac -/
  alm : Almanac := {}
  /-- 13 R371: shadow run in progress -/
  shadow : Option Shadow := none
  /-- 06 R204, 08 R232, R251, 09 R277: every 64-bit counter TEL_READ returns, by Ctr key -/
  ctr : SMap (BitVec 64) := []
  /-- (this task): the MODEL's own: how many free values have been drawn -/
  freeCtr : Nat := 0
  deriving DecidableEq, Repr

/-- Why the module stops by itself. -/
inductive Fault where
  /-- Raised by an idle step that would take the 64-bit time base past its end, which 00 R9 says never happens in service.
  Safe: the model stops where the spec gives no behaviour. -/
  | timeBaseExhausted
  deriving DecidableEq, Repr

/-- Why a command is not carried out. -/
inductive Refusal where
  /-- Raised by an arm of Dispatch for a row that has no meaning yet. Safe: nothing is claimed about such a row. -/
  | notModelled (mnemonic : String)
  /-- Raised by a command whose operand names a ring, port, Tiller, engine, lane, slot or unit the module does not have.
  Safe: no such command can be sent to it. -/
  | noSuchUnit
  deriving DecidableEq, Repr

/-- The module as the cold reset of power-up is released (00 R9, 15 R392, log 3): every field at its reset value. -/
def State.reset : State := {}

end Sys2Proof.Machine
end

