-- ==== Sys2Proof/Machine/Ops.lean ====
section
/-!
DEFINITION. The named operations over sparse maps, memories and the parts of the state: what an unlisted key reads as, one
reader and one writer per register file, free values, time, events, Almanac records, and the taking and finishing of host
commands. An exception entry has no counterpart in this block: a fault's effects are in Machine/Faults.lean.
-/

namespace Sys2Proof.Machine

/-! ### Sparse maps -/

/-- What a map holds at a key; d gives what an unlisted key reads as. -/
def SMap.get {α : Type} (d : Nat → α) (m : SMap α) (k : Nat) : α :=
  match m with
  | [] => d k
  | p :: t => if p.1 = k then p.2 else SMap.get d t k

/-- A map without its entries for a key. -/
def SMap.erase {α : Type} (m : SMap α) (k : Nat) : SMap α := m.filter fun p => p.1 != k

/-- An entry put at its place by key. -/
def SMap.insert {α : Type} (k : Nat) (v : α) : SMap α → SMap α
  | [] => [(k, v)]
  | p :: t => if k < p.1 then (k, v) :: p :: t else p :: SMap.insert k v t

/-- A map with a key's value written; a value equal to what the unlisted key reads as removes the entry. -/
def SMap.set {α : Type} [DecidableEq α] (d : Nat → α) (k : Nat) (v : α) (m : SMap α) : SMap α :=
  if v = d k then SMap.erase m k else SMap.insert k v (SMap.erase m k)

/-- The canonical form: keys strictly rising, no entry equal to what an unlisted key reads as. -/
def SMap.wf {α : Type} [DecidableEq α] (d : Nat → α) (m : SMap α) : Bool :=
  match m with
  | [] => true
  | p :: t => (p.2 != d p.1) && t.all (fun q => decide (p.1 < q.1)) && SMap.wf d t

/-! ### Byte memories -/

/-- What an unlisted byte of a memory reads as (log 5). -/
def byte0 (_ : Nat) : Byte := 0#8

/-- One byte of a memory. -/
def Memory.byte (m : Memory) (a : Nat) : Byte := SMap.get byte0 m a

/-- n bytes of a memory from address a. -/
def Memory.read (m : Memory) (a : Nat) : Nat → List Byte
  | 0 => []
  | n + 1 => m.byte a :: Memory.read m (a + 1) n

/-- A memory with bytes written from address a. -/
def Memory.write (m : Memory) (a : Nat) : List Byte → Memory
  | [] => m
  | b :: t => Memory.write (SMap.set byte0 a b m) (a + 1) t

/-- A memory with every byte of [a, a + n) set to what an unlisted byte reads as. -/
def Memory.clear (m : Memory) (a n : Nat) : Memory := m.filter fun p => decide (p.1 < a) || decide (a + n ≤ p.1)

/-- The canonical form of a memory. -/
abbrev Memory.wf (m : Memory) : Prop := SMap.wf byte0 m = true

/-! ### What unlisted keys read as -/

/-- An unlisted count is 0. -/
def zeroAt (_ : Nat) : Nat := 0

/-- An unlisted option is none. -/
def noneAt {α : Type} (_ : Nat) : Option α := none

/-- An unlisted list is empty. -/
def nilAt {α : Type} (_ : Nat) : List α := []

/-- An unlisted bit is 0. -/
def falseAt (_ : Nat) : Bool := false

/-- An unlisted register of any width is 0. -/
def zeroBits {w : Nat} (_ : Nat) : BitVec w := 0#w

/-- An unlisted ring register set is at reset (10 R286). -/
def ringAt (_ : Nat) : Ring := {}

/-- An unlisted context does not exist (13 R360). -/
def ctxAt (_ : Nat) : Ctx := {}

/-- An unlisted Tiller is free. -/
def tillerAt (_ : Nat) : Tiller := {}

/-- An unlisted stream has not started. -/
def streamAt (_ : Nat) : StreamSt := {}

/-- An unlisted micro-program slot holds no program (04 R120). -/
def progAt (_ : Nat) : MicroProg := {}

/-- An unlisted port's registers are at reset; ports 36 and 37 hold no link. -/
def portAt (_ : Nat) : Port := {}

/-- An unlisted optical engine. -/
def oeAt (_ : Nat) : Engine9 := {}

/-- An unlisted collective slot is FREE (05 R134). -/
def slotAt (_ : Nat) : Slot := {}

/-- An unlisted forwarding slice. -/
def sliceAt (_ : Nat) : Slice := {}

/-- An unlisted firmware processor has not started. -/
def procAt (_ : Nat) : Proc := {}

/-- An unlisted flash slot is erased (log 26). -/
def flashAt (_ : Nat) : FlashSlot := {}

/-! ### Flash stores (11 R309 to R311) -/

/-- A slot header with its commit word erased. -/
def slotHeader (store gen : Nat) (content : List Byte) : List Byte :=
  [0x4C#8, 0x4B#8, 0x53#8, 0x4C#8] ++ toLE 4 store ++ toLE 4 gen ++ toLE 4 content.length ++ toLE 4 (crc32c content).toNat ++ List.replicate 40 0#8 ++
    List.replicate 4 0xFF#8

/-- A slot erased and written as far as the step before the commit. -/
def FlashSlot.written (store gen : Nat) (content : List Byte) : FlashSlot := { header := slotHeader store gen content, content := content }

/-- generation. -/
def FlashSlot.gen (f : FlashSlot) : Nat := fieldAt f.header 8 4

/-- A slot with its commit word written. -/
def FlashSlot.committed (f : FlashSlot) : FlashSlot := { f with header := f.header.take 60 ++ slice f.header 8 4 }

/-- A slot checks: magic, store, reserved fields, generation in its range, length and check of the content are right. -/
def FlashSlot.good (f : FlashSlot) (store : Nat) : Bool :=
  f.header.length == 64 && decide (f.header.take 4 = [0x4C#8, 0x4B#8, 0x53#8, 0x4C#8]) && fieldAt f.header 4 4 == store && decide (1 ≤ f.gen) &&
  decide (f.gen ≤ 0xFFFFFFFE) && fieldAt f.header 12 4 == f.content.length && fieldAt f.header 16 4 == (crc32c f.content).toNat && allZero (slice f.header 20 40)

/-- A slot is valid: it checks, and its commit equals its generation. -/
def FlashSlot.valid (f : FlashSlot) (store : Nat) : Bool := f.good store && fieldAt f.header 60 4 == f.gen

/-- Slot i (0 A, 1 B) of store 1 to 5. -/
def flashSlotOf (m : SMap FlashSlot) (store i : Nat) : FlashSlot := SMap.get flashAt m (2 * (store - 1) + i)

/-- The slot in force of a store; none when the store is empty. -/
def slotInForce (m : SMap FlashSlot) (store : Nat) : Option Nat :=
  let a := flashSlotOf m store 0
  let b := flashSlotOf m store 1
  if a.valid store && b.valid store then some (if a.gen < b.gen then 1 else 0) else if a.valid store then some 0 else if b.valid store then some 1 else none

/-- Content of a store in force, empty when there is none. -/
def storeContent (m : SMap FlashSlot) (store : Nat) : List Byte :=
  match slotInForce m store with | some i => (flashSlotOf m store i).content | none => []

/-- The slot that the next write of a store takes, and its generation. -/
def writeTarget (m : SMap FlashSlot) (store : Nat) : Nat × Nat :=
  match slotInForce m store with | some i => (1 - i, (flashSlotOf m store i).gen + 1) | none => (0, 1)

/-- The flash with a slot written. -/
def putSlot (m : SMap FlashSlot) (store i : Nat) (f : FlashSlot) : SMap FlashSlot := SMap.set flashAt (2 * (store - 1) + i) f m

/-- The flash with a store written and committed. -/
def writeStore (m : SMap FlashSlot) (store : Nat) (content : List Byte) : SMap FlashSlot :=
  let w := writeTarget m store
  putSlot m store w.1 (FlashSlot.written store w.2 content).committed

/-- quorum_seq: the first field of the isolation store (11 R327). -/
def Firmware.quorumSeq (w : Firmware) : BitVec 64 := BitVec.ofNat 64 (fieldAt (storeContent w.flash 4) 0 8)

/-- The mask of isolated ports of the isolation store (11 R327). -/
def Firmware.isoPorts (w : Firmware) : BitVec 64 := BitVec.ofNat 64 (fieldAt (storeContent w.flash 4) 8 8)

/-- The device flag of the isolation store, its last byte (11 R327; log 26). -/
def Firmware.isoDev (w : Firmware) : Bool := fieldAt (storeContent w.flash 4) 16 1 == 1

/-- Content of an isolation store. -/
def isolationContent (seq ports : BitVec 64) (device : Bool) : List Byte := toLE 8 seq.toNat ++ toLE 8 ports.toNat ++ [if device then 1#8 else 0#8]

/-- next_reserved: the content of the identity signing state store (11 R323). -/
def Firmware.nextResv (w : Firmware) : Nat := fieldAt (storeContent w.flash 5) 0 8

/-- An unlisted stream queue's SQ_CFG (07 R206). -/
def sqCfgAt (q : Nat) : SqCfg :=
  if q < 304 then { port := q / 8, vc := q % 8, inUse := true, owner := 1 } else {}

/-- An unlisted SQ_MAP (07 R207). -/
def sqMapAt (i : Nat) : Nat × Nat := (i, 0)

/-- An unlisted BUF_CLASS_CFG: min_cells and max_cells (06 R192). -/
def bufCfgAt (_ : Nat) : Nat × Nat := (34, 0x10000)

/-- An unlisted shaper is disabled and has never held tokens. -/
def shaperAt (_ : Nat) : Shaper := {}

/-- SHAPER_CFG from its fields (07 R212). -/
def shaperCfg (rate burst : Nat) (enable : Bool) : BitVec 64 :=
  BitVec.ofNat 64 (rate + burst * 2 ^ 24 + (if enable then 2 ^ 48 else 0))

/-- An unlisted service shaper: that of VC0 is enabled and full (07 R213). -/
def svcShaperAt (i : Nat) : Shaper :=
  if i % 8 = 0 then
    let rate := if i / 8 < 36 then 1920 else if i / 8 = 36 then 1000 else 48000
    { cfg := shaperCfg rate 8288 true, tokens := 8288 * 65536, ever := true }
  else {}

/-- An unlisted policer is off. -/
def policerAt (_ : Nat) : Policer := {}

/-- An unlisted deficit. -/
def drrAt (_ : Nat) : Drr := {}

/-- An unlisted switched domain's turn-on has been requested since the release of the cold reset (15 R392). -/
def domReqAt (_ : Nat) : Option Nat := some 0

/-- An unlisted scrub controller. -/
def ctrlAt (_ : Nat) : Ctrl := {}

/-- An unlisted CXL port. -/
def cxlAt (_ : Nat) : Cxl := {}

/-- An unlisted Seedbank buffer count of list 4k + d (08 R233). -/
def countAt (i : Nat) : Nat :=
  if i < 4 then 491520 else if i < 8 then 49152 else if i < 12 then 4096 else if i < 16 then 512 else 0

/-- An unlisted Seedbank entry is free (08 R235). -/
def sbEntryAt (_ : Nat) : SbEntry := {}

/-- An unlisted Seedbank list has been neither pushed to nor popped. -/
def sbListAt (_ : Nat) : SbList := {}

/-! ### Readers and writers of the register files -/

/-- Tiller t. -/
def State.tl (s : State) (t : Nat) : Tiller := SMap.get tillerAt s.tillers t

/-- s with Tiller t changed. -/
def State.modT (s : State) (t : Nat) (f : Tiller → Tiller) : State :=
  { s with tillers := SMap.set tillerAt t (f (s.tl t)) s.tillers }

/-- Context x. -/
def State.ctx (s : State) (x : Nat) : Ctx := SMap.get ctxAt s.ctxs x

/-- s with context x changed. -/
def State.modCtx (s : State) (x : Nat) (f : Ctx → Ctx) : State :=
  { s with ctxs := SMap.set ctxAt x (f (s.ctx x)) s.ctxs }

/-- The epoch of context number x (13 R364). -/
def State.epoch (s : State) (x : Nat) : BitVec 8 := SMap.get zeroBits s.epochs x

/-- Scheduler port p. -/
def State.port (s : State) (p : Nat) : Port := SMap.get portAt s.ports p

/-- s with scheduler port p changed. -/
def State.modPort (s : State) (p : Nat) (f : Port → Port) : State :=
  { s with ports := SMap.set portAt p (f (s.port p)) s.ports }

/-- s with the link layer of port p changed. -/
def State.modLink (s : State) (p : Nat) (f : Link → Link) : State :=
  s.modPort p fun q => { q with link := f q.link }

/-- Collective slot l. -/
def State.slot (s : State) (l : Nat) : Slot := SMap.get slotAt s.slots l

/-- s with collective slot l changed. -/
def State.modSlot (s : State) (l : Nat) (f : Slot → Slot) : State :=
  { s with slots := SMap.set slotAt l (f (s.slot l)) s.slots }

/-- Ring register set r. -/
def State.ring (s : State) (r : Nat) : Ring := SMap.get ringAt s.host.rings r

/-- s with the host interface changed. -/
def State.modHost (s : State) (f : HostIf → HostIf) : State := { s with host := f s.host }

/-- s with ring register set r changed. -/
def State.modRing (s : State) (r : Nat) (f : Ring → Ring) : State :=
  s.modHost fun h => { h with rings := SMap.set ringAt r (f (s.ring r)) h.rings }

/-- s with the fabric changed. -/
def State.modFab (s : State) (f : Fabric → Fabric) : State := { s with fab := f s.fab }

/-- s with the power state changed. -/
def State.modPwr (s : State) (f : Power → Power) : State := { s with pwr := f s.pwr }

/-- s with the device registers changed. -/
def State.modDev (s : State) (f : Dev → Dev) : State := { s with dev := f s.dev }

/-- s with the firmware changed. -/
def State.modFw (s : State) (f : Firmware → Firmware) : State := { s with fw := f s.fw }

/-- s with the memory tier changed. -/
def State.modMem (s : State) (f : MemTier → MemTier) : State := { s with mem := f s.mem }

/-- s with the Seedbank changed. -/
def State.modSeed (s : State) (f : Seedbank → Seedbank) : State := { s with seed := f s.seed }

/-- s with the prefix store changed. -/
def State.modPfx (s : State) (f : Prefix → Prefix) : State := { s with pfx := f s.pfx }

/-- s with the Almanac changed. -/
def State.modAlm (s : State) (f : Almanac → Almanac) : State := { s with alm := f s.alm }

/-- Forwarding slice i. -/
def State.slice (s : State) (i : Nat) : Slice := SMap.get sliceAt s.fab.slices i

/-- s with forwarding slice i changed. -/
def State.modSlice (s : State) (i : Nat) (f : Slice → Slice) : State :=
  s.modFab fun b => { b with slices := SMap.set sliceAt i (f (s.slice i)) b.slices }

/-- Firmware processor q. -/
def State.proc (s : State) (q : Nat) : Proc := SMap.get procAt s.fw.procs q

/-- s with firmware processor q changed. -/
def State.modProc (s : State) (q : Nat) (f : Proc → Proc) : State :=
  s.modFw fun w => { w with procs := SMap.set procAt q (f (s.proc q)) w.procs }

/-- Optical engine o. -/
def State.oe (s : State) (o : Nat) : Engine9 := SMap.get oeAt s.oes o

/-- s with optical engine o changed. -/
def State.modOe (s : State) (o : Nat) (f : Engine9 → Engine9) : State :=
  { s with oes := SMap.set oeAt o (f (s.oe o)) s.oes }

/-- CXL port k. -/
def State.cxl (s : State) (k : Nat) : Cxl := SMap.get cxlAt s.mem.cxl k

/-- s with CXL port k changed. -/
def State.modCxl (s : State) (k : Nat) (f : Cxl → Cxl) : State :=
  s.modMem fun m => { m with cxl := SMap.set cxlAt k (f (s.cxl k)) m.cxl }

/-- Stream queue q's SQ_CFG. -/
def State.sqCfg (s : State) (q : Nat) : SqCfg := SMap.get sqCfgAt s.fab.sqCfg q

/-- Packets of stream queue q, head first. -/
def State.sq (s : State) (q : Nat) : List Pkt := SMap.get nilAt s.fab.sq q

/-- s with stream queue q's packets replaced. -/
def State.setSq (s : State) (q : Nat) (l : List Pkt) : State :=
  s.modFab fun b => { b with sq := SMap.set nilAt q l b.sq }

/-- Stream e of Tiller T. -/
def Tiller.stream (T : Tiller) (e : Nat) : StreamSt := SMap.get streamAt T.streams e

/-- T with stream e changed. -/
def Tiller.modStream (T : Tiller) (e : Nat) (f : StreamSt → StreamSt) : Tiller :=
  { T with streams := SMap.set streamAt e (f (T.stream e)) T.streams }

/-- Scalar register r; s0 reads 0 (03 R71). -/
def Tiller.reg (T : Tiller) (r : Nat) : Word := if r = 0 then 0#32 else SMap.get zeroBits T.regs r

/-- T with scalar register r written; a write to s0, or past s31, is discarded (03 R71). -/
def Tiller.setReg (T : Tiller) (r : Nat) (v : Word) : Tiller :=
  if r = 0 || r > 31 then T else { T with regs := SMap.set zeroBits r v T.regs }

/-! ### Time and free values -/

/-- The time base in whole nanoseconds (01 R26). Every stamp but those of RDTIME and of packets a Tiller receives is this value of the master:
Almanac records, notices, TEL_READ, the receive ring and link times are given copies without lag (DESIGN CHOICE, log 13). -/
def State.now (s : State) : Nat := s.clk.fabref * 32 / 5

/-- CORE_CLK's copy of the time base: the value the master had a fixed, free time of at most 20 ns ago, so that two readings a FABREF cycle
apart differ by 6 or 7 (01 R26; log 13). -/
def State.coreTime (s : State) : Nat := (96 * s.clk.fabref + s.clk.fabrefAcc - 5 * (Config.coreLag % 61)) / 96 * 32 / 5

/-- The value the time base had at a time given in thirds of a nanosecond since the release of the cold reset (00 R9, 01 R26). -/
def baseAt (thirds : Nat) : Nat := 5 * thirds / 96 * 32 / 5

/-- Time in thirds of a nanosecond, for intervals and deadlines. -/
def State.t3 (s : State) : Nat := s.clk.third

/-- us microseconds in thirds. -/
def usec (us : Nat) : Nat := 3000 * us

/-- ms milliseconds in thirds. -/
def msec (ms : Nat) : Nat := 3000000 * ms

/-- A deadline has been reached: the interval since a time is half-open (00 R10). -/
def State.after (s : State) (since limit : Nat) : Bool := decide (since + limit ≤ s.t3)

/-- s with one more free value drawn (log 6). -/
def State.drawn (s : State) : State := { s with freeCtr := s.freeCtr + 1 }

/-- The next free value. -/
def State.freeNat (s : State) : Nat := Config.freeNat s.freeCtr

/-! ### Counters -/

/-- The kinds of 64-bit counters, by which State.ctr is keyed: block and index as TEL_READ names them (10 R296). -/
def ctrKey (block index item : Nat) : Nat := block * 2 ^ 24 + index * 2 ^ 7 + item

/-- A counter. -/
def State.counter (s : State) (k : Nat) : BitVec 64 := SMap.get zeroBits s.ctr k

/-- s with n added to a counter, modulo 2^64 (06 R204). -/
def State.count (s : State) (k n : Nat) : State :=
  { s with ctr := SMap.set zeroBits k (s.counter k + BitVec.ofNat 64 n) s.ctr }

/-- Drop reasons of 06 R203. -/
abbrev dropHdrErr : Nat := 1
/-- No hop left. -/
abbrev dropRouteEnd : Nat := 2
/-- Bad hop. -/
abbrev dropBadHop : Nat := 3
/-- Rank rule. -/
abbrev dropRouteRank : Nat := 4
/-- No steering entry. -/
abbrev dropNoSteer : Nat := 5
/-- Stale epoch. -/
abbrev dropEpochStale : Nat := 6
/-- Output port down. -/
abbrev dropPortDown : Nat := 7
/-- Early drop, resets and the Gleaner. -/
abbrev dropCongestion : Nat := 8
/-- Uncorrectable word. -/
abbrev dropEcc : Nat := 9
/-- Policer. -/
abbrev dropPoliced : Nat := 10

/-- Items of a port's block-0 counters (06 R204): rx_packets, rx_bytes, tx_packets, tx_bytes by VC, drops by reason,
tx_stall by VC, rx_hold by class. -/
def ctrRxPackets (p v : Nat) : Nat := ctrKey 0 p v
/-- rx_bytes of port p and VC v. -/
def ctrRxBytes (p v : Nat) : Nat := ctrKey 0 p (8 + v)
/-- tx_packets of port p and VC v. -/
def ctrTxPackets (p v : Nat) : Nat := ctrKey 0 p (16 + v)
/-- tx_bytes of port p and VC v. -/
def ctrTxBytes (p v : Nat) : Nat := ctrKey 0 p (24 + v)
/-- drops of port p under a reason. -/
def ctrDrop (p reason : Nat) : Nat := ctrKey 0 p (32 + reason)
/-- tx_stall of port p and VC v. -/
def ctrTxStall (p v : Nat) : Nat := ctrKey 0 p (48 + v)
/-- rx_hold of port p and class c. -/
def ctrRxHold (p c : Nat) : Nat := ctrKey 0 p (56 + c)

/-! ### Host memory and firmware processors -/

/-- s with bytes written to host memory (10 R288, R293). -/
def State.writeHost (s : State) (a : Nat) (d : List Byte) : State :=
  s.modHost fun h => { h with mem := h.mem.write a d }

/-- Firmware processors by their number in DEV_STATE.fwp_up (11 R307). -/
abbrev fwpSec : Nat := 0
/-- FWP-CMD. -/
abbrev fwpCmd : Nat := 1
/-- FWP-LNK. -/
abbrev fwpLnk : Nat := 2
/-- FWP-PWR. -/
abbrev fwpPwr : Nat := 3
/-- FWP-LOG. -/
abbrev fwpLog : Nat := 4

/-- Processor q is up (10 R285). -/
def State.fwpUp (s : State) (q : Nat) : Bool := s.dev.fwpUp.getLsbD q

/-- The module is powered and out of the cold reset (15 R391, R392); nothing but power and reset events happens otherwise. -/
def State.live (s : State) : Bool := decide (s.pwr.phase = .running)

/-! ### Events -/

/-- Most events that wait for space in one ring (10 R301). -/
abbrev maxEvents : Nat := 256

/-- An event queued for a ring; beyond 256 it is counted instead (10 R301). -/
def State.pushEvent (s : State) (e : Event) : State :=
  if (s.host.events.filter fun x => x.ring = e.ring).length < maxEvents then
    s.modHost fun h => { h with events := h.events ++ [e] }
  else s.modRing e.ring fun r => { r with evLost := r.evLost + 1 }

/-- An event of a context, for the ring CTX_CREATE named (10 R297). -/
def State.ctxEvent (s : State) (x code status : Nat) (words : List Nat) : State :=
  s.pushEvent { ring := (s.ctx x).ring, code := code, status := status, words := words }

/-- A device event; with DEV_EVENT_CFG.enable 0 it is not written (10 R301). -/
def State.devEvent (s : State) (code status : Nat) (words : List Nat) : State :=
  if s.dev.eventCfg.getLsbD 8 then
    s.pushEvent { ring := (s.dev.eventCfg.extractLsb' 0 8).toNat, code := code, status := status, words := words }
  else s

/-! ### Almanac records -/

/-- Units of 256 bytes a record takes (13 R367). -/
def ARec.units (r : ARec) : Nat := if r.payload.isEmpty then 1 else 73

/-- A record put at its place by sequence number. -/
def insertRec (r : ARec) : List ARec → List ARec
  | [] => [r]
  | x :: t => if r.seq < x.seq then r :: x :: t else x :: insertRec r t

/-- Units a list of records takes. -/
def recUnits (l : List ARec) : Nat := l.foldl (fun n r => n + r.units) 0

/-- The newest records that fit into 4,096 units: the oldest are overwritten first (13 R367). -/
def trimRecs : List ARec → List ARec
  | [] => []
  | x :: t => if recUnits (x :: t) ≤ 4096 then x :: t else trimRecs t

/-- Records held with one more written. -/
def Almanac.write (a : Almanac) (r : ARec) : Almanac := { a with recs := trimRecs (insertRec r a.recs) }

/-- A record stamped with the next sequence number and the measurements in force (13 R368). -/
def State.stampRec (s : State) (r : ARec) : ARec :=
  { r with seq := s.alm.nextSeq, time := s.now, boot := s.dev.bootCnt, sens := s.pwr.sens, mhz := s.clk.coreMHz }

/-- The sequence number the next record takes. -/
def State.nextSeq (s : State) : Nat := s.alm.nextSeq

/-- A record written by hardware at once (13 R367). -/
def State.almHw (s : State) (r : ARec) : State :=
  s.modAlm fun a => { a.write (s.stampRec r) with nextSeq := (a.nextSeq + 1) % 2 ^ 32 }

/-- A record put into the 256-entry queue towards FWP-LOG; one that overflows it is counted as lost (01 R37, 13 R367).
A record queued while FWP-LOG is down carries the late flag. -/
def State.almQueue (s : State) (r : ARec) : State :=
  if s.alm.waiting.length < 256 then
    s.modAlm fun a =>
      { a with waiting := a.waiting ++ [{ s.stampRec r with late := !s.fwpUp fwpLog }], nextSeq := (a.nextSeq + 1) % 2 ^ 32 }
  else s.modAlm fun a => { a with lost := a.lost + 1 }

/-- Detail of a record: 32 bytes (13 R369). -/
def detail (l : List Byte) : List Byte := padTo 32 l

/-- Memory detail of 13 R369. -/
def memDetail (location engine index address : Nat) : List Byte :=
  detail ([BitVec.ofNat 8 location, BitVec.ofNat 8 engine, 0#8, 0#8] ++ toLE 4 index ++ toLE 8 address)

/-! ### Commands of the host and of the fabric manager -/

/-- Status codes of 10 R292. -/
abbrev stOk : Nat := 0x00
/-- REFUSED_NO_FIT. -/
abbrev stNoFit : Nat := 0x01
/-- BAD_PARAM. -/
abbrev stBadParam : Nat := 0x02
/-- BUSY_EMERGENCY. -/
abbrev stEmergency : Nat := 0x03
/-- RETRY. -/
abbrev stRetry : Nat := 0x04
/-- NOT_PRESENT. -/
abbrev stNotPresent : Nat := 0x05
/-- AUTH_FAIL. -/
abbrev stAuthFail : Nat := 0x06
/-- QUORUM_SHORT. -/
abbrev stQuorumShort : Nat := 0x07
/-- CONTEXT_GONE. -/
abbrev stContextGone : Nat := 0x08
/-- TIMEOUT. -/
abbrev stTimeout : Nat := 0x09
/-- FAULTED. -/
abbrev stFaulted : Nat := 0x0A
/-- WEDGED. -/
abbrev stWedged : Nat := 0x0B
/-- DOUBLE_FREE. -/
abbrev stDoubleFree : Nat := 0x0C
/-- POOL_EMPTY. -/
abbrev stPoolEmpty : Nat := 0x0D
/-- DELIVERY_LOST. -/
abbrev stDeliveryLost : Nat := 0x0E
/-- PREFIX_MISS. -/
abbrev stPrefixMiss : Nat := 0x0F

/-- The opcodes that the fast path runs (10 R296). -/
def fastPath (op : Nat) : Bool :=
  op == 0x0101 || op == 0x0302 || op == 0x0303 || op == 0x0602 || op == 0x0603 || op == 0x0701 || op == 0x0801

/-- The processor that owns a firmware command (11 R307). -/
def ownerProc (op : Nat) : Nat :=
  if op == 0x0105 || op == 0x0404 || op == 0x0802 || op == 0x0803 || op == 0x0804 then fwpSec
  else if op == 0x0102 || op == 0x0401 || op == 0x0402 || op == 0x0403 || op == 0x0405 then fwpLnk
  else if op == 0x0901 || op == 0x0902 || op == 0x0903 then fwpPwr
  else if op == 0x0702 || op == 0x0703 then fwpLog
  else fwpCmd

/-- The processors a command needs are up (01 R37, 10 R295); without firmware the boot ROM serves FW_STAGE and FW_ACTIVATE (11 R316). -/
def State.served (s : State) (op : Nat) : Bool :=
  fastPath op || (s.fwpUp fwpCmd && s.fwpUp (ownerProc op)) || (decide (s.dev.state = .noFirmware) && (op == 0x0802 || op == 0x0803))

/-- The command with a number. -/
def State.cmd? (s : State) (c : Nat) : Option Cmd := s.host.cmds.find? fun k => k.id == c

/-- s with a command changed. -/
def State.modCmd (s : State) (c : Nat) (f : Cmd → Cmd) : State :=
  s.modHost fun h => { h with cmds := h.cmds.map fun k => if k.id = c then f k else k }

/-- s with a command marked as taken up. -/
def State.take (s : State) (c : Nat) : State := s.modCmd c fun k => { k with taken := true }

/-- A command may be taken up now: commands of one path of one ring in ring order, and a barrier after every earlier
command of its ring has completed (10 R294). -/
def State.ready (s : State) (k : Cmd) : Bool :=
  !k.taken &&
  s.host.cmds.all (fun x => x.src != k.src || decide (k.id ≤ x.id) ||
    (!k.barrier && (x.taken || fastPath x.opcode != fastPath k.opcode))) &&
  (!k.barrier || s.host.dones.all fun x => x.src != k.src || decide (k.id ≤ x.id))

/-- A packet built by the device, put into the queue of host and firmware packets that enter on port 36 (01 R22, log 17). -/
def State.sendOn36 (s : State) (p : Pkt) : State := s.modHost fun h => { h with admitQ := h.admitQ ++ [{ p with inPort := 36 }] }

/-- The route field that reverses a return route (06 R183). -/
def reverseRoute (ret : List Byte) : List Byte :=
  let n := (ret.headD 0#8).toNat % 16
  padTo 16 (BitVec.ofNat 8 (16 * n) :: (((ret.drop 1).take n).reverse.map fun b => b &&& 0x3F#8))

/-- A packet header with the initial values of 06 R180. -/
def mkHeader (kind vc sub epoch ctx slot flow src tag len : Nat) (route : List Byte) : List Byte :=
  [BitVec.ofNat 8 (1 + 16 * kind), BitVec.ofNat 8 vc, BitVec.ofNat 8 (4 * sub), BitVec.ofNat 8 epoch] ++ toLE 2 len ++
  [BitVec.ofNat 8 ctx, BitVec.ofNat 8 slot] ++ toLE 2 flow ++ toLE 2 src ++ toLE 4 tag ++ padTo 16 route ++
  List.replicate 16 0#8

/-- The 32 bytes of a status record (10 R291). -/
def recordBytes (status : Nat) (phase : Nat) (event : Bool) (opcode tag : Nat) (words : List Nat) : List Byte :=
  [BitVec.ofNat 8 status, BitVec.ofNat 8 (phase + (if event then 2 else 0))] ++ toLE 2 opcode ++ toLE 4 tag ++
  ((List.range 6).map fun i => toLE 4 (words.getD i 0)).flatten

/-- The reply packet to a MGMT request (10 R305): its header with type 0x02, the status record, the result data. -/
def mgmtReply (hdr : List Byte) (seq : Nat) (rec data : List Byte) : Pkt :=
  let body := [0x02#8, 0#8, 0#8, 0#8] ++ toLE 4 seq ++ List.replicate 8 0#8 ++ rec ++ data.take 4032
  { bytes := mkHeader 2 0 0 0 0 0 0 0 (fieldAt hdr 12 4) body.length (reverseRoute (slice hdr 32 16)) ++ body }

/-- A command finished: its record waits to be written, or its reply is sent (10 R288, R305). -/
def State.finish (s : State) (c status : Nat) (words : List Nat := []) (data : List Byte := []) : State :=
  match s.cmd? c with
  | none => s
  | some k =>
    let s := s.modHost fun h => { h with cmds := h.cmds.filter fun x => x.id != c }
    match k.src with
    | .ring _ =>
      s.modHost fun h => { h with dones := h.dones ++
        [{ id := c, src := k.src, status := status, opcode := k.opcode, tag := k.tag, words := words, stamp := s.t3 }] }
    | .mgmt hdr seq => s.sendOn36 { mgmtReply hdr seq (recordBytes status 0 false k.opcode k.tag words) data with origin := c + 1 }
    | .gone => s

/-- n bytes of result data can be given back as the command's record asks: no more than out_len, and, but for a MGMT request, at an aligned
out_addr (10 R293, R305). -/
def Cmd.fits (k : Cmd) (n : Nat) : Bool :=
  (match k.src with | .mgmt _ _ => true | _ => fieldAt k.params 0 8 % 32 == 0) && decide (n ≤ fieldAt k.params 8 4)

/-- A command that returns result data finished (10 R293): the data goes to out_addr, or to the reply of a MGMT request,
and its length to word5; data longer than out_len is not written. -/
def State.finishData (s : State) (k : Cmd) (words : List Nat) (data : List Byte) : State :=
  let w := (List.range 5).map (fun i => words.getD i 0)
  match k.src with
  | .mgmt _ _ =>
    if data.length ≤ fieldAt k.params 8 4 then s.finish k.id stOk (w ++ [data.length]) data
    else s.finish k.id stBadParam [0, 0, 0, 0, 0, data.length]
  | _ =>
    if fieldAt k.params 0 8 % 32 ≠ 0 then s.finish k.id stBadParam
    else if data.length ≤ fieldAt k.params 8 4 then
      (s.writeHost (fieldAt k.params 0 8) data).finish k.id stOk (w ++ [data.length])
    else s.finish k.id stBadParam [0, 0, 0, 0, 0, data.length]

/-- A command row: command c, if it waits with this opcode and may be taken up, is answered RETRY when a processor it needs
is down (10 R295) and otherwise carried out; a row that names no such command leaves the module as it is (log 2). -/
def runCmd (op c : Nat) (s : State) (body : Cmd → State → State) : Host.Outcome State Fault Refusal :=
  match s.cmd? c with
  | none => .next s
  | some k =>
    if s.live && k.opcode == op && s.ready k then
      if s.served op then .next (body k (s.take c)) else .next (s.finish c stRetry)
    else .next s

/-- An event row that changes the module only when its condition holds (log 2). -/
def onEvent (due : Bool) (s s' : State) : Host.Outcome State Fault Refusal := .next (if due then s' else s)

/-- A row whose operand names a unit: refused when the module has no such unit, else carried out while the module is live. -/
def onUnit (has : Bool) (s : State) (s' : State) : Host.Outcome State Fault Refusal :=
  if has then .next (if s.live then s' else s) else .refused .noSuchUnit

end Sys2Proof.Machine
end

