-- ==== Sys2Proof/Machine/Operands.lean ====
section
/-!
DEFINITION. Operand forms: the descriptors of 03 R74 to R76 (rows, footprints, element places, scale vectors, masks, sparse
metadata headers), the roles of 04 R99, and the immediates and bit fields of word 0 and of register values.
-/

namespace Sys2Proof.Machine

/-- Bits [lo + n - 1 : lo] of a number. -/
def bits (v lo n : Nat) : Nat := v / 2 ^ lo % 2 ^ n

/-- A quotient rounded up. -/
def ceilDiv (a b : Nat) : Nat := (a + b - 1) / b

/-! ### Descriptors -/

/-- Element format of a descriptor; a reserved code reads as INT8, which WellFormed images never hold. -/
def Desc.format (d : Desc) : Fmt := (Fmt.ofCode d.fmt.toNat).getD .int8

/-- Elements per row (R74): row_len, or count when row_len is 0. -/
def Desc.rowElems (d : Desc) : Nat := if d.rowLen = 0#16 then d.count.toNat else d.rowLen.toNat

/-- Number of rows (R76); row_len 0 means one row, be it empty (R74). -/
def Desc.rows (d : Desc) : Nat :=
  if d.rowLen = 0#16 then 1 else ceilDiv d.count.toNat d.rowLen.toNat

/-- Words a row occupies (R76). -/
def Desc.rowWords (d : Desc) : Nat := ceilDiv (d.rowElems * d.format.width) 256

/-- Words of all rows, as the Mover moves them. -/
def Desc.words (d : Desc) : Nat := d.rows * d.rowWords

/-- Stride in words, signed. -/
def Desc.strideWords (d : Desc) : Int := d.stride.toInt

/-- Byte address of row j, for a base that may be dynamic (R77). -/
def Desc.rowAddr (d : Desc) (base : Nat) (j : Nat) : Int := (base : Int) + 32 * (j : Int) * d.strideWords

/-- First and last word of the element footprint (R76); none for an empty descriptor. -/
def Desc.footprint (d : Desc) (base : Nat) : List (Int × Int) :=
  if d.words = 0 then []
  else
    let a := (base : Int) / 32
    let b := a + ((d.rows - 1 : Nat) : Int) * d.strideWords
    [(min a b, max a b + (d.rowWords : Int) - 1)]

/-- Bytes of the scale vector: one for each block of 32 elements of each row; a partial last row has the blocks it fills (R48, R76,
R102). -/
def Desc.scaleBytes (d : Desc) : Nat :=
  (d.rows - 1) * ceilDiv d.rowElems 32 + ceilDiv (d.count.toNat - (d.rows - 1) * d.rowElems) 32

/-- Words that n bytes from a word-aligned address occupy. -/
def byteSpan (a n : Nat) : List (Int × Int) :=
  if n = 0 then [] else [((a / 32 : Nat), ((a + n - 1) / 32 : Nat))]

/-- Footprint of the auxiliary vector: scales, mask, or the 32-byte sparse header (R100, R101). -/
def Desc.auxFootprint (d : Desc) : List (Int × Int) :=
  if d.scale then byteSpan d.aux.toNat d.scaleBytes
  else if d.mask then byteSpan d.aux.toNat (ceilDiv d.count.toNat 8)
  else if d.sparse then byteSpan d.aux.toNat 32
  else []

/-- A word interval lies inside the scratchpad of 65,536 words. -/
def inPad (f : Int × Int) : Bool := decide (0 ≤ f.1) && decide (f.2 < 65536)

/-- Two word intervals overlap. -/
def overlaps (a b : Int × Int) : Bool := decide (a.1 ≤ b.2) && decide (b.1 ≤ a.2)

/-- The destination rows do not overlap each other (R76). -/
def Desc.selfDisjoint (d : Desc) : Bool := d.rows ≤ 1 || decide ((d.rowWords : Int) ≤ d.strideWords.natAbs)

/-- The descriptor lies inside the scratchpad, word-aligned, at a base (R76). -/
def Desc.fits (d : Desc) (base : Nat) : Bool := base % 32 == 0 && (d.footprint base).all inPad

/-- n bits at a bit address of a scratchpad. -/
def readBits (m : Memory) (a n : Nat) : Nat := leNat (m.read (a / 8) (n / 8 + 2)) / 2 ^ (a % 8) % 2 ^ n

/-- A scratchpad with n bits written at a bit address. -/
def writeBits (m : Memory) (a n v : Nat) : Memory :=
  let o := a % 8
  let k := (o + n + 7) / 8
  let old := leNat (m.read (a / 8) k)
  let kept := old - (old / 2 ^ o % 2 ^ n) * 2 ^ o
  m.write (a / 8) (toLE k (kept + (v % 2 ^ n) * 2 ^ o))

/-- Start of row j: from the address stream's entries when there are any (R88), else from base and stride. -/
def Desc.rowStart (d : Desc) (rows : List Nat) (j : Nat) : Nat :=
  match rows[j]? with
  | some a => a
  | none => (d.rowAddr d.base.toNat j).toNat

/-- Bit address of element i; rows holds row addresses taken from the address stream (R46, R76, R88). -/
def Desc.elemBit (d : Desc) (rows : List Nat) (i : Nat) : Nat :=
  let n := d.rowElems
  8 * d.rowStart rows (i / n) + (i % n) * d.format.width

/-- The code of element i. -/
def Desc.elem (d : Desc) (m : Memory) (rows : List Nat) (i : Nat) : Nat := readBits m (d.elemBit rows i) d.format.width

/-- m with element i written. -/
def Desc.setElem (d : Desc) (m : Memory) (rows : List Nat) (i v : Nat) : Memory :=
  writeBits m (d.elemBit rows i) d.format.width v

/-- Index of the scale byte of element i: by row and block of 32 within the row (R48, R102). -/
def Desc.scaleIndex (d : Desc) (i : Nat) : Nat :=
  let n := d.rowElems
  i / n * ceilDiv n 32 + i % n / 32

/-- The scale byte of element i; 0x7F, which is 1, without a scale vector (R48). -/
def Desc.scaleOf (d : Desc) (m : Memory) (i : Nat) : Nat :=
  if d.scale then (m.byte (d.aux.toNat + d.scaleIndex i)).toNat else 0x7F

/-- Element i is present under the descriptor's mask (R76). -/
def Desc.present (d : Desc) (m : Memory) (i : Nat) : Bool :=
  if d.mask then (m.byte (d.aux.toNat + i / 8)).getLsbD (i % 8) else true

/-- The bytes of a descriptor's rows, whole words, row by row (R78). -/
def Desc.rowBytes (d : Desc) (m : Memory) (rows : List Nat) : List Byte :=
  ((List.range d.rows).map fun j => m.read (d.rowStart rows j) (32 * d.rowWords)).flatten

/-- m with bytes written into the words of a descriptor's rows, row by row; bytes beyond the last are dropped. -/
def Desc.putBytes (d : Desc) (m : Memory) (rows : List Nat) (bs : List Byte) : Memory :=
  (List.range d.rows).foldl (fun m j =>
    m.write (d.rowStart rows j) ((bs.drop (32 * d.rowWords * j)).take (32 * d.rowWords))) m

/-- Words that the elements of a descriptor's rows cover whole. -/
def Desc.wholeWords (d : Desc) (rows : List Nat) : List Nat :=
  let n := d.rowElems
  ((List.range d.rows).map fun j =>
    (List.range (min n (d.count.toNat - j * n) * d.format.width / 256)).map (d.rowStart rows j / 32 + ·)).flatten

/-- The packed elements of a descriptor as bytes, count * width / 8 of them, row by row (06 R202). -/
def Desc.packedBytes (d : Desc) (m : Memory) : List Byte :=
  let w := d.format.width
  let n := d.rowElems
  let per (j : Nat) := (min n (d.count.toNat - j * n)) * w / 8
  ((List.range d.rows).map fun j => m.read (d.rowStart [] j) (per j)).flatten

/-! ### Roles of 04 R99 -/

/-- A descriptor is read or written by its instruction. -/
inductive Role where
  | src | dst
  deriving DecidableEq, Repr

/-- Roles of the descriptors of an instruction, in order. -/
def roles (mn : Mnem) (nd : Nat) : List Role :=
  match mn with
  | .mm | .mmBs | .mmGs | .mmBgs => [.src, .src, .dst, .src].take nd
  | .trMap => List.replicate (nd - 1) .src ++ [.dst]
  | .trRed => [.src, .dst].take nd
  | .trCvt | .shPrune | .shTmask | .mvCopy => [.src, .dst]
  | .mvMrecv | .mvGet | .mvRecv => [.dst]
  | .mvSend => [.src, .src]
  | .trLdprog | .mvMesh | .mvPut | .cvFeed => [.src]
  | _ => []

/-- The engine that executes an instruction (R86): its class. -/
def engineOf : Mnem → Nat
  | .mm | .mmBs | .mmGs | .mmBgs => 1
  | .trMap | .trRed | .trCvt | .trLdprog => 2
  | .shPrune | .shTmask => 3
  | .mvCopy | .mvMesh | .mvMrecv | .mvGet | .mvPut | .mvSend | .mvRecv => 4
  | .cvInit | .cvWb | .cvWh | .cvWw | .cvRead | .cvSave | .cvRestore | .cvFeed => 5
  | _ => 0

/-- The async instructions (R78). -/
def isAsync : Mnem → Bool
  | .mmBs | .mmGs | .mmBgs | .mvMesh | .mvMrecv | .mvGet | .mvPut | .mvSend | .mvRecv => true
  | _ => false

/-- The sparse forms of the Harrow. -/
def isSparseMm : Mnem → Bool
  | .mmBs | .mmGs | .mmBgs => true
  | _ => false

/-- The descriptor that an instruction with ast = 1 takes from the address stream: descriptor 0, or descriptor 1 of MV_COPY as a
scatter with ef[0] = 1 (R88). -/
def astIndex (i : Shoze) : Nat := if i.mn = .mvCopy && i.ef.getLsbD 0 then 1 else 0

/-- The signed 24-bit immediate. -/
def Shoze.simm (i : Shoze) : Int := i.imm.toInt

/-- s[sa] plus the signed immediate on 32 bits (R78). -/
def Tiller.effAddr (T : Tiller) (i : Shoze) : Nat := (T.reg i.sa.toNat + BitVec.signExtend 32 i.imm).toNat

/-- Base of descriptor k of an instruction at issue: descriptor 0's takes s[sa] under dyn (R77). -/
def Tiller.baseOf (T : Tiller) (i : Shoze) (k : Nat) (d : Desc) : Nat :=
  if k = 0 && i.dyn then (BitVec.setWidth 32 d.base + T.reg i.sa.toNat).toNat else d.base.toNat

/-- An instruction with descriptor 0's dynamic base put in. -/
def Tiller.resolve (T : Tiller) (i : Shoze) : Shoze :=
  if i.dyn then
    match i.ds with
    | d :: t => { i with ds := { d with base := BitVec.ofNat 21 (T.baseOf i 0 d) } :: t }
    | [] => i
  else i

/-- The descriptors of an instruction with their index and role. -/
def Shoze.operands (i : Shoze) : List (Nat × Desc × Role) :=
  ((List.range i.ds.length).zip (i.ds.zip (roles i.mn i.ds.length)))

/-- Whether an instruction writes the scale vector of its destination (R100). -/
def writesScale (i : Shoze) : Bool :=
  match i.mn with
  | .trMap | .trCvt => i.ef.getLsbD 0
  | .shPrune => true
  | _ => false

/-- Element and auxiliary footprints an instruction reads (R76, R100); an address-stream descriptor has none at issue. -/
def Tiller.srcFeet (T : Tiller) (i : Shoze) : List (Int × Int) :=
  (i.operands.map fun p =>
    let d := p.2.1
    let own := if i.ast && p.1 == astIndex i then [] else d.footprint (T.baseOf i p.1 d)
    match p.2.2 with
    | .src => own ++ d.auxFootprint
    | .dst => if d.mask || (d.scale && !writesScale i) then d.auxFootprint else []).flatten

/-- Element and auxiliary footprints an instruction writes. -/
def Tiller.dstFeet (T : Tiller) (i : Shoze) : List (Int × Int) :=
  (i.operands.map fun p =>
    let d := p.2.1
    match p.2.2 with
    | .src => []
    | .dst =>
      (if i.ast && p.1 == astIndex i then [] else d.footprint (T.baseOf i p.1 d)) ++
      (if d.sparse || (d.scale && writesScale i) then d.auxFootprint else [])).flatten

/-- Two descriptors agree in all that R100 names, so that a destination may coincide with a source. -/
def Desc.coincides (a b : Desc) : Bool :=
  decide (a.fmt = b.fmt ∧ a.base = b.base ∧ a.count = b.count ∧ a.rowLen = b.rowLen ∧ a.stride = b.stride ∧
    a.scale = b.scale ∧ a.mask = b.mask ∧ a.sparse = b.sparse) &&
  (!(a.scale || a.mask || a.sparse) || decide (a.aux = b.aux))

/-- Whether an instruction may compute in place (R100). -/
def mayCoincide : Mnem → Bool
  | .mm | .mmBs | .mmGs | .mmBgs | .trMap | .trCvt => true
  | _ => false

/-- Whether source descriptor k of an instruction may coincide with D: C of a Harrow form, any source of a TR_MAP or TR_CVT. -/
def coincideIndex (i : Shoze) (k : Nat) : Bool :=
  match i.mn with
  | .mm | .mmBs | .mmGs | .mmBgs => k == 3
  | .trMap | .trCvt => true
  | _ => false

/-- A footprint of one list overlaps one of the other. -/
def anyOverlap (a b : List (Int × Int)) : Bool := a.any fun f => b.any fun g => overlaps f g

/-- A destination of an instruction overlaps one of its own sources in a way R100 refuses. At most one source may coincide: element
with element, scale vector with scale vector. hidden tells the descriptors whose rows are not known yet: only their auxiliary
vectors count, and one that may yet coincide counts as coinciding. -/
def ownOverlap (i : Shoze) (hidden : Nat → Bool) : Bool :=
  let ops := i.operands
  let srcs := ops.filter fun p => p.2.2 = .src
  let feet (p : Nat × Desc × Role) : List (Int × Int) := if hidden p.1 then [] else p.2.1.footprint p.2.1.base.toNat
  (ops.filter fun p => p.2.2 = .dst).any fun p =>
    let d := p.2.1
    let wrAux := if d.sparse || (d.scale && writesScale i) then d.auxFootprint else []
    let ownAux := if d.mask || (d.scale && !writesScale i) then d.auxFootprint else []
    let same := srcs.find? fun q =>
      coincideIndex i q.1 && Desc.coincides (if hidden q.1 || hidden p.1 then { q.2.1 with base := d.base } else q.2.1) d
    let rest := srcs.filter fun q => same.map (·.1) != some q.1
    anyOverlap (feet p ++ wrAux) ((rest.map fun q => feet q ++ q.2.1.auxFootprint).flatten ++ ownAux) ||
    (match same with
      | some q => anyOverlap (feet p) q.2.1.auxFootprint || anyOverlap wrAux (feet q)
      | none => false)

/-! ### Sparse metadata (04 R105 to R108) -/

/-- The sparse metadata header. -/
structure SpHdr where
  /-- form, 1 to 4 -/
  form : Nat
  /-- n -/
  n : Nat
  /-- reserved bytes are 0 -/
  resvOk : Bool
  /-- M -/
  rows : Nat
  /-- K -/
  depth : Nat
  /-- address of the tile bitmap -/
  bitmap : Nat
  /-- address of the group metadata or masks -/
  groups : Nat
  /-- address of the scale vector, 0xFFFF_FFFF for none -/
  scale : Nat
  /-- P, number of present tiles -/
  tiles : Nat
  deriving DecidableEq, Repr

/-- The header read from 32 bytes. -/
def spHdr (b : List Byte) : SpHdr :=
  { form := fieldAt b 0 1, n := fieldAt b 1 1, resvOk := allZero (slice b 2 2) && allZero (slice b 28 4),
    rows := fieldAt b 4 4, depth := fieldAt b 8 4, bitmap := fieldAt b 12 4, groups := fieldAt b 16 4,
    scale := fieldAt b 20 4, tiles := fieldAt b 24 4 }

/-- The 32 bytes of a header. -/
def SpHdr.bytes (h : SpHdr) : List Byte :=
  toLE 1 h.form ++ toLE 1 h.n ++ [0#8, 0#8] ++ toLE 4 h.rows ++ toLE 4 h.depth ++ toLE 4 h.bitmap ++ toLE 4 h.groups ++
  toLE 4 h.scale ++ toLE 4 h.tiles ++ [0#8, 0#8, 0#8, 0#8]

/-- Tile rows TR. -/
def SpHdr.tr (h : SpHdr) : Nat := ceilDiv h.rows 16

/-- Tile columns TC. -/
def SpHdr.tc (h : SpHdr) : Nat := ceilDiv h.depth 16

/-- Forms 2 and 3 hold group metadata. -/
def SpHdr.grouped (h : SpHdr) : Bool := h.form == 2 || h.form == 3

/-- Bytes of one group metadata field (R107). -/
def SpHdr.fieldBytes (h : SpHdr) : Nat := if h.n = 1 then 1 else 2

/-- Value elements per present tile (R106). -/
def SpHdr.perTile (h : SpHdr) : Nat := if h.grouped then 32 * h.n else 256

/-- Bytes of the tile bitmap. -/
def SpHdr.bitmapBytes (h : SpHdr) : Nat := ceilDiv (h.tr * h.tc) 8

/-- Bytes of the group metadata, or of the masks of form 4. -/
def SpHdr.groupBytes (h : SpHdr) : Nat := if h.grouped then 32 * h.tiles * h.fieldBytes else if h.form = 4 then 32 * h.tiles else 0

/-- Bytes of the scale vector, by dense position (R108). -/
def SpHdr.scaleBytes (h : SpHdr) : Nat := if h.scale = 0xFFFFFFFF then 0 else h.rows * ceilDiv h.depth 32

/-- Footprints of the ranges the header names (R101). -/
def SpHdr.feet (h : SpHdr) : List (Int × Int) :=
  (if h.form = 2 then [] else byteSpan h.bitmap h.bitmapBytes) ++
  (if h.form = 1 then [] else byteSpan h.groups h.groupBytes) ++ byteSpan h.scale h.scaleBytes

/-- Present bit of tile number b (R106); every tile is present in form 2. -/
def SpHdr.tilePresent (h : SpHdr) (m : Memory) (b : Nat) : Bool :=
  if h.form = 2 then true else (m.byte (h.bitmap + b / 8)).getLsbD (b % 8)

/-- The present tiles in ascending b (R106). -/
def SpHdr.presentTiles (h : SpHdr) (m : Memory) : List Nat := (List.range (h.tr * h.tc)).filter (h.tilePresent m)

/-- The metadata field of group g in tile row r of present tile p (R107). -/
def SpHdr.field (h : SpHdr) (m : Memory) (p r g : Nat) : Nat :=
  leNat (m.read (h.groups + (32 * p + 2 * r + g) * h.fieldBytes) h.fieldBytes)

/-- Count of a metadata field. -/
def fieldCount (f : Nat) : Nat := f % 8

/-- Position code of slot i of a metadata field. -/
def fieldPos (f i : Nat) : Nat := f / 2 ^ (3 + 3 * i) % 8

/-- The scale byte of A[m][k] (R108). -/
def SpHdr.scaleOf (h : SpHdr) (m : Memory) (row k : Nat) : Nat :=
  if h.scale = 0xFFFFFFFF then 0x7F else (m.byte (h.scale + row * ceilDiv h.depth 32 + k / 32)).toNat

end Sys2Proof.Machine
end

