-- ==== Sys2Proof/Machine/Buffer.lean ====
section
/-!
DEFINITION. Packets and the shared buffer (file 06): the header's fields (R178 to R182), cells and buffer classes (R191 to
R194), dropping and counting (R203), and the power domains that the buffer and the slices stand on (01 R16).
-/

namespace Sys2Proof.Machine

/-! ### Power domains (01 R16) -/

/-- Domain index of Tiller group g. -/
def domTiller (g : Nat) : Nat := g
/-- Domain index of optical engine o. -/
def domOe (o : Nat) : Nat := 24 + o
/-- Domain index of electrical port group g. -/
def domGroup (g : Nat) : Nat := 33 + g
/-- Domain index of CXL port k. -/
def domCxl (k : Nat) : Nat := 42 + k
/-- Domain index of the GDDR7 group of die d. -/
def domGddr (d : Nat) : Nat := 44 + d
/-- Domain index of shared-buffer quadrant q. -/
def domQuad (q : Nat) : Nat := 48 + q
/-- Domain index of forwarding slice i. -/
def domSlice (i : Nat) : Nat := 52 + i

/-- A switched domain is on. -/
def State.domOn (s : State) (d : Nat) : Bool := SMap.get falseAt s.pwr.domOn d

/-! ### Header fields (06 R178, R181, R182) -/

/-- Byte i of a packet. -/
def Pkt.byte (p : Pkt) (i : Nat) : Nat := (p.bytes.getD i 0#8).toNat
/-- version. -/
def Pkt.version (p : Pkt) : Nat := p.byte 0 % 16
/-- kind. -/
def Pkt.kind (p : Pkt) : Nat := p.byte 0 / 16
/-- vc. -/
def Pkt.vc (p : Pkt) : Nat := p.byte 1 % 8
/-- phase. -/
def Pkt.phase (p : Pkt) : Nat := p.byte 1 / 8 % 2
/-- rank_last. -/
def Pkt.rankLast (p : Pkt) : Nat := p.byte 1 / 16
/-- colour. -/
def Pkt.colour (p : Pkt) : Nat := p.byte 2 % 4
/-- sub_stream. -/
def Pkt.sub (p : Pkt) : Nat := p.byte 2 / 4 % 16
/-- epoch. -/
def Pkt.epoch (p : Pkt) : Nat := p.byte 3
/-- length field. -/
def Pkt.lenField (p : Pkt) : Nat := fieldAt p.bytes 4 2 % 8192
/-- ctx. -/
def Pkt.ctx (p : Pkt) : Nat := p.byte 6
/-- slot. -/
def Pkt.slotNo (p : Pkt) : Nat := p.byte 7
/-- flow. -/
def Pkt.flow (p : Pkt) : Nat := fieldAt p.bytes 8 2
/-- src. -/
def Pkt.src (p : Pkt) : Nat := fieldAt p.bytes 10 2
/-- tag. -/
def Pkt.tag (p : Pkt) : Nat := fieldAt p.bytes 12 4
/-- hop_ptr. -/
def Pkt.hopPtr (p : Pkt) : Nat := p.byte 16 % 16
/-- hop_count. -/
def Pkt.hopCount (p : Pkt) : Nat := p.byte 16 / 16
/-- Hop byte i. -/
def Pkt.hop (p : Pkt) (i : Nat) : Nat := p.byte (17 + i)
/-- Port that the current hop names. -/
def Pkt.hopPort (p : Pkt) : Nat := p.hop p.hopPtr % 64
/-- The return-route field. -/
def Pkt.ret (p : Pkt) : List Byte := slice p.bytes 32 16
/-- The payload. -/
def Pkt.payload (p : Pkt) : List Byte := p.bytes.drop 48
/-- Bytes, header included. -/
def Pkt.len (p : Pkt) : Nat := p.bytes.length
/-- A packet with byte i replaced. -/
def Pkt.setByte (p : Pkt) (i v : Nat) : Pkt := { p with bytes := p.bytes.set i (BitVec.ofNat 8 v) }
/-- Cells a packet of a number of bytes occupies (01 R19). -/
def cellsFor (bytes : Nat) : Nat := ceilDiv bytes 256
/-- Cells a packet holds. -/
def Pkt.nCells (p : Pkt) : Nat := p.cells.foldl (· + ·) 0
/-- Buffer class 16p + 2 vc + sc of a packet (06 R192). -/
def Pkt.cls (p : Pkt) : Nat := 16 * p.inPort + 2 * p.vc + p.sc

/-! ### Cells and classes (06 R191 to R194) -/

/-- Cells charged to a class, with those set aside for grants. -/
def State.classUse (s : State) (c : Nat) : Nat := SMap.get zeroAt s.fab.classUse c + SMap.get zeroAt s.fab.setAside c

/-- min_cells of a class. -/
def State.minCells (s : State) (c : Nat) : Nat := (SMap.get bufCfgAt s.fab.bufCfg c).1

/-- max_cells of a class. -/
def State.maxCells (s : State) (c : Nat) : Nat := (SMap.get bufCfgAt s.fab.bufCfg c).2

/-- Powered cells. -/
def State.poweredCells (s : State) : Nat := 196608 * ((List.range 4).filter fun q => s.domOn (domQuad q)).length

/-- Sum of the minima of all 608 classes under a configuration. -/
def sumMinima (cfg : SMap (Nat × Nat)) : Nat :=
  (608 - cfg.length) * 34 + cfg.foldl (fun n p => n + p.2.1) 0

/-- Cells reserved for collective slots. -/
def State.slotCells (s : State) : Nat := s.slots.foldl (fun n p => n + p.2.cells) 0

/-- Cells in use beyond a class's minimum. -/
def State.overUse (s : State) (c : Nat) : Nat := s.classUse c - s.minCells c

/-- Shared cells in use: the excess over min_cells, summed over the classes (06 R192). -/
def State.sharedUse (s : State) : Nat :=
  (dedup2 (s.fab.classUse.map (·.1)) (s.fab.setAside.map (·.1))).foldl (fun n c => n + s.overUse c) 0
where
  /-- The keys of two maps without repeats. -/
  dedup2 (a b : List Nat) : List Nat := a ++ b.filter fun x => !a.contains x

/-- Free cells of the shared pool; a negative difference counts as 0 (06 R192). -/
def State.sharedFree (s : State) : Nat :=
  s.poweredCells - (sumMinima s.fab.bufCfg + s.slotCells + s.sharedUse)

/-- A packet of k cells is admitted to class c (06 R192). -/
def State.admits (s : State) (c k : Nat) : Bool :=
  let u := s.classUse c
  decide (u + k ≤ s.maxCells c) && decide (k - (s.minCells c - u) ≤ s.sharedFree)

/-- n cells taken from the powered quadrants in turn, one from each (06 R191): cells per quadrant, free cells left, next
quadrant. tries bounds the search for a quadrant that has a cell. -/
def takeCells (on : Nat → Bool) : Nat → List Nat → List Nat → Nat → List Nat × List Nat × Nat
  | 0, got, free, turn => (got, free, turn)
  | n + 1, got, free, turn =>
    let q := ((List.range 4).map fun i => (turn + i) % 4).find? fun q => on q && decide (0 < free.getD q 0)
    match q with
    | none => (got, free, turn)
    | some q => takeCells on n (got.set q (got.getD q 0 + 1)) (free.set q (free.getD q 0 - 1)) ((q + 1) % 4)

/-- s with a packet's cells taken; the packet comes back with its cells. -/
def State.allocCells (s : State) (p : Pkt) : Pkt × State :=
  let r := takeCells (fun q => s.domOn (domQuad q)) (cellsFor p.len) [0, 0, 0, 0] s.fab.quadFree s.fab.quadTurn
  ({ p with cells := r.1 }, s.modFab fun b => { b with quadFree := r.2.1, quadTurn := r.2.2 })

/-- s with k added to a class's charge. -/
def State.chargeClass (s : State) (c k : Nat) : State :=
  s.modFab fun b => { b with classUse := SMap.set zeroAt c (SMap.get zeroAt b.classUse c + k) b.classUse }

/-- s with k taken from a class's charge. -/
def State.unchargeClass (s : State) (c k : Nat) : State :=
  s.modFab fun b => { b with classUse := SMap.set zeroAt c (SMap.get zeroAt b.classUse c - k) b.classUse }

/-- s with k added to a slot's charge. -/
def State.chargeSlot (s : State) (l k : Nat) : State :=
  s.modFab fun b => { b with slotUse := SMap.set zeroAt l (SMap.get zeroAt b.slotUse l + k) b.slotUse }

/-- s with k taken from a slot's charge. -/
def State.unchargeSlot (s : State) (l k : Nat) : State :=
  s.modFab fun b => { b with slotUse := SMap.set zeroAt l (SMap.get zeroAt b.slotUse l - k) b.slotUse }

/-- A slot's reservation has room for k more cells (06 R194). -/
def State.slotRoom (s : State) (l k : Nat) : Bool :=
  decide (SMap.get zeroAt s.fab.slotUse l + k ≤ (s.slot l).cells)

/-- s with a packet's cells returned to their quadrants and its charge lifted (01 R18 step 7, 06 R192). -/
def State.release (s : State) (p : Pkt) : State :=
  let s := s.modFab fun b => { b with quadFree := (b.quadFree.zip p.cells).map fun x => x.1 + x.2 }
  match p.slot with
  | some l => s.unchargeSlot l p.nCells
  | none => s.unchargeClass p.cls p.nCells

/-- s with a packet dropped: its cells return and the drop is counted under a reason on a port (06 R203). -/
def State.dropPkt (s : State) (p : Pkt) (port reason : Nat) : State := (s.release p).count (ctrDrop port reason) 1

/-- s with a counter of a slot changed: packets of a slot dropped under 05 R143. -/
def State.slotDrop (s : State) (l : Nat) (f : Slot → Slot) : State := s.modSlot l f

/-- A 64-bit counter plus one. -/
def inc64 (c : BitVec 64) : BitVec 64 := c + 1#64

/-- s with a protocol drop counted for slot l (05 R143). -/
def State.protoDrop (s : State) (l : Nat) : State := s.slotDrop l fun S => { S with proto := inc64 S.proto }

/-- s with a window drop counted for slot l. -/
def State.windowDrop (s : State) (l : Nat) : State := s.slotDrop l fun S => { S with window := inc64 S.window }

/-- s with a duplicate drop counted for slot l. -/
def State.dupDrop (s : State) (l : Nat) : State := s.slotDrop l fun S => { S with dup := inc64 S.dup }

/-! ### The order within a FAB_CLK cycle (07 R222) -/

/-- Place k of the order within a cycle has not passed yet in this FAB_CLK cycle: 0 to 3 are the slices' decisions, 4 the schedulers'
selections, 5 a command that completes, whose effect the next cycle is the first to see. -/
def State.inTurn (s : State) (k : Nat) : Bool := s.fab.turn.1 != s.clk.fab + 1 || decide (s.fab.turn.2 ≤ k)

/-- s with place k taken in this cycle. -/
def State.takeTurn (s : State) (k : Nat) : State :=
  s.modFab fun b => { b with turn := (s.clk.fab + 1, if s.inTurn k then k else b.turn.2) }

/-- s after a command that changes how packets are classified, metered, dropped or sent: what is decided later sees it from the next cycle
on. -/
def State.configured (s : State) : State := s.takeTurn 5

/-- Scheduler port p can take packets: ports 36 and 37 always, a fabric port while it is ACTIVE (09 R267). -/
def State.portUp (s : State) (p : Nat) : Bool := decide (36 ≤ p) || decide ((s.port p).link.state = .active)

/-- The steering entry for a context's sub-stream or a slot's (01 R20). -/
def State.steer (s : State) (k : Nat) : Option Nat := SMap.get noneAt s.fab.steer k

/-- Key of the steering entry of context x, sub-stream u. -/
def steerCtx (x u : Nat) : Nat := 16 * x + u

/-- Key of the steering entry of slot l, sub-stream u. -/
def steerSlot (l u : Nat) : Nat := 4096 + 16 * l + u

end Sys2Proof.Machine
end

