-- ==== Sys2Proof/Machine/SlotOps.lean ====
section
/-!
DEFINITION. Shared operations of a collective slot (file 05): the packets it sends to members and neighbours, straggler
records, aborting steps, and discarding uncommitted steps when a lane Tiller faults. A recipient is named by its rank, or by
4096 plus its index in the neighbour table.
-/

namespace Sys2Proof.Machine

/-- Packet kinds of 05 R141. -/
abbrev kContrib : Nat := 1
/-- PARTIAL. -/
abbrev kPartial : Nat := 2
/-- RESULT. -/
abbrev kResult : Nat := 3
/-- COUNT. -/
abbrev kCount : Nat := 4
/-- COUNT_REPLY. -/
abbrev kCountReply : Nat := 5
/-- STEP_ABORT. -/
abbrev kAbort : Nat := 6
/-- STEP_REPLAY. -/
abbrev kReplay : Nat := 7
/-- RESULT_REQUEST. -/
abbrev kRequest : Nat := 8

/-- The fields of a collective prefix that vary (05 R140). -/
structure CPrefix where
  /-- kind -/
  kind : Nat := 0
  /-- status -/
  status : Nat := 0
  /-- slot -/
  slot : Nat := 0
  /-- flags [3:0]: last, origin, lineage, acc -/
  flags : Nat := 0
  /-- rank -/
  rank : Nat := 0
  /-- chunk index, 20 bits -/
  chunk : Nat := 0
  /-- step -/
  step : Nat := 0
  /-- tag -/
  tag : Nat := 0
  /-- seg -/
  seg : Nat := 0
  /-- gen -/
  gen : Nat := 0
  deriving DecidableEq, Repr

/-- The 16 bytes of a collective prefix. -/
def CPrefix.bytes (p : CPrefix) : List Byte :=
  toLE 1 p.kind ++ toLE 1 p.status ++ toLE 1 p.slot ++ toLE 1 (p.flags % 16 + 16 * (p.chunk / 65536)) ++ toLE 2 p.rank ++
  toLE 2 p.chunk ++ toLE 4 p.step ++ toLE 2 p.tag ++ toLE 1 p.seg ++ toLE 1 p.gen

/-- The prefix read from a payload. -/
def readPrefix (b : List Byte) : CPrefix :=
  { kind := fieldAt b 0 1, status := fieldAt b 1 1, slot := fieldAt b 2 1, flags := fieldAt b 3 1 % 16,
    rank := fieldAt b 4 2, chunk := fieldAt b 6 2 + 65536 * (fieldAt b 3 1 / 16), step := fieldAt b 8 4,
    tag := fieldAt b 12 2, seg := fieldAt b 14 1, gen := fieldAt b 15 1 }

/-- Flag bits of a prefix. -/
abbrev fLast : Nat := 1
/-- Origin records. -/
abbrev fOrigin : Nat := 2
/-- Lineage digest. -/
abbrev fLineage : Nat := 4
/-- Accumulation format. -/
abbrev fAcc : Nat := 8

/-- A payload padded to the least length a packet may have (06 R178). -/
def padPayload (b : List Byte) : List Byte := if b.length < 16 then padTo 16 b else b

/-- A member-table entry by rank. -/
def Slot.member? (S : Slot) (r : Nat) : Option Member := S.members.find? fun m => m.rank == r

/-- A neighbour-table entry by index. -/
def Slot.nbr? (S : Slot) (i : Nat) : Option Nbr := S.nbrs[i]?

/-- Every member and neighbour of a slot, as recipients. -/
def Slot.everyone (S : Slot) : List Nat := S.members.map (·.rank) ++ (List.range S.nbrs.length).map (4096 + ·)

/-- The lane a chunk goes to (05 R142). -/
def Slot.laneOf (S : Slot) (chunk : Nat) : Nat := chunk % 16 % max 1 S.bind.lanes

/-- A member-table entry without what it replaced. -/
def Member.entry (m : Member) : OldMember :=
  { port := m.port, base := m.base, route := m.route, since := m.since, timesLast := m.timesLast, lateness := m.lateness }

/-- The entry that holds a member's rank in step n, and those it replaced (05 R175). -/
def Member.heldBy (m : Member) (n : Nat) : List OldMember := (m.entry :: m.old).dropWhile fun e => decide (n < e.since)

/-- Port, base and route of a rank in a step. -/
def Member.inStep (m : Member) (n : Nat) : OldMember := (m.heldBy n).headD m.entry

/-- A packet of step n that came in on a port comes from a member that the rank had before (05 R175). -/
def Member.replaced (m : Member) (n port : Nat) : Bool :=
  match m.heldBy n with
  | [] => false
  | e :: before => e.port != port && before.any fun o => o.port == port

/-- The packet of a slot to a recipient (05 R140; the header carries the slot's own context and its epoch). -/
def State.slotPacket (s : State) (l dest : Nat) (p : CPrefix) (data : List Byte) : List Byte :=
  let S := s.slot l
  let x := S.bind.ctx
  let tgt : Nat × Nat × List Byte :=
    if dest < 4096 then (l, S.bind.gen, ((S.member? dest).map fun m => (m.inStep p.step).route).getD [])
    else match S.nbr? (dest - 4096) with
      | some n => (n.slot, n.gen, n.route)
      | none => (0, 0, [])
  let body := { p with slot := tgt.1, gen := tgt.2.1 }.bytes ++ data
  mkHeader 1 S.bind.vc (p.chunk % 16) (s.epoch x).toNat x tgt.1 0 0 0 body.length tgt.2.2 ++ body

/-- s with a packet of a slot handed to the lane Tiller of its chunk for sending. -/
def State.slotSend (s : State) (l dest : Nat) (p : CPrefix) (data : List Byte) : State :=
  let S := s.slot l
  match S.laneTs[S.laneOf p.chunk]? with
  | none => s
  | some t => s.modT t fun T => { T with sendQ := T.sendQ ++ [{ bytes := s.slotPacket l dest p data }] }

/-- s with one packet of a slot sent to each of several recipients. -/
def State.slotSendAll (s : State) (l : Nat) (p : CPrefix) (dests : List Nat) : State :=
  dests.foldl (fun s d => s.slotSend l d { p with rank := if d < 4096 then d else 0 } []) s

/-- Where an input came from, as a recipient. -/
def Stream.source (x : Stream) : Nat := match x.nbr with | some i => 4096 + i | none => x.rank

/-- Recipients without repeats. -/
def dedup (l : List Nat) : List Nat := l.foldl (fun a x => if a.contains x then a else a ++ [x]) []

/-- Saturation to n bits. -/
def satNat (n v : Nat) : Nat := min v (2 ^ n - 1)

/-- The last-arriving input: the greatest stamp, the lowest rank among equals (05 R173). -/
def lastInput (l : List Stream) : Option Stream :=
  l.foldl (fun (b : Option Stream) x => match b with
    | none => some x
    | some y => if y.stamp < x.stamp || (y.stamp == x.stamp && decide (x.slow < y.slow)) then some x else some y) none

/-- The inputs of a step that have arrived: for each member or neighbour the stream that arrived last among those whose packet with
the last flag is here (05 R173). -/
def StepSt.inputs (st : StepSt) : List Stream :=
  let l := st.streams.filter fun x => !x.ends.isEmpty && (x.kind == kContrib || x.kind == kPartial)
  (dedup (l.map Stream.source)).filterMap fun d => lastInput (l.filter fun x => x.source == d)

/-- Greatest stamp among inputs other than one of them. -/
def secondStamp (l : List Stream) (x : Stream) : Nat := (l.erase x).foldl (fun a y => max a y.stamp) 0

/-- Margin of the last input in ns: 0 with one input, or when two share the last stamp (05 R173). -/
def marginOf (l : List Stream) (x : Stream) : Nat := if l.length ≤ 1 then 0 else satNat 32 (x.stamp - secondStamp l x)

/-- The 32 bytes of a step's straggler record (05 R173). -/
def stragglerRec (st : StepSt) (aborted : Bool) : List Byte :=
  let l := st.inputs
  match lastInput l with
  | none => toLE 4 st.num ++ [0#8, 0#8, 0#8, BitVec.ofNat 8 ((if aborted then 2 else 0) + (if st.replays > 0 then 4 else 0))] ++ List.replicate 24 0#8
  | some x =>
    toLE 4 st.num ++ toLE 2 x.slow ++ toLE 1 x.port ++
    toLE 1 ((if x.kind = kPartial then 1 else 0) + (if aborted then 2 else 0) + (if st.replays > 0 then 4 else 0)) ++
    toLE 8 (l.foldl (fun a y => min a y.stamp) x.stamp) ++ toLE 8 x.stamp ++ toLE 4 (marginOf l x) ++ toLE 4 l.length

/-- A slot with the cumulative counters of a step's last input advanced, those of the member that held the rank in that step; they saturate
(05 R174, R175). -/
def Slot.countLast (S : Slot) (st : StepSt) : Slot :=
  match lastInput st.inputs with
  | none => S
  | some x =>
    let m := marginOf st.inputs x
    match x.nbr with
    | some i =>
      { S with nbrs := ((List.range S.nbrs.length).zip S.nbrs).map fun p =>
          if p.1 = i then { p.2 with timesLast := satNat 32 (p.2.timesLast + 1), lateness := satNat 64 (p.2.lateness + m) } else p.2 }
    | none =>
      let late (t d : Nat) : Nat × Nat := (satNat 32 (t + 1), satNat 64 (d + m))
      { S with members := S.members.map fun e =>
          if e.rank ≠ x.rank then e
          else if e.since ≤ st.num then let c := late e.timesLast e.lateness; { e with timesLast := c.1, lateness := c.2 }
          else { e with old := e.old.map fun o =>
            if o.since = (e.inStep st.num).since then let c := late o.timesLast o.lateness; { o with timesLast := c.1, lateness := c.2 } else o } }

/-- s with the straggler record of a step kept, the newest first and at most 64, and its last input counted (05 R173, R174). -/
def State.straggle (s : State) (l : Nat) (st : StepSt) (aborted : Bool) : State :=
  s.modSlot l fun S => { (S.countLast st) with strag := (stragglerRec st aborted :: S.strag).take 64 }

/-- s with steps of a slot aborted: STEP_ABORT for each to every member and neighbour but one, a straggler record for each,
and their state discarded (05 R155, R173). -/
def State.abortSteps (s : State) (l status : Nat) (steps : List Nat) (except : Option Nat) : State :=
  let s := steps.foldl (fun s n =>
    let s := s.slotSendAll l { kind := kAbort, status := status, step := n } ((s.slot l).everyone.filter fun d => some d != except)
    match (s.slot l).steps.find? fun x => x.num == n with
    | some st => s.straggle l st true
    | none => s) s
  s.modSlot l fun S => { S with
    steps := S.steps.filter fun x => !(steps.contains x.num), aborted := dedup (S.aborted ++ steps), replayQ := S.replayQ.filter fun x => !(steps.contains x.1) }

/-- The uncommitted steps of a slot, ascending. -/
def Slot.uncommitted (S : Slot) : List Nat := (S.steps.map (·.num)).mergeSort (· ≤ ·)

/-- s with the uncommitted steps of slot l discarded because a lane Tiller faulted or is reset; a third failure of a step
aborts the uncommitted steps with FAULTED and the slot becomes FAULTED (05 R153). Replay is a user operator's own program's (R171). -/
def State.discardSlot (s : State) (l : Nat) : State :=
  let S := s.slot l
  if 0x80 ≤ S.bind.op then s
  else if S.steps.any fun x => decide (2 ≤ x.replays) then
    (s.abortSteps l stFaulted S.uncommitted none).modSlot l fun S => { S with state := .faulted }
  else s.modSlot l fun S => { S with
    replayQ := S.replayQ ++ (S.steps.map fun x => (dedup (x.streams.map Stream.source)).map fun d => (x.num, d)).flatten
    steps := S.steps.map fun x => { x with streams := [], counted := false, sentNodes := [], counting := [], replays := x.replays + 1 } }

/-- The slots that hold Tiller t as a lane: BOUND, or FAULTED and not yet unbound (05 R137). -/
def State.slotsOfLane (s : State) (t : Nat) : List Nat :=
  (s.slots.filter fun p => p.2.state ≠ .free && p.2.laneTs.contains t).map (·.1)

/-- s with the uncommitted steps of every slot that t serves discarded (05 R153). -/
def State.discardSteps (s : State) (t : Nat) : State := (s.slotsOfLane t).foldl State.discardSlot s

/-- A Tiller is a lane of a bound slot, or a service Tiller of the prefix store (13 R351). -/
def State.serves (s : State) (t : Nat) : Bool := !(s.slotsOfLane t).isEmpty || (s.pfx.on && s.pfx.tillers.contains t)

end Sys2Proof.Machine
end

