-- ==== Sys2Proof/Machine/Faults.lean ====
section
/-!
DEFINITION. What a fault of a Tiller does (03 R90, R91; 04 R112; 13 R346 to R351): the fault record, the CTX_FAULT event, the
stop, the discarded steps, the sample, and what an engine reset and a Tiller reset clear and reload.
-/

namespace Sys2Proof.Machine

/-- Fault codes of 10 R302. -/
abbrev faultHazard : Nat := 1
/-- FMT_VIOLATION. -/
abbrev faultFmt : Nat := 2
/-- NOT_PRESENT. -/
abbrev faultNotPresent : Nat := 3
/-- ECC_UNCORRECTABLE. -/
abbrev faultEcc : Nat := 4
/-- WATCHDOG. -/
abbrev faultWatchdog : Nat := 5
/-- ROUTE_RANK. -/
abbrev faultRouteRank : Nat := 6
/-- EPOCH_STALE. -/
abbrev faultEpochStale : Nat := 7

/-- RDCYC of Tiller t: CORE_CLK cycles since its start (03 R81). -/
def State.cycle (s : State) (t : Nat) : Nat := s.clk.core - (s.tl t).startCyc

/-- The context of a Tiller as a record's field. -/
def Tiller.ctxField (T : Tiller) : Nat := T.ctx.getD 0xFFFFFFFF

/-- The signature of a Tiller's context, or 0 (13 R368). -/
def State.sigOf (s : State) (T : Tiller) : BitVec 64 :=
  match T.ctx with
  | some x => (s.ctx x).signature
  | none => 0#64

/-- s after a Tiller of context x has stopped: every CTX_STOP that waits completes once no Tiller of the context runs (10 R296). -/
def State.stopCheck (s : State) (x : Nat) : State :=
  let C := s.ctx x
  if C.stops.isEmpty || C.tillers.any fun t => (s.tl t).run = TRun.running then s
  else (C.stops.foldl (fun s p => s.finish p.1 stOk) s).modCtx x fun C => { C with stops := [], started := false }

/-- s after a fault of Tiller t: the fault record, the CTX_FAULT event of its context, the stop, and the discarded steps of the
slots it serves (03 R90, 05 R153, 10 R297). A Tiller already faulted only writes the record. -/
def State.faultT (s : State) (t code engine : Nat) (det : List Byte) : State :=
  let T := s.tl t
  let seq := s.nextSeq
  let s := s.almQueue { type := 1, fault := code, ctx := T.ctxField, unit := t, engine := engine, signature := s.sigOf T, detail := det }
  if T.run = .faulted then s
  else
    let s := match T.ctx with
      | some x => s.ctxEvent x 2 stFaulted [x, t, code, seq]
      | none => s
    let s := (s.modT t fun T => { T with run := .faulted, fault := some { code := code, engine := engine, seq := seq } }).discardSteps t
    match T.ctx with
    | some x => s.stopCheck x
    | none => s

/-- A word of an interval as a detail field: all ones when there is none, 0 for a word below the first. 03 R91 gives all ones for the other_
fields alone, and neither for first_word and last_word: DESIGN CHOICE (log 99). -/
def wordField (v : Option Int) : Nat := match v with | some i => i.toNat | none => 0xFFFFFFFF

/-- A hazard found: cause, offending range, conflicting entry's index, engine and range. -/
structure Hazard where
  /-- cause code of 03 R89 -/
  cause : Nat
  /-- offending range, or register number -/
  range : Option (Int × Int) := none
  /-- conflicting entry's engine -/
  otherEngine : Nat := 0xFF
  /-- conflicting entry's index -/
  otherIndex : Nat := 0xFFFFFFFF
  /-- conflicting range -/
  otherRange : Option (Int × Int) := none
  deriving DecidableEq, Repr

/-- HAZARD detail of 03 R91. -/
def hazardDetail (h : Hazard) (engine mode index cycle : Nat) : List Byte :=
  toLE 1 h.cause ++ toLE 1 engine ++ toLE 1 h.otherEngine ++ toLE 1 mode ++ toLE 4 index ++ toLE 4 h.otherIndex ++
  toLE 4 cycle ++ toLE 4 (wordField (h.range.map (·.1))) ++ toLE 4 (wordField (h.range.map (·.2))) ++
  toLE 4 (wordField (h.otherRange.map (·.1))) ++ toLE 4 (wordField (h.otherRange.map (·.2)))

/-- s with Tiller t faulted by HAZARD (03 R90). -/
def State.hazard (s : State) (t engine index : Nat) (h : Hazard) : State :=
  s.faultT t faultHazard engine (hazardDetail h engine (s.tl t).mode index (s.cycle t))

/-- A format violation: reason and what the detail names (04 R110, R112, R125). -/
structure FmtViol where
  /-- reason code -/
  reason : Nat
  /-- form byte -/
  form : Nat := 0
  /-- tile row -/
  row : Nat := 0xFFFFFFFF
  /-- tile column -/
  col : Nat := 0xFFFFFFFF
  /-- group -/
  group : Nat := 0xFFFF
  /-- output rows written in full -/
  written : Nat := 0
  /-- scratchpad address of the offending byte -/
  addr : Nat := 0xFFFFFFFF
  deriving DecidableEq, Repr

/-- FMT_VIOLATION detail of 04 R112. -/
def fmtDetail (v : FmtViol) (engine mode index cycle : Nat) : List Byte :=
  toLE 1 v.reason ++ toLE 1 engine ++ toLE 1 v.form ++ toLE 1 mode ++ toLE 4 index ++ toLE 4 cycle ++ toLE 4 v.row ++
  toLE 4 v.col ++ toLE 2 v.group ++ [0#8, 0#8] ++ toLE 4 v.written ++ toLE 4 v.addr

/-- s with Tiller t faulted by FMT_VIOLATION (04 R111). -/
def State.fmtViolation (s : State) (t engine index : Nat) (v : FmtViol) : State :=
  s.faultT t faultFmt engine (fmtDetail v engine (s.tl t).mode index (s.cycle t))

/-- s with Tiller t faulted by NOT_PRESENT because its Harrow is fused off (04 R118). -/
def State.harrowAbsent (s : State) (t index : Nat) : State :=
  s.faultT t faultNotPresent 1 (fmtDetail { reason := 0 } 1 (s.tl t).mode index (s.cycle t))

/-- s with a reset of engines of Tiller t begun after a fault: the sample first, then the reset (13 R347). A reset already in
progress takes the engines in. -/
def State.beginReset (s : State) (t : Nat) (engines : List Nat) (cause : Nat) (faultSeq : Option Nat) : State :=
  s.modT t fun T =>
    match T.reset with
    | some r => { T with reset := some { r with engines := (r.engines ++ engines).mergeSort (· ≤ ·) } }
    | none => { T with reset := some { engines := engines, cause := cause, sample := true, faultSeq := faultSeq } }

/-- s with engine e of Tiller t faulted and its reset begun (13 R346, R351; 01 R32). -/
def State.faultReset (s : State) (t code engine : Nat) (det : List Byte) : State :=
  let seq := s.nextSeq
  (s.faultT t code engine det).beginReset t [engine] code (some seq)

/-- s after an uncorrectable scratchpad word was read as an operand by an engine (01 R32): the word is remembered. -/
def State.eccOperand (s : State) (t engine index word : Nat) : State :=
  (s.modT t fun T => { T with spUe := if T.spUe.contains word then T.spUe else T.spUe ++ [word] }).faultReset t faultEcc engine
    (memDetail 1 engine index (32 * word))

/-- s after an uncorrectable word of a control core's data memory was read: the word is remembered, and the control core faults and is
reset (01 R32). -/
def State.eccCore (s : State) (t index word : Nat) : State :=
  (s.modT t fun T => { T with dmUe := if T.dmUe.contains word then T.dmUe else T.dmUe ++ [word] }).faultReset t faultEcc 0
    (memDetail 3 0 index (32 * word))

/-- s after the control core fetched an uncorrectable word of its instruction memory: it faults and is reset (01 R32). -/
def State.eccFetch (s : State) (t index : Nat) : State := s.faultReset t faultEcc 0 (memDetail 3 0 index (16 * index))

/-- A Tiller with one engine reset (13 R349). -/
def Tiller.clearEngine (T : Tiller) (e core : Nat) : Tiller :=
  let dropE (T : Tiller) : Tiller := { T with checker := T.checker.filter fun x => x.engine != e, busy := SMap.set zeroAt e core T.busy }
  match e with
  | 0 =>
    { T with
      regs := []
      rstack := []
      progs := []
      gen := match T.img.seed with | some g => if g = 0#32 then 1#32 else g | none => T.gen
      checker := (T.checker.filter fun x => x.engine != 0).map fun x => { x with regs := [], vals := [] }
      streams := SMap.set streamAt 0 { (T.stream 0) with pc := 0, hold := .none } T.streams
      busy := SMap.set zeroAt 0 core T.busy }
  | 4 =>
    { T with
      checker := T.checker.filter fun x => x.engine != 4 && x.engine != 6
      fifos := SMap.set nilAt 4 [] T.fifos
      sendQ := T.sendQ.filter fun x => x.issue.isNone
      busy := SMap.set zeroAt 4 core T.busy }
  | 5 => { dropE T with cvu := {} }
  | e => { dropE T with fifos := SMap.set nilAt e [] T.fifos }

/-- The packets a Mover reset cuts off half handed over; the Gleaner finds their cells (13 R349, 06 R201). -/
def Tiller.strandedPkts (T : Tiller) : List (Pkt × Nat) :=
  (T.checker.filterMap fun x => if x.engine = 4 && x.admitted && !x.finished then x.pkt else none).map fun p => (p, 0)

/-- s with one engine of Tiller t reset (13 R349). -/
def State.resetEngine (s : State) (t e : Nat) : State :=
  let s := if e = 4 then s.modFab fun b => { b with stranded := b.stranded ++ (s.tl t).strandedPkts } else s
  s.modT t fun T => T.clearEngine e s.clk.core

/-- The lineage block (12 R341). -/
def lineageBlock (C : Ctx) : List Byte := padTo 32 C.digest ++ toLE 8 C.signature.toNat ++ List.replicate 24 0#8

/-- A scratchpad holding the image's segments, the balanced copies of its sparse operands (04 R114) and, for a Tiller of a context, the lineage block (13 R350, 12 R341). -/
def TImage.pad (I : TImage) (lineage : Option (List Byte)) : Memory :=
  let m := (I.segs ++ I.copies.map fun c => (c.head, c.bytes)).foldl (fun (m : Memory) p => m.write p.1 p.2) []
  match lineage with
  | some b => m.write 0x1FFFC0 b
  | none => m

/-- s with the packets of Tiller t's receive queue dropped and counted as CONGESTION on port 37 (13 R350). -/
def State.dropRecvQ (s : State) (t : Nat) : State :=
  ((s.tl t).recvQ.foldl (fun s p => s.dropPkt p 37 dropCongestion) s).modT t fun T => { T with recvQ := [] }

/-- s with the commit buffers of the slots that t serves, where they lie in scratchpad, lost (05 R154, 13 R350). -/
def State.loseCommits (s : State) (t : Nat) : State :=
  (s.slotsOfLane t).foldl (fun s l => s.modSlot l fun S =>
    if S.bufs.isEmpty then { S with kept := S.kept.map (fun c => { c with lost := true }), ring := [] } else S) s

/-- A waiting packet of a lane Tiller is a RESULT. -/
def isResult (p : SendItem) : Bool := fieldAt p.bytes 0 1 / 16 == 1 && (readPrefix (p.bytes.drop 48)).kind == kResult

/-- The slot that a lane Tiller's waiting RESULT packets belong to has Seedbank step buffers, which survive a reset (05 R154). -/
def State.resultsSurvive (s : State) (t : Nat) : Bool := (s.slotsOfLane t).any fun l => !(s.slot l).bufs.isEmpty

/-- s with the unsent RESULT packets of lane Tiller t counted as drops on their output ports, where their commit buffer is lost
(05 R154, R176). -/
def State.loseResults (s : State) (t : Nat) : State :=
  if s.resultsSurvive t then s
  else ((s.tl t).sendQ.filter isResult).foldl (fun s p => s.count (ctrDrop (fieldAt p.bytes 17 1 % 64) dropCongestion) 1) s

/-- s with Tiller t reset (13 R350): all six engines, semaphores, checker and claims, the receive queue, and scratchpad, DMEM
and code reloaded from the loader's copy; plain with an image of nothing at a warm reset. -/
def State.resetTiller (s : State) (t : Nat) (reload : Bool) : State :=
  let s := [0, 1, 2, 3, 4, 5].foldl (fun s e => s.resetEngine t e) (s.loseCommits t)
  let keep := if s.resultsSurvive t then (s.tl t).sendQ.filter isResult else []
  let s := (s.dropRecvQ t).loseResults t
  let lin := (s.tl t).ctx.map fun x => lineageBlock (s.ctx x)
  s.modT t fun T => { T with
    sems := []
    semInc := []
    checker := []
    sendQ := keep
    spUe := []
    dmUe := []
    imUe := []
    sp := if reload then T.img.pad lin else []
    dmem := if reload then Memory.write [] 0 T.img.dmem else [] }

/-- A Tiller put at instruction 0 with its resources in the state of 03 R81, from a cycle on. -/
def Tiller.startAt (T : Tiller) (cyc t3 : Nat) (gen : BitVec 32) : Tiller :=
  let on (e : Nat) : Bool := e == 0 || T.mode == 1
  { T with
    run := .running
    startCyc := cyc
    regs := []
    rstack := []
    progs := []
    sems := []
    semInc := []
    fifos := []
    busy := []
    checker := []
    fault := none
    stopReq := false
    gen := gen
    streams := (List.range 6).foldl (fun m e =>
      SMap.set streamAt e { pc := if T.mode = 1 then T.img.entries.getD e 0 else 0, next := cyc, prog := t3, on := on e } m) []
    engProg := []
    exemptEnd := t3
    stepNo := 0 }

/-- The seed a Tiller starts with (02 R53, R54): the image's, with 0 stored as 1; without one, a value of the entropy source,
which is free. -/
def State.seedFor (s : State) (T : Tiller) : BitVec 32 :=
  let g := match T.img.seed with
    | some g => g
    | none => BitVec.ofNat 32 s.freeNat
  if g = 0#32 then 1#32 else g

/-- The first mesh frame at or after a cycle (03 R93). -/
def nextFrame (cyc : Nat) : Nat := (cyc + 255) / 256 * 256

end Sys2Proof.Machine
end

