-- ==== Sys2Proof/Machine/DevMem.lean ====
section
/-!
DEFINITION. The device address space (01 R27 to R29), reads and writes of it, and Seedbank (08 R233 to R242): where each buffer
lies, its entry, its list, allocation under the reserved minima, freeing, and rebuilding.
-/

namespace Sys2Proof.Machine

/-! ### The map (01 R27, R28) -/

/-- Bytes of GDDR7 per compute die. -/
abbrev dieBytes : Nat := 0x438000000
/-- First byte after the GDDR7 ranges. -/
abbrev gddrEnd : Nat := 0x10E0000000
/-- First byte of the Tiller scratchpads. -/
abbrev padBase : Nat := 0x10000000000
/-- First byte of CXL port c. -/
def cxlBase (c : Nat) : Nat := if c = 0 then 0x80000000000 else 0xC0000000000

/-- The device address lies in GDDR7. -/
def isGddr (a : Nat) : Bool := decide (a < gddrEnd)
/-- The device address lies in the Tiller scratchpads. -/
def isPad (a : Nat) : Bool := decide (padBase ≤ a) && decide (a < padBase + 192 * 0x200000)
/-- The Tiller whose scratchpad holds an address. -/
def padTiller (a : Nat) : Nat := (a - padBase) / 0x200000
/-- The CXL port whose range holds an address. -/
def cxlPort (a : Nat) : Option Nat :=
  if 0x80000000000 ≤ a && a < 0xC0000000000 then some 0 else if 0xC0000000000 ≤ a && a < 0x100000000000 then some 1 else none

/-- Controller of a GDDR7 address, or 24 + c for CXL port c (01 R28). -/
def ctrlOf (a : Nat) : Nat :=
  match cxlPort a with
  | some c => 24 + c
  | none => 6 * (a / dieBytes) + a % dieBytes / 256 % 6

/-- Usable data bytes of a CXL port (01 R31, 08 R228). -/
def State.cxlData (s : State) (c : Nat) : Nat := (s.cxl c).cap * 15 / 16

/-- The address lies in memory that is there and powered (01 R29). -/
def State.memThere (s : State) (a : Nat) : Bool :=
  if isGddr a then s.domOn (domGddr (a / dieBytes))
  else match cxlPort a with
    | some c => (s.cxl c).up && decide (a - cxlBase c < s.cxlData c)
    | none => isPad a

/-! ### Seedbank buffers (08 R233) -/

/-- Size of a pool's buffers. -/
def poolSize : Nat → Nat
  | 0 => 0x1000 | 1 => 0x10000 | 2 => 0x100000 | 3 => 0x1000000 | _ => 0x4000000

/-- Pool of list L: 4k + d, or 16 + c for pool 4. -/
def poolOf (L : Nat) : Nat := if L < 16 then L / 4 else 4

/-- Die or port number of list L. -/
def dieOfList (L : Nat) : Nat := if L < 16 then L % 4 else L - 16

/-- Lists of a pool. -/
def listsOf (k : Nat) : List Nat := if k < 4 then [4 * k, 4 * k + 1, 4 * k + 2, 4 * k + 3] else [16, 17]

/-- Buffer count n_k of list L. -/
def State.listTotal (s : State) (L : Nat) : Nat :=
  if L < 16 then SMap.get countAt s.seed.counts L
  else if (s.cxl (L - 16)).cap = 0 then 0 else s.cxlData (L - 16) / 0x4000000

/-- Address of the first buffer of list L. -/
def State.listBase (s : State) (L : Nat) : Nat :=
  let d := L % 4
  let n (k : Nat) : Nat := s.listTotal (4 * k + d) * poolSize k
  if L < 16 then
    d * dieBytes + (match L / 4 with | 3 => 0 | 2 => n 3 | 1 => n 3 + n 2 | _ => n 3 + n 2 + n 1)
  else cxlBase (L - 16)

/-- Address of buffer i of list L. -/
def State.bufAddr (s : State) (L i : Nat) : Nat := s.listBase L + i * poolSize (poolOf L)

/-- Lists whose buffers could hold an address. -/
def listsFor (a : Nat) : List Nat :=
  match cxlPort a with
  | some c => [16 + c]
  | none => if isGddr a then (List.range 4).map fun k => 4 * k + a / dieBytes else []

/-- The buffer that holds an address: list and index. -/
def State.bufferOf (s : State) (a : Nat) : Option (Nat × Nat) :=
  (listsFor a).findSome? fun L =>
    let b := s.listBase L
    let z := poolSize (poolOf L)
    if b ≤ a && a < b + z * s.listTotal L then some (L, (a - b) / z) else none

/-- Key of an entry of the state memory. -/
def entryKey (L i : Nat) : Nat := L * 2 ^ 22 + i

/-- A buffer's entry. -/
def State.sbEntry (s : State) (L i : Nat) : SbEntry := SMap.get sbEntryAt s.seed.entries (entryKey L i)

/-- s with a buffer's entry changed. -/
def State.modEntry (s : State) (L i : Nat) (f : SbEntry → SbEntry) : State :=
  s.modSeed fun b => { b with entries := SMap.set sbEntryAt (entryKey L i) (f (s.sbEntry L i)) b.entries }

/-- A list's state. -/
def State.sbList (s : State) (L : Nat) : SbList := SMap.get sbListAt s.seed.lists L

/-- s with a list changed. -/
def State.modList (s : State) (L : Nat) (f : SbList → SbList) : State :=
  s.modSeed fun b => { b with lists := SMap.set sbListAt L (f (s.sbList L)) b.lists }

/-- A list can give buffers: its port, if any, is up. -/
def State.listUp (s : State) (L : Nat) : Bool := decide (L < 16) || ((s.cxl (L - 16)).up && !(s.sbList L).drained)

/-- Entries of list L that differ from free. -/
def State.listEntries (s : State) (L : Nat) : List (Nat × SbEntry) :=
  (s.seed.entries.filter fun p => p.1 / 2 ^ 22 == L).map fun p => (p.1 % 2 ^ 22, p.2)

/-- Free buffers of a list. -/
def State.listFree (s : State) (L : Nat) : Nat :=
  if s.listUp L then
    let l := s.sbList L
    l.pushed.length + (s.listTotal L - l.fresh - ((s.listEntries L).filter fun p => decide (l.fresh ≤ p.1) && p.2.quar).length)
  else 0

/-- Free-buffer header (08 R241). -/
def headerBytes (next L i : Nat) : List Byte :=
  toLE 8 next ++ toLE 4 i ++ toLE 1 (poolOf L) ++ toLE 1 (dieOfList L) ++ List.replicate 18 0#8

/-- The first buffer of list L from index f on that is not quarantined. -/
def State.freshFrom (s : State) (L f : Nat) : Option Nat :=
  let bad := ((s.listEntries L).filter fun p => p.2.quar).map (·.1)
  ((List.range (bad.length + 1)).map (f + ·)).find? fun i => decide (i < s.listTotal L) && !bad.contains i

/-- Address of a buffer of list L as a header's next field: all ones for none. -/
def State.nextField (s : State) (L : Nat) (i : Option Nat) : Nat := match i with | some i => s.bufAddr L i | none => 0xFFFFFFFFFFFFFFFF

/-- Address of the next never-popped buffer after i that is not quarantined, or all ones. -/
def State.freshNext (s : State) (L i : Nat) : Nat := s.nextField L (s.freshFrom L (i + 1))

/-- The header of a never-popped free buffer that starts at an address and that no write has gone over. -/
def State.freshHeader (s : State) (a : Nat) : Option (List Byte) :=
  match s.bufferOf a with
  | none => none
  | some (L, i) =>
    if s.bufAddr L i = a && s.listUp L && decide ((s.sbList L).fresh ≤ i) && !(s.sbEntry L i).quar && !s.seed.touched.contains (a / 32) then
      some (headerBytes (s.freshNext L i) L i)
    else none

/-! ### Reads and writes -/

/-- The 32-byte word of GDDR7 or the CXL tier that starts at an address. -/
def State.memWord (s : State) (a : Nat) : List Byte :=
  match s.freshHeader a with
  | some h => h
  | none => s.mem.bytes.read a 32

/-- n words from a word-aligned address. -/
def State.memWords (s : State) (a : Nat) : Nat → List Byte
  | 0 => []
  | n + 1 => s.memWord a ++ State.memWords s (a + 32) n

/-- n bytes from an address of GDDR7 or the CXL tier. -/
def State.memRead (s : State) (a n : Nat) : List Byte := ((s.memWords (a / 32 * 32) ((a % 32 + n + 31) / 32)).drop (a % 32)).take n

/-- Words (address / 32) that n bytes from an address touch. -/
def wordsOf (a n : Nat) : List Nat := if n = 0 then [] else (List.range ((a + n - 1) / 32 - a / 32 + 1)).map (a / 32 + ·)

/-- Words fully covered by n bytes from an address. -/
def fullWords (a n : Nat) : List Nat := (wordsOf a n).filter fun w => decide (a ≤ 32 * w) && decide (32 * w + 32 ≤ a + n)

/-- s with bytes written to GDDR7 or the CXL tier. A word written whole is correctable again; a never-popped header is written
out first. -/
def State.memWrite (s : State) (a : Nat) (d : List Byte) : State :=
  let heads := (wordsOf a d.length).filter fun w => (s.freshHeader (32 * w)).isSome
  let full := fullWords a d.length
  let b := heads.foldl (fun (m : Memory) w => m.write (32 * w) ((s.freshHeader (32 * w)).getD [])) s.mem.bytes
  let s := s.modMem fun m => { m with bytes := b.write a d, ue := m.ue.filter fun w => !full.contains w, ce := m.ce.filter fun w => !full.contains w }
  if heads.isEmpty then s else s.modSeed fun q => { q with touched := q.touched ++ heads }

/-- s with n bytes of GDDR7 or the CXL tier zeroed. -/
def State.memZero (s : State) (a n : Nat) : State :=
  let under (w : Nat) : Bool := decide (a ≤ 32 * w) && decide (32 * w + 32 ≤ a + n)
  s.modMem fun m => { m with bytes := m.bytes.clear a n, ue := m.ue.filter fun w => !under w, ce := m.ce.filter fun w => !under w }

/-- Counter items of a memory (08 R232). -/
def ctrMem (m item : Nat) : Nat := ctrKey 3 m item

/-- s with an uncorrectable word counted by its memory and kept in mind. -/
def State.memUe (s : State) (a : Nat) : State :=
  let w := a / 32
  (s.count (ctrMem (ctrlOf a) 1) 1).modMem fun m => { m with ue := if m.ue.contains w then m.ue else m.ue ++ [w] }

/-- s with words read from GDDR7 or the CXL tier: each with a single-bit error, known or found now, is passed on corrected and counted by
its memory; the stored copy keeps the error (01 R33, 08 R232). -/
def State.corrected (s : State) (ws found : List Nat) : State :=
  let hit := ws.filter fun w => !s.mem.ue.contains w && (s.mem.ce.contains w || found.contains w)
  let s := hit.foldl (fun s w => s.count (ctrMem (ctrlOf (32 * w)) 0) 1) s
  s.modMem fun m => { m with ce := m.ce ++ hit.filter fun w => !m.ce.contains w }

/-- s with words whose stored copy has been written afresh. -/
def State.healCe (s : State) (ws : List Nat) : State := s.modMem fun m => { m with ce := m.ce.filter fun w => !ws.contains w }

/-- s with n bytes from an address read inside the device: what the read meets is counted by the memory, an uncorrectable word once (08
R232). -/
def State.noteRead (s : State) (a n : Nat) : State :=
  let s := s.corrected (wordsOf a n) []
  match s.mem.ue.find? fun w => (wordsOf a n).contains w with
  | some w => s.memUe (32 * w)
  | none => s

/-- First uncorrectable word known among n bytes from an address. -/
def State.knownUe (s : State) (a n : Nat) : Option Nat := s.mem.ue.find? fun w => decide (a / 32 ≤ w) && decide (32 * w < a + n)

/-! ### Seedbank operations -/

/-- Buffers owner o holds in pool k. -/
def State.held (s : State) (o k : Nat) : Nat :=
  (s.seed.entries.filter fun p => p.2.alloc && p.2.owner == o && poolOf (p.1 / 2 ^ 22) == k).length

/-- Reserved minimum of owner o in pool k. -/
def State.minimum (s : State) (o k : Nat) : Nat := SMap.get zeroAt s.seed.minima (8 * o + k)

/-- Free buffers of pool k. -/
def State.poolFree (s : State) (k : Nat) : Nat := natSum ((listsOf k).map s.listFree)
where
  /-- Sum of a list. -/
  natSum (l : List Nat) : Nat := l.foldl (· + ·) 0

/-- Reserved buffers of pool k not yet held, over all owners. -/
def State.unheld (s : State) (k : Nat) : Nat :=
  s.seed.minima.foldl (fun n p => if p.1 % 8 = k then n + (p.2 - s.held (p.1 / 8) k) else n) 0

/-- Allocated buffers of pool k. -/
def State.allocated (s : State) (k : Nat) : Nat :=
  (s.seed.entries.filter fun p => p.2.alloc && poolOf (p.1 / 2 ^ 22) == k).length

/-- A(k): buffers of pool k neither quarantined nor on a port that is down (08 R236). -/
def State.available (s : State) (k : Nat) : Nat :=
  ((listsOf k).map fun L => if L < 16 || (s.cxl (L - 16)).up then s.listTotal L - ((s.listEntries L).filter fun p => p.2.quar).length else 0).foldl (· + ·) 0

/-- The test of 08 R236 for every pool. -/
def State.minimaFit (s : State) : Bool := (List.range 5).all fun k => decide (s.allocated k + s.unheld k ≤ s.available k)

/-- s with the minima of an owner set for pools 0 to 4. -/
def State.setMinima (s : State) (o : Nat) (l : List Nat) : State :=
  s.modSeed fun b => { b with minima := (List.range 5).foldl (fun m k => SMap.set zeroAt (8 * o + k) (l.getD k 0) m) b.minima }

/-- The list of a pool with most free buffers, ties to the lower number (08 R237). -/
def State.fullest (s : State) (k : Nat) : Nat :=
  (listsOf k).foldl (fun b L => if s.listFree b < s.listFree L then L else b) ((listsOf k).headD 0)

/-- List number that a die or port choice names in pool k; 0xF lets Seedbank choose. -/
def State.chooseList (s : State) (k die : Nat) : Nat := if die = 0xF then s.fullest k else if k < 4 then 4 * k + die else 16 + die

/-- Pool k has a list for the die or port choice. -/
def listExists (k die : Nat) : Bool := die == 0xF || decide (die < (if k < 4 then 4 else 2))

/-- Owner o may take a buffer of pool k under the reserved minima (08 R237). -/
def State.mayTake (s : State) (o k : Nat) : Bool := decide (s.held o k < s.minimum o k) || decide (s.unheld k + 1 ≤ s.poolFree k)

/-- The head of a list: first pushed buffer, else the first never-popped one that is not quarantined. -/
def State.listHead (s : State) (L : Nat) : Option Nat :=
  match (s.sbList L).pushed with
  | i :: _ => some i
  | [] => s.freshFrom L (s.sbList L).fresh

/-- The header of a free buffer reads as it should (08 R242). -/
def State.headerOk (s : State) (L i : Nat) : Bool :=
  let a := s.bufAddr L i
  !s.mem.ue.contains (a / 32) && decide ((s.memWord a).drop 8 = (headerBytes 0 L i).drop 8)

/-- s with buffer i taken off its list. -/
def State.unlist (s : State) (L i : Nat) : State :=
  s.modList L fun l => if l.pushed.contains i then { l with pushed := l.pushed.filter (· != i) } else { l with fresh := i + 1 }

/-- s with buffer i of list L handed out: its entry, and its first word, or all of it, zeroed (08 R238). The read of its header counts a
single-bit error that it meets (08 R232). -/
def State.handOut (s : State) (L i owner : Nat) (slot : Option Nat) (zero : Bool) : State :=
  let a := s.bufAddr L i
  (((s.corrected [a / 32] []).unlist L i).modEntry L i fun _ => { alloc := true, quar := false, owner := owner, slot := slot }).memZero a
    (if zero then poolSize (poolOf L) else 32)

/-- s with buffer i, whose header a pop found bad, quarantined and recorded; an uncorrectable header is counted by its memory (08 R232,
R242). -/
def State.quarantine (s : State) (L i : Nat) : State :=
  let a := s.bufAddr L i
  let s := if s.mem.ue.contains (a / 32) then s.memUe a else s
  ((s.unlist L i).modEntry L i fun x => { x with quar := true }).almQueue
    { type := 0x0B, fault := if s.mem.ue.contains (a / 32) then faultEcc else 0, unit := ctrlOf a, detail := memDetail 7 0xFF 0xFFFFFFFF a }

/-- Free buffers of a list in ascending index, below a bound. -/
def State.freeBelow (s : State) (L n : Nat) : List Nat :=
  let taken := (s.listEntries L).filterMap fun p => if p.2.alloc || p.2.quar then some p.1 else none
  (List.range n).filter fun i => !taken.contains i

/-- The word is the header of a free buffer of list L. -/
def State.isHeader (s : State) (L w : Nat) : Bool :=
  match s.bufferOf (32 * w) with
  | some (M, i) => M == L && s.bufAddr L i == 32 * w && !(s.sbEntry L i).alloc && !(s.sbEntry L i).quar
  | none => false

/-- s with a list rebuilt: fresh headers in every free buffer, linked in ascending index (08 R242). -/
def State.rebuildList (s : State) (L : Nat) : State :=
  let f := (s.sbList L).fresh
  let free := s.freeBelow L f
  let s := s.modList L fun l => { l with pushed := free, rebuilding := false }
  let s := s.modSeed fun b => { b with touched := b.touched.filter fun w => match s.bufferOf (32 * w) with | some p => p.1 != L | none => true }
  let s := s.modMem fun m => { m with ue := m.ue.filter fun w => !s.isHeader L w, ce := m.ce.filter fun w => !s.isHeader L w }
  let nexts := (free.drop 1).map (fun i => s.bufAddr L i) ++ [s.nextField L (s.freshFrom L f)]
  (free.zip nexts).foldl (fun s p => s.modMem fun m => { m with bytes := m.bytes.write (s.bufAddr L p.1) (headerBytes p.2 L p.1) }) s

/-- s with the free buffer i of list L taken out of the list wherever it stands and quarantined: the header before it names the one after
it (08 R231, R241). -/
def State.quarantineFree (s : State) (L i : Nat) : State :=
  let l := s.sbList L
  let before := if l.pushed.contains i then (l.pushed.takeWhile (· != i)).getLast? else if s.freshFrom L l.fresh = some i then l.pushed.getLast? else none
  let s1 := (s.modList L fun l => { l with pushed := l.pushed.filter (· != i) }).modEntry L i fun x => { x with quar := true }
  match before with
  | none => s1
  | some p =>
    let next := match ((s1.sbList L).pushed.dropWhile (· != p)).drop 1 with
      | n :: _ => some n
      | [] => s1.freshFrom L l.fresh
    s1.modMem fun m => { m with bytes := m.bytes.write (s1.bufAddr L p) (toLE 8 (s1.nextField L next)) }

/-- s with a buffer given back: state bit cleared, header written and pushed, unless its port is down (08 R229, R239). -/
def State.giveBack (s : State) (L i : Nat) : State :=
  let s' := s.modEntry L i fun _ => {}
  if (s.sbEntry L i).quar then s.modEntry L i fun x => { x with alloc := false, owner := 0x3FF, slot := none }
  else if s.listUp L then
    let s' := s'.modMem fun m => { m with
      bytes := m.bytes.write (s.bufAddr L i) (headerBytes (s.nextField L (s.listHead L)) L i), ce := m.ce.filter fun w => w != s.bufAddr L i / 32, ue := m.ue.filter fun w => w != s.bufAddr L i / 32 }
    s'.modList L fun l => { l with pushed := i :: l.pushed }
  else s'

/-- s with the buffer at an address given back. -/
def State.giveAddr (s : State) (a : Nat) : State :=
  match s.bufferOf a with
  | some (L, i) => s.giveBack L i
  | none => s

/-- Addresses of the allocated buffers whose entries satisfy a condition, ascending. -/
def State.buffersWhere (s : State) (f : SbEntry → Bool) : List Nat :=
  ((s.seed.entries.filter fun p => p.2.alloc && f p.2).map fun p => s.bufAddr (p.1 / 2 ^ 22) (p.1 % 2 ^ 22)).mergeSort (· ≤ ·)

/-! ### What a Mover may touch (01 R29) -/

/-- Owner code of the buffers a context number's Movers may touch: the prefix store's own number stands for 0x100. -/
def State.ownerCode (s : State) (x : Nat) : Nat := if s.pfx.on && s.pfx.ctx == x then 0x100 else x

/-- A word of device memory may be touched by a Mover of context x. -/
def State.mayTouch (s : State) (x a : Nat) : Bool :=
  s.memThere a &&
  (if isPad a then (s.tl (padTiller a)).ctx == some x
   else match s.bufferOf a with
     | some (L, i) => (s.sbEntry L i).alloc && (s.sbEntry L i).owner == s.ownerCode x
     | none => false)

/-- Every word of n words from an address may be touched by a Mover of a Tiller. -/
def State.accessOk (s : State) (t a n : Nat) : Bool :=
  match (s.tl t).ctx with
  | none => false
  | some x => (List.range n).all fun j => s.mayTouch x (a + 32 * j)

/-- n words of device memory, scratchpads included. -/
def State.devRead (s : State) (a n : Nat) : List Byte :=
  if isPad a then (s.tl (padTiller a)).sp.read ((a - padBase) % 0x200000) (32 * n) else s.memWords a n

/-- s with words of device memory written, scratchpads included; words written whole are correctable again. -/
def State.devWrite (s : State) (a : Nat) (d : List Byte) : State :=
  if isPad a then s.modT (padTiller a) fun T =>
    { T with sp := T.sp.write ((a - padBase) % 0x200000) d, spUe := T.spUe.filter fun w => !(fullWords ((a - padBase) % 0x200000) d.length).contains w }
  else s.memWrite a d

end Sys2Proof.Machine
end

