-- ==== Sys2Proof/Machine/Enter.lean ====
section
/-!
DEFINITION. How packets of Tillers and of host commands enter the shared buffer as arriving on ports 37 and 36 (01 R21, R22;
06 R192 to R195, R202), the decision queues, and the recording of a shadow run's inputs and outputs (13 R371).
-/

namespace Sys2Proof.Machine

/-- A packet came in where another from a port, and for port 37 over the die bridge of a Tiller, would: its order with that one is
kept (06 R196). -/
def Pkt.sameSource (p : Pkt) (port tiller : Nat) : Bool := p.inPort == port && (port != 37 || (p.sender.getD 0) / 48 == tiller / 48)

/-- The slice that decides a packet of a port; for ports 36 and 37 another powered one when the usual one is off (06 R195), and while
packets of the same source still wait in a slice's decision queue that same one (06 R196; log 95). -/
def State.sliceFor (s : State) (port tiller : Nat) : Option Nat :=
  if port < 36 then some (port / 9)
  else
    let usual := if port = 37 then tiller / 48 else 0
    match (List.range 4).find? fun i => (s.slice i).dq.any fun p => p.sameSource port tiller with
    | some i => some i
    | none =>
    if s.domOn (domSlice usual) then some usual else (List.range 4).find? fun i => s.domOn (domSlice i)

/-- Packets a decision queue holds at most. -/
abbrev dqMax : Nat := 512

/-- A decision queue with a packet put in: after those of earlier cycles, and among those of the same FAB_CLK cycle in ascending port (06
R195). -/
def dqInsert (p : Pkt) (dq : List Pkt) : List Pkt :=
  let later (q : Pkt) : Bool := q.rxCyc == p.rxCyc && decide (p.inPort < q.inPort)
  dq.filter (fun q => !later q) ++ [p] ++ dq.filter later

/-- s with a packet, its last byte received, put into a slice's decision queue; at 448 packets the slice holds back (06 R195). -/
def State.enqueue (s : State) (i : Nat) (p : Pkt) : State :=
  let s := (s.count (ctrRxPackets p.inPort p.vc) 1).count (ctrRxBytes p.inPort p.vc) p.len
  s.modSlice i fun S =>
    { S with dq := dqInsert { p with stamp := s.now, rxCyc := s.clk.fab + 1 } S.dq, holding := S.holding || decide (448 ≤ S.dq.length + 1) }

/-- The slot whose reservation a packet is charged to: a COLL packet bound for port 37, or one that a lane Tiller sends, while the
slot is BOUND (06 R194). -/
def State.slotCharge (s : State) (p : Pkt) (tiller : Option Nat) : Option Nat :=
  if p.kind = 1 then
    if p.hopPort = 37 && decide (p.hopPtr < p.hopCount) then
      (if (s.slot p.slotNo).state = .bound then some p.slotNo else none)
    else match tiller with
      | some t => (s.slotsOfLane t).find? fun l => (s.slot l).state = .bound
      | none => none
  else none

/-- A packet offered to port 36 or 37: none while its class or slice does not admit it; else the packet with its cells and its
slice, or nothing when it was dropped for want of room in its slot's reservation (06 R193). -/
def State.enter (s : State) (bytes : List Byte) (port : Nat) (tiller : Option Nat) : Option (Option (Pkt × Nat) × State) :=
  let p : Pkt := { bytes := bytes, inPort := port, sender := tiller }
  let k := cellsFor p.len
  match s.sliceFor port (tiller.getD 0) with
  | none => none
  | some i =>
    if (s.slice i).holding || dqMax ≤ (s.slice i).dq.length then none
    else match s.slotCharge p tiller with
      | some l =>
        if s.slotRoom l k then
          let r := s.allocCells { p with slot := some l }
          some (some (r.1, i), r.2.chargeSlot l k)
        else some (none, s.windowDrop l)
      | none =>
        if s.admits p.cls k then
          let r := s.allocCells p
          some (some (r.1, i), r.2.chargeClass p.cls k)
        else none

/-! ### Shadow runs: what is recorded and served (13 R371) -/

/-- s with a shadow run changed. -/
def State.modShadow (s : State) (f : Shadow → Shadow) : State := { s with shadow := s.shadow.map f }

/-- Tiller t repeats a step as the shadow. -/
def State.isShadow (s : State) (t : Nat) : Bool := match s.shadow with | some h => h.dst == t && h.stage == 2 | none => false

/-- s with an input of the source recorded while its step is recorded. -/
def State.recordIn (s : State) (t : Nat) (d : List Byte) : State :=
  s.modShadow fun h => if h.stage = 1 && h.src = t then { h with inputs := h.inputs ++ d } else h

/-- s with an output of the source, or of the shadow, recorded. -/
def State.recordOut (s : State) (t : Nat) (d : List Byte) : State :=
  s.modShadow fun h =>
    if h.stage = 1 && h.src = t then { h with outputs := h.outputs ++ d }
    else if h.stage = 2 && h.dst = t then { h with repOut := h.repOut ++ d } else h

/-- The next n recorded input bytes, and s with them served. -/
def State.serveIn (s : State) (n : Nat) : List Byte × State :=
  match s.shadow with
  | some h => ((h.inputs.drop h.pos).take n, s.modShadow fun h => { h with pos := h.pos + n })
  | none => ([], s)

/-- Length of the packet that the recorded inputs give next, from its header. -/
def State.nextPacketLen (s : State) : Nat :=
  match s.shadow with
  | some h => 48 + fieldAt h.inputs (h.pos + 4) 2 % 8192
  | none => 0

end Sys2Proof.Machine
end

