-- ==== Sys2Proof/Machine/Flags.lean ====
section
/-!
DEFINITION. The register map of BAR2 (10 R283 to R286) as values: the status words the module assembles from its state, and what
every 4-byte word of BAR2 reads as. A block has no condition codes; its flags are these status bits.
-/

namespace Sys2Proof.Machine

/-- A bit as a number. -/
def bit (b : Bool) : Nat := if b then 1 else 0

/-- Code of a device state (10 R285). -/
def DevState.code : DevState → Nat
  | .booting => 0
  | .ready => 1
  | .wedged => 2
  | .isolated => 3
  | .noFirmware => 4

/-- Code of a link state (09 R267). -/
def LinkState.code : LinkState → Nat
  | .down => 0
  | .laneLock => 1
  | .deskew => 2
  | .discovery => 3
  | .active => 4
  | .loop => 5
  | .isolated => 6
  | .held => 7

/-- DEV_ID (10 R284). -/
def State.devId (s : State) : Nat := 0x3600 + s.part.grade % 16 * 2 ^ 16

/-- DEV_STATE (10 R285). -/
def State.devState (s : State) : Nat := s.dev.state.code + s.dev.fwpUp.toNat * 2 ^ 8 + bit s.dev.emergency * 2 ^ 16

/-- Entries of a command ring: 2^(cmd_log2 + 4). -/
def Ring.nCmd (r : Ring) : Nat := 2 ^ ((r.cfg.extractLsb' 1 4).toNat + 4)

/-- Entries of a completion ring: 2^(cpl_log2 + 4). -/
def Ring.nCpl (r : Ring) : Nat := 2 ^ ((r.cfg.extractLsb' 5 4).toNat + 4)

/-- RING_CFG.enable. -/
def Ring.enable (r : Ring) : Bool := r.cfg.getLsbD 0

/-- RING_CFG.vector. -/
def Ring.vector (r : Ring) : Nat := (r.cfg.extractLsb' 9 8).toNat

/-- RING_CFG.coalesce_us. -/
def Ring.coalesce (r : Ring) : Nat := (r.cfg.extractLsb' 24 8).toNat

/-- The completion ring has room for one more record (10 R288). -/
def Ring.room (r : Ring) : Bool := decide ((r.cplTail - r.headDb).toNat < r.nCpl)

/-- A record or an event waits to be written into ring r. -/
def State.waits (s : State) (r : Nat) : Bool :=
  s.host.dones.any (fun d => d.src == .ring r) || s.host.events.any (fun e => e.ring == r)

/-- RING_STATUS (10 R286); cpl_full while a record waits for space. -/
def State.ringStatus (s : State) (r : Nat) : Nat :=
  let R := s.ring r
  bit R.enabled + bit (R.enabled && !R.room && s.waits r) * 2 + bit R.error * 4 + R.cause % 256 * 2 ^ 8

/-- PORT_LINK_CFG (09 R276); 0 on ports 36 and 37. -/
def State.portLinkCfg (s : State) (p : Nat) : Nat :=
  let P := s.port p
  if p < 36 then bit P.enable + bit P.spare * 2 + P.errLimit % 256 * 2 ^ 8 else 0

/-- PORT_LINK_STATUS (09 R276); 0 on ports 36 and 37. -/
def State.portLinkStatus (s : State) (p : Nat) : Nat :=
  let L := (s.port p).link
  if p < 36 then
    L.state.code + L.reason % 16 * 2 ^ 4 + L.txMap.toNat * 2 ^ 8 + L.rxMap.toNat * 2 ^ 16 + L.loop % 4 * 2 ^ 24 + bit L.peerChanged * 2 ^ 26
  else 0

/-- PORT_SCHED_CFG (07 R211): the signed overhead in seven bits, and trust. -/
def Port.schedCfg (P : Port) : Nat := (P.overhead % 128).toNat + bit P.trust * 128

/-- PORT_WDRR (07 R210): w_v in ten bits each. -/
def Port.wdrrReg (P : Port) : Nat := P.wdrr.foldr (fun w n => w % 1024 + 1024 * n) 0

/-- SQ_CFG (07 R206). -/
def SqCfg.reg (q : SqCfg) : Nat :=
  q.port % 64 + q.vc % 8 * 2 ^ 6 + bit q.inUse * 2 ^ 9 + q.weight % 256 * 2 ^ 10 + q.owner % 4 * 2 ^ 18 + q.hop % 16 * 2 ^ 20 +
  q.ownerId % 65536 * 2 ^ 32

/-- Quarantined buffers of a list. -/
def State.listQuar (s : State) (L : Nat) : Nat := ((s.listEntries L).filter fun p => p.2.quar).length

/-- SEEDBANK_LIST_STATUS (08 R235). -/
def State.listStatus (s : State) (L : Nat) : Nat :=
  s.listTotal L % 2 ^ 24 + s.listFree L % 2 ^ 24 * 2 ^ 24 + min (s.listQuar L) 0x7FFF * 2 ^ 48 + bit (s.sbList L).rebuilding * 2 ^ 63

/-- W in whole watts. -/
def State.warmWatts (s : State) : Nat := s.pwr.warmW.floor.toNat

/-- MULCH_STATUS (14 R388). -/
def State.mulchStatus (s : State) : Nat :=
  let p := s.pwr
  p.rung % 8 + p.causes.toNat * 2 ^ 3 + s.clk.coreMHz % 4096 * 2 ^ 8 + s.warmWatts % 4096 * 2 ^ 20 +
  bit p.clkReq.isSome * 2 ^ 32 + bit p.derating * 2 ^ 33 + bit p.floorShort * 2 ^ 34

/-- Word i of a wide register. -/
def wordOf (v i : Nat) : Nat := v / 2 ^ (32 * i) % 2 ^ 32

/-- What an unlisted dword of the MSI-X table reads as: every vector masked (log 20). -/
def msixAt (i : Nat) : BitVec 32 := if i % 4 = 3 then 1#32 else 0#32

/-- 4-byte words of the identity block (10 R284). -/
def State.identityWord (s : State) (o : Nat) : Nat :=
  if o = 0x00 then s.devId
  else if o = 0x04 then 0xA1
  else if 0x10 ≤ o && o < 0x1C then fieldAt s.part.serial (o - 0x10) 4
  else if 0x20 ≤ o && o < 0x38 then wordOf s.part.fuse.toNat ((o - 0x20) / 4)
  else if o = 0x40 then s.dev.fwVer.toNat
  else if 0x60 ≤ o && o < 0x80 then fieldAt s.dev.fwDigest (o - 0x60) 4
  else 0

/-- 4-byte words of the device block (10 R285; 13 R346; 14 R388). -/
def State.deviceWord (s : State) (o : Nat) : Nat :=
  let d := s.dev
  if o = 0x00 then d.mode.toNat
  else if o = 0x04 then s.devState
  else if o = 0x08 then d.bar4Window.toNat
  else if o = 0x0C then d.eventCfg.toNat
  else if o = 0x10 then wordOf d.scrubCfg.toNat 0
  else if o = 0x14 then wordOf d.scrubCfg.toNat 1
  else if o = 0x18 then d.gleanerCfg.toNat
  else if o = 0x20 then wordOf d.hrxBase.toNat 0
  else if o = 0x24 then wordOf d.hrxBase.toNat 1
  else if o = 0x28 then d.hrxCfg.toNat
  else if o = 0x2C then d.hrxTail.toNat
  else if o = 0x30 then d.hrxHead.toNat
  else if o = 0x38 then wordOf d.mgmtCfg.toNat 0
  else if o = 0x3C then wordOf d.mgmtCfg.toNat 1
  else if o = 0x40 then d.wdogCfg.toNat
  else if o = 0x48 then wordOf s.pwr.mulchCfg.toNat 0
  else if o = 0x4C then wordOf s.pwr.mulchCfg.toNat 1
  else if o = 0x50 then wordOf s.pwr.keepOff.toNat 0
  else if o = 0x54 then wordOf s.pwr.keepOff.toNat 1
  else if o = 0x58 then wordOf s.mulchStatus 0
  else if o = 0x5C then wordOf s.mulchStatus 1
  else 0

/-- 4-byte words of ring register set r (10 R286). -/
def State.ringWord (s : State) (r o : Nat) : Nat :=
  let R := s.ring r
  if o = 0x00 then wordOf R.cmdBase.toNat 0
  else if o = 0x04 then wordOf R.cmdBase.toNat 1
  else if o = 0x08 then wordOf R.cplBase.toNat 0
  else if o = 0x0C then wordOf R.cplBase.toNat 1
  else if o = 0x10 then R.cfg.toNat
  else if o = 0x14 then s.ringStatus r
  else if o = 0x18 then R.cmdHead.toNat
  else if o = 0x1C then R.cplTail.toNat
  else 0

/-- 4-byte words of port p's set (10 R283). -/
def State.portWord (s : State) (p o : Nat) : Nat :=
  let P := s.port p
  if o = 0x000 then P.rank % 16
  else if o = 0x008 then wordOf P.vcRed.toNat 0
  else if o = 0x00C then wordOf P.vcRed.toNat 1
  else if 0x010 ≤ o && o < 0x020 then wordOf P.wdrrReg ((o - 0x010) / 4)
  else if o = 0x020 then P.schedCfg
  else if o = 0x028 then s.portLinkCfg p
  else if o = 0x030 then s.portLinkStatus p
  else if 0x100 ≤ o && o < 0x180 then
    let c := SMap.get bufCfgAt s.fab.bufCfg (16 * p + (o - 0x100) / 8)
    if o % 8 = 0 then c.1 else c.2
  else if 0x200 ≤ o && o < 0x220 then
    let m := SMap.get sqMapAt s.fab.sqMap (8 * p + (o - 0x200) / 4)
    m.1 + m.2 * 2 ^ 16
  else 0

/-- The PBA's bits of 32 vectors from one (10 R283). -/
def State.pbaWord (s : State) (v : Nat) : Nat :=
  (List.range 32).foldl (fun n i => n + bit (SMap.get falseAt s.host.pba (v + i)) * 2 ^ i) 0

/-- What the 4-byte word of BAR2 at an offset reads as; offsets not listed read 0 (10 R283). -/
def State.regWord (s : State) (off : Nat) : Nat :=
  if off < 0x1000 then s.identityWord off
  else if off < 0x2000 then s.deviceWord (off - 0x1000)
  else if 0x10000 ≤ off && off < 0x14000 then s.ringWord ((off - 0x10000) / 0x40) ((off - 0x10000) % 0x40)
  else if 0x20000 ≤ off && off < 0x20000 + 38 * 0x1000 then s.portWord ((off - 0x20000) / 0x1000) ((off - 0x20000) % 0x1000)
  else if 0xF0000 ≤ off && off < 0xF1000 then (SMap.get msixAt s.host.msix ((off - 0xF0000) / 4)).toNat
  else if 0xF1000 ≤ off && off < 0xF1020 then s.pbaWord (8 * (off - 0xF1000))
  else if 0x100000 ≤ off && off < 0x180000 then wordOf (s.sqCfg ((off - 0x100000) / 8)).reg (off / 4 % 2)
  else if 0x200000 ≤ off && off < 0x280000 then
    wordOf (SMap.get shaperAt s.fab.strShaper ((off - 0x200000) / 8)).cfg.toNat (off / 4 % 2)
  else if 0x280000 ≤ off && off < 0x280000 + 8 * 304 then
    wordOf (SMap.get svcShaperAt s.fab.svcShaper ((off - 0x280000) / 8)).cfg.toNat (off / 4 % 2)
  else if 0x281000 ≤ off && off < 0x281000 + 8 * 38 then
    wordOf (SMap.get shaperAt s.fab.portShaper ((off - 0x281000) / 8)).cfg.toNat (off / 4 % 2)
  else if 0x400000 ≤ off && off < 0x500000 then
    wordOf (SMap.get policerAt s.fab.policer ((off - 0x400000) / 16)).cfg.toNat (off / 4 % 4)
  else if 0x500000 ≤ off && off < 0x500200 then
    let n := (off - 0x500000) / 0x20
    let c := (off - 0x500000) % 0x20 / 8
    if c < 3 then wordOf (SMap.get zeroBits s.fab.red (4 * n + c) : BitVec 64).toNat (off / 4 % 2) else 0
  else if 0x501000 ≤ off && off < 0x501080 then
    wordOf (s.listStatus (4 * ((off - 0x501000) / 0x20) + (off - 0x501000) % 0x20 / 8)) (off / 4 % 2)
  else if 0x501080 ≤ off && off < 0x501090 then wordOf (s.listStatus (16 + (off - 0x501080) / 8)) (off / 4 % 2)
  else 0

/-- What an 8-byte access reads: the words at an offset and the next, low half first (10 R282). -/
def State.regWide (s : State) (off : Nat) : Nat := s.regWord off + s.regWord (off + 4) * 2 ^ 32

end Sys2Proof.Machine
end

