-- ==== Sys2Proof/Machine/Host.lean ====
section
/-!
DEFINITION. The host's side of the module: doorbells, register writes (10 R281 to R286), command rings (R287 to R295), status
records and interrupts (R288, R289), device events (R301) and the BAR4 window (01 R30). What host memory holds comes as operands
of the rows that read it (log 4).
-/

namespace Sys2Proof.Machine

/-! ### The PCIe function (10 R279) -/

/-- What the function shows in its configuration space. -/
structure PcieFunction where
  /-- Vendor ID -/
  vendor : Nat
  /-- Device ID, of both grades -/
  device : Nat
  /-- class code: processing accelerator -/
  classCode : Nat
  /-- MSI-X vectors -/
  vectors : Nat
  /-- the AER capability and 10-bit tags -/
  aer : Bool
  /-- 10-bit tags -/
  tags10 : Bool
  /-- ATS, PRI, PASID, a legacy interrupt, SR-IOV: none -/
  others : Bool
  /-- physical functions -/
  functions : Nat
  /-- greatest payload in bytes -/
  maxPayload : Nat
  /-- greatest read request in bytes -/
  maxRead : Nat
  deriving DecidableEq, Repr

/-- The host port's one function. -/
def pcieFunction : PcieFunction :=
  { vendor := 0x1F3B, device := 0x3600, classCode := 0x120000, vectors := 256, aer := true, tags10 := true, others := false, functions := 1
    maxPayload := 512, maxRead := 4096 }

/-- A width and a generation at which the host link leaves Detect and trains: x16, at 64, 32 or 16 GT/s. -/
def pcieTrains (width gen : Nat) : Bool := width == 16 && decide (4 ≤ gen) && decide (gen ≤ 6)

/-- Bytes of BAR0, BAR2 and BAR4 (10 R280). -/
def barSize : Nat → Nat
  | 0 => 0x4000000
  | 2 => 0x1000000
  | 4 => 0x1000000000
  | _ => 0

/-! ### Interrupts (10 R283, R289) -/

/-- s with vector v's message sent, or left pending while the vector is masked. -/
def State.msix (s : State) (v : Nat) : State :=
  if (SMap.get msixAt s.host.msix (4 * v + 3)).getLsbD 0 then
    s.modHost fun h => { h with pba := SMap.set falseAt v true h.pba }
  else s.modHost fun h => { h with sent := SMap.set zeroAt v (SMap.get zeroAt h.sent v + 1) h.sent }

/-- s with a dword of the MSI-X table written; a vector unmasked while pending sends its message. -/
def State.writeMsix (s : State) (i : Nat) (v : BitVec 32) : State :=
  let w := if i % 4 = 0 then v &&& 0xFFFFFFFC#32 else if i % 4 = 3 then v &&& 1#32 else v
  let s := s.modHost fun h => { h with msix := SMap.set msixAt i w h.msix }
  if i % 4 = 3 && SMap.get falseAt s.host.pba (i / 4) && !w.getLsbD 0 then
    (s.modHost fun h => { h with pba := SMap.set falseAt (i / 4) false h.pba }).msix (i / 4)
  else s

/-! ### Records and events -/

/-- Commands of ring r that have been fetched and not yet reported. -/
def State.ringBusy (s : State) (r : Nat) : Bool :=
  s.host.cmds.any (fun k => k.src == .ring r) || s.host.dones.any (fun d => d.src == .ring r)

/-- s with ring r's enabled bit fallen once it is disabled or stopped for good and its last record is written (10 R287). -/
def State.settleRing (s : State) (r : Nat) : State :=
  if !(s.ring r).enable && !s.ringBusy r then s.modRing r fun R => { R with enabled := false } else s

/-- s with one 32-byte record written into completion ring r, CPL_TAIL advanced, and the interrupt sent or its coalescing time
begun (10 R288, R289). -/
def State.putRecord (s : State) (r status opcode tag : Nat) (event : Bool) (words : List Nat) : State :=
  let R := s.ring r
  let n := R.cplTail.toNat
  let phase := (n / R.nCpl + 1) % 2
  let s := s.writeHost (R.cplBase.toNat + 32 * (n % R.nCpl)) (recordBytes status phase event opcode tag words)
  let s := s.modRing r fun R => { R with cplTail := R.cplTail + 1#32 }
  let s := s.modHost fun h => { h with stats := SMap.set zeroAt r (SMap.get zeroAt h.stats r + 1) h.stats }
  if R.coalesce = 0 then (s.modRing r fun R => { R with unsig := none }).msix R.vector
  else s.modRing r fun R => { R with unsig := match R.unsig with | some t => some t | none => some s.t3 }

/-- COMPLETION_RECORD_WRITE: the record of command c, the first of its ring waiting, is written once the ring has room (10 R288).
The record of the DEV_WARM_RESET that was accepted goes to the position latched then (13 R359). -/
def execCompletionRecordWrite (c : Nat) (s : State) : Host.Outcome State Fault Refusal :=
  .next
    (match s.host.dones.find? fun d => d.id == c with
      | none => s
      | some d =>
        let s' := s.modHost fun h => { h with dones := h.dones.filter fun x => x.id != c }
        match d.src with
        | .ring r =>
          if (s.host.dones.find? fun x => x.src == d.src) = some d && s.live && s.dev.pcieUp then
            match s.host.latched.filter fun L => L.cmd == d.id with
            | some L =>
              ((s'.writeHost L.addr (recordBytes d.status L.phase false d.opcode L.tag d.words)).msix L.vector).modHost
                fun h => { h with latched := none }
            | none =>
              if (s.ring r).enabled && (s.ring r).room then (s'.putRecord r d.status d.opcode d.tag false d.words).settleRing r
              else s
          else s
        | _ => s)

/-- INTERRUPT_COALESCE_EXPIRY: coalesce_us has passed since the first record not yet signalled (10 R289). -/
def execInterruptCoalesceExpiry (r : Nat) (s : State) : Host.Outcome State Fault Refusal :=
  onUnit (r < 256) s
    (match (s.ring r).unsig with
      | some t =>
        if s.after t (usec (s.ring r).coalesce) then (s.modRing r fun R => { R with unsig := none }).msix (s.ring r).vector else s
      | none => s)

/-- DEVICE_EVENT_WRITE: the oldest event waiting for ring r is written once space exists; when none waits any more, EVENTS_LOST
reports those that did not fit (10 R301). -/
def execDeviceEventWrite (r : Nat) (s : State) : Host.Outcome State Fault Refusal :=
  onUnit (r < 256) s
    (if s.dev.pcieUp && (s.ring r).enabled && (s.ring r).room then
      match s.host.events.find? fun e => e.ring == r with
      | some e =>
        (s.modHost fun h => { h with events := h.events.erase e }).putRecord r e.status e.code 0xFFFFFFFF true e.words
      | none =>
        if 0 < (s.ring r).evLost then
          (s.modRing r fun R => { R with evLost := 0 }).putRecord r stOk 8 0xFFFFFFFF true [(s.ring r).evLost]
        else s
    else s)

/-! ### Register writes (10 R282, R285, R286) -/

/-- s with GLEANER_CFG written; a period of 0 or above 10,000 is ignored (06 R201). -/
def State.writeGleaner (s : State) (v : BitVec 32) : State :=
  let p := (v.extractLsb' 0 14).toNat
  let low := if p = 0 || 10000 < p then s.dev.gleanerCfg.extractLsb' 0 14 else v.extractLsb' 0 14
  let rise := v.getLsbD 14 && !s.dev.gleanerCfg.getLsbD 14
  let s := s.modDev fun d => { d with gleanerCfg := (low.setWidth 32) ||| (v &&& 0x4000#32) }
  if rise then s.modFab fun b => { b with gleanNext := s.now + low.toNat * 1000000 } else s

/-- s with WDOG_CFG written; limits out of range are ignored (13 R346). -/
def State.writeWdog (s : State) (v : BitVec 32) : State :=
  let t := (v.extractLsb' 0 16).toNat
  let l := (v.extractLsb' 16 8).toNat
  let t' := if 500 ≤ t then t else (s.dev.wdogCfg.extractLsb' 0 16).toNat
  let l' := if 2 ≤ l && l ≤ 64 then l else (s.dev.wdogCfg.extractLsb' 16 8).toNat
  s.modDev fun d => { d with wdogCfg := BitVec.ofNat 32 (t' + l' * 2 ^ 16 + bit (v.getLsbD 24) * 2 ^ 24) }

/-- s with HRX_CFG written: a log2_entries out of range is ignored, and enabling starts the entries at 0 (10 R285, R303). -/
def State.writeHrxCfg (s : State) (v : BitVec 32) : State :=
  let n := (v.extractLsb' 4 4).toNat
  let n' := if 4 ≤ n && n ≤ 12 then n else (s.dev.hrxCfg.extractLsb' 4 4).toNat
  let rise := v.getLsbD 0 && !s.dev.hrxCfg.getLsbD 0
  s.modDev fun d => { d with
    hrxCfg := BitVec.ofNat 32 (bit (v.getLsbD 0) + n' * 16 + (v.extractLsb' 8 8).toNat * 256)
    hrxTail := if rise then 0#32 else d.hrxTail }

/-- A 64-bit register with one half replaced. -/
def setHalf (r : BitVec 64) (hi : Bool) (v : BitVec 32) : BitVec 64 :=
  if hi then (r &&& 0xFFFFFFFF#64) ||| (v.setWidth 64 <<< 32) else (r &&& 0xFFFFFFFF00000000#64) ||| v.setWidth 64

/-- SCRUB_CFG with a half written; targets out of range are ignored (08 R231). -/
def scrubWritten (r : BitVec 64) (hi : Bool) (v : BitVec 32) : BitVec 64 :=
  if hi then (if v = 0#32 then r else setHalf r true v)
  else
    let t := v.extractLsb' 16 16
    let t' := if 2 ≤ t.toNat then t else r.extractLsb' 16 16
    setHalf r false ((t'.setWidth 32 <<< 16) ||| (v &&& 3#32))

/-- s with a half of SCRUB_CFG written. -/
def State.writeScrub (s : State) (hi : Bool) (v : BitVec 32) : State :=
  s.modDev fun d => { d with scrubCfg := scrubWritten d.scrubCfg hi v }

/-- s with RING_CFG of ring r written (10 R286, R287). -/
def State.writeRingCfg (s : State) (r : Nat) (v : BitVec 32) : State :=
  let R := s.ring r
  if 12 < (v.extractLsb' 1 4).toNat || 12 < (v.extractLsb' 5 4).toNat then s
  else
    let isOpen := !R.enable && !R.enabled
    let sizes := if isOpen then v &&& 0x1FE#32 else R.cfg &&& 0x1FE#32
    let cfg := (v &&& 0xFF01FE01#32) ||| sizes
    if v.getLsbD 0 && !R.enabled then
      s.modRing r fun R => { R with cfg := cfg, enabled := true, error := false, cause := 0, cmdHead := 0#32, cplTail := 0#32,
                                    tailDb := 0#32, headDb := 0#32, unsig := none }
    else (s.modRing r fun R => { R with cfg := cfg }).settleRing r

/-- s with a 4-byte word of ring register set r written; the bases only while the ring is disabled. -/
def State.writeRingWord (s : State) (r o : Nat) (v : BitVec 32) : State :=
  let R := s.ring r
  let shut := !R.enable && !R.enabled
  if o = 0x00 then if shut then s.modRing r fun R => { R with cmdBase := setHalf R.cmdBase false (v &&& 0xFFFFF000#32) } else s
  else if o = 0x04 then if shut then s.modRing r fun R => { R with cmdBase := setHalf R.cmdBase true v } else s
  else if o = 0x08 then if shut then s.modRing r fun R => { R with cplBase := setHalf R.cplBase false (v &&& 0xFFFFF000#32) } else s
  else if o = 0x0C then if shut then s.modRing r fun R => { R with cplBase := setHalf R.cplBase true v } else s
  else if o = 0x10 then s.writeRingCfg r v
  else s

/-- s with a 4-byte word of BAR2 written under its register's access code (00 R7, 10 R282): the RW and W1C registers take it, every
other offset ignores it. -/
def State.writeWord (s : State) (off : Nat) (v : BitVec 32) : State :=
  if off = 0x1008 then s.modDev fun d => { d with bar4Window := v &&& 7#32 }
  else if off = 0x100C then s.modDev fun d => { d with eventCfg := v &&& 0x1FF#32 }
  else if off = 0x1010 then s.writeScrub false v
  else if off = 0x1014 then s.writeScrub true v
  else if off = 0x1018 then s.writeGleaner v
  else if off = 0x1020 then s.modDev fun d => { d with hrxBase := setHalf d.hrxBase false (v &&& 0xFFFFF000#32) }
  else if off = 0x1024 then s.modDev fun d => { d with hrxBase := setHalf d.hrxBase true v }
  else if off = 0x1028 then s.writeHrxCfg v
  else if off = 0x1030 then s.modDev fun d => { d with hrxHead := v }
  else if off = 0x1038 then s.modDev fun d => { d with mgmtCfg := setHalf d.mgmtCfg false v }
  else if off = 0x103C then s.modDev fun d => { d with mgmtCfg := setHalf d.mgmtCfg true (v &&& 0x3F#32) }
  else if off = 0x1040 then s.writeWdog v
  else if 0x10000 ≤ off && off < 0x14000 then s.writeRingWord ((off - 0x10000) / 0x40) ((off - 0x10000) % 0x40) v
  else if 0x20000 ≤ off && off < 0x20000 + 36 * 0x1000 && off % 0x1000 = 0x30 then
    if v.getLsbD 26 then s.modLink ((off - 0x20000) / 0x1000) fun l => { l with peerChanged := false } else s
  else if 0xF0000 ≤ off && off < 0xF1000 then s.writeMsix ((off - 0xF0000) / 4) v
  else s

/-- A BAR2 access is 4 or 8 bytes wide and naturally aligned (10 R282). -/
def bar2Ok (off width : Nat) : Bool := (width == 4 || width == 8) && off % width == 0

/-- s with what the module answers to a BAR access. -/
def State.answer (s : State) (r : BarReply) : State := s.modDev fun d => { d with barOut := r }

/-- The host link carries accesses. -/
def State.linkUp (s : State) : Bool := s.live && s.dev.pcieUp

/-- REGISTER_WRITE: a BAR2 write of 4 or 8 bytes, word by word; the bytes it does not cover keep their values (10 R282). -/
def execRegisterWrite (off width v : Nat) (s : State) : Host.Outcome State Fault Refusal :=
  onEvent (s.linkUp && off < barSize 2) s
    (if bar2Ok off width then
      let s1 := s.writeWord off (BitVec.ofNat 32 v)
      (if width = 8 then s1.writeWord (off + 4) (BitVec.ofNat 32 (v / 2 ^ 32)) else s1).answer .accepted
    else s.answer .completerAbort)

/-- BAR2_BAD_ACCESS: an access of another width or alignment completes with Completer Abort and changes nothing (10 R282). -/
def execBar2BadAccess (off width : Nat) (_write : Bool) (s : State) : Host.Outcome State Fault Refusal :=
  onEvent (s.linkUp && off < barSize 2 && !bar2Ok off width) s (s.answer .completerAbort)

/-- RING_ENABLE: 1 written to RING_CFG.enable while RING_STATUS.enabled is 0 (10 R287). -/
def execRingEnable (r v : Nat) (s : State) : Host.Outcome State Fault Refusal :=
  onUnit (r < 256) s (if s.dev.pcieUp && v % 2 = 1 then s.writeRingCfg r (BitVec.ofNat 32 v) else s)

/-- RING_DISABLE: 0 written to RING_CFG.enable stops fetching (10 R287). -/
def execRingDisable (r v : Nat) (s : State) : Host.Outcome State Fault Refusal :=
  onUnit (r < 256) s (if s.dev.pcieUp && v % 2 = 0 then s.writeRingCfg r (BitVec.ofNat 32 v) else s)

/-- The ring whose doorbell page holds a BAR0 write, when it is a 4-byte write of the doorbell at a place of its page (10 R280, R281). -/
def doorbell (place off width : Nat) : Option Nat :=
  if off < barSize 0 && width == 4 && off % 0x40000 == place then some (off / 0x40000) else none

/-- What a read of BAR0 returns (10 R281). -/
def bar0Read (_off width : Nat) : List Byte := List.replicate width 0#8

/-- CMD_TAIL_WRITE: a BAR0 write of the doorbell of new descriptors; a tail further ahead than the ring is long stops the ring with OVERRUN
(10 R287). A write of another offset or width is ignored (10 R281). -/
def execCmdTailWrite (off width v : Nat) (s : State) : Host.Outcome State Fault Refusal :=
  onEvent s.linkUp s
    (match doorbell 0x00 off width with
     | none => s
     | some r =>
       let R := s.ring r
       if R.enabled && !R.error then
         if (BitVec.ofNat 32 v - R.cmdHead).toNat ≤ R.nCmd then s.modRing r fun R => { R with tailDb := BitVec.ofNat 32 v }
         else s.modRing r fun R => { R with error := true, cause := 1 }
       else s)

/-- CPL_HEAD_WRITE: a BAR0 write of the doorbell of records consumed (10 R288); a write of another offset or width is ignored. -/
def execCplHeadWrite (off width v : Nat) (s : State) : Host.Outcome State Fault Refusal :=
  onEvent s.linkUp s
    (match doorbell 0x08 off width with
     | none => s
     | some r => if (s.ring r).enabled then s.modRing r fun R => { R with headDb := BitVec.ofNat 32 v } else s)

/-! ### Fetching descriptors (10 R287, R290, R294, R295) -/

/-- The record length that an opcode takes: least and greatest (10 R296 and the chapters it names). -/
def paramRange (op : Nat) : Option (Nat × Nat) :=
  match op with
  | 0x0101 | 0x0102 | 0x0801 | 0x0903 => some (12, 12)
  | 0x0103 | 0x0201 | 0x0203 | 0x0205 | 0x0405 | 0x0702 | 0x0803 | 0x0902 => some (4, 4)
  | 0x0104 => some (0, 0)
  | 0x0105 | 0x0404 => some (68, 284)
  | 0x0202 => some (24, 24)
  | 0x0204 | 0x0A04 => some (8, 8)
  | 0x0301 => some (128, 128)
  | 0x0302 | 0x0604 | 0x0A01 | 0x0A02 => some (40, 40)
  | 0x0303 | 0x0402 | 0x0602 | 0x0603 | 0x0701 | 0x0802 | 0x0901 => some (16, 16)
  | 0x0304 => some (36, 36)
  | 0x0401 => some (20, 4084)
  | 0x0403 | 0x0502 => some (12, 12)
  | 0x0501 | 0x0503 | 0x0703 => some (20, 20)
  | 0x0504 | 0x0A03 => some (28, 28)
  | 0x0601 => some (68, 68)
  | 0x0804 => some (44, 44)
  | _ => none

/-- A parameter record may have a length. -/
def paramLenOk (op n : Nat) : Bool :=
  match paramRange op with
  | none => false
  | some (lo, hi) =>
    decide (lo ≤ n) && decide (n ≤ hi) && (op != 0x0401 || n % 16 == 4) && ((op != 0x0105 && op != 0x0404) || n % 36 == 32)

/-- The indirect flag of a descriptor. -/
def descIndirect (d : List Byte) : Bool := fieldAt d 2 2 % 2 == 1

/-- A descriptor is well formed (10 R290): a listed opcode, its record length, reserved fields 0. -/
def descOk (d : List Byte) : Bool :=
  let n := fieldAt d 8 4
  decide (fieldAt d 2 2 < 4) && paramLenOk (fieldAt d 0 2) n &&
  (if descIndirect d then fieldAt d 12 8 % 64 == 0 && decide (n ≤ 65536) && allZero (d.drop 20)
   else decide (n ≤ 52) && allZero (d.drop (12 + n)))

/-- The opcodes whose record must lie in host memory: COLL_BIND and POOL_CONFIG, longer than 52 bytes anyway, and the quorum
records (10 R296, 11 R326). -/
def descParams (d params : List Byte) : Option (List Byte) :=
  let n := fieldAt d 8 4
  if descIndirect d then (if params.length = n then some params else none) else some (slice d 12 n)

/-- COLL_POST commands outstanding on the fast path. -/
def State.postCount (s : State) : Nat := s.host.posts.length + (s.host.cmds.filter fun k => k.opcode == 0x0302 && !k.taken).length

/-- Ring r may fetch its next descriptor. -/
def State.mayFetch (s : State) (r : Nat) : Bool :=
  let R := s.ring r
  s.linkUp && R.enabled && R.enable && !R.error && R.tailDb != R.cmdHead && s.dev.warm.isNone

/-- s with a command of some source accepted, or finished at once with the status of 10 R295. -/
def State.accept (s : State) (src : CmdSrc) (desc : List Byte) (params : Option (List Byte)) (ok : Bool) : State :=
  let id := s.host.nextId
  let cmd : Cmd := { id := id, src := src, opcode := fieldAt desc 0 2, barrier := (fieldAt desc 2 2 / 2) % 2 == 1, tag := fieldAt desc 4 4,
                     params := params.getD [] }
  let s := s.modHost fun h => { h with nextId := id + 1, cmds := h.cmds ++ [cmd] }
  if s.dev.state = .wedged then s.finish id stWedged
  else if ok && params.isSome then s else s.finish id stBadParam

/-- DESCRIPTOR_FETCH: the next descriptor of ring r arrives, with the record that an indirect one names; no bytes of a descriptor
stand for a PCIe error, which stops the ring with HOST_READ, and no bytes of a record for a failed read (10 R287, R295). -/
def execDescriptorFetch (r : Nat) (desc params : List Byte) (s : State) : Host.Outcome State Fault Refusal :=
  onUnit (r < 256) s
    (if s.mayFetch r then
      if desc.isEmpty then s.modRing r fun R => { R with error := true, cause := 2 }
      else
        let d := padTo 64 desc
        if fieldAt d 0 2 = 0x0302 && 4096 ≤ s.postCount then s
        else (s.modRing r fun R => { R with cmdHead := R.cmdHead + 1#32 }).accept (.ring r) d (descParams d params) (descOk d)
    else s)

/-! ### BAR4 (01 R30) -/

/-- n free bytes, and s with them drawn. -/
def State.freeBytes (s : State) : Nat → List Byte × State
  | 0 => ([], s)
  | n + 1 =>
    let r := State.freeBytes s.drawn n
    (BitVec.ofNat 8 s.freeNat :: r.1, r.2)

/-- Device address of a BAR4 offset. -/
def State.bar4Addr (s : State) (off : Nat) : Nat := s.dev.bar4Window.toNat % 8 * 0x20000000 + off

/-- The record of an uncorrectable word met by a BAR4 access. -/
def State.bar4Ecc (s : State) (w : Nat) : State :=
  (s.memUe (32 * w)).almQueue { type := 1, fault := faultEcc, unit := ctrlOf (32 * w), detail := memDetail 8 0xFF 0xFFFFFFFF (32 * w) }

/-- First uncorrectable word among some words: one known, or the one that this access finds. -/
def State.badAmong (s : State) (ws : List Nat) (ecc : Option Nat) : Option Nat :=
  ws.find? fun w => s.mem.ue.contains w || ecc == some w

/-- BAR4_READ of n bytes; ecc names a word (device address / 32) that this read finds uncorrectable, ce those it finds with a single-bit
error (01 R33). -/
def execBar4Read (off len : Nat) (ecc : Option Nat) (ce : List Nat) (s : State) : Host.Outcome State Fault Refusal :=
  let a := s.bar4Addr off
  onEvent (s.linkUp && 0 < len && off + len ≤ barSize 4) s
    (if !s.memThere a then (let r := s.freeBytes len; r.2.answer (.data r.1))
     else let s := s.corrected (wordsOf a len) ce; match s.badAmong (wordsOf a len) ecc with
      | some w => (s.bar4Ecc w).answer .completerAbort
      | none => s.answer (.data (s.memRead a len)))

/-- s with the bytes of one 32-byte word that a BAR4 write covers written, or the word discarded when its read finds it
uncorrectable. -/
def State.bar4Word (s : State) (a : Nat) (d : List Byte) (ecc : Option Nat) (ce : List Nat) (w : Nat) : State :=
  let lo := max a (32 * w)
  let hi := min (a + d.length) (32 * w + 32)
  let part := (d.drop (lo - a)).take (hi - lo)
  if !s.memThere lo then s
  else if hi - lo = 32 then s.memWrite lo part
  else match s.badAmong [w] ecc with
    | some w => s.bar4Ecc w
    | none => ((s.corrected [w] ce).memWrite lo part).healCe [w]

/-- BAR4_WRITE: word by word; a word not covered whole is read, modified and written (01 R30); ce as for BAR4_READ. -/
def execBar4Write (off : Nat) (data : List Byte) (ecc : Option Nat) (ce : List Nat) (s : State) : Host.Outcome State Fault Refusal :=
  let a := s.bar4Addr off
  onEvent (s.linkUp && off + data.length ≤ barSize 4) s
    (((wordsOf a data.length).foldl (fun s w => s.bar4Word a data ecc ce w) s).answer .accepted)

/-! ### Commands of the fast path that only report, and DEV_SET_MODE -/

/-- DEV_IDENTIFY (10 R296). -/
def execDevIdentify (c : Nat) (s : State) : Host.Outcome State Fault Refusal :=
  runCmd 0x0101 c s fun k s =>
    let v := s.dev.fwVer
    s.finishData k [s.devId] (padTo 64 (padTo 12 s.part.serial ++ [0xA1#8, BitVec.ofNat 8 s.part.grade, 0#8, 0#8] ++
      toLE 24 s.part.fuse.toNat ++ (if v.getLsbD 31 then toLE 3 v.toNat else [0#8, 0#8, 0#8])))

/-- FW_VERSION (10 R296, R306): all zeros until FW_VER.valid is 1. -/
def execFwVersion (c : Nat) (s : State) : Host.Outcome State Fault Refusal :=
  runCmd 0x0801 c s fun k s =>
    let v := s.dev.fwVer
    s.finishData k [] (padTo 64 (if v.getLsbD 31 then toLE 3 v.toNat ++ [0#8] ++ padTo 32 s.dev.fwDigest ++ padTo 3 s.dev.translator else []))

/-- One port's 32 bytes of DEV_STATUS. -/
def State.portRecord (s : State) (p : Nat) : List Byte :=
  let L := (s.port p).link
  padTo 22 L.disc ++ toLE 1 L.state.code ++ toLE 1 L.reason ++ toLE 8 L.activeAt

/-- DEV_STATUS (10 R296). -/
def execDevStatus (c : Nat) (s : State) : Host.Outcome State Fault Refusal :=
  runCmd 0x0102 c s fun k s =>
    s.finishData k [] (toLE 4 s.devState ++ [0#8, 0#8, 0#8, 0#8] ++ ((List.range 36).map s.portRecord).flatten)

/-- A context exists, or the prefix store is enabled (01 R36). -/
def State.anyContext (s : State) : Bool := (List.range 256).any (fun x => (s.ctx x).live) || s.pfx.on

/-- DEV_SET_MODE (01 R36). -/
def execDevSetMode (c : Nat) (s : State) : Host.Outcome State Fault Refusal :=
  runCmd 0x0103 c s fun k s =>
    let v := BitVec.ofNat 32 (fieldAt k.params 0 4)
    if s.anyContext || s.dev.mode.getLsbD 31 || (v &&& 0x7FFFFFFC#32) != 0#32 then s.finish c stBadParam
    else (s.modDev fun d => { d with mode := v }).configured.finish c stOk

end Sys2Proof.Machine
end

