-- ==== Sys2Proof/Machine/Fabric.lean ====
section
/-!
DEFINITION. The forwarding plane: meters (07 R211 to R218), random early drop (06 R198, R199), notices (07 R221, 13 R361), the
forwarding decision (06 R184 to R189, 07 R207), dropping and flushing (06 R200, R203, R205) and the scheduler (07 R209, R210).
-/

namespace Sys2Proof.Machine

/-! ### Meters (07 R211 to R216) -/

/-- SHAPER_CFG.rate. -/
def Shaper.rate (h : Shaper) : Nat := (h.cfg.extractLsb' 0 23).toNat
/-- SHAPER_CFG.burst. -/
def Shaper.burst (h : Shaper) : Nat := (h.cfg.extractLsb' 24 24).toNat
/-- SHAPER_CFG.enable. -/
def Shaper.enabled (h : Shaper) : Bool := h.cfg.getLsbD 48
/-- A disabled shaper is always satisfied; an enabled one while T is 0 or above. -/
def Shaper.ok (h : Shaper) : Bool := !h.enabled || decide (0 ≤ h.tokens)

/-- Tokens after one FAB_CLK cycle's refill towards a bucket (07 R212, R214). -/
def refillTokens (t : Int) (rate bucket : Nat) : Int :=
  let full : Int := (bucket : Int) * 65536
  if t < full then min (t + ((rate * 65536 / 1500 : Nat) : Int)) full else t

/-- A shaper after one FAB_CLK cycle. -/
def Shaper.refill (h : Shaper) : Shaper := if h.enabled then { h with tokens := refillTokens h.tokens h.rate h.burst } else h

/-- A shaper charged for a counted length. -/
def Shaper.charge (h : Shaper) (len : Nat) : Shaper := if h.enabled then { h with tokens := h.tokens - (len : Int) * 65536 } else h

/-- A shaper with its configuration written: it keeps its tokens, and starts full when enabled for the first time (07 R214). -/
def Shaper.write (h : Shaper) (v : BitVec 64) : Shaper :=
  let n : Shaper := { h with cfg := v }
  if n.enabled && !h.ever then { n with tokens := (n.burst : Int) * 65536, ever := true } else n

/-- POLICER_CFG.cir. -/
def Policer.cir (p : Policer) : Nat := (p.cfg.extractLsb' 0 23).toNat
/-- POLICER_CFG.cbs. -/
def Policer.cbs (p : Policer) : Nat := (p.cfg.extractLsb' 24 24).toNat
/-- POLICER_CFG.pir. -/
def Policer.pir (p : Policer) : Nat := (p.cfg.extractLsb' 64 23).toNat
/-- POLICER_CFG.pbs. -/
def Policer.pbs (p : Policer) : Nat := (p.cfg.extractLsb' 88 24).toNat
/-- POLICER_CFG.mode. -/
def Policer.mode (p : Policer) : Nat := (p.cfg.extractLsb' 112 2).toNat
/-- POLICER_CFG.red_drop. -/
def Policer.redDrop (p : Policer) : Bool := p.cfg.getLsbD 114

/-- A policer after one FAB_CLK cycle. -/
def Policer.refill (p : Policer) : Policer :=
  if p.mode = 0 then p else { p with tc := refillTokens p.tc p.cir p.cbs, tp := refillTokens p.tp p.pir p.pbs }

/-- A policer with its configuration written: it keeps its buckets, and starts full when its mode becomes nonzero for the first time
since the cold reset (07 R214). -/
def Policer.write (p : Policer) (v : BitVec 128) : Policer :=
  let n : Policer := { p with cfg := v }
  if n.mode ≠ 0 && !p.ever then { n with tc := (n.cbs : Int) * 65536, tp := (n.pbs : Int) * 65536, ever := true } else n

/-- The colour a policer gives a packet of a counted length that arrived with a colour, and the policer after it (07 R215). -/
def Policer.mark (p : Policer) (len pre : Nat) : Nat × Policer :=
  let b : Int := (len : Int) * 65536
  if p.mode = 2 && pre = 2 then (2, p)
  else if p.tp < b then (2, p)
  else if (p.mode = 2 && pre = 1) || p.tc < b then (1, { p with tp := p.tp - b })
  else (0, { p with tp := p.tp - b, tc := p.tc - b })

/-- Stream shaper q. -/
def State.strShaper (s : State) (q : Nat) : Shaper := SMap.get shaperAt s.fab.strShaper q
/-- Service shaper 8p + v. -/
def State.svcShaper (s : State) (i : Nat) : Shaper := SMap.get svcShaperAt s.fab.svcShaper i
/-- Port shaper p. -/
def State.portShaper (s : State) (p : Nat) : Shaper := SMap.get shaperAt s.fab.portShaper p
/-- Policer of stream queue q. -/
def State.policer (s : State) (q : Nat) : Policer := SMap.get policerAt s.fab.policer q

/-- s with stream shaper q changed. -/
def State.modStrShaper (s : State) (q : Nat) (f : Shaper → Shaper) : State :=
  s.modFab fun b => { b with strShaper := SMap.set shaperAt q (f (s.strShaper q)) b.strShaper }
/-- s with service shaper i changed. -/
def State.modSvcShaper (s : State) (i : Nat) (f : Shaper → Shaper) : State :=
  s.modFab fun b => { b with svcShaper := SMap.set svcShaperAt i (f (s.svcShaper i)) b.svcShaper }
/-- s with port shaper p changed. -/
def State.modPortShaper (s : State) (p : Nat) (f : Shaper → Shaper) : State :=
  s.modFab fun b => { b with portShaper := SMap.set shaperAt p (f (s.portShaper p)) b.portShaper }
/-- s with policer q changed. -/
def State.modPolicer (s : State) (q : Nat) (f : Policer → Policer) : State :=
  s.modFab fun b => { b with policer := SMap.set policerAt q (f (s.policer q)) b.policer }

/-- The length a meter counts for a packet with a port's overhead (07 R211). -/
def State.counted (s : State) (port : Nat) (p : Pkt) : Nat := ((p.len : Int) + (s.port port).overhead).toNat

/-! ### VC7 reservations (07 R217, R218) -/

/-- The reservations of port p: stream queues bound to (p, VC7) whose policer has cir above 0. -/
def State.reservations (s : State) (p : Nat) : List (Nat × Policer) :=
  s.fab.policer.filter fun x => 0 < x.2.cir && (s.sqCfg x.1).inUse && (s.sqCfg x.1).port == p && (s.sqCfg x.1).vc == 7

/-- Every reservation of p meets the conditions of R217. -/
def State.reservationsOk (s : State) (p : Nat) : Bool :=
  (s.reservations p).all fun x =>
    let c := x.2
    c.mode == 1 && c.pir == c.cir && c.pbs == c.cbs && c.redDrop && !(s.strShaper x.1).enabled && !(s.svcShaper (8 * p + 7)).enabled &&
      decide (0 ≤ (s.port p).overhead)

/-- C6 of a port in MB/s (07 R218). -/
def usableRate (p : Nat) : Nat := if p < 36 then 144000 else if p = 36 then 100000 else 4800000

/-- The three VC7 admission checks of port p, made only while p holds a reservation (07 R218). The delay check D ≤ 1,500 ns is taken
without division: 1000 (2 B7 + 2 I) (w7 + W) ≤ 3000 w7 (C' - r0). -/
def State.admissionOk (s : State) (p : Nat) : Bool :=
  let rs := s.reservations p
  if rs.isEmpty then true
  else
    let w := (s.port p).wdrr
    let w7 := w.getD 6 16
    let others := (w.take 6).foldl (· + ·) 0
    let sh := s.portShaper p
    let c' := if sh.enabled then min (usableRate p) sh.rate else usableRate p
    let v0 := s.svcShaper (8 * p)
    let b7twice := rs.foldl (fun n x => n + 2 * x.2.cbs + 3 * x.2.cir * (s.sqCfg x.1).hop) 0
    let i := 64 * others + 6 * 4207 + v0.burst + 4207
    decide (2 * rs.foldl (fun n x => n + x.2.cir) 0 ≤ usableRate p) && decide (5 * others ≤ 4 * w7) &&
      decide (((1000 * (b7twice + 2 * i) * (w7 + others) : Nat) : Int) ≤ 3000 * (w7 : Int) * ((c' : Int) - (v0.rate : Int)))

/-! ### Depths and random early drop (06 R198, R199) -/

/-- Sum of the cells of some packets. -/
def pktCells (l : List Pkt) : Nat := l.foldl (fun n p => n + p.nCells) 0

/-- Cells queued for output on (p, v), the packet in transmission included. -/
def State.qDepth (s : State) (p v : Nat) : Nat :=
  pktCells ((s.fab.sq.map (·.2)).flatten.filter fun x => x.outPort == p && x.vc == v) +
  (match SMap.get noneAt s.fab.txPkt p with | some x => if x.vc = v then x.nCells else 0 | none => 0)

/-- s with the telemetry window that holds the present time in force: once the end of the one before has come, q_peak, the first-drop
records and the notices of a window restart, and the mean p_th of the window that ended is kept. Windows are half-open: what is stamped at
the boundary opens the new one (00 R10, 07 R223; 13 R361; 14 R383). -/
def State.rollWindow (s : State) : State :=
  if s.now < s.dev.telEnd then s
  else
    let n := s.dev.telNext * 1000
    let s1 := s.modDev fun d => { d with telLen := d.telNext, telEnd := (s.now / n + 1) * n }
    let s2 := s1.modFab fun b => { b with qPeak := [], winDrops := [], noticed := [] }
    s2.modPwr fun p => { p with winPth := if p.winN = 0 then 0 else p.winSum / (p.winN : Rat), winSum := 0, winN := 0 }

/-- s with q_peak of (p, v) raised to the depth of now, sampled when a depth changes (06 R204, 07 R223). -/
def State.samplePeak (s : State) (p v : Nat) : State :=
  let s := s.rollWindow
  let d := s.qDepth p v
  s.modFab fun b => { b with qPeak := SMap.set zeroAt (8 * p + v) (max d (SMap.get zeroAt b.qPeak (8 * p + v))) b.qPeak }

/-- Profile of VC v in PORT_VC_RED. -/
def Port.redProfile (P : Port) (v : Nat) : Nat := (P.vcRed.extractLsb' (8 * v) 4).toNat

/-- Averaging weight of VC v. -/
def Port.redWeight (P : Port) (v : Nat) : Nat := (P.vcRed.extractLsb' (8 * v + 4) 4).toNat

/-- Random early drop applies to a VC in the mode in force (06 R198). -/
def State.redApplies (s : State) (v : Nat) : Bool :=
  if s.dev.mode.getLsbD 0 then 1 ≤ v && v ≤ 3 else 1 ≤ v && v ≤ 6

/-- The early-drop generator of slice i; before its first draw, the seed the entropy source gave it at the cold reset, which is free but
for 0, stored as 1 (02 R53; log 6). -/
def State.redGen (s : State) (i : Nat) : BitVec 32 :=
  let g := (s.slice i).gen
  if g = 0#32 then (let f := BitVec.ofNat 32 s.freeNat; if f = 0#32 then 1#32 else f) else g

/-- Random early drop of a packet by slice i on its way to (port, VC): the average is updated, then the packet is kept or dropped;
the slice's generator advances only when the draw is reached (06 R199). -/
def State.earlyDrop (s : State) (i : Nat) (p : Pkt) : Bool × State :=
  let o := p.outPort
  let v := p.vc
  let P := s.port o
  let k := 8 * o + v
  let a := SMap.get zeroAt s.fab.redAvg k
  let avg := ((a : Int) + ((s.qDepth o v * 256 : Nat) - (a : Int)) / ((2 ^ P.redWeight v : Nat) : Int)).toNat
  let s := s.modFab fun b => { b with redAvg := SMap.set zeroAt k avg b.redAvg }
  let n := P.redProfile v
  if !s.redApplies v || n = 0 then (false, s)
  else
    let f : BitVec 64 := SMap.get zeroBits s.fab.red (4 * n + p.colour)
    let lo := (f.extractLsb' 0 20).toNat
    let hi := (f.extractLsb' 20 20).toNat
    let mp := (f.extractLsb' 40 9).toNat
    let m := avg / 256
    if !f.getLsbD 49 || m < lo then (false, s)
    else if hi ≤ m then (true, s)
    else
      let pr := mp * 256 * (m - lo) / (hi - lo)
      let g := xorshift (s.redGen i)
      (decide (g.toNat / 65536 < pr), (s.modSlice i fun S => { S with gen := g }).drawn)

/-! ### Notices (07 R221; 10 R304; 13 R361) -/

/-- Most notices that wait. -/
abbrev maxNotices : Nat := 256

/-- Counter notice_lost (07 R221), in block 5 of TEL_READ. -/
def ctrNoticeLost : Nat := ctrKey 5 0 7

/-- The payload of a notice (10 R304). Its time is the master's value of the time base: the copy that stamps it is given no lag (01 R26;
DESIGN CHOICE, log 13). -/
def State.noticePayload (s : State) (type reason port level src tag ctx : Nat) : List Byte :=
  padTo 64 (toLE 1 type ++ toLE 1 reason ++ toLE 1 port ++ toLE 1 level ++ padTo 12 s.part.serial ++ toLE 8 s.now ++ toLE 2 src ++
    [0#8, 0#8] ++ toLE 4 tag ++ toLE 4 ctx)

/-- s with a notice put into the queue, or counted as lost when it is full. -/
def State.pushNotice (s : State) (n : Notice) : State :=
  if s.fab.notices.length < maxNotices then s.modFab fun b => { b with notices := b.notices ++ [n] } else s.count ctrNoticeLost 1

/-- s with a FAULT_NOTICE for the event of a level; at levels 0 and 1 at most one per context, level and telemetry window, and only for
a Tiller of a context (13 R361). -/
def State.faultNotice (s : State) (level reason : Nat) (ctx : Option Nat) : State :=
  let s := s.rollWindow
  let n : Notice := { payload := s.noticePayload 1 reason 0xFF level 0 0 (if level < 2 then ctx.getD 0xFFFFFFFF else 0xFFFFFFFF),
                      route := SMap.get nilAt s.fab.routes 0, vc := 0, tag := 0 }
  if level < 2 then
    match ctx with
    | none => s
    | some x =>
      if s.fab.noticed.contains (x, level) then s
      else (s.modFab fun b => { b with noticed := (x, level) :: b.noticed }).pushNotice n
  else s.pushNotice n

/-- s with a DELIVERY_LOST notice about a VC7 packet dropped on a port (07 R221). -/
def State.deliveryLost (s : State) (p : Pkt) (port reason : Nat) : State :=
  if p.vc = 7 then
    s.pushNotice { payload := s.noticePayload 2 reason port 0 p.src p.tag 0xFFFFFFFF, route := reverseRoute p.ret, vc := 2, tag := p.tag }
  else s

/-- NOTICE_QUEUE_SEND: the oldest waiting notice becomes a NOTICE packet, or an Almanac record in its place when its route has no hop
(06 R185). -/
def execNoticeQueueSend (s : State) : Host.Outcome State Fault Refusal :=
  onEvent s.live s
    (match s.fab.notices with
      | [] => s
      | n :: rest =>
        let s' := s.modFab fun b => { b with notices := rest }
        if (n.route.headD 0#8).toNat / 16 = 0 then
          s'.almQueue { type := 0x0E, detail := detail [n.payload.headD 0#8, n.payload.getD 1 0#8, 0#8, 0#8] }
        else s'.sendOn36 { bytes := mkHeader 3 n.vc 0 0 0 0 0 0 n.tag n.payload.length n.route ++ n.payload })

/-! ### Drops (06 R200, R203, R205) -/

/-- s with a packet dropped for ROUTE_RANK or EPOCH_STALE: the first on its port in a telemetry window writes a fault record (06
R205). -/
def State.windowedDrop (s : State) (p : Pkt) (reason : Nat) : State :=
  let s := s.rollWindow
  let k := 2 * p.inPort + (if reason = dropRouteRank then 0 else 1)
  let n := SMap.get zeroAt s.fab.winDrops k + 1
  let s := (s.dropPkt p p.inPort reason).modFab fun b => { b with winDrops := SMap.set zeroAt k n b.winDrops }
  if n = 1 then
    let stale := reason = dropEpochStale
    s.almQueue { type := 1, fault := if stale then faultEpochStale else faultRouteRank, unit := p.inPort,
                 ctx := if stale then p.ctx else 0xFFFFFFFF, signature := if stale then (s.ctx p.ctx).signature else 0#64,
                 detail := detail (toLE 1 reason ++ toLE 1 p.inPort ++ toLE 1 p.hopPort ++ toLE 1 (p.byte 1) ++
                   toLE 1 (if p.hopPort < 36 then (s.port p.hopPort).rank else 0) ++ toLE 1 p.epoch ++
                   toLE 1 (if stale then (s.epoch p.ctx).toNat else 0) ++ toLE 1 p.kind ++ Machine.slice p.bytes 16 16 ++ toLE 4 p.tag ++ toLE 4 n) }
  else s

/-- A packet past its decision as it arrived: the hop that its decision consumed is the current one again, its bit 6 back at 0 (06 R180,
R184). -/
def Pkt.asArrived (p : Pkt) : Pkt :=
  let i := p.hopPtr - 1
  (p.setByte (17 + i) (p.hop i % 64)).setByte 16 (p.hopCount * 16 + i)

/-- s with packets steered to a context, already past their decision, dropped as EPOCH_STALE (13 R363). -/
def State.dropStale (s : State) (l : List Pkt) : State := l.foldl (fun s p => s.windowedDrop p.asArrived dropEpochStale) s

/-- s with every packet on the output queues of port p removed and counted as PORT_DOWN (06 R200). -/
def State.flushPort (s : State) (p : Nat) : State :=
  let qs := (s.fab.sq.filter fun x => x.2.any fun k => k.outPort == p).map (·.1)
  let gone := ((qs.map s.sq).flatten.filter fun k => k.outPort == p) ++ (SMap.get noneAt s.fab.txPkt p).toList
  let s := qs.foldl (fun s q => s.setSq q ((s.sq q).filter fun k => k.outPort != p)) s
  let s := s.modFab fun b => { b with txPkt := SMap.set noneAt p none b.txPkt }
  gone.foldl (fun s k => ((s.dropPkt k p dropPortDown).deliveryLost k p dropPortDown).samplePeak p k.vc) s

/-! ### The forwarding decision (06 R184, R189; 07 R207) -/

/-- A kind is listed and allowed on a VC (06 R179). -/
def kindOnVc (kind vc : Nat) : Bool :=
  match kind with
  | 0 => vc == 1 || vc == 2 || vc == 3 || vc == 6 || vc == 7
  | 1 => vc == 4 || vc == 5
  | 2 => vc == 0
  | 3 => vc == 0 || vc == 2
  | _ => false

/-- The route-field part of check 1: bit 7 of every hop byte, and the bytes beyond hop_count, are 0. -/
def Pkt.routeBitsOk (p : Pkt) : Bool := (List.range 15).all fun i => p.hop i < 128 && (i < p.hopCount || p.hop i == 0)

/-- Forwarding check 1. -/
def Pkt.headerOk (p : Pkt) : Bool :=
  p.version == 1 && kindOnVc p.kind p.vc && p.colour != 3 && decide (16 ≤ p.lenField) && decide (p.lenField ≤ 4096) &&
  p.len == 48 + p.lenField && decide (p.byte 2 < 64) && decide (p.byte 5 < 32) && p.routeBitsOk && decide (p.byte 32 < 16) &&
  (List.range 15).all fun i => decide (p.byte (33 + i) < 128)

/-- Forwarding check 3: the current hop names a port from 0 to 37, and 36 or 37 only as the last hop. -/
def Pkt.hopOk (p : Pkt) : Bool := p.hopPort < 36 || (p.hopPort < 38 && p.hopPtr + 1 == p.hopCount)

/-- The rank rule: sub-channel, phase and rank_last after the hop, or none for a climb after a descent (06 R189). -/
def rankRule (r phase last : Nat) : Option (Nat × Nat × Nat) :=
  if phase = 0 then (if last < r then some (0, 0, r) else some (1, 1, r))
  else if r < last then some (1, 1, r) else none

/-- The Tiller that the steering table names for a STREAM or COLL packet; a COLL packet must name the context that owns the slot (06
R179, R184 check 5). -/
def State.steered (s : State) (p : Pkt) : Option Nat :=
  if p.kind = 0 then s.steer (steerCtx p.ctx p.sub)
  else if (s.slot p.slotNo).bind.ctx = p.ctx then s.steer (steerSlot p.slotNo p.sub) else none

/-- A packet with the updates of a passed decision: return byte, bit 6 of the hop, phase and rank_last, hop_ptr (06 R184). -/
def Pkt.pass (p : Pkt) (sc phase rankLast : Nat) : Pkt :=
  let i := p.hopPtr
  let p1 := (p.setByte (33 + i) (p.inPort + 64 * p.sc)).setByte 32 (i + 1)
  let p2 := p1.setByte (17 + i) (p.hop i % 64 + 64 * sc)
  let p3 := p2.setByte 1 (p.vc + 8 * phase + 16 * rankLast)
  (p3.setByte 16 (p.hopCount * 16 + i + 1))

/-- The stream queue of a packet past its checks, or none for a COLL packet of a lane Tiller whose slot holds no queue for the port
(07 R207). -/
def State.classify (s : State) (p : Pkt) (out : Nat) : Option Nat :=
  let slotQ (l : Nat) : Option Nat := ((s.slot l).queues.find? fun x => x.1 == out).map (·.2)
  let usual : Nat := let m := SMap.get sqMapAt s.fab.sqMap (8 * out + p.vc); m.1 + p.flow % 2 ^ m.2
  if p.kind = 1 && out = 37 then slotQ p.slotNo
  else if p.kind = 1 then
    match p.sender with
    | some t => (match (s.slotsOfLane t).head? with | some l => slotQ l | none => some usual)
    | none => some usual
  else some usual

/-- s with a packet past its checks policed, offered to random early drop and linked onto its stream queue (07 R207, R215 to R217; 06
R199). -/
def State.link (s : State) (i : Nat) (p : Pkt) (q : Nat) : State :=
  let pol := s.policer q
  if p.vc = 7 && pol.cir = 0 then s.dropPkt p p.inPort dropPoliced
  else
    let metered := pol.mode ≠ 0 && !(s.port p.inPort).trust
    let r := if metered then pol.mark (s.counted p.inPort p) p.colour else (p.colour, pol)
    let s := if metered then (s.modPolicer q fun _ => r.2).count (ctrKey 2 q r.1) 1 else s
    let p := p.setByte 2 (p.byte 2 / 4 * 4 + r.1)
    if metered && r.1 = 2 && pol.redDrop then s.dropPkt p p.inPort dropPoliced
    else
      let e := s.earlyDrop i p
      if e.1 then e.2.dropPkt p p.outPort dropCongestion
      else (e.2.setSq q (e.2.sq q ++ [{ p with queue := q }])).samplePeak p.outPort p.vc

/-- A packet for port 37 names a context that has been torn down, in an epoch that is over: it fails check 6 although its steering entries
went with the teardown (05 R139, R176; 13 R363; log 96). In a WEDGED device the table has been cleared, and it is NO_STEER (13 R353). -/
def State.tornEpoch (s : State) (p : Pkt) : Bool :=
  s.dev.state ≠ .wedged && s.epoch p.ctx != 0#8 && p.epoch != (s.epoch p.ctx).toNat

/-- s with slice i's decision on a packet (06 R184). -/
def State.decidePkt (s : State) (i : Nat) (p : Pkt) : State :=
  let out := p.hopPort
  if !p.headerOk then s.dropPkt p p.inPort dropHdrErr
  else if p.hopCount = 0 || p.hopCount ≤ p.hopPtr then s.dropPkt p p.inPort dropRouteEnd
  else if !p.hopOk then s.dropPkt p p.inPort dropBadHop
  else
    match (if out < 36 then rankRule (s.port out).rank p.phase p.rankLast else some (0, p.phase, p.rankLast)) with
    | none => s.windowedDrop p dropRouteRank
    | some (sc, phase, last) =>
      let aimed := out = 37 && p.kind < 2
      let steer := if aimed then s.steered p else none
      if aimed && steer.isNone then
        (if s.tornEpoch p then s.windowedDrop p dropEpochStale else s.dropPkt p p.inPort dropNoSteer)
      else if aimed && p.epoch ≠ (s.epoch p.ctx).toNat then s.windowedDrop p dropEpochStale
      else
        let p' := { (p.pass sc phase last) with outPort := out, outSc := sc, steer := steer.getD 0 }
        if !s.portUp out then (s.dropPkt p out dropPortDown).deliveryLost p' out dropPortDown
        else match s.classify p' out with
          | none =>
            (match p.sender with
              | some t => ((s.slotsOfLane t).head?.map (s.release p).protoDrop).getD (s.release p)
              | none => (s.release p).protoDrop p.slotNo)
          | some q => s.link i p' q

/-- s with a slice's credit given again once its queue has fallen below 384 (06 R195). -/
def State.easeSlice (s : State) (i : Nat) : State :=
  s.modSlice i fun S => { S with holding := S.holding && decide (384 ≤ S.dq.length) }

/-- FORWARDING_DECISION: slice i decides the packet at the head of its decision queue, received in an earlier cycle, in its turn within the
cycle (06 R195, 07 R222). -/
def execForwardingDecision (i : Nat) (s : State) : Host.Outcome State Fault Refusal :=
  onUnit (i < 4) s
    (match (s.slice i).dq with
      | [] => s
      | p :: rest =>
        if s.fab.drainPause || !s.inTurn i || s.clk.fab < p.rxCyc then s
        else (((s.takeTurn i).modSlice i fun S => { S with dq := rest }).easeSlice i).decidePkt i p)

/-- HOST_PACKET_ADMIT: the oldest waiting host or firmware packet enters on port 36 once its class admits it (06 R193). -/
def execHostPacketAdmit (s : State) : Host.Outcome State Fault Refusal :=
  onEvent (s.live && !s.fab.drainPause) s
    (match s.host.admitQ with
      | [] => s
      | p :: rest =>
        match s.enter p.bytes 36 none with
        | none => s
        | some (r, s') =>
          let s' := s'.modHost fun h => { h with admitQ := rest }
          match r with
          | none => s'
          | some (k, i) => s'.enqueue i { k with origin := p.origin })

/-! ### The scheduler (07 R209, R210) -/

/-- Room in the Mover receive queue of a Tiller, packets on their way included (03 R79). -/
def State.recvRoom (s : State) (t : Nat) : Bool :=
  decide ((s.tl t).recvQ.length + (s.fab.transit.filter fun x => x.1 == t).length < 32)

/-- Credit for one more packet of a class from a link's peer: U_c, with the packets that wait to have their first byte written into a flit, has
not reached G_c (09 R264). -/
def Link.credit (L : Link) (c : Nat) : Bool :=
  SMap.get zeroBits L.used c + BitVec.ofNat 16 (L.txStarts.filter fun x => x.2 == c).length != SMap.get zeroBits L.grantRx c

/-- The receive ring of the host has room (10 R303). -/
def State.hrxRoom (s : State) : Bool :=
  !s.dev.hrxCfg.getLsbD 0 || decide ((s.dev.hrxTail - s.dev.hrxHead).toNat < 2 ^ (s.dev.hrxCfg.extractLsb' 4 4).toNat)

/-- The outstanding posts that a packet for port 36 belongs to: those of its slot, step and rank (10 R299). -/
def State.postsFor (s : State) (p : Pkt) : List Post :=
  if p.kind = 1 then
    let c := readPrefix p.payload
    s.host.posts.filter fun x => x.slot == c.slot && x.step == c.step && x.rank == c.rank
  else []

/-- The output can take a packet. -/
def State.outputTakes (s : State) (p : Pkt) : Bool :=
  if p.outPort < 36 then (s.port p.outPort).link.credit (2 * p.vc + p.outSc)
  else if p.outPort = 36 then !(s.postsFor p).isEmpty || s.hrxRoom
  else decide (2 ≤ p.kind) || s.recvRoom p.steer

/-- A packet at the head of a stream queue is eligible (07 R209). -/
def State.eligible (s : State) (q : Nat) (p : Pkt) : Bool :=
  (s.strShaper q).ok && (s.svcShaper (8 * p.outPort + p.vc)).ok && (p.vc = 0 || (s.portShaper p.outPort).ok) && s.outputTakes p

/-- One visit of an entry in the deficit rule: the entry's deficit state after it, and whether its packet is chosen. head gives the
counted length of an eligible head packet, and whether the entry holds packets. -/
def drrVisit (q : Nat) (head : Option Nat × Bool) (d : Drr) : Drr × Bool :=
  let pass (d : Drr) : Drr := { deficit := if head.2 then d.deficit else 0, granted := false }
  match head.1 with
  | none => (pass d, false)
  | some len =>
    if len ≤ d.deficit then ({ d with deficit := d.deficit - len }, true)
    else if d.granted then (pass d, false)
    else if len ≤ d.deficit + q then ({ deficit := d.deficit + q - len, granted := true }, true)
    else (pass { deficit := d.deficit + q, granted := true }, false)

/-- One selection over entries in the order they are visited: the deficits, and the entry chosen (07 R210). -/
def drrSelect (quantum : Nat → Nat) (head : Nat → Option Nat × Bool) : List Nat → SMap Drr → SMap Drr × Option Nat
  | [], m => (m, none)
  | e :: rest, m =>
    let v := drrVisit (quantum e) (head e) (SMap.get drrAt m e)
    let m' := SMap.set drrAt e v.1 m
    if v.2 then (m', some e) else drrSelect quantum head rest m'

/-- An unlisted entry served last at the VC level is VC1 (log 25). -/
def oneAt (_ : Nat) : Nat := 1

/-- Entries in cyclic order from the one served last. -/
def fromLast (last : Nat) (l : List Nat) : List Nat := (l.filter fun e => decide (last ≤ e)) ++ l.filter fun e => decide (e < last)

/-- Selections repeated until one makes a choice, at most n. -/
def drrRepeat (quantum : Nat → Nat) (head : Nat → Option Nat × Bool) (order : List Nat) : Nat → SMap Drr → SMap Drr × Option Nat
  | 0, m => (m, none)
  | n + 1, m =>
    match drrSelect quantum head order m with
    | (m', some e) => (m', some e)
    | (m', none) => drrRepeat quantum head order n m'

/-- Stream queues of service queue (p, v) that hold packets or a deficit, ascending. -/
def State.members (s : State) (p v : Nat) : List Nat :=
  ((dedup (s.fab.sq.map (·.1) ++ s.fab.drrSq.map (·.1))).filter fun q =>
    ((s.sqCfg q).inUse || !(s.sq q).isEmpty) && (s.sqCfg q).port == p && (s.sqCfg q).vc == v).mergeSort (· ≤ ·)

/-- Head of a stream queue for the deficit rule. -/
def State.sqHead (s : State) (q : Nat) : Option Nat × Bool :=
  match s.sq q with
  | [] => (none, false)
  | p :: _ => (if s.eligible q p then some (s.counted p.outPort p) else none, true)

/-- Quantum of a stream queue. -/
def State.streamQuantum (s : State) (q : Nat) : Nat := (s.sqCfg q).weight * 64

/-- The order in which the stream level of (p, v) visits its queues: from the one served last. -/
def State.streamOrder (s : State) (p v : Nat) : List Nat := fromLast (SMap.get zeroAt s.fab.lastSq (8 * p + v)) (s.members p v)

/-- Some stream queue of (p, v) has an eligible head packet. -/
def State.vcEligible (s : State) (p v : Nat) : Bool := (s.members p v).any fun q => (s.sqHead q).1.isSome

/-- One selection of the stream level of (p, v): the deficits after it and the queue chosen, if any (07 R210). -/
def State.pickStream (s : State) (p v : Nat) : SMap Drr × Option Nat :=
  if s.vcEligible p v then drrSelect s.streamQuantum s.sqHead (s.streamOrder p v) s.fab.drrSq else (s.fab.drrSq, none)

/-- Head of VC v of port p for the deficit rule of the VC level: the packet that its stream level will choose, after as many selections as
that takes (log 25). -/
def State.vcHead (s : State) (p v : Nat) : Option Nat × Bool :=
  match (if s.vcEligible p v then (drrRepeat s.streamQuantum s.sqHead (s.streamOrder p v) 80 s.fab.drrSq).2 else none) with
  | some q => s.sqHead q
  | none => (none, (s.members p v).any fun q => !(s.sq q).isEmpty)

/-- s with the packet at the head of stream queue q sent: taken off, and charged to the meters it passes (07 R209, R212). -/
def State.sendHead (s : State) (p v q : Nat) : State :=
  match s.sq q with
  | [] => s
  | k :: rest =>
    let len := s.counted p k
    let s := ((s.modStrShaper q (·.charge len)).modSvcShaper (8 * p + v) (·.charge len)).modPortShaper p (·.charge len)
    (s.setSq q rest).modFab fun b => { b with
      txPkt := SMap.set noneAt p (some k) b.txPkt
      lastSq := SMap.set zeroAt (8 * p + v) q b.lastSq }

/-- s after the stream level of the chosen VC of port p has made its selection: the packet chosen is sent; without a choice the stream
queues keep the quanta they gathered and nothing is sent (07 R209, R210). -/
def State.serveVc (s : State) (p v : Nat) : State :=
  let z := s.pickStream p v
  let s := s.modFab fun b => { b with drrSq := z.1 }
  match z.2 with
  | none => s
  | some q => s.sendHead p v q

/-- s after one selection of port p (07 R209): VC0 first, else one of VC1 to VC7 by the deficit rule, then a stream queue within it. The
deficits of the VC level move when a packet is sent or no VC is chosen (log 25). -/
def State.selectPort (s : State) (p : Nat) : State :=
  if s.vcEligible p 0 then s.serveVc p 0
  else
    let base := 8 * p
    let order := (fromLast (SMap.get oneAt s.fab.lastVc p) [1, 2, 3, 4, 5, 6, 7]).map (base + ·)
    let r := drrSelect (fun e => (s.port p).wdrr.getD (e - base - 1) 16 * 64) (fun e => s.vcHead p (e - base)) order s.fab.drrVc
    match r.2 with
    | none => s.modFab fun b => { b with drrVc := r.1 }
    | some e =>
      let v := e - base
      if (s.pickStream p v).2.isSome then
        (s.modFab fun b => { b with drrVc := r.1, lastVc := SMap.set oneAt p v b.lastVc }).serveVc p v
      else s.serveVc p v

/-- SCHEDULER_SELECT: an idle scheduler port selects its next packet, in its turn within the cycle (07 R222). -/
def execSchedulerSelect (p : Nat) (s : State) : Host.Outcome State Fault Refusal :=
  onUnit (p < 38) s
    (if (SMap.get noneAt s.fab.txPkt p).isNone && !s.fab.drainPause && s.portUp p && s.inTurn 4 then (s.takeTurn 4).selectPort p else s)

end Sys2Proof.Machine
end

