-- ==== Sys2Proof/Machine/Recover.lean ====
section
/-!
DEFINITION. What resets share (13 R352, R353, R369): their records, and how the device becomes WEDGED.
-/

namespace Sys2Proof.Machine

/-- Reset detail (13 R369): cause, engine, flags, duration in ns, sample. -/
def resetDetail (cause engine : Nat) (escalated restarted : Bool) (duration sample : Nat) : List Byte :=
  detail (toLE 1 cause ++ toLE 1 engine ++ toLE 1 (bit escalated + 2 * bit restarted) ++ [0#8] ++ toLE 4 duration ++ toLE 4 sample)

/-- A duration or sequence number that is not there. -/
abbrev noneField : Nat := 0xFFFFFFFF

/-- Whole nanoseconds since a time in thirds. -/
def State.nsSince (s : State) (t : Nat) : Nat := (s.t3 - t) / 3

/-- s WEDGED (13 R353, R361): the state, the record naming the last reset record, the FAULT_NOTICE of level 3 with the fault code of the
reset that overran, the WEDGED event, every Tiller stopped and the steering table cleared. -/
def State.wedge (s : State) (lastRec reason : Nat) : State :=
  let s := s.modDev fun d => { d with state := .wedged }
  let s := (s.almHw { type := 8, level := 3, detail := detail (toLE 4 lastRec) }).faultNotice 3 reason none
  let s := s.devEvent 7 stWedged []
  let s := { s with tillers := s.tillers.map fun (p : Nat × Tiller) => (p.1, if p.2.run = TRun.running then { p.2 with run := .stopped } else p.2) }
  s.modFab fun b => { b with steer := [] }

/-- s with several commands finished alike. -/
def State.finishAll (s : State) (cs : List Nat) (status : Nat) (words : List Nat) : State := cs.foldl (fun s c => s.finish c status words) s

end Sys2Proof.Machine
end

