-- ==== Sys2Proof/Machine/Link.lean ====
section
/-!
DEFINITION. The optical fabric ports and their link layer (file 09): flits, retry, grants, pause, training, discovery, going down,
lane sparing, test loops, and the link-layer engine's resets (13 R346, R352).
-/

namespace Sys2Proof.Machine

/-! ### Small helpers -/

/-- Lanes named by a mask. -/
def lanesOf (m : BitVec 8) : List Nat := (List.range 8).filter fun i => m.getLsbD i

/-- Lanes in a mask. -/
def laneCount (m : BitVec 8) : Nat := (lanesOf m).length

/-- A mask of one lane. -/
def laneBit (l : Nat) : BitVec 8 := BitVec.ofNat 8 (2 ^ (l % 8))

/-- Items of a fabric port's block-1 counters, in the order of 09 R277. -/
def ctrLink (p item : Nat) : Nat := ctrKey 1 p item
/-- flits_tx. -/
abbrev cFlitsTx : Nat := 0
/-- flits_rx_ok. -/
abbrev cFlitsRx : Nat := 1
/-- crc_err. -/
abbrev cCrcErr : Nat := 2
/-- seq_discard. -/
abbrev cSeqDiscard : Nat := 3
/-- nak_tx. -/
abbrev cNakTx : Nat := 4
/-- nak_rx. -/
abbrev cNakRx : Nat := 5
/-- replay_flits. -/
abbrev cReplay : Nat := 6
/-- sync_err of lane 0. -/
abbrev cSync : Nat := 10
/-- lane_spares. -/
abbrev cSpares : Nat := 18
/-- train_fail. -/
abbrev cTrainFail : Nat := 19
/-- downs, less one: reason r counts at this plus r. -/
abbrev cDowns : Nat := 19
/-- rx_partial. -/
abbrev cPartial : Nat := 32

/-- s with a link counter of port p advanced. -/
def State.countLink (s : State) (p item n : Nat) : State := s.count (ctrLink p item) n

/-- Firmware of the link runs. -/
def State.fwLink (s : State) : Bool := s.fwpUp fwpLnk

/-! ### Going down (09 R264, R267, R270) -/

/-- A link with everything of a stripe forgotten, in a state it enters. -/
def Link.fresh (L : Link) (t3 : Nat) (st : LinkState) : Link :=
  { state := st, reason := L.reason, loop := if st = .loop then L.loop else 0, pattern := if st = .loop then L.pattern else 0, peerChanged := L.peerChanged, lastPeer := L.lastPeer,
    disc := L.disc, activeAt := L.activeAt, heldLaser := L.heldLaser, heldEq := L.heldEq, heldPower := L.heldPower, laneBad := L.laneBad,
    winEnd := L.winEnd, winErr := L.winErr, txScr := L.txScr, rxScr := L.rxScr, resetAt := L.resetAt, resetFault := L.resetFault, cmds := L.cmds, lastFlit := L.lastFlit, since := t3,
    slotAt := t3 }

/-- s with the cells set aside for the outstanding grants of port p returned (09 R264). -/
def State.lapseGrants (s : State) (p : Nat) : State :=
  s.modFab fun b => { b with setAside := b.setAside.filter fun x => x.1 / 16 != p }

/-- s with port p put into a link state for a down reason: the reason is kept and counted, a port that was ACTIVE is flushed and its cut-off
packet counted, unless a reset of its engine has counted it, its grants lapse, and the LINK event and, when it was ACTIVE, the record are
written (09 R264, R266, R270, 06 R200). -/
def State.linkDown (s : State) (p reason : Nat) (st : LinkState) : State :=
  let L := (s.port p).link
  let was := L.state = .active
  let s := s.countLink p (cDowns + reason) 1
  let s := if was then (if L.rxBuf.isEmpty || L.rxDrop then s else s.countLink p cPartial 1) else s
  let s := s.modLink p fun L => { L.fresh s.t3 st with reason := reason }
  let s := s.lapseGrants p
  let s := if was then s.flushPort p else s
  let s := if was then s.almQueue { type := 0x0A, unit := p, detail := detail [BitVec.ofNat 8 p, BitVec.ofNat 8 reason, BitVec.ofNat 8 st.code] } else s
  s.devEvent 3 stOk [p, st.code, reason]

/-- A port is held by something: disabled, laser, equaliser table or power (09 R267). -/
def Port.isHeld (P : Port) : Bool := !P.enable || P.link.heldLaser || P.link.heldEq || P.link.heldPower

/-- The reason that a held port has, of those in force the first of NO_EQ, POWER, LASER_LOW and COMMAND (log 77). -/
def Port.holdReason (P : Port) : Nat := if P.link.heldEq then 9 else if P.link.heldPower then 10 else if P.link.heldLaser then 7 else 1

/-- s with port p held for a reason that did not hold it before; an ISOLATED port stays ISOLATED (09 R254, R267, R270, R274). -/
def State.hold (s : State) (p reason : Nat) (before : Bool) : State :=
  if (s.port p).link.state = .isolated || before then s else s.linkDown p reason .held

/-- s with port p out of ISOLATED or LOOP: DOWN, from which it retrains, or HELD while something holds it (09 R267, R275). -/
def State.rejoin (s : State) (p : Nat) : State :=
  if (s.port p).isHeld then s.linkDown p (s.port p).holdReason .held else (s.lapseGrants p).modLink p fun L => L.fresh s.t3 .down

/-- s with a HELD port gone to DOWN when every cause has cleared (09 R267). -/
def State.unhold (s : State) (p : Nat) : State :=
  if (s.port p).link.state = .held && !(s.port p).isHeld then s.modLink p fun L => L.fresh s.t3 .down else s

/-! ### Equaliser table (09 R272 to R274) -/

/-- A signed byte. -/
def sbyte (b : Byte) : Int := b.toInt

/-- A lane entry keeps its ranges. -/
def laneEntryOk (e : List Byte) : Bool :=
  let v (i : Nat) : Int := sbyte (e.getD i 0#8)
  let u (i : Nat) : Nat := (e.getD i 0#8).toNat
  decide (-8 ≤ v 0) && decide (v 0 ≤ 0) && decide (-24 ≤ v 1) && decide (v 1 ≤ 0) && decide (24 ≤ u 2) && decide (u 2 ≤ 63) &&
  decide (-24 ≤ v 3) && decide (v 3 ≤ 0) && decide (u 4 ≤ 31) && decide (u 5 ≤ 63) && decide (-32 ≤ v 6) && decide (v 6 ≤ 31) &&
  decide (u 7 ≤ 15) && decide ((v 0).natAbs + (v 1).natAbs + u 2 + (v 3).natAbs ≤ 63)

/-- Offset of a board's record, 0 when it has none. -/
def boardOffset (t : List Byte) (board : Nat) : Nat := fieldAt t (32 + 4 * board) 4

/-- The table passes its checks and holds a record for a board (09 R274). -/
def eqTableOk (t : List Byte) (board : Nat) : Bool :=
  let n := fieldAt t 8 4
  decide (t.take 4 = [0x4C#8, 0x4B#8, 0x45#8, 0x51#8]) && fieldAt t 4 2 == 1 && fieldAt t 6 2 == 288 && n == t.length &&
  decide (n ≤ 148768) && decide ((crc32c (patch t 12 [0#8, 0#8, 0#8, 0#8])).toNat = fieldAt t 12 4) && boardOffset t board != 0 &&
  decide (boardOffset t board + 2320 ≤ n) && fieldAt t (boardOffset t board) 1 == board

/-- The lanes of port p that the table marks unusable. -/
def badLanes (t : List Byte) (board p : Nat) : BitVec 8 :=
  (List.range 8).foldl (fun m l =>
    if laneEntryOk (slice t (boardOffset t board + 16 + 8 * (8 * p + l)) 8) then m else m ||| laneBit l) 0#8

/-! ### Blocks on the lanes (09 R255) -/

/-- A block's 64 payload bits scrambled by x^58 + x^39 + 1, the first bit lowest, and the lane's last 58 bits after it. -/
def scramble (h : BitVec 58) (d : BitVec 64) : BitVec 64 × BitVec 58 :=
  let y0 : BitVec 39 := d.extractLsb' 0 39 ^^^ h.extractLsb' 0 39 ^^^ h.extractLsb' 19 39
  let run : BitVec 97 := y0 ++ h
  let y1 : BitVec 25 := d.extractLsb' 39 25 ^^^ run.extractLsb' 39 25 ^^^ run.extractLsb' 58 25
  let y : BitVec 64 := y1 ++ y0
  (y, y.extractLsb' 6 58)

/-- A received block's payload with its scrambling taken off, and the lane's last 58 bits after it. -/
def descramble (h : BitVec 58) (y : BitVec 64) : BitVec 64 × BitVec 58 :=
  let run : BitVec 122 := y ++ h
  (y ^^^ run.extractLsb' 0 64 ^^^ run.extractLsb' 19 64, y.extractLsb' 6 58)

/-- The lane of block n of a stripe over a lane map. -/
def blockLane (map : BitVec 8) (n : Nat) : Nat := let l := lanesOf map; l.getD (n % max 1 l.length) 0

/-- A link with a block sent on a lane. -/
def Link.sendBlock (L : Link) (sync lane : Nat) (payload : List Byte) : Link :=
  let r := scramble (SMap.get zeroBits L.txScr lane) (BitVec.ofNat 64 (leNat payload))
  { L with txScr := SMap.set zeroBits lane r.2 L.txScr, txBlocks := L.txBlocks ++ [(lane, sync + 4 * r.1.toNat)] }

/-- A link with the flit of a slot sent as its 32 data blocks over a lane map. -/
def Link.stripe (L : Link) (map : BitVec 8) (slot : Nat) : Link :=
  (List.range 32).foldl (fun (L : Link) b => L.sendBlock 1 (blockLane map (32 * slot + b)) (slice L.lastFlit (8 * b) 8)) { L with txBlocks := [] }

/-- Where the stripe of a port stands is told by its lane map and slot number before the slot. -/
def State.stripeOut (s : State) (p : Nat) (map : BitVec 8) (slot : Nat) : State := s.modLink p fun L => L.stripe map slot

/-- s with an invalid sync header of a lane counted, in its window as well (09 R255, R271). -/
def State.syncErr (s : State) (p lane : Nat) : State :=
  (s.countLink p (cSync + lane) 1).modLink p fun L =>
    if L.winEnd ≤ s.now + 1000000000 then { L with winErr := SMap.set zeroAt lane (SMap.get zeroAt L.winErr lane + 1) L.winErr } else L

/-- The payload of a block that arrives on a lane, nine bytes of which the first is the sync header. -/
def State.blockIn (s : State) (p lane : Nat) (b : List Byte) : List Byte × State :=
  let sync := fieldAt b 0 1 % 4
  let r := descramble (SMap.get zeroBits (s.port p).link.rxScr lane) (BitVec.ofNat 64 (fieldAt b 1 8))
  let s := s.modLink p fun L => { L with rxScr := SMap.set zeroBits lane r.2 L.rxScr }
  (toLE 8 r.1.toNat, if sync = 0 || sync = 3 then s.syncErr p lane else s)

/-- The flit that a receive row brings: its 256 bytes, or, when the row gives the 32 blocks as the lanes bring them, what they hold (log 97). -/
def State.flitIn (s : State) (p : Nat) (bytes : List Byte) : List Byte × State :=
  if bytes.length = 288 then
    let L := (s.port p).link
    (List.range 32).foldl (fun (a : List Byte × State) b =>
      let r := a.2.blockIn p (blockLane L.rxMap (32 * L.rxSlot + b)) ((bytes.drop (9 * b)).take 9)
      (a.1 ++ r.1, r.2)) ([], s)
  else (bytes, s)

/-! ### Building flits (09 R257, R258, R269) -/

/-- A flit closed by its CRC-64. -/
def sealFlit (body : List Byte) : List Byte := let b := padTo 248 body; b ++ toLE 8 (crc64 b).toNat

/-- A data flit. -/
def dataFlit (seq : BitVec 12) (payload : List Byte) : List Byte := sealFlit (toLE 2 seq.toNat ++ padTo 246 payload)

/-- A control flit of a link; pause gives pause_us. -/
def Link.controlFlit (L : Link) (nak periodic : Bool) (pause : Nat) : List Byte :=
  sealFlit (toLE 2 0x1000 ++ toLE 2 (L.expect.toNat + (if nak then 4096 else 0)) ++ toLE 2 pause ++
    [L.txMap, L.nextMap, BitVec.ofNat 8 (L.switchAfter + (if periodic then 4 else 0)), if 6 < laneCount L.rxMap then L.dropReq &&& L.rxMap else 0#8, 0#8, 0#8] ++
    ((List.range 16).map fun c => toLE 2 (SMap.get zeroBits L.grantTx c : BitVec 16).toNat).flatten)

/-- The discovery flit of port p (09 R269). -/
def State.discoveryFlit (s : State) (p : Nat) : List Byte :=
  let L := (s.port p).link
  sealFlit (toLE 2 0x2000 ++ [1#8, 1#8] ++ padTo 12 s.part.serial ++ [BitVec.ofNat 8 p, BitVec.ofNat 8 (bit L.peerSeen + 2), L.txMap, L.rxMap] ++
    toLE 3 s.dev.fwVer.toNat ++ [0xA1#8])

/-! ### Grants (06 R193, 09 R264) -/

/-- Packets of 17 cells that class c of port p may still be granted: as far as the cells allow, at most 1,023 ahead. -/
def State.grantable (s : State) (p c : Nat) : Nat :=
  let L := (s.port p).link
  let k := 16 * p + c
  let u := s.classUse k
  let ahead := ((SMap.get zeroBits L.grantTx c : BitVec 16) - BitVec.ofNat 16 (SMap.get zeroAt L.rxCnt c)).toNat
  if (s.slice (p / 9)).holding then 0
  else min (1023 - ahead) (min ((s.maxCells k - u) / 17) (((s.minCells k - u) + s.sharedFree) / 17))

/-- s with class c of port p granted as far as its cells allow: 17 cells are set aside for each grant. -/
def State.grantClass (s : State) (p c : Nat) : State :=
  let n := s.grantable p c
  if n = 0 then s
  else
    let k := 16 * p + c
    (s.modFab fun b => { b with setAside := SMap.set zeroAt k (SMap.get zeroAt b.setAside k + 17 * n) b.setAside }).modLink p fun L =>
      { L with grantTx := SMap.set zeroBits c (SMap.get zeroBits L.grantTx c + BitVec.ofNat 16 n) L.grantTx }

/-- s with every class of port p granted as far as its cells allow (log 33). -/
def State.grantAll (s : State) (p : Nat) : State := (List.range 16).foldl (fun s c => s.grantClass p c) s

/-! ### Transmitting (09 R256, R261, R262, R265, R266) -/

/-- The link starts no data flit: its peer has paused it. -/
def Link.paused (L : Link) (t3 : Nat) : Bool := L.pausedAt.isSome && decide (t3 < L.pauseEnd)

/-- Most flits that the retry buffer holds. -/
abbrev retryMax : Nat := 2048

/-- Slot s of a stripe is a periodic control slot. -/
def periodicSlot (n : Nat) : Bool := n % 1025 == 1024

/-- s with a control flit sent in the slot of port p: NAK and pause changes it carries are no longer pending, and a lane-map change
goes on at a periodic flit (09 R271). -/
def State.sendControl (s : State) (p : Nat) : State :=
  let s := if (s.port p).link.resetAt.isSome then s else s.grantAll p
  let L := (s.port p).link
  let per := periodicSlot L.slot
  let hold := L.resetAt.isSome
  let nak := L.nakPend && !hold
  let f := L.controlFlit nak per (if hold then 10 else L.pauseTx)
  let s := if nak then s.countLink p cNakTx 1 else s
  let switch := per && L.switchAfter = 1
  let s := if switch then s.countLink p cSpares 1 else s
  s.modLink p fun L => { L with
    lastFlit := f
    nakPend := if hold then L.nakPend else false
    pausePend := if hold then L.pausePend else false
    switchAfter := if per then L.switchAfter - 1 else L.switchAfter
    txMap := if switch then L.nextMap else L.txMap
    slot := if switch then 0 else L.slot + 1
    slotAt := s.t3 }

/-- A link with the first 246 bytes of its stream written into a flit: U_c counts the packets that start in them (09 R264). -/
def Link.takeStream (L : Link) : Link :=
  { L with
    txBuf := L.txBuf.drop 246
    used := (L.txStarts.filter fun x => decide (x.1 < 246)).foldl (fun u x => SMap.set zeroBits x.2 (SMap.get zeroBits u x.2 + 1#16) u) L.used
    txStarts := (L.txStarts.filter fun x => decide (246 ≤ x.1)).map fun x => (x.1 - 246, x.2) }

/-- s with a data flit sent in the slot of port p: the next resend, else a new one. -/
def State.sendData (s : State) (p : Nat) : State :=
  let L := (s.port p).link
  match L.resend with
  | f :: rest =>
    ((s.countLink p cFlitsTx 1).countLink p cReplay 1).modLink p fun L =>
      { L with lastFlit := f.2, resend := rest, slot := L.slot + 1, slotAt := s.t3 }
  | [] =>
    let f := dataFlit L.seq (L.txBuf.take 246)
    (s.countLink p cFlitsTx 1).modLink p fun L => { L.takeStream with
      lastFlit := f, retry := L.retry ++ [(L.seq, f)], seq := L.seq + 1, slot := L.slot + 1, slotAt := s.t3 }

/-- Lanes that this side's receiver has locked and aligned, as it reports them (09 R268). -/
def Link.rxLocked (L : Link) : BitVec 8 := L.locked &&& L.inLine

/-- The payload of the training block that a lane sends (09 R268). -/
def Link.trainingBlock (L : Link) (lane : Nat) : List Byte :=
  [0x2D#8, BitVec.ofNat 8 lane, L.rxLocked, BitVec.ofNat 8 L.state.code] ++ toLE 2 L.trainIdx ++ [0#8, 0#8]

/-- A link that has sent a training block on each of its usable lanes, in one block time. -/
def Link.trainSlot (L : Link) (t3 : Nat) : Link :=
  let lanes := lanesOf (~~~ L.laneBad)
  let flit := (lanes.map L.trainingBlock).flatten
  lanes.foldl (fun (M : Link) l => M.sendBlock 2 l (L.trainingBlock l))
    { L with lastFlit := flit, txBlocks := [], trainIdx := (L.trainIdx + 1) % 65536, trainTx := L.trainTx + 1, slotAt := t3 }

/-- The port checks or sends the link layer's flits in a FLIT loop (09 R275). -/
def Link.flitLoop (L : Link) : Bool := decide (L.state = .loop) && L.pattern == 2

/-- The next slot carries a data flit, a new one being ready or not: no periodic slot, NAK or pause change, reset, pause or full retry buffer
asks for a control flit (09 R256, R262, R265, R266; log 77). -/
def Link.sendsData (L : Link) (t3 : Nat) (ready : Bool) : Bool :=
  !(periodicSlot L.slot || L.nakPend || L.pausePend || L.resetAt.isSome || L.paused t3 || decide (retryMax ≤ L.retry.length)) &&
  (!L.resend.isEmpty || ready)

/-- s with one slot of port p begun on a stripe: in a FLIT loop a data flit's payload is PRBS31 and carries no packets. -/
def State.flitSlot (s : State) (p : Nat) : State :=
  let L := (s.port p).link
  let sent :=
    if !L.sendsData s.t3 (L.flitLoop || !L.txBuf.isEmpty) then s.sendControl p
    else if L.flitLoop && L.resend.isEmpty then
      let r := s.freeBytes 246
      (r.2.modLink p fun L => { L with txBuf := r.1 }).sendData p
    else s.sendData p
  sent.stripeOut p L.txMap L.slot

/-- FLIT_SLOT_TRANSMIT: one slot of port p begins: a control or data flit in ACTIVE and in a FLIT loop, a discovery flit in DISCOVERY, a
training block on each usable lane in LANE_LOCK and DESKEW (09 R255, R256, R268, R269, R275). -/
def execFlitSlotTransmit (p : Nat) (s : State) : Host.Outcome State Fault Refusal :=
  onUnit (p < 36) s
    (let L := (s.port p).link
     match L.state with
     | .active => s.flitSlot p
     | .loop => if L.flitLoop then s.flitSlot p else s
     | .discovery =>
       let f := s.discoveryFlit p
       (s.modLink p fun L => { L with
         lastFlit := f, sent16 := if L.peerSeen && L.seenSeen then L.sent16 + 1 else L.sent16, slot := L.slot + 1, slotAt := s.t3 }).stripeOut p L.txMap L.slot
     | .laneLock | .deskew => s.modLink p fun L => L.trainSlot s.t3
     | _ => s)

/-! ### Receiving (09 R259 to R265) -/

/-- A flit's CRC is right. -/
def flitGood (f : List Byte) : Bool := f.length == 256 && (crc64 (f.take 248)).toNat == fieldAt f 248 8

/-- Kind of a flit: bits [15:12] of bytes 0 and 1. -/
def flitKind (f : List Byte) : Nat := fieldAt f 0 2 / 4096

/-- s with a NAK asked for: the next slot carries it, the replay timer starts and naks_for_E counts (09 R261). -/
def State.askResend (s : State) (p : Nat) : State :=
  s.modLink p fun L => { L with nakPend := true, awaiting := true, replayAt := s.t3, naks := L.naks + 1 }

/-- Sub-channel of a packet that arrives on a link: bit 6 of the hop before hop_ptr, or 0 (09 R260). -/
def Pkt.arrivalSc (p : Pkt) : Nat := if p.hopPtr = 0 then 0 else p.hop (p.hopPtr - 1) / 64 % 2

/-- s with one grant's cells of a class used up: 17 come back from what was set aside. -/
def State.takeGrant (s : State) (k : Nat) : State :=
  s.modFab fun b => { b with setAside := SMap.set zeroAt k (SMap.get zeroAt b.setAside k - 17) b.setAside }

/-- s with a packet received whole on port p: it takes cells in its class, or in the reservation of the slot it is bound for, and
joins the slice's decision queue (06 R192 to R195, 01 R18). A packet that uses a grant has its cells set aside, so its class takes it
whatever the configuration has become (06 R193). -/
def State.receive (s : State) (p : Nat) (bytes : List Byte) : State :=
  let k0 : Pkt := { bytes := bytes, inPort := p }
  let k : Pkt := { k0 with sc := k0.arrivalSc }
  let c := 2 * k.vc + k.sc
  let granted : Bool := decide (17 ≤ SMap.get zeroAt s.fab.setAside (16 * p + c))
  let s := (s.takeGrant (16 * p + c)).modLink p fun L => { L with rxCnt := SMap.set zeroAt c ((SMap.get zeroAt L.rxCnt c + 1) % 65536) L.rxCnt }
  let n := cellsFor k.len
  if s.fab.drainPause then s.count (ctrDrop p dropCongestion) 1
  else match s.slotCharge k none with
    | some l =>
      if s.slotRoom l n then
        let r := s.allocCells { k with slot := some l }
        (r.2.chargeSlot l n).enqueue (p / 9) r.1
      else s.windowDrop l
    | none =>
      if granted || s.admits k.cls n then
        let r := s.allocCells k
        (r.2.chargeClass k.cls n).enqueue (p / 9) r.1
      else s.count (ctrDrop p dropCongestion) 1

/-- What the packet byte stream gives next: packets made whole, the bytes kept, bytes to discard, the discard flag, and whether it broke
the protocol (09 R260, R266). fuel bounds the packets and idle bytes of one flit. -/
def parseStream : Nat → List Byte → Nat → Bool → List (List Byte) → List (List Byte) × List Byte × Nat × Bool × Bool
  | 0, buf, skip, drop, out => (out, buf, skip, drop, false)
  | n + 1, buf, skip, drop, out =>
    if 0 < skip then
      if buf.length ≤ skip then (out, [], skip - buf.length, drop, false) else parseStream n (buf.drop skip) 0 drop out
    else match buf with
      | [] => (out, [], 0, drop, false)
      | b :: rest =>
        if b = 0#8 then parseStream n rest 0 drop out
        else if b.toNat % 16 ≠ 1 then (out, buf, 0, drop, true)
        else if buf.length < 6 then (out, buf, 0, drop, false)
        else
          let len := fieldAt buf 4 2 % 8192
          if len < 16 || 4096 < len then (out, buf, 0, drop, true)
          else if drop then parseStream n buf (48 + len) false out
          else if buf.length < 48 + len then (out, buf, 0, false, false)
          else parseStream n (buf.drop (48 + len)) 0 false (out ++ [buf.take (48 + len)])

/-- s with the payload of an accepted data flit taken into port p's byte stream. -/
def State.acceptPayload (s : State) (p : Nat) (d : List Byte) : State :=
  let L := (s.port p).link
  let r := parseStream 1000 (L.rxBuf ++ d) L.rxSkip L.rxDrop []
  let s := s.modLink p fun L => { L with rxBuf := r.2.1, rxSkip := r.2.2.1, rxDrop := r.2.2.2.1 }
  let s := r.1.foldl (fun s b => s.receive p b) s
  if r.2.2.2.2 then s.linkDown p 5 .down else s

/-- s with a data flit handled by port p's receiver (09 R261). -/
def State.rxData (s : State) (p : Nat) (f : List Byte) : State :=
  let L := (s.port p).link
  if BitVec.ofNat 12 (fieldAt f 0 2) = L.expect then
    let s := (s.countLink p cFlitsRx 1).modLink p fun L => { L with expect := L.expect + 1, awaiting := false, naks := 0 }
    if L.flitLoop then s else s.acceptPayload p ((f.drop 2).take 246)
  else
    let s := s.countLink p cSeqDiscard 1
    if L.awaiting then s else s.askResend p

/-- Reserved fields of a control flit are 0. -/
def controlOk (f : List Byte) : Bool :=
  fieldAt f 0 2 % 4096 == 0 && decide (fieldAt f 2 2 < 8192) && decide (fieldAt f 8 1 < 8) && fieldAt f 10 2 == 0 && allZero ((f.drop 44).take 204)

/-- Retry entries from a sequence number on; none when it is not in the window. -/
def releaseTo (a : BitVec 12) : List (BitVec 12 × List Byte) → BitVec 12 → Option (List (BitVec 12 × List Byte))
  | [], next => if a = next then some [] else none
  | x :: t, next => if x.1 = a then some (x :: t) else releaseTo a t next

/-- G_c after a received grant (09 R264). -/
def newGrant (g v : BitVec 16) : BitVec 16 := let d := (v - g).toNat; if 1 ≤ d && d ≤ 32767 then v else g

/-- A link with a control flit's pause acted on: one that has elapsed is over, and a new pause starts then (09 R265). -/
def Link.takePause (L : Link) (t3 us : Nat) : Link :=
  if us = 0 then { L with pausedAt := none }
  else { L with pausedAt := some (if L.paused t3 then L.pausedAt.getD t3 else t3), pauseEnd := t3 + usec us }

/-- The map without the lowest lane that a drop_req names, when the map holds more than six lanes (09 R271). -/
def dropLane (m req : BitVec 8) : BitVec 8 :=
  if 6 < laneCount m then match lanesOf (m &&& req) with | l :: _ => m &&& ~~~ laneBit l | [] => m else m

/-- Slots from a periodic control flit on to the lane-map change that it announces, itself counted (09 R271). -/
def slotsToChange (after : Nat) : Nat := if after = 1 then 1 else 1026

/-- s with the lane-map fields of a control flit acted on: the peer's own change, which its periodic control flits announce, and its request
to drop a lane of ours. A map other than the one in force was not announced, or not followed (09 R271). -/
def State.takeMaps (s : State) (p : Nat) (f : List Byte) : State :=
  let L := (s.port p).link
  let tx := f.getD 6 0#8
  let next := f.getD 7 0#8
  let after := fieldAt f 8 1 % 4
  if tx ≠ L.rxMap then s.linkDown p 5 .down
  else
    s.modLink p fun L =>
      let L := if fieldAt f 8 1 / 4 % 2 = 1 && next ≠ tx && (after = 1 || after = 2) then { L with rxNext := some (next, slotsToChange after) } else L
      let m := dropLane L.txMap (f.getD 9 0#8)
      if L.switchAfter = 0 && m ≠ L.txMap then { L with nextMap := m, switchAfter := 2 } else L

/-- A link after a slot has arrived, whatever it brought: at an announced boundary the receiver takes over the new map, and numbers slots from
0 again (09 R256, R271). -/
def Link.slotArrived (L : Link) : Link :=
  match L.rxNext with
  | some (m, k) => if k ≤ 1 then { L with rxMap := m, rxNext := none, rxSlot := 0 } else { L with rxNext := some (m, k - 1), rxSlot := L.rxSlot + 1 }
  | none => { L with rxSlot := L.rxSlot + 1 }

/-- s with the end of a received slot counted while port p's stripe stands. -/
def State.slotIn (s : State) (p : Nat) : State :=
  s.modLink p fun L => if L.state = .active || L.flitLoop then L.slotArrived else L

/-- s with a control flit handled by port p's receiver (09 R258, R261 to R265, R271). -/
def State.rxControl (s : State) (p : Nat) (f : List Byte) : State :=
  let s := s.modLink p fun L => { L with lastCtl := s.t3 }
  let L := (s.port p).link
  if !controlOk f then s.linkDown p 5 .down
  else
    let ack := BitVec.ofNat 12 (fieldAt f 2 2)
    let nak := fieldAt f 2 2 / 4096 % 2 == 1
    match releaseTo ack L.retry L.seq with
    | none => s.linkDown p 5 .down
    | some kept =>
      let s := if nak then s.countLink p cNakRx 1 else s
      let s := s.modLink p fun L =>
        let left := L.resend.filter fun x => kept.any fun y => y.1 == x.1
        { L.takePause s.t3 (fieldAt f 4 2) with
          retry := kept, ackSeen := ack, resend := if nak then kept else left
          grantRx := (List.range 16).foldl (fun g c =>
            SMap.set zeroBits c (newGrant (SMap.get zeroBits g c) (BitVec.ofNat 16 (fieldAt f (12 + 2 * c) 2))) g) L.grantRx }
      s.takeMaps p f

/-- Reserved fields of a discovery flit are 0. -/
def discoveryOk (f : List Byte) : Bool := fieldAt f 0 2 % 4096 == 0 && decide (fieldAt f 17 1 < 4) && allZero ((f.drop 24).take 224)

/-- s with a discovery flit handled by port p's receiver (09 R269). -/
def State.rxDiscovery (s : State) (p : Nat) (f : List Byte) : State :=
  let L := (s.port p).link
  if L.state = .active then s.linkDown p 0xB .down
  else if !discoveryOk f then s.linkDown p 5 .down
  else if L.state = .discovery then
    s.modLink p fun L => { L with disc := (f.drop 2).take 22, peerSeen := true, seenSeen := L.seenSeen || decide (fieldAt f 17 1 % 2 = 1) }
  else s

/-- Port p's receiver takes flits: in ACTIVE, in DISCOVERY and in a FLIT loop, unless its engine is being reset. -/
def State.takesFlits (s : State) (p : Nat) : Bool :=
  let L := (s.port p).link
  (decide (L.state = .active) || decide (L.state = .discovery) || L.flitLoop) && L.resetAt.isNone

/-- s with a flit whose CRC fails discarded and counted (09 R259, R261). -/
def State.rxBad (s : State) (p : Nat) : State :=
  let s := s.countLink p cCrcErr 1
  if (s.port p).link.awaiting || (s.port p).link.state = .discovery then s else s.askResend p

/-- A row that brings a slot of port p: its flit, then the slot counted. bytes is the flit, or its blocks. -/
def onFlit (p : Nat) (bytes : List Byte) (s : State) (act : List Byte → State → State) : Host.Outcome State Fault Refusal :=
  onUnit (p < 36) s
    (let r := s.flitIn p bytes
     if r.2.takesFlits p then (if flitGood r.1 then act r.1 r.2 else r.2.rxBad p).slotIn p else r.2.slotIn p)

/-- DATA_FLIT_RECEIVE: a flit of data kind, of a reserved kind, or with a failed CRC arrives on port p (09 R259, R261). -/
def execDataFlitReceive (p : Nat) (flit : List Byte) (s : State) : Host.Outcome State Fault Refusal :=
  onFlit p flit s fun f s =>
    if flitKind f = 0 then (if (s.port p).link.state = .discovery then s else s.rxData p f)
    else if 2 < flitKind f then s.linkDown p 5 .down
    else s

/-- CONTROL_FLIT_RECEIVE: a control flit, or one whose CRC fails, arrives on port p; in DISCOVERY only its reserved fields count (09 R259). -/
def execControlFlitReceive (p : Nat) (flit : List Byte) (s : State) : Host.Outcome State Fault Refusal :=
  onFlit p flit s fun f s =>
    if flitKind f ≠ 1 then s
    else if (s.port p).link.state ≠ .discovery then s.rxControl p f
    else if controlOk f then s
    else s.linkDown p 5 .down

/-- DISCOVERY_FLIT_RECEIVE: a discovery flit, or one whose CRC fails, arrives on port p. -/
def execDiscoveryFlitReceive (p : Nat) (flit : List Byte) (s : State) : Host.Outcome State Fault Refusal :=
  onFlit p flit s fun f s => if flitKind f = 2 then s.rxDiscovery p f else s

/-! ### Training (09 R268, R269) -/

/-- How far a counter lies ahead of another, modulo 65,536. -/
def ctrAhead (a b : Nat) : Int := (BitVec.ofNat 16 (a + 65536 - b % 65536)).toInt

/-- A link with the counter of a training block on a lane noted: the locked lanes that lie at most 64 blocks behind the foremost are aligned.
A change of what it reports starts the count of blocks sent afresh (09 R268). -/
def Link.align (L : Link) (lane ctr : Nat) : Link :=
  let at' := SMap.set noneAt lane (some ctr) L.laneCtr
  let ahead (l : Nat) : Option Int := (SMap.get noneAt at' l).map fun c => ctrAhead c ctr
  let front := ((lanesOf L.locked).filterMap ahead).foldl max 0
  let line := (lanesOf L.locked).foldl (fun m l => match ahead l with | some d => if front ≤ d + 64 then m ||| laneBit l else m | none => m) 0#8
  { L with laneCtr := at', inLine := line, trainTx := if L.locked &&& line = L.rxLocked then L.trainTx else 0 }

/-- TRAINING_BLOCK_RECEIVE: a training block arrives on a lane, its payload or the block as the lane brings it: in LANE_LOCK with a lane
locked the port goes on to DESKEW, the lane is aligned, and the mask its peer reports is counted; in ACTIVE the peer has restarted. -/
def execTrainingBlockReceive (p lane : Nat) (block : List Byte) (s : State) : Host.Outcome State Fault Refusal :=
  onUnit (p < 36 && lane < 8) s
    (let r := if block.length = 9 then s.blockIn p lane block else (block, s)
     let s := r.2
     let L := (s.port p).link
     if L.state = .active then s.linkDown p 0xB .down
     else if (L.state = .laneLock || L.state = .deskew) && L.locked.getLsbD lane && r.1.headD 0#8 = 0x2D#8 && s.fwLink then
       let m := r.1.getD 2 0#8
       s.modLink p fun L => { L.align lane (fieldAt r.1 4 2) with
         state := .deskew, peerLocked := m, trainRx := if m = L.peerLocked then L.trainRx + 1 else 1 }
     else s)

/-- LANE_BLOCK_LOCK: a usable lane reaches 64 valid sync headers and is locked (09 R268). -/
def execLaneBlockLock (p lane : Nat) (s : State) : Host.Outcome State Fault Refusal :=
  onUnit (p < 36 && lane < 8) s
    (let L := (s.port p).link
     if (L.state = .laneLock || L.state = .deskew) && !L.laneBad.getLsbD lane && !L.locked.getLsbD lane then
       s.modLink p fun L => { L with locked := L.locked ||| laneBit lane }
     else s)

/-- ENTER_DISCOVERY: the lane maps are agreed (09 R268). -/
def execEnterDiscovery (p : Nat) (s : State) : Host.Outcome State Fault Refusal :=
  onUnit (p < 36) s
    (let L := (s.port p).link
     if L.state = .deskew && 256 ≤ L.trainRx && 256 ≤ L.trainTx && 6 ≤ laneCount L.peerLocked && 6 ≤ laneCount L.rxLocked && s.fwLink then
       s.modLink p fun L => { L with
         state := .discovery, txMap := L.peerLocked, nextMap := L.peerLocked, rxMap := L.rxLocked, slot := 0, since := s.t3, peerSeen := false,
         seenSeen := false, sent16 := 0 }
     else s)

/-- Identity and port number of a discovery record. -/
def peerOf (disc : List Byte) : List Byte := (disc.drop 2).take 13

/-- ENTER_ACTIVE: the link comes up (09 R269): sequence, slot and grant counters start at 0 and the grantor begins granting. -/
def execEnterActive (p : Nat) (s : State) : Host.Outcome State Fault Refusal :=
  onUnit (p < 36) s
    (let L := (s.port p).link
     if L.state = .discovery && L.seenSeen && 16 ≤ L.sent16 && s.fwLink then
       let s := s.modLink p fun L => { L with
         state := .active, since := s.t3, activeAt := s.now, lastCtl := s.t3, slotAt := s.t3, slot := 0, seq := 0#12, expect := 0#12,
         grantTx := [], grantRx := [], used := [], rxCnt := [], retry := [], resend := [], rxBuf := [], txBuf := [], txStarts := [], rxSlot := 0, rxNext := none, rxSkip := 0,
         rxDrop := false, awaiting := false, naks := 0, nakPend := false, pausedAt := none,
         peerChanged := L.peerChanged || (match L.lastPeer with | some x => x != peerOf L.disc | none => false)
         lastPeer := some (peerOf L.disc) }
       (s.grantAll p).devEvent 3 stOk [p, LinkState.active.code, L.reason]
     else s)

/-- TRAINING_TIMEOUT: ACTIVE has not been reached within 20 ms of LANE_LOCK (09 R268, R270). -/
def execTrainingTimeout (p : Nat) (s : State) : Host.Outcome State Fault Refusal :=
  onUnit (p < 36) s
    (let L := (s.port p).link
     if (L.state = .laneLock || L.state = .deskew || L.state = .discovery) && s.after L.lockAt (msec 20) then
       let s := s.countLink p cTrainFail 1
       if laneCount L.rxLocked < 6 || (L.state ≠ .laneLock && laneCount L.peerLocked < 6) then s.linkDown p 8 .down
       else s.modLink p fun L => L.fresh s.t3 .down
     else s)

/-- RETRAIN_TIMER: an enabled port trains again 1 ms after it entered DOWN, while FWP-LNK runs (09 R267, R268). -/
def execRetrainTimer (p : Nat) (s : State) : Host.Outcome State Fault Refusal :=
  onUnit (p < 36) s
    (let L := (s.port p).link
     if L.state = .down && !(s.port p).isHeld && s.fwLink && s.after L.since (msec 1) && (SMap.get noneAt s.fab.groupReset (p / 4)).isNone then
       s.modLink p fun L => { L.fresh s.t3 .laneLock with lockAt := s.t3, laneBad := badLanes s.fw.eqTable s.dev.boardId.toNat p }
     else s)

/-- LANE_LOSS_OF_SIGNAL: a lane of the map loses signal or lock and the link goes down with LOS; in training it loses its lock (09
R268, R270). -/
def execLaneLossOfSignal (p lane : Nat) (s : State) : Host.Outcome State Fault Refusal :=
  onUnit (p < 36 && lane < 8) s
    (let L := (s.port p).link
     if L.state = .active || L.state = .discovery then (if L.rxMap.getLsbD lane then s.linkDown p 2 .down else s)
     else if L.state = .laneLock || L.state = .deskew then
       s.modLink p fun L => { L with
         locked := L.locked &&& ~~~ laneBit lane, inLine := L.inLine &&& ~~~ laneBit lane, laneCtr := SMap.set noneAt lane none L.laneCtr, trainTx := 0 }
     else s)

/-! ### Timers (09 R261, R263, R265) -/

/-- REPLAY_TIMER_EXPIRY. -/
def execReplayTimerExpiry (p : Nat) (s : State) : Host.Outcome State Fault Refusal :=
  onUnit (p < 36) s
    (let L := (s.port p).link
     if (L.state = .active || L.flitLoop) && L.awaiting && s.after L.replayAt (usec 4) then s.askResend p else s)

/-- RETRY_EXHAUSTED: naks_for_E has reached 8. -/
def execRetryExhausted (p : Nat) (s : State) : Host.Outcome State Fault Refusal :=
  onUnit (p < 36) s (if (s.port p).link.state = .active && 8 ≤ (s.port p).link.naks then s.linkDown p 3 .down else s)

/-- CONTROL_TIMEOUT: no good control flit for 10 µs. -/
def execControlTimeout (p : Nat) (s : State) : Host.Outcome State Fault Refusal :=
  onUnit (p < 36) s
    (if (s.port p).link.state = .active && s.after (s.port p).link.lastCtl (usec 10) then s.linkDown p 4 .down else s)

/-- PAUSE_EXPIRY: the pause asked for has elapsed. -/
def execPauseExpiry (p : Nat) (s : State) : Host.Outcome State Fault Refusal :=
  onUnit (p < 36) s
    (if (s.port p).link.pausedAt.isSome && (s.port p).link.pauseEnd ≤ s.t3 then s.modLink p fun L => { L with pausedAt := none } else s)

/-- PAUSE_TIMEOUT: paused continuously for 1 ms; a pause that ended before says nothing. -/
def execPauseTimeout (p : Nat) (s : State) : Host.Outcome State Fault Refusal :=
  onUnit (p < 36) s
    (match (s.port p).link.pausedAt with
      | some t => if (s.port p).link.state = .active && s.after t (msec 1) && t + msec 1 ≤ (s.port p).link.pauseEnd then s.linkDown p 6 .down else s
      | none => s)

/-! ### Sparing, lasers, calibration and loops (09 R254, R271, R275) -/

/-- SPARING_WINDOW_END: a one-second window ends; errs gives the invalid sync headers of lanes 0 to 7 in it beside those of blocks that rows
brought. -/
def execSparingWindowEnd (p : Nat) (errs : List Nat) (s : State) : Host.Outcome State Fault Refusal :=
  onUnit (p < 36) s
    (let P := s.port p
     let L := P.link
     if L.winEnd ≤ s.now then
       let s := (List.range 8).foldl (fun s l => s.countLink p (cSync + l) (errs.getD l 0)) s
       let cand := (List.range 8).foldl (fun m l => if P.errLimit ≤ SMap.get zeroAt L.winErr l + errs.getD l 0 then m ||| laneBit l else m) 0#8
       let ok := P.spare && s.fwLink && L.state = .active && 6 < laneCount L.rxMap
       s.modLink p fun L => { L with winEnd := L.winEnd + 1000000000, winErr := [], dropReq := if ok then L.dropReq ||| (cand &&& L.rxMap) else L.dropReq }
     else s)

/-- The ports that feed f of engine o supplies (09 R252). -/
def feedPorts (o f : Nat) : List Nat := [4 * o + 2 * f, 4 * o + 2 * f + 1]

/-- LASER_FEED_LOW: a wavelength of a feed has stayed below +11 dBm for 10 µs. -/
def execLaserFeedLow (o f : Nat) (s : State) : Host.Outcome State Fault Refusal :=
  onUnit (o < 9 && f < 2) s
    (if (s.oe o).feedLow.getLsbD f then s
     else (feedPorts o f).foldl (fun s p =>
       (s.modLink p fun L => { L with heldLaser := true }).hold p 7 (s.port p).link.heldLaser)
       (s.modOe o fun e => { e with feedLow := e.feedLow ||| BitVec.ofNat 2 (2 ^ f) }))

/-- LASER_FEED_RECOVERED: all wavelengths of a feed have stayed at +12 dBm or above for 100 ms. -/
def execLaserFeedRecovered (o f : Nat) (s : State) : Host.Outcome State Fault Refusal :=
  onUnit (o < 9 && f < 2) s
    (if !(s.oe o).feedLow.getLsbD f then s
     else (feedPorts o f).foldl (fun s p => (s.modLink p fun L => { L with heldLaser := false }).unhold p)
       (s.modOe o fun e => { e with feedLow := e.feedLow &&& ~~~ BitVec.ofNat 2 (2 ^ f) }))

/-- OE_CALIBRATION_CYCLE: a cycle that overruns its period is counted, and the photodiodes' readings become the gauges: power gives 0.01 dBm of
wavelength w of feed f at place 4f + w (09 R254, R277; log 98). -/
def execOeCalibrationCycle (o : Nat) (overrun : Bool) (power : List Int) (s : State) : Host.Outcome State Fault Refusal :=
  onUnit (o < 9) s
    ((if overrun then s.count (ctrKey 6 o 0) 1 else s).modOe o fun e =>
      { e with power := ((List.range (min 8 power.length)).zip power).foldl (fun m x => SMap.set (fun _ => (0 : Int)) x.1 x.2 m) e.power })

/-- Port p checks PRBS31 in a loop: mode 2, or mode 3 with the pattern set (09 R275). -/
def Link.checks (L : Link) : Bool := decide (L.state = .loop) && L.pattern == 1

/-- LOOP_LANE_ALIGNED: a checked lane finds the sequence it sent. -/
def execLoopLaneAligned (p lane : Nat) (s : State) : Host.Outcome State Fault Refusal :=
  onUnit (p < 36 && lane < 8) s
    (if (s.port p).link.checks && !(s.port p).link.laneBad.getLsbD lane then
      s.modLink p fun L => { L with aligned := L.aligned ||| laneBit lane, lost := L.lost &&& ~~~ laneBit lane }
    else s)

/-- LOOP_LANE_ALIGNMENT_LOST: every bit of the lane counts as an error until it aligns again. -/
def execLoopLaneAlignmentLost (p lane : Nat) (s : State) : Host.Outcome State Fault Refusal :=
  onUnit (p < 36 && lane < 8) s
    (if (s.port p).link.checks && (s.port p).link.aligned.getLsbD lane then
      s.modLink p fun L => { L with aligned := L.aligned &&& ~~~ laneBit lane, lost := L.lost ||| laneBit lane }
    else s)

/-! ### Resets of the link-layer engine (09 R266, 13 R346, R352) -/

/-- link_limit_us. -/
def State.linkLimit (s : State) : Nat := (s.dev.wdogCfg.extractLsb' 16 8).toNat

/-- A link whose engine's reset begins: the packet being received is dropped, with what the resume record keeps (09 R266). -/
def Link.beginReset (L : Link) (t3 fault : Nat) : Link :=
  let whole := 48 + fieldAt L.rxBuf 4 2 % 8192
  { L with
    resetAt := some t3, resetFault := fault
    rxSkip := if L.rxBuf.length < 6 then L.rxSkip else whole - L.rxBuf.length
    rxDrop := L.rxDrop || (decide (0 < L.rxBuf.length) && decide (L.rxBuf.length < 6))
    rxBuf := if L.rxBuf.length < 6 then L.rxBuf else [] }

/-- s with the reset of port p's link-layer engine begun; a packet that an earlier reset has dropped is not counted again. -/
def State.resetLink (s : State) (p fault : Nat) : State :=
  let L := (s.port p).link
  let s := if L.rxBuf.isEmpty || L.rxDrop then s else s.countLink p cPartial 1
  s.modLink p fun L => L.beginReset s.t3 fault

/-- LINK_WATCHDOG_FIRE: an ACTIVE port has started no slot for link_limit_us (13 R344, R346). -/
def execLinkWatchdogFire (p : Nat) (s : State) : Host.Outcome State Fault Refusal :=
  onUnit (p < 36) s
    (let L := (s.port p).link
     if L.state = .active && L.resetAt.isNone && s.after L.slotAt (usec s.linkLimit) then
       (s.almQueue { type := 1, fault := faultWatchdog, unit := p, engine := 8,
                     detail := detail (toLE 1 8 ++ [0#8, 0xFF#8, 0#8] ++ toLE 4 noneField ++ toLE 4 0 ++ toLE 4 s.linkLimit ++ toLE 8 (baseAt L.slotAt) ++
                       toLE 4 0 ++ toLE 4 p) }).resetLink p faultWatchdog
     else s)

/-- The LINK_RESET record of port p. -/
def linkResetRec (p : Nat) (L : Link) (duration : Nat) (escalated : Bool) : ARec :=
  { type := 5, fault := L.resetFault, unit := p, engine := 8, detail := resetDetail L.resetFault 8 escalated false duration noneField }

/-- LINK_ENGINE_RESET_DONE: within 8 µs; the engine resumes with a NAK and no pause, and commands that asked for it complete (09 R266, 13
R354). -/
def execLinkEngineResetDone (p : Nat) (s : State) : Host.Outcome State Fault Refusal :=
  onUnit (p < 36) s
    (let L := (s.port p).link
     match L.resetAt with
     | none => s
     | some t =>
       if s.after t (usec 8) then s
       else
         let seq := s.nextSeq
         ((s.almQueue (linkResetRec p L (s.nsSince t) false)).modLink p fun L =>
           { L with resetAt := none, cmds := [], nakPend := true, awaiting := true, replayAt := s.t3, naks := L.naks + 1, slotAt := s.t3 }).finishAll L.cmds
             stOk [seq, noneField])

/-- LINK_ENGINE_RESET_OVERRUN: 8 µs have passed; the four engines of the electrical port group are reset together and their ports go
down with LOS (13 R352). -/
def execLinkEngineResetOverrun (p : Nat) (s : State) : Host.Outcome State Fault Refusal :=
  onUnit (p < 36) s
    (let L := (s.port p).link
     match L.resetAt with
     | none => s
     | some t =>
       if s.after t (usec 8) then
         let g := p / 4
         let s := s.almQueue (linkResetRec p L noneField false)
         let s := [4 * g, 4 * g + 1, 4 * g + 2, 4 * g + 3].foldl (fun s q =>
           let st := (s.port q).link.state
           let s := if st = .isolated || st = .held || st = .loop then s else s.linkDown q 2 .down
           s.modLink q fun L => { L with resetAt := none }) s
         s.modFab fun b => { b with groupReset := SMap.set noneAt g (some s.t3) b.groupReset }
       else s)

/-- Commands and fault code of the resets that an electrical port group's reset took over. -/
def State.groupCmds (s : State) (g : Nat) : List Nat := ([4 * g, 4 * g + 1, 4 * g + 2, 4 * g + 3].map fun q => (s.port q).link.cmds).flatten

/-- s with the commands of group g's ports forgotten. -/
def State.clearGroupCmds (s : State) (g : Nat) : State :=
  [4 * g, 4 * g + 1, 4 * g + 2, 4 * g + 3].foldl (fun s q => s.modLink q fun L => { L with cmds := [] }) s

/-- The LINK_RESET record of group g's reset, for its first port. -/
def State.groupResetRec (s : State) (g duration : Nat) : ARec :=
  let f := ([4 * g, 4 * g + 1, 4 * g + 2, 4 * g + 3].map fun q => (s.port q).link.resetFault).foldl max 0
  { type := 5, fault := f, unit := 4 * g, engine := 8, detail := resetDetail f 8 true false duration noneField }

/-- PORT_GROUP_RESET_DONE: the group's ports retrain (13 R352). -/
def execPortGroupResetDone (g : Nat) (s : State) : Host.Outcome State Fault Refusal :=
  onUnit (g < 9) s
    (match SMap.get noneAt s.fab.groupReset g with
      | none => s
      | some t =>
        if s.after t (msec 1) then s
        else
          let seq := s.nextSeq
          let cs := s.groupCmds g
          (((s.almQueue (s.groupResetRec g (s.nsSince t))).modFab fun b =>
            { b with groupReset := SMap.set noneAt g none b.groupReset }).clearGroupCmds g).finishAll cs stOk [seq, noneField])

/-- PORT_GROUP_RESET_OVERRUN: 1 ms has passed and the device becomes WEDGED (13 R352, R354). -/
def execPortGroupResetOverrun (g : Nat) (s : State) : Host.Outcome State Fault Refusal :=
  onUnit (g < 9) s
    (match SMap.get noneAt s.fab.groupReset g with
      | none => s
      | some t =>
        if s.after t (msec 1) then
          let seq := s.nextSeq
          let cs := s.groupCmds g
          let rec5 := s.groupResetRec g noneField
          ((((s.almQueue rec5).modFab fun b =>
            { b with groupReset := SMap.set noneAt g none b.groupReset }).clearGroupCmds g).wedge seq rec5.fault).finishAll cs stWedged []
        else s)

end Sys2Proof.Machine
end

