-- ==== Sys2Proof/Machine/Ports.lean ====
section
/-!
DEFINITION. Handing packets to their outputs (01 R18 step 7, R20, R22; 10 R303), the Gleaner (06 R201), management packets and notices
received (10 R305, 13 R362), telemetry (06 R204, 07 R223, 10 R296) and the commands that write routes, ports, queues, meters and random
early drop (10 R296, R300).
-/

namespace Sys2Proof.Machine

/-! ### Packets handed to their output -/

/-- s with a packet on its last byte's hand-over by port p counted there (06 R204). -/
def State.countTx (s : State) (p : Nat) (k : Pkt) : State := (s.count (ctrTxPackets p k.vc) 1).count (ctrTxBytes p k.vc) k.len

/-- s with the reply of a quorum command marked as having left, when this packet is it (11 R329). -/
def State.markReply (s : State) (k : Pkt) : State :=
  match s.dev.isoPend with
  | some i => if k.origin = i.cmd + 1 then s.modDev fun d => { d with isoPend := some { i with left := true } } else s
  | none => s

/-- s with a packet written into the host's receive ring, or dropped as CONGESTION on port 36 while it is off (10 R303). -/
def State.toHost (s : State) (k : Pkt) : State :=
  if s.dev.hrxCfg.getLsbD 0 then
    let n := s.dev.hrxTail.toNat
    let size := 2 ^ (s.dev.hrxCfg.extractLsb' 4 4).toNat
    let hdr := toLE 8 s.now ++ toLE 4 k.len ++ toLE 1 ((n / size + 1) % 2) ++ List.replicate 19 0#8
    (((s.release k).writeHost (s.dev.hrxBase.toNat + 4224 * (n % size)) (hdr ++ k.bytes)).modDev fun d =>
      { d with hrxTail := d.hrxTail + 1#32 }).msix (s.dev.hrxCfg.extractLsb' 8 8).toNat
  else s.dropPkt k 36 dropCongestion

/-- s with a packet handed over by its port: to the link's byte stream, to host memory, to the management mailbox, or onto a die bridge
towards the Tiller it is steered to. Packets steered to a Tiller keep their cells until they are claimed (03 R79, 06 R201). -/
def State.handOver (s : State) (p : Nat) (k : Pkt) : State :=
  let s := (s.countTx p k).markReply k
  if p < 36 then (s.release k).modLink p fun L => { L with txStarts := L.txStarts ++ [(L.txBuf.length, 2 * k.vc + k.outSc)], txBuf := L.txBuf ++ k.bytes }
  else if p = 36 then s.toHost k
  else if k.kind < 2 then s.modFab fun b => { b with transit := b.transit ++ [(k.steer, k)] }
  else (s.release k).modFab fun b => { b with mailbox := b.mailbox ++ [{ k with cells := [0, 0, 0, 0] }] }

/-- The output can take the packet's last byte now: a link whose stream holds less than one flit; ports 36 and 37 always; a packet of
an outstanding post is handed over by its own row (10 R299). -/
def State.mayHandOver (s : State) (p : Nat) (k : Pkt) : Bool :=
  if p < 36 then decide ((s.port p).link.txBuf.length < 246) else p != 36 || (s.postsFor k).isEmpty

/-- PACKET_TRANSMIT_COMPLETE: the last byte of port p's packet is handed over and its cells return; ecc names a 32-byte word of the packet
found uncorrectable at the output, which drops it (01 R18, R32; 07 R221). -/
def execPacketTransmitComplete (p : Nat) (ecc : Option Nat) (s : State) : Host.Outcome State Fault Refusal :=
  onUnit (p < 38) s
    (match SMap.get noneAt s.fab.txPkt p with
      | none => s
      | some k =>
        if s.mayHandOver p k then
          let s := s.modFab fun b => { b with txPkt := SMap.set noneAt p none b.txPkt }
          (match ecc with
          | some w =>
            let s := s.dropPkt k p dropEcc
            if 2 ≤ w then s.deliveryLost k p dropEcc else s
          | none => s.handOver p k).samplePeak p k.vc
        else s)

/-! ### The Gleaner (06 R201) -/

/-- Items of block 5 of TEL_READ. -/
def ctrGleanPasses : Nat := ctrKey 5 0 4
/-- glean_cells. -/
def ctrGleanCells : Nat := ctrKey 5 0 5
/-- glean_lag. -/
def ctrGleanLag : Nat := ctrKey 5 0 6

/-- GLEANER_CFG.period_ms. -/
def State.gleanPeriod (s : State) : Nat := (s.dev.gleanerCfg.extractLsb' 0 14).toNat * 1000000

/-- GLEANER_PASS_START: the period has elapsed and no pass runs. -/
def execGleanerPassStart (s : State) : Host.Outcome State Fault Refusal :=
  onEvent (s.live && s.dev.gleanerCfg.getLsbD 14 && !s.fab.gleaning && decide (s.fab.gleanNext ≤ s.now)) s
    (s.modFab fun b => { b with gleaning := true, gleanNext := s.now + s.gleanPeriod, stranded := b.stranded.map fun x => (x.1, x.2 + 1) })

/-- s with a stranded packet's cells returned, its loss counted once on port 36 or 37. -/
def State.glean (s : State) (k : Pkt) : State :=
  (s.dropPkt k (if k.inPort = 36 then 36 else 37) dropCongestion).count ctrGleanCells k.nCells

/-- GLEANER_PASS_END: cells found not live in two passes in a row are returned; a pass that outlasted its period is counted. -/
def execGleanerPassEnd (s : State) : Host.Outcome State Fault Refusal :=
  onEvent (s.live && s.fab.gleaning) s
    (let old := s.fab.stranded.filter fun x => 2 ≤ x.2
     let s1 := (s.modFab fun b => { b with gleaning := false, stranded := b.stranded.filter fun x => decide (x.2 < 2) }).count ctrGleanPasses 1
     let s2 := if s.fab.gleanNext ≤ s.now then s1.count ctrGleanLag 1 else s1
     old.foldl (fun s x => s.glean x.1) s2)

/-! ### The management mailbox (06 R179, 10 R305, 13 R362) -/

/-- The oldest packet of a kind in the mailbox, and the mailbox without it. -/
def takeKind (kind : Nat) : List Pkt → Option (Pkt × List Pkt)
  | [] => none
  | p :: t => if p.kind = kind then some (p, t) else (takeKind kind t).map fun r => (r.1, p :: r.2)

/-- The descriptor of a MGMT request is well formed (10 R305). -/
def mgmtOk (b : List Byte) : Bool :=
  let d := (b.drop 16).take 64
  let n := fieldAt d 8 4
  fieldAt b 1 3 == 0 && allZero ((b.drop 8).take 8) && !descIndirect d && decide (fieldAt d 2 2 < 4) && allZero (d.drop 12) &&
  decide (n ≤ 4016) && (paramLenOk (fieldAt d 0 2) n || (fieldAt d 0 2 == 0x0301 && decide (128 ≤ n))) && decide (80 + n ≤ b.length) &&
  fieldAt d 0 2 != 0x0202 && fieldAt d 0 2 != 0x0302 && fieldAt d 0 2 != 0x0802

/-- MGMT_REQUEST: FWP-CMD takes the oldest MGMT packet from its mailbox. From a port that MGMT_CFG does not accept it is dropped as
HDR_ERR; a reply, type 0x02, asks for nothing (10 R305). -/
def execMgmtRequest (s : State) : Host.Outcome State Fault Refusal :=
  onEvent (s.live && s.fwpUp fwpCmd) s
    (match takeKind 2 s.fab.mailbox with
      | none => s
      | some (p, rest) =>
        let s := s.modFab fun b => { b with mailbox := rest }
        if !s.dev.mgmtCfg.getLsbD p.inPort then s.count (ctrDrop p.inPort dropHdrErr) 1
        else
          let b := p.payload
          let d := (b.drop 16).take 64
          if b.headD 0#8 = 1#8 then
            s.accept (.mgmt (p.bytes.take 48) (fieldAt b 4 4)) d (some (Machine.slice b 80 (fieldAt d 8 4))) (mgmtOk b)
          else s)

/-- NOTICE_RECEIVE: the oldest NOTICE packet of the mailbox is reported as a NOTICE event; its context word is the header's ctx (10
R301, 13 R362). -/
def execNoticeReceive (s : State) : Host.Outcome State Fault Refusal :=
  onEvent (s.live && s.fwpUp fwpCmd) s
    (match takeKind 3 s.fab.mailbox with
      | none => s
      | some (p, rest) =>
        let b := p.payload
        (s.modFab fun f => { f with mailbox := rest }).devEvent 4 stOk
          [fieldAt b 0 1, fieldAt b 1 1, fieldAt b 2 1, fieldAt b 24 2, fieldAt b 28 4, p.ctx])

/-! ### Telemetry (07 R223, 10 R296) -/

/-- Values of consecutive counters. -/
def State.counters (s : State) (block index first n : Nat) : List Nat :=
  (List.range n).map fun i => (s.counter (ctrKey block index (first + i))).toNat

/-- Counters and gauges of port p, in the order of 06 R204. -/
def State.telPort (s : State) (p : Nat) : List Nat :=
  s.counters 0 p 0 32 ++ s.counters 0 p 33 10 ++ (List.range 8).map (s.qDepth p) ++
  (List.range 8).map (fun v => SMap.get zeroAt s.fab.qPeak (8 * p + v)) ++
  (List.range 8).map (fun v => SMap.get zeroAt s.fab.redAvg (8 * p + v) / 256) ++
  (List.range 16).map (fun c => s.classUse (16 * p + c)) ++ s.counters 0 p 48 8 ++ s.counters 0 p 56 16

/-- Blocks of the prefix store in a tier and of a size. -/
def State.pfxGauge (s : State) (cxl big : Bool) : Nat := (s.pfx.blocks.filter fun b => b.cxl == cxl && b.big == big).length

/-- The counters of a TEL_READ block and index; none for an index the block lacks. -/
def State.telBlock (s : State) (block index : Nat) : Option (List Nat) :=
  match block with
  | 0 => if index < 38 then some (s.telPort index) else none
  | 1 => if index < 36 then some (s.counters 1 index 0 49) else none
  | 2 => if index < 65536 then some (s.counters 2 index 0 3) else none
  | 3 => if index < 26 then some (s.counters 3 index 0 5) else none
  | 4 => if index = 0 then some (s.counters 4 0 0 13 ++ [s.pfxGauge false false, s.pfxGauge false true, s.pfxGauge true false, s.pfxGauge true true])
         else none
  | 5 => if index = 0 then some (s.counters 5 0 0 8) else none
  | 6 => if index < 9 then
           some (s.counters 6 index 0 1 ++ (List.range 8).map fun i => ((SMap.get (fun _ => (0 : Int)) (s.oe index).power i) % 2 ^ 64).toNat)
         else none
  | _ => none

/-- TEL_READ (10 R296). -/
def execTelRead (c : Nat) (s : State) : Host.Outcome State Fault Refusal :=
  runCmd 0x0701 c s fun k s =>
    match (if fieldAt k.params 13 1 = 0 then s.rollWindow.telBlock (fieldAt k.params 12 1) (fieldAt k.params 14 2) else none) with
    | none => s.finish c stBadParam
    | some l => s.rollWindow.finishData k [] (toLE 8 s.now ++ (l.map (toLE 8)).flatten)

/-- TEL_WINDOW (07 R223). -/
def execTelWindow (c : Nat) (s : State) : Host.Outcome State Fault Refusal :=
  runCmd 0x0702 c s fun k s =>
    let n := fieldAt k.params 0 4
    if 1 ≤ n && n ≤ 1000000 then (s.rollWindow.modDev fun d => { d with telNext := n }).finish c stOk else s.finish c stBadParam

/-- TELEMETRY_WINDOW_BOUNDARY: the window in force ends. What is stamped at or after the boundary ends it too, whichever comes first (07
R223). -/
def execTelemetryWindowBoundary (s : State) : Host.Outcome State Fault Refusal := onEvent s.live s s.rollWindow

/-! ### Routes (06 R185) -/

/-- A command row that shares its opcode with others: it acts only when its sub code matches. -/
def runSub (op c : Nat) (mine : Cmd → Bool) (s : State) (body : Cmd → State → State) : Host.Outcome State Fault Refusal :=
  match s.cmd? c with
  | none => .next s
  | some k => if mine k then runCmd op c s body else .next s

/-- A route entry as stored: nothing for zeros. -/
def routeEntry (l : List Byte) : List Byte := if allZero l then [] else padTo 16 l

/-- Bit 7 of a hop byte, which is reserved, is set in some route entry of a record (06 R181). -/
def routeBad (n : Nat) (params : List Byte) : Bool := (List.range n).any fun i => (Machine.slice params (4 + 16 * i + 1) 15).any fun b => b.getLsbD 7

/-- ROUTE_WRITE. A reserved bit set in an entry is a bad parameter (00 R8). -/
def execRouteWrite (c : Nat) (s : State) : Host.Outcome State Fault Refusal :=
  runCmd 0x0401 c s fun k s =>
    let first := fieldAt k.params 0 1
    let n := fieldAt k.params 1 1
    if n = 0 || k.params.length ≠ 4 + 16 * n || fieldAt k.params 2 2 ≠ 0 || 256 < first + n || routeBad n k.params then s.finish c stBadParam
    else
      ((List.range n).foldl (fun s i => s.modFab fun b =>
        { b with routes := SMap.set nilAt (first + i) (routeEntry (Machine.slice k.params (4 + 16 * i) 16)) b.routes }) s).finish c stOk

/-- ROUTE_READ. -/
def execRouteRead (c : Nat) (s : State) : Host.Outcome State Fault Refusal :=
  runCmd 0x0402 c s fun k s =>
    let first := fieldAt k.params 12 1
    let n := fieldAt k.params 13 1
    if n = 0 || fieldAt k.params 14 2 ≠ 0 || 256 < first + n then s.finish c stBadParam
    else s.finishData k [] ((List.range n).map fun i => padTo 16 (SMap.get nilAt s.fab.routes (first + i))).flatten

/-! ### Ports (06 R187; 07 R211; 09 R275, R276) -/

/-- s after a command whose effect must leave a port's reservations within their conditions and its admission checks passing: BAD_PARAM
when R217 would break, REFUSED_NO_FIT when R218 would, and then nothing changes. -/
def State.admitTo (s s' : State) (c : Nat) (ports words : List Nat) : State :=
  if !ports.all s'.reservationsOk then s.finish c stBadParam
  else if !ports.all s'.admissionOk then s.finish c stNoFit
  else s'.configured.finish c stOk words

/-- A signed byte of a record. -/
def signedAt (l : List Byte) (o : Nat) : Int := (l.getD o 0#8).toInt

/-- PORT_CONFIG's fields are in range for the settings it selects. -/
def State.portCfgBad (s : State) (q : List Byte) : Bool :=
  let p := fieldAt q 0 1
  let sel := fieldAt q 1 1
  let ov := signedAt q 4
  decide (38 ≤ p) || decide (8 ≤ sel) || fieldAt q 3 1 != 0 || fieldAt q 9 3 != 0 ||
  (sel % 2 == 1 && (decide (36 ≤ p) || decide (15 < fieldAt q 2 1) || (s.portUp p && (s.port p).rank != fieldAt q 2 1))) ||
  (sel / 2 % 2 == 1 && (decide (ov < -32) || decide (63 < ov) || decide (1 < fieldAt q 5 1) || (decide (36 ≤ p) && fieldAt q 5 1 != 0))) ||
  (sel / 4 % 2 == 1 && (decide (36 ≤ p) || decide (1 < fieldAt q 6 1) || decide (1 < fieldAt q 7 1) || fieldAt q 8 1 == 0))

/-- s with the settings PORT_CONFIG selects written; a disabled port is held and an enabled one may train (09 R267, R270). -/
def State.writePort (s : State) (q : List Byte) : State :=
  let p := fieldAt q 0 1
  let sel := fieldAt q 1 1
  let s := if sel % 2 = 1 then s.modPort p fun P => { P with rank := fieldAt q 2 1 } else s
  let s := if sel / 2 % 2 = 1 then s.modPort p fun P => { P with overhead := signedAt q 4, trust := fieldAt q 5 1 == 1 } else s
  if sel / 4 % 2 = 1 then
    let on := fieldAt q 6 1 == 1
    let spare := fieldAt q 7 1 == 1
    let before := !(s.port p).enable
    let s := s.modPort p fun P => { P with enable := on, spare := spare, errLimit := fieldAt q 8 1,
                                           link := if spare then P.link else { P.link with dropReq := 0#8 } }
    if on then s.unhold p else s.hold p 1 before
  else s

/-- PORT_CONFIG. -/
def execPortConfig (c : Nat) (s : State) : Host.Outcome State Fault Refusal :=
  runCmd 0x0403 c s fun k s =>
    if s.portCfgBad k.params then s.finish c stBadParam
    else s.admitTo (s.writePort k.params) c [fieldAt k.params 0 1] []

/-- A loop mode has a pattern (09 R275). -/
def loopPattern (mode pattern : Nat) : Bool :=
  match mode with
  | 0 => pattern == 0
  | 1 => pattern == 2
  | 2 => pattern == 1 || pattern == 2
  | 3 => pattern == 0 || pattern == 1
  | _ => false

/-- s with port p in a test loop: every lane that the table leaves usable, with sequence numbers from 0. -/
def State.enterLoop (s : State) (p mode pattern : Nat) : State :=
  let bad := badLanes s.fw.eqTable s.dev.boardId.toNat p
  (s.linkDown p 0xC .loop).modLink p fun L => { L with
    loop := mode, pattern := pattern, laneBad := bad, txMap := ~~~ bad, rxMap := ~~~ bad, nextMap := ~~~ bad, lastCtl := s.t3 }

/-- PORT_LOOP. -/
def execPortLoop (c : Nat) (s : State) : Host.Outcome State Fault Refusal :=
  runCmd 0x0405 c s fun k s =>
    let p := fieldAt k.params 0 1
    let mode := fieldAt k.params 1 1
    let pattern := fieldAt k.params 2 1
    let L := (s.port p).link
    if 36 ≤ p || !loopPattern mode pattern || fieldAt k.params 3 1 ≠ 0 || L.state = .isolated || L.heldPower then s.finish c stBadParam
    else if mode = 0 then
      (if L.state = .loop then s.rejoin p else s).finish c stOk
    else (s.enterLoop p mode pattern).finish c stOk

/-! ### Queues (07 R207, R208; 10 R300) -/

/-- Stream queue q holds packets or one in transmission. -/
def State.queueHolds (s : State) (q : Nat) : Bool :=
  !(s.sq q).isEmpty || s.fab.txPkt.any fun x => match x.2 with | some k => k.queue == q | none => false

/-- Stream queue q lies in the map range of some (p, v). -/
def State.mapped (s : State) (q : Nat) : Bool :=
  (List.range 304).any fun i => let m := SMap.get sqMapAt s.fab.sqMap i; decide (m.1 ≤ q) && decide (q < m.1 + 2 ^ m.2)

/-- First of n consecutive queues that satisfy a condition, searched over all queues. -/
def firstRun (ok : Nat → Bool) (n : Nat) : Nat → Nat → Nat → Option Nat
  | 0, _, _ => none
  | fuel + 1, q, run =>
    if ok q then (if run + 1 = n then some (q + 1 - n) else firstRun ok n fuel (q + 1) (run + 1))
    else firstRun ok n fuel (q + 1) 0

/-- s with queues first to first + n − 1 given a configuration. -/
def State.setQueues (s : State) (first n : Nat) (f : SqCfg → SqCfg) : State :=
  (List.range n).foldl (fun s i => s.modFab fun b => { b with sqCfg := SMap.set sqCfgAt (first + i) (f (s.sqCfg (first + i))) b.sqCfg }) s

/-- s with queues released that may still hold packets: these leave by the port and VC they were queued for (07 R208). -/
def State.freeQueues (s : State) (l : List Nat) : State :=
  l.foldl (fun s q => s.setQueues q 1 fun c => if s.queueHolds q then { port := c.port, vc := c.vc } else {}) s

/-- QUEUE_CONFIG sub 0: binds, reweights or releases queues of owner 0 or 1; a sub code not listed is a bad parameter. -/
def execQueueConfigSqCfg (c : Nat) (s : State) : Host.Outcome State Fault Refusal :=
  runSub 0x0501 c (fun k => fieldAt k.params 0 1 == 0 || decide (3 < fieldAt k.params 0 1)) s fun k s =>
    let q := k.params
    let p := fieldAt q 1 1
    let vc := fieldAt q 2 1
    let w := fieldAt q 3 1
    let n := fieldAt q 6 2
    let rel := fieldAt q 8 1 == 1
    let choose := fieldAt q 4 2 == 0xFFFF
    if fieldAt q 0 1 ≠ 0 || 38 ≤ p || n = 0 || 4096 < n || 1 < fieldAt q 8 1 || !allZero (q.drop 9) || (!rel && (7 < vc || w = 0)) ||
        (rel && choose) then s.finish c stBadParam
    else
      match (if choose then firstRun (fun i => !(s.sqCfg i).inUse && !s.queueHolds i) n 65536 0 0 else some (fieldAt q 4 2)) with
      | none => s.finish c stNoFit
      | some first =>
        let l := (List.range n).map (first + ·)
        let free := l.all fun i => !(s.sqCfg i).inUse
        let mine := l.all fun i => (s.sqCfg i).inUse && (s.sqCfg i).owner == 1
        let moves (i : Nat) : Bool := rel || (s.sqCfg i).port != p || (s.sqCfg i).vc != vc || !(s.sqCfg i).inUse
        if 65536 < first + n || !(free || mine) || l.any (fun i => moves i && (s.queueHolds i || s.mapped i)) then s.finish c stBadParam
        else if rel then (s.setQueues first n fun _ => {}).configured.finish c stOk [first]
        else
          s.admitTo (s.setQueues first n fun _ => { port := p, vc := vc, inUse := true, weight := w, owner := 1 }) c
            (p :: dedup (l.map fun i => (s.sqCfg i).port)) [first]

/-- QUEUE_CONFIG sub 1: SQ_MAP. -/
def execQueueConfigSqMap (c : Nat) (s : State) : Host.Outcome State Fault Refusal :=
  runSub 0x0501 c (fun k => fieldAt k.params 0 1 == 1) s fun k s =>
    let q := k.params
    let p := fieldAt q 1 1
    let vc := fieldAt q 2 1
    let base := fieldAt q 4 2
    let lg := fieldAt q 6 1
    if 38 ≤ p || 7 < vc || fieldAt q 3 1 ≠ 0 || 12 < lg || !allZero (q.drop 7) || 65536 < base + 2 ^ lg ||
        !((List.range (2 ^ lg)).all fun i => let g := s.sqCfg (base + i); g.inUse && g.port == p && g.vc == vc && g.owner != 3) then
      s.finish c stBadParam
    else (s.modFab fun b => { b with sqMap := SMap.set sqMapAt (8 * p + vc) (base, lg) b.sqMap }).configured.finish c stOk

/-- QUEUE_CONFIG sub 2: PORT_WDRR. -/
def execQueueConfigPortWdrr (c : Nat) (s : State) : Host.Outcome State Fault Refusal :=
  runSub 0x0501 c (fun k => fieldAt k.params 0 1 == 2) s fun k s =>
    let q := k.params
    let p := fieldAt q 1 1
    let w := (List.range 7).map fun v => fieldAt q (4 + 2 * v) 2
    if 38 ≤ p || fieldAt q 2 2 ≠ 0 || fieldAt q 18 2 ≠ 0 || w.any (fun x => x == 0 || decide (1023 < x)) then s.finish c stBadParam
    else s.admitTo (s.modPort p fun P => { P with wdrr := w }) c [p] []

/-- QUEUE_CONFIG sub 3: BUF_CLASS_CFG (06 R192). -/
def execQueueConfigBufClass (c : Nat) (s : State) : Host.Outcome State Fault Refusal :=
  runSub 0x0501 c (fun k => fieldAt k.params 0 1 == 3) s fun k s =>
    let q := k.params
    let p := fieldAt q 1 1
    let cls := fieldAt q 2 1
    let mn := fieldAt q 4 4
    let mx := fieldAt q 8 4
    if 38 ≤ p || 15 < cls || fieldAt q 3 1 ≠ 0 || !allZero (q.drop 12) || mn < 17 || mx < mn || 786432 < mx then s.finish c stBadParam
    else
      let cfg := SMap.set bufCfgAt (16 * p + cls) (mn, mx) s.fab.bufCfg
      if s.poweredCells < sumMinima cfg + s.slotCells then s.finish c stNoFit
      else (s.modFab fun b => { b with bufCfg := cfg }).configured.finish c stOk

/-! ### Meters and random early drop (06 R199; 07 R212 to R218) -/

/-- The port whose reservations a shaper touches. -/
def State.shaperPort (s : State) (level i : Nat) : Nat := if level = 0 then (s.sqCfg i).port else if level = 1 then i / 8 else i

/-- SHAPER_CONFIG. -/
def execShaperConfig (c : Nat) (s : State) : Host.Outcome State Fault Refusal :=
  runCmd 0x0502 c s fun k s =>
    let q := k.params
    let level := fieldAt q 0 1
    let i := fieldAt q 2 2
    let v := BitVec.ofNat 64 (fieldAt q 4 8)
    let on := v.getLsbD 48
    let limit := if level = 0 then 65536 else if level = 1 then 304 else 38
    if 2 < level || fieldAt q 1 1 ≠ 0 || limit ≤ i || v.getLsbD 23 || (v >>> 49) != 0#64 || (on && (v.extractLsb' 0 23) = 0#23) ||
        (level = 1 && i % 8 = 0 && !on) then s.finish c stBadParam
    else
      let s' := if level = 0 then s.modStrShaper i (·.write v) else if level = 1 then s.modSvcShaper i (·.write v) else s.modPortShaper i (·.write v)
      s.admitTo s' c [s.shaperPort level i] []

/-- POLICER_CFG keeps its reserved bits 0 and its rules (07 R216). -/
def policerOk (v : BitVec 128) : Bool :=
  let p : Policer := { cfg := v }
  !v.getLsbD 23 && (v.extractLsb' 48 16) == 0#16 && !v.getLsbD 87 && (v.extractLsb' 115 13) == 0#13 &&
  (p.mode == 0 || (decide (p.cir ≤ p.pir) && decide (4207 ≤ p.cbs) && decide (4207 ≤ p.pbs) && p.mode != 3))

/-- POLICER_CONFIG. -/
def execPolicerConfig (c : Nat) (s : State) : Host.Outcome State Fault Refusal :=
  runCmd 0x0503 c s fun k s =>
    let q := fieldAt k.params 0 2
    let v := BitVec.ofNat 128 (fieldAt k.params 4 16)
    if fieldAt k.params 2 2 ≠ 0 || !policerOk v then s.finish c stBadParam
    else s.admitTo (s.modPolicer q (·.write v)) c [(s.sqCfg q).port] []

/-- A RED_PROFILE entry keeps its rules (06 R199). -/
def redOk (v : BitVec 64) : Bool :=
  (v >>> 50) == 0#64 && (v.extractLsb' 40 9).toNat ≤ 256 && (!v.getLsbD 49 || decide ((v.extractLsb' 0 20).toNat < (v.extractLsb' 20 20).toNat))

/-- WRED_PROFILE sub 0: the three colours of a profile; a sub code not listed is a bad parameter. -/
def execWredProfileProfile (c : Nat) (s : State) : Host.Outcome State Fault Refusal :=
  runSub 0x0504 c (fun k => fieldAt k.params 0 1 != 1) s fun k s =>
    let n := fieldAt k.params 1 1
    let v (i : Nat) : BitVec 64 := BitVec.ofNat 64 (fieldAt k.params (4 + 8 * i) 8)
    if fieldAt k.params 0 1 ≠ 0 || n = 0 || 15 < n || fieldAt k.params 2 2 ≠ 0 || !(redOk (v 0) && redOk (v 1) && redOk (v 2)) then
      s.finish c stBadParam
    else
      ((List.range 3).foldl (fun s i => s.modFab fun b => { b with red := SMap.set zeroBits (4 * n + i) (v i) b.red }) s).configured.finish c stOk

/-- WRED_PROFILE sub 1: PORT_VC_RED. -/
def execWredProfilePortVcRed (c : Nat) (s : State) : Host.Outcome State Fault Refusal :=
  runSub 0x0504 c (fun k => fieldAt k.params 0 1 == 1) s fun k s =>
    let p := fieldAt k.params 1 1
    let v := BitVec.ofNat 64 (fieldAt k.params 4 8)
    if 38 ≤ p || fieldAt k.params 2 2 ≠ 0 || !allZero (k.params.drop 12) || (v.extractLsb' 0 4) ≠ 0#4 || (v.extractLsb' 56 4) ≠ 0#4 then
      s.finish c stBadParam
    else (s.modPort p fun P => { P with vcRed := v }).configured.finish c stOk

end Sys2Proof.Machine
end

