-- ==== Sys2Proof/Machine/Func.lean ====
section
/-!
DEFINITION. The FP32 functions of 04 R126. The exact result is computed in fixed point to far more bits than FP32 holds; the module's
result is one of the FP32 values within the function's bound of it, and which one is free (log 7).
-/

namespace Sys2Proof.Machine

/-- +Inf of FP32. -/
abbrev inf32 : Nat := 0x7F800000
/-- The canonical NaN of FP32. -/
abbrev nan32 : Nat := 0x7FC00000
/-- 1 of FP32. -/
abbrev one32 : Nat := 0x3F800000

/-! ### Fixed point with 320 fraction bits -/

/-- Fraction bits. -/
abbrev fxBits : Nat := 320

/-- Product of two fixed-point numbers. -/
def fxMul (a b : Nat) : Nat := a * b / 2 ^ fxBits

/-- e^r for a fixed-point r of 0 to 1, by its power series. -/
def fxExp (r : Nat) : Nat :=
  ((List.range 90).foldl (fun (p : Nat × Nat) k => (p.1 + p.2, fxMul p.2 r / (k + 1))) (0, 2 ^ fxBits)).1

/-- The inverse hyperbolic tangent of a / b, at most 1/3, by its power series. -/
def fxAtanh (a b : Nat) : Nat :=
  let z := a * 2 ^ fxBits / b
  ((List.range 110).foldl (fun (p : Nat × Nat) k => (p.1 + p.2 / (2 * k + 1), fxMul p.2 (fxMul z z))) (0, z)).1

/-- The inverse tangent of 1 / b. -/
def fxAtan (b : Nat) : Nat :=
  ((List.range 140).foldl (fun (p : Int × Int) (k : Nat) =>
    (p.1 + (if k % 2 = 0 then p.2 else -p.2) / (2 * (k : Int) + 1), p.2 / ((b * b : Nat) : Int))) (0, ((2 ^ fxBits / b : Nat) : Int))).1.toNat

/-- The natural logarithm of 2. -/
def fxLn2 : Nat := 2 * fxAtanh 1 3

/-- 2 divided by the square root of pi; pi by Machin's formula. -/
def fxTwoOverRootPi : Nat := isqrt (4 * 2 ^ (3 * fxBits) / (16 * fxAtan 5 - 4 * fxAtan 239))

/-- A finite FP32 value as a signed fixed-point number. -/
def Dy.fx (d : Dy) : Int := d.units (-(fxBits : Int))

/-- e^x for a fixed-point x: a fixed-point number in 1 to 2, and the power of two it is multiplied by. -/
def fxExpOf (x : Int) : Nat × Int :=
  let n := x / (fxLn2 : Int)
  (fxExp (x - n * (fxLn2 : Int)).toNat, n)

/-- The natural logarithm of a positive finite value. -/
def fxLog (d : Dy) : Int :=
  let k := Nat.log2 d.m
  ((k : Int) + d.e) * (fxLn2 : Int) + 2 * (fxAtanh (d.m - 2 ^ k) (d.m + 2 ^ k) : Int)

/-! ### Exact results -/

/-- A value just below d. -/
def Dy.under (d : Dy) : Dy := { d with m := d.m * 2 ^ 64 - 1, e := d.e - 64 }

/-- A value just above 0. -/
def Dy.tiny : Dy := { neg := false, m := 1, e := -1000 }

/-- A signed fixed-point number as a value. -/
def dyFx (x : Int) : Dy := { neg := decide (x < 0), m := x.natAbs, e := -(fxBits : Int) }

/-- |d| is less than n. -/
def Dy.magLt (d : Dy) (n : Nat) : Bool := ({ d with neg := false } : Dy).lt { neg := false, m := n, e := 0 }

/-- 1 / sqrt(d) for a positive d. -/
def exactRsqrt (d : Dy) : Dy :=
  let m := if d.e % 2 = 0 then d.m else 2 * d.m
  let e := if d.e % 2 = 0 then d.e else d.e - 1
  let r := isqrt (2 ^ 400 / m)
  { neg := false, m := 2 * r + (if r * r * m = 2 ^ 400 then 0 else 1), e := -(e / 2) - 201 }

/-- e^d; values below the smallest subnormal as one just above 0. -/
def exactExp (d : Dy) : Dy :=
  if d.magLt 110 then
    let p := fxExpOf d.fx
    { neg := false, m := p.1, e := p.2 - (fxBits : Int) }
  else if d.neg then Dy.tiny else { neg := false, m := 1, e := 200 }

/-- 2^d. -/
def exactExp2 (d : Dy) : Dy :=
  if d.magLt 160 then
    let n := d.fx / (2 ^ fxBits : Nat)
    { neg := false, m := fxExp (fxMul (d.fx % (2 ^ fxBits : Nat)).toNat fxLn2), e := n - (fxBits : Int) }
  else if d.neg then Dy.tiny else { neg := false, m := 1, e := 200 }

/-- tanh of d. -/
def exactTanh (d : Dy) : Dy :=
  let a : Dy := { d with neg := false }
  let y : Dy :=
    if a.lt { neg := false, m := 1, e := -12 } then a.under
    else if d.magLt 10 then
      let p := fxExpOf (2 * a.fx)
      let x := p.1 * 2 ^ p.2.toNat
      { neg := false, m := (x - 2 ^ fxBits) * 2 ^ fxBits / (x + 2 ^ fxBits), e := -(fxBits : Int) }
    else Dy.under { neg := false, m := 1, e := 0 }
  { y with neg := d.neg }

/-- 1 / (1 + e^-d). -/
def exactSigmoid (d : Dy) : Dy :=
  if d.neg && !d.magLt 110 then Dy.tiny
  else if !d.neg && !d.magLt 20 then Dy.under { neg := false, m := 1, e := 0 }
  else
    let p := fxExpOf (-(d.fx.natAbs : Int))
    let low := 2 ^ fxBits + p.1 / 2 ^ (-p.2).toNat
    if d.neg then { neg := false, m := p.1 * 2 ^ fxBits / low, e := p.2 - (fxBits : Int) }
    else { neg := false, m := 2 ^ fxBits * 2 ^ fxBits / low, e := -(fxBits : Int) }

/-- erf of d: 2 / sqrt(pi) times d e^(-d^2) times the sum of (2 d^2)^n / (1 * 3 * ... * (2n + 1)). -/
def exactErf (d : Dy) : Dy :=
  if d.magLt 6 then
    let q := fxMul d.fx.natAbs d.fx.natAbs
    let sum := ((List.range 300).foldl (fun (p : Nat × Nat) n => (p.1 + p.2, fxMul p.2 (2 * q) / (2 * n + 3))) (0, 2 ^ fxBits)).1
    let p := fxExpOf (-(q : Int))
    { neg := d.neg, m := d.m * fxMul (fxMul fxTwoOverRootPi sum) p.1, e := d.e + p.2 - (fxBits : Int) }
  else { Dy.under { neg := false, m := 1, e := 0 } with neg := d.neg }

/-- The exact result of an FP32 function of a finite operand away from its special points. -/
def exactFunc (op : Nat) (d : Dy) : Dy :=
  if op = 0xC then exactRsqrt d
  else if op = 0xD then exactExp d
  else if op = 0xE then exactExp2 d
  else if op = 0xF then dyFx (fxLog d)
  else if op = 0x10 then dyFx (fxLog d * (2 ^ fxBits : Nat) / (fxLn2 : Int))
  else if op = 0x11 then exactTanh d
  else if op = 0x12 then exactSigmoid d
  else exactErf d

/-! ### Results within the bound -/

/-- Bound of an FP32 function in units in the last place. -/
def funcUlps (op : Nat) : Nat := if 0x11 ≤ op then 2 else 1

/-- Index of an FP32 code on the line of values, from a sign and a magnitude index that may cross 0 and ends at infinity. -/
def codeAt (neg : Bool) (k : Int) : Nat := Fmt.fp32.signBit (if k < 0 then !neg else neg) + min k.natAbs inf32

/-- The FP32 codes within a bound of an exact value, from the one farthest below its magnitude on. -/
def nearCodes (ulps : Nat) (y : Dy) : List Nat :=
  let c := Fmt.fp32.roundDy 2 0 { y with neg := false }
  let exact : Bool := match Fmt.fp32.decode c with | .fin d => d.eq { y with neg := false } | _ => false
  (List.range (2 * ulps + (if exact then 1 else 0))).map fun (k : Nat) => codeAt y.neg ((c : Int) - ulps + (if exact then 0 else 1) + k)

/-- An FP32 function away from the points that R126 fixes: one of the codes within its bound, +Inf on an overflow of EXP or EXP2. Which
code is free, and the same for the same operand (log 7). -/
def freeFunction (op c : Nat) : Nat :=
  match Fmt.fp32.decode c with
  | .fin d =>
    let y := exactFunc op d
    if (op = 0xD || op = 0xE) && !y.lt { neg := false, m := 1, e := 128 } then inf32
    else
      let l := nearCodes (funcUlps op) y
      l.getD ((Config.fp32Function op (BitVec.ofNat 32 c)).toNat % l.length) nan32
  | _ => nan32

end Sys2Proof.Machine
end

