-- ==== Sys2Proof/Machine/Issue.lean ====
section
/-!
DEFINITION. The issue of an instruction by a stream of a Tiller (03 R78, R82 to R91): when a stream may issue, the latency
table, the hazard checker, the checker's entries, semaphores, and the waits. The sender of the commands places each issue in its
cycle, as the translator's schedule would; the checker faults what comes too early (log 28).
-/

namespace Sys2Proof.Machine

/-! ### Latencies (03 R83, R96, R97; 04 R113, R120, R127 to R129) -/

/-- Twice the factor c of 03 R83. -/
def depthFactor2 : Fmt → Nat
  | .le2m1 | .le2m3 => 1
  | .le4m3 | .le5m2 | .int8 => 2
  | .lb16 | .lh16 => 4
  | _ => 16

/-- Descriptor k of an instruction. -/
def Shoze.desc (i : Shoze) (k : Nat) : Desc := i.ds.getD k {}

/-- The micro-program slot that TR_MAP and TR_LDPROG name: imm[3:0]. -/
def progIndex (i : Shoze) : Nat := i.imm.toNat % 16

/-- Destination descriptor of TR_MAP or TR_CVT. -/
def lastDesc (i : Shoze) : Desc := i.desc (i.ds.length - 1)

/-- Initiation interval of TR_CVT and TR_RED: 4 when FP64 is involved, else 1 (04 R128, R129). -/
def fixedIi (a b : Fmt) : Nat := if a = .fp64 || b = .fp64 then 4 else 1

/-- The CVU runs SHA-256. -/
def Cvu.sha (c : Cvu) : Bool := c.alg == some 5

/-- Occupancy and result latency of an instruction at its issue. -/
def Tiller.timing (T : Tiller) (core : Nat) (i : Shoze) : Nat × Nat :=
  match i.mn with
  | .mul | .mulhu => (1, 3)
  | .div | .divu | .rem | .remu => (18, 18)
  | .ldB | .ldH | .ldW => (1, 2)
  | .spld => (1, 3)
  | .spst => (1, 2)
  | .rdtime => (1, 4)
  | .mm =>
    let a := i.desc 0
    let tiles := ceilDiv a.rows 32 * ceilDiv (i.desc 1).rowElems 32
    let occ := tiles * (ceilDiv (a.rowElems * depthFactor2 a.format) 2 + 4)
    (occ, occ + 36)
  | .trMap =>
    let P := SMap.get progAt T.progs (progIndex i)
    let occ := ceilDiv (lastDesc i).count.toNat 32 * P.ii + 2
    (occ, occ + 4 * P.stages + 6)
  | .trCvt =>
    let occ := ceilDiv (i.desc 1).count.toNat 32 * fixedIi (i.desc 0).format (i.desc 1).format + 2
    (occ, occ + 10)
  | .trRed =>
    let occ := ceilDiv (i.desc 0).count.toNat 32 * fixedIi (i.desc 0).format (i.desc 0).format + 2
    (occ, occ + 30)
  | .trLdprog => (4, 8)
  | .shPrune =>
    let occ := 2 * ceilDiv (i.desc 0).count.toNat 256 + 2
    (occ, occ + 12)
  | .shTmask =>
    let occ := 2 * ceilDiv (i.desc 1).count.toNat 256 + 2
    (occ, occ + 12)
  | .mvCopy =>
    let occ := ceilDiv (32 * (i.desc 0).words) 64 + 2
    (occ, occ + 6)
  | .cvInit => (1, 2)
  | .cvWh => if T.cvu.sha then (1, 1) else (2, 2)
  | .cvWw => if T.cvu.sha then (1, 1) else (4, 4)
  | .cvRead =>
    if T.cvu.sha then
      let n := 3 + 16 * ((if core < T.cvu.busyUntil then 1 else 0) + (if 56 ≤ T.cvu.held.length then 2 else 1))
      (n, n)
    else (1, 3)
  | .cvSave | .cvRestore => (8, 10)
  | .cvFeed =>
    let d := i.desc 0
    let n := d.count.toNat * d.format.width / 8
    (max 1 n, max 1 n)
  | _ => (1, 1)

/-! ### Scalars an instruction reads and writes (03 R78, R89; 04 R122, R129) -/

/-- The selectors a micro-operation uses, with its dtype: a, b, c as its opcode needs them (04 R122, R123). -/
def opSelectors (w : Nat) : List Nat :=
  let op := bits w 0 6
  let a := bits w 11 5
  let b := bits w 16 5
  let c := bits w 21 5
  if op = 4 || op = 0x1A then [a, b, c]
  else if (1 ≤ op && op ≤ 3) || (7 ≤ op && op ≤ 9) || (0x14 ≤ op && op ≤ 0x18) || (0x1D ≤ op && op ≤ 0x22) then [a, b]
  else [a]

/-- An operation of a program reads selector sel at FP64. -/
def progReads (P : MicroProg) (sel : Nat) (fp64 : Bool) : Bool :=
  P.ops.any fun w => (opSelectors w.toNat).contains sel && (!fp64 || bits w.toNat 9 2 == 1)

/-- The registers TR_MAP reads: s[sa] and s[sb] where its program selects them, with the next register for FP64 (04 R122). -/
def Tiller.mapRegs (T : Tiller) (i : Shoze) : List Nat :=
  let P := SMap.get progAt T.progs (progIndex i)
  (if progReads P 0x1C false then [i.sa.toNat] else []) ++ (if progReads P 0x1C true then [i.sa.toNat + 1] else []) ++
  (if progReads P 0x1D false then [i.sb.toNat] else []) ++ (if progReads P 0x1D true then [i.sb.toNat + 1] else [])

/-- Registers an instruction reads. -/
def Tiller.regsRead (T : Tiller) (i : Shoze) : List Nat :=
  let a := i.sa.toNat
  let b := i.sb.toNat
  (if i.dyn then [a] else []) ++
  match i.mn with
  | .beq | .bne | .blt | .bge | .bltu | .bgeu => [a, b]
  | .add | .sub | .and | .or | .xor | .shl | .shr | .sra | .slt | .sltu | .mul | .mulhu | .div | .divu | .rem | .remu => [a, b]
  | .ldB | .ldH | .ldW | .spld | .seed | .aspush => [a]
  | .stB | .stH | .stW | .spst | .mvGet | .mvPut => [a, b]
  | .cvWb | .cvWh | .cvWw | .cvSave | .cvRestore => [a]
  | .cvRead => if T.cvu.sha then [a] else []
  | .trMap => T.mapRegs i
  | _ => []

/-- Registers a TR_RED writes: the summary (two for FP64), then the count with ef[0] (04 R129). -/
def redRegs (i : Shoze) : List Nat :=
  let two : Bool := (i.desc 0).format = .fp64 && i.imm.toNat % 16 < 4
  let d := i.sd.toNat
  let sum := if two then [d, d + 1] else [d]
  if i.ef.getLsbD 0 then sum ++ [d + sum.length] else sum

/-- Registers an instruction writes. -/
def Tiller.regsWritten (T : Tiller) (i : Shoze) : List Nat :=
  let d := i.sd.toNat
  match i.mn with
  | .add | .sub | .and | .or | .xor | .shl | .shr | .sra | .slt | .sltu | .mul | .mulhu | .div | .divu | .rem | .remu => [d]
  | .li | .lui | .ldB | .ldH | .ldW | .spld | .rdcyc | .rdtime | .rdtile => [d]
  | .trRed => redRegs i
  | .cvRead => if T.cvu.sha then [] else if T.cvu.alg = some 3 then [d, d + 1] else [d]
  | _ => []

/-! ### The hazard checker (03 R89) -/

/-- The scratchpad word that SPLD or SPST names. -/
def Tiller.spWord (T : Tiller) (i : Shoze) : List (Int × Int) :=
  let w : Int := (T.effAddr i / 32 : Nat)
  [(w, w)]

/-- The address an address-stream or Mover instruction holds the queue with: entries of the external queue. -/
def extQueue : Mnem → Bool
  | .mvGet | .mvPut | .mvSend | .mvRecv => true
  | _ => false

/-- Source footprints at issue, with the word SPLD reads. -/
def Tiller.reads (T : Tiller) (i : Shoze) : List (Int × Int) :=
  match i.mn with
  | .spld => T.spWord i
  | _ => T.srcFeet i

/-- Destination footprints at issue, with the word SPST writes. -/
def Tiller.writes (T : Tiller) (i : Shoze) : List (Int × Int) :=
  match i.mn with
  | .spst => T.spWord i
  | _ => T.dstFeet i

/-- A stored footprint as an interval. -/
def toInt2 (p : Nat × Nat) : Int × Int := ((p.1 : Int), (p.2 : Int))

/-- Source footprints of an entry in a cycle: what its sparse metadata header names counts from the cycle after its issue (04 R101). -/
def Entry.srcsAt (core : Nat) (x : Entry) : List (Nat × Nat) := x.srcs ++ (if x.issue < core then x.headSrcs else [])

/-- Destination footprints of an entry in a cycle (04 R101). -/
def Entry.dstsAt (core : Nat) (x : Entry) : List (Nat × Nat) := x.dsts ++ (if x.issue < core then x.headDsts else [])

/-- First conflict of a list of ranges with the ranges of the entries. -/
def conflict (cause : Nat) (fs : List (Int × Int)) (sel : Entry → List (Nat × Nat)) (es : List Entry) : Option Hazard :=
  fs.findSome? fun f => es.findSome? fun x => (sel x).findSome? fun g =>
    if overlaps f (toInt2 g) then
      some { cause := cause, range := some f, otherEngine := x.engine, otherIndex := x.index, otherRange := some (toInt2 g) }
    else none

/-- First register of a list whose write is pending (SCALAR_EARLY). -/
def scalarEarly (rs : List Nat) (es : List Entry) : Option Hazard :=
  rs.findSome? fun r => if r = 0 then none else es.findSome? fun x =>
    if x.regs.contains r then
      some { cause := 5, range := some ((r : Int), (r : Int)), otherEngine := x.engine, otherIndex := x.index }
    else none

/-- An access of n bytes to DMEM is aligned and in range (03 R71). -/
def dmemOk (a n : Nat) : Bool := a % n == 0 && decide (a ≤ 0xFFFF)

/-- Size of a DMEM access. -/
def accessSize : Mnem → Nat
  | .ldH | .stH => 2
  | .ldW | .stW => 4
  | _ => 1

/-- A destination footprint reaches the lineage block at word 65,534 (12 R341). -/
def reachesLineage (f : Int × Int) : Bool := decide (65534 ≤ f.2)

/-- A dynamic MV_SEND breaks the descriptor rules of 06 R202. -/
def sendBad (i : Shoze) : Bool :=
  let h := i.desc 0
  let p := i.desc 1
  let n := p.count.toNat * p.format.width
  !(decide (h.format = .int8) && h.count == 48#24 && h.rowLen == 0#16) || n % 8 != 0 || decide (n / 8 < 16) || decide (4096 < n / 8)

/-- The RANGE conditions an instruction can meet at issue (03 R71, R77 to R79, R97, R98; 04 R100; 12 R341). -/
def Tiller.rangeHazard (T : Tiller) (i : Shoze) : Option Hazard :=
  let rs := T.reads i
  let ws := T.writes i
  let ea := T.effAddr i
  let sa := (T.reg i.sa.toNat).toNat
  let word (a : Nat) : Option (Int × Int) := some ((a / 32 : Nat), (a / 32 : Nat))
  match (rs ++ ws).find? fun f => !inPad f with
  | some f => some { cause := 6, range := some f }
  | none =>
    if i.dyn && T.baseOf i 0 (i.desc 0) % 32 != 0 then some { cause := 6, range := ((i.desc 0).footprint (T.baseOf i 0 (i.desc 0))).head? }
    else match ws.find? reachesLineage with
    | some f => some { cause := 6, range := some f }
    | none =>
      match i.mn with
      | .ldB | .ldH | .ldW | .stB | .stH | .stW =>
        if dmemOk ea (accessSize i.mn) then none else some { cause := 6, range := word ea }
      | .spld | .spst => if ea % 4 = 0 && ea < 0x200000 then none else some { cause := 6, range := word ea }
      | .cvSave | .cvRestore => if sa % 32 = 0 && sa + 127 ≤ 0xFFFF then none else some { cause := 6, range := word sa }
      | .cvRead =>
        if T.cvu.sha && !(sa % 32 = 0 && decide (sa + 31 ≤ 0xFFFF)) then some { cause := 6, range := word sa }
        else if T.cvu.alg = some 3 && (i.sd = 0#5 || i.sd = 31#5) then some { cause := 6 }
        else none
      | .call => if 16 ≤ T.rstack.length then some { cause := 6 } else none
      | .ret => if T.rstack.isEmpty then some { cause := 6 } else none
      | .mvRecv => if i.dyn && decide ((i.desc 0).words < 130) then some { cause := 6, range := ws.head? } else none
      | .mvSend => if i.dyn && sendBad i then some { cause := 6, range := rs.head? } else none
      | _ => if i.dyn && ownOverlap (T.resolve i) (fun _ => false) then some { cause := 6, range := ws.head? } else none

/-- The instruction needs an entry of the checker (03 R89). -/
def Tiller.needsEntry (T : Tiller) (core : Nat) (i : Shoze) : Bool :=
  isAsync i.mn || !i.ds.isEmpty || decide (i.mn = .spld) || decide (i.mn = .spst) ||
  (!((T.regsWritten i).filter (· != 0)).isEmpty && decide (1 < (T.timing core i).2))

/-- The engine an instruction goes to cannot accept it (03 R89 ENGINE_BUSY; R83 queue depths; R96 SHA-256 blocks). -/
def Tiller.engineBusy (T : Tiller) (core : Nat) (i : Shoze) : Bool :=
  let e := engineOf i.mn
  let cnt (f : Entry → Bool) : Nat := (T.checker.filter f).length
  if isAsync i.mn && e = 4 then
    if i.mn = .mvMrecv then false
    else if i.mn = .mvMesh then decide (8 ≤ cnt fun x => x.inst.mn = .mvMesh)
    else decide (16 ≤ cnt fun x => extQueue x.inst.mn)
  else if e = 0 then decide (core < SMap.get zeroAt T.busy 0)
  else
    decide (core < SMap.get zeroAt T.busy e) || T.checker.any (fun x => x.engine == e && x.async && isSparseMm x.inst.mn) ||
    (e == 5 && T.cvu.sha && decide (core < T.cvu.busyUntil) &&
      decide (64 ≤ T.cvu.held.length + (match i.mn with | .cvWb => 1 | .cvWh => 2 | .cvWw => 4 | _ => 0)))

/-- The first hazard of an instruction at issue, in the order of the table of 03 R89. -/
def Tiller.findHazard (T : Tiller) (core : Nat) (i : Shoze) : Option Hazard :=
  let rs := T.reads i
  let ws := T.writes i
  let es := T.checker
  if T.mode = 0 && T.engineBusy core i then
    some { cause := 1, otherEngine := engineOf i.mn,
           otherIndex := match es.find? fun x => x.engine == engineOf i.mn with | some x => x.index | none => 0xFFFFFFFF }
  else match conflict 2 rs (Entry.dstsAt core) es with
  | some h => some h
  | none => match conflict 3 ws (Entry.dstsAt core) es with
  | some h => some h
  | none => match conflict 4 ws (Entry.srcsAt core) es with
  | some h => some h
  | none => match scalarEarly (T.regsRead i ++ T.regsWritten i) es with
  | some h => some h
  | none => match T.rangeHazard i with
  | some h => some h
  | none => if T.needsEntry core i && decide (32 ≤ es.length) then some { cause := 7 } else none

/-! ### When a stream may issue -/

/-- Rows whose addresses an instruction takes from the address stream (03 R88). -/
def astRows (i : Shoze) : Nat := if i.ast then (i.desc (astIndex i)).rows else 0

/-- Every row address that an entry should have taken by a cycle has been taken. -/
def Entry.fed (x : Entry) (core : Nat) : Bool :=
  decide (astRows x.inst ≤ x.rows.length) || !x.inst.ast || decide (core < x.issue + x.rows.length * x.every)

/-- No result or row address that is due by now is still outstanding: an engine that has stopped making progress holds its
stream (03 R89). -/
def Tiller.settled (T : Tiller) (core : Nat) : Bool := T.checker.all fun x => (x.async || decide (core < x.done)) && x.fed core

/-- The instruction queue of stream e of a per-engine image: the 16 instructions from its position on, the next one first (03 R87). -/
def Tiller.instQueue (T : Tiller) (e : Nat) : List Shoze := (T.img.code.drop (T.stream e).pc).take 16

/-- Stream e's next instruction goes to its own engine, which cannot accept it yet: in per-engine mode the stream waits and does not
fault (03 R83, R87). -/
def Tiller.engineWaits (T : Tiller) (core e : Nat) : Bool :=
  T.mode != 0 && (match (T.instQueue e).head? with
    | some i => decide (engineOf i.mn = e) && T.engineBusy core i
    | none => false)

/-- The instruction may take draws of the generator: it rounds stochastically, or its micro-program does (02 R54, 04 R127). -/
def Tiller.mayDraw (T : Tiller) (i : Shoze) : Bool :=
  i.rm == 5#3 || (decide (i.mn = .trMap) &&
    (SMap.get progAt T.progs (progIndex i)).ops.any fun w => bits w.toNat 0 6 == 0x1C && bits w.toNat 26 3 == 5)

/-- Stream e of Tiller t is free to issue in this cycle, the turn at the generator aside. -/
def State.streamReady (s : State) (t e : Nat) : Bool :=
  let T := s.tl t
  let S := T.stream e
  s.live && decide (T.run = .running) && T.reset.isNone && S.on && !S.halted && decide (S.hold = .none) &&
  decide (S.next ≤ s.clk.core) && T.settled s.clk.core && !T.engineWaits s.clk.core e

/-- Stream e of Tiller t is free to issue an instruction of its own engine that takes draws. -/
def State.drawsNow (s : State) (t e : Nat) : Bool :=
  s.streamReady t e && (match ((s.tl t).instQueue e).head? with
    | some i => decide (engineOf i.mn = e) && (s.tl t).mayDraw i
    | none => false)

/-- Stream e of Tiller t may issue in this cycle. Of two engines that draw in one cycle the Harrow comes before the Trellis (02 R54). -/
def State.mayIssue (s : State) (t e : Nat) : Bool :=
  s.streamReady t e && !(decide (e = 2) && decide ((s.tl t).mode = 1) && s.drawsNow t 2 && s.drawsNow t 1)

/-- Class of a mnemonic that a per-engine stream may hold (03 R87) is checked at load; here only its engine matters. -/
def streamEngine (T : Tiller) (e : Nat) : Nat := if T.mode = 0 then 0 else e

/-- The Harrow of Tiller t is present (00 R2). -/
def State.harrow (s : State) (t : Nat) : Bool := s.part.fuse.getLsbD t

/-- The issue of the instruction at a stream's position, for a row that names its mnemonic: the RANGE fault of a position past
the last instruction (03 R78), the NOT_PRESENT fault of a fused-off Harrow (04 R118), the hazard checker's fault, or the
instruction's own effect. A row whose mnemonic is not the one there, or whose stream may not issue now, leaves the module as it
is (log 2). -/
def State.issue (s : State) (t e : Nat) (mn : Mnem) (body : Shoze → State) : State :=
  if s.mayIssue t e then
    let T := s.tl t
    let pc := (T.stream e).pc
    match T.img.code[pc]? with
    | none => s.hazard t (streamEngine T e) pc { cause := 6 }
    | some i =>
      if i.mn = mn then
        if T.imUe.contains pc then s.eccFetch t pc
        else if engineOf mn = 1 && !s.harrow t then s.harrowAbsent t pc
        else match T.findHazard s.clk.core i with
          | some h => s.hazard t (if i.mn = .mvMrecv then 4 else engineOf mn) pc h
          | none => body i
      else s
  else s

/-- The row of an instruction. -/
def issueRow (t e : Nat) (mn : Mnem) (s : State) (body : Shoze → State) : Host.Outcome State Fault Refusal :=
  if t < 192 && e < 6 then .next (s.issue t e mn body) else .refused .noSuchUnit

/-- T with stream e gone on to an index, able to issue again after n cycles. -/
def Tiller.goto (T : Tiller) (e core t3 pc n : Nat) : Tiller :=
  T.modStream e fun S => { S with pc := pc, next := core + n, prog := t3 }

/-- s with stream e of Tiller t past its instruction and the Tiller changed: the usual end of an issue in one cycle. -/
def State.retire (s : State) (t e : Nat) (f : Tiller → Tiller) : State :=
  s.modT t fun T => f (T.goto e s.clk.core s.t3 ((T.stream e).pc + 1) 1)

/-- Apply mode of SH_PRUNE: imm[3]. -/
def applyMode (i : Shoze) : Bool := i.mn = .shPrune && i.imm.getLsbD 3

/-- A scratchpad word that an entry reads and that is uncorrectable: the one the command names, or one found before. Apply mode reads the
header ranges of its destination too (04 R132). -/
def Entry.badWord (x : Entry) (known : List Nat) (ecc : Option Nat) : Option Nat :=
  (ecc.toList ++ known).find? fun w => (x.srcs ++ x.headSrcs ++ if applyMode x.inst then x.headDsts else []).any fun f => decide (f.1 ≤ w) && decide (w ≤ f.2)

/-- s with an entry of Tiller t gone. -/
def State.dropEntry (s : State) (t : Nat) (x : Entry) : State :=
  s.modT t fun T => { T with checker := T.checker.filter fun z => z != x }

/-- A footprint as stored in an entry. -/
def natFeet (l : List (Int × Int)) : List (Nat × Nat) := l.map fun p => (p.1.toNat, p.2.toNat)

/-- The entry of an instruction at its issue. -/
def Tiller.entryOf (T : Tiller) (core pc : Nat) (i : Shoze) (vals : List Word) : Entry :=
  let tm := T.timing core i
  let n := astRows i
  let step := ceilDiv tm.1 (max 1 n)
  let a := i.sa.toNat
  let b := i.sb.toNat
  { index := pc, engine := engineOf i.mn, inst := T.resolve i, async := isAsync i.mn, issue := core,
    done := max (core + tm.2) (if n = 0 then 0 else core + (n - 1) * step + 1), every := step,
    srcs := natFeet (T.reads i), dsts := natFeet (T.writes i),
    regs := (T.regsWritten i).filter (· != 0), vals := vals,
    sa := (T.reg (a + 1)) ++ (T.reg a), sb := (T.reg (b + 1)) ++ (T.reg b), gen := T.gen }

/-- Occupancy of an engine from an issue on. -/
def Tiller.occupy (T : Tiller) (core : Nat) (i : Shoze) : Tiller :=
  let e := engineOf i.mn
  if isAsync i.mn && e = 4 then T
  else { T with busy := SMap.set zeroAt e (core + (T.timing core i).1) T.busy }

/-- An engine holds work that counts as progress to be made (13 R344): not an open receive claim or an MV_SEND that its class
has not admitted. -/
def Tiller.working (T : Tiller) (core e : Nat) : Bool :=
  decide (core < SMap.get zeroAt T.busy e) ||
  T.checker.any fun x => x.engine == e && !x.finished &&
    !(x.inst.mn = .mvRecv || x.inst.mn = .mvMrecv || (x.inst.mn = .mvSend && !x.admitted))

/-- Last progress of the engines when an instruction is issued to engine e: the interval of an engine that has no work begins; one that waits
behind other work is no progress (13 R344). -/
def Tiller.progAtIssue (T : Tiller) (e core t3 : Nat) : SMap Nat := if T.working core e then T.engProg else SMap.set zeroAt e t3 T.engProg

/-- s with an instruction issued to its engine: its entry, if it holds a claim, joins the checker, the engine is occupied, and
the stream goes on. -/
def State.launch (s : State) (t e : Nat) (i : Shoze) (vals : List Word) (upd : Entry → Entry) : State :=
  s.modT t fun T =>
    let x := upd (T.entryOf s.clk.core (T.stream e).pc i vals)
    let T := { T.occupy s.clk.core i with checker := if T.needsEntry s.clk.core i then T.checker ++ [x] else T.checker, engProg := T.progAtIssue (engineOf i.mn) s.clk.core s.t3 }
    T.goto e s.clk.core s.t3 ((T.stream e).pc + 1) 1

/-! ### Semaphores (03 R85, R86) -/

/-- Count of semaphore k that a WAIT sees in a cycle: increments of earlier cycles (03 R86). -/
def Tiller.semCount (T : Tiller) (k core : Nat) : Nat :=
  SMap.get zeroAt T.sems k + (T.semInc.filter fun p => p.1 == k && decide (p.2 < core)).length

/-- All increments of semaphore k, the ones not yet visible included. -/
def Tiller.semTotal (T : Tiller) (k : Nat) : Nat := SMap.get zeroAt T.sems k + (T.semInc.filter fun p => p.1 == k).length

/-- s with semaphore k of Tiller t incremented in this cycle; beyond 255 the Tiller faults with SEM_OVERFLOW (03 R86). -/
def State.signalSem (s : State) (t engine index k : Nat) : State :=
  if (s.tl t).semTotal k < 255 then s.modT t fun T => { T with semInc := T.semInc ++ [(k, s.clk.core)] }
  else s.hazard t engine index { cause := 11 }

/-- T with the visible increments of a cycle folded into the counts. -/
def Tiller.foldSems (T : Tiller) (core : Nat) : Tiller :=
  { T with
    sems := (T.semInc.filter fun p => decide (p.2 < core)).foldl (fun m p => SMap.set zeroAt p.1 (SMap.get zeroAt m p.1 + 1) m) T.sems
    semInc := T.semInc.filter fun p => !decide (p.2 < core) }

/-- T with semaphore k decremented. -/
def Tiller.takeSem (T : Tiller) (k core : Nat) : Tiller :=
  let T := T.foldSems core
  { T with sems := SMap.set zeroAt k (SMap.get zeroAt T.sems k - 1) T.sems }

/-- The checker without the claims of the oldest async instruction naming semaphore k whose claims are in force: dropped if it
has completed, else kept until it does (03 R85). -/
def releaseClaim (k : Nat) : List Entry → List Entry
  | [] => []
  | x :: t =>
    if x.async && x.inst.sem.toNat == k && !x.waited then
      if x.finished && x.signalled then t else { x with waited := true } :: t
    else x :: releaseClaim k t

/-- The async instruction that a WAIT on semaphore k waits for: the oldest one naming it whose claims are in force (03 R85). -/
def Tiller.waitedFor (T : Tiller) (k : Nat) : Option Entry :=
  T.checker.find? fun x => x.async && x.inst.sem.toNat == k && !x.waited

/-- Additions that each TR_MAP of a split row's sum does, for q partials: two each, a single one last (04 R115, log 72). -/
def sumAdds (q : Nat) : List Nat := List.replicate ((q - 1) / 2) 2 ++ List.replicate ((q - 1) % 2) 1

/-- Rows of output tile row I, within M. -/
def tileRowSpan (M I : Nat) : Nat := min 16 (M - 16 * I)

/-- Occupancy and result latency of each TR_MAP that adds the partials of a split row of n elements (03 R83: ii and stages are its
additions). -/
def sumCosts (q n : Nat) : List (Nat × Nat) :=
  (sumAdds q).map fun a => (ceilDiv n 32 * a + 2, ceilDiv n 32 * a + 2 + 4 * a + 6)

/-- Words of the partials of a split row, and of the rows of D that their sum goes to. -/
def sumFeet (d : Desc) (p : Nat × Nat × Nat) : List (Nat × Nat) × List (Nat × Nat) :=
  ([(p.2.2 / 32, (p.2.2 + p.2.1 * (64 * d.rowElems) - 1) / 32)],
   (List.range (tileRowSpan d.rows p.1)).map fun r =>
     (d.rowStart [] (16 * p.1 + r) / 32, d.rowStart [] (16 * p.1 + r) / 32 + d.rowWords - 1))

/-- The additions that the translator appends after the WAIT on a balanced sparse form whose operand has split rows (04 R115), as one
entry of the Trellis from a cycle on; each TR_MAP of a row starts when the one before it has written (DEDUCED, log 72). -/
def Tiller.sumEntry (T : Tiller) (x : Entry) (core : Nat) : Option (Entry × List (Nat × Nat)) :=
  match T.img.copies.find? fun c => c.index == x.index with
  | none => none
  | some c =>
    if c.splits.isEmpty || x.engine != 1 then none
    else
      let d := x.inst.desc 2
      let costs := (c.splits.map fun p => sumCosts p.2.1 (tileRowSpan d.rows p.1 * d.rowElems)).flatten
      let feet := c.splits.map (sumFeet d)
      some ({ index := x.index, engine := 2, inst := x.inst, issue := core,
              done := core + costs.foldl (fun n p => n + p.2) 0,
              srcs := (feet.map (·.1)).flatten, dsts := (feet.map (·.2)).flatten }, costs)

/-- T with the additions of a split row started in a cycle, or once the Trellis accepts them: it is occupied by them, and stream e
goes on after the last is issued (04 R115). -/
def Tiller.startSums (T : Tiller) (e core : Nat) (x : Option Entry) : Tiller :=
  let from0 := max core (SMap.get zeroAt T.busy 2)
  match x.bind fun x => T.sumEntry x from0 with
  | none => T
  | some (y, costs) =>
    let last := (costs.getLast?).getD (1, 1)
    let T := { T with checker := T.checker ++ [y], busy := SMap.set zeroAt 2 (y.done - last.2 + last.1) T.busy }
    T.modStream e fun S => { S with next := y.done - last.2 + 1 }

/-- T after stream e's WAIT on semaphore k retires in a cycle; additions that follow a balanced sparse form start in the next. -/
def Tiller.retireWait (T : Tiller) (e k core t3 : Nat) : Tiller :=
  let x := T.waitedFor k
  let T := T.takeSem k core
  let T := { T with checker := releaseClaim k T.checker }
  let T := T.modStream e fun S => { S with hold := .none, pc := S.pc + 1, next := core + 1, prog := t3 }
  T.startSums e (core + 1) x

/-- Stream e has the lowest engine number among the streams that wait on semaphore k beyond what the count satisfies (03 R86). -/
def Tiller.winsWait (T : Tiller) (e k core : Nat) : Bool :=
  decide (((List.range e).filter fun x => (T.stream x).on && decide ((T.stream x).hold = .wait k)).length < T.semCount k core)

/-- Entries of the checker whose completion signal is next to be delivered: finished, not yet signalled, and every earlier async
instruction naming the same semaphore has signalled (03 R85). -/
def dueSignals : List Nat → List Entry → List (Nat × Entry)
  | _, [] => []
  | blocked, x :: t =>
    if x.async && !x.signalled then
      let k := x.inst.sem.toNat
      if x.finished && !blocked.contains k then (k, x) :: dueSignals blocked t
      else dueSignals (k :: blocked) t
    else dueSignals blocked t

/-- s with the completion signals that are due delivered in program order; an entry that was waited for already leaves. -/
def State.deliver (s : State) (t : Nat) : State :=
  let due := dueSignals [] (s.tl t).checker
  let s := due.foldl (fun s p => s.signalSem t p.2.engine p.2.index p.1) s
  s.modT t fun T => { T with
    checker := (T.checker.map fun x => if due.any fun p => p.2 == x then { x with signalled := true } else x).filter
      fun x => !(x.async && x.finished && x.signalled && x.waited) }

/-- s with one async entry of Tiller t, named by its issue cycle and index, finished, and its signal delivered when it is due. -/
def State.finishAsync (s : State) (t : Nat) (x : Entry) : State :=
  (s.modT t fun T => { T with
    checker := T.checker.map fun y => if y == x then { y with finished := true } else y }).deliver t

/-! ### Idle engines -/

/-- Every engine is idle (03 R78, log 29). -/
def Tiller.idle (T : Tiller) (core : Nat) : Bool := [1, 2, 3, 4, 5].all (fun e => !T.working core e) && T.settled core &&
  T.checker.all (fun x => x.engine != 0)

end Sys2Proof.Machine
end

