-- ==== Sys2Proof/Machine/Trellis.lean ====
section
/-!
DEFINITION. The Trellis (04 R119 to R129): micro-programs and their checks, the catalogue of micro-operations, and what
TR_MAP, TR_CVT, TR_RED and TR_LDPROG write. Every element value is a code of FP32, FP64 or INT32.
-/

namespace Sys2Proof.Machine

/-! ### Micro-operations (04 R121 to R124) -/

/-- A micro-operation (04 R121). -/
structure MicroOp where
  /-- opcode -/
  op : Nat
  /-- stage -/
  stage : Nat
  /-- dtype: 0 FP32, 1 FP64, 2 INT32 -/
  dt : Nat
  /-- selector a -/
  a : Nat
  /-- selector b, or the format code of QUANT -/
  b : Nat
  /-- selector c -/
  c : Nat
  /-- rounding attribute -/
  rm : Nat
  /-- reserved bits -/
  resv : Nat
  deriving DecidableEq, Repr

/-- The fields of a micro-operation's word. -/
def microOp (w : Nat) : MicroOp :=
  { op := bits w 0 6, stage := bits w 6 3, dt := bits w 9 2, a := bits w 11 5, b := bits w 16 5, c := bits w 21 5,
    rm := bits w 26 3, resv := bits w 29 3 }

/-- The format of a dtype. -/
def dtFmt (dt : Nat) : Fmt := if dt = 0 then .fp32 else if dt = 1 then .fp64 else .int32

/-- The type that elements of a format are widened to (04 R119). -/
def widenedType (f : Fmt) : Nat := if f = .fp64 then 1 else if f.isInt then 2 else 0

/-- Types an opcode allows: bit 0 F, bit 1 D, bit 2 I; 0 for a reserved opcode (04 R123). -/
def opTypes (op : Nat) : Nat :=
  if op ≤ 3 then 7 else if op = 4 then 3 else if op ≤ 8 then 7 else if op ≤ 0xA then 3 else if op ≤ 0x13 then 1
  else if op ≤ 0x18 then 7 else if op = 0x19 then 3 else if op ≤ 0x1B then 7 else if op = 0x1C then 1
  else if op ≤ 0x22 then 4 else 0

/-- Number of selectors an opcode uses. -/
def opArity (op : Nat) : Nat :=
  if op = 4 || op = 0x1A then 3
  else if (1 ≤ op && op ≤ 3) || (7 ≤ op && op ≤ 9) || (0x14 ≤ op && op ≤ 0x18) || (0x1D ≤ op && op ≤ 0x22) then 2
  else 1

/-- The selectors a micro-operation uses. -/
def MicroOp.sels (o : MicroOp) : List Nat := [o.a, o.b, o.c].take (opArity o.op)

/-- The type of an operation's result: INT32 for a comparison or CLASS, else its dtype. -/
def MicroOp.rtype (o : MicroOp) : Nat := if 0x14 ≤ o.op && o.op ≤ 0x19 then 2 else o.dt

/-- The type a selector gives to operation o, as far as the program fixes it: none for an element source (04 R122, R124). -/
def selType (ops : List MicroOp) (o : MicroOp) (sel : Nat) : Option Nat :=
  if sel < 0x10 then (ops[sel]?).map MicroOp.rtype
  else if sel ≤ 0x12 then none
  else if sel = 0x13 then some 2
  else some o.dt

/-- A selector is one that operation number j may use (04 R120, R122). -/
def selOk (ops : List MicroOp) (j : Nat) (o : MicroOp) (sel : Nat) : Bool :=
  if sel < 0x10 then decide (sel < j) && (match ops[sel]? with | some p => decide (p.stage < o.stage) | none => false)
  else if sel ≤ 0x13 then true
  else if sel ≤ 0x19 then o.dt != 1 || sel % 2 == 0
  else sel ≤ 0x1D

/-- The type of a used selector, at place i, suits the operation: its dtype, but INT32 for a of SEL and any for CVT
(04 R124). A type known only at issue is checked then. -/
def typeOk (o : MicroOp) (i : Nat) (t : Option Nat) : Bool :=
  match t with
  | none => true
  | some t => o.op == 0x1B || (if o.op = 0x1A && i = 0 then t == 2 else t == o.dt)

/-- The rounding attribute is one the operation allows (04 R121). -/
def MicroOp.rmOk (o : MicroOp) : Bool :=
  if o.op = 0x1C then (match Fmt.ofCode o.b with | some f => rmAllowed f o.rm | none => false)
  else if o.op = 0x1B then rmAllowed (dtFmt o.dt) o.rm
  else if (1 ≤ o.op && o.op ≤ 4) || o.op = 9 || o.op = 0xA then (if o.dt = 2 then o.rm == 0 else decide (o.rm ≤ 4))
  else o.rm == 0

/-- Micro-operation j is valid under R121 to R123. -/
def microOpOk (ops : List MicroOp) (j : Nat) (o : MicroOp) : Bool :=
  o.resv == 0 && Nat.testBit (opTypes o.op) o.dt &&
  ((List.range o.sels.length).zip o.sels).all (fun p => selOk ops j o p.2 && typeOk o p.1 (selType ops o p.2)) &&
  (if o.op = 0x1C then ([2, 3, 4, 5, 6, 7, 9].contains o.b && o.c == 0) else ([o.a, o.b, o.c].drop (opArity o.op)).all (· == 0)) &&
  o.rmOk

/-- A CVT involves FP64 in the sums of R124. -/
def cvtWide (ops : List MicroOp) (o : MicroOp) : Bool :=
  o.dt == 1 || (0x10 ≤ o.a && o.a ≤ 0x12) || (match ops[o.a]? with | some p => o.a < 0x10 && p.dt == 1 | none => false)

/-- Pipeline (0 A, 1 F, 2 L) and cycles of a micro-operation (04 R123, R124). -/
def microCost (ops : List MicroOp) (o : MicroOp) : Nat × Nat :=
  if 1 ≤ o.op && o.op ≤ 4 then (if o.dt = 2 then (2, 1) else (0, if o.dt = 1 then 4 else 1))
  else if o.op = 9 || o.op = 0xA then (0, if o.dt = 1 then 32 else 4)
  else if 0xB ≤ o.op && o.op ≤ 0x10 then (1, 2)
  else if 0x11 ≤ o.op && o.op ≤ 0x13 then (1, 3)
  else if o.op = 0x1B then (2, if cvtWide ops o then 4 else 1)
  else (2, 1)

/-- Sum of a list. -/
def natSum (l : List Nat) : Nat := l.foldl (· + ·) 0

/-- The initiation interval of a program (04 R124). -/
def microIi (ops : List MicroOp) : Nat :=
  let cost (p : Nat) (sel : MicroOp → Bool) : Nat :=
    natSum (ops.map fun o => if sel o && (microCost ops o).1 == p then (microCost ops o).2 else 0)
  let stages := (List.range 8).map fun s => cost 2 fun o => o.stage == s
  (stages ++ [cost 0 fun _ => true, cost 1 fun _ => true]).foldl max 1

/-- One more than the highest stage used. -/
def microStages (ops : List MicroOp) : Nat := ops.foldl (fun m o => max m (o.stage + 1)) 0

/-- The micro-operations of a program's bytes. -/
def microOps (b : List Byte) : List MicroOp :=
  (List.range ((b.length - 32) / 4)).map fun j => microOp (fieldAt b (32 + 4 * j) 4)

/-- A QUANT that rounds stochastically. -/
def MicroOp.draws (o : MicroOp) : Bool := o.op == 0x1C && o.rm == 5

/-- Offset of the first byte at which a program's bytes break R124; none for a valid program. unseeded: DEV_MODE.deterministic
is 1 on a Tiller whose image carries no seed. -/
def progFault (b : List Byte) (unseeded : Bool) : Option Nat :=
  let n := fieldAt b 0 1
  let ops := microOps b
  if n = 0 || 16 < n || b.length ≠ 32 + 4 * n then some 0
  else if fieldAt b 1 1 ≠ microStages ops then some 1
  else if fieldAt b 2 1 ≠ microIi ops then some 2
  else if n ≤ fieldAt b 3 1 then some 3
  else if fieldAt b 4 4 ≠ 0 then some 4
  else
    (((List.range ops.length).zip ops).find? fun p => !microOpOk ops p.1 p.2 || (unseeded && p.2.draws)).map fun p => 32 + 4 * p.1

/-- The slot contents of a valid program. -/
def progOf (b : List Byte) : MicroProg :=
  { stages := fieldAt b 1 1, ii := fieldAt b 2 1, out := fieldAt b 3 1,
    ks := (List.range 6).map fun j => BitVec.ofNat 32 (fieldAt b (8 + 4 * j) 4),
    ops := (List.range ((b.length - 32) / 4)).map fun j => BitVec.ofNat 32 (fieldAt b (32 + 4 * j) 4) }

/-- The micro-operations of a slot. -/
def MicroProg.micro (P : MicroProg) : List MicroOp := P.ops.map fun w => microOp w.toNat

/-! ### Evaluation -/

/-- CLASS (04 R123). -/
def classOf (f : Fmt) (c : Nat) : Nat :=
  let s := if Nat.testBit c (f.width - 1) then 16 else 0
  match f.decode c with
  | .nan => 1 + s
  | .inf _ => 2 + s
  | .fin d => s + (if d.m = 0 then 4 else if c / 2 ^ f.mant % 2 ^ f.expo = 0 then 8 else 0)

/-- A finite value is an integer. -/
def Dy.isInt (d : Dy) : Bool := decide (0 ≤ d.e) || d.m % 2 ^ (-d.e).toNat == 0

/-- A positive finite value is a power of two. -/
def Dy.log2? (d : Dy) : Option Int :=
  if d.m ≠ 0 && !d.neg && d.m == 2 ^ Nat.log2 d.m then some ((Nat.log2 d.m : Int) + d.e) else none

/-- The FP32 functions (04 R126). -/
def fp32Func (op c : Nat) : Nat :=
  match Fmt.fp32.decode c with
  | .nan => nan32
  | .inf neg =>
    if op = 0xC then (if neg then nan32 else 0)
    else if op = 0xD || op = 0xE then (if neg then 0 else inf32)
    else if op = 0xF || op = 0x10 then (if neg then nan32 else inf32)
    else if op = 0x12 then (if neg then 0 else one32)
    else Fmt.fp32.signBit neg + one32
  | .fin d =>
    if op = 0xC then (if d.m = 0 then Fmt.fp32.signBit d.neg + inf32 else if d.neg then nan32 else freeFunction op c)
    else if op = 0xD then
      (if d.m = 0 then one32 else freeFunction op c)
    else if op = 0xE then
      (if d.m = 0 then one32
       else if !d.neg && !d.lt { neg := false, m := 128, e := 0 } then inf32
       else if d.isInt && !d.lt { neg := true, m := 149, e := 0 } then Fmt.fp32.round 0 0 (.fin { neg := false, m := 1, e := d.units (min d.e 0) / 2 ^ (-(min d.e 0)).toNat })
       else freeFunction op c)
    else if op = 0xF || op = 0x10 then
      (if d.m = 0 then Fmt.fp32.signBit true + inf32
       else if d.neg then nan32
       else match d.log2? with
         | some k => if k = 0 then 0 else if op = 0x10 then Fmt.fp32.round 0 0 (.fin (Dy.ofInt k)) else freeFunction op c
         | none => freeFunction op c)
    else if op = 0x11 || op = 0x13 then (if d.m = 0 then c else freeFunction op c)
    else freeFunction op c

/-- An INT32 operation, saturating (02 R61). -/
def intOp (f : Int → Int → Int) (a b : Nat) : Nat := ofSigned 32 (satInt 32 (f (toSigned 32 a) (toSigned 32 b)))

/-- The result of a micro-operation on its operands' codes; at is the type of operand a of a CVT, draw the draw of a stochastic
QUANT (04 R123). -/
def microResult (o : MicroOp) (ta draw a b c : Nat) : Nat :=
  let f := dtFmt o.dt
  let x := f.decode a
  let y := f.decode b
  let flag (t : Bool) : Nat := if t then 1 else 0
  if o.op = 0 then a
  else if o.op = 1 then (if o.dt = 2 then intOp (· + ·) a b else f.round o.rm 0 (Val.add o.rm x y))
  else if o.op = 2 then (if o.dt = 2 then intOp (· - ·) a b else f.round o.rm 0 (Val.add o.rm x y.negate))
  else if o.op = 3 then (if o.dt = 2 then intOp (· * ·) a b else f.round o.rm 0 (Val.mul x y))
  else if o.op = 4 then f.round o.rm 0 (Val.add o.rm (Val.mul x y) (f.decode c))
  else if o.op = 5 then (if o.dt = 2 then intOp (fun p _ => -p) a 0 else f.round 0 0 x.negate)
  else if o.op = 6 then (if o.dt = 2 then intOp (fun p _ => (p.natAbs : Int)) a 0 else f.round 0 0 x.abs)
  else if o.op = 7 then f.round 0 0 (Val.minR x y)
  else if o.op = 8 then f.round 0 0 (Val.maxR x y)
  else if o.op = 9 then f.round o.rm 0 (Val.div x y)
  else if o.op = 0xA then f.round o.rm 0 x.sqrt
  else if o.op = 0xB then f.round 0 0 (Val.div (.fin { neg := false, m := 1, e := 0 }) x)
  else if o.op ≤ 0x13 then fp32Func o.op a
  else if o.op = 0x14 then flag (x.ieeeEq y)
  else if o.op = 0x15 then flag (!x.ieeeEq y)
  else if o.op = 0x16 then flag (x.ieeeLt y)
  else if o.op = 0x17 then flag (x.ieeeLt y || x.ieeeEq y)
  else if o.op = 0x18 then flag (x.before y)
  else if o.op = 0x19 then classOf f a
  else if o.op = 0x1A then (if a ≠ 0 then b else c)
  else if o.op = 0x1B then f.round o.rm 0 ((dtFmt ta).decode a)
  else if o.op = 0x1C then
    (let q := (Fmt.ofCode o.b).getD .lb16
     Fmt.fp32.round 0 0 (q.decode (q.round o.rm draw x)))
  else if o.op = 0x1D then a &&& b
  else if o.op = 0x1E then a ||| b
  else if o.op = 0x1F then a ^^^ b
  else if o.op = 0x20 then a * 2 ^ (b % 32) % 2 ^ 32
  else if o.op = 0x21 then a / 2 ^ (b % 32)
  else ((BitVec.ofNat 32 a).sshiftRight (b % 32)).toNat

/-- What a program is run on: constants, scalars, the element index, the elements and the types they were widened to. -/
structure MicroEnv where
  /-- constants k0 to k5 -/
  ks : List (BitVec 32)
  /-- s[sa], s[sa+1] -/
  sa : BitVec 64
  /-- s[sb], s[sb+1] -/
  sb : BitVec 64
  /-- element index -/
  index : Nat
  /-- elements with the type of each -/
  elems : List (Nat × Nat)
  deriving DecidableEq, Repr

/-- The code a selector gives an operation of dtype dt (04 R122). -/
def MicroEnv.value (E : MicroEnv) (res : List Nat) (dt sel : Nat) : Nat :=
  let k (j : Nat) : Nat := ((E.ks.getD j 0#32)).toNat
  let pair (v : BitVec 64) : Nat := if dt = 1 then v.toNat else v.toNat % 2 ^ 32
  if sel < 0x10 then res.getD sel 0
  else if sel ≤ 0x12 then ((E.elems.getD (sel - 0x10) (0, 0)).1)
  else if sel = 0x13 then E.index % 2 ^ 32
  else if sel ≤ 0x19 then (if dt = 1 then k (sel - 0x14) + 2 ^ 32 * k (sel - 0x13) else k (sel - 0x14))
  else if sel = 0x1A then 0
  else if sel = 0x1B then (if dt = 0 then one32 else if dt = 1 then 0x3FF0000000000000 else 1)
  else if sel = 0x1C then pair E.sa
  else pair E.sb

/-- The type of operand a of a CVT (04 R124). -/
def MicroEnv.typeOf (E : MicroEnv) (ops : List MicroOp) (o : MicroOp) : Nat :=
  if 0x10 ≤ o.a && o.a ≤ 0x12 then (E.elems.getD (o.a - 0x10) (0, 0)).2 else (selType ops o o.a).getD o.dt

/-- The results of a program's operations in order, with the generator after its draws. -/
def MicroEnv.run (E : MicroEnv) (ops : List MicroOp) (gen : BitVec 32) : List Nat × BitVec 32 :=
  ops.foldl (fun (acc : List Nat × BitVec 32) o =>
    let g := if o.draws then xorshift acc.2 else acc.2
    (acc.1 ++ [microResult o (E.typeOf ops o) g.toNat (E.value acc.1 o.dt o.a) (E.value acc.1 o.dt o.b) (E.value acc.1 o.dt o.c)], g))
    ([], gen)

/-! ### Elements -/

/-- Element i of a source widened exactly, with its type (04 R119, 02 R59). -/
def Desc.widened (d : Desc) (m : Memory) (rows : List Nat) (i : Nat) : Nat × Nat :=
  let f := d.format
  let c := d.elem m rows i
  (if f = .fp64 then c else if f.isInt then ofSigned 32 (toSigned f.width c) else widen32 f (d.scaleOf m i) c, widenedType f)

/-- Index of the element a source gives to element i: its only one when its count is 1 (04 R127). -/
def Desc.pick (d : Desc) (i : Nat) : Nat := if d.count = 1#24 then 0 else i

/-- Element i is computed: every mask present has its bit set (04 R127). -/
def computed (ds : List Desc) (m : Memory) (i : Nat) : Bool := ds.all fun d => d.present m (d.pick i)

/-- The block of 32 elements of element i, by row. -/
def Desc.blockOf (d : Desc) (i : Nat) : Nat := d.scaleIndex i

/-- Elements of a block. -/
def Desc.blockElems (d : Desc) (k : Nat) : List Nat := (List.range d.count.toNat).filter fun i => d.blockOf i == k

/-- The destination written from computed values with their draws (04 R127): block scales chosen or taken, masked elements
kept. -/
def Desc.store (d : Desc) (m : Memory) (rows : List Nat) (rm : Nat) (choose : Bool) (vals : List (Nat × Val × Nat)) : Memory :=
  if d.scale then
    (List.range d.scaleBytes).foldl (fun (m : Memory) k =>
      let mine := vals.filter fun p => d.blockOf p.1 == k
      if mine.isEmpty then m
      else
        let pick := choose && decide (mine.length = (d.blockElems k).length)
        let e := if pick then chooseScale d.format (mine.map fun p => p.2.1) else (m.byte (d.aux.toNat + k)).toNat
        let m := if pick then m.write (d.aux.toNat + k) [BitVec.ofNat 8 e] else m
        mine.foldl (fun m p => d.setElem m rows p.1 (toScaled d.format rm p.2.2 e p.2.1)) m) m
  else vals.foldl (fun m p => d.setElem m rows p.1 (d.format.round rm p.2.2 p.2.1)) m

/-- Row addresses that descriptor k of an entry uses: those of the address stream, if it is the one. -/
def Entry.rowsOf (x : Entry) (k : Nat) : List Nat := if x.inst.ast && k = astIndex x.inst then x.rows else []

/-- Words that an entry's destinations are sure to be written whole in: those of a masked or compressed destination are not counted. -/
def Entry.written (x : Entry) : List Nat :=
  let i := x.inst
  (((List.range i.ds.length).zip (i.ds.zip (roles i.mn i.ds.length))).map fun p =>
    if p.2.2 = .dst && !p.2.1.mask && !p.2.1.sparse then p.2.1.wholeWords (x.rowsOf p.1) else []).flatten

/-- T with the words an entry writes whole correctable again (log 11). -/
def Tiller.healed (T : Tiller) (x : Entry) : Tiller :=
  if T.spUe.isEmpty then T
  else
    let ws := x.written
    { T with spUe := T.spUe.filter fun w => !ws.contains w }

/-- The computed elements of a map over n elements, in ascending order, with the draw of each conversion; f gives an element's
value from the generator it finds, with the generator it leaves. -/
def mapElems (n : Nat) (keep : Nat → Bool) (rm : Nat) (f : Nat → BitVec 32 → Val × BitVec 32) (gen : BitVec 32) :
    List (Nat × Val × Nat) × BitVec 32 :=
  (List.range n).foldl (fun (acc : List (Nat × Val × Nat) × BitVec 32) i =>
    if keep i then
      let r := f i acc.2
      let g := if rm = 5 then xorshift r.2 else r.2
      (acc.1 ++ [(i, r.1, g.toNat)], g)
    else acc) ([], gen)

/-- Scratchpad after a TR_MAP (04 R127). -/
def runMap (x : Entry) (m : Memory) : Memory :=
  let P := x.prog
  let i := x.inst
  let nd := i.ds.length
  let d := lastDesc i
  let srcs := (List.range (nd - 1)).zip (i.ds.take (nd - 1))
  let ops := P.micro
  let one (k : Nat) (g : BitVec 32) : Val × BitVec 32 :=
    let E : MicroEnv := { ks := P.ks, sa := x.sa, sb := x.sb, index := k,
                          elems := srcs.map fun p => p.2.widened m (x.rowsOf p.1) (p.2.pick k) }
    let r := E.run ops g
    let t := match ops[P.out]? with | some o => o.rtype | none => 0
    ((dtFmt t).decode (r.1.getD P.out 0), r.2)
  let vals := (mapElems d.count.toNat (computed i.ds m) i.rm.toNat one x.gen).1
  d.store m (x.rowsOf (nd - 1)) i.rm.toNat (i.ef.getLsbD 0) vals

/-- Scratchpad after a TR_CVT (04 R128). -/
def runCvt (x : Entry) (m : Memory) : Memory :=
  let i := x.inst
  let a := i.desc 0
  let d := i.desc 1
  let one (k : Nat) (g : BitVec 32) : Val × BitVec 32 :=
    let w := a.widened m (x.rowsOf 0) (a.pick k)
    ((dtFmt w.2).decode w.1, g)
  d.store m (x.rowsOf 1) i.rm.toNat (i.ef.getLsbD 0) (mapElems d.count.toNat (computed i.ds m) i.rm.toNat one x.gen).1

/-! ### Reductions (04 R129, 02 R64 to R67) -/

/-- First index that ARGMAX (op 4) or ARGMIN (op 5) selects among present values (02 R66). -/
def argIndex (op : Nat) (l : List (Nat × Val)) : Nat :=
  match l.find? fun p => p.2 = .nan with
  | some p => p.1
  | none =>
    match l with
    | [] => 0xFFFFFFFF
    | x :: t => (t.foldl (fun (b : Nat × Val) p => if (if op = 4 then b.2.before p.2 else p.2.before b.2) then p else b) x).1

/-- A value counts as nonzero for ANY: NaN does. -/
def Val.nonzero : Val → Bool
  | .fin d => d.m != 0
  | _ => true

/-- Reduction op over elements (none: absent), each a code of the accumulation format f: the result's code, and whether it is of
format f (else it is an unsigned index or count); none for the identity of an empty reduction. -/
def reduceCode (op : Nat) (f : Fmt) (l : List (Option Nat)) : Option Nat :=
  let ix := ((List.range l.length).zip l).filterMap fun p => p.2.map fun c => (p.1, f.decode c)
  if op = 6 then some ix.length
  else if op = 7 then some (if ix.any fun p => p.2.nonzero then 1 else 0)
  else if op = 4 || op = 5 then some (argIndex op ix)
  else treeReduce (combine f op) l

/-- The elements of a source from index lo, n of them, as accumulation codes; masked ones are absent. -/
def Desc.present? (d : Desc) (m : Memory) (rows : List Nat) (lo n : Nat) : List (Option Nat) :=
  (List.range n).map fun k => if d.present m (lo + k) then some (d.widened m rows (lo + k)).1 else none

/-- The code of a row's result in the destination format. -/
def rowResult (op rm draw : Nat) (f g : Fmt) (r : Option Nat) : Nat :=
  if op < 4 then
    match r with
    | some c => g.round rm draw (f.decode c)
    | none => identityOf g op
  else r.getD 0

/-- Scratchpad and scalar results of a TR_RED: summary words, in which a NaN is the canonical one (02 R57, R66), then the count with
ef[0]. -/
def runRed (x : Entry) (m : Memory) : Memory × List Word :=
  let i := x.inst
  let d := i.desc 0
  let op := i.imm.toNat % 16
  let f := accFmt d.format
  let all := d.present? m (x.rowsOf 0) 0 d.count.toNat
  let r := reduceCode op f all
  let c := if op < 4 then f.round 0 0 (f.decode (r.getD (identityOf f op))) else r.getD 0
  let words := if f = .fp64 && op < 4 then [BitVec.ofNat 32 c, BitVec.ofNat 32 (c / 2 ^ 32)] else [BitVec.ofNat 32 c]
  let words := if i.ef.getLsbD 0 then words ++ [BitVec.ofNat 32 (all.filter Option.isSome).length] else words
  let m' :=
    if i.ds.length = 2 then
      let n := d.rowElems
      ((List.range d.rows).foldl (fun (acc : Memory × BitVec 32) j =>
        let l := d.present? m (x.rowsOf 0) (j * n) (min n (d.count.toNat - j * n))
        let g := if i.rm = 5#3 && l.any Option.isSome then xorshift acc.2 else acc.2
        let v := reduceCode op f l
        ((i.desc 1).setElem acc.1 [] j (rowResult op i.rm.toNat g.toNat f (i.desc 1).format v), g)) (m, x.gen)).1
    else m
  (m', words)

/-! ### Draws (02 R53, R54) -/

/-- n advances of the generator. -/
def advance (g : BitVec 32) : Nat → BitVec 32
  | 0 => g
  | n + 1 => advance (xorshift g) n

/-- Draws an instruction takes, reserved at its issue. -/
def Tiller.draws (T : Tiller) (i : Shoze) : Nat :=
  let st : Nat := if i.rm = 5#3 then 1 else 0
  match i.mn with
  | .mm | .mmBs | .mmGs | .mmBgs => st * (i.desc 2).count.toNat
  | .trMap =>
    let q := ((SMap.get progAt T.progs (progIndex i)).micro.filter MicroOp.draws).length
    (st + q) * ((List.range (lastDesc i).count.toNat).filter (computed i.ds T.sp)).length
  | .trCvt => st * ((List.range (lastDesc i).count.toNat).filter (computed i.ds T.sp)).length
  | .trRed =>
    let d := i.desc 0
    let n := d.rowElems
    if i.ds.length = 2 then
      st * ((List.range d.rows).filter fun j => (List.range (min n (d.count.toNat - j * n))).any fun k => d.present T.sp (j * n + k)).length
    else 0
  | _ => 0

/-- s with an engine instruction issued: its entry and the draws it reserves. -/
def State.engine (s : State) (t e : Nat) (i : Shoze) (upd : Entry → Entry) : State :=
  (s.launch t e i [] upd).modT t fun T => { T with gen := advance T.gen ((s.tl t).draws i) }

/-! ### Issue -/

/-- A program and a TR_MAP do not fit (04 R125). -/
def mapMismatch (T : Tiller) (pc : Nat) (i : Shoze) : Bool :=
  let P := SMap.get progAt T.progs (progIndex i)
  let ops := P.micro
  let srcs := i.ds.take (i.ds.length - 1)
  let badSrc (o : MicroOp) : Bool := ((List.range o.sels.length).zip o.sels).any fun p =>
    (0x10 ≤ p.2 && p.2 ≤ 0x12) &&
    (match srcs[p.2 - 0x10]? with
      | none => true
      | some d => !typeOk o p.1 (some (widenedType d.format)))
  let badPair (o : MicroOp) : Bool := o.dt == 1 &&
    ((o.sels.contains 0x1C && i.sa == 31#5) || (o.sels.contains 0x1D && i.sb == 31#5))
  P.stages == 0 ||
  (match T.img.progs.find? fun r => r.1 == pc with | some r => r.2 != (P.stages, P.ii) | none => false) ||
  ops.any fun o => badSrc o || badPair o

/-- TR_MAP: compared with its slot at issue, then run by the Trellis (04 R125, R127). The record of a PROG_MISMATCH has the address all ones,
since the loaded program no longer has one (04 R112; DESIGN CHOICE, log 99). -/
def execTrMap (t e : Nat) (s : State) : Host.Outcome State Fault Refusal :=
  issueRow t e .trMap s fun i =>
    if mapMismatch (s.tl t) ((s.tl t).stream e).pc i then s.fmtViolation t 2 ((s.tl t).stream e).pc { reason := 7 }
    else s.engine t e i fun x => { x with prog := SMap.get progAt (s.tl t).progs (progIndex i) }
/-- TR_RED. -/
def execTrRed (t e : Nat) (s : State) : Host.Outcome State Fault Refusal := issueRow t e .trRed s fun i => s.engine t e i id
/-- TR_CVT. -/
def execTrCvt (t e : Nat) (s : State) : Host.Outcome State Fault Refusal := issueRow t e .trCvt s fun i => s.engine t e i id
/-- TR_LDPROG. -/
def execTrLdprog (t e : Nat) (s : State) : Host.Outcome State Fault Refusal := issueRow t e .trLdprog s fun i => s.engine t e i id

/-- The TR_LDPROG of a Tiller in its completion cycle or past it, not yet checked. -/
def Tiller.ldprog? (T : Tiller) (core : Nat) : Option Entry :=
  T.checker.find? fun x => x.inst.mn = .trLdprog && !x.finished && decide (x.done ≤ core + 1)

/-- TR_LDPROG_CHECK: in its completion cycle the program is checked and written into its slot, or the Tiller faults with
PROG_INVALID and the slot keeps its contents (04 R124). A program with an uncorrectable word, the one ecc names or one known, resets
the Trellis instead (01 R32, R34). -/
def execTrLdprogCheck (t : Nat) (ecc : Option Nat) (s : State) : Host.Outcome State Fault Refusal :=
  onUnit (t < 192) s
    (match (s.tl t).ldprog? s.clk.core with
      | none => s
      | some x =>
        let T := s.tl t
        match x.badWord T.spUe ecc with
        | some w => (s.dropEntry t x).eccOperand t 2 x.index w
        | none =>
        let d := x.inst.desc 0
        let b := (d.rowBytes T.sp (x.rowsOf 0)).take (4 * d.count.toNat)
        let mark (T : Tiller) : Tiller := { T with checker := T.checker.map fun y => if y = x then { y with finished := true } else y }
        match progFault b (s.dev.mode.getLsbD 0 && T.img.seed.isNone) with
        | some o => (s.modT t mark).fmtViolation t 2 x.index { reason := 6, addr := d.rowStart (x.rowsOf 0) 0 + o }
        | none => s.modT t fun T => { mark T with progs := SMap.set progAt (progIndex x.inst) (progOf b) T.progs })

end Sys2Proof.Machine
end

