-- ==== Sys2Proof/Machine/Harrow.lean ====
section
/-!
DEFINITION. The Harrow (04 R102 to R118): dense products, the sparse forms with their header checks, band walk and timing, row
balancing, and the rows that issue, fault and complete them.
-/

namespace Sys2Proof.Machine

/-! ### Cells (02 R62, R63) -/

/-- Element i of an operand with its scale byte; none where the scale is 0xFF (02 R63). -/
def Desc.term (d : Desc) (m : Memory) (rows : List Nat) (i : Nat) : Option Val :=
  let e := d.scaleOf m i
  if e = 0xFF then none else some (scaled e (d.format.decode (d.elem m rows i)))

/-- One step of a cell's accumulation, in FP32 or saturating INT32. -/
def accStep (int : Bool) (acc : Option Nat) (p : Val) : Option Nat :=
  if int then
    match acc with
    | none => some (Fmt.int32.round 0 0 p)
    | some a => some (combine .int32 0 a (Fmt.int32.round 0 0 p))
  else accFp32 acc p

/-- A cell over its terms in ascending k, from C's code when there is one; none when no term was added. -/
def cellSum (int : Bool) (c : Option Nat) (terms : List (Val × Option Val)) : Option Nat :=
  terms.foldl (fun acc p => match p.2 with | some b => accStep int acc (Val.mul p.1 b) | none => acc) c

/-- The accumulator's format. -/
def accOf (int : Bool) : Fmt := if int then .int32 else .fp32

/-- C's element widened exactly to the accumulator's format (04 R103). -/
def cInput (i : Shoze) (m : Memory) (int : Bool) (k : Nat) : Option Nat :=
  if i.ds.length = 4 then
    let c := i.desc 3
    some (if int then ofSigned 32 (toSigned c.format.width (c.elem m [] k)) else widen32 c.format 0x7F (c.elem m [] k))
  else none

/-- D's code of a cell, +0 when its accumulator is unset. -/
def cellCode (i : Shoze) (int : Bool) (draw : Nat) (acc : Option Nat) : Nat :=
  (i.desc 2).format.round i.rm.toNat draw ((accOf int).decode (acc.getD 0))

/-- D written cell by cell in row-major order: each cell's accumulator is computed from the scratchpad as the instruction found
it, and each written cell takes a draw under rm = 0b101 (04 R103). rows bounds the output rows written; kept says which of them. -/
def writeCells (x : Entry) (m : Memory) (int : Bool) (rows : Nat) (kept : Nat → Bool) (acc : Nat → Nat → Option Nat) : Memory :=
  let i := x.inst
  let d := i.desc 2
  let N := d.rowElems
  (((List.range (rows * N)).filter fun k => kept (k / N)).foldl (fun (st : Memory × BitVec 32) k =>
    let g := if i.rm = 5#3 then xorshift st.2 else st.2
    (d.setElem st.1 [] k (cellCode i int g.toNat (acc (k / N) (k % N))), g)) (m, x.gen)).1

/-- The column of B that meets a cell: element (k, j) with its scale. -/
def bTerm (i : Shoze) (m : Memory) (k j : Nat) : Option Val :=
  let b := i.desc 1
  b.term m [] (k * b.rowElems + j)

/-- Scratchpad after an MM (04 R102, R103). -/
def runMm (x : Entry) (m : Memory) : Memory :=
  let i := x.inst
  let a := i.desc 0
  let K := a.rowElems
  let int := a.format.isInt
  writeCells x m int a.rows (fun _ => true) fun r j =>
    cellSum int (cInput i m int (r * (i.desc 2).rowElems + j))
      ((List.range K).filterMap fun k => (a.term m (x.rowsOf 0) (r * K + k)).map fun v => (v, bTerm i m k j))

/-! ### Header checks (04 R105, R110) -/

/-- An address is aligned and its range inside the scratchpad. -/
def rangeBad (a n : Nat) : Bool := a % 32 != 0 || decide (0x200000 ≤ a) || !(byteSpan a n).all inPad

/-- First nonzero reserved byte of a header. -/
def resvOffset (b : List Byte) : Option Nat := [2, 3, 28, 29, 30, 31].find? fun o => b.getD o 0#8 != 0#8

/-- The addresses of a header that break its conditions: misaligned or outside the scratchpad, then overlapping. groupBytes
is the space the group fields or masks take. -/
def addressFault (h : SpHdr) (groupBytes : Nat) (clash : List (Int × Int)) : Option Nat :=
  let meets (a n : Nat) : Bool := (byteSpan a n).any fun f => clash.any fun g => overlaps f g
  if h.form ≠ 2 && rangeBad h.bitmap h.bitmapBytes then some 12
  else if h.form ≠ 1 && rangeBad h.groups groupBytes then some 16
  else if h.scale ≠ 0xFFFFFFFF && rangeBad h.scale h.scaleBytes then some 20
  else if h.form ≠ 2 && meets h.bitmap h.bitmapBytes then some 12
  else if h.form ≠ 1 && meets h.groups groupBytes then some 16
  else if h.scale ≠ 0xFFFFFFFF && meets h.scale h.scaleBytes then some 20
  else none

/-- The scale rule of R108 is broken. -/
def scaleRuleBad (h : SpHdr) (f : Fmt) : Bool :=
  match f with
  | .le2m1 | .le2m3 => h.scale == 0xFFFFFFFF || h.depth % 32 != 0
  | .le4m3 => false
  | _ => h.scale != 0xFFFFFFFF

/-- Offset of the header byte at which a compressed operand breaks the HEADER conditions of R110, in their order. A scale that a depth does not
allow is named at the scale, not at the depth (DESIGN CHOICE, log 99). -/
def headerFault (b : List Byte) (forms : List Nat) (rows depth : Nat) (f : Fmt) (cap : Nat) (clash : List (Int × Int)) : Option Nat :=
  let h := spHdr b
  if !forms.contains h.form then some 0
  else if (if h.grouped then !(h.n == 1 || h.n == 2 || h.n == 4) else h.n != 0) then some 1
  else match resvOffset b with
  | some o => some o
  | none =>
    if h.rows ≠ rows || h.rows = 0 || 0xFFFFFF < h.rows then some 4
    else if h.depth ≠ depth || h.depth = 0 || 0xFFFF < h.depth then some 8
    else match addressFault h h.groupBytes clash with
    | some o => some o
    | none =>
      if scaleRuleBad h f then some 20
      else if cap < h.perTile * h.tiles then some 24
      else if h.form = 2 && h.tiles ≠ h.tr * h.tc then some 24
      else none

/-- Forms each sparse instruction accepts (04 R104). -/
def formsOf : Mnem → List Nat
  | .mmBs => [1, 4]
  | .mmGs => [2]
  | .mmBgs => [3]
  | _ => []

/-- The header an aux_sparse descriptor names. -/
def Desc.header (d : Desc) (m : Memory) : List Byte := m.read d.aux.toNat 32

/-! ### The band walk (04 R110, R111) -/

/-- Tile (I, J) of a present tile's number. -/
def tileAt (h : SpHdr) (b : Nat) : Nat × Nat := (b / h.tc, b % h.tc)

/-- Positions named by a metadata field's slots below its count, in slot order. -/
def fieldSlots (f : Nat) : List Nat := (List.range (fieldCount f)).map (fieldPos f)

/-- A list rises strictly. -/
def rising : List Nat → Bool
  | a :: b :: t => decide (a < b) && rising (b :: t)
  | _ => true

/-- The reason a group's field breaks R110, if any. -/
def groupFault (h : SpHdr) (J g f : Nat) : Option Nat :=
  if h.n < fieldCount f then some 1
  else if (fieldSlots f).any fun q => decide (h.depth ≤ 16 * J + 8 * g + q) then some 2
  else if !rising (fieldSlots f) then some 3
  else none

/-- Present tiles with their number p, of one tile row. -/
def rowTiles (h : SpHdr) (tiles : List Nat) (I : Nat) : List (Nat × Nat) :=
  ((List.range tiles.length).zip tiles).filter fun p => (tileAt h p.2).1 == I

/-- First violation in a tile row. -/
def tileRowFault (h : SpHdr) (m : Memory) (tiles : List Nat) (I : Nat) : Option FmtViol :=
  (rowTiles h tiles I).findSome? fun p =>
    let J := (tileAt h p.2).2
    (List.range 32).findSome? fun k =>
      (groupFault h J (k % 2) (h.field m p.1 (k / 2) (k % 2))).map fun r =>
        { reason := r, form := h.form, row := I, col := J, group := k, addr := h.groups + (32 * p.1 + k) * h.fieldBytes }

/-- The TILES violation of a header: the bitmap's population differs from P. It names the bitmap's first byte, no one byte being at fault
(DESIGN CHOICE, log 99). -/
def tilesFault (h : SpHdr) (m : Memory) : Option FmtViol :=
  if (h.presentTiles m).length = h.tiles then none else some { reason := 4, form := h.form, addr := h.bitmap }

/-- First violation of an operand's bitmap and groups, with the band of two tile rows it lies in. -/
def bandFault (h : SpHdr) (m : Memory) : Option (Nat × FmtViol) :=
  match tilesFault h m with
  | some v => some (0, v)
  | none =>
    if h.grouped then
      (List.range h.tr).findSome? fun I => (tileRowFault h m (h.presentTiles m) I).map fun v => (I / 2, v)
    else none

/-! ### Sparse terms (04 R106 to R109) -/

/-- Terms of one present tile in one of its rows: depth and value element index. -/
def tileTerms (h : SpHdr) (m : Memory) (p b r : Nat) : List (Nat × Nat) :=
  let J := (tileAt h b).2
  if h.grouped then
    ([0, 1].map fun g =>
      let f := h.field m p r g
      ((List.range (fieldCount f)).map fun s => (16 * J + 8 * g + fieldPos f s, 32 * h.n * p + (2 * r + g) * h.n + s))).flatten
  else
    ((List.range 16).filter fun k => h.form == 1 || (m.byte (h.groups + 32 * p + (16 * r + k) / 8)).getLsbD ((16 * r + k) % 8)).map
      fun k => (16 * J + k, 256 * p + 16 * r + k)

/-- The value of a compressed element, none under a scale byte of 0xFF. -/
def sparseVal (h : SpHdr) (d : Desc) (m : Memory) (row k ix : Nat) : Option Val :=
  let e := h.scaleOf m row k
  if e = 0xFF then none else some (scaled e (d.format.decode (readBits m (8 * d.base.toNat + ix * d.format.width) d.format.width)))

/-- Terms of output row `row` over chosen present tiles (number p, bitmap bit b), in ascending k. -/
def rowTerms (h : SpHdr) (d : Desc) (m : Memory) (row : Nat) (tiles : List (Nat × Nat)) : List (Nat × Val) :=
  (tiles.map fun p => (tileTerms h m p.1 p.2 (row % 16)).filterMap fun q =>
    if q.1 < h.depth then (sparseVal h d m row q.1 q.2).map fun v => (q.1, v) else none).flatten

/-! ### Balancing (04 R114, R115) -/

/-- Most present tiles a work row keeps. -/
def balanceLimit (h : SpHdr) : Nat := max 1 (4 * h.tiles / max 1 h.tr)

/-- A list cut into chunks of n, n at least 1. -/
def chunkList {α : Type} (n : Nat) : Nat → List α → List (List α)
  | 0, _ => []
  | k + 1, l => if l.isEmpty then [] else l.take n :: chunkList n k (l.drop n)

/-- The chunks of a tile row: its present tiles whole, or cut at the limit. -/
def rowChunks (h : SpHdr) (tiles : List Nat) (bal : Bool) (I : Nat) : List (List (Nat × Nat)) :=
  let l := rowTiles h tiles I
  if bal && decide (balanceLimit h < l.length) then chunkList (balanceLimit h) l.length l else [l]

/-- Work rows of an operand: in tile-row order, or balanced (sorted by present tiles, descending, stable). -/
def workRows (h : SpHdr) (tiles : List Nat) (bal : Bool) : List (List (Nat × Nat)) :=
  let l := ((List.range h.tr).map (rowChunks h tiles bal)).flatten
  if bal then l.mergeSort fun a b => decide (b.length ≤ a.length) else l

/-- Cycles of a present tile (04 R113). -/
def tileCost (h : SpHdr) (f : Fmt) (b : Nat) : Nat :=
  let kv := min 16 (h.depth - 16 * (tileAt h b).2)
  if h.grouped then ceilDiv (kv * depthFactor2 f) 4 else ceilDiv (kv * depthFactor2 f) 2

/-- Cycles of each band of two work rows, for one column tile. -/
def bandCosts (h : SpHdr) (f : Fmt) : List (List (Nat × Nat)) → List Nat
  | a :: b :: t => max (natSum (a.map fun p => tileCost h f p.2)) (natSum (b.map fun p => tileCost h f p.2)) :: bandCosts h f t
  | [a] => [natSum (a.map fun p => tileCost h f p.2)]
  | [] => []

/-- Cycles of the bitmap count. -/
def bitmapCycles (h : SpHdr) : Nat := if h.form = 2 then 0 else ceilDiv (h.tr * h.tc) 256

/-- Cycles from issue until a number of bands is done (04 R113, without the last 36). -/
def bandsDone (h : SpHdr) (f : Fmt) (N : Nat) (tiles : List Nat) (bal : Bool) (bands : Nat) : Nat :=
  2 + bitmapCycles h + natSum (((bandCosts h f (workRows h tiles bal)).take bands).map fun c => ceilDiv N 32 * (c + 4))

/-! ### Rows of the sparse forms -/

/-- An instruction is balanced by the loader: a level-2 MM_BS or MM_BGS with ef[0] = 1 (04 R114, R116). -/
def balanced (level : Nat) (i : Shoze) : Bool := level == 2 && i.ef.getLsbD 0 && (i.mn = .mmBs || i.mn = .mmBgs)

/-- The balanced copy that the instruction at an index of a Tiller's program reads, if the loader made one (04 R114). -/
def Tiller.copyOf (T : Tiller) (index : Nat) : Option BalCopy := T.img.copies.find? fun c => c.index == index

/-- Row r of a balanced operand belongs to a split tile row. -/
def BalCopy.split (c : BalCopy) (r : Nat) : Option (Nat × Nat × Nat) := c.splits.find? fun p => p.1 == r / 16

/-- First byte of element (r, j) of partial k of a split row of rows of N elements: each partial is 16 rows of FP32, in whole words
(04 R114, log 34). -/
def partialAt (p : Nat × Nat × Nat) (N k r j : Nat) : Nat := p.2.2 + k * (64 * N) + 4 * (r % 16 * N + j)

/-- Code of a cell's FP32 partial: its accumulator, an INT32 one converted (04 R114). -/
def partialCode (int : Bool) (acc : Option Nat) : Nat := Fmt.fp32.round 0 0 ((accOf int).decode (acc.getD 0))

/-- Scratchpad after a sparse form has written its first output rows, and the FP32 partials of the rows that a balanced copy splits
(04 R109, R111, R114). -/
def runSparse (x : Entry) (c : Option BalCopy) (m : Memory) (rows : Nat) : Memory :=
  let i := x.inst
  let d := i.desc 0
  let N := (i.desc 2).rowElems
  let h := spHdr (d.header m)
  let int := d.format.isInt
  let tiles := h.presentTiles m
  let split (r : Nat) : Option (Nat × Nat × Nat) := c.bind (·.split r)
  let cell (a : Option Nat) (ch : List (Nat × Nat)) (r j : Nat) : Option Nat :=
    cellSum int a ((rowTerms h d m r ch).map fun p => (p.2, bTerm i m p.1 j))
  let whole := writeCells x m int rows (fun r => (split r).isNone) fun r j =>
    cell (cInput i m int (r * N + j)) (rowTiles h tiles (r / 16)) r j
  (List.range rows).foldl (fun (out : Memory) r =>
    match split r with
    | none => out
    | some p =>
      let chunks := rowChunks h tiles true (r / 16)
      ((List.range chunks.length).zip chunks).foldl (fun (out : Memory) q =>
        (List.range N).foldl (fun (out : Memory) j =>
          out.write (partialAt p N q.1 r j)
            (toLE 4 (partialCode int (cell (if q.1 = 0 then cInput i m int (r * N + j) else none) q.2 r j)))) out) out) whole

/-- Scratchpad after the additions that follow a balanced sparse form: each split row's partials are added in chunk order in FP32 and
converted once into D's format under the form's rm (04 R115). -/
def runSums (x : Entry) (c : BalCopy) (m : Memory) : Memory :=
  let i := x.inst
  let d := i.desc 2
  let N := d.rowElems
  c.splits.foldl (fun (m : Memory) p =>
    (List.range (tileRowSpan d.rows p.1 * N)).foldl (fun (m : Memory) k =>
      let one (q : Nat) : Nat := leNat (m.read (partialAt p N q (k / N) (k % N)) 4)
      let sum := (List.range (p.2.1 - 1)).foldl (fun a q => combine .fp32 0 a (one (q + 1))) (one 0)
      d.setElem m [] (16 * p.1 * N + k) (d.format.round i.rm.toNat 0 (Fmt.fp32.decode sum))) m) m

/-- The header condition a sparse form breaks at issue. -/
def Tiller.sparseHeader (T : Tiller) (i : Shoze) : Option Nat :=
  let d := i.desc 0
  let out := (i.desc 2).footprint (i.desc 2).base.toNat ++ (if i.ds.length = 4 then (i.desc 3).footprint (i.desc 3).base.toNat else [])
  headerFault (d.header T.sp) (formsOf i.mn) (i.desc 2).rows (i.desc 1).rows d.format d.count.toNat out

/-- s with a sparse form issued: the header read and checked in the issue cycle, its ranges joining the footprints from the next
(04 R101). -/
def State.issueSparse (s : State) (t e : Nat) (i : Shoze) : State :=
  let T := s.tl t
  let i' := T.resolve i
  let b := (i'.desc 0).header T.sp
  match T.sparseHeader i' with
  | some o => s.fmtViolation t 1 (T.stream e).pc { reason := 5, form := fieldAt b 0 1, addr := (i'.desc 0).aux.toNat + o }
  | none => s.engine t e i fun x => { x with headSrcs := natFeet (spHdr b).feet }

/-- MM: the dense product (04 R102). -/
def execMm (t e : Nat) (s : State) : Host.Outcome State Fault Refusal := issueRow t e .mm s fun i => s.engine t e i id
/-- MM_BS. -/
def execMmBs (t e : Nat) (s : State) : Host.Outcome State Fault Refusal := issueRow t e .mmBs s (s.issueSparse t e)
/-- MM_GS. -/
def execMmGs (t e : Nat) (s : State) : Host.Outcome State Fault Refusal := issueRow t e .mmGs s (s.issueSparse t e)
/-- MM_BGS. -/
def execMmBgs (t e : Nat) (s : State) : Host.Outcome State Fault Refusal := issueRow t e .mmBgs s (s.issueSparse t e)

/-- The sparse form a Tiller's Harrow runs. -/
def Tiller.sparse? (T : Tiller) : Option Entry := T.checker.find? fun x => x.engine == 1 && isSparseMm x.inst.mn && !x.finished

/-- The Harrow of a Tiller may go on: powered, and neither it nor the whole Tiller is being reset. -/
def Tiller.mayComplete (T : Tiller) (e : Nat) : Bool :=
  decide (T.run ≠ .free) && (match T.reset with | some r => !(r.engines.contains e || r.engines.contains 7) | none => true)

/-- The violation a sparse form meets, with the cycle from which it may be reported: once the bands before it are written. -/
def State.sparseFault (s : State) (t : Nat) (x : Entry) : Option (Nat × FmtViol) :=
  let T := s.tl t
  let d := x.inst.desc 0
  let h := spHdr (d.header T.sp)
  (bandFault h T.sp).map fun p =>
    (x.issue + bandsDone h d.format (x.inst.desc 1).rowElems (h.presentTiles T.sp) (T.copyOf x.index).isSome p.1,
     { p.2 with written := min h.rows (32 * p.1) })

/-- SPARSE_BAND_FAULT: the band walk finds a violation; earlier bands are written and the Tiller faults (04 R111). -/
def execSparseBandFault (t : Nat) (s : State) : Host.Outcome State Fault Refusal :=
  onUnit (t < 192) s
    (match (s.tl t).sparse? with
      | none => s
      | some x =>
        match s.sparseFault t x with
        | none => s
        | some (c, v) =>
          if (s.tl t).mayComplete 1 && decide (c ≤ s.clk.core) then
            (s.modT t fun T => { T with
              sp := runSparse x (T.copyOf x.index) T.sp v.written
              checker := T.checker.filter fun y => y != x }).fmtViolation t 1 x.index v
          else s)

/-- Cycle in which a sparse form's semaphore is signalled (04 R113). -/
def State.sparseEnd (s : State) (t : Nat) (x : Entry) : Nat :=
  let T := s.tl t
  let h := spHdr ((x.inst.desc 0).header T.sp)
  x.issue + bandsDone h (x.inst.desc 0).format (x.inst.desc 1).rowElems (h.presentTiles T.sp) (T.copyOf x.index).isSome (h.tr + h.tiles) + 36

/-- SPARSE_MM_COMPLETE: the form has written D; its semaphore is signalled (04 R113). An uncorrectable operand word resets the
Harrow instead (01 R32). -/
def execSparseMmComplete (t : Nat) (ecc : Option Nat) (s : State) : Host.Outcome State Fault Refusal :=
  onUnit (t < 192) s
    (match (s.tl t).sparse? with
      | none => s
      | some x =>
        let T := s.tl t
        if T.mayComplete 1 && (s.sparseFault t x).isNone && decide (s.sparseEnd t x ≤ s.clk.core) then
          match x.badWord T.spUe ecc with
          | some w => (s.modT t fun T => { T with checker := T.checker.filter fun y => y != x }).eccOperand t 1 x.index w
          | none =>
            (s.modT t fun T => { T.healed x with
              sp := runSparse x (T.copyOf x.index) T.sp (x.inst.desc 2).rows
              engProg := SMap.set zeroAt 1 s.t3 T.engProg }).finishAsync t x
        else s)

end Sys2Proof.Machine
end

