-- ==== Sys2Proof/Machine/Mover.lean ====
section
/-!
DEFINITION. The Mover (03 R78, R79, R92 to R94; 06 R202; 01 R20, R29): local copies, the tile mesh, device accesses, and
packets sent and received.
-/

namespace Sys2Proof.Machine

/-- A Mover instruction's words, row by row, as bytes. -/
def Entry.words (x : Entry) (T : Tiller) : List Byte := (x.inst.desc 0).rowBytes T.sp (x.rowsOf 0)

/-- An entry has taken every row address it needs from the address stream (03 R88). -/
def Entry.allFed (x : Entry) : Bool := !x.inst.ast || decide (astRows x.inst ≤ x.rows.length)

/-- T with whole words of a descriptor's rows written; words written are correctable again. -/
def Tiller.putWords (T : Tiller) (d : Desc) (rows : List Nat) (b : List Byte) : Tiller :=
  let ws := ((List.range d.rows).map fun j => wordsOf (d.rowStart rows j) (32 * d.rowWords)).flatten
  { T with sp := d.putBytes T.sp rows b, spUe := T.spUe.filter fun w => !ws.contains w }

/-- Entry k of a Tiller's checker, if it is of a mnemonic and unfinished, on a Mover that may go on. -/
def State.moverEntry (s : State) (t k : Nat) (mn : Mnem) : Option Entry :=
  if (s.tl t).mayComplete 4 then ((s.tl t).checker[k]?).filter fun x => x.inst.mn = mn && !x.finished && x.allFed else none

/-- s with an entry of Tiller t replaced. -/
def State.setEntry (s : State) (t : Nat) (x y : Entry) : State :=
  s.modT t fun T => { T with checker := T.checker.map fun z => if z = x then y else z }

/-- s with a Mover progress event of Tiller t noted. -/
def State.moverProgress (s : State) (t : Nat) : State := s.modT t fun T => { T with engProg := SMap.set zeroAt 4 s.t3 T.engProg }

/-- s with Tiller t faulted when address-stream entries are left over at the completion of an async Mover instruction (03 R88). -/
def State.astLeft (s : State) (t : Nat) (x : Entry) : State :=
  if x.inst.ast && !(SMap.get nilAt (s.tl t).fifos 4).isEmpty then s.hazard t 4 x.index { cause := 10 } else s

/-- MV_COPY: issue on the copy path. -/
def execMvCopy (t e : Nat) (s : State) : Host.Outcome State Fault Refusal := issueRow t e .mvCopy s fun i => s.engine t e i id

/-! ### The tile mesh -/

/-- Cycles of all hops between two Tillers (03 R92). -/
def meshHops (a b : Nat) : Nat :=
  let c := if a % 16 ≤ b % 16 then b % 16 - a % 16 else a % 16 - b % 16
  let lo := min (a / 16) (b / 16)
  let hi := max (a / 16) (b / 16)
  2 * c + (List.range (hi - lo)).foldl (fun n j => n + (if (lo + j) % 3 = 2 then 6 else 2)) 0

/-- Destination Tiller of an MV_MESH. -/
def meshDest (i : Shoze) : Nat := i.imm.toNat % 256

/-- Channel of an MV_MESH or MV_MRECV. -/
def meshChannel (i : Shoze) : Nat := i.imm.toNat / 256 % 16

/-- Bytes of a mesh transfer or of a claim. -/
def meshBytes (i : Shoze) : Nat := 32 * (i.desc 0).words

/-- MV_MESH: queued with the slot phase that the translator gave it (03 R93). -/
def execMvMesh (t e : Nat) (s : State) : Host.Outcome State Fault Refusal :=
  issueRow t e .mvMesh s fun i =>
    let T := s.tl t
    let pc := (T.stream e).pc
    (s.engine t e i fun x => { x with phase := ((T.img.phases.find? fun p => p.1 == pc).map (·.2)).getD 0 }).recordOut t
      ((T.resolve i).desc 0 |>.rowBytes T.sp [])

/-- MV_MRECV: a claim on a channel (03 R94). -/
def execMvMrecv (t e : Nat) (s : State) : Host.Outcome State Fault Refusal :=
  issueRow t e .mvMrecv s fun i => s.engine t e i fun x => { x with engine := 6 }

/-- MESH_SLOT_START: the first cycle after issue with the transfer's phase (03 R93). An uncorrectable source word faults the
sender's Mover instead (01 R32). -/
def execMeshSlotStart (t k : Nat) (ecc : Option Nat) (s : State) : Host.Outcome State Fault Refusal :=
  onUnit (t < 192) s
    (match s.moverEntry t k .mvMesh with
      | none => s
      | some x =>
        if x.started.isNone && decide (x.issue < s.clk.core) && s.clk.core % 256 == x.phase then
          match x.badWord (s.tl t).spUe ecc with
          | some w => (s.dropEntry t x).eccOperand t 4 x.index w
          | none => (s.setEntry t x { x with started := some s.clk.core }).moverProgress t
        else s)

/-- The first open claim of a Tiller on a channel. -/
def Tiller.openClaim (T : Tiller) (ch : Nat) : Option Entry :=
  T.checker.find? fun y => y.inst.mn = .mvMrecv && meshChannel y.inst == ch && !y.arrived

/-- MESH_ARRIVAL: the first word of a transfer of Tiller t reaches its destination and is matched with the oldest open claim of
its channel, or faults the destination with MESH_CLAIM (03 R94). A transfer of a shadow run is discarded, and so is one towards a Tiller
whose claims a teardown has cancelled (13 R363). The record of a fault with no open claim has the index all ones: 03 R91 names no instruction
for it (DESIGN CHOICE, log 99). -/
def execMeshArrival (t k : Nat) (s : State) : Host.Outcome State Fault Refusal :=
  onUnit (t < 192) s
    (match s.moverEntry t k .mvMesh with
      | none => s
      | some x =>
        match x.started with
        | none => s
        | some c =>
          let d := meshDest x.inst
          if !x.arrived && decide (c + meshHops t d + 2 ≤ s.clk.core) then
            if s.isShadow t then s.setEntry t x { x with arrived := true }
            else match (s.tl d).openClaim (meshChannel x.inst) with
              | some y =>
                if meshBytes y.inst = meshBytes x.inst then
                  (s.setEntry t x { x with arrived := true, admitted := true }).modT d fun T =>
                    { T with checker := T.checker.map fun z => if z = y then { z with arrived := true, peer := some (t, x.issue) } else z }
                else (s.setEntry t x { x with arrived := true }).hazard d 6 y.index
                  { cause := 12, range := y.dsts.head?.map toInt2, otherEngine := 6, otherIndex := y.index }
              | none =>
                let s := s.setEntry t x { x with arrived := true }
                if (s.tl d).ctx.any (fun c => (s.ctx c).tear.isSome) then s else s.hazard d 6 0xFFFFFFFF { cause := 12 }
          else s)

/-- Cycle after the one by whose end the last word of a transfer is written (03 R92). -/
def meshEnd (t : Nat) (x : Entry) (c : Nat) : Nat := c + meshHops t (meshDest x.inst) + ceilDiv (meshBytes x.inst) 64 + 4

/-- MESH_TRANSFER_COMPLETE: the words are written into the claim, and both semaphores are signalled (03 R92). For a shadow run's
MV_MRECV the words come from the recorded inputs (13 R371). -/
def execMeshTransferComplete (t k : Nat) (s : State) : Host.Outcome State Fault Refusal :=
  onUnit (t < 192) s
    (match s.moverEntry t k .mvMesh with
      | some x =>
        match x.started with
        | none => s
        | some c =>
          if x.arrived && decide (meshEnd t x c ≤ s.clk.core) then
            let d := meshDest x.inst
            let bytes := x.words (s.tl t)
            let s := (s.moverProgress t).finishAsync t x
            if x.admitted then
              match (s.tl d).checker.find? fun y => y.inst.mn = .mvMrecv && y.peer == some (t, x.issue) && !y.finished with
              | none => s
              | some y => ((s.modT d fun T => T.putWords (y.inst.desc 0) [] bytes).recordIn d bytes).finishAsync d y
            else s
          else s
      | none =>
        match s.moverEntry t k .mvMrecv with
        | some y =>
          if s.isShadow t && !y.arrived then
            let r := s.serveIn (meshBytes y.inst)
            (r.2.modT t fun T => T.putWords (y.inst.desc 0) [] r.1).finishAsync t y
          else s
        | none => s)

/-! ### Device accesses -/

/-- Device address of an MV_GET or MV_PUT: s[sb][15:0] * 2^32 + s[sa], with bits [4:0] taken as 0 (03 R78). -/
def Entry.devAddr (x : Entry) : Nat := (x.sb.toNat % 65536 * 2 ^ 32 + x.sa.toNat % 2 ^ 32) / 32 * 32

/-- MV_GET. -/
def execMvGet (t e : Nat) (s : State) : Host.Outcome State Fault Refusal := issueRow t e .mvGet s fun i => s.engine t e i id

/-- MV_PUT. -/
def execMvPut (t e : Nat) (s : State) : Host.Outcome State Fault Refusal :=
  issueRow t e .mvPut s fun i =>
    (s.engine t e i id).recordOut t (if i.ast then [] else ((s.tl t).resolve i).desc 0 |>.rowBytes (s.tl t).sp [])

/-- s with a Mover access of an entry faulted; nothing of it moves (01 R29, R32). -/
def State.moverFault (s : State) (t : Nat) (x : Entry) (code a : Nat) : State :=
  (s.dropEntry t x).faultReset t code 4 (memDetail 2 4 x.index a)

/-- First uncorrectable word known in a range of device memory, scratchpads included. -/
def State.devUe (s : State) (a n : Nat) : Option Nat :=
  if isPad a then
    ((s.tl (padTiller a)).spUe.find? fun w => decide ((a - padBase) % 0x200000 / 32 ≤ w) && decide (32 * w < (a - padBase) % 0x200000 + n)).map
      fun w => padBase + padTiller a * 0x200000 + 32 * w
  else (s.knownUe a n).map (32 * ·)

/-- s with an uncorrectable word met by a Mover read counted in its memory. -/
def State.countUe (s : State) (a : Nat) : State := if isPad a then s else s.memUe a

/-- s with words read by a Mover: those of GDDR7 and the CXL tier with a single-bit error are corrected and counted. -/
def State.devCorrected (s : State) (a n : Nat) (found : List Nat) : State := if isPad a then s else s.corrected (wordsOf a n) found

/-- MV_GET_COMPLETE: the words arrive and the semaphore is signalled, those that ce names corrected (01 R33); or the access faults with NOT_PRESENT, or, on an
uncorrectable word, with ECC_UNCORRECTABLE (01 R29, R32). A shadow run is served from the recorded inputs. -/
def execMvGetComplete (t k : Nat) (ecc : Bool) (ce : List Nat) (s : State) : Host.Outcome State Fault Refusal :=
  onUnit (t < 192) s
    (match s.moverEntry t k .mvGet with
      | none => s
      | some x =>
        let d := x.inst.desc 0
        let a := x.devAddr
        if s.isShadow t then
          let r := s.serveIn (32 * d.words)
          ((r.2.modT t fun T => T.putWords d (x.rowsOf 0) r.1).finishAsync t x).astLeft t x
        else if !s.accessOk t a d.words then s.moverFault t x faultNotPresent a
        else match (if ecc then some a else s.devUe a (32 * d.words)) with
          | some w => (s.countUe w).moverFault t x faultEcc w
          | none =>
            let b := s.devRead a d.words
            (((((s.devCorrected a (32 * d.words) ce).modT t fun T => T.putWords d (x.rowsOf 0) b).recordIn t b).moverProgress t).finishAsync t x).astLeft t x)

/-- MV_PUT_COMPLETE: the words are written and the semaphore is signalled; or the access faults with NOT_PRESENT, or, on an
uncorrectable source word, with ECC_UNCORRECTABLE. A shadow run's words are discarded. -/
def execMvPutComplete (t k : Nat) (ecc : Bool) (s : State) : Host.Outcome State Fault Refusal :=
  onUnit (t < 192) s
    (match s.moverEntry t k .mvPut with
      | none => s
      | some x =>
        let d := x.inst.desc 0
        if s.isShadow t then
          ((s.recordOut t (if x.inst.ast then x.words (s.tl t) else [])).finishAsync t x).astLeft t x
        else match x.badWord (s.tl t).spUe (if ecc then x.srcs.head?.map (·.1) else none) with
          | some w => (s.dropEntry t x).eccOperand t 4 x.index w
          | none =>
            if !s.accessOk t x.devAddr d.words then s.moverFault t x faultNotPresent x.devAddr
            else
              ((((s.recordOut t (if x.inst.ast then x.words (s.tl t) else [])).devWrite x.devAddr (x.words (s.tl t))).moverProgress t).finishAsync
                t x).astLeft t x)

/-! ### Packets -/

/-- The packet of an MV_SEND: the header as the program wrote it, with the fields of 06 R180 at their initial values and length
from the payload (06 R202). -/
def sendBytes (h payload : List Byte) : List Byte :=
  let b (i : Nat) : Nat := (h.getD i 0#8).toNat
  let hops := (List.range 15).map fun j => (h.getD (17 + j) 0#8) &&& 0xBF#8
  [BitVec.ofNat 8 (b 0 / 16 * 16 + 1), BitVec.ofNat 8 (b 1 % 8), BitVec.ofNat 8 (b 2 / 4 * 4), h.getD 3 0#8] ++
  toLE 2 payload.length ++ slice h 6 10 ++ [BitVec.ofNat 8 (b 16 / 16 * 16)] ++ hops ++ List.replicate 16 0#8 ++ payload

/-- The packet of an MV_SEND; rows holds the header's address when it comes from the address stream. -/
def Shoze.sendPacket (i : Shoze) (m : Memory) (rows : List Nat) : List Byte :=
  sendBytes (m.read ((i.desc 0).rowStart rows 0) 48) ((i.desc 1).packedBytes m)

/-- MV_SEND: the packet is built and waits for port 37's class (06 R202). -/
def execMvSend (t e : Nat) (s : State) : Host.Outcome State Fault Refusal :=
  issueRow t e .mvSend s fun i =>
    let T := s.tl t
    let i' := T.resolve i
    let b := i'.sendPacket T.sp []
    ((s.engine t e i fun x => { x with data := b }).modT t fun T =>
      { T with sendQ := T.sendQ ++ [{ bytes := b, issue := some s.clk.core }] }).recordOut t b

/-- MV_RECV: a claim on the next packet of the receive queue. -/
def execMvRecv (t e : Nat) (s : State) : Host.Outcome State Fault Refusal := issueRow t e .mvRecv s fun i => s.engine t e i id

/-- s with the packet at the head of Tiller t's send queue taken off it. -/
def State.popSend (s : State) (t : Nat) : State := s.modT t fun T => { T with sendQ := T.sendQ.tail }

/-- The unfinished MV_SEND of an issue cycle. -/
def Tiller.sendEntry (T : Tiller) (c : Nat) : Option Entry := T.checker.find? fun x => x.inst.mn = .mvSend && x.issue == c && !x.finished

/-- MV_SEND_ADMIT: port 37's class, or the slot's reservation, admits the packet at the head of a Tiller's send queue. A packet of
a lane or service operation goes to its slice whole; an MV_SEND's is being handed over until MV_SEND_COMPLETE (06 R202). An uncorrectable
word of its header or payload, the one ecc names or one known, faults and resets the Mover instead (01 R32, R34). -/
def execMvSendAdmit (t : Nat) (ecc : Option Nat) (s : State) : Host.Outcome State Fault Refusal :=
  onUnit (t < 192) s
    (match (s.tl t).sendQ.head? with
      | none => s
      | some q =>
        if !(s.tl t).mayComplete 4 then s
        else match q.issue with
          | none =>
            match s.enter q.bytes 37 (some t) with
            | none => s
            | some (none, s') => s'.popSend t
            | some (some (p, i), s') => (s'.popSend t).enqueue i p
          | some c =>
            match (s.tl t).sendEntry c with
            | none => s.popSend t
            | some x =>
              if !x.allFed then s
              else if s.isShadow t then (s.popSend t).setEntry t x { x with admitted := true }
              else match x.badWord (s.tl t).spUe ecc with
              | some w => ((s.popSend t).dropEntry t x).eccOperand t 4 x.index w
              | none =>
              match s.enter (if x.inst.ast then x.inst.sendPacket (s.tl t).sp x.rows else q.bytes) 37 (some t) with
                | none => s
                | some (r, s') => ((s'.popSend t).setEntry t x { x with admitted := true, pkt := r.map (·.1) }).moverProgress t)

/-- s with the end of a watchdog exemption of Tiller t's control core noted (13 R345). -/
def State.exemptEnds (s : State) (t : Nat) : State := s.modT t fun T => { T with exemptEnd := s.t3 }

/-- MV_SEND_COMPLETE: the packet's last byte lies in the shared buffer; it joins its slice's decision queue and the semaphore is
signalled (06 R202). -/
def execMvSendComplete (t : Nat) (s : State) : Host.Outcome State Fault Refusal :=
  onUnit (t < 192) s
    (match (s.tl t).checker.find? fun x => x.inst.mn = .mvSend && x.admitted && !x.finished with
      | none => s
      | some x =>
        if !(s.tl t).mayComplete 4 then s
        else
          let s' := match x.pkt with
            | some p => (match s.sliceFor 37 t with | some i => s.enqueue i p | none => s)
            | none => s
          (((s'.moverProgress t).finishAsync t x).exemptEnds t).astLeft t x)

/-- Packets a receive queue holds (03 R79). -/
abbrev recvMax : Nat := 32

/-- RECEIVE_QUEUE_ARRIVAL: the oldest packet on its way to Tiller t crosses the die bridge into its receive queue; an
uncorrectable word, which ecc names, drops it, counted on port 37, with a DELIVERY_LOST where its header is correctable (01 R20, R32;
07 R221). -/
def execReceiveQueueArrival (t : Nat) (ecc : Option Nat) (s : State) : Host.Outcome State Fault Refusal :=
  onUnit (t < 192) s
    (match s.fab.transit.find? fun q => q.1 == t with
      | none => s
      | some q =>
        if recvMax ≤ (s.tl t).recvQ.length then s
        else
          let s := s.modFab fun b => { b with transit := b.transit.erase q }
          match ecc with
          | some w => if 2 ≤ w then (s.dropPkt q.2 37 dropEcc).deliveryLost q.2 37 dropEcc else s.dropPkt q.2 37 dropEcc
          | none => s.modT t fun T => { T with recvQ := T.recvQ ++ [{ q.2 with stamp := s.coreTime }] })

/-- The oldest claim of a Tiller on its receive queue that no packet has filled, which takes the next packet once its rows' addresses are
all known (03 R79, R88). -/
def Tiller.recvClaim (T : Tiller) : Option Entry := (T.checker.find? fun x => x.inst.mn = .mvRecv && !x.finished).filter (·.allFed)

/-- The bytes a packet of n bytes writes into a claim: whole words, the last one's unused bytes free (03 R79, log 32). -/
def claimBytes (b : List Byte) (free : Nat) : List Byte := b ++ toLE ((32 - b.length % 32) % 32) free

/-- T with a packet written into the words of a claim, in order. -/
def Tiller.putPacket (T : Tiller) (d : Desc) (rows : List Nat) (b : List Byte) : Tiller :=
  let per := 32 * d.rowWords
  let chunk (j : Nat) : List Byte := (b.drop (per * j)).take per
  { T with
    sp := (List.range d.rows).foldl (fun m j => m.write (d.rowStart rows j) (chunk j)) T.sp
    spUe := T.spUe.filter fun w => !(((List.range d.rows).map fun j => wordsOf (d.rowStart rows j) (chunk j).length).flatten.contains w) }

/-- MV_RECV_COMPLETE: the packet at the head of the receive queue is written into the oldest claim, its cells return, and the
claim's semaphore is signalled (03 R79). A collective packet comes here only after its slot's checks (05 R171). A shadow run takes its packets from the recorded inputs. -/
def execMvRecvComplete (t : Nat) (s : State) : Host.Outcome State Fault Refusal :=
  onUnit (t < 192) s
    (match (s.tl t).recvClaim with
      | none => s
      | some x =>
        if !(s.tl t).mayComplete 4 then s
        else if s.isShadow t then
          let r := s.serveIn s.nextPacketLen
          ((r.2.modT t fun T => T.putPacket (x.inst.desc 0) (x.rowsOf 0) (claimBytes r.1 s.freeNat)).drawn.finishAsync t x).exemptEnds t |>.astLeft t x
        else match (s.tl t).recvQ with
          | [] => s
          | p :: rest =>
            let s' := (s.release p).modT t fun T =>
              { (T.putPacket (x.inst.desc 0) (x.rowsOf 0) (claimBytes p.bytes s.freeNat)) with recvQ := rest }
            if p.kind = 1 && p.origin == 0 then s else (((((s'.recordIn t p.bytes).drawn).moverProgress t).finishAsync t x).exemptEnds t).astLeft t x)

end Sys2Proof.Machine
end

