-- ==== Sys2Proof/Machine/Scalar.lean ====
section
/-!
DEFINITION. The control core's instructions (03 R71, R78, R86, R88): classes 0x0, 0x1 and 0x7. A value with a result latency
above one is fixed at issue (an SPLD's at its completion) and lands at ENGINE_RESULT_COMPLETE.
-/

namespace Sys2Proof.Machine

/-! ### Class 0x1: arithmetic -/

/-- Signed quotient of DIV: all ones for a zero divisor; -2^31 / -1 gives -2^31 (03 R78). -/
def divWord (a b : Word) : Word := if b = 0#32 then BitVec.allOnes 32 else a.sdiv b

/-- Unsigned quotient of DIVU. -/
def divuWord (a b : Word) : Word := if b = 0#32 then BitVec.allOnes 32 else a.udiv b

/-- Signed remainder of REM: the dividend for a zero divisor; -2^31 rem -1 gives 0. -/
def remWord (a b : Word) : Word := if b = 0#32 then a else a.srem b

/-- Unsigned remainder of REMU. -/
def remuWord (a b : Word) : Word := if b = 0#32 then a else a.umod b

/-- High word of the unsigned product. -/
def mulhuWord (a b : Word) : Word := (a.setWidth 64 * b.setWidth 64).extractLsb' 32 32

/-- Shift amount: s[sb][4:0]. -/
def shAmt (b : Word) : Nat := b.toNat % 32

/-- A comparison's result word. -/
def boolWord (b : Bool) : Word := if b then 1#32 else 0#32

/-- s with a one-cycle register-register operation done. -/
def State.alu (s : State) (t e : Nat) (f : Word → Word → Word) (i : Shoze) : State :=
  s.retire t e fun T => T.setReg i.sd.toNat (f (T.reg i.sa.toNat) (T.reg i.sb.toNat))

/-- s with a register-register operation of longer latency issued. -/
def State.aluLate (s : State) (t e : Nat) (f : Word → Word → Word) (i : Shoze) : State :=
  s.launch t e i [f ((s.tl t).reg i.sa.toNat) ((s.tl t).reg i.sb.toNat)] id

/-- ADD: s[sd] = s[sa] + s[sb] (03 R78). -/
def execAdd (t e : Nat) (s : State) : Host.Outcome State Fault Refusal := issueRow t e .add s (s.alu t e (· + ·))
/-- SUB. -/
def execSub (t e : Nat) (s : State) : Host.Outcome State Fault Refusal := issueRow t e .sub s (s.alu t e (· - ·))
/-- AND. -/
def execAnd (t e : Nat) (s : State) : Host.Outcome State Fault Refusal := issueRow t e .and s (s.alu t e (· &&& ·))
/-- OR. -/
def execOr (t e : Nat) (s : State) : Host.Outcome State Fault Refusal := issueRow t e .or s (s.alu t e (· ||| ·))
/-- XOR. -/
def execXor (t e : Nat) (s : State) : Host.Outcome State Fault Refusal := issueRow t e .xor s (s.alu t e (· ^^^ ·))
/-- SHL by s[sb][4:0]. -/
def execShl (t e : Nat) (s : State) : Host.Outcome State Fault Refusal := issueRow t e .shl s (s.alu t e fun a b => a <<< shAmt b)
/-- SHR, logical. -/
def execShr (t e : Nat) (s : State) : Host.Outcome State Fault Refusal := issueRow t e .shr s (s.alu t e fun a b => a >>> shAmt b)
/-- SRA, arithmetic. -/
def execSra (t e : Nat) (s : State) : Host.Outcome State Fault Refusal := issueRow t e .sra s (s.alu t e fun a b => a.sshiftRight (shAmt b))
/-- SLT, signed. -/
def execSlt (t e : Nat) (s : State) : Host.Outcome State Fault Refusal := issueRow t e .slt s (s.alu t e fun a b => boolWord (a.slt b))
/-- SLTU, unsigned. -/
def execSltu (t e : Nat) (s : State) : Host.Outcome State Fault Refusal := issueRow t e .sltu s (s.alu t e fun a b => boolWord (a.ult b))
/-- MUL, low word. -/
def execMul (t e : Nat) (s : State) : Host.Outcome State Fault Refusal := issueRow t e .mul s (s.aluLate t e (· * ·))
/-- MULHU, high word of the unsigned product. -/
def execMulhu (t e : Nat) (s : State) : Host.Outcome State Fault Refusal := issueRow t e .mulhu s (s.aluLate t e mulhuWord)
/-- DIV. -/
def execDiv (t e : Nat) (s : State) : Host.Outcome State Fault Refusal := issueRow t e .div s (s.aluLate t e divWord)
/-- DIVU. -/
def execDivu (t e : Nat) (s : State) : Host.Outcome State Fault Refusal := issueRow t e .divu s (s.aluLate t e divuWord)
/-- REM. -/
def execRem (t e : Nat) (s : State) : Host.Outcome State Fault Refusal := issueRow t e .rem s (s.aluLate t e remWord)
/-- REMU. -/
def execRemu (t e : Nat) (s : State) : Host.Outcome State Fault Refusal := issueRow t e .remu s (s.aluLate t e remuWord)

/-- LI: s[sd] = imm, sign-extended. -/
def execLi (t e : Nat) (s : State) : Host.Outcome State Fault Refusal :=
  issueRow t e .li s fun i => s.retire t e fun T => T.setReg i.sd.toNat (i.imm.signExtend 32)
/-- LUI: s[sd][31:8] = imm, the rest 0. -/
def execLui (t e : Nat) (s : State) : Host.Outcome State Fault Refusal :=
  issueRow t e .lui s fun i => s.retire t e fun T => T.setReg i.sd.toNat (i.imm.setWidth 32 <<< 8)

/-! ### Class 0x1: memory -/

/-- n bytes of DMEM at an address, zero-extended. -/
def Tiller.dmemWord (T : Tiller) (a n : Nat) : Word := BitVec.ofNat 32 (leNat (T.dmem.read a n))

/-- s with a load of n bytes issued (03 R71, R83); its entry keeps the address, whose word is checked when it completes. -/
def State.loadD (s : State) (t e n : Nat) (i : Shoze) : State :=
  s.launch t e i [(s.tl t).dmemWord ((s.tl t).effAddr i) n] fun x => { x with rows := [(s.tl t).effAddr i] }

/-- s with a store of n bytes done. -/
def State.storeD (s : State) (t e n : Nat) (i : Shoze) : State :=
  s.retire t e fun T => { T with dmem := T.dmem.write (T.effAddr i) (toLE n (T.reg i.sb.toNat).toNat) }

/-- LD.B. -/
def execLdB (t e : Nat) (s : State) : Host.Outcome State Fault Refusal := issueRow t e .ldB s (s.loadD t e 1)
/-- LD.H. -/
def execLdH (t e : Nat) (s : State) : Host.Outcome State Fault Refusal := issueRow t e .ldH s (s.loadD t e 2)
/-- LD.W. -/
def execLdW (t e : Nat) (s : State) : Host.Outcome State Fault Refusal := issueRow t e .ldW s (s.loadD t e 4)
/-- ST.B. -/
def execStB (t e : Nat) (s : State) : Host.Outcome State Fault Refusal := issueRow t e .stB s (s.storeD t e 1)
/-- ST.H. -/
def execStH (t e : Nat) (s : State) : Host.Outcome State Fault Refusal := issueRow t e .stH s (s.storeD t e 2)
/-- ST.W. -/
def execStW (t e : Nat) (s : State) : Host.Outcome State Fault Refusal := issueRow t e .stW s (s.storeD t e 4)

/-- SPLD: its 32-byte word is claimed as a source; the value lands at its completion (03 R77, R83). -/
def execSpld (t e : Nat) (s : State) : Host.Outcome State Fault Refusal :=
  issueRow t e .spld s fun i => s.launch t e i [] fun x => { x with rows := [(s.tl t).effAddr i] }
/-- SPST: its 32-byte word is claimed as a destination; the value is written at its completion. -/
def execSpst (t e : Nat) (s : State) : Host.Outcome State Fault Refusal :=
  issueRow t e .spst s fun i => s.launch t e i [(s.tl t).reg i.sb.toNat] fun x => { x with rows := [(s.tl t).effAddr i] }

/-! ### Class 0x1: counters and the generator -/

/-- RDCYC: CORE_CLK cycles since CTX_START. -/
def execRdcyc (t e : Nat) (s : State) : Host.Outcome State Fault Refusal :=
  issueRow t e .rdcyc s fun i => s.retire t e fun T => T.setReg i.sd.toNat (BitVec.ofNat 32 (s.clk.core - T.startCyc))
/-- RDTIME: the core's copy of the time base, which lags the master by a free amount of at most 20 ns (01 R26, log 13). -/
def execRdtime (t e : Nat) (s : State) : Host.Outcome State Fault Refusal :=
  issueRow t e .rdtime s fun i => s.launch t e i [BitVec.ofNat 32 s.coreTime] id
/-- RDTILE: the Tiller's linear number. -/
def execRdtile (t e : Nat) (s : State) : Host.Outcome State Fault Refusal :=
  issueRow t e .rdtile s fun i => s.retire t e fun T => T.setReg i.sd.toNat (BitVec.ofNat 32 t)
/-- SEED: a seed of 0 stores 1 (02 R53). -/
def execSeed (t e : Nat) (s : State) : Host.Outcome State Fault Refusal :=
  issueRow t e .seed s fun i => s.retire t e fun T => { T with gen := let g := T.reg i.sa.toNat; if g = 0#32 then 1#32 else g }

/-! ### Class 0x0: control -/

/-- Index pc + imm of a jump. -/
def jumpTo (pc : Nat) (i : Shoze) : Nat := ((pc : Int) + i.imm.toInt).toNat

/-- NOP. -/
def execNop (t e : Nat) (s : State) : Host.Outcome State Fault Refusal := issueRow t e .nop s fun _ => s.retire t e id
/-- JMP: to index + imm, three cycles. -/
def execJmp (t e : Nat) (s : State) : Host.Outcome State Fault Refusal :=
  issueRow t e .jmp s fun i => s.modT t fun T => T.goto e s.clk.core s.t3 (jumpTo (T.stream e).pc i) 3

/-- s with a conditional branch done: three cycles when taken, one when not (03 R83). -/
def State.branch (s : State) (t e : Nat) (c : Word → Word → Bool) (i : Shoze) : State :=
  s.modT t fun T =>
    if c (T.reg i.sa.toNat) (T.reg i.sb.toNat) then T.goto e s.clk.core s.t3 (jumpTo (T.stream e).pc i) 3
    else T.goto e s.clk.core s.t3 ((T.stream e).pc + 1) 1

/-- BEQ. -/
def execBeq (t e : Nat) (s : State) : Host.Outcome State Fault Refusal := issueRow t e .beq s (s.branch t e (· == ·))
/-- BNE. -/
def execBne (t e : Nat) (s : State) : Host.Outcome State Fault Refusal := issueRow t e .bne s (s.branch t e (· != ·))
/-- BLT, signed. -/
def execBlt (t e : Nat) (s : State) : Host.Outcome State Fault Refusal := issueRow t e .blt s (s.branch t e BitVec.slt)
/-- BGE, signed. -/
def execBge (t e : Nat) (s : State) : Host.Outcome State Fault Refusal := issueRow t e .bge s (s.branch t e fun a b => !a.slt b)
/-- BLTU, unsigned. -/
def execBltu (t e : Nat) (s : State) : Host.Outcome State Fault Refusal := issueRow t e .bltu s (s.branch t e BitVec.ult)
/-- BGEU, unsigned. -/
def execBgeu (t e : Nat) (s : State) : Host.Outcome State Fault Refusal := issueRow t e .bgeu s (s.branch t e fun a b => !a.ult b)
/-- CALL: index + 1 is pushed. -/
def execCall (t e : Nat) (s : State) : Host.Outcome State Fault Refusal :=
  issueRow t e .call s fun i => s.modT t fun T =>
    { T.goto e s.clk.core s.t3 (jumpTo (T.stream e).pc i) 3 with rstack := ((T.stream e).pc + 1) :: T.rstack }
/-- RET: pops and jumps. -/
def execRet (t e : Nat) (s : State) : Host.Outcome State Fault Refusal :=
  issueRow t e .ret s fun _ => s.modT t fun T =>
    { T.goto e s.clk.core s.t3 (T.rstack.headD 0) 3 with rstack := T.rstack.tail }

/-- s with stream e of Tiller t holding. -/
def State.holdStream (s : State) (t e : Nat) (h : Hold) : State :=
  s.modT t fun T => T.modStream e fun S => { S with hold := h, next := s.clk.core + 1, prog := s.t3 }

/-- STEP_END issues and holds until every engine is idle. -/
def execStepEnd (t e : Nat) (s : State) : Host.Outcome State Fault Refusal := issueRow t e .stepEnd s fun _ => s.holdStream t e .stepEnd
/-- HALT issues and holds until every engine is idle. -/
def execHalt (t e : Nat) (s : State) : Host.Outcome State Fault Refusal := issueRow t e .halt s fun _ => s.holdStream t e .halt
/-- FENCE issues and holds until every engine is idle. -/
def execFence (t e : Nat) (s : State) : Host.Outcome State Fault Refusal := issueRow t e .fence s fun _ => s.holdStream t e .fence

/-- Stream e of Tiller t holds as said, on a running Tiller whose stream may act in this cycle. -/
def State.holding (s : State) (t e : Nat) (h : Hold) : Bool :=
  let T := s.tl t
  s.live && decide (T.run = .running) && T.reset.isNone && decide ((T.stream e).hold = h) && decide ((T.stream e).next ≤ s.clk.core)

/-- FENCE_RETIRE: a held FENCE retires once every engine is idle (03 R78). -/
def execFenceRetire (t e : Nat) (s : State) : Host.Outcome State Fault Refusal :=
  onUnit (t < 192 && e < 6) s
    (if s.holding t e .fence && (s.tl t).idle s.clk.core then
      s.modT t fun T => (T.goto e s.clk.core s.t3 ((T.stream e).pc + 1) 1).modStream e fun S => { S with hold := .none }
    else s)

/-! ### Class 0x7 -/

/-- SIGNAL: semaphore sem counts up from the next cycle (03 R86). -/
def execSignal (t e : Nat) (s : State) : Host.Outcome State Fault Refusal :=
  issueRow t e .signal s fun i =>
    if (s.tl t).semTotal i.sem.toNat < 255 then (s.signalSem t (streamEngine (s.tl t) e) ((s.tl t).stream e).pc i.sem.toNat).retire t e id
    else s.hazard t (streamEngine (s.tl t) e) ((s.tl t).stream e).pc { cause := 11 }

/-- WAIT: retires in this cycle on a nonzero semaphore, else holds its stream (03 R86). -/
def execWait (t e : Nat) (s : State) : Host.Outcome State Fault Refusal :=
  issueRow t e .wait s fun i =>
    let k := i.sem.toNat
    if (s.tl t).winsWait e k s.clk.core then s.modT t fun T => T.retireWait e k s.clk.core s.t3
    else s.holdStream t e (.wait k)

/-- WAIT_RETIRE: a held WAIT whose semaphore is nonzero, and whose engine number wins, retires (03 R85, R86). -/
def execWaitRetire (t e : Nat) (s : State) : Host.Outcome State Fault Refusal :=
  onUnit (t < 192 && e < 6) s
    (match ((s.tl t).stream e).hold with
      | .wait k =>
        if s.holding t e (.wait k) && (s.tl t).winsWait e k s.clk.core then s.modT t fun T => T.retireWait e k s.clk.core s.t3 else s
      | _ => s)

/-- ASPUSH: s[sa] joins the address-stream FIFO of engine imm[2:0]; a push to a full FIFO faults with ASTREAM_OVERRUN (03 R88),
whose record names the FIFO's engine and not the control core that pushed (DESIGN CHOICE, log 99). -/
def execAspush (t e : Nat) (s : State) : Host.Outcome State Fault Refusal :=
  issueRow t e .aspush s fun i =>
    let k := i.imm.toNat % 8
    let q := SMap.get nilAt (s.tl t).fifos k
    if 64 ≤ q.length then s.hazard t k ((s.tl t).stream e).pc { cause := 9 }
    else s.retire t e fun T => { T with fifos := SMap.set nilAt k (q ++ [T.reg i.sa.toNat]) T.fifos }

end Sys2Proof.Machine
end

