-- ==== Sys2Proof/Machine/Shears.lean ====
section
/-!
DEFINITION. Shears (04 R130 to R133): pruning a dense operand into group form, refreshing its values, and the transposed form 4
operand. Header conditions are checked at issue; a compressed source is checked in full before anything is written.
-/

namespace Sys2Proof.Machine

/-- A format's code is +0 or -0. -/
def isZeroCode (f : Fmt) (c : Nat) : Bool := match f.decode c with | .fin d => d.m == 0 | _ => false

/-- Element (row, k) of a dense source, present inside M x K and outside blocks of scale 0xFF. -/
def denseAt (a : Desc) (m : Memory) (row k : Nat) : Option Nat :=
  if row < a.rows && k < a.rowElems then
    if a.scaleOf m (row * a.rowElems + k) = 0xFF then none else some (a.elem m [] (row * a.rowElems + k))
  else none

/-- Element a of a group ranks before b: greater magnitude, then lower position (04 R131). -/
def ranksBefore (f : Fmt) (a b : Nat × Nat) : Bool :=
  let x := (f.decode a.2).abs
  let y := (f.decode b.2).abs
  y.before x || (!x.before y && decide (a.1 ≤ b.1))

/-- Positions kept in a group: the first n by rank, in ascending order (04 R131). -/
def keepGroup (a : Desc) (m : Memory) (n : Nat) (dropZero : Bool) (row base : Nat) : List Nat :=
  let f := a.format
  let l := (List.range 8).filterMap fun q => (denseAt a m row (base + q)).bind fun c => if dropZero && isZeroCode f c then none else some (q, c)
  (((l.mergeSort (ranksBefore f)).take n).map (·.1)).mergeSort (· ≤ ·)

/-- A group's metadata field: count and position codes. -/
def fieldOf (ps : List Nat) : Nat := ((List.range ps.length).zip ps).foldl (fun v p => v + p.2 * 2 ^ (3 + 3 * p.1)) ps.length

/-- Tile b of a dense source holds no element that may be kept: all +-0, or in blocks of scale 0xFF. -/
def tileEmpty (a : Desc) (m : Memory) (tc b : Nat) : Bool :=
  (List.range 256).all fun k =>
    match denseAt a m (16 * (b / tc) + k / 16) (16 * (b % tc) + k % 16) with
    | some c => isZeroCode a.format c
    | none => true

/-- A bitmap's bytes from the numbers of its set bits. -/
def bitmapBytesOf (n : Nat) (set : List Nat) : List Byte :=
  (List.range (ceilDiv n 8)).map fun j => BitVec.ofNat 8 (natSum ((List.range 8).map fun i => if set.contains (8 * j + i) then 2 ^ i else 0))

/-- The header SH_PRUNE leaves: its own fields, with the addresses it found. -/
def pruneHeader (i : Shoze) (old : SpHdr) (tiles : Nat) : SpHdr :=
  { old with form := if i.imm.getLsbD 4 then 3 else 2, n := i.imm.toNat % 8, rows := (i.desc 0).rows,
             depth := (i.desc 0).rowElems, tiles := tiles }

/-- The header whose conditions SH_PRUNE is checked under, with every tile counted. -/
def pruneBound (i : Shoze) (m : Memory) : SpHdr :=
  let h := pruneHeader i (spHdr ((i.desc 1).header m)) 0
  { h with tiles := h.tr * h.tc }

/-- Field of group k (row k / 2, half k mod 2) of present tile p, bitmap bit b, of a pruned operand. -/
def pruneField (a : Desc) (src : Memory) (h : SpHdr) (dropZero : Bool) (b k : Nat) : List Nat :=
  keepGroup a src h.n dropZero (16 * (b / h.tc) + k / 2) (16 * (b % h.tc) + 8 * (k % 2))

/-- The n values of a group of a pruned tile written, +0 in slots from count up. -/
def writeSlots (a d : Desc) (src : Memory) (h : SpHdr) (dropZero : Bool) (m : Memory) (p b k : Nat) : Memory :=
  let ps := pruneField a src h dropZero b k
  let w := d.format.width
  (List.range h.n).foldl (fun (m : Memory) s =>
    writeBits m (8 * d.base.toNat + (32 * h.n * p + k * h.n + s) * w) w
      (match ps[s]? with
        | some q => (denseAt a src (16 * (b / h.tc) + k / 2) (16 * (b % h.tc) + 8 * (k % 2) + q)).getD 0
        | none => 0)) m

/-- A header written back: form, n, rows, depth and tiles. -/
def writeHeader (m : Memory) (aux : Nat) (h : SpHdr) : Memory :=
  let m := m.write aux (toLE 1 h.form ++ toLE 1 h.n)
  let m := m.write (aux + 4) (toLE 4 h.rows ++ toLE 4 h.depth)
  m.write (aux + 24) (toLE 4 h.tiles)

/-- Scratchpad after an SH_PRUNE that chooses positions: header, bitmap, all group fields, then the values (04 R130, R131). -/
def runPrune (i : Shoze) (m : Memory) : Memory :=
  let a := i.desc 0
  let d := i.desc 1
  let h0 := pruneBound i m
  let all := List.range (h0.tr * h0.tc)
  let tiles := if h0.form = 3 then all.filter fun b => !tileEmpty a m h0.tc b else all
  let h := { h0 with tiles := tiles.length }
  let out := writeHeader m d.aux.toNat h
  let out := if h.form = 3 then out.write h.bitmap (bitmapBytesOf (h.tr * h.tc) tiles) else out
  let each (f : Memory → Nat → Nat → Nat → Memory) (m : Memory) : Memory :=
    ((List.range tiles.length).zip tiles).foldl (fun m p => (List.range 32).foldl (fun m k => f m p.1 p.2 k) m) m
  let out := each (fun m' p b k => m'.write (h.groups + (32 * p + k) * h.fieldBytes)
    (toLE h.fieldBytes (fieldOf (pruneField a m h (i.ef.getLsbD 0) b k)))) out
  let out := each (writeSlots a d m h (i.ef.getLsbD 0)) out
  if a.scale && h.scale ≠ a.aux.toNat then out.write h.scale (m.read a.aux.toNat a.scaleBytes) else out

/-- Scratchpad after an SH_PRUNE in apply mode: every held slot's value rewritten, +0 from a block of scale 0xFF (04 R132, 02 R48). -/
def runApply (i : Shoze) (m : Memory) : Memory :=
  let a := i.desc 0
  let d := i.desc 1
  let h := spHdr (d.header m)
  let tiles := h.presentTiles m
  let w := d.format.width
  ((List.range tiles.length).zip tiles).foldl (fun (out : Memory) p =>
    (List.range 32).foldl (fun out k =>
      let f := h.field m p.1 (k / 2) (k % 2)
      let row := 16 * (p.2 / h.tc) + k / 2
      (List.range (fieldCount f)).foldl (fun (out : Memory) s =>
        let dep := 16 * (p.2 % h.tc) + 8 * (k % 2) + fieldPos f s
        writeBits out (8 * d.base.toNat + (32 * h.n * p.1 + k * h.n + s) * w) w
          ((denseAt a m row dep).getD 0)) out) out) m

/-- The header SH_TMASK writes: form 4 of the transpose (04 R133). -/
def tmaskHeader (src dst : SpHdr) : SpHdr :=
  { dst with form := 4, n := 0, rows := src.depth, depth := src.rows, tiles := src.tiles }

/-- Kept elements of a present tile of a grouped operand: row and depth within the tile, and value element index. -/
def keptIn (h : SpHdr) (m : Memory) (p : Nat) : List (Nat × Nat × Nat) :=
  ((List.range 32).map fun k =>
    let f := h.field m p (k / 2) (k % 2)
    (List.range (fieldCount f)).map fun s => (k / 2, 8 * (k % 2) + fieldPos f s, 32 * h.n * p + k * h.n + s)).flatten

/-- Scratchpad after an SH_TMASK (04 R133). -/
def runTmask (i : Shoze) (m : Memory) : Memory :=
  let a := i.desc 0
  let d := i.desc 1
  let h := spHdr (a.header m)
  let o := tmaskHeader h (spHdr (d.header m))
  let w := d.format.width
  let src := (List.range (h.presentTiles m).length).zip (h.presentTiles m)
  let moved := (src.map fun p => ((p.2 % h.tc) * o.tc + p.2 / h.tc, p.1)).mergeSort fun x y => decide (x.1 ≤ y.1)
  let out := writeHeader m d.aux.toNat o
  let out := out.write o.bitmap (bitmapBytesOf (o.tr * o.tc) (moved.map (·.1)))
  ((List.range moved.length).zip moved).foldl (fun (out : Memory) q =>
    let kept := keptIn h m q.2.2
    let bitSet := kept.map fun e => 16 * e.2.1 + e.1
    let out := out.write (o.groups + 32 * q.1) (bitmapBytesOf 256 bitSet)
    (List.range 256).foldl (fun (out : Memory) k =>
      writeBits out (8 * d.base.toNat + (256 * q.1 + k) * w) w
        (match kept.find? fun e => 16 * e.2.1 + e.1 == k with
          | some e => readBits m (8 * a.base.toNat + e.2.2 * w) w
          | none => 0)) out) out

/-- Offset and address of the header byte at which an SH_PRUNE or SH_TMASK breaks the HEADER conditions at issue, with the form
byte as read (04 R110, R130, R132, R133). -/
def shearsHeader (i : Shoze) (m : Memory) : Option (Nat × Nat) :=
  let a := i.desc 0
  let d := i.desc 1
  let dForm := fieldAt (d.header m) 0 1
  let srcFeet := a.footprint a.base.toNat
  let dstFeet := d.footprint d.base.toNat ++ d.auxFootprint
  let here (d : Desc) (o : Option Nat) (form : Nat) : Option (Nat × Nat) := o.map fun o => (d.aux.toNat + o, form)
  if i.mn = .shPrune then
    if applyMode i then
      here d (headerFault (d.header m) [2, 3] a.rows a.rowElems d.format d.count.toNat (srcFeet ++ d.footprint d.base.toNat)) dForm
    else
      let h := pruneBound i m
      let scaleBad := scaleRuleBad h d.format || (a.scale && h.scale == 0xFFFFFFFF)
      match addressFault { h with scale := if h.scale = a.aux.toNat && a.scale then 0xFFFFFFFF else h.scale } h.groupBytes (srcFeet ++ a.auxFootprint) with
      | some o => here d (some o) dForm
      | none => if scaleBad then here d (some 20) dForm else none
  else
    let h := spHdr (a.header m)
    let srcBad := match headerFault (a.header m) [2, 3] h.rows h.depth a.format a.count.toNat dstFeet with
      | some o => some o
      | none => if h.scale ≠ 0xFFFFFFFF then some 20 else none
    match srcBad with
    | some o => here a (some o) h.form
    | none =>
      let o := tmaskHeader h (spHdr (d.header m))
      if 0xFFFF < h.rows then here a (some 4) h.form
      else if d.count.toNat ≠ 256 * h.tr * h.tc then here a (some 4) h.form
      else match addressFault o (32 * o.tiles) (srcFeet ++ a.auxFootprint ++ h.feet) with
        | some k => here d (some k) dForm
        | none => if scaleRuleBad o d.format then here d (some 20) dForm else none

/-- Ranges that a Shears instruction's headers name: of its compressed source, and of its compressed destination, apply mode's too
(04 R101). -/
def shearsFeet (i : Shoze) (m : Memory) : List (Int × Int) × List (Int × Int) :=
  if i.mn = .shPrune then
    if applyMode i then ([], (spHdr ((i.desc 1).header m)).feet) else ([], (pruneBound i m).feet)
  else ((spHdr ((i.desc 0).header m)).feet, (tmaskHeader (spHdr ((i.desc 0).header m)) (spHdr ((i.desc 1).header m))).feet)

/-- s with a Shears instruction issued after its header check. -/
def State.issueShears (s : State) (t e : Nat) (i : Shoze) : State :=
  let T := s.tl t
  let i' := T.resolve i
  match shearsHeader i' T.sp with
  | some p => s.fmtViolation t 3 (T.stream e).pc { reason := 5, form := p.2, addr := p.1 }
  | none =>
    s.engine t e i fun x =>
      { x with headSrcs := natFeet (shearsFeet i' T.sp).1, headDsts := natFeet (shearsFeet i' T.sp).2 }

/-- SH_PRUNE. -/
def execShPrune (t e : Nat) (s : State) : Host.Outcome State Fault Refusal := issueRow t e .shPrune s (s.issueShears t e)
/-- SH_TMASK. -/
def execShTmask (t e : Nat) (s : State) : Host.Outcome State Fault Refusal := issueRow t e .shTmask s (s.issueShears t e)

/-- The violation in a compressed operand that a Shears instruction reads, found before anything is written (04 R111). -/
def shearsFault (i : Shoze) (m : Memory) : Option FmtViol :=
  if i.mn = .shTmask then (bandFault (spHdr ((i.desc 0).header m)) m).map (·.2)
  else if applyMode i then (bandFault (spHdr ((i.desc 1).header m)) m).map (·.2)
  else none

/-- Scratchpad after a Shears instruction. -/
def runShears (i : Shoze) (m : Memory) : Memory :=
  if i.mn = .shTmask then runTmask i m else if applyMode i then runApply i m else runPrune i m

end Sys2Proof.Machine
end

