-- ==== Sys2Proof/Machine/Complete.lean ====
section
/-!
DEFINITION. Completion of synchronous instructions (03 R82): what lands at the result latency, for the control core's scalars and
for every engine, and the address-stream port (03 R88).
-/

namespace Sys2Proof.Machine

/-- T with an entry's scalar results written to s[sd] and the registers after it, as far as they are still pending. -/
def Tiller.land (T : Tiller) (x : Entry) (vals : List Word) : Tiller :=
  ((List.range vals.length).zip vals).foldl (fun T p =>
    if x.regs.contains (x.inst.sd.toNat + p.1) then T.setReg (x.inst.sd.toNat + p.1) p.2 else T) T

/-- T with what an entry computes written. -/
def Tiller.effect (T : Tiller) (x : Entry) : Tiller :=
  let i := x.inst
  match i.mn with
  | .mm => { T with sp := runMm x T.sp }
  | .mmBs | .mmBgs => { T with sp := match T.copyOf x.index with | some c => runSums x c T.sp | none => T.sp }
  | .trMap => { T with sp := runMap x T.sp }
  | .trCvt => { T with sp := runCvt x T.sp }
  | .trRed =>
    let r := runRed x T.sp
    { (T.land x r.2) with sp := r.1 }
  | .shPrune | .shTmask => { T with sp := runShears i T.sp }
  | .mvCopy => T.putWords (i.desc 1) (x.rowsOf 1) ((i.desc 0).rowBytes T.sp (x.rowsOf 0))
  | .spld => T.land x [BitVec.ofNat 32 (leNat (T.sp.read (x.rows.headD 0) 4))]
  | .spst => { T with sp := T.sp.write (x.rows.headD 0) (toLE 4 ((x.vals.headD 0#32)).toNat) }
  | _ => T.land x x.vals

/-- T with the result of an entry written; the words it covers are correctable again. -/
def Tiller.result (T : Tiller) (x : Entry) : Tiller := (T.effect x).healed x

/-- A load from DMEM. -/
def isLoad : Mnem → Bool
  | .ldB | .ldH | .ldW => true
  | _ => false

/-- The DMEM word of a load, where it is uncorrectable: found now, or known from before (01 R32). -/
def Entry.badLoad (x : Entry) (known : List Nat) (ecc : Option Nat) : Option Nat :=
  if isLoad x.inst.mn then (x.rows.head?.map (· / 32)).filter fun w => ecc.isSome || known.contains w else none

/-- s with a synchronous entry of Tiller t complete: an uncorrectable operand resets its engine (01 R32), a Shears violation faults
(04 R111), else its result is written, its entry leaves, and address-stream entries left over fault (03 R88). -/
def State.completeEntry (s : State) (t : Nat) (x : Entry) (ecc : Option Nat) : State :=
  let T := s.tl t
  let s' := s.dropEntry t x
  match x.badLoad T.dmUe ecc with
  | some w => s'.eccCore t x.index w
  | none =>
  match x.badWord T.spUe ecc with
    | some w => s'.eccOperand t x.engine x.index w
    | none =>
      match (if x.engine = 3 then shearsFault x.inst T.sp else none) with
      | some v => s'.fmtViolation t 3 x.index { v with written := 0 }
      | none =>
        let s' := s'.modT t fun T => { (T.result x) with engProg := SMap.set zeroAt x.engine s.t3 T.engProg }
        if x.inst.ast && !(SMap.get nilAt T.fifos x.engine).isEmpty then s'.hazard t x.engine x.index { cause := 10 } else s'

/-- ENGINE_RESULT_COMPLETE: the result latency of entry k of Tiller t's checker has elapsed (03 R82). -/
def execEngineResultComplete (t k : Nat) (ecc : Option Nat) (s : State) : Host.Outcome State Fault Refusal :=
  onUnit (t < 192) s
    (match (s.tl t).checker[k]? with
      | none => s
      | some x =>
        if !x.async && (s.tl t).mayComplete x.engine && decide (x.done ≤ s.clk.core) &&
            (!x.inst.ast || decide (astRows x.inst ≤ x.rows.length)) && (x.inst.mn ≠ .trLdprog || x.finished) then
          s.completeEntry t x ecc
        else s)

/-! ### The address-stream port (03 R88) -/

/-- The descriptor that takes its rows from the address stream is written by its instruction. -/
def astIsDst (i : Shoze) : Bool := decide ((roles i.mn i.ds.length)[astIndex i]? = some .dst)

/-- First hazard of a row that an entry takes: its range against the footprints of every entry, then R76 for one row. -/
def Tiller.rowHazard (T : Tiller) (core : Nat) (x : Entry) (a : Nat) : Option Hazard :=
  let d := x.inst.desc (astIndex x.inst)
  let w : Int × Int := ((a / 32 : Nat), (a / 32 : Nat) + (d.rowWords : Int) - 1)
  let r := if astIsDst x.inst then
      (match conflict 3 [w] (Entry.dstsAt core) T.checker with
        | some h => some h
        | none => conflict 4 [w] (Entry.srcsAt core) T.checker)
    else conflict 2 [w] (Entry.dstsAt core) T.checker
  match r with
  | some h => some h
  | none => if a % 32 = 0 && decide (a < 0x200000) && inPad w then none else some { cause := 6, range := some w }

/-- The entry of engine e that still has a row address to take. -/
def Tiller.feeding (T : Tiller) (e : Nat) : Option Entry :=
  T.checker.find? fun x => x.engine == e && x.inst.ast && decide (x.rows.length < astRows x.inst)

/-- An entry with a row address taken, its range claimed. -/
def Entry.takeRow (x : Entry) (a : Nat) : Entry :=
  let f := (a / 32, a / 32 + (x.inst.desc (astIndex x.inst)).rowWords - 1)
  if astIsDst x.inst then { x with rows := x.rows ++ [a], dsts := x.dsts ++ [f] }
  else { x with rows := x.rows ++ [a], srcs := x.srcs ++ [f] }

/-- ASTREAM_ROW_FETCH: engine e takes its next row's address, checked for conflicts and range; an empty FIFO faults with
ASTREAM_UNDERRUN (03 R88). -/
def execAstreamRowFetch (t e : Nat) (s : State) : Host.Outcome State Fault Refusal :=
  onUnit (t < 192 && 1 ≤ e && e ≤ 4) s
    (match (s.tl t).feeding e with
      | none => s
      | some x =>
        let T := s.tl t
        if T.mayComplete e && decide (x.issue + x.rows.length * x.every ≤ s.clk.core) then
          match SMap.get nilAt T.fifos e with
          | [] => (s.dropEntry t x).hazard t e x.index { cause := 8 }
          | a :: rest =>
            let s' := s.modT t fun T => { T with fifos := SMap.set nilAt e rest T.fifos }
            match T.rowHazard s.clk.core x a.toNat with
            | some h => (s'.dropEntry t x).hazard t e x.index h
            | none => s'.setEntry t x (x.takeRow a.toNat)
        else s)

end Sys2Proof.Machine
end

