-- ==== Sys2Proof/Machine/CollOps.lean ====
section
/-!
DEFINITION. The arithmetic of the stock collective operators (file 05): elements of a contribution, the rank tree (R146), sorting
and selecting (R163 to R165), token sampling (R167), gating and combining of experts (R169, R170), and the hash tree of R177.
Pure functions of the inputs of a step.
-/

namespace Sys2Proof.Machine

/-! ### Operator codes (05, stock operators) -/

/-- OP_ALLREDUCE. -/
abbrev opAllReduce : Nat := 1
/-- OP_REDUCE_SCATTER. -/
abbrev opReduceScatter : Nat := 2
/-- OP_ALLGATHER. -/
abbrev opAllGather : Nat := 3
/-- OP_ALLTOALLV. -/
abbrev opAllToAll : Nat := 4
/-- OP_BROADCAST. -/
abbrev opBroadcast : Nat := 5
/-- OP_SORT. -/
abbrev opSort : Nat := 6
/-- OP_TOPK. -/
abbrev opTopK : Nat := 7
/-- OP_FILTER. -/
abbrev opFilter : Nat := 8
/-- OP_SAMPLE. -/
abbrev opSample : Nat := 9
/-- OP_MOE_DISPATCH. -/
abbrev opDispatch : Nat := 10
/-- OP_MOE_COMBINE. -/
abbrev opCombine : Nat := 11

/-! ### Elements and segments (05 R142, R150) -/

/-- The format a code names; FP32 for a code without one, which no stock binding has. -/
def fmtOf (c : Nat) : Fmt := (Fmt.ofCode c).getD .fp32

/-- Bytes that n elements of a format take. -/
def elemBytes (f : Fmt) (n : Nat) : Nat := ceilDiv (n * f.width) 8

/-- Elements that a number of bytes holds. -/
def elemCount (f : Fmt) (bytes : Nat) : Nat := bytes * 8 / f.width

/-- Smallest number of bytes that holds whole elements. -/
def unitBytes (f : Fmt) : Nat := if f = .le2m1 then 1 else if f.width = 6 then 3 else f.width / 8

/-- The element codes of a byte string, for the formats of whole bytes. -/
def elems (f : Fmt) (b : List Byte) : List Nat := (chunksOf (unitBytes f) (b.length / unitBytes f) b).map leNat

/-- The bytes of element codes. -/
def elemsOut (f : Fmt) (l : List Nat) : List Byte := (l.map (toLE (unitBytes f))).flatten

/-- Segment v of n elements in g parts: its first element and its length (05 R150, R159). -/
def segment (n g v : Nat) : Nat × Nat :=
  let k := ceilDiv n g
  (min (v * k) n, min ((v + 1) * k) n - min (v * k) n)

/-- Exclusive prefix sums. -/
def prefixSums (l : List Nat) : List Nat := (l.foldl (fun (a : List Nat × Nat) x => (a.1 ++ [a.2], a.2 + x)) ([], 0)).1

/-- Λ = ⌈log2 g⌉ (05 R146). -/
def treeHeight (g : Nat) : Nat := if g ≤ 1 then 0 else Nat.log2 (g - 1) + 1

/-! ### The rank tree (05 R146, R148) -/

/-- The value of node (L, x) of the rank tree of g ranks, given the nodes held: one held as such, or the combination of its
children; one with an empty child takes the other's value; none while it is not complete. -/
def nodeValue {α : Type} (g : Nat) (f : α → α → α) (held : Nat → Nat → Option α) : Nat → Nat → Option α
  | 0, x => held 0 x
  | L + 1, x =>
    match held (L + 1) x with
    | some v => some v
    | none =>
      if g ≤ (2 * x + 1) * 2 ^ L then nodeValue g f held L (2 * x)
      else match nodeValue g f held L (2 * x), nodeValue g f held L (2 * x + 1) with
        | some a, some b => some (f a b)
        | _, _ => none

/-- The maximal complete nodes below (L, x): the smallest set that covers every rank held (05 R148). -/
def maximalNodes {α : Type} (g : Nat) (f : α → α → α) (held : Nat → Nat → Option α) : Nat → Nat → List (Nat × Nat × α)
  | 0, x => match held 0 x with | some v => [(0, x, v)] | none => []
  | L + 1, x =>
    match nodeValue g f held (L + 1) x with
    | some v => [(L + 1, x, v)]
    | none => maximalNodes g f held L (2 * x) ++ (if g ≤ (2 * x + 1) * 2 ^ L then [] else maximalNodes g f held L (2 * x + 1))

/-- Node a = (level, index) holds node b's ranks. -/
def nodeCovers (a b : Nat × Nat) : Bool := decide (b.1 ≤ a.1) && b.2 / 2 ^ (a.1 - b.1) == a.2

/-- The tag of a node. -/
def nodeTag (L x : Nat) : Nat := 4096 * L + x

/-- The node a tag names. -/
def tagNode (t : Nat) : Nat × Nat := (t / 4096, t % 4096)

/-- Root of the hash tree over the leaves that are there; 32 zero bytes when there is none (05 R177). -/
def hashTree (g : Nat) (leaf : Nat → Option (List Byte)) : List Byte :=
  let rec node : Nat → Nat → Option (List Byte)
    | 0, x => leaf x
    | L + 1, x => match node L (2 * x), node L (2 * x + 1) with
      | some a, some b => some (sha256 (a ++ b))
      | some a, none => some a
      | none, b => b
  (node (treeHeight g) 0).getD (List.replicate 32 0#8)

/-! ### Reducing (05 R145, R147) -/

/-- A code of a contribution widened exactly into its accumulation format. -/
def widenAcc (f : Fmt) (c : Nat) : Nat := if f.isInt then ofSigned 32 (toSigned f.width c) else (accFmt f).round 0 0 (f.decode c)

/-- An accumulator converted once into the result format. -/
def convertOut (out : Fmt) (rm : Nat) (acc : Fmt) (c : Nat) : Nat := out.round rm 0 (acc.decode c)

/-- Element-by-element combination of two vectors. -/
def combineVec (acc : Fmt) (op : Nat) (a b : List Nat) : List Nat := List.zipWith (combine acc op) a b

/-- Element-by-element fold of inputs, each element with the place in the arrival order of the packet that brought it: the inputs
of an element combine in the order they arrived (05 R147). -/
def arrivalFold (acc : Fmt) (op : Nat) (inputs : List (List (Nat × Nat))) : List Nat :=
  let n := (inputs.map List.length).foldl max 0
  (List.range n).map fun i =>
    let col := (inputs.filterMap fun v => v[i]?).mergeSort fun a b => decide (a.1 ≤ b.1)
    match col with
    | [] => 0
    | p :: rest => rest.foldl (fun a q => combine acc op a q.2) p.2

/-! ### Sorting and selecting (05 R163 to R165) -/

/-- An element with where it came from: rank, index in its member's contribution, code. -/
structure Item where
  /-- rank -/
  rank : Nat := 0
  /-- index -/
  index : Nat := 0
  /-- code -/
  code : Nat := 0
  deriving DecidableEq, Repr

/-- The elements of all contributions in (rank, index) order. -/
def itemsOf (f : Fmt) (leaves : List (Nat × List Byte)) : List Item :=
  (leaves.map fun p => let es := elems f p.2; ((List.range es.length).zip es).map fun q => ({ rank := p.1, index := q.1, code := q.2 } : Item)).flatten

/-- Items in the order of 02 R65, ascending or descending; equal keys keep the order given (R163). -/
def sortItems (f : Fmt) (desc : Bool) (l : List Item) : List Item :=
  l.mergeSort fun a b => if desc then !(f.decode a.code).before (f.decode b.code) else !(f.decode b.code).before (f.decode a.code)

/-- The items that a value part and a part of origin records give (R163). -/
def itemsFrom (f : Fmt) (values origins : List Byte) : List Item :=
  let es := elems f values
  ((List.range es.length).zip es).map fun q => { rank := fieldAt origins (8 * q.1 + 4) 2, index := fieldAt origins (8 * q.1) 4, code := q.2 }

/-- The values of items: OP_SORT, OP_TOPK and OP_FILTER select and order, and pass the codes on as they came (02 R43; log 92). -/
def itemBytes (f : Fmt) (l : List Item) : List Byte := elemsOut f (l.map (·.code))

/-- The origin records of items (R163). -/
def originBytes (l : List Item) : List Byte := (l.map fun i => toLE 4 i.index ++ toLE 2 i.rank ++ [0#8, 0#8]).flatten

/-- A predicate of OP_FILTER keeps an element (R165). -/
def keeps (f : Fmt) (code k c : Nat) : Bool :=
  let x := f.decode c
  let y := if f.isInt then Fmt.int32.decode k else Fmt.fp32.decode k
  match code with
  | 0 => x.ieeeLt y
  | 1 => x.ieeeLt y || x.ieeeEq y
  | 2 => x.ieeeEq y
  | 3 => !x.ieeeEq y
  | 4 => y.ieeeLt x || x.ieeeEq y
  | 5 => y.ieeeLt x
  | 6 => (BitVec.ofNat 5 (classOf f c) &&& BitVec.ofNat 5 k) != 0#5
  | _ => x.nonzero

/-! ### Token sampling (05 R166, R167) -/

/-- A candidate of a row: global index, logit. -/
abbrev Cand := Nat × Nat

/-- One row block of a contribution. -/
structure RowBlock where
  /-- inv_temp -/
  invTemp : Nat := 0
  /-- top_k -/
  topK : Nat := 0
  /-- top_p -/
  topP : Nat := 0
  /-- seed -/
  seed : Nat := 0
  /-- candidates: logit, local index -/
  cands : List (Nat × Nat) := []
  deriving DecidableEq, Repr

/-- n row blocks read from a contribution, nothing left over; none when one is malformed (R166). -/
def readRows (maxC : Nat) : Nat → List Byte → Option (List RowBlock)
  | 0, b => if b.isEmpty then some [] else none
  | n + 1, b =>
    let c := fieldAt b 0 4
    let len := 32 + 32 * ceilDiv (8 * c) 32
    if b.length < len || maxC < c || !allZero (slice b 20 12) || !allZero (slice b (32 + 8 * c) (len - 32 - 8 * c)) then none
    else
      let row : RowBlock := {
        invTemp := fieldAt b 4 4, topK := fieldAt b 8 4, topP := fieldAt b 12 4, seed := fieldAt b 16 4,
        cands := (List.range c).map fun i => (fieldAt b (32 + 8 * i) 4, fieldAt b (36 + 8 * i) 4) }
      (readRows maxC n (b.drop len)).map (row :: ·)

/-- The bytes of a row block (R166). -/
def RowBlock.bytes (r : RowBlock) : List Byte :=
  let n := r.cands.length
  toLE 4 n ++ toLE 4 r.invTemp ++ toLE 4 r.topK ++ toLE 4 r.topP ++ toLE 4 r.seed ++ List.replicate 12 0#8 ++
  padTo (32 * ceilDiv (8 * n) 32) (r.cands.map fun c => toLE 4 c.1 ++ toLE 4 c.2).flatten

/-- The fields of rank 0's blocks are in range (R166). -/
def rowOk (maxC : Nat) (r : RowBlock) : Bool :=
  decide (1 ≤ r.topK) && decide (r.topK ≤ maxC) &&
  (Val.ieeeLt (.fin { neg := false, m := 0, e := 0 }) (Fmt.fp32.decode r.topP)) &&
  !(Val.ieeeLt (.fin { neg := false, m := 1, e := 0 }) (Fmt.fp32.decode r.topP))

/-- One FP32 operation, rounded to nearest with ties to even. -/
def r32 (v : Val) : Nat := Fmt.fp32.round 0 0 v

/-- FP32 value of a code. -/
def v32 (c : Nat) : Val := Fmt.fp32.decode c

/-- Partial sums in ascending order, one rounding each. -/
def runningSums : List Nat → List Nat
  | [] => []
  | e :: rest => (rest.foldl (fun (a : List Nat × Nat) x => let y := r32 (Val.add 0 (v32 a.2) (v32 x)); (a.1 ++ [y], y)) ([e], e)).1

/-- The candidates of a row in the selection order, NaN logits removed: by v descending, ties by lower global index. Each is its index, its
v and its logit (R167). -/
def orderCands (invTemp : Nat) (cands : List Cand) : List (Nat × (Nat × Nat)) :=
  let vs := (cands.filter fun c => !Fmt.fp32.isNan c.2).map fun c => (c.1, (r32 (Val.mul (v32 c.2) (v32 invTemp)), c.2))
  (vs.mergeSort fun a b => decide (a.1 ≤ b.1)).mergeSort fun a b => !(v32 a.2.1).before (v32 b.2.1)

/-- The token of one row and the chosen v (R167). -/
def sampleRow (p : RowBlock) (cands : List Cand) : Nat × Nat :=
  let order := orderCands p.invTemp cands
  if order.isEmpty then (0xFFFFFFFF, Fmt.fp32.nanCode)
  else
    let kept := (order.take p.topK).map fun c => (c.1, c.2.1)
    let v0 := (kept.headD (0, 0)).2
    let pick (j : Nat) : Nat × Nat := kept.getD j (0, 0)
    if v0 = Fmt.fp32.infCode then pick 0
    else
      let es := kept.map fun c => fp32Func 0xD (r32 (Val.add 0 (v32 c.2) (v32 v0).negate))
      let cs := runningSums es
      let th := r32 (Val.mul (v32 p.topP) (v32 (cs.getLastD 0)))
      let geTh (c : Nat) : Bool := (v32 th).ieeeLt (v32 c) || (v32 c).ieeeEq (v32 th)
      match cs.findIdx? geTh with
      | none => pick (Config.sampleChoice (kept.map (·.2)) % kept.length)
      | some J =>
        let r := (xorshift (if p.seed = 0 then 1#32 else BitVec.ofNat 32 p.seed)).toNat
        let u := r32 (.fin { neg := false, m := r, e := 0 })
        let t := r32 (Val.mul (v32 (cs.getD J 0)) (Val.mul (v32 u) (.fin { neg := false, m := 1, e := -32 })))
        match (cs.take (J + 1)).findIdx? fun c => (v32 t).ieeeLt (v32 c) with
        | some j => pick j
        | none => pick J

/-! ### Mixture of experts (05 R169, R170) -/

/-- The gate logits of one token: products exact, FP32 accumulation in ascending m (02 R62). gate is row-major, d by e. -/
def gateLogits (f : Fmt) (d e : Nat) (gate x : List Nat) : List Nat :=
  (List.range e).map fun j =>
    ((List.range d).foldl (fun a m => accFp32 a (Val.mul (f.decode (x.getD m 0)) (f.decode (gate.getD (m * e + j) 0)))) none).getD 0

/-- The k experts with the greatest logits, ties to the lower index; none for a token with a NaN logit (R169). -/
def selectExperts (k : Nat) (logits : List Nat) : Option (List Nat) :=
  if logits.any Fmt.fp32.isNan then none
  else some (((((List.range logits.length).zip logits).mergeSort fun a b => !(v32 a.2).before (v32 b.2)).take k).map (·.1))

/-- The gate weights of the selected experts, in selection order (R169). -/
def gateWeights (mode : Nat) (logits sel : List Nat) : List Nat :=
  let l0 := logits.getD (sel.headD 0) 0
  let ex (e : Nat) : Nat := fp32Func 0xD (r32 (Val.add 0 (v32 (logits.getD e 0)) (v32 l0).negate))
  let among := if mode = 0 then sel else List.range logits.length
  let total := (runningSums (among.map ex)).getLastD 0
  sel.map fun e => r32 (Val.div (v32 (ex e)) (v32 total))

/-- The routing of a rank's tokens before acceptance: per token, experts in selection order with their weights; empty for a token
dropped at the gate. -/
def routeTokens (f : Fmt) (d e k mode : Nat) (gate : List Nat) (tokens : List (List Nat)) : List (List (Nat × Nat)) :=
  tokens.map fun x =>
    let lg := gateLogits f d e gate x
    match selectExperts k lg with
    | none => []
    | some sel => sel.zip (gateWeights mode lg sel)

/-- Tokens per expert that a rank sends. -/
def tokensPerExpert (e : Nat) (routes : List (List (Nat × Nat))) : List Nat :=
  (List.range e).map fun j => (routes.filter fun r => r.any fun p => p.1 == j).length

/-- Tokens of each rank that an expert accepts: the first cap in (rank, token) order, so a prefix of each rank's. -/
def acceptCounts (cap : Nat) (counts : List Nat) : List Nat :=
  (counts.foldl (fun (a : List Nat × Nat) c => let x := min c (cap - a.2); (a.1 ++ [x], a.2 + x)) ([], 0)).1

/-- The routing record of one rank: for each expert its first accepted tokens are marked. -/
def markAccepted (accepted : Nat → Nat) (routes : List (List (Nat × Nat))) : List (List (Nat × (Nat × Bool))) :=
  (routes.foldl (fun (a : List (List (Nat × (Nat × Bool))) × List (Nat × Nat)) r =>
    let used (e : Nat) : Nat := ((a.2.find? fun p => p.1 == e).map (·.2)).getD 0
    (a.1 ++ [r.map fun p => (p.1, (p.2, decide (used p.1 < accepted p.1)))],
     r.foldl (fun u p => if u.any fun q => q.1 == p.1 then u.map (fun q => if q.1 = p.1 then (q.1, q.2 + 1) else q) else u ++ [(p.1, 1)]) a.2)) ([], [])).1

/-- The combination of one token's expert outputs (R170), each output given by its expert; an element not set reads +0. -/
def combineToken (d : Nat) (route : List (Nat × (Nat × Bool))) (outOf : Nat → List Val) : List Nat :=
  let used := route.filter fun p => p.2.2
  (List.range d).map fun m =>
    (used.foldl (fun (a : Option Nat) p =>
      let o := (outOf p.1).getD m (.fin { neg := false, m := 0, e := 0 })
      match a with
      | none => some (r32 (Val.mul (v32 p.2.1) o))
      | some c => some (r32 (Val.add 0 (Val.mul (v32 p.2.1) o) (v32 c)))) none).getD 0

end Sys2Proof.Machine
end

