-- ==== Sys2Proof/Machine/CollStep.lean ====
section
/-!
DEFINITION. The step of a collective slot (file 05): what it accepts (R140 to R143, R403), the inputs it holds, the count phase
(R157, R158), partials between devices (R147 to R150), when a step is complete, and its results (R152, R154, R159 to R170).
-/

namespace Sys2Proof.Machine

/-! ### The binding, read -/

/-- varcount. -/
def Binding.varcount (b : Binding) : Bool := b.flags.testBit 1
/-- descending. -/
def Binding.descending (b : Binding) : Bool := b.flags.testBit 2
/-- root_only. -/
def Binding.rootOnly (b : Binding) : Bool := b.flags.testBit 3
/-- origin. -/
def Binding.origin (b : Binding) : Bool := b.flags.testBit 4
/-- A user operator (R171). -/
def Binding.user (b : Binding) : Bool := decide (0x80 ≤ b.op)
/-- Contribution format. -/
def Binding.fin (b : Binding) : Fmt := fmtOf b.inFmt
/-- Result format. -/
def Binding.fout (b : Binding) : Fmt := fmtOf b.outFmt
/-- Accumulation format. -/
def Binding.acc (b : Binding) : Fmt := accFmt b.fin
/-- An operator that combines by the rank tree on the way. -/
def Binding.reducing (b : Binding) : Bool := b.op == opAllReduce || b.op == opReduceScatter
/-- OP_ALLGATHER of a block-scaled narrow format, with a second stream of scales (R160). -/
def Binding.scaled (b : Binding) : Bool := b.op == opAllGather && (b.fin == .le2m1 || b.fin == .le2m3)
/-- Members send COUNT (R157). -/
def Binding.memberCounts (b : Binding) : Bool :=
  b.op == opAllToAll || (b.op == opAllGather && b.varcount) || b.op == opSort || b.op == opDispatch
/-- A member may send CONTRIB only after its COUNT_REPLY (R158). -/
def Binding.afterReply (b : Binding) : Bool := b.op == opAllToAll || (b.op == opAllGather && b.varcount) || b.op == opSort
/-- Devices send counts that they compute (R157). -/
def Binding.deviceCounts (b : Binding) : Bool := b.op == opFilter || b.op == opDispatch
/-- The operator runs a count phase. -/
def Binding.counts (b : Binding) : Bool := b.memberCounts || b.deviceCounts
/-- Each recipient has a result of its own. -/
def Binding.perRecipient (b : Binding) : Bool :=
  b.op == opReduceScatter || b.op == opAllToAll || b.op == opSort || b.op == opDispatch || b.op == opCombine || b.rootOnly
/-- Consecutive streams of a contribution. -/
def Binding.pieces (b : Binding) : Nat := if b.scaled then 2 else 1
/-- Consecutive streams of a leaf that another device sends: OP_TOPK's local first k with their origin records (R164; log 39). -/
def Binding.leafPieces (b : Binding) : Nat := if b.op = opTopK then 2 else b.pieces
/-- The reduction goes round a ring (R150). -/
def Binding.ringReduce (b : Binding) : Bool := b.reducing && b.xtopo == 2
/-- Experts of an OP_MOE_DISPATCH binding. -/
def Binding.experts (b : Binding) : Nat := b.p0
/-- Bytes of data a packet holds at most. -/
def Binding.limit (b : Binding) : Nat := 32 * b.cw
/-- Bytes of whole elements in a contribution's unit. -/
def Binding.inUnit (b : Binding) : Nat := if b.op = opSample then 4 else unitBytes b.fin

/-- Lineage is in force for slot l (R177). -/
def State.lineageOn (s : State) (l : Nat) : Bool := (s.slot l).bind.flags.testBit 0 || s.dev.mode.getLsbD 1

/-- Local ranks, ascending. -/
def Slot.locals (S : Slot) : List Nat := (S.members.map (·.rank)).mergeSort (· ≤ ·)
/-- Rank r is local. -/
def Slot.isLocal (S : Slot) (r : Nat) : Bool := (S.member? r).isSome
/-- Index of the first neighbour with a role. -/
def Slot.roleNbr (S : Slot) (role : Nat) : Option Nat := S.nbrs.findIdx? fun n => n.role == role
/-- Index of the child whose range holds a rank. -/
def Slot.childOf (S : Slot) (r : Nat) : Option Nat := S.nbrs.findIdx? fun n => n.role == 2 && decide (n.lo ≤ r) && decide (r ≤ n.hi)
/-- Indices of the children, in table order. -/
def Slot.children (S : Slot) : List Nat := (List.range S.nbrs.length).filter fun i => ((S.nbr? i).map (·.role)) == some 2
/-- Ranks below the device in a tree, its own among them, ascending. -/
def Slot.below (S : Slot) : List Nat := (List.range S.bind.gsize).filter fun r => S.isLocal r || (S.childOf r).isSome
/-- Position of the ring successor. -/
def Slot.nextPos (S : Slot) : Nat := (S.bind.ringPos + 1) % S.bind.ringSize

/-- Owners of the experts that an operator works with: its own map, or that of the pair slot. -/
def State.owners (s : State) (l : Nat) : List Nat :=
  let S := s.slot l
  if S.bind.op = opCombine then (s.slot S.bind.pair).owners else S.owners

/-- Experts that a rank owns, ascending. -/
def State.owned (s : State) (l r : Nat) : List Nat :=
  let o := s.owners l
  (List.range o.length).filter fun e => o[e]? == some r

/-- Ranks that contribute to a step. -/
def State.contributes (s : State) (l r : Nat) : Bool :=
  let b := (s.slot l).bind
  if b.op = opBroadcast then r == b.root else if b.op = opCombine then !(s.owned l r).isEmpty else true

/-- Ranks that receive a result. -/
def State.receives (s : State) (l r : Nat) : Bool :=
  let b := (s.slot l).bind
  if b.op = opBroadcast then r != b.root
  else if b.op = opDispatch then !(s.owned l r).isEmpty
  else if b.rootOnly then r == b.root else true

/-! ### Streams held (R142, R143) -/

/-- Chunks in index order. -/
def Stream.ordered (x : Stream) : List (Nat × (Nat × List Byte)) := x.chunks.mergeSort fun a b => decide (a.1 ≤ b.1)

/-- A stream of a number of pieces is whole. -/
def Stream.whole (pieces : Nat) (x : Stream) : Bool :=
  x.ends.length == pieces && x.ordered.map (·.1) == List.range x.chunks.length && x.ends.foldl max 0 + 1 == x.chunks.length

/-- The data of a stream's pieces, in order. -/
def Stream.parts (x : Stream) : List (List Byte) :=
  (x.ordered.foldl (fun (a : List (List Byte) × List Byte) c =>
    let d := a.2 ++ c.2.2
    if x.ends.contains c.1 then (a.1 ++ [d], []) else (a.1, d)) ([], [])).1

/-- All of a stream's data. -/
def Stream.data (x : Stream) : List Byte := (x.ordered.map fun c => c.2.2).flatten

/-- The stream of a step with a key. -/
def StepSt.stream? (st : StepSt) (kind rank tag seg : Nat) : Option Stream :=
  st.streams.find? fun x => x.kind == kind && x.rank == rank && x.tag == tag && x.seg == seg

/-- A whole stream with a key. -/
def StepSt.whole? (st : StepSt) (kind rank tag seg pieces : Nat) : Option Stream :=
  match st.stream? kind rank tag seg with
  | some x => if x.whole pieces then some x else none
  | none => none

/-- 32-bit counts of a COUNT stream. -/
def Stream.counts (x : Stream) : List Nat := (chunksOf 4 (x.data.length / 4) x.data).map leNat

/-- Counts that members' or devices' COUNT streams gave for a rank. -/
def StepSt.countOf (st : StepSt) (r : Nat) : Option (List Nat) := (st.whole? kCount r 0 0 1).map Stream.counts

/-- Tokens of a contribution of OP_MOE_DISPATCH. -/
def Binding.tokens (b : Binding) (d : List Byte) : List (List Nat) :=
  (chunksOf (elemBytes b.fin b.nmax) (d.length / elemBytes b.fin b.nmax) d).map (elems b.fin)

/-- The routing of a rank's tokens before acceptance. -/
def Slot.routes (S : Slot) (d : List Byte) : List (List (Nat × Nat)) :=
  routeTokens S.bind.fin S.bind.nmax S.bind.experts S.bind.p1 (bit24 S.bind.p2) (elems S.bind.fin S.gateW) (S.bind.tokens d)
where
  /-- The gate mode. -/
  bit24 (p : Nat) : Nat := p / 2 ^ 24 % 2

/-- Survivors of OP_FILTER among a contribution. -/
def Binding.survivors (b : Binding) (l : List (Nat × List Byte)) : List Item :=
  (itemsOf b.fin l).filter fun i => keeps b.fin b.p0 b.p1 i.code

/-- What a local rank has contributed, once it is whole: its pieces (R161, R170 for the streams with a tag). -/
def State.localLeaf (s : State) (l : Nat) (st : StepSt) (r : Nat) : Option (List (List Byte)) :=
  let S := s.slot l
  let b := S.bind
  let tagged (tags : List Nat) : Option (List (List Byte)) :=
    let xs := tags.map fun j => st.whole? kContrib r j 0 1
    if xs.all Option.isSome then some [(xs.filterMap fun x => x.map Stream.data).flatten] else none
  if b.op = opAllToAll then
    match st.countOf r with
    | none => none
    | some cs => tagged ((List.range b.gsize).filter fun j => j != r && decide (0 < cs.getD j 0))
  else if b.op = opCombine then tagged (s.owned l r)
  else (st.whole? kContrib r 0 0 b.pieces).map Stream.parts

/-- The leaf of a rank that this device knows, local or received, with its digest (R177). -/
def State.leaf (s : State) (l : Nat) (st : StepSt) (r : Nat) : Option (List (List Byte) × List Byte) :=
  let S := s.slot l
  if S.isLocal r then (s.localLeaf l st r).map fun p => (p, sha256 p.flatten)
  else match st.streams.find? fun x => x.kind == kPartial && x.tag == r && x.whole S.bind.leafPieces with
    | some x => some (x.parts, if x.digest.isEmpty then sha256 x.data else x.digest)
    | none => none

/-- The counts of a rank: those sent, or those this device computes for a local rank of OP_FILTER and OP_MOE_DISPATCH (R157, R169). -/
def State.rankCounts (s : State) (l : Nat) (st : StepSt) (r : Nat) : Option (List Nat) :=
  let S := s.slot l
  let b := S.bind
  if b.deviceCounts && S.isLocal r then
    if b.op = opFilter then (s.localLeaf l st r).map fun p => [(b.survivors [(r, p.flatten)]).length]
    else match st.countOf r with
      | none => none
      | some _ => (s.localLeaf l st r).map fun p => tokensPerExpert b.experts (S.routes p.flatten)
  else st.countOf r

/-- Counts of every rank, once all are known. -/
def State.allCounts (s : State) (l : Nat) (st : StepSt) : Option (List (List Nat)) :=
  let cs := (List.range (s.slot l).bind.gsize).map (s.rankCounts l st)
  if cs.all Option.isSome then some (cs.filterMap id) else none

/-! ### Reducing (R146 to R150) -/

/-- A node's value: its vector, its digest (R177), and the stamp and rank of the input that completed it last (R173). -/
structure NodeVal where
  /-- the vector, in the accumulation format -/
  vec : List Nat := []
  /-- the digest -/
  dig : List Byte := []
  /-- stamp of its last input -/
  stamp : Nat := 0
  /-- slowest rank -/
  slow : Nat := 0
  deriving DecidableEq, Repr

/-- Two siblings combined; the slowest rank is that of the child completed last, the lower when both are at once (R173). -/
def Binding.join (b : Binding) (x y : NodeVal) : NodeVal :=
  let last := if x.stamp < y.stamp || (x.stamp == y.stamp && decide (y.slow < x.slow)) then y else x
  { vec := combineVec b.acc b.redOp x.vec y.vec, dig := sha256 (x.dig ++ y.dig), stamp := last.stamp, slow := last.slow }

/-- Segment v of a vector; all of it but in a ring. -/
def Binding.segOf {α : Type} (b : Binding) (v : Nat) (l : List α) : List α :=
  if b.xtopo = 2 then let g := segment l.length b.ringSize v; (l.drop g.1).take g.2 else l

/-- The nodes a device holds for a segment: local leaves and partials received. -/
def State.heldNode (s : State) (l : Nat) (st : StepSt) (v L x : Nat) : Option NodeVal :=
  let S := s.slot l
  let b := S.bind
  if L = 0 && S.isLocal x then
    match s.leaf l st x with
    | some p => some {
        vec := b.segOf v ((elems b.fin p.1.flatten).map (widenAcc b.fin)), dig := p.2, slow := x
        stamp := ((st.stream? kContrib x 0 0).map (·.stamp)).getD 0 }
    | none => none
  else match st.streams.find? fun y => y.kind == kPartial && y.tag == nodeTag L x && y.seg == v && y.whole 1 with
    | some y => some { vec := elems b.acc y.data, dig := y.digest, stamp := y.stamp, slow := y.slow }
    | none => none

/-- The PARTIAL streams that are here whole for a segment. -/
def StepSt.partials (st : StepSt) (v : Nat) : List Stream := st.streams.filter fun x => x.kind == kPartial && x.seg == v && x.whole 1

/-- The inputs of an arrival-order combination: each element with the place of the packet that brought it (R147). -/
def State.arrivalInputs (s : State) (l : Nat) (st : StepSt) (v : Nat) : List (List (Nat × Nat)) :=
  let S := s.slot l
  let b := S.bind
  let spread (f : Fmt) (widen : Nat → Nat) (x : Stream) : List (Nat × Nat) :=
    (x.ordered.map fun c => (elems f c.2.2).map fun e => (c.2.1, widen e)).flatten
  (S.locals.filterMap fun r => (st.whole? kContrib r 0 0 1).map fun x => b.segOf v (spread b.fin (widenAcc b.fin) x)) ++
  ((st.partials v).map (spread b.acc id))

/-- The node of the rank tree that a child's ranks make up, when its range is one node and all of it is reached through that child. -/
def Slot.childNode (S : Slot) (i : Nat) : Option (Nat × Nat) :=
  match S.nbr? i with
  | none => none
  | some c =>
    let g := S.bind.gsize
    if c.role = 2 && (List.range (c.hi + 1 - c.lo)).all fun k => !S.isLocal (c.lo + k) && S.childOf (c.lo + k) == some i then
      ((List.range (treeHeight g + 1)).map fun L => (L, c.lo / 2 ^ L)).find? fun n =>
        n.2 * 2 ^ n.1 == c.lo && min ((n.2 + 1) * 2 ^ n.1) g == c.hi + 1
    else none

/-- Digest of a partial combined in arrival order: the node of the rank tree that its inputs make up; free when they make up none, or
when the ranks of an input are not known here (R177; log 37). -/
def State.arrivalDigest (s : State) (l : Nat) (st : StepSt) (v : Nat) : List Byte :=
  let S := s.slot l
  let g := S.bind.gsize
  let parts := st.partials v
  let node (x : Stream) : Option (Nat × Nat) := x.nbr.bind S.childNode
  let held (L r : Nat) : Option (List Byte) :=
    if L = 0 && S.isLocal r then (s.leaf l st r).map (·.2) else (parts.find? fun x => node x == some (L, r)).map (·.digest)
  match (if parts.all fun x => (node x).isSome then maximalNodes g (fun a b => sha256 (a ++ b)) held (treeHeight g) 0 else []) with
  | [n] => n.2.2
  | _ => Config.arrivalDigest ((S.locals.filterMap fun r => (s.leaf l st r).map (·.2)) ++ parts.map (·.digest))

/-- The combination of everything a device holds for a segment, in arrival order; its slowest rank is that of its last input (R147,
R173). -/
def State.arrivalValue (s : State) (l : Nat) (st : StepSt) (v : Nat) : NodeVal :=
  let S := s.slot l
  let b := S.bind
  let last := lastInput ((S.locals.filterMap fun r => st.whole? kContrib r 0 0 1) ++ st.partials v)
  { vec := arrivalFold b.acc b.redOp (s.arrivalInputs l st v), dig := s.arrivalDigest l st v
    stamp := (last.map (·.stamp)).getD 0, slow := (last.map (·.slow)).getD 0 }

/-- Every local rank that contributes has done so. -/
def State.localsIn (s : State) (l : Nat) (st : StepSt) : Bool :=
  (s.slot l).locals.all fun r => !s.contributes l r || (s.localLeaf l st r).isSome

/-- Every child has sent its partial of an arrival-order combination. -/
def Slot.childrenIn (S : Slot) (st : StepSt) : Bool :=
  S.children.all fun i => st.streams.any fun x => x.kind == kPartial && x.nbr == some i && x.whole 1

/-- Arrival order is in force: DEV_MODE.deterministic is 0. -/
def State.arrivalOrder (s : State) : Bool := !s.dev.mode.getLsbD 0

/-- The device has everything that its ring predecessor sends for a segment: the one partial of arrival order, or, as the device judges it,
every node of the ranks gathered before it, of which there may be none (R148, R150; log 94). -/
def State.ringIn (s : State) (l : Nat) (st : StepSt) (v : Nat) : Bool :=
  let tags := (st.partials v).map (·.tag)
  (s.arrivalOrder && !tags.isEmpty) || Config.ringGathered (s.slot l).bind.raw v tags

/-- The root of a step or segment, in the accumulation format, once it is complete. -/
def State.rootValue (s : State) (l : Nat) (st : StepSt) (v : Nat) : Option NodeVal :=
  let S := s.slot l
  let b := S.bind
  if s.arrivalOrder then
    if s.localsIn l st && (if b.xtopo = 2 then s.ringIn l st v else S.childrenIn st) then some (s.arrivalValue l st v) else none
  else nodeValue b.gsize b.join (s.heldNode l st v) (treeHeight b.gsize) 0

/-- Bytes of a root in the result format. -/
def Binding.rootBytes (b : Binding) (v : NodeVal) : List Byte := elemsOut b.fout (v.vec.map (convertOut b.fout b.rm b.acc))

/-! ### Packets of a stream (R142, R177) -/

/-- Unit and flags of part i of a result. -/
def Binding.shape (b : Binding) (i : Nat) : Nat × Nat :=
  if b.op = opSample then (8, 0)
  else if b.origin && i = 1 then (8, fOrigin)
  else if b.scaled && i = 1 then (1, 0)
  else (unitBytes b.fout, 0)

/-- Packets of the parts of a stream: chunk indices go on from part to part, and each part ends with the last flag. -/
def packParts (cw seg start : Nat) : List (Nat × Nat × List Byte) → List RPkt
  | [] => []
  | (u, fl, d) :: rest =>
    let k := 32 * cw / u * u
    let cs := if d.isEmpty then [[]] else chunksOf k (ceilDiv d.length k) d
    ((List.range cs.length).zip cs).map (fun p =>
      ({ seg := seg, chunk := start + p.1, flags := fl + (if p.1 + 1 = cs.length then fLast else 0), data := p.2 } : RPkt)) ++
    packParts cw seg (start + cs.length) rest

/-- A stream's packets with a digest as the last 32 bytes: in its last packet, or in one more when that packet has no room
(R142, R177). -/
def attachDigest (cw : Nat) (d : Option (List Byte)) (l : List RPkt) : List RPkt :=
  match d, l.getLast? with
  | some g, some p =>
    if p.data.length + 32 ≤ 32 * cw then l.dropLast ++ [{ p with flags := p.flags + fLineage, data := p.data ++ g }]
    else l.dropLast ++ [{ p with flags := p.flags - fLast }, { p with chunk := p.chunk + 1, flags := p.flags + fLineage, data := g }]
  | _, _ => l

/-- s with a stream sent to a recipient. -/
def State.sendStream (s : State) (l dest : Nat) (c : CPrefix) (ps : List RPkt) : State :=
  ps.foldl (fun s p => s.slotSend l dest { c with flags := p.flags + c.flags, chunk := p.chunk, seg := p.seg } p.data) s

/-- The packets of a node's PARTIAL; a second part holds scales, or OP_TOPK's origin records. -/
def State.partialPkts (s : State) (l seg unit : Nat) (parts : List (List Byte)) (digest : List Byte) : List RPkt :=
  let b := (s.slot l).bind
  attachDigest b.cw (if s.lineageOn l then some (padTo 32 digest) else none)
    (packParts b.cw seg 0 (((List.range parts.length).zip parts).map fun p => (if p.1 = 0 then unit else if b.op = opTopK then 8 else 1, 0, p.2)))

/-! ### What stops a step (R156, R158) -/

/-- A contribution agrees with the rules on its size: whole blocks, the count announced, well-formed row blocks. -/
def State.leafBad (s : State) (l : Nat) (st : StepSt) (r : Nat) : Bool :=
  let b := (s.slot l).bind
  match s.localLeaf l st r with
  | none => false
  | some p =>
    let d := p.headD []
    let n := elemCount b.fin d.length
    (b.scaled && (n % 32 != 0 || (p.getD 1 []).length != n / 32 || decide (b.nmax < n))) ||
    (b.op == opSample && (match readRows b.p1 b.p0 d with | none => true | some rows => r == 0 && !rows.all (rowOk b.p1))) ||
    (match st.countOf r with
      | none => false
      | some cs =>
        if b.op = opAllToAll then
          (List.range b.gsize).any fun j => j != r && decide (0 < cs.getD j 0) &&
            ((st.stream? kContrib r j 0).map fun x => x.data.length) != some (elemBytes b.fin (cs.getD j 0))
        else if b.op = opDispatch then d.length != elemBytes b.fin (cs.getD 0 0 * b.nmax)
        else if b.op = opAllGather || b.op = opSort then d.length != elemBytes b.fin (cs.getD 0 0)
        else false)

/-- Lengths of the contributions of a fixed-count operator that this device can see; those of a ring's segments apart. -/
def State.lengths (s : State) (l : Nat) (st : StepSt) : List Nat :=
  let S := s.slot l
  let b := S.bind
  let own := S.locals.filterMap fun r => (s.localLeaf l st r).map fun p => elemCount b.fin (p.headD []).length
  if b.reducing then
    own ++ (if b.xtopo = 2 then [] else (st.streams.filter fun x => x.kind == kPartial && x.whole 1).map fun x => elemCount b.acc x.data.length)
  else own ++ (st.streams.filter fun x => x.kind == kPartial && x.whole b.pieces).map fun x => elemCount b.fin (x.parts.headD []).length

/-- Some segment of a ring's partial has not the length of the local contributions' segment. -/
def State.segmentBad (s : State) (l : Nat) (st : StepSt) : Bool :=
  let S := s.slot l
  let b := S.bind
  match (S.locals.filterMap fun r => (s.localLeaf l st r).map fun p => elemCount b.fin p.flatten.length).head? with
  | none => false
  | some n => st.streams.any fun x => x.kind == kPartial && x.whole 1 && elemCount b.acc x.data.length != (segment n b.ringSize x.seg).2

/-- All members of a list are equal. -/
def allEqual (l : List Nat) : Bool := l.all fun x => x == l.headD 0

/-- Elements that rank r would send and receive under the counts. -/
def State.loadOf (s : State) (l : Nat) (cs : List (List Nat)) (r : Nat) : Nat × Nat :=
  let b := (s.slot l).bind
  if b.op = opAllToAll then
    (natSum ((List.range b.gsize).map fun j => if j = r then 0 else (cs.getD r []).getD j 0), natSum (cs.map fun c => c.getD r 0))
  else if b.op = opSort then ((cs.getD r []).getD 0 0, (cs.getD r []).getD 0 0)
  else if b.op = opAllGather then ((cs.getD r []).getD 0 0, natSum (cs.map fun c => c.getD 0 0))
  else (0, if s.receives l r then natSum (cs.map fun c => c.getD 0 0) else 0)

/-- Counts that a COUNT stream of a rank holds. -/
def State.countLen (s : State) (l r : Nat) : Nat :=
  let S := s.slot l
  if S.bind.op = opAllToAll then S.bind.gsize else if S.bind.op = opDispatch && !S.isLocal r then S.bind.experts else 1

/-- The status with which a step aborts, if it must. -/
def State.stepBad (s : State) (l : Nat) (st : StepSt) : Option Nat :=
  let S := s.slot l
  let b := S.bind
  if b.user then none
  else if S.locals.any (s.leafBad l st) then some stBadParam
  else if (b.reducing || (b.op == opAllGather && !b.varcount)) && (!allEqual (s.lengths l st) || (b.reducing && b.xtopo == 2 && s.segmentBad l st)) then
    some stBadParam
  else if st.streams.any fun x => x.kind == kCount && x.whole 1 && x.data.length != 4 * s.countLen l x.rank then some stBadParam
  else if b.counts && b.op != opDispatch then
    match s.allCounts l st with
    | none => none
    | some cs => if (List.range b.gsize).any fun r => decide (b.nmax < (s.loadOf l cs r).1) || decide (b.nmax < (s.loadOf l cs r).2) then some stNoFit else none
  else none

/-! ### The count phase (R157) -/

/-- The data of a COUNT_REPLY block: total, number of sources, and per source its rank, count and offset. -/
def replyBlock (total : Nat) (counts : List Nat) : List Byte :=
  toLE 4 total ++ toLE 4 counts.length ++
  (((List.range counts.length).zip (counts.zip (prefixSums counts))).map fun p => toLE 2 p.1 ++ [0#8, 0#8] ++ toLE 4 p.2.1 ++ toLE 4 p.2.2).flatten

/-- Accepted tokens of each rank for expert e. -/
def Binding.accepted (b : Binding) (cs : List (List Nat)) (e : Nat) : List Nat := acceptCounts (b.p2 % 2 ^ 24) (cs.map fun c => c.getD e 0)

/-- The COUNT_REPLY data for a recipient. -/
def State.replyData (s : State) (l : Nat) (cs : List (List Nat)) (r : Nat) : List Byte :=
  let b := (s.slot l).bind
  let firsts := cs.map fun c => c.getD 0 0
  if b.op = opAllToAll then let col := cs.map fun c => c.getD r 0; replyBlock (natSum col) col
  else if b.op = opDispatch then
    ((s.owned l r).map fun e => let a := b.accepted cs e; replyBlock (natSum a) a).flatten
  else if b.op = opSort then replyBlock (firsts.getD r 0) firsts
  else replyBlock (natSum firsts) firsts

/-- s with a step of a slot changed, uncommitted or still going round its ring. -/
def State.modStep (s : State) (l n : Nat) (f : StepSt → StepSt) : State :=
  let on (x : StepSt) : StepSt := if x.num = n then f x else x
  s.modSlot l fun S => { S with steps := S.steps.map on, ring := S.ring.map on }

/-- The neighbours that counts are passed on to: every one, or the ring successor. -/
def Slot.countTargets (S : Slot) : List Nat :=
  if S.bind.xtopo = 2 then (S.roleNbr 3).toList else List.range S.nbrs.length

/-- s with the counts this device computes for its local ranks sent to its neighbours, and COUNT_REPLY sent once every count is
known. -/
def State.countPhase (s : State) (l : Nat) (st : StepSt) : State :=
  let S := s.slot l
  let b := S.bind
  if !b.counts then s
  else
    let due := if b.deviceCounts then S.locals.filter fun r => !st.counting.contains r && (s.rankCounts l st r).isSome else []
    let s1 := due.foldl (fun s1 r =>
      let d := (((s.rankCounts l st r).getD []).map (toLE 4)).flatten
      S.countTargets.foldl (fun s1 i => s1.sendStream l (4096 + i) { kind := kCount, rank := r, step := st.num } (packParts b.cw 0 0 [(4, 0, d)])) s1) s
    let s2 := s1.modStep l st.num fun x => { x with counting := x.counting ++ due }
    match s.allCounts l st with
    | none => s2
    | some cs =>
      if st.counted then s2
      else
        let s3 := (S.locals.filter (s.receives l)).foldl (fun s3 r =>
          s3.sendStream l r { kind := kCountReply, rank := r, step := st.num } (packParts b.cw 0 0 [(4, 0, s.replyData l cs r)])) s2
        s3.modStep l st.num fun x => { x with counted := true }

/-! ### Partials (R147 to R150) -/

/-- A rank's value is among what the device holds of a step. -/
def State.covered (s : State) (l : Nat) (st : StepSt) (r : Nat) : Bool :=
  !s.contributes l r || (s.localLeaf l st r).isSome ||
  st.streams.any fun x => x.kind == kPartial && x.whole (s.slot l).bind.leafPieces && nodeCovers (tagNode x.tag) (0, r)

/-- The items of a rank's leaf, with their places in its contribution. -/
def State.leafItems (s : State) (l : Nat) (st : StepSt) (r : Nat) : List Item :=
  let S := s.slot l
  match s.leaf l st r with
  | none => []
  | some p => if S.bind.op = opTopK && !S.isLocal r then itemsFrom S.bind.fin (p.1.getD 0 []) (p.1.getD 1 []) else itemsOf S.bind.fin [(r, p.1.flatten)]

/-- Row blocks of a rank's leaf with global token indices: base + local index for a local member, as they come from another device (R166,
R167; log 39). -/
def State.leafRows (s : State) (l : Nat) (st : StepSt) (r : Nat) : List RowBlock :=
  let S := s.slot l
  let base := ((S.member? r).map fun m => (m.inStep st.num).base).getD 0
  match s.leaf l st r with
  | none => []
  | some p => ((readRows S.bind.p1 S.bind.p0 p.1.flatten).getD []).map fun b => { b with cands := b.cands.map fun c => (c.1, (base + c.2) % 2 ^ 32) }

/-- The candidates of row i among the top_k of some ranks under the selection order, which rank 0's block gives (R167). -/
def State.topCands (s : State) (l : Nat) (st : StepSt) (ranks : List Nat) (i : Nat) : List Cand :=
  let own := (s.leafRows l st 0).getD i {}
  ((orderCands own.invTemp ((ranks.map fun r => (((s.leafRows l st r).getD i {}).cands.map fun c => (c.2, c.1))).flatten)).take own.topK).map fun c => (c.1, c.2.2)

/-- What a device sends on of a rank's leaf, among those it sends: of OP_TOPK the elements of its local first k, with origin records (R164);
of OP_SAMPLE the top_k candidates of its members, all of them while it has not rank 0's block, which says what the order is (R167); the
leaf as it is otherwise, and a leaf passed round a ring (log 39). -/
def State.leafOut (s : State) (l : Nat) (st : StepSt) (ranks : List Nat) (r : Nat) : Option (List (List Byte) × List Byte) :=
  let S := s.slot l
  let b := S.bind
  match s.leaf l st r with
  | none => none
  | some p =>
    if b.xtopo = 2 && !S.isLocal r then some p
    else if b.op = opTopK then
      let mine := ((sortItems b.fin b.descending (ranks.map (s.leafItems l st)).flatten).take b.p0).filter fun i => i.rank == r
      some ([itemBytes b.fin mine, originBytes mine], p.2)
    else if b.op = opSample then
      let rows := s.leafRows l st r
      let cut (i : Nat) (row : RowBlock) : RowBlock :=
        if (s.leaf l st 0).isSome then { row with cands := let top := s.topCands l st ranks i; row.cands.filter fun c => top.contains (c.2, c.1) } else row
      some ([(((List.range rows.length).zip rows).map fun q => (cut q.1 q.2).bytes).flatten], p.2)
    else some p

/-- The nodes that a device may send on for a segment, those already sent and what they hold left out: tag, rank field, parts, digest. -/
def State.nodesToSend (s : State) (l : Nat) (st : StepSt) (v : Nat) : List (Nat × Nat × List (List Byte) × List Byte) :=
  let S := s.slot l
  let b := S.bind
  let sent := st.sentNodes.filter fun p => p.1 == v
  if b.reducing then
    if s.arrivalOrder then
      if sent.isEmpty && !((s.arrivalInputs l st v).isEmpty) then let a := s.arrivalValue l st v; [(nodeTag 15 0, a.slow, [elemsOut b.acc a.vec], a.dig)] else []
    else
      let held (L x : Nat) : Option NodeVal :=
        if sent.any fun p => nodeCovers (tagNode p.2) (L, x) then none else s.heldNode l st v L x
      (maximalNodes b.gsize b.join held (treeHeight b.gsize) 0).map fun p => (nodeTag p.1 p.2.1, p.2.2.slow, [elemsOut b.acc p.2.2.vec], p.2.2.dig)
  else
    let here (r : Nat) : Bool :=
      if b.xtopo = 2 then (if S.isLocal r then v == b.ringPos else st.streams.any fun x => x.kind == kPartial && x.tag == r && x.seg == v) else true
    let ranks := (List.range b.gsize).filter fun r => s.contributes l r && here r
    (ranks.filter fun r => !sent.any fun p => p.2 == r).filterMap fun r => (s.leafOut l st ranks r).map fun p => (r, r, p.1, p.2)

/-- Unit of a PARTIAL's data. -/
def Binding.partialUnit (b : Binding) : Nat := if b.reducing then unitBytes b.acc else b.inUnit

/-- s with the nodes of a segment sent on to a neighbour, and noted as sent. -/
def State.sendNodes (s : State) (l : Nat) (st : StepSt) (v i : Nat) : State :=
  let b := (s.slot l).bind
  (s.nodesToSend l st v).foldl (fun s p =>
    (s.sendStream l (4096 + i) { kind := kPartial, rank := p.2.1, step := st.num, tag := p.1, flags := fAcc }
      (s.partialPkts l v b.partialUnit p.2.2.1 p.2.2.2)).modStep l st.num fun x => { x with sentNodes := x.sentNodes ++ [(v, p.1)] }) s

/-- The local leaves that go out together are all here: OP_TOPK and OP_SAMPLE choose among them. -/
def State.leavesReady (s : State) (l : Nat) (st : StepSt) : Bool :=
  let b := (s.slot l).bind
  (b.op != opTopK && b.op != opSample) || s.localsIn l st

/-- s with what is due sent on: maximal nodes to the parent once everything below is here; in a ring, each segment that this device
does not own towards its owner once all of the ranks before it are gathered, or leaves round the ring (R149, R150). -/
def State.partialPhase (s : State) (l : Nat) (st : StepSt) : State :=
  let S := s.slot l
  let b := S.bind
  if b.xtopo = 1 then
    match S.roleNbr 1 with
    | none => s
    | some i =>
      if (if b.reducing && s.arrivalOrder then s.localsIn l st && S.childrenIn st else S.below.all (s.covered l st)) then s.sendNodes l st 0 i
      else s
  else if b.xtopo = 2 then
    match S.roleNbr 3 with
    | none => s
    | some i =>
      if b.op = opBroadcast then s
      else if b.reducing then
        ((List.range b.ringSize).filter fun v => v != b.ringPos && s.localsIn l st && (b.ringPos == (v + 1) % b.ringSize || s.ringIn l st v)).foldl
          (fun s v => s.sendNodes l st v i) s
      else ((List.range b.ringSize).filter fun v => v != S.nextPos && (v != b.ringPos || s.leavesReady l st)).foldl (fun s v => s.sendNodes l st v i) s
  else s

/-- Lineage digest of a result with an inputs digest (12 R340, 05 R177). -/
def State.lineageOf (s : State) (l : Nat) (inputs : List Byte) : List Byte :=
  let S := s.slot l
  let C := s.ctx S.bind.ctx
  let w := if S.bind.op = opDispatch then S.wDigest else if S.bind.op = opCombine then (s.slot S.bind.pair).wDigest else []
  sha256 (padTo 32 C.digest ++ padTo 32 w ++ padTo 32 inputs ++ toLE 8 C.signature.toNat)

/-- s after a step of a slot has taken something in: aborted when it must be, else its counts and partials sent on. -/
def State.progress (s : State) (l n : Nat) : State :=
  match (s.slot l).steps.find? fun x => x.num == n with
  | none => s
  | some st =>
    if (s.slot l).bind.user then s
    else match s.stepBad l st with
      | some status => s.abortSteps l status [n] none
      | none => (s.countPhase l st).partialPhase l st

end Sys2Proof.Machine
end

