-- ==== Sys2Proof/Machine/CollCommit.lean ====
section
/-!
DEFINITION. Results of a collective step (file 05): what each recipient gets (R159 to R170), when a step may commit (R152), and the
commit with its release of RESULT packets (R154, R162, R173).
-/

namespace Sys2Proof.Machine

/-! ### What a recipient gets -/

/-- The pieces of a rank's leaf; none known reads as nothing. -/
def State.leafParts (s : State) (l : Nat) (st : StepSt) (r : Nat) : List (List Byte) := ((s.leaf l st r).map (·.1)).getD []

/-- All bytes of a rank's leaf. -/
def State.leafBytes (s : State) (l : Nat) (st : StepSt) (r : Nat) : List Byte := (s.leafParts l st r).flatten

/-- Every rank's leaf, ascending. -/
def State.leaves (s : State) (l : Nat) (st : StepSt) : List (Nat × List Byte) :=
  (List.range (s.slot l).bind.gsize).map fun r => (r, s.leafBytes l st r)

/-- Counts of every rank; none when they are not all known. -/
def State.countsOf (s : State) (l : Nat) (st : StepSt) : List (List Nat) := (s.allCounts l st).getD []

/-- The block that rank i sends to rank j (R161). -/
def State.blockOf (s : State) (l : Nat) (st : StepSt) (i j : Nat) : List Byte :=
  if i = j then []
  else
    let b := (s.slot l).bind
    let cs := (s.countsOf l st).getD i []
    let before := natSum ((List.range j).map fun k => if k = i then 0 else elemBytes b.fin (cs.getD k 0))
    ((s.leafBytes l st i).drop before).take (elemBytes b.fin (cs.getD j 0))

/-- The routing record of a step of OP_MOE_DISPATCH, by source rank (R169). -/
def State.routingOf (s : State) (l : Nat) (st : StepSt) : List (Nat × List (List (Nat × (Nat × Bool)))) :=
  let S := s.slot l
  let cs := s.countsOf l st
  let acc := (List.range S.bind.experts).map fun e => S.bind.accepted cs e
  (s.leaves l st).map fun p => (p.1, markAccepted (fun e => (acc.getD e []).getD p.1 0) (S.routes p.2))

/-- The expert accepted the token. -/
def takes (e : Nat) (route : List (Nat × (Nat × Bool))) : Bool := route.any fun p => p.1 == e && p.2.2

/-- The tokens of rank r that expert e accepts, in token order. -/
def State.tokensFor (s : State) (l : Nat) (st : StepSt) (e r : Nat) : List Byte :=
  let S := s.slot l
  let routes := ((s.routingOf l st).getD r (0, [])).2
  let k := elemBytes S.bind.fin S.bind.nmax
  (((List.range routes.length).filter fun t => takes e (routes.getD t [])).map fun t => Machine.slice (s.leafBytes l st r) (t * k) k).flatten

/-- The routing record that a step of OP_MOE_COMBINE uses (R170). -/
def State.pairRouting (s : State) (l n : Nat) : Option (List (Nat × List (List (Nat × (Nat × Bool))))) :=
  ((s.slot (s.slot l).bind.pair).routing.find? fun x => x.num == n).map (·.ranks)

/-- Tokens of rank r that expert e accepted, under a routing record. -/
def acceptedOf (R : List (Nat × List (List (Nat × (Nat × Bool))))) (e r : Nat) : Nat :=
  ((R.getD r (0, [])).2.filter (takes e)).length

/-- Output of expert e for token t of rank r, as bytes: owners return the outputs of each expert's accepted tokens in order (R170). -/
def State.expertOut (s : State) (l : Nat) (st : StepSt) (R : List (Nat × List (List (Nat × (Nat × Bool))))) (e r t : Nat) : List Byte :=
  let b := (s.slot l).bind
  let k := elemBytes b.fin b.nmax
  let o := (s.owners l).getD e 0
  let total (x : Nat) : Nat := natSum ((List.range b.gsize).map (acceptedOf R x))
  let first := natSum (((s.owned l o).filter (· < e)).map total) + natSum ((List.range r).map (acceptedOf R e)) +
    (((R.getD r (0, [])).2.take t).filter (takes e)).length
  Machine.slice (s.leafBytes l st o) (first * k) k

/-- The result of OP_MOE_COMBINE for source rank r. -/
def State.combined (s : State) (l : Nat) (st : StepSt) (r : Nat) : List Byte :=
  let b := (s.slot l).bind
  match s.pairRouting l st.num with
  | none => []
  | some R =>
    let routes := (R.getD r (0, [])).2
    ((List.range routes.length).map fun t =>
      elemsOut b.fout ((combineToken b.nmax (routes.getD t []) fun e => (elems b.fin (s.expertOut l st R e r t)).map b.fin.decode).map
        (convertOut b.fout b.rm .fp32))).flatten

/-- The tokens and values of OP_SAMPLE, one record per row (R166, R167). -/
def State.sampled (s : State) (l : Nat) (st : StepSt) : List Byte :=
  let b := (s.slot l).bind
  let rows := (List.range b.gsize).map (s.leafRows l st)
  ((List.range b.p0).map fun i =>
    let t := sampleRow ((rows.headD []).getD i {}) ((rows.map fun p => (p.getD i {}).cands.map fun c => (c.2, c.1)).flatten)
    toLE 4 t.1 ++ toLE 4 t.2).flatten

/-- Values of items and, with the origin flag, their origin records. -/
def Binding.itemParts (b : Binding) (l : List Item) : List (List Byte) :=
  itemBytes b.fin l :: (if b.origin then [originBytes l] else [])

/-- Sources that send recipient j of OP_ALLTOALLV a block, ascending; its own is not sent through the device (R161). -/
def State.sourcesOf (s : State) (l : Nat) (st : StepSt) (j : Nat) : List Nat :=
  let cs := s.countsOf l st
  (List.range cs.length).filter fun i => i != j && decide (0 < (cs.getD i []).getD j 0)

/-- The result for recipient j of an operator that reduces nothing, in its pieces, at a device that computes it: of OP_ALLTOALLV a stream
for each source, which lands at the offset its COUNT_REPLY gives (R161; log 93). -/
def State.resultParts (s : State) (l : Nat) (st : StepSt) (j : Nat) : List (List Byte) :=
  let b := (s.slot l).bind
  let ranks := List.range b.gsize
  let firsts := (s.countsOf l st).map fun c => c.getD 0 0
  let sorted := sortItems b.fin b.descending (ranks.map (s.leafItems l st)).flatten
  if b.op = opAllGather then (List.range b.pieces).map fun i => (ranks.map fun r => (s.leafParts l st r).getD i []).flatten
  else if b.op = opAllToAll then (match s.sourcesOf l st j with | [] => [[]] | is => is.map fun i => s.blockOf l st i j)
  else if b.op = opBroadcast then [s.leafBytes l st b.root]
  else if b.op = opSort then b.itemParts ((sorted.drop ((prefixSums firsts).getD j 0)).take (firsts.getD j 0))
  else if b.op = opTopK then b.itemParts (sorted.take b.p0)
  else if b.op = opFilter then b.itemParts (b.survivors (s.leaves l st))
  else if b.op = opSample then [s.sampled l st]
  else if b.op = opDispatch then (s.owned l j).map fun e => (ranks.map fun r => s.tokensFor l st e r).flatten
  else [s.combined l st j]

/-- The data that recipient j received from rank i, for the lineage trees of R177. -/
def State.fromSource (s : State) (l : Nat) (st : StepSt) (j i : Nat) : List Byte :=
  let b := (s.slot l).bind
  if b.op = opAllToAll then s.blockOf l st i j
  else if b.op = opDispatch then ((s.owned l j).map fun e => s.tokensFor l st e i).flatten
  else match s.pairRouting l st.num with
    | none => []
    | some R =>
      let routes := (R.getD j (0, [])).2
      ((s.owned l i).map fun e =>
        (((List.range routes.length).filter fun t => takes e (routes.getD t [])).map fun t => s.expertOut l st R e j t).flatten).flatten

/-- Inputs digest of recipient j's result (R177). -/
def State.inputsDigest (s : State) (l : Nat) (st : StepSt) (j : Nat) : List Byte :=
  let b := (s.slot l).bind
  if b.op = opAllToAll || b.op = opDispatch || b.op = opCombine then hashTree b.gsize fun i => if i < b.gsize then some (sha256 (s.fromSource l st j i)) else none
  else hashTree b.gsize fun r => (s.leaf l st r).map (·.2)

/-! ### Where results come from -/

/-- This device computes results of the slot: a single device, the root of a tree, every device of a ring for operators whose leaves go
round, the root member's device for OP_BROADCAST in a ring. -/
def State.computes (s : State) (l : Nat) : Bool :=
  let S := s.slot l
  let b := S.bind
  b.xtopo == 0 || (b.xtopo == 1 && (S.roleNbr 1).isNone) || (b.xtopo == 2 && !b.reducing && (b.op != opBroadcast || S.isLocal b.root))

/-- Pieces of a result for rank j. -/
def State.resultPieces (s : State) (l : Nat) (st : StepSt) (j : Nat) : Nat :=
  let b := (s.slot l).bind
  if b.op = opAllToAll then max 1 (s.sourcesOf l st j).length
  else if b.origin || b.scaled then 2 else if b.op = opDispatch then (s.owned l j).length else 1

/-- The RESULT stream that holds recipient j's result at a device that receives it. -/
def State.resultStream (s : State) (l : Nat) (st : StepSt) (j : Nat) : Option Stream :=
  let b := (s.slot l).bind
  let r := if b.perRecipient then j else 0
  st.streams.find? fun x => x.kind == kResult && x.rank == r && x.whole (s.resultPieces l st j)

/-- Segment r of a result under OP_REDUCE_SCATTER, all of it otherwise (R159). -/
def Binding.shareOf (b : Binding) (r : Nat) (d : List Byte) : List Byte :=
  if b.op = opReduceScatter then
    let g := segment (elemCount b.fout d.length) b.gsize r
    Machine.slice d (elemBytes b.fout g.1) (elemBytes b.fout g.2)
  else d

/-- The result of recipient j with its lineage digest, once the device can give it; a ring that reduces gives its result by segments. -/
def State.resultFor (s : State) (l : Nat) (st : StepSt) (j : Nat) : Option (List (List Byte) × List Byte) :=
  let b := (s.slot l).bind
  if s.computes l then
    if b.reducing then (s.rootValue l st 0).map fun r => ([b.shareOf j (b.rootBytes r)], s.lineageOf l r.dig)
    else some (s.resultParts l st j, s.lineageOf l (s.inputsDigest l st j))
  else (s.resultStream l st j).map fun x => (x.parts, x.digest)

/-- The step before it has been committed by the pair slot, and its routing record is here where this device needs it (R170). -/
def State.pairReady (s : State) (l n : Nat) : Bool :=
  let b := (s.slot l).bind
  b.op != opCombine || (decide (n < (s.slot b.pair).sLow) && (!s.computes l || (s.pairRouting l n).isSome))

/-- A returned stream of expert outputs has not the length of the tokens the expert accepted (R156, R170). -/
def State.outputsBad (s : State) (l : Nat) (st : StepSt) : Bool :=
  let b := (s.slot l).bind
  b.op == opCombine && s.computes l &&
  match s.pairRouting l st.num with
  | none => false
  | some R => (List.range (s.owners l).length).any fun e =>
      match st.whole? kContrib ((s.owners l).getD e 0) e 0 1 with
      | none => false
      | some x => x.data.length != natSum ((List.range b.gsize).map (acceptedOf R e)) * elemBytes b.fin b.nmax

/-- A step has all it needs to commit (R152): in a ring that reduces, the root of the segment this device owns (R150; log 94). -/
def State.stepReady (s : State) (l : Nat) (st : StepSt) : Bool :=
  let S := s.slot l
  let b := S.bind
  b.user ||
  ((!b.counts || st.counted) && s.pairReady l st.num &&
    (if b.ringReduce then (s.rootValue l st b.ringPos).isSome
     else if s.computes l then
      if b.reducing then (s.rootValue l st 0).isSome
      else (List.range b.gsize).all fun r => !s.contributes l r || (s.leaf l st r).isSome
     else if b.perRecipient then
      (S.below.filter (s.receives l)).all (fun j => (s.resultStream l st j).isSome) && S.below.all (s.covered l st)
     else (s.resultStream l st 0).isSome))

/-! ### Commit and release (R152, R154, R162) -/

/-- The RESULT packets of a result. -/
def State.resultPkts (s : State) (l seg : Nat) (r : List (List Byte) × List Byte) : List RPkt :=
  let b := (s.slot l).bind
  attachDigest b.cw (if s.lineageOn l then some (padTo 32 r.2) else none)
    (packParts b.cw seg 0 (((List.range r.1.length).zip r.1).map fun p => ((b.shape p.1).1, (b.shape p.1).2, p.2)))

/-- RESULT packets for the local members, in ascending rank. -/
def State.memberResults (s : State) (l : Nat) (st : StepSt) : List (Nat × List RPkt) :=
  (((s.slot l).locals.filter (s.receives l)).filterMap fun j => (s.resultFor l st j).map fun r => (j, s.resultPkts l 0 r))

/-- RESULT streams for the children or the ring successor: recipient, rank field, packets. -/
def State.onwardResults (s : State) (l : Nat) (st : StepSt) : List (Nat × Nat × List RPkt) :=
  let S := s.slot l
  let b := S.bind
  if b.xtopo = 1 then
    (S.children.map fun i =>
      match S.nbr? i with
      | none => []
      | some c =>
        let ranks := if b.perRecipient then
            (List.range b.gsize).filter fun j => decide (c.lo ≤ j) && decide (j ≤ c.hi) && s.receives l j && !S.isLocal j
          else [0]
        ranks.filterMap fun j => (s.resultFor l st j).map fun r => (4096 + i, j, s.resultPkts l 0 r)).flatten
  else if b.xtopo = 2 && b.op == opBroadcast then
    match S.roleNbr 3 with
    | none => []
    | some i =>
      let seg := if s.computes l then b.ringPos else ((s.resultStream l st 0).map (·.seg)).getD 0
      if S.nextPos = seg then [] else ((s.resultFor l st 0).map fun r => (4096 + i, 0, s.resultPkts l seg r)).toList
  else []

/-- s with results sent: recipient by recipient, or, for OP_BROADCAST, chunk by chunk (R162). -/
def State.releaseAll (s : State) (l n : Nat) (chunkwise : Bool) (outs : List (Nat × Nat × List RPkt)) : State :=
  let flat := (outs.map fun o => o.2.2.map fun p => (o.1, o.2.1, p)).flatten
  let order := if chunkwise then flat.mergeSort fun a b => decide (a.2.2.chunk ≤ b.2.2.chunk) else flat
  order.foldl (fun s o => s.sendStream l o.1 { kind := kResult, rank := o.2.1, step := n } [o.2.2]) s

/-! ### The gather phase of a ring that reduces (R150, R152; log 94) -/

/-- Segment v has been sent on. -/
def StepSt.released (st : StepSt) (v : Nat) : Bool := st.sentNodes.contains (v, 65536)

/-- The segments of a ring's result that a device holds: its own once its root is complete, and those received. -/
def State.ringHeld (s : State) (l : Nat) (st : StepSt) : List (Nat × List Byte) :=
  let b := (s.slot l).bind
  (match s.rootValue l st b.ringPos with | some r => [(b.ringPos, b.rootBytes r)] | none => []) ++
  ((st.streams.filter fun x => x.kind == kResult && x.whole 1).map fun x => (x.seg, x.data))

/-- Lineage digest of a ring's result: the root of a segment has seen every leaf (R177). -/
def State.ringLineage (s : State) (l : Nat) (st : StepSt) : List Byte :=
  match s.rootValue l st (s.slot l).bind.ringPos with
  | some r => s.lineageOf l r.dig
  | none => []

/-- s with a segment of a committed step sent to the ring successor, unless it owns the segment. The last RESULT packet that the successor
gets of the step ends with the lineage digest (R177). -/
def State.passSegment (s : State) (l n v : Nat) (d digest : List Byte) : State :=
  let S := s.slot l
  let b := S.bind
  match S.ring.find? fun x => x.num == n, S.roleNbr 3 with
  | some st, some i =>
    let last := (List.range b.ringSize).all fun u => u == v || u == S.nextPos || st.released u
    let s1 := s.modStep l n fun x => { x with sentNodes := x.sentNodes ++ [(v, 65536)] }
    if v = S.nextPos then s1
    else s1.sendStream l (4096 + i) { kind := kResult, step := n }
      (attachDigest b.cw (if last && s.lineageOn l then some (padTo 32 digest) else none) (packParts b.cw v 0 [(unitBytes b.fout, 0, d)]))
  | _, _ => s

/-- s with the segments of a committed step that are here sent on round the ring, this device's own first; once all of them are here the
members get their results, each one stream with seg 0, and the step is done. -/
def State.ringFlow (s : State) (l n : Nat) : State :=
  let b := (s.slot l).bind
  match (s.slot l).ring.find? fun x => x.num == n with
  | none => s
  | some st =>
    let held := s.ringHeld l st
    let digest := s.ringLineage l st
    let s1 := (held.filter fun x => !st.released x.1).foldl (fun s x => s.passSegment l n x.1 x.2 digest) s
    let segs := (List.range b.ringSize).map fun v => (held.find? fun x => x.1 == v).map (·.2)
    if segs.all Option.isSome then
      let d := (segs.filterMap id).flatten
      let mine := ((s.slot l).locals.filter (s.receives l)).map fun j => (j, s.resultPkts l 0 ([b.shareOf j d], digest))
      (s1.modSlot l fun S => { S with
        ring := S.ring.filter fun x => x.num != n
        kept := S.kept.map fun c => if c.num = n then { c with outs := mine } else c }).releaseAll l n false (mine.map fun o => (o.1, o.1, o.2))
    else s1

/-- A slot with the drops at the gate and beyond capacity of a committed dispatch step counted: those of its local tokens, and of the
experts that its local ranks own (R169). -/
def State.countMoe (s : State) (l : Nat) (st : StepSt) (S : Slot) : Slot :=
  if S.bind.op = opDispatch then
    let cs := s.countsOf l st
    let gate := natSum (S.locals.map fun r => ((S.routes (s.leafBytes l st r)).filter List.isEmpty).length)
    let cap := natSum ((List.range S.bind.experts).map fun e =>
      if S.isLocal (S.owners.getD e 0) then let c := cs.map fun x => x.getD e 0; natSum c - natSum (S.bind.accepted cs e) else 0)
    { S with gateDrop := S.gateDrop + BitVec.ofNat 64 gate, capDrop := S.capDrop + BitVec.ofNat 64 cap }
  else S

/-- s with a step of a slot committed: straggler record and counters, the commit buffer kept, routing records kept or given up, and the
results released. A ring that reduces then sends on the segments that are here, and the others as they come round. -/
def State.commitStep (s : State) (l : Nat) (st : StepSt) : State :=
  let S := s.slot l
  let b := S.bind
  let n := st.num
  let mine := if b.user || b.ringReduce then [] else s.memberResults l st
  let onward := if b.user || b.ringReduce then [] else s.onwardResults l st
  let route : List Routing := if b.op = opDispatch then [{ num := n, ranks := s.routingOf l st }] else []
  let s1 := (s.straggle l st false).modSlot l fun S1 => s.countMoe l st { S1 with
    sLow := n + 1
    steps := S1.steps.filter fun x => x.num != n
    kept := ({ num := n, outs := mine } : Commit) :: S1.kept.filter fun c => decide (n < c.num + b.depth)
    ring := (S1.ring.filter fun x => decide (n < x.num + b.depth)) ++ (if b.ringReduce then [st] else [])
    aborted := S1.aborted.filter fun x => decide (n < x)
    routing := S1.routing ++ route }
  let s2 := if b.op = opCombine then s1.modSlot b.pair fun P => { P with routing := P.routing.filter fun x => x.num != n } else s1
  (s2.releaseAll l n (b.op == opBroadcast) (mine.map (fun o => (o.1, o.1, o.2)) ++ onward)).ringFlow l n

end Sys2Proof.Machine
end

