-- ==== Sys2Proof/Machine/Collectives.lean ====
section
/-!
DEFINITION. The rows of a running collective (file 05): receiving each packet kind on a lane Tiller (R140 to R143, R403), committing a
step (R152), its timeout (R155), and answering RESULT_REQUEST (R154).
-/

namespace Sys2Proof.Machine

/-! ### Acceptance (R143, R403) -/

/-- The prefix keeps to R403. -/
def State.prefixOk (s : State) (p : Pkt) (c : CPrefix) : Bool :=
  let b := (s.slot p.slotNo).bind
  let tagged := c.kind == kPartial || (c.kind == kContrib && (b.op == opAllToAll || b.op == opCombine))
  c.slot == p.slotNo && (c.status == 0 || c.kind == kAbort) &&
  (b.user ||
    ((!c.flags.testBit 1 || (c.kind == kResult && b.origin)) &&
     (!c.flags.testBit 2 || ((c.kind == kPartial || c.kind == kResult) && c.flags.testBit 0 && s.lineageOn p.slotNo)) &&
     (c.flags.testBit 3 == (c.kind == kPartial)) &&
     (c.tag == 0 || tagged) &&
     (c.seg == 0 || ((c.kind == kPartial || c.kind == kResult) && b.xtopo == 2))))

/-- Why a packet is not accepted: 1 protocol, 2 window, 3 duplicate of a committed step (R143), but for the segments of a ring's result that
are still coming round (R150; log 94). -/
def State.refuses (s : State) (p : Pkt) (c : CPrefix) : Option Nat :=
  let S := s.slot p.slotNo
  if S.state ≠ .bound || c.gen ≠ S.bind.gen || !s.prefixOk p c then some 1
  else if c.step < S.sLow && c.kind ≠ kRequest && !(c.kind == kResult && S.ring.any fun x => x.num == c.step) then some 3
  else if S.sLow + S.bind.depth ≤ c.step then some 2
  else none

/-- s with a packet dropped and counted in its slot (R143). -/
def State.collDrop (s : State) (l why : Nat) : State :=
  if why = 1 then s.protoDrop l else if why = 2 then s.windowDrop l else s.dupDrop l

/-- The collective packet at the head of Tiller t's receive queue that no row has looked at. -/
def State.collHead (s : State) (t : Nat) : Option Pkt :=
  match (s.tl t).recvQ with
  | p :: _ => if p.kind = 1 && p.origin == 0 then some p else none
  | [] => none

/-- Slot l with a step started at the first packet it accepts (R152). -/
def State.startStep (s : State) (l n : Nat) : State :=
  if ((s.slot l).steps ++ (s.slot l).ring).any fun x => x.num == n then s
  else s.modSlot l fun S => { S with steps := S.steps ++ [{ num := n, start := s.t3 }], aborted := S.aborted.filter (· != n) }

/-- The packet's data, without a lineage digest at its end. -/
def collData (p : Pkt) (c : CPrefix) : List Byte :=
  let d := p.payload.drop 16
  if c.flags.testBit 2 then d.take (d.length - 32) else d

/-- The lineage digest a packet ends with. -/
def collDigest (p : Pkt) (c : CPrefix) : List Byte :=
  let d := p.payload.drop 16
  if c.flags.testBit 2 then d.drop (d.length - 32) else []

/-- Units in bytes of the pieces of the stream that a packet belongs to. -/
def Binding.unitsOf (b : Binding) (c : CPrefix) : List Nat :=
  if c.kind = kCount then [4]
  else if c.kind = kPartial && b.reducing then [unitBytes b.acc]
  else if c.kind = kPartial && b.op = opTopK then [unitBytes b.fin, 8]
  else if c.kind = kResult then
    (if b.op = opSample || c.flags.testBit 1 then [8] else if b.scaled then [unitBytes b.fout, 1] else [unitBytes b.fout])
  else if b.scaled then [unitBytes b.fin, 1] else [b.inUnit]

/-- The step a packet belongs to; an empty one if it has not started. -/
def State.stepOf (s : State) (l n : Nat) : StepSt :=
  (((s.slot l).steps ++ (s.slot l).ring).find? fun x => x.num == n).getD { num := n, start := s.t3 }

/-- Two packets belong to the same stream: same kind, rank, tag and seg (R143). -/
def sameStream (c : CPrefix) (x : Stream) : Bool := x.kind == c.kind && x.rank == c.rank && x.tag == c.tag && x.seg == c.seg

/-- A chunk already held. -/
def StepSt.holds (st : StepSt) (c : CPrefix) : Bool := st.streams.any fun x => sameStream c x && x.chunks.any fun k => k.1 == c.chunk

/-- The units that a packet's chunk may be made of: of a stream in two pieces, those of the piece it is known to lie in. -/
def StepSt.unitsAt (st : StepSt) (c : CPrefix) (units : List Nat) : List Nat :=
  let ends := ((st.streams.find? (sameStream c)).map (·.ends)).getD []
  if c.chunk = 0 || ends.length = 2 && ends.all (c.chunk < ·) then units.take 1
  else if ends.any (· < c.chunk) then units.drop (units.length - 1)
  else units

/-- The data is a chunk under R142: at most chunk_words words, a lineage digest among them, and whole elements. -/
def Binding.chunkOk (b : Binding) (st : StepSt) (p : Pkt) (c : CPrefix) : Bool :=
  decide ((p.payload.drop 16).length ≤ b.limit) && (st.unitsAt c (b.unitsOf c)).any fun u => (collData p c).length % u == 0

/-- A stream with a packet added; the last flag stamps it (R173). -/
def Stream.add (x : Stream) (p : Pkt) (c : CPrefix) (place : Nat) (keep : Bool) : Stream :=
  let d := if keep then collData p c else []
  let x := { x with chunks := x.chunks ++ [(c.chunk, (place, d))] }
  if c.flags.testBit 0 then
    { x with ends := x.ends ++ [c.chunk], stamp := p.stamp, port := p.inPort, slow := c.rank,
             digest := if c.flags.testBit 2 then collDigest p c else x.digest }
  else x

/-- s with a packet taken into its step. -/
def State.takeIn (s : State) (l : Nat) (p : Pkt) (c : CPrefix) (nbr : Option Nat) : State :=
  let s := s.startStep l c.step
  let S := s.slot l
  let keep := !S.bind.user
  let new : Stream := { kind := c.kind, rank := c.rank, tag := c.tag, seg := c.seg, nbr := nbr }
  (s.modStep l c.step fun st => { st with
    streams := if st.streams.any (sameStream c) then st.streams.map fun x => if sameStream c x then x.add p c S.arrivals keep else x
               else st.streams ++ [new.add p c S.arrivals keep] }).modSlot l fun S => { S with arrivals := S.arrivals + 1 }

/-- s after a packet that passes the checks of its kind, or is dropped as a duplicate or a protocol error. -/
def State.admitPacket (s : State) (l : Nat) (p : Pkt) (c : CPrefix) (nbr : Option Nat) (ok : Bool) : State :=
  let st := s.stepOf l c.step
  if !ok || !(s.slot l).bind.chunkOk st p c then s.protoDrop l
  else if st.holds c then s.dupDrop l
  else (s.takeIn l p c nbr).progress l c.step

/-! ### Whom a packet comes from -/

/-- Port that the route to a neighbour leaves by. -/
def Nbr.port (n : Nbr) : Nat := fieldAt n.route 1 1 % 64

/-- A packet arrived on a port where a member attaches and that leads to no neighbour (R141; log 41). -/
def Slot.fromMember (S : Slot) (p : Pkt) : Bool := S.members.any (fun m => m.port == p.inPort) && !S.nbrs.any fun n => n.port == p.inPort

/-- Index of the neighbour a STEP_ABORT or STEP_REPLAY comes from: the one reached through the port it arrived on, else the parent or the
ring successor; none for a packet of a member (log 41). -/
def Slot.nbrOnPort (S : Slot) (p : Pkt) : Option Nat :=
  if S.fromMember p then none
  else match S.nbrs.findIdx? fun n => n.port == p.inPort with
    | some i => some i
    | none => match S.roleNbr 1 with | some i => some i | none => S.roleNbr 3

/-- A packet of a member kind comes from the port of a member that COLL_SUBSTITUTE has replaced (R175). -/
def Slot.fromReplaced (S : Slot) (p : Pkt) (c : CPrefix) : Bool :=
  (c.kind == kContrib || c.kind == kCount || c.kind == kRequest) && (match S.member? c.rank with | some m => m.replaced c.step p.inPort | none => false)

/-- A packet of a kind and direction that R141 lists, as far as a user operator's slot can tell: its program gives the other fields their
meaning (R171, R403). -/
def Slot.userListed (S : Slot) (p : Pkt) (c : CPrefix) : Bool :=
  decide (1 ≤ c.kind) && decide (c.kind ≤ kRequest) && c.kind != kCountReply &&
  (c.kind == kContrib || c.kind == kCount || c.kind == kRequest || (S.nbrOnPort p).isSome)

/-- A row that receives packets of some kinds on lane Tiller t: the head packet leaves the queue with its cells and is dropped and
counted, or taken in. A user operator's program receives it itself, after the prefix checks, the step window and the check for duplicates
(R171). In a WEDGED device nothing is received any more (R176). -/
def onReceive (t : Nat) (s : State) (kinds : Nat → Bool) (act : Nat → Pkt → CPrefix → State → State) : Host.Outcome State Fault Refusal :=
  onUnit (t < 192) s
    (match s.collHead t with
      | none => s
      | some p =>
        let c := readPrefix p.payload
        let l := p.slotNo
        if !kinds c.kind || s.dev.state = .wedged then s
        else
          let s1 := (s.release p).modT t fun T => { T with recvQ := T.recvQ.tail }
          match s.refuses p c with
          | some why => s1.collDrop l why
          | none =>
            let S := s.slot l
            if !S.bind.user then act l p c s1
            else if !S.userListed p c || S.fromReplaced p c then s1.protoDrop l
            else if (s.stepOf l c.step).holds c then s1.dupDrop l
            else (s.modT t fun T => { T with recvQ := { p with origin := 1 } :: T.recvQ.tail }).takeIn l p c (if c.kind = kContrib then none else S.nbrOnPort p))

/-! ### Members' packets -/

/-- A packet of a rank comes from the member that holds it in the step: not from the port of a member replaced (R175). -/
def Slot.memberOk (S : Slot) (p : Pkt) (c : CPrefix) : Bool := S.isLocal c.rank && !S.fromReplaced p c

/-- A CONTRIB that its operator takes: not before its COUNT_REPLY, and the tokens of OP_MOE_DISPATCH not before the member's count (R158, R161,
R162, R170). -/
def State.contribOk (s : State) (l : Nat) (p : Pkt) (c : CPrefix) : Bool :=
  let S := s.slot l
  let b := S.bind
  let st := s.stepOf l c.step
  S.memberOk p c && s.contributes l c.rank && (!b.afterReply || st.counted) && (b.op != opDispatch || (st.countOf c.rank).isSome) &&
  (if b.op = opAllToAll then
      c.tag != c.rank && (match st.countOf c.rank with | some cs => decide (0 < cs.getD c.tag 0) | none => false)
   else if b.op = opCombine then (s.owned l c.rank).contains c.tag else true)

/-- A contribution grows beyond n_max elements with this packet (R156). -/
def State.tooMuch (s : State) (l : Nat) (c : CPrefix) (d : List Byte) : Bool :=
  let b := (s.slot l).bind
  let held := ((s.stepOf l c.step).stream? kContrib c.rank c.tag c.seg).map fun x => x.data.length
  b.op != opDispatch && b.op != opCombine && !b.scaled && decide (b.nmax < elemCount b.fin (held.getD 0 + d.length))

/-- CONTRIB_RECEIVE: a member's contribution, or a packet of an unlisted kind or direction, which is a protocol error (R141, R143). -/
def execContribReceive (t : Nat) (s : State) : Host.Outcome State Fault Refusal :=
  onReceive t s (fun k => k == kContrib || k == 0 || k == kCountReply || decide (kRequest < k)) fun l p c s =>
    let b := (s.slot l).bind
    let ok := c.kind == kContrib && s.contribOk l p c
    let st := s.stepOf l c.step
    if ok && b.chunkOk st p c && !st.holds c && s.tooMuch l c (collData p c) then
      (s.takeIn l p c none).abortSteps l stBadParam [c.step] none
    else s.admitPacket l p c none ok

/-- Index of the neighbour a packet comes from, by what it is: a PARTIAL from the child below which its ranks lie or from the ring
predecessor; a RESULT from the parent or the predecessor; a COUNT of a remote rank from the child that reaches it, else from the parent
or the predecessor (log 41). -/
def Slot.senderOf (S : Slot) (c : CPrefix) : Option Nat :=
  if S.bind.xtopo = 2 then S.roleNbr 4
  else if c.kind = kPartial then S.childOf (if c.tag / 4096 = 15 then c.rank else c.tag % 4096 * 2 ^ (c.tag / 4096))
  else if c.kind = kResult then S.roleNbr 1
  else match S.childOf c.rank with
    | some i => some i
    | none => S.roleNbr 1

/-- COUNT_RECEIVE: counts of a member, or of another device's rank, which are passed on to every other neighbour (R157). The count of a local
rank that comes back round a ring is a duplicate (R143). -/
def execCountReceive (t : Nat) (s : State) : Host.Outcome State Fault Refusal :=
  onReceive t s (· == kCount) fun l p c s =>
    let S := s.slot l
    let b := S.bind
    let pass (s : State) (dests : List Nat) : State := dests.foldl (fun s i => s.slotSend l (4096 + i) { c with slot := 0, gen := 0 } (collData p c)) s
    let fresh (s1 : State) : Bool := !(s.stepOf l c.step).holds c && (s1.stepOf l c.step).holds c
    if S.isLocal c.rank then
      if b.xtopo = 2 && b.counts && !b.memberCounts && (S.nbrOnPort p).isSome then s.dupDrop l
      else
        let s1 := s.admitPacket l p c none (b.memberCounts && S.memberOk p c)
        if b.op = opDispatch || !fresh s1 then s1 else pass s1 S.countTargets
    else
      let i := S.senderOf c
      let s1 := s.admitPacket l p c i (b.counts && i.isSome && decide (c.rank < b.gsize) && !S.fromMember p)
      if fresh s1 then pass s1 (S.countTargets.filter fun j => some j != i) else s1

/-- RESULT_REQUEST_RECEIVE: the kept results of a step are sent again to the member; STEP_ABORT with DELIVERY_LOST when they are gone;
nothing for a step not yet committed, or whose result is still coming round the ring (R154). -/
def execResultRequestReceive (t : Nat) (s : State) : Host.Outcome State Fault Refusal :=
  onReceive t s (· == kRequest) fun l p c s =>
    let S := s.slot l
    if !S.memberOk p c then s.protoDrop l
    else if S.sLow ≤ c.step || S.ring.any fun x => x.num == c.step then s
    else
      match (S.kept.find? fun k => k.num == c.step && !k.lost) with
      | none => s.slotSendAll l { kind := kAbort, status := stDeliveryLost, step := c.step } [c.rank]
      | some k =>
        let mine := (k.outs.filter fun o => o.1 == c.rank).map fun o => (o.1, o.1, o.2)
        s.releaseAll l c.step false mine

/-! ### Neighbours' packets -/

/-- PARTIAL_RECEIVE: a node of another device (R148); the last packet of its stream must end with the node's digest while lineage is in
force (R177). -/
def execPartialReceive (t : Nat) (s : State) : Host.Outcome State Fault Refusal :=
  onReceive t s (· == kPartial) fun l p c s =>
    let S := s.slot l
    let b := S.bind
    let i := S.senderOf c
    let node := tagNode c.tag
    let tagOk := if b.reducing then (if s.arrivalOrder then c.tag == nodeTag 15 0 else decide (node.1 ≤ treeHeight b.gsize) && decide (node.2 * 2 ^ node.1 < b.gsize))
                 else decide (c.tag < b.gsize)
    s.admitPacket l p c i (b.xtopo != 0 && i.isSome && tagOk && !S.fromMember p && (b.scaled || !c.flags.testBit 0 || c.flags.testBit 2 == s.lineageOn l))

/-- RESULT_RECEIVE: a result passed down a tree or round a ring; a ring's segment goes on once this device's commit record stands (R149, R150,
R152). -/
def execResultReceive (t : Nat) (s : State) : Host.Outcome State Fault Refusal :=
  onReceive t s (· == kResult) fun l p c s =>
    let S := s.slot l
    let b := S.bind
    let i := S.senderOf c
    (s.admitPacket l p c i (b.xtopo != 0 && i.isSome && !s.computes l && !S.fromMember p &&
      (b.xtopo == 1 || (decide (c.seg < b.ringSize) && c.seg != b.ringPos)))).ringFlow l c.step

/-- STEP_ABORT_RECEIVE: the same step is aborted here, and after a timeout every later one, and the abort is passed on, also of a step not
begun here (R155); one that has been aborted here and passed on already is not passed on again (log 40). -/
def execStepAbortReceive (t : Nat) (s : State) : Host.Outcome State Fault Refusal :=
  onReceive t s (· == kAbort) fun l p c s =>
    let S := s.slot l
    match S.nbrOnPort p with
    | none => s.protoDrop l
    | some i =>
      let later := if c.status = stTimeout then S.uncommitted.filter fun n => decide (c.step < n) else []
      s.abortSteps l c.status (if S.aborted.contains c.step then later else c.step :: later) (some (4096 + i))

/-- s with everything this device had sent a neighbour of a step sent again (R144). -/
def State.resendTo (s : State) (l n i : Nat) : State :=
  let S := s.slot l
  let held := (S.steps.find? fun x => x.num == n)
  match held with
  | none => s
  | some st =>
    let counts := if S.bind.op = opDispatch then st.streams.filter fun x => x.kind == kCount && x.nbr.isSome && x.nbr != some i
      else st.streams.filter fun x => x.kind == kCount && x.nbr != some i
    let s1 := counts.foldl (fun s x => x.ordered.foldl (fun s k =>
      s.slotSend l (4096 + i) { kind := kCount, rank := x.rank, step := n, chunk := k.1, flags := if x.ends.contains k.1 then fLast else 0 } k.2.2) s) s
    let partialTo := if S.bind.xtopo = 2 then S.roleNbr 3 else S.roleNbr 1
    let s2 := s1.modStep l n fun x => { x with counting := [], sentNodes := if partialTo = some i then [] else x.sentNodes }
    s2.progress l n

/-- STEP_REPLAY_RECEIVE: a neighbour asks for a step's input again (R144, R153). -/
def execStepReplayReceive (t : Nat) (s : State) : Host.Outcome State Fault Refusal :=
  onReceive t s (· == kReplay) fun l p c s =>
    match (s.slot l).nbrOnPort p with
    | none => s.protoDrop l
    | some i => s.resendTo l c.step i

/-! ### Commit, timeout, replay -/

/-- Time limit of a step, in thirds. -/
def Binding.stepLimit (b : Binding) : Nat := usec b.tmo

/-- A step's window has closed (R155). -/
def State.stepLate (s : State) (l : Nat) (st : StepSt) : Bool :=
  let b := (s.slot l).bind
  b.tmo != 0 && s.after st.start b.stepLimit

/-- STEP_COMMIT: the lowest uncommitted step of slot l, when it is complete, commits and releases its results (R152). A step of
OP_MOE_COMBINE whose returned streams do not fit the routing record aborts. -/
def execStepCommit (l : Nat) (s : State) : Host.Outcome State Fault Refusal :=
  onUnit (l < 256) s
    (let S := s.slot l
     match S.steps.find? fun x => x.num == S.sLow with
      | none => s
      | some st =>
        if S.state ≠ .bound || !S.replayQ.isEmpty || s.dev.state = .wedged then s
        else if s.stepLate l st && !S.bind.user then s
        else if !s.stepReady l st then s
        else if !S.bind.user && s.outputsBad l st then s.abortSteps l stBadParam [st.num] none
        else s.commitStep l st)

/-- STEP_TIMEOUT: a step of slot l that has not committed within step_timeout is aborted with every later one (R155). -/
def execStepTimeout (l n : Nat) (s : State) : Host.Outcome State Fault Refusal :=
  onUnit (l < 256) s
    (let S := s.slot l
     match S.steps.find? fun x => x.num == n with
      | none => s
      | some st =>
        if S.state ≠ .bound || S.bind.user || s.dev.state = .wedged || !s.stepLate l st then s
        else s.abortSteps l stTimeout (S.uncommitted.filter fun k => decide (n ≤ k)) none)

/-- s with the STEP_REPLAY packets of the slots of lane Tiller t sent, those slots whose lane Tillers are all out of reset (R153). -/
def State.sendReplays (s : State) (t : Nat) : State :=
  (s.slotsOfLane t).foldl (fun s l =>
    let S := s.slot l
    if s.dev.state = .wedged || S.laneTs.any fun u => (s.tl u).reset.any fun r => !r.engines.isEmpty then s
    else (S.replayQ.foldl (fun s q => s.slotSendAll l { kind := kReplay, step := q.1 } [q.2]) s).modSlot l fun S => { S with replayQ := [] }) s

end Sys2Proof.Machine
end

