-- ==== Sys2Proof/Machine/Pool.lean ====
section
/-!
DEFINITION. Who is served when at Seedbank (08 R237, R242; 01 R38; 14 R375): requests in the order of their arrival, those that wait for the
rebuild of a list or for a power domain, and what hardware and firmware take for themselves: step buffers, the loader's copy, the prefix
store's buffers and those of a shadow run.
-/

namespace Sys2Proof.Machine

/-- The context may be used: it exists and no teardown of it is in progress. -/
def State.ctxOk (s : State) (x : Nat) : Bool := decide (x < 256) && (s.ctx x).live && (s.ctx x).tear.isNone

/-- s with the turn-on of switched domains requested (01 R38, 14 R375). -/
def State.requestDomains (s : State) (l : List Nat) : State :=
  s.modPwr fun p => { p with domReq := l.foldl (fun m d =>
    match SMap.get domReqAt m d with
    | some _ => m
    | none => SMap.set domReqAt d (some s.t3) m) p.domReq }

/-! ### What a request waits for -/

/-- What keeps a request waiting: the rebuild of a list, or requests before it, with the buffer whose header the pop found bad; or a power
domain that is to turn on. -/
inductive Wait where
  | list (L : Nat) (bad : Option Nat)
  | domain (d : Nat)
  deriving DecidableEq, Repr

/-- Power domain of the memory that list L lies in. -/
def listDomain (L : Nat) : Nat := if L < 16 then domGddr (L % 4) else domCxl (L - 16)

/-- A place in the queue whose row no longer waits: its command is gone, or the prefix store is off. -/
def State.staleReq (s : State) (q : SbReq) : Bool :=
  q.mark && (match q.cmd with | some c => (s.cmd? c).isNone | none => !s.pfx.on)

/-- The first request that waits for list L. -/
def State.firstWaiting (s : State) (L : Nat) : Option SbReq := s.seed.waiting.find? fun q => q.on == L && !s.staleReq q

/-- Two requests of the same row. -/
def SbReq.same (q r : SbReq) : Bool := q.cmd == r.cmd && q.tiller == r.tiller

/-- What a request of a row must wait for at list L, if anything: requests before it, a rebuild, or the list's power domain. -/
def State.mustWait (s : State) (who : SbReq) (L : Nat) : Option Wait :=
  if (s.sbList L).rebuilding || (s.firstWaiting L).any fun q => !q.same who then some (.list L none)
  else if L < 16 && !s.domOn (listDomain L) then some (.domain (listDomain L))
  else none

/-- s with what a row waits for under way: a bad header's buffer quarantined and its list's rebuild begun, the row's place in the list's
queue kept, or a domain asked to turn on. -/
def State.await (s : State) (who : SbReq) : Wait → State
  | .domain d => s.requestDomains [d]
  | .list L bad =>
    let s1 := match bad with
      | some i => (s.quarantine L i).modList L fun l => { l with rebuilding := true }
      | none => s
    if s.seed.waiting.any fun q => q.on == L && q.mark && q.same who then s1
    else s1.modSeed fun b => { b with waiting := b.waiting ++ [{ who with mark := true, on := L }] }

/-! ### Requests of BUF_ALLOC and of service Tillers -/

/-- s with a request answered: the record of a BUF_ALLOC; nothing more for a Tiller's request. -/
def State.sbReply (s : State) (q : SbReq) (status : Nat) (words : List Nat) : State :=
  match q.cmd with
  | some c => s.finish c status words
  | none => s

/-- s with a request for a buffer decided, or waiting in its list's queue. A bad header starts a rebuild. A list whose power domain the
policy keeps off refuses (01 R38). -/
def State.sbAsk (s : State) (q : SbReq) : State :=
  let L := s.chooseList q.pool q.list
  let wait (s : State) : State := s.modSeed fun b => { b with waiting := b.waiting ++ [{ q with on := L }] }
  if q.owner < 0x100 && !s.ctxOk q.owner then s.sbReply q stContextGone []
  else match s.mustWait { q with mark := true } L with
    | some (.domain d) => if s.pwr.keepOff.getLsbD d then s.sbReply q stNoFit [] else wait (s.requestDomains [d])
    | some (.list _ _) => wait s
    | none =>
      if !s.mayTake q.owner q.pool then s.sbReply q stPoolEmpty []
      else match (if 0 < s.listFree L then s.listHead L else none) with
        | none => s.sbReply q stPoolEmpty []
        | some i =>
          if s.headerOk L i then
            let a := s.bufAddr L i
            (s.handOut L i q.owner none q.zero).sbReply q stOk [a % 2 ^ 32, a / 2 ^ 32, q.pool, dieOfList L]
          else wait ((s.quarantine L i).modList L fun l => { l with rebuilding := true })

/-- s with requests taken up in their order; a row that keeps its place takes its turn itself, and those behind it go on waiting. -/
def State.sbServeList : List SbReq → State → State
  | [], s => s
  | q :: t, s =>
    State.sbServeList t
      (if q.mark then (if s.staleReq q then s else s.modSeed fun b => { b with waiting := b.waiting ++ [q] }) else s.sbAsk q)

/-- s with the requests that waited for list L decided in their order. -/
def State.sbServe (s : State) (L : Nat) : State :=
  State.sbServeList (s.seed.waiting.filter fun q => q.on == L) (s.modSeed fun b => { b with waiting := b.waiting.filter fun q => q.on != L })

/-! ### What a row takes for itself -/

/-- What Seedbank answers a row that takes buffers for itself: what it got, with the state after it; POOL_EMPTY; a refusal because the
power policy keeps the memory off; or what the row must wait for. -/
inductive Take (α : Type) where
  | got (v : α) (s : State)
  | empty
  | noFit
  | wait (w : Wait)
  deriving DecidableEq, Repr

/-- A buffer for owner o taken by a row (08 R237). -/
def State.takeBuffer (s : State) (who : SbReq) (owner k die : Nat) (slot : Option Nat) (zero : Bool) : Take Nat :=
  let L := s.chooseList k die
  match s.mustWait who L with
  | some (.domain d) => if s.pwr.keepOff.getLsbD d then .noFit else .wait (.domain d)
  | some w => .wait w
  | none =>
    if s.mayTake owner k then
      match (if 0 < s.listFree L then s.listHead L else none) with
      | none => .empty
      | some i => if s.headerOk L i then .got (s.bufAddr L i) (s.handOut L i owner slot zero) else .wait (.list L (some i))
    else .empty

/-- n buffers of pool k, on any list, for owner o: all of them or none. -/
def State.takeMany (s : State) (who : SbReq) (owner k : Nat) (slot : Option Nat) : Nat → Take (List Nat)
  | 0 => .got [] s
  | n + 1 =>
    match s.takeBuffer who owner k 0xF slot false with
    | .empty => .empty
    | .noFit => .noFit
    | .wait w => .wait w
    | .got a s1 =>
      match State.takeMany s1 who owner k slot n with
      | .got l s2 => .got (a :: l) s2
      | r => r

/-- s with a row's place in the queues given up, and the requests behind it taken up. -/
def State.leaveQueue (s : State) (who : SbReq) : State :=
  let lists := (s.seed.waiting.filter fun q => q.mark && q.same who).map (·.on)
  lists.foldl State.sbServe (s.modSeed fun b => { b with waiting := b.waiting.filter fun q => !(q.mark && q.same who) })

end Sys2Proof.Machine
end

