-- ==== Sys2Proof/Machine/Loader.lean ====
section
/-!
DEFINITION. The loader (03 R72 to R80, R88; 04 R99 to R102, R114, R120 to R133; 10 R298; 12 R337, R338, R341): the image and its
load checks. What the translator decides and the spec does not publish, the size of the translated code and the mesh slot phases,
comes with the row (log 8).
-/

namespace Sys2Proof.Machine

/-! ### Which fields an instruction uses (03 R73, R78) -/

/-- Fields of word 0 that an instruction uses, the bits of ef and imm that it defines, and its descriptor counts. -/
structure Uses where
  /-- descriptor counts -/
  nd : List Nat := [0]
  /-- rm -/
  rm : Bool := false
  /-- sa -/
  sa : Bool := false
  /-- sb -/
  sb : Bool := false
  /-- sd -/
  sd : Bool := false
  /-- sem -/
  sem : Bool := false
  /-- ast -/
  ast : Bool := false
  /-- dyn -/
  dyn : Bool := false
  /-- disj -/
  disj : Bool := false
  /-- defined bits of ef -/
  ef : BitVec 2 := 0#2
  /-- defined bits of imm -/
  imm : BitVec 24 := 0#24
  deriving DecidableEq, Repr

/-- The fields of each instruction. -/
def usesOf : Mnem → Uses
  | .nop | .ret | .stepEnd | .halt | .fence => {}
  | .jmp | .call => { imm := 0xFFFFFF#24 }
  | .beq | .bne | .blt | .bge | .bltu | .bgeu => { sa := true, sb := true, imm := 0xFFFFFF#24 }
  | .add | .sub | .and | .or | .xor | .shl | .shr | .sra | .slt | .sltu | .mul | .mulhu | .div | .divu | .rem | .remu =>
    { sa := true, sb := true, sd := true }
  | .li | .lui => { sd := true, imm := 0xFFFFFF#24 }
  | .ldB | .ldH | .ldW => { sa := true, sd := true, imm := 0xFFFFFF#24 }
  | .stB | .stH | .stW => { sa := true, sb := true, imm := 0xFFFFFF#24 }
  | .spld => { sa := true, sd := true, disj := true, imm := 0xFFFFFF#24 }
  | .spst => { sa := true, sb := true, disj := true, imm := 0xFFFFFF#24 }
  | .rdcyc | .rdtime | .rdtile => { sd := true }
  | .seed => { sa := true }
  | .mm => { nd := [3, 4], rm := true, ast := true, dyn := true, disj := true }
  | .mmBs | .mmBgs => { nd := [3, 4], rm := true, sem := true, dyn := true, disj := true, ef := 1#2 }
  | .mmGs => { nd := [3, 4], rm := true, sem := true, dyn := true, disj := true }
  | .trMap => { nd := [2, 3, 4], rm := true, sa := true, sb := true, ast := true, dyn := true, disj := true, ef := 1#2, imm := 0xF#24 }
  | .trRed => { nd := [1, 2], rm := true, sd := true, ast := true, dyn := true, disj := true, ef := 1#2, imm := 0xF#24 }
  | .trCvt => { nd := [2], rm := true, ast := true, dyn := true, disj := true, ef := 1#2 }
  | .trLdprog => { nd := [1], ast := true, dyn := true, disj := true, imm := 0xF#24 }
  | .shPrune => { nd := [2], dyn := true, disj := true, ef := 1#2, imm := 0x1F#24 }
  | .shTmask => { nd := [2], dyn := true, disj := true }
  | .mvCopy => { nd := [2], ast := true, dyn := true, disj := true, ef := 1#2 }
  | .mvMesh => { nd := [1], sem := true, imm := 0xFFF#24 }
  | .mvMrecv => { nd := [1], sem := true, imm := 0xF00#24 }
  | .mvGet | .mvPut => { nd := [1], sa := true, sb := true, sem := true, ast := true, dyn := true, disj := true, ef := 1#2 }
  | .mvSend => { nd := [2], sem := true, ast := true, dyn := true, disj := true, ef := 1#2 }
  | .mvRecv => { nd := [1], sem := true, ast := true, dyn := true, disj := true, ef := 1#2 }
  | .cvInit => { imm := 7#24 }
  | .cvWb | .cvWh | .cvWw | .cvSave | .cvRestore => { sa := true }
  | .cvRead => { sa := true, sd := true }
  | .cvFeed => { nd := [1], dyn := true, disj := true }
  | .signal | .wait => { sem := true }
  | .aspush => { sa := true, imm := 7#24 }

/-- Every field that an instruction does not use, and every bit that it does not define, is 0; dyn and ast are not both 1 (03 R73,
R77). -/
def fieldsOk (i : Shoze) : Bool :=
  let u := usesOf i.mn
  u.nd.contains i.ds.length && (u.rm || i.rm == 0#3) && (u.sa || i.dyn || i.sa == 0#5) && (u.sb || i.sb == 0#5) &&
  (u.sd || i.sd == 0#5) && (u.sem || i.sem == 0#4) && (u.ast || !i.ast) && (u.dyn || !i.dyn) && (u.disj || !i.disj) &&
  (i.ef &&& ~~~ u.ef) == 0#2 && (i.imm &&& ~~~ u.imm) == 0#24 && !(i.dyn && i.ast)

/-! ### Descriptors (03 R75, R76; 04 R99) -/

/-- Aux flags that descriptor k of an instruction may carry: scale, mask, sparse; and whether sparse is required. -/
def auxAllowed (mn : Mnem) (nd k : Nat) : Bool × Bool × Bool × Bool :=
  match mn with
  | .mm => (decide (k ≤ 1), false, false, false)
  | .mmBs | .mmGs | .mmBgs => (k == 1, false, k == 0, k == 0)
  | .trMap => (decide (k < nd), true, false, false)
  | .trRed => (k == 0, k == 0, false, false)
  | .trCvt => (true, true, false, false)
  | .shPrune => (k == 0, false, k == 1, k == 1)
  | .shTmask => (false, false, true, true)
  | _ => (false, false, false, false)

/-- The instruction only moves a descriptor's bytes. -/
def movesBytes (mn : Mnem) : Bool := engineOf mn == 4 || mn == .cvFeed

/-- A format that may be block-scaled (02 R48). -/
def mayScale (f : Fmt) : Bool := f == .le2m1 || f == .le2m3 || f == .le4m3

/-- Formats narrower than a byte, which are always scaled (02 R47, R48). -/
def isNarrow (f : Fmt) : Bool := f == .le2m1 || f == .le2m3

/-- Descriptor k of an instruction meets R74 to R76 and R99, as far as it is static. The row results of a TR_RED may be of any format
but LS8 and carry no scale (04 R129), and 04 R99 gives the Mover and CV_FEED no scale vector. DESIGN CHOICE (log 76): no condition on the
stride of an LE2M3 operand beyond its unit of 32-byte words, although 02 R47 has it count whole blocks of 24 bytes; and a destination may have
count 0, as 03 R76 says of a source. -/
def descOkAt (i : Shoze) (k : Nat) (d : Desc) : Bool :=
  let a := auxAllowed i.mn i.ds.length k
  let streamed := i.ast && k == astIndex i
  let f := d.format
  (Fmt.ofCode d.fmt.toNat).isSome && (f != .ls8 || engineOf i.mn == 4) &&
  d.base.extractLsb' 0 5 == 0#5 && d.aux.extractLsb' 0 5 == 0#5 &&
  !(d.scale && d.mask) && !(d.scale && d.sparse) && !(d.mask && d.sparse) &&
  (!d.scale || a.1) && (!d.mask || a.2.1) && (!d.sparse || a.2.2.1) && (!a.2.2.2 || d.sparse) &&
  (!d.scale || mayScale f) && (!d.sparse || d.rowLen == 0#16) &&
  (!isNarrow f || (d.count.toNat % 32 == 0 && d.rowElems % 32 == 0 &&
    (d.scale || d.sparse || movesBytes i.mn || (i.mn == .trRed && k == 1)))) &&
  (if streamed then d.base == 0#21 && d.stride == 0#16 else (i.dyn && k == 0) || d.fits d.base.toNat) &&
  d.auxFootprint.all inPad

/-- The rows of descriptor k of an instruction are known only at issue. -/
def rowsHidden (i : Shoze) (k : Nat) : Bool := (i.dyn && k == 0) || (i.ast && k == astIndex i)

/-- Static destination footprints of an instruction. -/
def staticDsts (i : Shoze) : List (Int × Int) :=
  (i.operands.map fun p =>
    let d := p.2.1
    match p.2.2 with
    | .src => []
    | .dst => (if rowsHidden i p.1 then [] else d.footprint d.base.toNat) ++
        (if d.sparse || (d.scale && writesScale i) then d.auxFootprint else [])).flatten

/-- No destination of an instruction overlaps itself (R76). -/
def dstsDisjoint (i : Shoze) : Bool :=
  i.operands.all fun p => decide (p.2.2 = .src) || (i.ast && p.1 == astIndex i) || p.2.1.selfDisjoint

/-- The side of a Mover instruction that ef[0] names for its address stream, source or destination, is one that has a descriptor (03 R88;
log 76). -/
def streamSideOk (i : Shoze) : Bool :=
  !i.ast || engineOf i.mn != 4 || decide ((roles i.mn i.ds.length)[astIndex i]? = some (if i.ef.getLsbD 0 then Role.dst else .src))

/-- The format a converted value of an instruction is written in, if it converts (02 R50). -/
def convertedTo (i : Shoze) : Option Fmt :=
  match i.mn with
  | .mm | .mmBs | .mmGs | .mmBgs => some (i.desc 2).format
  | .trMap | .trCvt => some (lastDesc i).format
  | .trRed => if i.ds.length = 2 && i.imm.toNat < 4 then some (i.desc 1).format else none
  | _ => none

/-- rm is one that the destination allows, or 0 where nothing is converted. -/
def rmFits (i : Shoze) : Bool :=
  match convertedTo i with
  | some f => rmAllowed f i.rm.toNat
  | none => i.rm == 0#3

/-! ### Per-instruction rules -/

/-- Rows of R62 that a Harrow format belongs to; none for a format that pairs with no other. -/
def pairRow : Fmt → Option Nat
  | .le2m1 | .le2m3 => some 0
  | .le4m3 | .le5m2 => some 1
  | .lb16 => some 2
  | .lh16 => some 3
  | .fp32 => some 4
  | .int8 => some 5
  | _ => none

/-- A descriptor is a whole matrix: row_len is not 0 and divides count. -/
def Desc.matrix (d : Desc) : Bool := d.rowLen != 0#16 && d.count.toNat % d.rowLen.toNat == 0

/-- The rules of a Harrow instruction (04 R102, R104, R106). -/
def harrowOk (i : Shoze) : Bool :=
  let a := i.desc 0
  let b := i.desc 1
  let d := i.desc 2
  let M := if isSparseMm i.mn then d.rows else a.rows
  let shaped (x : Desc) : Bool := x.rows == M && x.rowLen == b.rowLen
  let int : Bool := a.format == .int8
  (pairRow a.format).isSome && pairRow a.format == pairRow b.format &&
  b.matrix && d.matrix && (if isSparseMm i.mn then a.rowLen == 0#16 else a.matrix && b.rows == a.rowElems) &&
  (if int then d.format == .int32 || d.format == .int8
   else [Fmt.fp32, .lb16, .lh16, .le4m3, .le5m2].contains d.format) &&
  shaped d && (i.ds.length == 3 || ((i.desc 3).matrix && shaped (i.desc 3) &&
    ((i.desc 3).format == d.format || (i.desc 3).format == (if int then Fmt.int32 else Fmt.fp32))))

/-- The count and mask rules of TR_MAP and TR_CVT (04 R127). -/
def mapOk (i : Shoze) : Bool :=
  let D := lastDesc i
  (i.ds.take (i.ds.length - 1)).all (fun d => d.count == 1#24 || d.count == D.count) &&
  (!(i.ds.any fun d => d.mask) || decide (8 ≤ D.format.width))

/-- The rules of TR_RED (04 R129). -/
def redOkAt (i : Shoze) : Bool :=
  let s := i.desc 0
  let n := i.imm.toNat
  let two : Nat := if s.format = .fp64 && n < 4 then 2 else 1
  decide (n ≤ 7) && decide (i.sd.toNat + two - 1 + bit (i.ef.getLsbD 0) ≤ 31) && (!i.ef.getLsbD 0 || i.sd != 0#5) &&
  (i.ds.length == 1 || ((i.desc 1).count.toNat == s.rows && (n < 4 || (i.desc 1).format == .int32)))

/-- The rules of SH_PRUNE (04 R130, R132); in apply mode the destination's n is known only from its header. -/
def pruneOk (i : Shoze) : Bool :=
  let a := i.desc 0
  let n := i.imm.toNat % 8
  (pairRow a.format).isSome && a.fmt == (i.desc 1).fmt && decide (a.rowElems ≤ 65535) &&
  (applyMode i || ((n == 1 || n == 2 || n == 4) &&
    (i.desc 1).count.toNat == ceilDiv a.rows 16 * ceilDiv a.rowElems 16 * 32 * n))

/-- Rules that concern one kind of instruction. -/
def kindOk (i : Shoze) : Bool :=
  match i.mn with
  | .mm | .mmBs | .mmGs | .mmBgs => harrowOk i
  | .trMap | .trCvt => mapOk i
  | .trRed => redOkAt i
  | .trLdprog =>
    let d := i.desc 0
    d.format == .int32 && d.rowLen == 0#16 && decide (9 ≤ d.count.toNat) && decide (d.count.toNat ≤ 24)
  | .shPrune => pruneOk i
  | .shTmask => (pairRow (i.desc 0).format).isSome && !isNarrow (i.desc 0).format && (i.desc 0).fmt == (i.desc 1).fmt
  | .mvCopy => (i.desc 0).words == (i.desc 1).words
  | .mvMesh => decide (meshDest i < 192) && decide (meshBytes i ≤ 16384)
  | .mvSend => !sendBad i
  | .mvRecv => i.dyn || decide (130 ≤ (i.desc 0).words)
  | .cvInit => decide (i.imm.toNat ≤ 5)
  | .aspush => decide (1 ≤ i.imm.toNat) && decide (i.imm.toNat ≤ 4)
  | _ => true

/-- An instruction passes the checks that concern it alone; CV_FEED runs in per-engine mode only (03 R87). -/
def shozeOk (mode : Nat) (i : Shoze) : Bool :=
  fieldsOk i && streamSideOk i && ((List.range i.ds.length).zip i.ds).all (fun p => descOkAt i p.1 p.2) && rmFits i && dstsDisjoint i &&
  !ownOverlap i (rowsHidden i) && kindOk i && (mode == 1 || i.mn != .cvFeed)

/-! ### Control flow (03 R78, R87; 04 R125) -/

/-- The instruction jumps to index + imm, always or on its condition. -/
def isBranch : Mnem → Bool
  | .beq | .bne | .blt | .bge | .bltu | .bgeu => true
  | _ => false

/-- Indices that can follow an instruction: both ways of a branch, and after a RET every index after a CALL. -/
def nextOf (code : List Shoze) (j : Nat) : List Nat :=
  match code[j]? with
  | none => []
  | some i =>
    if i.mn = .jmp || i.mn = .call then [jumpTo j i]
    else if isBranch i.mn then [j + 1, jumpTo j i]
    else if i.mn = .ret then ((List.range code.length).filter fun k => decide (code[k]?.map (·.mn) = some .call)).map (· + 1)
    else if i.mn = .halt then []
    else [j + 1]

/-- Everything reachable from a front in n rounds, with what was seen before. -/
def reach (next : Nat → List Nat) : Nat → List Nat → List Nat → List Nat
  | 0, seen, _ => seen
  | n + 1, seen, front =>
    match dedup ((front.map next).flatten.filter fun x => !seen.contains x) with
    | [] => seen
    | new => reach next n (seen ++ new) new

/-- Every target of a jump, branch or call, and every entry index, lies in the code (03 R78). -/
def targetsOk (code : List Shoze) : Bool :=
  ((List.range code.length).zip code).all fun p =>
    !(p.2.mn == .jmp || p.2.mn == .call || isBranch p.2.mn) ||
      (decide (0 ≤ (p.1 : Int) + p.2.imm.toInt) && decide ((p.1 : Int) + p.2.imm.toInt < code.length))

/-- An instruction may stand in the stream of engine e (03 R87). -/
def streamHolds (e : Nat) (mn : Mnem) : Bool :=
  mn == .signal || mn == .wait || mn == .jmp || mn == .halt || (engineOf mn == e)

/-- The streams of a per-engine image hold only what they may (03 R87). -/
def streamsOk (I : TImage) : Bool :=
  I.mode == 0 || (List.range 6).all fun e =>
    let from0 := I.entries.getD e 0
    decide (from0 < I.code.length) &&
      (reach (nextOf I.code) I.code.length [from0] [from0]).all fun j =>
        match I.code[j]? with | some i => streamHolds e i.mn | none => true

/-! ### What is image content (04 R114, R120, R125) -/

/-- The n bytes from a scratchpad address are given by the image's segments; k bounds the segments crossed. -/
def coversFrom (segs : List (Nat × List Byte)) : Nat → Nat → Nat → Bool
  | 0, _, n => n == 0
  | k + 1, a, n =>
    n == 0 || (match segs.find? fun p => decide (p.1 ≤ a) && decide (a < p.1 + p.2.length) with
      | none => false
      | some p => coversFrom segs k (p.1 + p.2.length) (n - (p.1 + p.2.length - a)))

/-- The n bytes from a scratchpad address are image contents. -/
def TImage.covers (I : TImage) (a n : Nat) : Bool := coversFrom I.segs I.segs.length a n

/-- The bytes of the source of a TR_LDPROG that are image contents, n of them. -/
def TImage.progBytes (I : TImage) (i : Shoze) (n : Nat) : Option (List Byte) :=
  if i.mn = .trLdprog && !i.dyn && !i.ast && I.covers (i.desc 0).base.toNat n then some ((I.pad none).read (i.desc 0).base.toNat n)
  else none

/-- Every micro-program in image contents is valid, and its descriptor has the length its header gives (04 R120, R124). -/
def TImage.progsOk (I : TImage) : Bool :=
  I.code.all fun i =>
    (match I.progBytes i 32 with | some h => (i.desc 0).count.toNat == 8 + fieldAt h 0 1 | none => true) &&
    (match I.progBytes i (4 * (i.desc 0).count.toNat) with | some b => (progFault b false).isNone | none => true)

/-- Index at which the stream that runs the Trellis starts. -/
def TImage.trellisEntry (I : TImage) : Nat := if I.mode = 1 then I.entries.getD 2 0 else 0

/-- The TR_LDPROG instructions that can be the last to load the slot of the TR_MAP at index p (04 R125). -/
def TImage.loadersOf (I : TImage) (p : Nat) : List Shoze :=
  let k := (I.code[p]?.map progIndex).getD 0
  let live := reach (nextOf I.code) I.code.length [I.trellisEntry] [I.trellisEntry]
  let loads (j : Nat) : Bool := match I.code[j]? with | some i => i.mn == .trLdprog && progIndex i == k | none => false
  let go (j : Nat) : List Nat := if loads j then [] else nextOf I.code j
  (live.filter fun j => loads j && (reach go I.code.length (nextOf I.code j) (nextOf I.code j)).contains p).filterMap fun j => I.code[j]?

/-- Stages and ii recorded for the TR_MAP at index p, when every program it can meet agrees on them. -/
def TImage.recorded (I : TImage) (p : Nat) : Option (Nat × Nat) :=
  match (I.loadersOf p).map fun i => (I.progBytes i 32).map fun h => (fieldAt h 1 1, fieldAt h 2 1) with
  | some r :: t => if t.all (· == some r) then some r else none
  | _ => none

/-- The TR_MAPs of an image with what was recorded for them. -/
def TImage.mapProgs (I : TImage) : List (Nat × (Nat × Nat)) :=
  (List.range I.code.length).filterMap fun p =>
    if decide (I.code[p]?.map (·.mn) = some .trMap) then (I.recorded p).map fun r => (p, r) else none

/-- No TR_MAP meets a program, seen at load, that it does not fit (04 R122, R125). -/
def TImage.mapsOk (I : TImage) : Bool :=
  ((List.range I.code.length).zip I.code).all fun q =>
    q.2.mn != .trMap || (I.loadersOf q.1).all fun i =>
      match I.progBytes i (4 * (i.desc 0).count.toNat) with
      | none => true
      | some b => !mapMismatch { progs := SMap.set progAt (progIndex q.2) (progOf b) [] } q.1 q.2

/-- The operand of a balanced sparse form is image contents and free of violations (04 R114). -/
def TImage.balancedOk (I : TImage) (level : Nat) (i : Shoze) : Bool :=
  !balanced level i || (
    let d := i.desc 0
    let m := I.pad none
    let h := spHdr (d.header m)
    let out := (i.desc 2).footprint (i.desc 2).base.toNat ++ (if i.ds.length = 4 then (i.desc 3).footprint (i.desc 3).base.toNat else [])
    !i.dyn && i.rm != 5#3 && I.covers d.aux.toNat 32 &&
    (headerFault (d.header m) (formsOf i.mn) (i.desc 2).rows (i.desc 1).rows d.format d.count.toNat out).isNone &&
    (h.form == 2 || I.covers h.bitmap h.bitmapBytes) && (h.form == 1 || I.covers h.groups h.groupBytes) &&
    (h.scale == 0xFFFFFFFF || I.covers h.scale h.scaleBytes) && I.covers d.base.toNat (ceilDiv (h.perTile * h.tiles * d.format.width) 8) &&
    (tilesFault h m).isNone && (bandFault h m).isNone)

/-- A number of bytes in whole words. -/
def padWords (n : Nat) : Nat := 32 * ceilDiv n 32

/-- The balanced copy of the instruction at an index, placed from a scratchpad address: header, bitmap, groups, scale vector and values,
each in whole words, its header naming the copy's own ranges; then the partials of the split rows (04 R114, log 34). Its second part is
the address after it all. -/
def TImage.balCopy (I : TImage) (index at0 : Nat) (i : Shoze) : BalCopy × Nat :=
  let d := i.desc 0
  let m := I.pad none
  let h := spHdr (d.header m)
  let n := ceilDiv (h.perTile * h.tiles * d.format.width) 8
  let bitmap := at0 + 32
  let groups := bitmap + padWords h.bitmapBytes
  let scale := groups + padWords h.groupBytes
  let values := scale + padWords h.scaleBytes
  let own : SpHdr := { h with bitmap := if h.form = 2 then h.bitmap else bitmap, groups := if h.form = 1 then h.groups else groups,
                              scale := if h.scale = 0xFFFFFFFF then h.scale else scale }
  let part (a k : Nat) : List Byte := padTo (padWords k) (m.read a k)
  let rows := ((List.range h.tr).map fun r => (r, (rowChunks h (h.presentTiles m) true r).length)).filter fun p => 1 < p.2
  let parts := rows.foldl (fun (q : List (Nat × Nat × Nat) × Nat) p => (q.1 ++ [(p.1, p.2, q.2)], q.2 + p.2 * (64 * (i.desc 1).rowElems)))
    ([], values + padWords n)
  ({ index := index, head := at0, values := values, splits := parts.1,
     bytes := own.bytes ++ part h.bitmap h.bitmapBytes ++ part h.groups h.groupBytes ++ part h.scale h.scaleBytes ++ part d.base.toNat n }, parts.2)

/-- The balanced copies of an image's program, one after another from a scratchpad address, and the address after them. -/
def TImage.balCopies (I : TImage) (level at0 : Nat) : List BalCopy × Nat :=
  ((List.range I.code.length).zip I.code).foldl (fun q p =>
    if balanced level p.2 then
      let r := I.balCopy p.1 q.2 p.2
      (q.1 ++ [r.1], r.2)
    else q) ([], at0)

/-- Scratchpad the loader reserves for the balanced copies of an image and the partials of their split rows (04 R114, log 34). -/
def TImage.copyBytes (I : TImage) (level : Nat) : Nat := (I.balCopies level 0).2

/-- An instruction that reads its balanced copy in place of descriptor 0's operand. -/
def Shoze.onCopy (i : Shoze) (c : BalCopy) : Shoze :=
  { i with ds := i.ds.set 0 { i.desc 0 with base := BitVec.ofNat 21 c.values, aux := BitVec.ofNat 21 c.head } }

/-- An image as translated: its balanced copies placed from a scratchpad address, and the instructions that read them. -/
def TImage.withCopies (I : TImage) (level at0 : Nat) : TImage :=
  let cs := (I.balCopies level at0).1
  { I with
    copies := cs
    code := ((List.range I.code.length).zip I.code).map fun p =>
      match cs.find? fun c => c.index == p.1 with | some c => p.2.onCopy c | none => p.2 }

/-! ### The image (10 R298) -/

/-- One Tiller of an image. -/
structure TEntry where
  /-- linear number -/
  num : Nat := 0
  /-- its code and contents -/
  img : TImage := {}
  /-- sp_static -/
  spStatic : Nat := 0
  deriving DecidableEq, Repr

/-- An image, read. -/
structure Image where
  /-- level -/
  level : Nat := 2
  /-- its Tillers, ascending -/
  tillers : List TEntry := []
  /-- Seedbank minima -/
  minima : List Nat := []
  /-- steering bytes -/
  steering : List Nat := []
  /-- queue declarations -/
  queues : List (List Byte) := []
  /-- route declarations -/
  routes : List (List Byte) := []
  deriving DecidableEq, Repr

/-- n records of a size from an offset. -/
def records (b : List Byte) (off size n : Nat) : List (List Byte) := (List.range n).map fun k => slice b (off + size * k) size

/-- The scratchpad segments of a Tiller entry. -/
def segRecords (b e : List Byte) : List (List Byte) := records b (fieldAt e 24 4) 16 (fieldAt e 28 4)

/-- Offset and length of the sections that a Tiller entry names. -/
def entrySections (b e : List Byte) : List (Nat × Nat) :=
  [(fieldAt e 8 4, fieldAt e 12 4), (fieldAt e 16 4, fieldAt e 20 4), (fieldAt e 24 4, 16 * fieldAt e 28 4)] ++
  (segRecords b e).map fun r => (fieldAt r 8 4, fieldAt r 4 4)

/-- No two intervals given by offset and length overlap. -/
def allApart : List (Nat × Nat) → Bool
  | [] => true
  | x :: t => (t.all fun y => decide (x.1 + x.2 ≤ y.1) || decide (y.1 + y.2 ≤ x.1)) && allApart t

/-- Sections are word-aligned, inside the image, past its header and entries, and apart from each other; empty ones do not count. -/
def sectionsOk (b : List Byte) (heads : Nat) (l : List (Nat × Nat)) : Bool :=
  let l := l.filter fun x => x.2 != 0
  l.all (fun x => x.1 % 32 == 0 && decide (heads ≤ x.1) && decide (x.1 + x.2 ≤ b.length)) && allApart l

/-- A Tiller entry's own fields are in order. -/
def entryOk (diag : Bool) (b e : List Byte) : Bool :=
  decide (fieldAt e 0 1 < 192) && (fieldAt e 1 1 == 0 || (fieldAt e 1 1 == 1 && diag)) && decide (fieldAt e 2 1 < 2) && fieldAt e 3 1 == 0 &&
  fieldAt e 60 4 == 0 && (fieldAt e 1 1 == 1 || allZero (slice e 36 24)) &&
  (segRecords b e).all fun r => fieldAt r 0 4 % 32 == 0 && fieldAt r 4 4 % 32 == 0 && fieldAt r 12 4 == 0

/-- The Tiller that an entry describes; none when its code does not decode. -/
def readEntry (b e : List Byte) : Option TEntry :=
  let n := fieldAt e 12 4
  (decodeCode n (slice b (fieldAt e 8 4) n)).map fun code =>
    { num := fieldAt e 0 1, spStatic := fieldAt e 32 4,
      img := { code := code, mode := fieldAt e 1 1,
               seed := if fieldAt e 2 1 = 1 then some (BitVec.ofNat 32 (fieldAt e 4 4)) else none,
               dmem := slice b (fieldAt e 16 4) (fieldAt e 20 4),
               segs := (segRecords b e).map fun r => (fieldAt r 0 4, slice b (fieldAt r 8 4) (fieldAt r 4 4)),
               entries := (List.range 6).map fun k => fieldAt e (36 + 4 * k) 4 } }

/-- All of a list of options, or none. -/
def allSome {α : Type} : List (Option α) → Option (List α)
  | [] => some []
  | none :: _ => none
  | some a :: t => (allSome t).map (a :: ·)

/-- The image's header is in order (R298). -/
def imageHeadOk (b : List Byte) : Bool :=
  let n := fieldAt b 6 2
  decide (128 ≤ b.length) && decide (b.take 4 = [0x4C#8, 0x4B#8, 0x53#8, 0x5A#8]) && (fieldAt b 4 1 == 1 || fieldAt b 4 1 == 2) &&
  fieldAt b 5 1 == 0 && decide (1 ≤ n) && decide (n ≤ 192) && fieldAt b 8 4 == b.length && decide (128 + 64 * n ≤ b.length) &&
  allZero (slice b 64 64) && (crc32c (patch b 12 [0#8, 0#8, 0#8, 0#8])).toNat == fieldAt b 12 4

/-- An image read from its bytes; none when a rule of R298 or R72 to R75 about its layout is broken. -/
def parseImage (diag : Bool) (b : List Byte) : Option Image :=
  let n := fieldAt b 6 2
  let es := records b 128 64 n
  let nq := fieldAt b 52 2
  let nr := fieldAt b 54 2
  if !imageHeadOk b || !es.all (entryOk diag b) || !rising (es.map fun e => fieldAt e 0 1) ||
      !sectionsOk b (128 + 64 * n) ((es.map (entrySections b)).flatten ++ [(fieldAt b 56 4, 32 * nq), (fieldAt b 60 4, 16 * nr)]) then none
  else (allSome (es.map (readEntry b))).map fun ts =>
    { level := fieldAt b 4 1, tillers := ts, minima := (List.range 5).map fun k => fieldAt b (16 + 4 * k) 4,
      steering := (slice b 36 16).map (·.toNat), queues := records b (fieldAt b 56 4) 32 nq, routes := records b (fieldAt b 60 4) 16 nr }

/-! ### Load checks (03 R80) -/

/-- The stream queue that a queue declaration selects (07 R207). -/
def State.declQueue (s : State) (d : List Byte) : Nat :=
  let m := SMap.get sqMapAt s.fab.sqMap (8 * fieldAt d 0 1 + fieldAt d 1 1)
  m.1 + fieldAt d 4 2 % 2 ^ m.2

/-- A queue declaration is in order, and one that makes a reservation meets R217. -/
def State.declOk (s : State) (d : List Byte) : Bool :=
  let v := BitVec.ofNat 128 (fieldAt d 16 16)
  let p : Policer := { cfg := v }
  let port := fieldAt d 0 1
  decide (port < 38) && decide (fieldAt d 1 1 < 8) && fieldAt d 2 1 != 0 && decide (fieldAt d 3 1 ≤ 14) && allZero (Machine.slice d 6 10) &&
  policerOk v && (fieldAt d 1 1 != 7 || p.cir == 0 ||
    (p.mode == 1 && p.pir == p.cir && p.pbs == p.cbs && p.redDrop && !(s.strShaper (s.declQueue d)).enabled &&
      !(s.svcShaper (8 * port + 7)).enabled && decide (0 ≤ (s.port port).overhead)))

/-- Load check 1 beyond the image's layout. -/
def State.check1 (s : State) (I : Image) : Bool :=
  I.tillers.all (fun t => t.img.code.all (shozeOk t.img.mode) && targetsOk t.img.code && streamsOk t.img && t.img.progsOk && t.img.mapsOk &&
    t.img.code.all (t.img.balancedOk I.level)) &&
  I.steering.all (fun u => u == 0xFF || I.tillers.any fun t => t.num == u) && I.queues.all s.declOk

/-- An image rounds stochastically on a Tiller: an instruction, or a QUANT of a micro-program in its contents (02 R54). -/
def TImage.stochastic (I : TImage) : Bool :=
  I.code.any fun i => i.rm == 5#3 ||
    (match I.progBytes i (4 * (i.desc 0).count.toNat) with | some b => (microOps b).any MicroOp.draws | none => false)

/-- Load check 2: seeds where DEV_MODE.deterministic requires them. -/
def State.check2 (s : State) (I : Image) : Bool :=
  !s.dev.mode.getLsbD 0 || I.tillers.all fun t => t.img.seed.isSome || !t.img.stochastic

/-- Load check 3: a Harrow for every class 0x2 instruction. -/
def State.check3 (s : State) (I : Image) : Bool :=
  I.tillers.all fun t => s.harrow t.num || !(t.img.code.any fun i => engineOf i.mn == 1)

/-- The MV_MESH instructions of an image: Tiller, index, instruction. -/
def Image.meshSends (I : Image) : List (Nat × Nat × Shoze) :=
  (I.tillers.map fun t => ((List.range t.img.code.length).zip t.img.code).filterMap fun p =>
    if p.2.mn = .mvMesh then some (t.num, p.1, p.2) else none).flatten

/-- Tillers on the path of a mesh transfer, first along the row, then along the column (03 R92). -/
def meshPath (a b : Nat) : List Nat :=
  let span (x y : Nat) : List Nat := if x ≤ y then (List.range (y - x + 1)).map (x + ·) else (List.range (x - y + 1)).map (x - ·)
  (span (a % 16) (b % 16)).map (fun c => a / 16 * 16 + c) ++ ((span (a / 16) (b / 16)).drop 1).map fun r => 16 * r + b % 16

/-- The links of a mesh transfer with the cycles of a frame it takes on each (03 R93): link from Tiller x to Tiller y as 192 x + y. -/
def meshCycles (a : Nat) (i : Shoze) (phase : Nat) : List (Nat × Nat) :=
  let p := meshPath a (meshDest i)
  ((p.zip (p.drop 1)).map fun l =>
    (List.range (ceilDiv (meshBytes i) 64)).map fun j => (192 * l.1 + l.2, (phase + 2 + meshHops a l.1 + j) % 256)).flatten

/-- Mesh link-cycles that contexts hold. -/
def State.meshHeld (s : State) : List (Nat × Nat) := (s.ctxs.map fun p => p.2.meshSlots).flatten

/-- Link-cycles of an image's transfers under the phases the translator chose. -/
def Image.meshNeeds (I : Image) (phases : List Nat) : List (Nat × Nat) :=
  ((I.meshSends.zip phases).map fun p => meshCycles p.1.1 p.1.2.2 p.2).flatten

/-- No pair occurs twice. -/
def noRepeat : List (Nat × Nat) → Bool
  | [] => true
  | x :: t => !t.contains x && noRepeat t

/-- Load check 6: the translator found a phase for every transfer, and no link-cycle belongs to two of them (03 R93). -/
def State.check6 (s : State) (I : Image) (phases : List Nat) : Bool :=
  let need := I.meshNeeds phases
  phases.length == I.meshSends.length && phases.all (fun f => decide (f < 256)) && noRepeat need && need.all fun x => !s.meshHeld.contains x

/-- Tiller groups that an image needs: those of its Tillers and of its mesh paths (01 R16, R38). -/
def Image.groups (I : Image) : List Nat :=
  dedup ((I.tillers.map (·.num)) ++ (I.meshSends.map fun m => meshPath m.1 (meshDest m.2.2)).flatten |>.map (· / 8))

/-- A switched domain may be used: on, or not kept off by the power policy (14 R375). -/
def State.domAllowed (s : State) (d : Nat) : Bool := s.domOn d || !s.pwr.keepOff.getLsbD d

/-- Load check 4: the named Tillers are free and their domains available. -/
def State.check4 (s : State) (I : Image) : Bool :=
  I.tillers.all (fun t => decide ((s.tl t.num).run = .free) && decide ((s.tl t.num).owner = .free)) && I.groups.all s.domAllowed

/-- First byte of the lineage block (12 R341). -/
abbrev lineageAt : Nat := 0x1FFFC0

/-- Load check 5: code, contents and static footprints inside their memories and clear of the lineage block (03 R80, 12 R341). -/
def check5 (I : Image) (sizes : List Nat) : Bool :=
  sizes.length == I.tillers.length && sizes.all (fun n => decide (n ≤ 262144)) && I.tillers.all fun t =>
    decide (t.img.dmem.length ≤ 65536) && t.img.segs.all (fun p => decide (p.1 + p.2.length ≤ lineageAt)) &&
    (decide (t.img.copyBytes I.level = 0) && decide (t.spStatic ≤ lineageAt) || decide (padWords t.spStatic + t.img.copyBytes I.level ≤ lineageAt)) && t.img.code.all fun i => !(staticDsts i).any reachesLineage

/-- A route may be declared (06 R186): its structure. -/
def routeShapeOk (r : List Byte) : Bool :=
  let p : Pkt := { bytes := List.replicate 16 0#8 ++ r }
  p.hopPtr == 0 && decide (1 ≤ p.hopCount) && decide (p.hopCount ≤ 15) && p.hopOk && p.routeBitsOk

/-- A route's first hop names port 36 or 37 or a fabric port that is up. -/
def State.routeUp (s : State) (r : List Byte) : Bool := s.portUp (fieldAt r 1 1 % 64)

/-- s with the queue declarations of context x taken over, or none (R298). -/
def State.takeQueues (s : State) (x : Nat) : List (List Byte) → Option (List Nat × State)
  | [] => some ([], s)
  | d :: t =>
    let q := s.declQueue d
    let c := s.sqCfg q
    if (c.owner = 2 && c.ownerId ≠ x) || c.owner = 3 || s.queueHolds q then none
    else
      let s1 := s.setQueues q 1 fun _ => { port := fieldAt d 0 1, vc := fieldAt d 1 1, inUse := true, weight := fieldAt d 2 1, owner := 2,
                                           hop := fieldAt d 3 1, ownerId := x }
      let s2 := s1.modPolicer q fun p => p.write (BitVec.ofNat 128 (fieldAt d 16 16))
      if s2.admissionOk (fieldAt d 0 1) then (State.takeQueues s2 x t).map fun r => (q :: r.1, r.2) else none

/-- Bytes of an image's translated code and initial contents. -/
def Image.contentBytes (I : Image) (sizes : List Nat) : Nat :=
  natSum sizes + I.tillers.foldl (fun n t => n + t.img.dmem.length + t.img.segs.foldl (fun k p => k + p.2.length) 0) 0

/-- s with the n buffers of a context's loaded copy taken, its stream queues noted with them. -/
def State.reserveCopy (s : State) (who : SbReq) (x : Nat) (queues : List Nat) (n : Nat) : Take Unit :=
  match s.takeMany who x 2 none n with
  | .got l s1 => .got () (s1.modCtx x fun C => { C with queues := queues, copies := l })
  | .wait w => .wait w
  | _ => .noFit

/-- Load check 7: routes, Seedbank minima, stream queues and the loader's copy in buffers of pool 2 (13 R349, log 35), reserved in s. -/
def State.check7 (s : State) (who : SbReq) (x : Nat) (I : Image) (sizes : List Nat) : Take Unit :=
  if !(I.routes.all fun r => routeShapeOk r && s.routeUp r) then .noFit
  else
    let s1 := s.setMinima x I.minima
    if !s1.minimaFit then .noFit
    else match s1.takeQueues x I.queues with
      | none => .noFit
      | some q => q.2.reserveCopy who x q.1 (ceilDiv (I.contentBytes sizes) 0x100000)

/-! ### The determinism signature (12 R337, R338) -/

/-- The equaliser-table digest of the table in use, or zeros while every port is held with NO_EQ (09 R272). -/
def State.eqDigest (s : State) : List Byte := if s.fw.eqOk then sha256 s.fw.eqTable else List.replicate 32 0#8

/-- The 80-byte signature record. -/
def State.signatureRecord (s : State) : List Byte :=
  [0x4C#8, 0x4B#8, 0x44#8, 0x53#8, 0xA1#8] ++ padTo 3 s.dev.translator ++ toLE 4 s.dev.mode.toNat ++ [0#8, 0#8, 0#8, 0#8] ++
  padTo 32 s.dev.fwDigest ++ s.eqDigest

/-- The signature that a context loaded now receives. -/
def State.detSignature (s : State) : BitVec 64 := BitVec.ofNat 64 (leNat ((sha256 s.signatureRecord).take 8))

/-! ### The load -/

/-- A Tiller of an image in place (R80): its memories, its program, the lineage block. -/
def TEntry.place (t : TEntry) (x level : Nat) (phases : List (Nat × Nat × Nat)) (lineage : List Byte) : Tiller :=
  let ph := phases.filterMap fun p => if p.1 = t.num then some p.2 else none
  let used := padWords t.spStatic
  let img := { t.img.withCopies level used with
    progs := t.img.mapProgs, phases := ph, spUsed := if t.img.copyBytes level = 0 then t.spStatic else used + t.img.copyBytes level }
  { ctx := some x, owner := .ctx, run := .loaded, mode := img.mode, img := img, dmem := Memory.write [] 0 img.dmem, sp := img.pad (some lineage) }

/-- s with the steering bytes of context x written (01 R20). -/
def State.steerBytes (s : State) (x : Nat) (l : List Nat) : State :=
  s.modFab fun b => { b with steer := ((List.range l.length).zip l).foldl (fun m p =>
    SMap.set noneAt (steerCtx x p.1) (if p.2 = 0xFF then none else some p.2) m) b.steer }

/-- s with the image of context x in place: contents, steering, signature and lineage blocks. -/
def State.placeImage (s : State) (x : Nat) (I : Image) (bytes : List Byte) (phases : List Nat) : State :=
  let sig := s.detSignature
  let s := s.modCtx x fun C => { C with
    loaded := true, tillers := I.tillers.map (·.num), level := I.level, minima := I.minima, steering := I.steering, routes := I.routes,
    digest := sha256 bytes, signature := sig, meshSlots := I.meshNeeds phases }
  let ph := (I.meshSends.zip phases).map fun p => (p.1.1, p.1.2.1, p.2)
  let lin := lineageBlock (s.ctx x)
  (I.tillers.foldl (fun s t => s.modT t.num fun _ => t.place x I.level ph lin) s).steerBytes x I.steering

/-- Load checks 1 to 6 of R80 in order: the status of the first that fails. -/
def State.loadStatus (s : State) (x : Nat) (bytes : List Byte) (sizes phases : List Nat) : Nat :=
  match parseImage (s.ctx x).diag bytes with
  | none => stBadParam
  | some I =>
    if !s.check1 I || !s.check2 I then stBadParam
    else if !s.check3 I then stNotPresent
    else if !s.check4 I || !check5 I sizes || !s.check6 I phases then stNoFit
    else stOk

/-- The load checks of R80: the state with the image in place; empty when one of checks 1 to 6 fails, noFit when check 7 does. A load that
needs a domain which is off is not decided here. -/
def State.loadImage (s : State) (who : SbReq) (x : Nat) (bytes : List Byte) (sizes phases : List Nat) : Take Unit :=
  if s.loadStatus x bytes sizes phases ≠ stOk then .empty
  else match parseImage (s.ctx x).diag bytes with
    | none => .empty
    | some I =>
      match s.check7 who x I sizes with
      | .got _ s1 => .got () (s1.placeImage x I bytes phases)
      | r => r

/-- Domains that an image needs and that are off, once every check has passed. -/
def State.domainsWanted (s : State) (x : Nat) (bytes : List Byte) : List Nat :=
  match parseImage (s.ctx x).diag bytes with
  | none => []
  | some I => I.groups.filter fun g => !s.domOn g

end Sys2Proof.Machine
end

