-- ==== Sys2Proof/Machine/Bindings.lean ====
section
/-!
DEFINITION. Binding, unbinding, querying and substituting in collective slots (05 R134 to R139, R173 to R175; 10 R296).
-/

namespace Sys2Proof.Machine

/-! ### The binding record (05 R135, R136) -/

/-- The binding record's fields. -/
def parseBinding (b : List Byte) : Binding :=
  { op := fieldAt b 1 1, vc := fieldAt b 2 1, weight := fieldAt b 3 1, gsize := fieldAt b 4 2, nloc := fieldAt b 6 2,
    inFmt := fieldAt b 8 1, outFmt := fieldAt b 9 1, redOp := fieldAt b 10 1, rm := fieldAt b 11 1, cw := fieldAt b 12 1,
    depth := fieldAt b 13 1, lanes := fieldAt b 14 1, xtopo := fieldAt b 15 1, nmax := fieldAt b 16 4, tmo := fieldAt b 20 4,
    ctx := fieldAt b 24 4, flags := fieldAt b 28 4, root := fieldAt b 32 2, nnbr := fieldAt b 34 2, p0 := fieldAt b 36 4,
    p1 := fieldAt b 40 4, p2 := fieldAt b 44 4, pair := fieldAt b 48 2, gen := fieldAt b 50 1, ringPos := fieldAt b 52 2,
    ringSize := fieldAt b 54 2, raw := b.take 128 }

/-- A member-table entry. -/
def parseMember (e : List Byte) : Member := { rank := fieldAt e 0 2, port := fieldAt e 2 1, base := fieldAt e 4 4, route := slice e 8 16 }

/-- A neighbour-table entry. -/
def parseNbr (e : List Byte) : Nbr :=
  { role := fieldAt e 0 1, slot := fieldAt e 1 1, lo := fieldAt e 2 2, hi := fieldAt e 4 2, gen := fieldAt e 6 1, route := slice e 8 16 }

/-- A member-table entry keeps to its layout. -/
def memberEntryOk (b : Binding) (e : List Byte) : Bool :=
  fieldAt e 3 1 == 0 && allZero (e.drop 24) && decide (fieldAt e 2 1 ≤ 36) && decide (fieldAt e 0 2 < b.gsize) &&
  (b.op == opSample || fieldAt e 4 4 == 0) && routeShapeOk (slice e 8 16)

/-- A neighbour-table entry keeps to its layout. -/
def nbrEntryOk (b : Binding) (e : List Byte) : Bool :=
  let n := parseNbr e
  fieldAt e 7 1 == 0 && allZero (e.drop 24) && decide (1 ≤ n.role) && decide (n.role ≤ 4) && decide (n.lo < b.gsize) && decide (n.hi < b.gsize) &&
  (n.role != 2 || decide (n.lo ≤ n.hi)) && routeShapeOk n.route

/-- The tables match xtopo (log 42). -/
def Binding.topologyOk (b : Binding) (nbrs : List Nbr) : Bool :=
  let roles (k : Nat) : Nat := (nbrs.filter fun n => n.role == k).length
  if b.xtopo = 0 then b.nloc == b.gsize && nbrs.isEmpty && b.ringPos == 0 && b.ringSize == 0
  else if b.xtopo = 1 then decide (roles 1 ≤ 1) && roles 1 + roles 2 == nbrs.length && b.ringPos == 0 && b.ringSize == 0
  else roles 3 == 1 && roles 4 == 1 && nbrs.length == 2 && decide (2 ≤ b.ringSize) && decide (b.ringSize ≤ 256) && decide (b.ringPos < b.ringSize)

/-- in_fmt, out_fmt, red and rm suit the operator (05 R135, R145, R160, R163 to R168; log 42). rm is used by the operators that convert, and
may hold any of its values for the others. -/
def Binding.formatsOk (b : Binding) : Bool :=
  match Fmt.ofCode b.inFmt, Fmt.ofCode b.outFmt with
    | some f, some g =>
      let narrow := f == .le2m1 || f == .le2m3 || f == .ls8
      if b.user then b.redOp == 0
      else if b.reducing || b.op = opCombine then
        !narrow && decide (b.redOp ≤ 3) && rmAllowed g b.rm &&
        (if accFmt f = .fp64 then g == .fp64 || g == .fp32 || g == .lb16 || g == .lh16 || g == .le4m3 || g == .le5m2
         else if accFmt f = .int32 then g == .int32 || g == .int8
         else g == .fp32 || g == .lb16 || g == .lh16 || g == .le4m3 || g == .le5m2)
      else
        f == g && b.redOp == 0 &&
        (if b.op = opSort || b.op = opTopK then !narrow
         else if b.op = opFilter then !narrow && f != .fp64
         else if b.op = opSample then f == .fp32
         else if b.op = opDispatch then f == .lb16 || f == .lh16 || f == .fp32
         else true)
    | _, _ => false

/-- The operator's parameters are in range (05 R164 to R168). -/
def Binding.paramsOk (b : Binding) : Bool :=
  let within (lo hi v : Nat) : Bool := decide (lo ≤ v) && decide (v ≤ hi)
  if b.op = opTopK then within 1 65536 b.p0
  else if b.op = opFilter then decide (b.p0 ≤ 7)
  else if b.op = opSample then within 1 256 b.p0 && within 1 1024 b.p1
  else if b.op = opDispatch then within 1 256 b.p0 && within 1 8 b.p1 && within 1 16777215 (b.p2 % 2 ^ 24) && b.p2 / 2 ^ 25 == 0 && decide (b.nmax ≤ 65535)
  else true

/-- The flags are those of the operator (05 R135). -/
def Binding.flagsOk (b : Binding) : Bool :=
  b.flags / 32 == 0 &&
  (b.user || ((!b.varcount || b.op == opAllGather) && (!b.descending || b.op == opSort || b.op == opTopK) &&
    (!b.rootOnly || b.op == opTopK || b.op == opFilter) && (!b.origin || b.op == opSort || b.op == opTopK || b.op == opFilter)))

/-- Chunks that the parts of a stream take, each part with its unit and its length in bytes; one more when a lineage digest finds no room
in the last (05 R142, R177). -/
def streamChunks (cw : Nat) (digest : Bool) (parts : List (Nat × Nat)) : Nat :=
  let whole (u : Nat) : Nat := 32 * cw / u * u
  let chunks (p : Nat × Nat) : Nat := max 1 (ceilDiv p.2 (whole p.1))
  let left := match parts.getLast? with | some p => p.2 - (chunks p - 1) * whole p.1 | none => 0
  natSum (parts.map chunks) + bit (digest && decide (32 * cw < left + 32))

/-- Experts that one rank owns at most, by the operator data of a dispatch. -/
def Binding.mostOwned (b : Binding) (ops : List Byte) : Nat :=
  let o := (List.range b.experts).map fun e => fieldAt ops (32 + elemBytes b.fin (b.nmax * b.experts) + 2 * e) 2
  (o.map fun r => (o.filter (· == r)).length).foldl max 0

/-- The longest streams of a binding, each as its parts and whether it can end with a digest. A member's stream of tokens of
OP_MOE_DISPATCH, and of their results, is as long as the step's token count makes it, which no field bounds: left out (log 42). -/
def State.longest (s : State) (b : Binding) (ops : List Byte) : List (Bool × List (Nat × Nat)) :=
  let own := (b.inUnit, elemBytes b.fin b.nmax) :: (if b.scaled then [(1, b.nmax / 32)] else [])
  let most := if b.op = opAllGather && !b.varcount then b.gsize * b.nmax else if b.op = opTopK then min b.p0 (b.gsize * b.nmax)
    else if b.op = opReduceScatter && b.xtopo = 0 then ceilDiv b.nmax b.gsize else b.nmax
  let part := if b.xtopo = 2 then ceilDiv b.nmax b.ringSize else b.nmax
  if b.op = opDispatch then
    [(true, List.replicate (b.mostOwned ops) (unitBytes b.fout, elemBytes b.fout (b.p2 % 2 ^ 24 * b.nmax)))]
  else if b.op = opCombine then [(false, [(unitBytes b.fin, elemBytes b.fin ((s.slot b.pair).bind.p2 % 2 ^ 24 * b.nmax))])]
  else
    [(false, own),
     (true, if b.op = opSample then [(8, 8 * b.p0)]
       else if b.op = opAllToAll then (unitBytes b.fout, elemBytes b.fout most) :: List.replicate (b.gsize - 2) (1, 0)
       else (unitBytes b.fout, elemBytes b.fout most) :: ((if b.scaled then [(1, most / 32)] else []) ++ (if b.origin then [(8, 8 * most)] else [])))] ++
    (if b.xtopo = 0 then [] else if b.reducing then [(true, [(unitBytes b.acc, elemBytes b.acc part)])]
     else [(true, if b.op = opTopK then own ++ [(8, 8 * min b.p0 b.nmax)] else own)])

/-- No stream of the binding can need more than 1,048,576 chunks (05 R142). -/
def State.chunksFit (s : State) (b : Binding) (ops : List Byte) : Bool :=
  b.user || (s.longest b ops).all fun x => decide (streamChunks b.cw (x.1 && (b.flags.testBit 0 || s.dev.mode.getLsbD 1)) x.2 ≤ 1048576)

/-- Bytes of op_table that the binding reads (05 R168). -/
def Binding.opTableLen (b : Binding) : Nat := if b.op = opDispatch then 32 + elemBytes b.fin (b.nmax * b.experts) + 2 * b.experts else 0

/-- The operator data is in order: its header, and owners that are ranks. -/
def Binding.opTableOk (b : Binding) (ops : List Byte) : Bool :=
  b.op != opDispatch ||
  (fieldAt ops 0 4 == b.nmax && fieldAt ops 4 4 == b.experts && allZero (slice ops 8 24) &&
   (List.range b.experts).all fun e => decide (fieldAt ops (32 + elemBytes b.fin (b.nmax * b.experts) + 2 * e) 2 < b.gsize))

/-- The pair slot of OP_MOE_COMBINE is a bound OP_MOE_DISPATCH of the same context, group and members (05 R170). -/
def State.pairOk (s : State) (b : Binding) (ms : List Member) : Bool :=
  if b.op = opCombine then
    let P := s.slot b.pair
    decide (b.pair < 256) && P.state == .bound && P.bind.op == opDispatch && P.bind.ctx == b.ctx && P.bind.gsize == b.gsize &&
    P.locals == (ms.map (·.rank)).mergeSort (· ≤ ·)
  else b.pair == 0

/-- Bind check 1 (05 R137). -/
def State.bindOk (s : State) (l : Nat) (rec members nbrs ops : List Byte) : Bool :=
  let b := parseBinding rec
  let ms := (records members 0 32 b.nloc).map parseMember
  let ns := (records nbrs 0 32 b.nnbr).map parseNbr
  let within (lo hi v : Nat) : Bool := decide (lo ≤ v) && decide (v ≤ hi)
  fieldAt rec 51 1 == 0 && allZero (Machine.slice rec 80 48) && (within 1 11 b.op || b.user) && within 4 5 b.vc && decide (1 ≤ b.weight) &&
  within 1 4096 b.gsize && decide (b.nloc ≤ b.gsize) && decide (b.redOp ≤ 3) && decide (b.rm ≤ 4) && within 1 127 b.cw && within 1 4 b.depth &&
  within 1 16 b.lanes && decide (b.xtopo ≤ 2) && within 1 16777215 b.nmax && decide (b.tmo ≤ 1000000) && decide (b.root < b.gsize) &&
  decide (b.nnbr ≤ 35) && b.flagsOk && b.formatsOk && b.paramsOk && (b.op == opDispatch || fieldAt rec 72 8 == 0) &&
  decide (32 * b.nloc ≤ members.length) && decide (32 * b.nnbr ≤ nbrs.length) && decide (b.opTableLen ≤ ops.length) &&
  (records members 0 32 b.nloc).all (memberEntryOk b) && (records nbrs 0 32 b.nnbr).all (nbrEntryOk b) &&
  (ms.map (·.rank)).eraseDups.length == ms.length && b.topologyOk ns && b.opTableOk ops && s.pairOk b ms &&
  (s.slot l).prevGen != some b.gen && s.chunksFit b ops

/-! ### What a binding reserves (05 R137) -/

/-- Members and neighbours that send to this device, and those it sends to. -/
def Binding.traffic (b : Binding) (ms : List Member) (ns : List Nbr) : Nat × Nat :=
  let hasRoot := ms.any fun m => m.rank == b.root
  let mem : Nat × Nat :=
    if b.op = opBroadcast then (bit hasRoot, ms.length - bit hasRoot) else if b.rootOnly then (ms.length, bit hasRoot) else (ms.length, ms.length)
  if b.xtopo = 2 then (mem.1 + 1, mem.2 + 1) else (mem.1 + ns.length, mem.2 + ns.length)

/-- Cells a binding reserves. -/
def Binding.cellsNeeded (b : Binding) (ms : List Member) (ns : List Nbr) : Nat :=
  let t := b.traffic ms ns
  b.depth * 2 * (t.1 + t.2) * ceilDiv (64 + 32 * b.cw) 256

/-- Step-buffer bytes the operator declares. -/
def State.stepBytes (s : State) (b : Binding) (ms : List Member) (ns : List Nbr) : Nat :=
  let acc := elemBytes b.acc b.nmax
  let out := elemBytes b.fout b.nmax
  if b.reducing || b.op = opCombine then
    if s.arrivalOrder then b.depth * (2 * acc + out) else b.depth * (((b.traffic ms ns).1 + 1) * acc + out)
  else Config.declaredStepBytes b.raw

/-- The Tillers of a context that no slot holds as lanes, ascending (log 42). -/
def State.freeLanes (s : State) (x : Nat) : List Nat := (s.ctx x).tillers.filter fun t => (s.slotsOfLane t).isEmpty

/-- Scheduler ports that routes leave by, and port 37. -/
def portsOf (routes : List (List Byte)) : List Nat := dedup (37 :: routes.map fun r => fieldAt r 1 1 % 64)

/-- s with one free stream queue taken for each port, or none. -/
def State.takeSlotQueues (s : State) (l : Nat) (b : Binding) : List Nat → Option (List (Nat × Nat) × State)
  | [] => some ([], s)
  | p :: t =>
    match firstRun (fun q => !(s.sqCfg q).inUse && !s.queueHolds q) 1 65536 0 0 with
    | none => none
    | some q =>
      let s1 := s.setQueues q 1 fun _ => { port := p, vc := b.vc, inUse := true, weight := b.weight, owner := 3, ownerId := l }
      (State.takeSlotQueues s1 l b t).map fun r => ((p, q) :: r.1, r.2)

/-- Pool whose buffers a lane's share of step buffers is taken from: the smallest that holds it whole, else pool 3. -/
def sharePool (n : Nat) : Nat := if n ≤ 0x1000 then 0 else if n ≤ 0x10000 then 1 else if n ≤ 0x100000 then 2 else 3

/-- s with the resources of a binding reserved: lanes, cells, queues, step buffers, and first hops that are up (05 R137 check 4, 06 R186);
the take of step buffers may have to wait (08 R237, R242). -/
def State.reserveSlot (s : State) (who : SbReq) (l : Nat) (b : Binding) (ms : List Member) (ns : List Nbr) : Take Slot :=
  let lanes := (s.freeLanes b.ctx).take b.lanes
  let cells := b.cellsNeeded ms ns
  let routes := ms.map (·.route) ++ ns.map (·.route)
  let bytes := s.stepBytes b ms ns
  let share := ceilDiv bytes b.lanes
  let inPads := lanes.all fun t => decide (share + (s.tl t).img.spUsed ≤ 0x1FFFC0)
  if lanes.length < b.lanes || s.sharedFree < cells || !(routes.all s.routeUp) then .noFit
  else match s.takeSlotQueues l b (portsOf routes) with
    | none => .noFit
    | some q =>
      let k := sharePool share
      match (if inPads then .got [] q.2 else q.2.takeMany who b.ctx k (some l) (b.lanes * ceilDiv share (poolSize k))) with
      | .got bufs s1 =>
        .got { state := .bound, bind := b, prevGen := some b.gen, members := ms, nbrs := ns, laneTs := lanes, cells := cells, queues := q.1,
               bufs := bufs, bufBytes := bytes } s1
      | .wait w => .wait w
      | _ => .noFit

/-- A slot with the operator data of OP_MOE_DISPATCH in its step buffers (05 R168). -/
def Slot.withOps (S : Slot) (ops : List Byte) : Slot :=
  let b := S.bind
  if b.op = opDispatch then
    let n := elemBytes b.fin (b.nmax * b.experts)
    { S with gateW := Machine.slice ops 32 n, owners := (List.range b.experts).map fun e => fieldAt ops (32 + n + 2 * e) 2,
             wDigest := sha256 (Machine.slice ops 32 (n + 2 * b.experts)) }
  else S

/-- s with the steering entries of slot l written: sub-stream u goes to lane u mod lanes (05 R142). -/
def State.steerLanes (s : State) (l : Nat) (lanes : List Nat) : State :=
  s.modFab fun f => { f with steer := (List.range 16).foldl (fun m u => SMap.set noneAt (steerSlot l u) (lanes[u % max 1 lanes.length]?) m) f.steer }

/-- The tables a COLL_BIND names: those read from host memory, or, of a MGMT request, those in its own record (10 R305). -/
def Cmd.tables (k : Cmd) (members nbrs ops : List Byte) : List Byte × List Byte × List Byte :=
  match k.src with
  | .mgmt _ _ =>
    let b := parseBinding k.params
    (Machine.slice k.params (fieldAt k.params 56 8) (32 * b.nloc), Machine.slice k.params (fieldAt k.params 64 8) (32 * b.nnbr),
     Machine.slice k.params (fieldAt k.params 72 8) b.opTableLen)
  | _ => (members, nbrs, ops)

/-- COLL_BIND: the checks of 05 R137 in order, then the reservations; members, nbrs and ops are what host memory holds in the tables the
record names. A bind that needs a buffer of a list being rebuilt waits its turn (08 R242). -/
def execCollBind (c : Nat) (members nbrs ops : List Byte) (s0 : State) : Host.Outcome State Fault Refusal :=
  let who : SbReq := { cmd := some c }
  runSub 0x0301 c (fun k => fieldAt k.params 1 1 != 0) s0 fun k s =>
    let l := fieldAt k.params 0 1
    let b := parseBinding k.params
    let T := k.tables members nbrs ops
    if !s.bindOk l k.params T.1 T.2.1 T.2.2 then s.finish c stBadParam
    else if !(s.ctxOk b.ctx && (s.ctx b.ctx).loaded) then s.finish c stContextGone
    else if (s.slot l).state ≠ .free then s.finish c stNoFit
    else
      match s.reserveSlot who l b ((records T.1 0 32 b.nloc).map parseMember) ((records T.2.1 0 32 b.nnbr).map parseNbr) with
      | .wait w => s0.await who w
      | .got S s1 =>
        (((s1.modSlot l fun _ => S.withOps T.2.2).steerLanes l S.laneTs).finish c stOk [S.cells, S.bufBytes, bit !S.bufs.isEmpty, b.gen]).leaveQueue who
      | _ => (s.finish c stNoFit).leaveQueue who

/-! ### Unbinding (05 R139) -/

/-- s with the outstanding posts of slot l completed (10 R299). -/
def State.endPosts (s : State) (l status : Nat) : State :=
  let mine := s.host.posts.filter fun p => p.slot == l
  (mine.foldl (fun s p => s.finish p.cmd status) s).modHost fun h => { h with posts := h.posts.filter fun p => p.slot != l }

/-- s with slot l unbound: uncommitted steps aborted with CONTEXT_GONE, reservations and steering entries released but for its step
buffers; gen is kept. -/
def State.unbind (s : State) (l : Nat) : State :=
  let S := s.slot l
  let s1 := (s.abortSteps l stContextGone S.uncommitted none).endPosts l stContextGone
  let s2 := s1.freeQueues (S.queues.map (·.2))
  let s3 := s2.modFab fun f => { f with steer := (List.range 16).foldl (fun m u => SMap.set noneAt (steerSlot l u) none m) f.steer }
  s3.modSlot l fun S => { prevGen := S.prevGen }

/-- A memory write that context x issued has not been acknowledged: an MV_PUT of one of its Tillers is under way (08 R240). -/
def State.writesOpen (s : State) (x : Nat) : Bool :=
  (s.ctx x).tillers.any fun t => (s.tl t).checker.any fun e => e.inst.mn == .mvPut && !e.finished

/-- COLL_UNBIND: COLL_BIND with op 0 (05 R139). Step buffers of Seedbank go back in ascending address once the context's writes have
been acknowledged; before that the row waits (08 R240). -/
def execCollUnbind (c : Nat) (s0 : State) : Host.Outcome State Fault Refusal :=
  runSub 0x0301 c (fun k => fieldAt k.params 1 1 == 0) s0 fun k s =>
    let l := fieldAt k.params 0 1
    let S := s.slot l
    if S.state = .free || fieldAt k.params 51 1 ≠ 0 || !allZero (Machine.slice k.params 80 48) || 32 ≤ fieldAt k.params 28 4 then s.finish c stBadParam
    else if !S.bufs.isEmpty && s.writesOpen S.bind.ctx then s0
    else ((S.bufs.mergeSort (· ≤ ·)).foldl State.giveAddr (s.unbind l)).finish c stOk

/-! ### Query and substitution (05 R174, R175; 10 R296) -/

/-- Code of a slot's state, in the order of R134. -/
def SlotState.code : SlotState → Nat
  | .free => 0
  | .bound => 1
  | .faulted => 2

/-- COLL_QUERY. -/
def execCollQuery (c : Nat) (s : State) : Host.Outcome State Fault Refusal :=
  runCmd 0x0303 c s fun k s =>
    let S := s.slot (fieldAt k.params 12 1)
    if !allZero (k.params.drop 13) || S.state = .free then s.finish c stBadParam
    else
      let who (n t : Nat) : List Byte := toLE 4 n ++ [0#8, 0#8, 0#8, 0#8] ++ toLE 8 t
      s.finishData k [S.strag.length]
        (toLE 4 S.state.code ++ ([S.proto, S.window, S.dup, S.gateDrop, S.capDrop].map fun v => toLE 8 v.toNat).flatten ++ padTo 128 S.bind.raw ++
         (S.members.map fun m => who m.timesLast m.lateness).flatten ++ (S.nbrs.map fun n => who n.timesLast n.lateness).flatten ++ S.strag.flatten)

/-- The first step of a slot that the new member of a substitution takes (05 R175). -/
def Slot.effStep (S : Slot) (now : Bool) : Nat :=
  if now then S.uncommitted.headD S.sLow else S.uncommitted.foldl (fun a n => max a (n + 1)) S.sLow

/-- COLL_SUBSTITUTE: another member takes a rank; with now, every uncommitted step is aborted with RETRY. -/
def execCollSubstitute (c : Nat) (s : State) : Host.Outcome State Fault Refusal :=
  runCmd 0x0304 c s fun k s =>
    let l := fieldAt k.params 0 1
    let S := s.slot l
    let now := fieldAt k.params 1 1 == 1
    let r := fieldAt k.params 2 2
    let e := Machine.slice k.params 4 32
    let m := parseMember e
    if 1 < fieldAt k.params 1 1 || S.state ≠ .bound || !S.isLocal r || m.rank ≠ r || !memberEntryOk S.bind e then s.finish c stBadParam
    else if !s.routeUp m.route then s.finish c stNoFit
    else
      let p := fieldAt m.route 1 1 % 64
      match (if S.queues.any fun q => q.1 == p then some ([], s) else s.takeSlotQueues l S.bind [p]) with
      | none => s.finish c stNoFit
      | some (q, s1) =>
        let eff := S.effStep now
        let s2 := if now then s1.abortSteps l stRetry S.uncommitted none else s1
        (s2.modSlot l fun S => { S with
          queues := S.queues ++ q
          members := S.members.map fun x => if x.rank = r then { m with since := eff, old := x.entry :: x.old } else x }).finish c stOk [eff]

end Sys2Proof.Machine
end

