-- ==== Sys2Proof/Machine/Posts.lean ====
section
/-!
DEFINITION. COLL_POST: host software as a member of a slot through port 36 (10 R299): the posts' packets, and the packets of the slot
that arrive for them.
-/

namespace Sys2Proof.Machine

/-- The route of a post's packets: one hop, from port 36 to port 37. -/
def postRoute : List Byte := padTo 16 [0x10#8, 37#8]

/-- s with packets of a post sent from port 36. -/
def State.postPackets (s : State) (l : Nat) (c : CPrefix) (ps : List RPkt) : State :=
  let b := (s.slot l).bind
  ps.foldl (fun s p =>
    let body := { c with slot := l, gen := b.gen, flags := p.flags, chunk := p.chunk }.bytes ++ p.data
    s.sendOn36 { bytes := mkHeader 1 b.vc (p.chunk % 16) (s.epoch b.ctx).toNat b.ctx l 0 0 0 body.length postRoute ++ body }) s

/-- A posted contribution in its pieces: elements, then their scales for a block-scaled format (05 R160). -/
def Binding.postParts (b : Binding) (data : List Byte) : List (Nat × Nat × List Byte) :=
  if b.scaled then
    let k := elemBytes b.fin (data.length * 32 / (4 * b.fin.width + 1))
    [(unitBytes b.fin, 0, data.take k), (1, 0, data.drop k)]
  else [(b.inUnit, 0, data)]

/-- s with the packets of a post sent, or sent again: contribution chunks, counts, or the request. -/
def State.sendPost (s : State) (p : Post) (data : List Byte) : State :=
  let b := (s.slot p.slot).bind
  let c : CPrefix := { kind := if p.kind = 0 then kContrib else if p.kind = 1 then kCount else kRequest, rank := p.rank, step := p.step }
  s.postPackets p.slot c
    (if p.kind = 0 then packParts b.cw 0 0 (b.postParts data)
     else if p.kind = 1 then packParts b.cw 0 0 [(4, 0, data)]
     else [{}])

/-- The post that a COLL_POST record describes. -/
def Cmd.post (k : Cmd) : Post :=
  { cmd := k.id, slot := fieldAt k.params 0 1, kind := fieldAt k.params 1 1, rank := fieldAt k.params 2 2, step := fieldAt k.params 4 4,
    outAddr := fieldAt k.params 24 8, outLen := fieldAt k.params 32 4 }

/-- A COLL_POST record is in order (10 R299). -/
def State.postOk (s : State) (k : Cmd) (data : List Byte) : Bool :=
  let p := k.post
  let S := s.slot p.slot
  decide (p.kind ≤ 2) && allZero (Machine.slice k.params 20 4) && allZero (k.params.drop 36) && p.outAddr % 32 == 0 && S.state == .bound &&
  ((S.member? p.rank).map (·.port)) == some 36 && data.length == fieldAt k.params 16 4 && (p.kind != 2 || data.isEmpty) &&
  !s.host.posts.any fun q => q.slot == p.slot && q.step == p.step && q.rank == p.rank && q.kind == p.kind

/-- A post taken up: its packets are sent, and it waits for its answer. -/
def State.startPost (s : State) (k : Cmd) (data : List Byte) : State :=
  if s.postOk k data then (s.modHost fun h => { h with posts := h.posts ++ [k.post] }).sendPost k.post data else s.finish k.id stBadParam

/-- COLL_POST kind 0: data is the contribution, read from host memory; a kind not listed is a bad parameter. -/
def execCollPostContrib (c : Nat) (data : List Byte) (s : State) : Host.Outcome State Fault Refusal :=
  runSub 0x0302 c (fun k => fieldAt k.params 1 1 == 0 || decide (2 < fieldAt k.params 1 1)) s fun k s => s.startPost k data

/-- COLL_POST kind 1: data is the counts. -/
def execCollPostCounts (c : Nat) (data : List Byte) (s : State) : Host.Outcome State Fault Refusal :=
  runSub 0x0302 c (fun k => fieldAt k.params 1 1 == 1) s fun k s => s.startPost k data

/-- COLL_POST kind 2. -/
def execCollPostResultRequest (c : Nat) (s : State) : Host.Outcome State Fault Refusal :=
  runSub 0x0302 c (fun k => fieldAt k.params 1 1 == 2) s fun k s => s.startPost k []

/-- s with a post changed. -/
def State.modPost (s : State) (p q : Post) : State := s.modHost fun h => { h with posts := h.posts.map fun x => if x.cmd = p.cmd then q else x }

/-- s with a post completed. -/
def State.endPost (s : State) (p : Post) (status : Nat) (words : List Nat) : State :=
  (s.finish p.cmd status words).modHost fun h => { h with posts := h.posts.filter fun x => x.cmd != p.cmd }

/-- Every chunk of an answer of a number of pieces is held. -/
def Post.full (p : Post) (pieces : Nat) : Bool :=
  let ends := p.got.filter fun g => g % 2 == 1
  ends.length == pieces && (ends.foldl max 0) / 2 + 1 == p.got.length

/-- s with a chunk of an answer taken for a post: written at its offset, or dropped when it would pass out_len; the post completes with
the last chunk. -/
def State.answerPost (s : State) (l : Nat) (p : Post) (c : CPrefix) (d : List Byte) (pieces : Nat) : State :=
  let off := c.chunk * (s.slot l).bind.limit
  let code := 2 * c.chunk + c.flags % 2
  if p.got.any fun g => g / 2 == c.chunk then s
  else
    let fits := decide (off + d.length ≤ p.outLen)
    let q := { p with
      got := p.got ++ [code], high := max p.high (off + d.length)
      need := if fits then p.need else some (max (p.need.getD 0) (off + d.length)) }
    let s1 := if fits then s.writeHost (p.outAddr + off) d else s.protoDrop l
    let s2 := s1.modPost p q
    if q.full pieces then
      (match q.need with
        | none => s2.endPost q stOk [q.high]
        | some n => s2.endPost q stBadParam [max n q.high])
    else s2

/-- Pieces of the result that a rank was sent of a step: the packets with the last flag among those its commit keeps. -/
def State.postPieces (s : State) (l n r : Nat) : Nat :=
  match (s.slot l).kept.find? fun k => k.num == n with
  | some k => ((k.outs.filter fun o => o.1 == r).map fun o => (o.2.filter fun p => p.flags % 2 == 1).length).foldl (· + ·) 0
  | none => s.resultPieces l { num := n } r

/-- s with a packet for a set of posts taken. -/
def State.takePostPacket (s : State) (ps : List Post) (k : Pkt) : State :=
  let c := readPrefix k.payload
  let l := c.slot
  let d := k.payload.drop 16
  if c.gen ≠ (s.slot l).bind.gen then s
  else if c.kind = kAbort then ps.foldl (fun s p => s.endPost p c.status []) s
  else if c.kind = kCountReply then (ps.filter fun p => p.kind == 1).foldl (fun s p => s.answerPost l p c d 1) s
  else if c.kind = kResult then (ps.filter fun p => p.kind != 1).foldl (fun s p => s.answerPost l p c d (s.postPieces l c.step p.rank)) s
  else s

/-- The packet that port 36 holds for outstanding posts, with those posts. -/
def State.postHead (s : State) : Option (Pkt × List Post) :=
  match SMap.get noneAt s.fab.txPkt 36 with
  | none => none
  | some k => let ps := s.postsFor k; if ps.isEmpty then none else some (k, ps)

/-- s with port 36's packet taken by the device. -/
def State.clear36 (s : State) (k : Pkt) : State :=
  ((s.countTx 36 k).release k).modFab fun b => { b with txPkt := SMap.set noneAt 36 none b.txPkt }

/-- The posts that a STEP_REPLAY asks to be sent again: contributions and counts. -/
def replayed (ps : List Post) : List Post := ps.filter fun p => p.kind != 2

/-- POST_PACKET_ARRIVAL: a packet of the slot, step and rank of outstanding posts reaches port 36; one with an uncorrectable word in its
cells is dropped and counted there (01 R32). -/
def execPostPacketArrival (ecc : Option Nat) (s : State) : Host.Outcome State Fault Refusal :=
  onEvent s.live s
    (match s.postHead with
      | none => s
      | some (k, ps) =>
        if ecc.isSome then
          (s.dropPkt k 36 dropEcc).modFab fun b => { b with txPkt := SMap.set noneAt 36 none b.txPkt }
        else if (readPrefix k.payload).kind = kReplay && !(replayed ps).isEmpty then s else (s.clear36 k).takePostPacket ps k)

/-- POST_STEP_REPLAY: on a STEP_REPLAY the device reads the contribution or counts of post c again and sends them; the packet is done
with when the last of the posts it concerns has been. -/
def execPostStepReplay (c : Nat) (data : List Byte) (s : State) : Host.Outcome State Fault Refusal :=
  onEvent s.live s
    (match s.postHead with
      | none => s
      | some (k, ps) =>
        if (readPrefix k.payload).kind ≠ kReplay then s
        else match (replayed ps).find? fun p => p.cmd == c with
          | none => s
          | some p =>
            let s1 := if (readPrefix k.payload).gen = (s.slot p.slot).bind.gen then s.sendPost p data else s
            if (replayed ps).any fun q => decide (c < q.cmd) then s1 else s1.clear36 k)

end Sys2Proof.Machine
end

