-- ==== Sys2Proof/Machine/Shadow.lean ====
section
/-!
DEFINITION. Shadow runs (13 R371, R372): the command, what happens at a STEP_END of the source and of the shadow, the repeats and the
result data.
-/

namespace Sys2Proof.Machine

/-! ### Digests and results -/

/-- Lineage digest of a step of Tiller t for the context of a shadow run, from the recorded inputs and its outputs (13 R372). -/
def State.stepDigest (s : State) (h : Shadow) (t : Nat) (outputs : List Byte) : List Byte :=
  let C := s.ctx h.ctx
  let T := s.tl t
  let regs := ((List.range 31).map fun i => toLE 4 (T.reg (i + 1)).toNat).flatten
  let w := sha256 (T.sp.read 0 0x200000 ++ T.dmem.read 0 0x10000 ++ regs)
  sha256 (padTo 32 C.digest ++ w ++ sha256 (h.inputs ++ outputs) ++ toLE 8 C.signature.toNat)

/-- Compute die of Tiller t. -/
def dieOf (t : Nat) : Nat := t / 48

/-- Junction temperature of the compute die of Tiller t. -/
def State.dieTemp (s : State) (t : Nat) : Int := s.pwr.sens.tDie.getD (dieOf t + 1) 0

/-- The shadow run over: the shadow Tiller and the two buffers are free again. -/
def State.clearShadow (s : State) : State :=
  match s.shadow with
  | none => s
  | some h => { (h.bufs.foldl State.giveAddr (s.modT h.dst fun _ => {})) with shadow := none }

/-- s with the shadow run's command completed without a comparison. -/
def State.endShadow (s : State) (status : Nat) : State :=
  match s.shadow with
  | none => s
  | some h => (s.clearShadow).finish h.cmd status

/-- s with the shadow run's result data returned (13 R372). -/
def State.reportShadow (s : State) : State :=
  match s.shadow with
  | none => s
  | some h =>
    match s.cmd? h.cmd with
    | none => s.clearShadow
    | some k => (s.clearShadow).finishData k [] (padTo 32 h.digest ++ toLE 4 h.cycles ++ toLE 4 h.done.length ++ h.done.flatten)

/-- s with a repeat ended: its entry, the record of a mismatch, and, after the last, the report. -/
def State.endRepeat (s : State) (ok : Bool) : State :=
  match s.shadow with
  | none => s
  | some h =>
    let T := s.tl h.dst
    let cycles := s.clk.core - T.startCyc - (h.startCyc - ((h.snap.map (·.startCyc)).getD 0))
    let same := ok && s.stepDigest h h.dst h.repOut == h.digest
    let e := toLE 8 s.now ++ toLE 1 (bit same) ++ toLE 1 (bit h.missed) ++ toLE 2 (h.repTemp % 65536).toNat ++ toLE 4 cycles
    let s1 := if same then s else s.almQueue { type := 0x0D, unit := h.dst, ctx := h.ctx, signature := (s.ctx h.ctx).signature,
                                               detail := detail (toLE 1 (h.done.length + 1)) }
    let s2 := s1.modT h.dst fun T => { T with run := .loaded }
    let s3 := s2.modShadow fun h => { h with done := h.done ++ [e], holdAt := s.t3, okSince := none, missed := false, pos := 0, repOut := [] }
    if h.repeats ≤ h.done.length + 1 then s3.reportShadow else s3

/-- s after Tiller t has retired a STEP_END or HALT: the source's state is captured, its step is measured, or the shadow's repeat
ends (13 R371). -/
def State.shadowStep (s : State) (t : Nat) : State :=
  match s.shadow with
  | none => s
  | some h =>
    if h.stage = 0 && h.src = t && (s.tl t).run = TRun.running then
      s.modShadow fun h => { h with stage := 1, snap := some (s.tl t), startCyc := s.clk.core }
    else if h.stage = 1 && h.src = t then
      if 0x1000000 < h.inputs.length then s.endShadow stNoFit
      else s.modShadow fun h => { h with
        stage := 2, digest := s.stepDigest h t h.outputs, cycles := s.clk.core - h.startCyc, holdAt := s.t3, okSince := none }
    else if h.stage = 2 && h.dst = t then s.endRepeat true
    else s

/-! ### The rows -/

/-- A program holds class 0x2 instructions. -/
def usesHarrow (code : List Shoze) : Bool := code.any fun i => engineOf i.mn == 1

/-- Tiller t is free: in no context and not held by firmware, and no reset of it is in progress. -/
def State.tillerFree (s : State) (t : Nat) : Bool :=
  let T := s.tl t
  T.ctx.isNone && T.owner == .free && T.run == .free && T.reset.isNone && !(s.slots.any fun p => p.2.laneTs.contains t)

/-- DIAG_SHADOW_RUN: a second shadow run while one is in progress completes with REFUSED_NO_FIT (log 45). -/
def execDiagShadowRun (c : Nat) (s0 : State) : Host.Outcome State Fault Refusal :=
  let who : SbReq := { cmd := some c }
  runCmd 0x0A02 c s0 fun k s =>
    let x := fieldAt k.params 12 4
    let a := fieldAt k.params 16 2
    let b := fieldAt k.params 18 2
    let temp := (BitVec.ofNat 16 (fieldAt k.params 22 2)).toInt
    let ms := fieldAt k.params 24 4
    if 192 ≤ a || 192 ≤ b || fieldAt k.params 20 1 = 0 || 1 < fieldAt k.params 21 1 || 1600 ≤ temp || ms = 0 || 60000 < ms ||
        !allZero (k.params.drop 28) then s.finish c stBadParam
    else if !s.ctxOk x then s.finish c stContextGone
    else if (s.tl a).ctx ≠ some x || (s.tl a).mode ≠ 0 || (s.tl a).run ≠ TRun.running then s.finish c stBadParam
    else if !s.harrow b && usesHarrow (s.tl a).img.code then s.finish c stNotPresent
    else if !s.tillerFree b || !s.domOn (domTiller (b / 8)) || s.shadow.isSome then s.finish c stNoFit
    else
      match s.takeMany who 0x101 3 none 2 with
      | .empty => (s.finish c stPoolEmpty).leaveQueue who
      | .noFit => (s.finish c stNoFit).leaveQueue who
      | .wait w => s0.await who w
      | .got bufs s1 =>
        let h : Shadow := {
          cmd := c, ctx := x, src := a, dst := b, repeats := fieldAt k.params 20 1, hold := fieldAt k.params 21 1 == 1, temp := temp,
          deadline := s.t3 + msec ms, bufs := bufs }
        ({ (s1.modT b fun T => { T with owner := .shadow }) with shadow := some h } : State).leaveQueue who

/-- The hold of the die's temperature is over: it has stayed near hold_temp for 100 ms, or 10 s have gone by (13 R371). -/
def State.holdOver (s : State) (h : Shadow) : Bool :=
  !h.hold || s.after h.holdAt (msec 10000) || (match h.okSince with | some t => s.after t (msec 100) | none => false)

/-- SHADOW_REPEAT_START: the shadow is loaded with the captured state and runs the step; a shadow stopped by a fault ends its repeat as
a mismatch first (log 45). -/
def execShadowRepeatStart (s : State) : Host.Outcome State Fault Refusal :=
  onEvent s.live s
    (match s.shadow with
      | none => s
      | some h =>
        if h.stage ≠ 2 || (s.tl h.dst).run = TRun.running then s
        else if (s.tl h.dst).run = TRun.faulted then s.endRepeat false
        else match h.snap with
          | none => s
          | some T =>
            if s.holdOver h then
              let off := h.startCyc - T.startCyc
              let near := match h.okSince with | some t => s.after t (msec 100) | none => false
              let on (S : StreamSt) : StreamSt := { S with hold := .none, next := s.clk.core, prog := s.t3 }
              (s.modT h.dst fun _ => { T with
                ctx := none, owner := .shadow, run := .running, startCyc := s.clk.core - off, busy := [], recvQ := [], sendQ := [], reset := none,
                stopReq := false, streams := SMap.set streamAt 0 (on (T.stream 0)) T.streams }).modShadow fun h => { h with
                  pos := 0, repOut := [], missed := h.hold && !near, repTemp := s.dieTemp h.dst }
            else s)

/-- SHADOW_RUN_TIMEOUT: the source has not finished its step within timeout_ms. -/
def execShadowRunTimeout (s : State) : Host.Outcome State Fault Refusal :=
  onEvent s.live s
    (match s.shadow with
      | none => s
      | some h => if h.stage < 2 && decide (h.deadline ≤ s.t3) then s.endShadow stTimeout else s)

end Sys2Proof.Machine
end

