-- ==== Sys2Proof/Machine/Firmware.lean ====
section
/-!
DEFINITION. Firmware (file 11; 13 R365, R366): the flash stores, staging and activation, boot, the restarts of the firmware processors,
attestation, and the quorum commands. Signatures and quorum tags are computed (log 10).
-/

namespace Sys2Proof.Machine

/-! ### Flash stores (R309 to R311) -/

/-- Offset of a store in each flash device, and its size in bytes (R309). -/
def storePlace : Nat → Nat × Nat
  | 1 => (0x80000, 0x1000000)
  | 2 => (0x40000, 0x40000)
  | 3 => (0x20000, 0x10000)
  | 4 => (0x10000, 0x10000)
  | 5 => (0x30000, 0x10000)
  | _ => (0, 0)

/-- Content of a store fits in its slot, behind the header. -/
def fitsStore (store : Nat) (content : List Byte) : Bool := decide (64 + content.length ≤ (storePlace store).2)

/-- Slot i (0 A, 1 B) of store 1 to 5: slot A lies in device 0, slot B in device 1. -/
def State.flashSlot (s : State) (store i : Nat) : FlashSlot := flashSlotOf s.fw.flash store i

/-- s with a slot of a store written. -/
def State.setFlash (s : State) (store i : Nat) (f : FlashSlot) : State := s.modFw fun w => { w with flash := putSlot w.flash store i f }

/-- The slot in force of a store; none when the store is empty. -/
def State.inForce (s : State) (store : Nat) : Option Nat := slotInForce s.fw.flash store

/-- Content of a store in force, empty when there is none. -/
def State.stored (s : State) (store : Nat) : List Byte := storeContent s.fw.flash store

/-- The slot that the next write of a store takes. -/
def State.targetSlot (s : State) (store : Nat) : Nat := (writeTarget s.fw.flash store).1

/-- The generation that the next write of a store takes. -/
def State.nextGen (s : State) (store : Nat) : Nat := (writeTarget s.fw.flash store).2

/-! ### Keys and the device certificate (R309, R313, R322) -/

/-- The firmware public key in the boot ROM. -/
def Part.firmwareKey (p : Part) : List Byte := if p.romKey.isEmpty then toBE 4 lmsFirmware.lms ++ toBE 4 lmsFirmware.ots ++ List.replicate 48 0#8 else p.romKey

/-- The bytes of the device certificate that the manufacturing key signs. -/
def Part.certBody (p : Part) : List Byte :=
  [0x4C#8, 0x4B#8, 0x44#8, 0x43#8] ++ toLE 2 1 ++ [0#8, 0#8] ++ padTo 12 p.serial ++ List.replicate 4 0#8 ++ hssPublic (padTo 32 p.secret) ++ List.replicate 44 0#8

/-- The device certificate: its body and the manufacturing key's LMS signature over it. -/
def Part.certificate (p : Part) : List Byte :=
  p.certBody ++ padTo 2828 (toBE 4 p.certLeaf ++ toBE 4 lmsFirmware.ots ++ padTo 2176 p.certOts ++ toBE 4 lmsFirmware.lms ++ padTo 640 p.certPath)

/-- A byte of a flash device: the certificate's copy, then the slots of the stores, every other byte erased (R309). -/
def State.flashByte (s : State) (device off : Nat) : Byte :=
  if off < 0x10000 then s.part.certificate.getD off 0xFF#8
  else match [1, 2, 3, 4, 5].find? fun k => decide ((storePlace k).1 ≤ off) && decide (off < (storePlace k).1 + (storePlace k).2) with
    | some k => let f := s.flashSlot k device; (f.header ++ f.content).getD (off - (storePlace k).1) 0xFF#8
    | none => 0xFF#8

/-! ### Objects (R312 to R314, R325; 09 R273) -/

/-- A section entry: processor, kind, load address, offset, length. -/
structure Section where
  /-- processor, 0 to 4 -/
  proc : Nat
  /-- 0 code, 1 data -/
  kind : Nat
  /-- load address -/
  load : Nat
  /-- offset in the body -/
  off : Nat
  /-- bytes -/
  len : Nat
  deriving DecidableEq, Repr

/-- The used section entries of an image; none when an entry breaks its ranges. -/
def imageSections (b : List Byte) : Option (List Section) :=
  let body := fieldAt b 20 4
  ((List.range 12).foldl (fun (l : Option (List Section)) j =>
    let o := 64 + 16 * j
    let x : Section := { proc := fieldAt b o 1, kind := fieldAt b (o + 1) 1, load := fieldAt b (o + 4) 4, off := fieldAt b (o + 8) 4, len := fieldAt b (o + 12) 4 }
    if x.proc = 0xFF then l
    else if x.proc ≤ 4 && x.kind ≤ 1 && fieldAt b (o + 2) 2 = 0 && x.load + x.len ≤ (if x.kind = 0 then 0x100000 else 0x80000) && 256 ≤ x.off &&
        x.off + x.len ≤ body then l.map fun l => l ++ [x]
    else none) (some []))

/-- Two spans share a byte. -/
def spansMeet (a n b m : Nat) : Bool := decide (a < b + m) && decide (b < a + n)

/-- No two of a list stand in a relation. -/
def apart {α : Type} (f : α → α → Bool) : List α → Bool
  | [] => true
  | x :: rest => rest.all (fun y => !f x y) && apart f rest

/-- An image's header and section table meet R312, and its stepping is this device's. -/
def imageFormatOk (b0 : List Byte) : Bool :=
  let b := b0.take 256
  decide (b.take 4 = [0x4C#8, 0x4B#8, 0x46#8, 0x57#8]) && fieldAt b 4 2 == 1 && fieldAt b 9 1 == 0 && fieldAt b 14 2 == 0 && decide (fieldAt b 16 4 ≤ 63) &&
  fieldAt b 20 4 % 64 == 0 && fieldAt b 24 4 == fieldAt b 20 4 + 2828 && decide (fieldAt b 24 4 ≤ 16777152) && decide (256 ≤ fieldAt b 20 4) &&
  allZero (slice b 28 36) && b0.length == fieldAt b 24 4 && fieldAt b 13 1 == 0xA1 &&
  (match imageSections b with
    | none => false
    | some l =>
      (List.range 5).all (fun q => (l.filter fun x => x.proc == q && x.kind == 0).length == 1) &&
      apart (fun x y => spansMeet x.off x.len y.off y.len) l &&
      apart (fun x y => x.proc == y.proc && x.kind == y.kind && spansMeet x.load x.len y.load y.len) l)

/-- An image passes the authentication checks: security version and signature. -/
def State.imageAuthOk (s : State) (b : List Byte) : Bool :=
  decide (s.part.svMin ≤ fieldAt b 16 4) && lmsFirmware.verifies s.part.firmwareKey (b.take (fieldAt b 20 4)) (b.drop (fieldAt b 20 4))

/-- The equaliser table keeps its header rules (09 R273). -/
def eqHeaderOk (t : List Byte) : Bool :=
  decide (t.take 4 = [0x4C#8, 0x4B#8, 0x45#8, 0x51#8]) && fieldAt t 4 2 == 1 && fieldAt t 6 2 == 288 && fieldAt t 8 4 == t.length &&
  decide (t.length ≤ 148768) && decide (288 ≤ t.length) && allZero (slice t 16 16) &&
  decide ((crc32c (patch t 12 [0#8, 0#8, 0#8, 0#8])).toNat = fieldAt t 12 4)

/-- HMAC-SHA-256 under a 32-byte key. -/
def hmac (key msg : List Byte) : List Byte :=
  let k := padTo 64 key
  sha256 ((k.map fun b => b ^^^ 0x5C#8) ++ sha256 ((k.map fun b => b ^^^ 0x36#8) ++ msg))

/-- N of a key set. -/
def keyCount (set : List Byte) : Nat := fieldAt set 6 1

/-- Q of a key set; 0 means 3. -/
def keyQuorum (set : List Byte) : Nat := if fieldAt set 7 1 = 0 then 3 else fieldAt set 7 1

/-- Key i of a set. -/
def keyAt (set : List Byte) (i : Nat) : List Byte := slice set (32 + 32 * i) 32

/-- Tag entry j of a record whose entries begin at an offset: its key index and its tag. -/
def tagAt (r : List Byte) (at0 j : Nat) : Nat × List Byte := (fieldAt r (at0 + 36 * j) 1, slice r (at0 + 36 * j + 4) 32)

/-- The tag entries' reserved bytes are 0. -/
def tagsReserved (r : List Byte) (at0 t : Nat) : Bool := (List.range t).all fun j => fieldAt r (at0 + 36 * j + 1) 3 == 0

/-- Checks 2 to 6 of R328 for tags over a message under the set in force; fresh says that the sequence or generation is above the last. -/
def quorumStatus (set : List Byte) (serialOk fresh : Bool) (tags : List (Nat × List Byte)) (msg : List Byte) : Nat :=
  if set.isEmpty || !tags.all (fun x => decide (x.1 < keyCount set)) then stAuthFail
  else if !serialOk || !fresh then stAuthFail
  else if !tags.all (fun x => decide (hmac (keyAt set x.1) msg = x.2)) then stAuthFail
  else if (dedup (tags.map (·.1))).length < keyQuorum set then stQuorumShort
  else stOk

/-- Check 1 for a key set object (R325). -/
def keySetFormatOk (b : List Byte) : Bool :=
  let n := keyCount b
  let t := fieldAt b 256 1
  decide (b.take 4 = [0x4C#8, 0x4B#8, 0x51#8, 0x4B#8]) && fieldAt b 4 2 == 1 && decide (1 ≤ n) && decide (n ≤ 7) && decide (keyQuorum b ≤ n) &&
  allZero (slice b 16 16) && allZero (slice b (32 + 32 * n) (224 - 32 * n)) && decide (t ≤ 7) && b.length == 260 + 36 * t && fieldAt b 257 3 == 0 &&
  tagsReserved b 260 t

/-- Status of a key set object (R325, R328). -/
def State.keySetStatus (s : State) (b : List Byte) : Nat :=
  let set := s.stored 3
  let t := fieldAt b 256 1
  if !keySetFormatOk b then stBadParam
  else if set.isEmpty && t = 0 then stOk
  else quorumStatus set true (decide (fieldAt set 8 8 < fieldAt b 8 8)) ((List.range t).map (tagAt b 260)) (b.take 256)

/-- Status of a staged object (R317). -/
def State.objectStatus (s : State) (store : Nat) (b : List Byte) : Nat :=
  match store with
  | 1 => if !imageFormatOk b then stBadParam else if s.imageAuthOk b then stOk else stAuthFail
  | 2 => if eqHeaderOk b then stOk else stBadParam
  | _ => s.keySetStatus b

/-- FW_STAGE: obj is the object as host memory holds it. A failed stage leaves the slot uncommitted and whatever was staged replaced; without
firmware only images are served (R316, R317). -/
def execFwStage (c : Nat) (obj : List Byte) (s : State) : Host.Outcome State Fault Refusal :=
  runCmd 0x0802 c s fun k s =>
    let store := fieldAt k.params 12 1
    let mgmt := match k.src with | .mgmt _ _ => true | _ => false
    if mgmt || store = 0 || 3 < store || fieldAt k.params 13 3 ≠ 0 || obj.length ≠ fieldAt k.params 8 4 then s.finish c stBadParam
    else if s.dev.state = .noFirmware && store ≠ 1 then s.finish c stRetry
    else
      let st := s.objectStatus store obj
      let i := s.targetSlot store
      let s1 := if fitsStore store obj then s.setFlash store i (FlashSlot.written store (s.nextGen store) obj) else s
      (s1.modFw fun w => { w with staged := SMap.set noneAt store (if st = stOk then some i else none) w.staged }).finish c st

/-! ### Processors going down and coming up (R365, R366; 09 R278; 14 R387) -/

/-- s with what depends on a firmware processor that goes down: FWP-LNK's training stops and its drop_req is withdrawn; a shadow run that
FWP-CMD served ends with RETRY. -/
def State.fwpDown (s : State) (q : Nat) : State :=
  let s1 := s.modDev fun d => { d with fwpUp := d.fwpUp &&& ~~~ BitVec.ofNat 5 (2 ^ q) }
  if q = fwpLnk then
    (List.range 36).foldl (fun s p => s.modLink p fun L =>
      if L.state = .laneLock || L.state = .deskew || L.state = .discovery then L.fresh s.t3 .down else { L with dropReq := 0#8 }) s1
  else if q = fwpCmd then (if s1.shadow.isSome then s1.endShadow stRetry else s1)
  else s1

/-- s with every fabric port held for want of equaliser settings, each with a record (09 R274). -/
def State.holdNoEq (s : State) : State :=
  (List.range 36).foldl (fun s p =>
    let before := (s.port p).link.heldEq
    let s1 := s.modLink p fun L => { L with heldEq := true }
    (s1.almQueue { type := 0x0A, unit := p, detail := detail [BitVec.ofNat 8 p, 9#8, BitVec.ofNat 8 LinkState.held.code] }).hold p 9 before) s

/-- s with the equaliser table read, once after each cold reset (09 R272, R274). -/
def State.readEq (s : State) : State :=
  if s.fw.eqRead then s
  else
    let t := s.stored 2
    let ok := eqTableOk t s.dev.boardId.toNat
    let s1 := s.modFw fun w => { w with eqRead := true, eqTable := t, eqOk := ok }
    if ok then s1 else s1.holdNoEq

/-- s with what a firmware processor does as it starts: FWP-LNK's sparing windows start again at the next whole second, so that the first
ends one second later (09 R278). -/
def State.fwpStart (s : State) (q : Nat) : State :=
  let s1 := s.modDev fun d => { d with fwpUp := d.fwpUp ||| BitVec.ofNat 5 (2 ^ q) }
  if q = fwpLnk then
    (List.range 36).foldl (fun s p => s.modLink p fun L => { L with winEnd := (s.now / 1000000000 + 2) * 1000000000, winErr := [] }) s1.readEq
  else if q = fwpPwr then s1.modPwr fun p => { p with pLag := none, setAToPe := true }
  else s1

/-- s with a restart of processor q begun; a third one within any 1 s makes the device WEDGED (R365). The program counter is free. -/
def State.fwpRestart (s : State) (q cause : Nat) : State :=
  let recent := (s.proc q).recent.filter fun t => decide (s.now < t + 1000000000)
  let s1 := ((s.fwpDown q).modProc q fun p =>
    { p with downAt := s.t3, cause := cause, recent := recent ++ [s.now], restarting := true, pc := s.freeNat % 2 ^ 32 }).drawn
  if 2 ≤ recent.length then s1.wedge noneField 0 else s1

/-- A processor runs and may be restarted. -/
def State.fwpRuns (s : State) (q : Nat) : Bool := s.fwpUp q && !(s.proc q).restarting

/-- FWP_WATCHDOG_EXPIRY: processor q has not served its hardware watchdog for 10 ms, as the row tells (log 58). -/
def execFwpWatchdogExpiry (q : Nat) (s : State) : Host.Outcome State Fault Refusal := onUnit (q < 5) s (if s.fwpRuns q then s.fwpRestart q 1 else s)

/-- FWP_TRAP: processor q takes an illegal instruction or access trap. -/
def execFwpTrap (q : Nat) (s : State) : Host.Outcome State Fault Refusal := onUnit (q < 5) s (if s.fwpRuns q then s.fwpRestart q 3 else s)

/-- FWP_MEMORY_UE: word w of processor q's memory, code words from 0 and data words from 32,768, is uncorrectable; which address the record
gives for it is free (01 R32; log 58). -/
def execFwpMemoryUe (q w : Nat) (s : State) : Host.Outcome State Fault Refusal :=
  onUnit (q < 5 && w < 49152) s
    (if s.fwpRuns q then
      (((s.almQueue { type := 1, fault := 4, unit := q, detail := memDetail 10 0xFF noneField s.freeNat }).drawn).modProc q fun p =>
        { p with ue := if p.ue.contains w then p.ue else p.ue ++ [w] }).fwpRestart q 2
     else s)

/-- A processor with a section's bytes loaded; the words it covers whole are good again. -/
def Proc.loadSection (p : Proc) (b : List Byte) (x : Section) : Proc :=
  let base := if x.kind = 0 then x.load else 0x100000 + x.load
  let p := { p with ue := p.ue.filter fun w => decide (32 * w < base) || decide (base + x.len < 32 * w + 32) }
  let d := slice b x.off x.len
  if x.kind = 0 then { p with code := p.code.write x.load d } else { p with data := p.data.write x.load d }

/-- The sections of processor q in an image. -/
def sectionsOf (b : List Byte) (q : Nat) : List Section := ((imageSections b).getD []).filter fun x => x.proc == q

/-- SHA-256 of each section of processor q in an image. -/
def sectionSums (b : List Byte) (q : Nat) : List (List Byte) := (sectionsOf b q).map fun x => sha256 (slice b x.off x.len)

/-- A processor with its sections of an image loaded. -/
def Proc.loaded (p : Proc) (b : List Byte) (q : Nat) : Proc := (sectionsOf b q).foldl (fun p x => p.loadSection b x) p

/-- FWP_RESTART_DONE: processor q's sections have been reloaded from the firmware slot in force within 20 ms, and it runs again; a section that
fails its check makes the device WEDGED. FWP-SEC reloads the others (R365). -/
def execFwpRestartDone (q : Nat) (s : State) : Host.Outcome State Fault Refusal :=
  onUnit (q < 5) s
    (let p := s.proc q
     let b := s.stored 1
     if !p.restarting || !(q == fwpSec || s.fwpUp fwpSec) then s
     else if sectionSums b q ≠ p.sums then (s.modProc q fun p => { p with restarting := false }).wedge noneField 0
     else
      let n := (p.recent.filter fun t => decide (s.now < t + 1000000000)).length
      let s1 := (s.modProc q fun p => { p.loaded b q with restarting := false }).fwpStart q
      (s1.almQueue { type := 9, unit := q, detail := detail (toLE 1 q ++ toLE 1 p.cause ++ toLE 1 n ++ [0#8] ++ toLE 4 (s.nsSince p.downAt / 1000) ++ toLE 4 p.pc) })
        |>.devEvent 6 stOk [q])

/-! ### Activation and boot (R315, R316, R318 to R321) -/

/-- s with all five processors held and the boot ROM at step 2. -/
def State.rebootAt2 (s : State) : State :=
  let s1 := [0, 1, 2, 3, 4].foldl (fun s q => (s.fwpDown q).modProc q fun p => { p with restarting := false }) s
  (s1.modDev fun d => { d with state := .booting, fwVer := d.fwVer &&& 0x7FFFFFFF#32 }).modFw fun w => { w with bootStep := 2, verified := false }

/-- FW_ACTIVATE. -/
def execFwActivate (c : Nat) (s : State) : Host.Outcome State Fault Refusal :=
  runCmd 0x0803 c s fun k s =>
    let store := fieldAt k.params 0 1
    let f := fieldAt k.params 1 1
    if store = 0 || 3 < store || 1 < f || (f = 1 && store ≠ 1) || fieldAt k.params 2 2 ≠ 0 then s.finish c stBadParam
    else if s.dev.state = .noFirmware && store ≠ 1 then s.finish c stRetry
    else match SMap.get noneAt s.fw.staged store with
      | none => s.finish c stBadParam
      | some i =>
        let unstage (s : State) : State := s.modFw fun w => { w with staged := SMap.set noneAt store none w.staged }
        if s.dev.emergency then s.finish c stEmergency
        else if !(s.flashSlot store i).good store then (unstage s).finish c stBadParam
        else
          let s1 := unstage (s.setFlash store i (s.flashSlot store i).committed)
          if store = 1 then s1.rebootAt2.modFw fun w => { w with act := some (c, f == 1) } else s1.finish c stOk

/-- The slot of the firmware store that verifies: the one in force, else the other when it is valid; with the boot kind. -/
def State.bootSlot (s : State) : Option (Nat × Nat) :=
  let passes (i : Nat) : Bool := (s.flashSlot 1 i).valid 1 && imageFormatOk (s.flashSlot 1 i).content && s.imageAuthOk (s.flashSlot 1 i).content
  match s.inForce 1 with
  | none => none
  | some i => if passes i then some (i, 0) else if passes (1 - i) then some (1 - i, 1) else none

/-- BOOT_IMAGE_VERIFIED: steps 2 to 6: the image is verified, its sections are loaded, and every processor starts it; in an activation
FW_VER.valid goes on reading 0 until step 7 (R320; log 86). Without an image the device has no firmware, and an activation that led here
ends with AUTH_FAIL. -/
def execBootImageVerified (s : State) : Host.Outcome State Fault Refusal :=
  onEvent (s.live && s.dev.state = .booting && !s.fw.verified && s.dev.warm.isNone) s
    (match s.bootSlot with
      | none =>
        let s1 := s.modDev fun d => { d with state := .noFirmware }
        match s.fw.act with
        | some (c, _) => (s1.modFw fun w => { w with act := none }).finish c stAuthFail
        | none => s1
      | some (i, kind) =>
        let b := (s.flashSlot 1 i).content
        let dg := sha256 b
        let valid : BitVec 32 := if s.fw.act.isSome then 0#32 else 0x80000000#32
        let s0 := [0, 1, 2, 3, 4].foldl (fun s q => s.modProc q fun p => { p.loaded b q with sums := sectionSums b q }) s
        let s1 := s0.modDev fun d => { d with fwDigest := dg, fwVer := BitVec.ofNat 32 (fieldAt b 6 3) ||| valid, translator := slice b 10 3 }
        let s2 := s1.modFw fun w => { w with verified := true, bootKind := kind, bootStep := 6, svRun := fieldAt b 16 4 }
        let s3 := s2.almQueue { type := 7, detail := detail (toLE 1 (if kind = 1 then 2 else if s.fw.act.isSome then 1 else 0) ++ slice b 6 3 ++ dg.take 28) }
        [0, 1, 2, 3, 4].foldl State.fwpStart s3)

/-- DEVICE_READY: step 7: all five processors run; the state is READY, or ISOLATED by the isolation store, and a firmware activation's
record is written, its fuses burnt first (R315, R318, R321). -/
def execDeviceReady (s : State) : Host.Outcome State Fault Refusal :=
  onEvent (s.live && s.dev.state = .booting && s.fw.verified && s.dev.fwpUp = 0x1F#5 && s.dev.warm.isNone) s
    (let s1 := (s.modDev fun d => { d with state := if s.fw.isoDev then .isolated else .ready, fwVer := d.fwVer ||| 0x80000000#32 }).modFw fun w => { w with bootStep := 7 }
     match s.fw.act with
     | none => s1
     | some (c, burn) =>
       let s2 := s1.modFw fun w => { w with act := none }
       if s.fw.bootKind = 1 then s2.finish c stAuthFail
       else ({ s2 with part := { s2.part with svMin := if burn then max s.part.svMin s.fw.svRun else s.part.svMin } }).finish c stOk)

/-! ### Attestation (R322 to R324) -/

/-- Fabric ports isolated under quorum commands, as a mask. -/
def State.isolatedPorts (s : State) : Nat := if s.fw.isoDev then 2 ^ 36 - 1 else s.fw.isoPorts.toNat

/-- The attestation report over a nonce, with a signature index. -/
def State.report (s : State) (nonce : List Byte) (index : Nat) : List Byte :=
  padTo 256 ([0x4C#8, 0x4B#8, 0x41#8, 0x54#8] ++ toLE 2 1 ++ [0#8, 0#8] ++ padTo 12 s.part.serial ++ [0xA1#8] ++ toLE 1 (s.part.grade % 16) ++ [0#8, 0#8] ++
    toLE 24 s.part.fuse.toNat ++ toLE 3 s.dev.fwVer.toNat ++ toLE 1 s.fw.bootKind ++ padTo 32 s.dev.fwDigest ++ padTo 3 s.dev.translator ++ [0#8] ++
    toLE 4 s.fw.svRun ++ toLE 4 s.part.svMin ++ s.eqDigest ++ toLE 8 s.detSignature.toNat ++ toLE 8 s.now ++ padTo 32 nonce ++ toLE 8 index ++
    toLE 4 s.dev.mode.toNat ++ toLE 1 s.dev.state.code ++ [0#8, 0#8, 0#8] ++
    (if (s.stored 3).isEmpty then List.replicate 32 0#8 else sha256 (s.stored 3)) ++ toLE 8 s.isolatedPorts)

/-- Signatures of the key, and of one lower-level tree. -/
abbrev hssTotal : Nat := 2 ^ 30
/-- Signatures of a lower-level tree. -/
abbrev hssTree : Nat := 2 ^ 15

/-- ATTEST: a request whose answer cannot be given back uses no signature index (10 R293, 11 R323). -/
def execAttest (c : Nat) (s : State) : Host.Outcome State Fault Refusal :=
  runCmd 0x0804 c s fun k s =>
    let i := s.fw.hssIdx
    if hssTotal ≤ i then s.finish c stNoFit
    else if i % hssTree = 0 && i ≠ 0 && !s.fw.treeReady then s.finish c stRetry
    else
      let rep := s.report (slice k.params 12 32) i
      let data := rep ++ hssSign (padTo 32 s.part.secret) i rep ++ s.part.certificate
      if !k.fits data.length then s.finishData k [] data
      else
      let s1 := s.modFw fun w => { w with
        hssIdx := i + 1
        flash := if w.nextResv ≤ i then writeStore w.flash 5 (toLE 8 (w.nextResv + 16384)) else w.flash
        treeReady := if i % hssTree = 0 then false else w.treeReady }
      let left := hssTotal - (i + 1)
      s1.finishData k [left % 2 ^ 32, left / 2 ^ 32] data

/-- HSS_TREE_BUILT: the background build of the next lower-level tree, which starts once half of the current one is used, is complete; it may
end after the current one is used up. -/
def execHssTreeBuilt (s : State) : Host.Outcome State Fault Refusal :=
  onEvent (s.live && s.fwpUp fwpSec && (decide (hssTree / 2 ≤ s.fw.hssIdx % hssTree) || (s.fw.hssIdx % hssTree == 0 && s.fw.hssIdx != 0))) s
    (s.modFw fun w => { w with treeReady := true })

/-! ### Quorum commands (R326 to R329) -/

/-- Status of a quorum record for an opcode (R328). -/
def State.quorumCheck (s : State) (op : Nat) (r : List Byte) : Nat :=
  let t := fieldAt r 24 1
  let port := fieldAt r 3 1
  if t = 0 || 7 < t || r.length ≠ 32 + 36 * t || fieldAt r 0 2 ≠ op || 1 < fieldAt r 2 1 || !(if op = 0x0404 then decide (port < 36) else port == 0xFF) ||
      fieldAt r 25 7 ≠ 0 || !tagsReserved r 32 t then stBadParam
  else
    let set := s.stored 3
    quorumStatus set (decide (Machine.slice r 4 12 = padTo 12 s.part.serial)) (decide (s.fw.quorumSeq.toNat < fieldAt r 16 8))
      ((List.range t).map (tagAt r 32)) (Machine.slice set 8 8 ++ r.take 24)

/-- A fabric port is isolated by the isolation store. -/
def State.portIsolated (s : State) (p : Nat) : Bool := s.fw.isoDev || s.fw.isoPorts.getLsbD p

/-- s with port p in the state its isolation record asks for (R329). -/
def State.applyPort (s : State) (p : Nat) : State :=
  if s.portIsolated p then (if (s.port p).link.state = .isolated then s else s.linkDown p 1 .isolated)
  else if (s.port p).link.state = .isolated then s.rejoin p
  else s

/-- s with the isolation store applied to the ports and, for a device command, to the state. -/
def State.applyIsolation (s : State) (device : Bool) : State :=
  let s1 := (List.range 36).foldl State.applyPort s
  if !device then s1
  else s1.modDev fun d => { d with
    state := if s.fw.isoDev then (if d.state = .ready then .isolated else d.state) else if d.state = .isolated then .ready else d.state }

/-- s with a pending isolation of a MGMT command applied. -/
def State.applyPending (s : State) : State :=
  match s.dev.isoPend with
  | some i => (s.applyIsolation (decide (3 ≤ i.action))).modDev fun d => { d with isoPend := none }
  | none => s

/-- Firmware with the isolation store written by a quorum command. -/
def Firmware.isolate (w : Firmware) (op : Nat) (r : List Byte) : Firmware :=
  let bitp := BitVec.ofNat 64 (2 ^ fieldAt r 3 1)
  let on := fieldAt r 2 1 == 0
  let ports := if op = 0x0404 then (if on then w.isoPorts ||| bitp else w.isoPorts &&& ~~~ bitp) else w.isoPorts
  { w with flash := writeStore w.flash 4 (isolationContent (BitVec.ofNat 64 (fieldAt r 16 8)) ports (if op = 0x0105 then on else w.isoDev)) }

/-- A quorum command: its checks, the isolation store, and the action, which waits for the reply of a MGMT packet to leave. -/
def State.quorumCmd (s : State) (op : Nat) (k : Cmd) : State :=
  let st := s.quorumCheck op k.params
  if st ≠ stOk then s.finish k.id st
  else
    let s1 := s.applyPending.modFw fun w => w.isolate op k.params
    match k.src with
    | .mgmt _ _ =>
      let action := (if op = 0x0404 then 1 else 3) + fieldAt k.params 2 1
      (s1.modDev fun d => { d with isoPend := some { cmd := k.id, action := action, port := fieldAt k.params 3 1, since := s.t3 } }).finish k.id stOk
    | _ => (s1.applyIsolation (decide (op = 0x0105))).finish k.id stOk

/-- DEV_ISOLATE; an action not listed is a bad parameter. -/
def execDevIsolate (c : Nat) (s : State) : Host.Outcome State Fault Refusal :=
  runSub 0x0105 c (fun k => fieldAt k.params 2 1 != 1) s fun k s => s.quorumCmd 0x0105 k

/-- A device restore. -/
def execDevRestore (c : Nat) (s : State) : Host.Outcome State Fault Refusal :=
  runSub 0x0105 c (fun k => fieldAt k.params 2 1 == 1) s fun k s => s.quorumCmd 0x0105 k

/-- PORT_ISOLATE; an action not listed is a bad parameter. -/
def execPortIsolate (c : Nat) (s : State) : Host.Outcome State Fault Refusal :=
  runSub 0x0404 c (fun k => fieldAt k.params 2 1 != 1) s fun k s => s.quorumCmd 0x0404 k

/-- A port restore. -/
def execPortRestore (c : Nat) (s : State) : Host.Outcome State Fault Refusal :=
  runSub 0x0404 c (fun k => fieldAt k.params 2 1 == 1) s fun k s => s.quorumCmd 0x0404 k

/-- ISOLATION_APPLY: the reply of a MGMT quorum command has left, or 100 µs have passed since the store was written (R329). -/
def execIsolationApply (s : State) : Host.Outcome State Fault Refusal :=
  onEvent (s.live && (s.dev.isoPend.any fun i => i.left || s.after i.since (usec 100))) s s.applyPending

end Sys2Proof.Machine
end

