-- ==== Sys2Proof/Machine/Context.lean ====
section
/-!
DEFINITION. Contexts (03 R80, R81; 10 R296, R297; 13 R363): creating, loading, starting and stopping them, the step boundaries of their
programs, and their teardown.
-/

namespace Sys2Proof.Machine

/-! ### Create, load, start, stop -/

/-- The lowest context number that no context and no prefix store holds (log 24). -/
def State.freeCtx (s : State) : Option Nat :=
  (List.range 256).find? fun x => !(s.ctx x).live && !(s.pfx.on && s.pfx.ctx == x)

/-- CTX_CREATE. -/
def execCtxCreate (c : Nat) (s : State) : Host.Outcome State Fault Refusal :=
  runCmd 0x0201 c s fun k s =>
    if 1 < fieldAt k.params 0 1 || fieldAt k.params 2 2 ≠ 0 then s.finish c stBadParam
    else match s.freeCtx with
      | none => s.finish c stNoFit
      | some x =>
        (s.modCtx x fun _ => { live := true, ring := fieldAt k.params 1 1, diag := fieldAt k.params 0 1 == 1 }).finish c stOk [x, (s.epoch x).toNat]

/-- A CTX_LOAD's own fields are in order (10 R296). -/
def loadFieldsOk (k : Cmd) (img : List Byte) : Bool :=
  fieldAt k.params 4 4 == 0 && fieldAt k.params 20 4 == 0 && fieldAt k.params 8 8 % 64 == 0 && img.length == fieldAt k.params 16 4 &&
  (match k.src with | .mgmt _ _ => false | _ => true)

/-- CTX_LOAD: img is the image in host memory, sizes the bytes the translator makes of each Tiller's code, phases the slot phases it gives
the image's mesh transfers (log 8). A load that needs a domain which is off asks for it, and is taken up once it is on (01 R38); one that
needs a buffer of a list being rebuilt waits its turn (08 R242). -/
def execCtxLoad (c : Nat) (img : List Byte) (sizes phases : List Nat) (s0 : State) : Host.Outcome State Fault Refusal :=
  let who : SbReq := { cmd := some c }
  runCmd 0x0202 c s0 fun k s =>
    let x := fieldAt k.params 0 4
    if !loadFieldsOk k img then s.finish c stBadParam
    else if !s.ctxOk x then s.finish c stContextGone
    else if (s.ctx x).loaded then s.finish c stBadParam
    else match s.loadImage who x img sizes phases with
      | .got _ s1 =>
        if (s.domainsWanted x img).isEmpty then (s1.finish c stOk [sizes.foldl max 0]).leaveQueue who else s0.requestDomains (s.domainsWanted x img)
      | .empty => (s.finish c (s.loadStatus x img sizes phases)).leaveQueue who
      | .noFit => (s.finish c stNoFit).leaveQueue who
      | .wait w => (s0.requestDomains (s.domainsWanted x img)).await who w

/-- s with Tiller t started at instruction 0 in this cycle, with its seed (03 R81, 02 R53). -/
def State.startTiller (s : State) (t : Nat) : State := (s.modT t fun T => T.startAt s.clk.core s.t3 (s.seedFor T)).drawn

/-- s with every Tiller of a context started in this cycle; one that is being reset starts when its reset has finished. -/
def State.startAll (s : State) (x : Nat) : State :=
  ((s.ctx x).tillers.foldl (fun s t =>
    match (s.tl t).reset with
    | none => s.startTiller t
    | some _ => s.modT t fun T => { T with reset := T.reset.map fun r => { r with restart := true } }) s).modCtx x fun C =>
      { C with started := true, everStarted := true, doneSent := false }

/-- CTX_START: at the first cycle of a mesh frame every Tiller of the context issues its instruction 0; before that cycle the command
waits (03 R81). -/
def execCtxStart (c : Nat) (s : State) : Host.Outcome State Fault Refusal :=
  if s.clk.core % 256 ≠ 0 then .next s
  else runCmd 0x0203 c s fun k s =>
    let x := fieldAt k.params 0 4
    if !s.ctxOk x then s.finish c stContextGone
    else if !(s.ctx x).loaded || (s.ctx x).started then s.finish c stBadParam
    else (s.startAll x).finish c stOk

/-- CTX_STOP: the context's Tillers stop at their next STEP_END or HALT. -/
def execCtxStop (c : Nat) (s : State) : Host.Outcome State Fault Refusal :=
  runCmd 0x0204 c s fun k s =>
    let x := fieldAt k.params 0 4
    let ms := fieldAt k.params 4 4
    if 60000 < ms then s.finish c stBadParam
    else if !s.ctxOk x then s.finish c stContextGone
    else if !(s.ctx x).everStarted then s.finish c stBadParam
    else
      let s1 := s.modCtx x fun C => { C with stops := C.stops ++ [(c, s.t3 + msec (if ms = 0 then 1000 else ms))] }
      ((s.ctx x).tillers.foldl (fun s t => s.modT t fun T => { T with stopReq := T.run == .running }) s1).stopCheck x

/-- s with Tiller t stopped at its next instruction boundary. -/
def State.stopTiller (s : State) (t : Nat) : State := s.modT t fun T => if T.run = TRun.running then { T with run := .stopped } else T

/-- CTX_STOP_TIMEOUT: timeout_ms has passed for a CTX_STOP of context x; every Tiller still running is stopped. -/
def execCtxStopTimeout (x : Nat) (s : State) : Host.Outcome State Fault Refusal :=
  onUnit (x < 256) s
    (let C := s.ctx x
     let late := C.stops.filter fun p => decide (p.2 ≤ s.t3)
     if late.isEmpty then s
     else
      let run := C.tillers.filter fun t => (s.tl t).run = TRun.running
      let s1 := run.foldl State.stopTiller s
      let s2 := late.foldl (fun s p => s.finish p.1 stTimeout [run.length]) s1
      let s3 := s2.modCtx x fun C => { C with stops := C.stops.filter fun p => !late.contains p, started := false }
      s3.stopCheck x)

/-! ### Step boundaries -/

/-- Tillers that do not hold back a CORE_CLK change: halted, stopped or faulted, or waiting at a STEP_END whose engines are idle (12
R335, log 46). -/
def State.atBoundary (s : State) (t : Nat) : Bool :=
  let T := s.tl t
  decide (T.run ≠ .running) || (decide ((T.stream 0).hold = .stepEnd) && T.idle s.clk.core)

/-- STEP_END_RETIRE: a held STEP_END retires once every engine is idle; a Tiller asked to stop stops there; while DEV_MODE.deterministic is
1 and a CORE_CLK change is pending, it stays (03 R78; 12 R335; 10 R296). -/
def execStepEndRetire (t e : Nat) (s : State) : Host.Outcome State Fault Refusal :=
  onUnit (t < 192 && e < 6) s
    (let T := s.tl t
     if !(s.holding t e .stepEnd && T.idle s.clk.core) then s
     else if T.stopReq then
      let s1 := s.modT t fun T => { T with run := .stopped, stopReq := false }
      match T.ctx with
      | some x => s1.stopCheck x
      | none => s1
     else if s.dev.mode.getLsbD 0 && (s.pwr.clkReq.isSome || s.pwr.clkStep.isSome) then s
     else
      (s.modT t fun T => { ((T.goto e s.clk.core s.t3 ((T.stream e).pc + 1) 1).modStream e fun S => { S with hold := .none }) with
        stepNo := T.stepNo + 1 }).shadowStep t)

/-- T with stream e halted; the Tiller halts when every stream has. What the address-stream FIFO of a fused-off Harrow still holds is
discarded (03 R87, 04 R118). -/
def Tiller.haltStream (T : Tiller) (e : Nat) (harrow : Bool) : Tiller :=
  let T := T.modStream e fun S => { S with hold := .none, halted := true }
  let T := if harrow then T else { T with fifos := SMap.set nilAt 1 [] T.fifos }
  if (List.range 6).all fun k => !(T.stream k).on || (T.stream k).halted then { T with run := .halted, stopReq := false } else T

/-- s with a context over once every one of its Tillers has halted: a CTX_DONE event (10 R297). -/
def State.ctxHalts (s : State) (x : Nat) : State :=
  let C := s.ctx x
  let s1 := if C.started && !C.doneSent && C.tillers.all fun t => (s.tl t).run = TRun.halted then
      (s.ctxEvent x 1 stOk [x]).modCtx x fun C => { C with started := false, doneSent := true }
    else s
  s1.stopCheck x

/-- HALT_RETIRE: a held HALT retires once every engine is idle. -/
def execHaltRetire (t e : Nat) (s : State) : Host.Outcome State Fault Refusal :=
  onUnit (t < 192 && e < 6) s
    (if !(s.holding t e .halt && (s.tl t).idle s.clk.core) then s
     else
      let s1 := s.modT t fun T => T.haltStream e (s.harrow t)
      if (s1.tl t).run = TRun.halted then
        let s2 := s1.shadowStep t
        match (s.tl t).ctx with
        | some x => s2.ctxHalts x
        | none => s2
      else s1)

/-! ### Teardown (13 R363, R364) -/

/-- A Tiller at step 1 of a teardown: it stops issuing, and MV_SENDs not yet admitted and receive claims are cancelled. -/
def Tiller.tearStop (T : Tiller) : Tiller :=
  { T with
    run := if T.run = TRun.running then .stopped else T.run
    checker := T.checker.filter fun x => x.finished || !(x.inst.mn = .mvRecv || x.inst.mn = .mvMrecv || (x.inst.mn = .mvSend && !x.admitted))
    sendQ := T.sendQ.filter fun x => x.issue.isNone
    stopReq := false
    reset := T.reset.bind fun r => if r.engines.isEmpty then none else some { r with restart := false, cmds := [] } }

/-- s at step 1 of the teardown of context x: commands that name it complete with CONTEXT_GONE. -/
def State.tearBegin (s : State) (x : Nat) (cmd : Option Nat) : State :=
  let C := s.ctx x
  let waiting := C.stops.map (·.1) ++ (C.tillers.map fun t => ((s.tl t).reset.map (·.cmds)).getD []).flatten
  let reqs := s.seed.waiting.filter fun q => q.owner == x && !q.mark
  let s0 := (reqs.filterMap (·.cmd)).foldl (fun s c => s.finish c stContextGone) (s.modSeed fun b => { b with waiting := b.waiting.filter fun q => q.owner != x || q.mark })
  let s1 := waiting.foldl (fun s c => s.finish c stContextGone) s0
  let s2 := if s1.shadow.any fun h => h.ctx == x then s1.endShadow stContextGone else s1
  (C.tillers.foldl (fun s t => s.modT t Tiller.tearStop) s2).modCtx x fun C =>
    { C with tear := some { cmd := cmd, step := 1, since := s.t3 }, stops := [], started := false }

/-- CTX_TEARDOWN. -/
def execCtxTeardown (c : Nat) (s : State) : Host.Outcome State Fault Refusal :=
  runCmd 0x0205 c s fun k s =>
    let x := fieldAt k.params 0 4
    if s.ctxOk x then s.tearBegin x (some c) else s.finish c stContextGone

/-- Tiller t has run to completion what it had issued, and no reset of it is in progress. -/
def State.quiet (s : State) (t : Nat) : Bool :=
  let T := s.tl t
  T.reset.isNone && [0, 1, 2, 3, 4, 5].all fun e => !T.working s.clk.core e

/-- TEARDOWN_ENGINE_TIMEOUT: an engine of a Tiller in a teardown has not finished within 100 µs and is reset, with a sample. -/
def execTeardownEngineTimeout (t e : Nat) (s : State) : Host.Outcome State Fault Refusal :=
  onUnit (t < 192 && e < 6) s
    (match (s.tl t).ctx with
      | none => s
      | some x =>
        match (s.ctx x).tear with
        | some r => if r.step = 1 && s.after r.since (usec 100) && (s.tl t).reset.isNone && (s.tl t).working s.clk.core e then (s.discardSteps t).beginReset t [e] 0 none else s
        | none => s)

/-- A packet is steered to a Tiller of context x. -/
def aimedAt (x : Nat) (p : Pkt) : Bool := p.outPort == 37 && decide (p.kind < 2) && p.ctx == x

/-- The packets steered to a context, queued for port 37, on their way to a Tiller, or in the receive queue of one of its Tillers, and s
without them. -/
def State.takeSteered (s : State) (x : Nat) (tillers : List Nat) : List Pkt × State :=
  let qs := (s.fab.sq.filter fun q => q.2.any (aimedAt x)).map (·.1)
  let queued := (qs.map fun q => (s.sq q).filter (aimedAt x)).flatten
  let sending := ((SMap.get noneAt s.fab.txPkt 37).toList).filter (aimedAt x)
  let moving := (s.fab.transit.filter fun p => p.2.ctx == x).map (·.2)
  let waiting := (tillers.map fun t => (s.tl t).recvQ.filter fun p => p.ctx == x).flatten
  let s1 := qs.foldl (fun s q => s.setSq q ((s.sq q).filter fun p => !aimedAt x p)) s
  let s2 := s1.modFab fun b => { b with
    txPkt := if sending.isEmpty then b.txPkt else SMap.set noneAt 37 none b.txPkt
    transit := b.transit.filter fun p => p.2.ctx != x }
  (queued ++ sending ++ moving ++ waiting, tillers.foldl (fun s t => s.modT t fun T => { T with recvQ := T.recvQ.filter fun p => p.ctx != x }) s2)

/-- Slots that a context owns. -/
def State.slotsOf (s : State) (x : Nat) : List Nat := (s.slots.filter fun p => p.2.state ≠ .free && p.2.bind.ctx == x).map (·.1)

/-- s after steps 2 and 3 of a teardown: the epoch advances, packets steered to the context are dropped as EPOCH_STALE, the record is
written, and the context's slots are unbound. -/
def State.tearEpoch (s : State) (x : Nat) : State :=
  let r := s.takeSteered x (s.ctx x).tillers
  let s1 := r.2
  let s2 := ({ s1 with epochs := SMap.set zeroBits x (s.epoch x + 1#8) s1.epochs } : State).dropStale r.1
  let s3 := s2.almQueue { type := 0x0F, ctx := x, signature := (s.ctx x).signature, detail := detail (toLE 4 (s2.epoch x).toNat ++ toLE 4 r.1.length) }
  ((s.slotsOf x).foldl State.unbind s3).modCtx x fun C => { C with tear := C.tear.map fun t => { t with step := 4, since := s.t3 } }

/-- s after a FAB_CLK cycle as teardowns see it: those at step 1 whose Tillers have all finished go on (log 47). -/
def State.tearTick (s : State) : State :=
  let due := (s.ctxs.filter fun p => (p.2.tear.any fun r => r.step == 1) && p.2.tillers.all s.quiet).map (·.1)
  due.foldl State.tearEpoch s

/-- s after step 5: buffers, minima, queues, steering entries, mesh slots and the loader's copy are released, and the Tillers are free
with scratchpad and DMEM at 0. -/
def State.tearRelease (s : State) (x : Nat) : State :=
  let C := s.ctx x
  let s1 := (s.buffersWhere fun e => e.owner == x).foldl State.giveAddr s
  let s2 := s1.setMinima x [0, 0, 0, 0, 0]
  let s3 := C.queues.foldl (fun s q =>
    (s.setQueues q 1 fun g => { g with weight := 1, owner := 1, ownerId := 0 }).modPolicer q fun p => p.write 0#128) s2
  let s4 := s3.modFab fun b => { b with steer := (List.range 16).foldl (fun m u => SMap.set noneAt (steerCtx x u) none m) b.steer }
  let s5 := C.tillers.foldl (fun s t => s.modT t fun _ => {}) s4
  s5.modCtx x fun _ => {}

/-- TEARDOWN_WRITES_ACKED: every memory write of context x has been acknowledged, and the packets its lane Tillers still had to send are
in the shared buffer; the teardown ends (log 48). -/
def execTeardownWritesAcked (x : Nat) (s : State) : Host.Outcome State Fault Refusal :=
  onUnit (x < 256) s
    (match (s.ctx x).tear with
      | none => s
      | some r =>
        if r.step = 4 && (s.ctx x).tillers.all fun t => (s.tl t).sendQ.isEmpty && s.quiet t then
          let s1 := s.tearRelease x
          match r.cmd with
          | some c => s1.finish c stOk
          | none => s1
        else s)

end Sys2Proof.Machine
end

