-- ==== Sys2Proof/Machine/Prefix.lean ====
section
/-!
DEFINITION. The prefix store (08 R243 to R251). The firmware of its service Tillers is not a Shoze program: each row serves the request at
the head of a service Tiller's receive queue, or finishes a put, a demotion or a promotion. A get takes its chunks as they stand at its
lookup; they wait in the Tiller's send queue (log 52).
-/

namespace Sys2Proof.Machine

/-! ### Blocks and slabs -/

/-- Bytes of a block. -/
def blockBytes (big : Bool) : Nat := if big then 0x100000 else 0x10000

/-- Chunks of 2,048 bytes in a block. -/
def blockChunks (big : Bool) : Nat := if big then 512 else 32

/-- Pool of a block's GDDR7 buffer. -/
def blockPool (big : Bool) : Nat := if big then 2 else 1

/-- Counters of 08 R251, in its order. -/
def ctrPfx (item : Nat) : Nat := ctrKey 4 0 item

/-- s with counter item of the store stepped. -/
def State.pfxCount (s : State) (item : Nat) : State := s.count (ctrPfx item) 1

/-- A reply with data in a send queue carries a version. -/
def sendsVersion (v : Nat) (i : SendItem) : Bool :=
  i.issue.isNone && fieldAt i.bytes 48 1 == 0x82 && fieldAt i.bytes 49 1 == 0 && fieldAt i.bytes 80 8 == v

/-- A get still reads the block. -/
def State.reading (s : State) (b : PBlock) : Bool := s.pfx.tillers.any fun t => (s.tl t).sendQ.any (sendsVersion b.version)

/-- No get reads the block and nothing copies it (R248). -/
def State.pfxIdle (s : State) (b : PBlock) : Bool := b.copying.isNone && !s.reading b

/-- The block with the lowest use stamp of a list. -/
def oldest (l : List PBlock) : Option PBlock :=
  l.foldl (fun (m : Option PBlock) b => match m with | some x => if b.stamp < x.stamp then some b else some x | none => some b) none

/-- s with the block of a key changed. -/
def State.modBlock (s : State) (key : List Byte) (f : PBlock → PBlock) : State :=
  s.modPfx fun p => { p with blocks := p.blocks.map fun b => if b.key = key then f b else b }

/-- The block of a key. -/
def State.block? (s : State) (key : List Byte) : Option PBlock := s.pfx.blocks.find? fun b => b.key = key

/-- Slots of the slabs of a size: their addresses, in slab order. -/
def State.slabSlots (s : State) (big : Bool) : List Nat :=
  ((s.pfx.slabList.filter fun p => p.2 == big).map fun p => (List.range (if big then 64 else 1024)).map fun i => p.1 + i * blockBytes big).flatten

/-- Addresses in the CXL tier that blocks hold or that a demotion is writing. -/
def State.slotsTaken (s : State) : List Nat :=
  ((s.pfx.blocks ++ s.pfx.dying).map fun b => if b.cxl then [b.addr] else b.copying.toList).flatten

/-- s with the slabs that hold no block freed (R248). -/
def State.freeSlabs (s : State) : State :=
  let taken := s.slotsTaken
  let empty := s.pfx.slabList.filter fun p => taken.all fun a => decide (a < p.1) || decide (p.1 + 0x4000000 ≤ a)
  (empty.foldl (fun s p => s.giveAddr p.1) s).modPfx fun p => { p with slabList := p.slabList.filter fun q => !empty.contains q }

/-- s with the storage of a block that has left the index free: its slot, or its buffer, which goes to the put or the promotion that
waits for it. -/
def State.freeStorage (s : State) (b : PBlock) : State :=
  if b.cxl then
    match b.copying with
    | some a => (if (s.pfx.blocks ++ s.pfx.dying).any (fun x => !x.cxl && x.addr == a) then s else s.giveAddr a).freeSlabs
    | none => s.freeSlabs
  else if s.pfx.puts.any fun q => q.waitDemote && q.addr == b.addr then
    (s.modPfx fun p => { p with puts := p.puts.map fun q => if q.waitDemote && q.addr == b.addr then { q with waitDemote := false } else q }).freeSlabs
  else if s.pfx.blocks.any fun x => x.cxl && x.copying == some b.addr then s.freeSlabs
  else (s.giveAddr b.addr).freeSlabs

/-- s with a block out of the index; its storage is freed once no get reads it (R250). -/
def State.removeBlock (s : State) (b : PBlock) : State :=
  let s1 := s.modPfx fun p => { p with blocks := p.blocks.filter fun x => x.key != b.key }
  if s.reading b then s1.modPfx fun p => { p with dying := p.dying ++ [b] } else s1.freeStorage b

/-- A slot of the CXL tier for a block of a size, under the rule of R248, and s with it made; empty when the tier has no room. -/
def State.cxlRoom (s : State) (who : SbReq) (big : Bool) : Take Nat :=
  let taken := s.slotsTaken
  match (s.slabSlots big).find? fun a => !taken.contains a with
  | some a => .got a s
  | none =>
    match (if s.pfx.slabList.length < s.pfx.slabs then s.takeBuffer who 0x100 4 0xF none false else .empty) with
    | .got a s1 => .got a (s1.modPfx fun p => { p with slabList := p.slabList ++ [(a, big)] })
    | .wait w => .wait w
    | _ =>
      match oldest (s.pfx.blocks.filter fun b => b.cxl && b.big == big && s.pfxIdle b) with
      | some b => .got b.addr ((s.modPfx fun p => { p with blocks := p.blocks.filter fun x => x.key != b.key }).pfxCount 8)
      | none => .empty

/-- How the store makes room for a block in GDDR7 (R248), or what it waits for. -/
inductive Room where
  | no
  | now (addr : Nat)
  | later (addr : Nat)
  | wait (w : Wait)
  deriving DecidableEq, Repr

/-- s with room made for a block of a size: a fresh buffer, the buffer of an evicted block, or that of a block whose demotion has begun. -/
def State.gddrRoom (s : State) (who : SbReq) (big : Bool) : Room × State :=
  let k := blockPool big
  match (if s.held 0x100 k < (if big then s.pfx.lim1m else s.pfx.lim64) then s.takeBuffer who 0x100 k 0xF none false else .empty) with
  | .got a s1 => (.now a, s1)
  | .wait w => (.wait w, s)
  | _ =>
    match oldest (s.pfx.blocks.filter fun b => !b.cxl && b.big == big && s.pfxIdle b) with
    | none => (.no, s)
    | some v =>
      match s.cxlRoom who big with
      | .got slot s1 => (.later v.addr, s1.modBlock v.key fun b => { b with copying := some slot })
      | .wait w => (.wait w, s)
      | _ => (.now v.addr, (s.modPfx fun p => { p with blocks := p.blocks.filter fun x => x.key != v.key }).pfxCount 8)

/-- s with the contents of a block copied. -/
def State.copyBlock (s : State) (src dst : Nat) (big : Bool) : State := s.memWrite dst (s.memRead src (blockBytes big))

/-- s with blocks of a size in GDDR7 moved or evicted, least recently used first, until a limit holds; n bounds the blocks. A copy that meets
an uncorrectable word removes the block instead (R250). Blocks that are not idle go later. -/
def State.lowerGddr (s : State) (big : Bool) (lim : Nat) : Nat → State
  | 0 => s
  | n + 1 =>
    if s.held 0x100 (blockPool big) ≤ lim then s
    else match oldest (s.pfx.blocks.filter fun b => !b.cxl && b.big == big && s.pfxIdle b) with
      | none => s
      | some v =>
        match s.cxlRoom { tiller := 193 } big with
        | .wait _ => s
        | .got slot s1 =>
          let s1 := s1.noteRead v.addr (blockBytes big)
          State.lowerGddr
            (if (s1.knownUe v.addr (blockBytes big)).isSome then ((s.noteRead v.addr (blockBytes big)).removeBlock v).pfxCount 9
             else (((s1.copyBlock v.addr slot big).modBlock v.key fun b => { b with cxl := true, addr := slot }).pfxCount 6).giveAddr v.addr) big lim n
        | _ => State.lowerGddr ((s.removeBlock v).pfxCount 8) big lim n

/-- s with blocks of the CXL tier evicted, least recently used first, until the slabs are few enough. -/
def State.lowerSlabs (s : State) (lim : Nat) : Nat → State
  | 0 => s
  | n + 1 =>
    if s.pfx.slabList.length ≤ lim then s
    else match oldest (s.pfx.blocks.filter fun b => b.cxl && s.pfxIdle b) with
      | none => s
      | some v => State.lowerSlabs ((s.removeBlock v).pfxCount 8) lim n

/-- s with the limits of the store in force: after a command that lowered one, blocks leave until it holds, those that were not idle at the
time as soon as they are (R243). -/
def State.holdLimits (s : State) : State :=
  if s.pfx.on then
    let m := s.pfx.blocks.length
    ((s.lowerGddr false s.pfx.lim64 m).lowerGddr true s.pfx.lim1m m).lowerSlabs s.pfx.slabs m
  else s

/-- s with the storage of the removed blocks that no get reads any more freed, and the limits of the store in force. -/
def State.pfxTick (s : State) : State :=
  let gone := s.pfx.dying.filter fun b => !s.reading b
  (gone.foldl State.freeStorage (s.modPfx fun p => { p with dying := p.dying.filter s.reading })).holdLimits

/-! ### Requests and replies (R244, R245) -/

/-- The fields of a prefix-store payload. -/
structure PReq where
  /-- operation -/
  op : Nat
  /-- size is 1 MiB -/
  big : Bool
  /-- chunk index -/
  chunk : Nat
  /-- request number -/
  req : Nat
  /-- CRC of the block -/
  crc : BitVec 32
  /-- key -/
  key : List Byte
  deriving DecidableEq, Repr

/-- The fields of a packet. -/
def preqOf (p : Pkt) : PReq :=
  let b := p.payload
  { op := fieldAt b 0 1, big := fieldAt b 2 1 == 1, chunk := fieldAt b 4 2, req := fieldAt b 8 4, crc := BitVec.ofNat 32 (fieldAt b 12 4),
    key := slice b 16 16 }

/-- A packet keeps the rules for requests (R244, R245). -/
def State.pfxRequestOk (s : State) (p : Pkt) : Bool :=
  let b := p.payload
  let r := preqOf p
  p.kind == 0 && p.vc == 6 && decide (48 ≤ b.length) && decide (1 ≤ r.op) && decide (r.op ≤ 4) && fieldAt b 1 1 == 0 && decide (fieldAt b 2 1 ≤ 1) &&
  decide (fieldAt b 3 1 ≤ 1) && fieldAt b 6 2 == 0 && fieldAt b 32 16 == 0 && p.sub == fieldAt b 16 1 % 16 && s.pfx.mask.getLsbD p.inPort &&
  (if r.op = 1 then b.length == 2096 && decide (r.chunk < blockChunks r.big) else b.length == 48)

/-- A reply to a request with header hdr: the header copied with the route reversed, and the payload (R183, R244, log 53). -/
def pfxReply (hdr : List Byte) (op status : Nat) (r : PReq) (last : Bool) (chunk : Nat) (crc version : Nat) (data : List Byte) : List Byte :=
  let body := toLE 1 op ++ toLE 1 status ++ toLE 1 (if r.big then 1 else 0) ++ toLE 1 (if last then 1 else 0) ++ toLE 2 chunk ++ toLE 2 0 ++
    toLE 4 r.req ++ toLE 4 crc ++ padTo 16 r.key ++ toLE 8 version ++ toLE 8 0 ++ data
  mkHeader 0 6 (fieldAt hdr 2 1 / 4 % 16) (fieldAt hdr 3 1) (fieldAt hdr 6 1) (fieldAt hdr 7 1) (fieldAt hdr 8 2) (fieldAt hdr 10 2)
    (fieldAt hdr 12 4) body.length (reverseRoute (slice hdr 32 16)) ++ body

/-- s with a packet for a service Tiller to send. -/
def State.pfxSend (s : State) (t : Nat) (b : List Byte) : State := s.modT t fun T => { T with sendQ := T.sendQ ++ [{ bytes := b }] }

/-- s with the packet at the head of a receive queue taken and its cells released. -/
def State.takeHead (s : State) (t : Nat) (p : Pkt) : State := (s.modT t fun T => { T with recvQ := T.recvQ.tail }).release p

/-- A service row: the request at the head of service Tiller t's queue is served if it is one of op; one that breaks the rules is dropped
and counted (R245). -/
def State.pfxRow (s : State) (t op : Nat) (serve : Pkt → PReq → State) : State :=
  if !s.pfx.on || !s.pfx.tillers.contains t || (s.tl t).reset.isSome then s
  else match (s.tl t).recvQ with
    | [] => s
    | p :: _ =>
      if !s.pfxRequestOk p then (s.takeHead t p).pfxCount 12
      else if (preqOf p).op = op then serve p (preqOf p)
      else s

/-- A put gathers a packet's chunk: same Tiller, key, size, request number and sender. -/
def PPut.takes (q : PPut) (t : Nat) (p : Pkt) (r : PReq) : Bool :=
  q.tiller == t && q.key == r.key && q.big == r.big && q.req == r.req && fieldAt q.hdr 10 2 == p.src

/-- s with a put changed. -/
def State.modPut (s : State) (pid : Nat) (f : PPut → PPut) : State :=
  s.modPfx fun p => { p with puts := p.puts.map fun q => if q.pid = pid then f q else q }

/-- s without a put. -/
def State.dropPut (s : State) (pid : Nat) : State := s.modPfx fun p => { p with puts := p.puts.filter fun q => q.pid != pid }

/-- s with a put's reply sent. A version is given only for a block that is in the store; else it is free (log 53). -/
def State.putReply (s : State) (q : PPut) (status version : Nat) : State :=
  (s.pfxSend q.tiller (pfxReply q.hdr 0x81 status { op := 1, big := q.big, chunk := 0, req := q.req, crc := q.crc, key := q.key } false 0 q.crc.toNat
    (if status = stOk then version else s.freeNat) [])).drawn

/-- s with a chunk of a put written to its staging buffer. -/
def State.putChunk (s : State) (q : PPut) (chunk : Nat) (data : List Byte) : State :=
  (s.memWrite (q.addr + 2048 * chunk) data).modPut q.pid fun x => { x with held := x.held ++ [chunk] }

/-- PUT: the chunk at the head of the queue. The first one opens its put; when a demotion must give the buffer first, the chunk waits for
it, and when the buffer's list is being rebuilt, the request waits its turn (R237, R242, R246, R248). -/
def execPut (t : Nat) (s : State) : Host.Outcome State Fault Refusal :=
  onUnit (t < 192) s
    (s.pfxRow t 1 fun p r =>
      match s.pfx.puts.find? fun q => q.takes t p r with
      | none =>
        let who : SbReq := { tiller := t }
        let room := s.gddrRoom who r.big
        let q : PPut := { pid := room.2.pfx.nextPut, tiller := t, key := r.key, big := r.big, crc := r.crc, req := r.req, hdr := p.bytes.take 48, openedAt := s.t3 }
        let opened (s : State) (q : PPut) : State := s.modPfx fun x => { x with puts := x.puts ++ [q], nextPut := x.nextPut + 1 }
        match room.1 with
        | .now a => (((opened room.2 { q with addr := a }).takeHead t p).putChunk { q with addr := a } r.chunk (p.payload.drop 48)).leaveQueue who
        | .later a => (opened room.2 { q with addr := a, waitDemote := true }).leaveQueue who
        | .no => ((((opened room.2 { q with refused := true, held := [r.chunk] }).takeHead t p).putReply q stPoolEmpty 0).pfxCount 2).leaveQueue who
        | .wait w => s.await who w
      | some q =>
        if q.refused then
          let held := dedup (q.held ++ [r.chunk])
          let s1 := s.takeHead t p
          if held.length = blockChunks q.big then s1.dropPut q.pid else s1.modPut q.pid fun x => { x with held := held }
        else if q.waitDemote then s
        else if q.held.contains r.chunk then (s.takeHead t p).pfxCount 11
        else (s.takeHead t p).putChunk q r.chunk (p.payload.drop 48))

/-- s with a block entered under its key: any older block of the key leaves the index in the same step (R246). -/
def State.enterBlock (s : State) (b : PBlock) : State :=
  let s1 := match s.block? b.key with
    | some old => s.removeBlock old
    | none => s
  s1.modPfx fun p => { p with blocks := p.blocks ++ [b] }

/-- PUT_COMMIT: every chunk of put pid is held, before its timeout; with verify the block's CRC must match (R246). -/
def execPutCommit (pid : Nat) (s : State) : Host.Outcome State Fault Refusal :=
  onEvent s.live s
    (match s.pfx.puts.find? fun q => q.pid == pid with
      | none => s
      | some q =>
        if q.refused || q.waitDemote || q.held.length ≠ blockChunks q.big || s.after q.openedAt (usec s.pfx.tmo) then s
        else if s.pfx.verify && crc32c (s.memRead q.addr (blockBytes q.big)) != q.crc then
          ((s.dropPut pid).giveAddr q.addr).putReply q stBadParam 0
        else
          let v := (s.pfx.seq + 1) % 2 ^ 64
          let b : PBlock := { key := q.key, big := q.big, version := v, crc := q.crc, addr := q.addr, stamp := v }
          ((((s.dropPut pid).modPfx fun p => { p with seq := v }).enterBlock b).putReply q stOk v).pfxCount 0)

/-- PUT_TIMEOUT: put pid has not committed within put_timeout_us of its opening and is discarded (R246). -/
def execPutTimeout (pid : Nat) (s : State) : Host.Outcome State Fault Refusal :=
  onEvent s.live s
    (match s.pfx.puts.find? fun q => q.pid == pid with
      | none => s
      | some q =>
        if !s.after q.openedAt (usec s.pfx.tmo) then s
        else if q.refused then s.dropPut pid
        else
          let s1 := s.dropPut pid
          let s2 := if q.waitDemote then
              match (s1.tl q.tiller).recvQ with
              | p :: _ => s1.takeHead q.tiller p
              | [] => s1
            else s1.giveAddr q.addr
          (s2.putReply q stTimeout 0).pfxCount 1)

/-! ### Gets, deletes and probes -/

/-- The reply of a miss: block_crc and version are free, since there is no block (log 53). -/
def State.missReply (s : State) (t : Nat) (hdr : List Byte) (op : Nat) (r : PReq) (chunk : Nat) : State :=
  (s.pfxSend t (pfxReply hdr op stPrefixMiss r (op == 0x82) chunk s.freeNat (s.freeNat / 2 ^ 32) [])).drawn

/-- s with a hit's chunks queued as they stand, the words of the block that ce names or that are known to be correctable counted (01 R33);
at an uncorrectable word, which is counted (08 R232), the get ends with a miss and the block is removed (R247, R250). -/
def State.sendBlock (s : State) (t : Nat) (hdr : List Byte) (r : PReq) (b : PBlock) (ce : List Nat) : State :=
  let n := blockChunks b.big
  let s := (s.modMem fun m => { m with ce := m.ce ++ ce.filter fun w => !m.ce.contains w }).noteRead b.addr (blockBytes b.big)
  let good := (List.range n).takeWhile fun i => (s.knownUe (b.addr + 2048 * i) 2048).isNone
  let s1 := good.foldl (fun s i =>
    s.pfxSend t (pfxReply hdr 0x82 stOk r (i + 1 == n) i b.crc.toNat b.version (s.memRead (b.addr + 2048 * i) 2048))) s
  if good.length = n then s1 else ((s1.missReply t hdr 0x82 r good.length).removeBlock b).pfxCount 9

/-- GET (R247 to R249). A hit takes the next value of the commit sequence as the block's use stamp (log 54); ce names the words that the
read finds with a single-bit error. -/
def execGet (t : Nat) (ce : List Nat) (s : State) : Host.Outcome State Fault Refusal :=
  onUnit (t < 192) s
    (s.pfxRow t 2 fun p r =>
      let s1 := s.takeHead t p
      match (s.block? r.key).filter fun b => b.big == r.big with
      | none => (s1.missReply t p.bytes 0x82 r 0).pfxCount 5
      | some b =>
        let v := (s.pfx.seq + 1) % 2 ^ 64
        let b' := { b with stamp := v, promote := b.promote || (b.cxl && s.pfx.promote) }
        let s2 := (s1.modBlock b.key fun _ => b').modPfx fun x => { x with seq := v }
        (s2.sendBlock t p.bytes r b' ce).pfxCount (if b.cxl then 4 else 3))

/-- DELETE (R250). -/
def execDelete (t : Nat) (s : State) : Host.Outcome State Fault Refusal :=
  onUnit (t < 192) s
    (s.pfxRow t 3 fun p r =>
      let s1 := s.takeHead t p
      match (s.block? r.key).filter fun b => b.big == r.big with
      | none => s1.missReply t p.bytes 0x83 r 0
      | some b => (s1.pfxSend t (pfxReply p.bytes 0x83 stOk r false 0 b.crc.toNat b.version [])).removeBlock b)

/-- PROBE: the block of the key, of either size (R245). -/
def execProbe (t : Nat) (s : State) : Host.Outcome State Fault Refusal :=
  onUnit (t < 192) s
    (s.pfxRow t 4 fun p r =>
      let s1 := s.takeHead t p
      match s.block? r.key with
      | none => s1.missReply t p.bytes 0x84 r 0
      | some b => s1.pfxSend t (pfxReply p.bytes 0x84 stOk { r with big := b.big } false 0 b.crc.toNat b.version []))

/-! ### Demotion and promotion -/

/-- PREFIX_DEMOTE_DONE: the copy into the CXL tier is complete and the index entry switches to it; the use stamp is kept. A block that a
get reads is not moved yet; one with an uncorrectable word is removed (R248, R250). -/
def execPrefixDemoteDone (key : List Byte) (s : State) : Host.Outcome State Fault Refusal :=
  onEvent s.live s
    (match s.block? key with
      | none => s
      | some b =>
        match b.copying with
        | none => s
        | some slot =>
          if b.cxl || s.reading b then s
          else
            let s := s.noteRead b.addr (blockBytes b.big)
            if (s.knownUe b.addr (blockBytes b.big)).isSome then (s.removeBlock b).pfxCount 9
            else (((s.copyBlock b.addr slot b.big).modBlock key fun x => { x with cxl := true, addr := slot, copying := none }).pfxCount 6).freeStorage
            { b with copying := none })

/-- s with a block moved from the CXL tier into a GDDR7 buffer, or removed when a word of it is uncorrectable. -/
def State.promoteTo (s : State) (b : PBlock) (a : Nat) : State :=
  let s := s.noteRead b.addr (blockBytes b.big)
  if (s.knownUe b.addr (blockBytes b.big)).isSome then ((s.removeBlock { b with copying := none }).giveAddr a).pfxCount 9
  else (((s.copyBlock b.addr a b.big).modBlock b.key fun x => { x with cxl := false, addr := a, copying := none, promote := false }).pfxCount 7).freeSlabs

/-- PREFIX_PROMOTE: a block hit in the CXL tier, whose last chunk has been sent, moves to GDDR7 if room can be made; when that takes a
demotion, a second row moves it once the demotion is over (R249). -/
def execPrefixPromote (key : List Byte) (s : State) : Host.Outcome State Fault Refusal :=
  onEvent s.live s
    (match s.block? key with
      | none => s
      | some b =>
        if !b.cxl || !b.promote || s.reading b then s
        else match b.copying with
          | some a => if (s.pfx.blocks ++ s.pfx.dying).any fun x => !x.cxl && x.addr == a then s else s.promoteTo b a
          | none =>
            let s0 := s.modBlock key fun x => { x with copying := some b.addr }
            let who : SbReq := { tiller := 192 }
            let room := s0.gddrRoom who b.big
            match room.1 with
            | .now a => (room.2.promoteTo b a).leaveQueue who
            | .later a => (room.2.modBlock key fun x => { x with copying := some a }).leaveQueue who
            | .wait w => s.await who w
            | .no => (s.leaveQueue who).modBlock key fun x => { x with promote := false })

/-! ### PREFIX_CONFIG (R243) -/

/-- The fields of a PREFIX_CONFIG record as the store keeps them. -/
def Prefix.configured (p : Prefix) (r : List Byte) : Prefix :=
  let f := fieldAt r 0 1
  { p with
    verify := f / 2 % 2 == 1, promote := f / 4 % 2 == 1, lim64 := fieldAt r 4 4, lim1m := fieldAt r 8 4, slabs := fieldAt r 12 4
    tmo := fieldAt r 28 4, mask := BitVec.ofNat 38 (fieldAt r 32 5) }

/-- The minima of a PREFIX_CONFIG record, for pools 0 to 4. -/
def prefixMinima (r : List Byte) : List Nat := [0, fieldAt r 16 4, fieldAt r 20 4, 0, fieldAt r 24 4]

/-- The lowest-numbered Tillers that are free and not kept off. -/
def State.storeTillers (s : State) (n : Nat) : List Nat :=
  ((List.range 192).filter fun t => s.tillerFree t && !s.pwr.keepOff.getLsbD (t / 8)).take n

/-- s with the store's packets, queued and received, dropped as stale (13 R363). -/
def State.dropStorePackets (s : State) : State :=
  let r := s.takeSteered s.pfx.ctx s.pfx.tillers
  r.2.dropStale r.1

/-- s with the store disabled: its epoch advanced, its blocks and puts discarded, its buffers, minima and Tillers released. -/
def State.disableStore (s : State) : State :=
  let x := s.pfx.ctx
  let s2 := ({ s with epochs := SMap.set zeroBits x (s.epoch x + 1#8) s.epochs } : State).dropStorePackets
  let s3 := (s2.buffersWhere fun e => e.owner == 0x100).foldl State.giveAddr (s2.setMinima 0x100 [0, 0, 0, 0, 0])
  let s4 := s.pfx.tillers.foldl (fun s t => s.modT t fun _ => {}) s3
  let s5 := s4.modFab fun b => { b with steer := (List.range 16).foldl (fun m u => SMap.set noneAt (steerCtx x u) none m) b.steer }
  s5.modPfx fun p => { p with on := false, tillers := [], blocks := [], dying := [], puts := [], slabList := [] }

/-- s with the store enabled on a context number and Tillers: its epoch advances and its sub-streams are steered. -/
def State.enableStore (s : State) (x : Nat) (ts : List Nat) : State :=
  let s1 := ts.foldl (fun s t => s.modT t fun T => { T with owner := .store }) s
  let s2 := { s1 with epochs := SMap.set zeroBits x (s.epoch x + 1#8) s1.epochs }
  let s3 := s2.modFab fun b => { b with steer := (List.range 16).foldl (fun m u => SMap.set noneAt (steerCtx x u) (some (ts.getD (u % ts.length) 0)) m) b.steer }
  s3.modPfx fun p => { p with on := true, ctx := x, tillers := ts }

/-- A PREFIX_CONFIG record is in order; the ranges of its fields are checked when it enables the store (log 55). -/
def prefixRecordOk (r : List Byte) : Bool :=
  decide (fieldAt r 0 1 < 8) && fieldAt r 2 2 == 0 && decide (fieldAt r 32 5 < 2 ^ 38) && fieldAt r 37 3 == 0 &&
  (fieldAt r 0 1 % 2 == 0 ||
    (decide (1 ≤ fieldAt r 1 1) && decide (fieldAt r 1 1 ≤ 16) && decide (1 ≤ fieldAt r 28 4) && decide (fieldAt r 28 4 ≤ 1000000)))

/-- PREFIX_CONFIG. Enabling the store on Tillers whose domains are off asks for them and is taken up once they are on (01 R38). Without a
context number of the store the result words are free. -/
def execPrefixConfig (c : Nat) (s0 : State) : Host.Outcome State Fault Refusal :=
  let needs (r : List Byte) : List Nat :=
    if prefixRecordOk r && fieldAt r 0 1 % 2 == 1 && !s0.pfx.on && (s0.storeTillers (fieldAt r 1 1)).length == fieldAt r 1 1 then
      (dedup ((s0.storeTillers (fieldAt r 1 1)).map fun t => domTiller (t / 8))).filter fun d => !s0.domOn d
    else []
  match s0.cmd? c with
  | none => .next s0
  | some k =>
    if s0.live && k.opcode == 0x0604 && s0.ready k && s0.served 0x0604 && !(needs k.params).isEmpty then .next (s0.requestDomains (needs k.params))
    else runCmd 0x0604 c s0 fun k s =>
      let r := k.params
      let n := fieldAt r 1 1
      let done (s : State) : State := s.finish c stOk [s.pfx.ctx, (s.epoch s.pfx.ctx).toNat]
      if !prefixRecordOk r then s.finish c stBadParam
      else if fieldAt r 0 1 % 2 = 0 then
        if s.pfx.on then done (s.disableStore.modPfx fun p => p.configured r)
        else ((s.modPfx fun p => p.configured r).finish c stOk [s.freeNat, s.freeNat / 2 ^ 32]).drawn
      else if s.pfx.on then
        if n ≠ s.pfx.tillers.length then s.finish c stBadParam
        else
          let s1 := s.setMinima 0x100 (prefixMinima r)
          if !s1.minimaFit then s.finish c stNoFit
          else
            done (s1.modPfx fun p => p.configured r).holdLimits
      else
        let s1 := s.setMinima 0x100 (prefixMinima r)
        match s.freeCtx with
        | none => s.finish c stNoFit
        | some x =>
          if (s.storeTillers n).length ≠ n || !s1.minimaFit then s.finish c stNoFit
          else done ((s1.modPfx fun p => p.configured r).enableStore x (s.storeTillers n))

end Sys2Proof.Machine
end

