-- ==== Sys2Proof/Machine/Seedbank.lean ====
section
/-!
DEFINITION. The commands of the buffer pools (08 R233 to R242; 10 R296): layouts, minima, allocation, frees, and the rebuild of a list.
-/

namespace Sys2Proof.Machine

/-! ### POOL_CONFIG (R234, R236) -/

/-- The sixteen counts of POOL_CONFIG sub 0, by list number. -/
def poolCounts (p : List Byte) : List Nat := (List.range 16).map fun L => fieldAt p (4 + 4 * L) 4

/-- The counts of every die fit into its 16.875 GiB. -/
def countsFit (l : List Nat) : Bool :=
  (List.range 4).all fun d => decide ((List.range 4).foldl (fun n k => n + l.getD (4 * k + d) 0 * poolSize k) 0 ≤ dieBytes)

/-- s with the layout of pools 0 to 3 replaced: every list fresh. -/
def State.layPools (s : State) (l : List Nat) : State :=
  s.modSeed fun b => { b with
    counts := (List.range 16).foldl (fun m L => SMap.set countAt L (l.getD L 0) m) b.counts
    lists := (List.range 16).foldl (fun m L => SMap.set sbListAt L {} m) b.lists
    touched := b.touched.filter fun w => !isGddr (32 * w) }

/-- POOL_CONFIG sub 0; a sub code not listed is a bad parameter. -/
def execPoolConfigCounts (c : Nat) (s : State) : Host.Outcome State Fault Refusal :=
  runSub 0x0601 c (fun k => fieldAt k.params 0 1 != 1) s fun k s =>
    let l := poolCounts k.params
    if fieldAt k.params 0 4 ≠ 0 then s.finish c stBadParam
    else if (s.seed.entries.any fun p => decide (p.1 / 2 ^ 22 < 16) && (p.2.alloc || p.2.quar)) || !countsFit l then s.finish c stBadParam
    else if 4194304 < l.foldl (· + ·) 0 + 122880 then s.finish c stNoFit
    else
      let s1 := s.layPools l
      if s1.minimaFit then s1.finish c stOk else s.finish c stNoFit

/-- POOL_CONFIG sub 1: the minima of the system functions. -/
def execPoolConfigMinima (c : Nat) (s : State) : Host.Outcome State Fault Refusal :=
  runSub 0x0601 c (fun k => fieldAt k.params 0 1 == 1) s fun k s =>
    if fieldAt k.params 0 4 ≠ 1 || !allZero (k.params.drop 24) then s.finish c stBadParam
    else
      let s1 := s.setMinima 0x101 ((List.range 5).map fun i => fieldAt k.params (4 + 4 * i) 4)
      if s1.minimaFit then s1.finish c stOk else s.finish c stNoFit

/-! ### Allocation (R237, R238, R242) -/

/-- The pool of a BUF_ALLOC: the one named, or the smallest whose buffers hold the size; none when the size is refused. -/
def allocPool (pool size : Nat) : Option Nat :=
  if size = 0 || 0x4000000 < size then none
  else if pool = 0xFF then (List.range 5).find? fun k => decide (size ≤ poolSize k)
  else if pool ≤ 4 && size ≤ poolSize pool then some pool
  else none

/-- BUF_ALLOC. -/
def execBufAlloc (c : Nat) (s : State) : Host.Outcome State Fault Refusal :=
  runCmd 0x0602 c s fun k s =>
    let o := fieldAt k.params 0 2
    let die := fieldAt k.params 3 1
    match allocPool (fieldAt k.params 2 1) (fieldAt k.params 8 8) with
    | none => s.finish c stBadParam
    | some p =>
      if !listExists p die || (255 < o && o ≠ 0x101) || 1 < fieldAt k.params 4 1 || fieldAt k.params 5 3 ≠ 0 then s.finish c stBadParam
      else s.sbAsk { cmd := some c, owner := o, pool := p, list := die, zero := fieldAt k.params 4 1 == 1 }

/-! ### Frees (R239) -/

/-- Status of a free, and s after it. -/
def State.sbFree (s : State) (o a : Nat) : Nat × State :=
  if o < 0x100 && !s.ctxOk o then (stContextGone, s)
  else match s.bufferOf a with
    | none => (stBadParam, s)
    | some (L, i) =>
      let e := s.sbEntry L i
      if s.bufAddr L i ≠ a then (stBadParam, s)
      else if !e.alloc || e.quar then (stDoubleFree, s)
      else if e.owner ≠ o || e.slot.isSome then (stBadParam, s)
      else (stOk, s.giveBack L i)

/-- BUF_FREE. -/
def execBufFree (c : Nat) (s : State) : Host.Outcome State Fault Refusal :=
  runCmd 0x0603 c s fun k s =>
    if fieldAt k.params 2 6 ≠ 0 then s.finish c stBadParam
    else
      let r := s.sbFree (fieldAt k.params 0 2) (fieldAt k.params 8 8)
      r.2.finish c r.1

/-- SEEDBANK_REQUEST: a service Tiller's request over its memory lane, checked as the host's are; a double free is recorded and changes
nothing (R237, R239). The buffer such a request takes is the store's. -/
def execSeedbankRequest (t : Nat) (r : SbAsk) (s : State) : Host.Outcome State Fault Refusal :=
  onUnit (t < 192) s
    (if !s.pfx.on || !s.pfx.tillers.contains t then s
     else if r.free then
      let f := s.sbFree r.owner r.addr
      if f.1 = stDoubleFree then s.almQueue { type := 0x0B, ctx := s.pfx.ctx, unit := t, detail := memDetail 7 0xFF noneField r.addr } else f.2
     else if 4 < r.pool || !listExists r.pool r.list then s
     else s.sbAsk { tiller := t, owner := r.owner, pool := r.pool, list := r.list })

/-- SEEDBANK_REBUILD_DONE: the rebuild of a list ends and the requests that waited are served in their order (R242); where none is under way,
requests that nothing holds back any more are. -/
def execSeedbankRebuildDone (L : Nat) (s : State) : Host.Outcome State Fault Refusal :=
  onUnit (L < 18) s
    (if (s.sbList L).rebuilding then ((s.modList L fun l => { l with drained := false }).rebuildList L).sbServe L else s.sbServe L)

end Sys2Proof.Machine
end

