-- ==== Sys2Proof/Machine/Tiers.lean ====
section
/-!
DEFINITION. CXL ports going down and coming up (08 R227 to R229; 13 R364), and the scrub of both memory tiers (08 R231, R232).
-/

namespace Sys2Proof.Machine

/-! ### Blocks that are lost -/

/-- A send queue in which the chunks of a version not yet sent, from a chunk on, give way to one final PREFIX_MISS without data (R247). -/
def cutGet (v chunk : Nat) (sent : Bool) : List SendItem → List SendItem
  | [] => []
  | i :: rest =>
    if sendsVersion v i && decide (chunk ≤ fieldAt i.bytes 52 2) then
      if sent then cutGet v chunk sent rest
      else
        { i with bytes := (i.bytes.take 4 ++ toLE 2 48 ++ slice i.bytes 6 42) ++ (toLE 1 0x82 ++ toLE 1 stPrefixMiss ++ slice i.bytes 50 1 ++ [1#8] ++
            slice i.bytes 52 44) } :: cutGet v chunk true rest
    else i :: cutGet v chunk sent rest

/-- s with the gets of a block ended from a chunk on. -/
def State.cutGets (s : State) (b : PBlock) (chunk : Nat) : State :=
  s.pfx.tillers.foldl (fun s t => s.modT t fun T => { T with sendQ := cutGet b.version chunk false T.sendQ }) s

/-! ### CXL ports (R229) -/

/-- s with the demotions towards port k given up: the block is evicted in their place (log 56). -/
def State.dropDemotions (s : State) (k : Nat) : State :=
  (s.pfx.blocks.filter fun b => !b.cxl && (match b.copying with | some a => cxlPort a == some k | none => false)).foldl (fun s b =>
    (s.removeBlock { b with copying := none }).pfxCount 8) s

/-- s with the prefix-store blocks of port k removed and their gets ended (R247, R250). -/
def State.dropPortBlocks (s : State) (k : Nat) : State :=
  ((s.pfx.blocks ++ s.pfx.dying).filter fun b => b.cxl && cxlPort b.addr == some k).foldl (fun s b =>
    let s1 := s.cutGets b 0
    if s1.pfx.blocks.contains b then (s1.removeBlock b).pfxCount 10 else s1) s

/-- s with CXL port k down: its free list is empty, its blocks leave the store, and requests that waited for its list are decided. -/
def State.cxlDown (s : State) (k : Nat) : State :=
  if (s.cxl k).up then
    let s1 := (s.modCxl k fun x => { x with up := false }).modList (16 + k) fun l => { l with pushed := [], drained := true, rebuilding := false }
    (((s1.dropDemotions k).dropPortBlocks k).pfxTick).sbServe (16 + k)
  else s

/-- CXL_PORT_DOWN: the link of port k fails, or its expander is removed. -/
def execCxlPortDown (k : Nat) (s : State) : Host.Outcome State Fault Refusal := onUnit (k < 2) s (s.cxlDown k)

/-- Most bytes of an expander that are mapped: 4 TiB (R227). -/
abbrev cxlMax : Nat := 0x40000000000

/-- CXL_WRITE_ACK_TIMEOUT: a write of context x to port k is still unacknowledged 10 ms after step 4 of its teardown began: the port goes
down (13 R364). -/
def execCxlWriteAckTimeout (x k : Nat) (s : State) : Host.Outcome State Fault Refusal :=
  onUnit (x < 256 && k < 2) s
    (match (s.ctx x).tear with
      | some r => if r.step = 4 && s.after r.since (msec 10) then s.cxlDown k else s
      | none => s)

/-! ### Scrub (R231, R232) -/

/-- A controller's scrub slot. -/
def State.ctrl (s : State) (m : Nat) : Ctrl := SMap.get ctrlAt s.mem.ctrls m

/-- s with a controller's scrub state changed. -/
def State.modCtrl (s : State) (m : Nat) (f : Ctrl → Ctrl) : State := s.modMem fun x => { x with ctrls := SMap.set ctrlAt m (f (s.ctrl m)) x.ctrls }

/-- s with a pass of scrub over memory m counted from now: the memory has just come up (08 R231). -/
def State.passFromNow (s : State) (m : Nat) : State := s.modCtrl m fun c => { c with passAt := s.now }

/-- s with the record that FWP-LNK writes about port k's device, which lies outside the subset of R227; the code of its reason is free (log
57). -/
def State.cxlRefused (s : State) (k : Nat) : State :=
  if s.fwpUp fwpLnk then
    (s.almQueue { type := 0x0A, unit := 24 + k, detail := detail (toLE 1 k ++ toLE 1 (s.freeNat % 256)) }).drawn
  else s

/-- CXL_PORT_UP: the link of port k trains with an expander of cap bytes. With another capacity than before the port is held down until a
cold reset; else its list is rebuilt. A capacity of 0 stands for a device outside the subset of R227, which holds the port down and is
recorded (log 57). -/
def execCxlPortUp (k cap : Nat) (s : State) : Host.Outcome State Fault Refusal :=
  onUnit (k < 2) s
    (let x := s.cxl k
     let u := min cap cxlMax
     if x.up || x.heldDown || !x.refOk || !x.perstN || !s.domOn (domCxl k) then s
     else if u = 0 then s.cxlRefused k
     else if x.lastCap.any fun c => c != u then s.modCxl k fun x => { x with heldDown := true }
     else ((s.modCxl k fun x => { x with up := true, cap := u, lastCap := some u }).modList (16 + k) fun l =>
       { l with drained := true, rebuilding := true }).passFromNow (24 + k))

/-- Lines of a memory's data region (R224, R228). -/
def State.scrubLines (s : State) (m : Nat) : Nat := if m < 24 then 11796480 else s.cxlData (m - 24) / 256

/-- Device address of a line of a memory (R225, R228). -/
def lineAddr (m line : Nat) : Nat := if m < 24 then m / 6 * dieBytes + 256 * (6 * line + m % 6) else cxlBase (m - 24) + 256 * line

/-- Scrub runs on memory m. -/
def State.scrubs (s : State) (m : Nat) : Bool :=
  if m < 24 then s.dev.scrubCfg.getLsbD 0 && s.domOn (domGddr (m / 6)) else s.dev.scrubCfg.getLsbD 1 && (s.cxl (m - 24)).up

/-- Target pass time of memory m in ns. -/
def State.scrubTarget (s : State) (m : Nat) : Nat :=
  (if m < 24 then (s.dev.scrubCfg.extractLsb' 16 16).toNat else (s.dev.scrubCfg.extractLsb' 32 32).toNat) * 1000000000

/-- s after scrub has found the word at an address uncorrectable: counted, recorded, its prefix-store block removed, its free buffer
quarantined if it was free when the word was read. -/
def State.scrubUe (s : State) (m a : Nat) : State :=
  let s1 := (s.memUe a).almQueue { type := 0x0B, fault := 4, unit := m, detail := memDetail 9 0xFF noneField a }
  let free : Bool := match s.bufferOf a with
    | some (L, i) => s.bufAddr L i / 32 == a / 32 && !(s.sbEntry L i).alloc && !(s.sbEntry L i).quar
    | none => false
  let s2 := match s1.pfx.blocks.find? fun b => decide (b.addr ≤ a) && decide (a < b.addr + blockBytes b.big) with
    | some b => ((s1.cutGets b ((a - b.addr) / 2048)).removeBlock b).pfxCount 9
    | none => s1
  match s2.bufferOf a with
  | none => s2
  | some (L, i) =>
    if free then
      s2.quarantineFree L i
    else s2

/-- s with a line read: word w's digit of ecc in base 3 says whether it is good, was corrected, or is uncorrectable; a word known to be
uncorrectable stays so, and one whose single-bit error is known is corrected (01 R33, log 11). -/
def State.scrubLine (s : State) (m ecc : Nat) : State :=
  let a := lineAddr m (s.ctrl m).line
  let word (w : Nat) : Nat := 
    if s.mem.ue.contains ((a + 32 * w) / 32) || ecc / 3 ^ w % 3 == 2 then 2
    else if s.mem.ce.contains ((a + 32 * w) / 32) then 1 else ecc / 3 ^ w % 3
  let fixed := (List.range 8).filter fun w => word w == 1
  let s1 := ((List.range 8).filter fun w => word w == 2).foldl (fun s w => s.scrubUe m (a + 32 * w)) s
  ((s1.count (ctrMem m 0) fixed.length).count (ctrMem m 2) 1).modCtrl m fun c => { c with back := fixed.map fun w => (a + 32 * w) / 32 }

/-- s with the next line due; at the end of the region a pass is counted, and as late when it took longer than its target. -/
def State.scrubStep (s : State) (m : Nat) : State :=
  let c := s.ctrl m
  if c.line + 1 < s.scrubLines m then s.modCtrl m fun c => { c with line := c.line + 1 }
  else
    let s1 := s.count (ctrMem m 3) 1
    let s2 := if s.scrubTarget m < s.now - c.passAt then s1.count (ctrMem m 4) 1 else s1
    s2.modCtrl m fun c => { c with line := 0, passAt := s.now }

/-- SCRUB_SLOT: memory m's next scrub slot writes a corrected word back, or reads the next line. -/
def execScrubSlot (m ecc : Nat) (s : State) : Host.Outcome State Fault Refusal :=
  onUnit (m < 26) s
    (if !s.scrubs m then s
     else match (s.ctrl m).back with
       | w :: rest => (s.healCe [w]).modCtrl m fun c => { c with back := rest }
       | [] => (s.scrubLine m ecc).scrubStep m)

end Sys2Proof.Machine
end

