-- ==== Sys2Proof/Machine/Cvu.lean ====
section
/-!
DEFINITION. The check-value unit (03 R95 to R98). What a CV_ instruction does to the unit and to DMEM is done at its issue; the
unit is busy for the instruction's occupancy, and a CV_READ of a CRC or of Fletcher-32 lands in its scalar at its latency
(log 30).
-/

namespace Sys2Proof.Machine

/-- The unit's register with one byte of a CRC fed. -/
def crcFeed (alg : Nat) (r : BitVec 64) (b : Byte) : BitVec 64 :=
  match alg with
  | 0 => (crcByteR polyCrc32c (r.setWidth 32) b).setWidth 64
  | 1 => (crcByteR polyCrc32 (r.setWidth 32) b).setWidth 64
  | 2 => (crcByteN 0x1021#16 (r.setWidth 16) b).setWidth 64
  | _ => crcByteN 0x42F0E1EBA9EA3693#64 r b

/-- Fletcher sums held in a register: sum1 low, sum2 high. -/
def fletcherFeed (r : BitVec 64) (w : Nat) : BitVec 64 :=
  let s := fletcherWord (r.toNat % 65536, r.toNat / 65536 % 65536) w
  BitVec.ofNat 64 (s.1 + 65536 * s.2)

/-- The unit with one byte fed in a cycle (03 R96). Without an algorithm nothing is computed. -/
def Cvu.feed1 (c : Cvu) (core : Nat) (b : Byte) : Cvu :=
  match c.alg with
  | none => c
  | some alg =>
    let c := { c with length := (c.length + 1) % 2 ^ 64 }
    if alg < 4 then { c with reg := crcFeed alg c.reg b }
    else
      let held := c.held ++ [b]
      if alg = 4 then
        if held.length = 2 then { c with held := [], reg := fletcherFeed c.reg (leNat held) } else { c with held := held }
      else if held.length = 64 then { c with held := [], hash := shaBlock c.hash held, busyUntil := core + 16 }
      else { c with held := held }

/-- The unit with bytes fed in one write. -/
def Cvu.feed (c : Cvu) (core : Nat) (l : List Byte) : Cvu := l.foldl (fun c b => c.feed1 core b) c

/-- The unit with bytes fed one each cycle. -/
def Cvu.feedSlow (c : Cvu) (core : Nat) (l : List Byte) : Cvu :=
  (l.foldl (fun (p : Cvu × Nat) b => (p.1.feed1 p.2 b, p.2 + 1)) (c, core)).1

/-- Initial register of an algorithm before any byte. Nothing is being compressed then, even when the unit was compressing a block as CV_INIT or
CV_RESTORE came: 03 R96 is silent there (DESIGN CHOICE, log 99). -/
def cvuInit (alg : Nat) : Cvu :=
  { alg := some alg, reg := if alg ≤ 1 then 0xFFFFFFFF#64 else if alg = 2 then 0xFFFF#64 else 0#64,
    hash := if alg = 5 then shaInit else [] }

/-- The check value for the bytes fed so far: one or two words; a free value before any CV_INIT (log 16). -/
def Cvu.value (c : Cvu) (free : Nat) : List Word :=
  match c.alg with
  | some 0 => [~~~ (c.reg.setWidth 32)]
  | some 1 => [~~~ (c.reg.setWidth 32)]
  | some 2 => [c.reg.setWidth 32]
  | some 3 => [c.reg.setWidth 32, (c.reg >>> 32).setWidth 32]
  | some 4 =>
    let r := match c.held with | b :: _ => fletcherFeed c.reg b.toNat | [] => c.reg
    [r.setWidth 32]
  | _ => [BitVec.ofNat 32 free]

/-- The 32-byte digest of the bytes fed so far. -/
def Cvu.digest (c : Cvu) : List Byte := shaFinish c.hash c.held c.length

/-- The 128-byte image (03 R98); before any CV_INIT its contents are free. -/
def Cvu.image (c : Cvu) (free : Nat) : List Byte :=
  match c.alg with
  | none => toLE 128 free
  | some a =>
    toLE 1 a ++ [0#8, 0#8, 0#8] ++ toLE 4 c.held.length ++ toLE 8 c.length ++
    padTo 32 (if a = 5 then (c.hash.map fun w => toLE 4 w.toNat).flatten else toLE 8 c.reg.toNat) ++ padTo 64 c.held ++
    List.replicate 16 0#8

/-- The unit that an image restores; none when its algorithm code is reserved or its count out of range. -/
def cvuOf (b : List Byte) : Option Cvu :=
  let a := fieldAt b 0 1
  let n := fieldAt b 4 4
  if 5 < a || (if a = 5 then 63 else if a = 4 then 1 else 0) < n then none
  else some
    { alg := some a, length := fieldAt b 8 8, held := slice b 48 n,
      reg := if a = 5 then 0#64 else BitVec.ofNat 64 (fieldAt b 16 (if a = 3 then 8 else if a = 2 then 2 else 4)),
      hash := if a = 5 then (List.range 8).map fun j => BitVec.ofNat 32 (fieldAt b (16 + 4 * j) 4) else [] }

/-- T with its unit changed. -/
def Tiller.setCvu (T : Tiller) (f : Cvu → Cvu) : Tiller := { T with cvu := f T.cvu }

/-- s with a CVU instruction issued and the unit changed. -/
def State.cvu (s : State) (t e : Nat) (i : Shoze) (f : Cvu → Cvu) : State := (s.launch t e i [] id).modT t fun T => T.setCvu f

/-- s with the low n bytes of s[sa] fed. -/
def State.cvFeedReg (s : State) (t e n : Nat) (i : Shoze) : State :=
  s.cvu t e i fun c => c.feed s.clk.core (toLE n ((s.tl t).reg i.sa.toNat).toNat)

/-- CV_INIT: algorithm imm[2:0]. -/
def execCvInit (t e : Nat) (s : State) : Host.Outcome State Fault Refusal :=
  issueRow t e .cvInit s fun i => s.cvu t e i fun _ => cvuInit (i.imm.toNat % 8)
/-- CV_WB: one byte. -/
def execCvWb (t e : Nat) (s : State) : Host.Outcome State Fault Refusal := issueRow t e .cvWb s (s.cvFeedReg t e 1)
/-- CV_WH: two bytes, low byte first. -/
def execCvWh (t e : Nat) (s : State) : Host.Outcome State Fault Refusal := issueRow t e .cvWh s (s.cvFeedReg t e 2)
/-- CV_WW: four bytes, low byte first. -/
def execCvWw (t e : Nat) (s : State) : Host.Outcome State Fault Refusal := issueRow t e .cvWw s (s.cvFeedReg t e 4)

/-- CV_READ: the value so far, into scalars or, for SHA-256, into DMEM; the running state stays (03 R97). -/
def execCvRead (t e : Nat) (s : State) : Host.Outcome State Fault Refusal :=
  issueRow t e .cvRead s fun i =>
    let T := s.tl t
    if T.cvu.sha then
      (s.launch t e i [] id).modT t fun U => { U with dmem := U.dmem.write (T.reg i.sa.toNat).toNat T.cvu.digest }
    else
      let s' := s.launch t e i (T.cvu.value s.freeNat) id
      if T.cvu.alg.isNone then s'.drawn else s'

/-- CV_SAVE: the image into DMEM at s[sa]. -/
def execCvSave (t e : Nat) (s : State) : Host.Outcome State Fault Refusal :=
  issueRow t e .cvSave s fun i =>
    let T := s.tl t
    let a := (T.reg i.sa.toNat).toNat
    let s' := (s.launch t e i [] id).modT t fun U =>
      { U with dmem := U.dmem.write a (T.cvu.image s.freeNat), dmUe := U.dmUe.filter fun w => !(wordsOf a 128).contains w }
    if T.cvu.alg.isNone then s'.drawn else s'

/-- CV_RESTORE: the unit from an image in DMEM; a bad image faults with RANGE and leaves the unit unchanged (03 R98). An uncorrectable word
of DMEM, the one ecc names or one known, faults and resets the control core (01 R32). -/
def execCvRestore (t e : Nat) (ecc : Option Nat) (s : State) : Host.Outcome State Fault Refusal :=
  issueRow t e .cvRestore s fun i =>
    let a := ((s.tl t).reg i.sa.toNat).toNat
    match (wordsOf a 128).find? fun w => ecc == some w || (s.tl t).dmUe.contains w with
    | some w => s.eccCore t ((s.tl t).stream e).pc w
    | none =>
    match cvuOf ((s.tl t).dmem.read a 128) with
    | none => s.hazard t 5 ((s.tl t).stream e).pc { cause := 6, range := some ((a / 32 : Nat), (a / 32 : Nat)) }
    | some c => s.cvu t e i fun _ => c

/-- CV_FEED: the bytes of a descriptor, one a cycle (03 R87). -/
def execCvFeed (t e : Nat) (s : State) : Host.Outcome State Fault Refusal :=
  issueRow t e .cvFeed s fun i =>
    let T := s.tl t
    s.cvu t e i fun c => c.feedSlow s.clk.core (((T.resolve i).desc 0).packedBytes T.sp)

end Sys2Proof.Machine
end

