-- ==== Sys2Proof/Machine/Watch.lean ====
section
/-!
DEFINITION. Progress watchdogs, samples, engine resets and Tiller resets (13 R344 to R356).
-/

namespace Sys2Proof.Machine

/-! ### Watchdogs (R344 to R346) -/

/-- The streams of a Tiller that still run: in unified mode only stream 0. -/
def Tiller.liveStreams (T : Tiller) : List Nat := [0, 1, 2, 3, 4, 5].filter fun e => (T.stream e).on && !(T.stream e).halted

/-- The semaphore a stream waits on. -/
def Hold.sem? : Hold → Option Nat
  | .wait k => some k
  | _ => Option.none

/-- A stream holds in WAIT, FENCE or STEP_END. -/
def Hold.waits : Hold → Bool
  | .wait _ => true
  | .fence => true
  | .stepEnd => true
  | _ => false

/-- An outstanding MV_RECV or MV_SEND of a Tiller names a semaphore that one of its streams waits on. -/
def Tiller.awaitsPacket (T : Tiller) : Bool :=
  T.liveStreams.any fun e => match (T.stream e).hold.sem? with
    | some k => T.checker.any fun x => (x.inst.mn = .mvRecv || x.inst.mn = .mvSend) && !x.signalled && x.inst.sem.toNat == k
    | none => false

/-- Another Tiller of t's context has faulted, stopped or is being reset (R345). -/
def State.neighbourDown (s : State) (t : Nat) : Bool :=
  match (s.tl t).ctx with
  | none => false
  | some x => (s.ctx x).tillers.any fun u => u != t &&
      ((s.tl u).run = TRun.faulted || (s.tl u).run = TRun.stopped || (s.tl u).reset.isSome)

/-- The control core of Tiller t holds and is not watched (R345). -/
def State.exempt (s : State) (t : Nat) : Bool :=
  let T := s.tl t
  let l := T.liveStreams
  l.any (fun e => (T.stream e).hold.waits) &&
  (T.awaitsPacket || (l.any (fun e => (T.stream e).hold = .stepEnd) && s.dev.mode.getLsbD 0 && (s.pwr.clkReq.isSome || s.pwr.clkStep.isSome)) || s.neighbourDown t ||
    (T.mode == 1 && l.any fun e => (T.stream e).hold.waits && l.any fun d => d != e && (T.stream d).hold.sem?.isNone))

/-- The control core of Tiller t is watched but for R345: its context is started, and it is neither halted, stopped nor faulted. -/
def State.coreWatched (s : State) (t : Nat) : Bool :=
  let T := s.tl t
  decide (T.run = .running) && (match T.ctx with | some x => (s.ctx x).started | none => false)

/-- Time of the last progress of engine e of a Tiller, in thirds; for the control core, of its last issue or of the end of its last
exemption. -/
def Tiller.lastProgress (T : Tiller) (e : Nat) : Nat :=
  if e = 0 then (T.liveStreams.map fun k => (T.stream k).prog).foldl max T.exemptEnd else SMap.get zeroAt T.engProg e

/-- No time left out. -/
def skipAt (_ : Nat) : Nat × Nat := (0, 0)

/-- Thirds in which CORE_CLK has stood since the last progress of engine e of a Tiller: its watchdog leaves them out (14 R385). -/
def Tiller.skipped (T : Tiller) (e : Nat) : Nat :=
  let k := SMap.get skipAt T.wdSkip e
  if k.1 = T.lastProgress e then k.2 else 0

/-- T with one more third counted that its watchdogs leave out. -/
def Tiller.skipThird (T : Tiller) : Tiller :=
  if T.run = .running then
    { T with wdSkip := [0, 1, 2, 3, 4, 5].map fun e =>
        let l := T.lastProgress e
        let k := SMap.get skipAt T.wdSkip e
        (e, (l, if k.1 = l then k.2 + 1 else 1)) }
  else T

/-- The watchdog of engine e of Tiller t watches now. -/
def State.watched (s : State) (t e : Nat) : Bool :=
  (s.tl t).reset.isNone && (if e = 0 then s.coreWatched t && !s.exempt t else (s.tl t).working s.clk.core e)

/-- s with the control cores that are exempt now noted, so that their intervals start afresh when the exemption ends (R345). -/
def State.exemptTick (s : State) : State :=
  { s with tillers := s.tillers.map fun (p : Nat × Tiller) =>
      if p.2.run = TRun.running && s.exempt p.1 then (p.1, { p.2 with exemptEnd := s.t3 }) else p }

/-- Index an engine of a Tiller is executing, or all ones. -/
def Tiller.engineIndex (T : Tiller) (e : Nat) : Nat :=
  match T.checker.find? fun x => x.engine == e && !x.finished with
  | some x => x.index
  | none => noneField

/-- The index in execution or in wait on an engine: of the control core, that of the first live stream. -/
def Tiller.watchIndex (T : Tiller) (e : Nat) : Nat :=
  if e = 0 then (match T.liveStreams with | k :: _ => (T.stream k).pc | [] => noneField) else T.engineIndex e

/-- The semaphore that the control core waits on, or 0xFF. -/
def Tiller.waitSem (T : Tiller) : Nat := ((T.liveStreams.filterMap fun k => (T.stream k).hold.sem?).head?).getD 0xFF

/-- WATCHDOG detail of a Tiller engine (R346). -/
def State.watchdogDetail (s : State) (t e units : Nat) : List Byte :=
  let T := s.tl t
  detail (toLE 1 e ++ toLE 1 T.mode ++ toLE 1 T.waitSem ++ [0#8] ++ toLE 4 (T.watchIndex e) ++ toLE 4 (s.cycle t) ++
    toLE 4 (s.dev.wdogCfg.toNat % 65536) ++ toLE 8 (baseAt (T.lastProgress e)) ++ toLE 4 units ++ toLE 4 noneField)

/-- TILLER_WATCHDOG_FIRE: engine e of Tiller t has made no progress for tiller_limit_us of time in which CORE_CLK ran. How many progress events its instruction had
completed is free (log 49). -/
def execTillerWatchdogFire (t e : Nat) (s : State) : Host.Outcome State Fault Refusal :=
  onUnit (t < 192 && e < 6) s
    (if s.dev.wdogCfg.getLsbD 24 && s.watched t e && s.after ((s.tl t).lastProgress e + (s.tl t).skipped e) (usec (s.dev.wdogCfg.toNat % 65536)) then
      if e = 0 then s.faultReset t faultWatchdog 0 (s.watchdogDetail t 0 0)
      else (s.faultReset t faultWatchdog e (s.watchdogDetail t e s.freeNat)).drawn
    else s)

/-! ### Samples (R348) -/

/-- Union of footprints as first and last word, all ones when there is none. -/
def unionFeet (l : List (Nat × Nat)) : List Byte :=
  match l with
  | [] => toLE 8 (2 ^ 64 - 1)
  | p :: rest => toLE 4 (rest.foldl (fun a q => min a q.1) p.1) ++ toLE 4 (rest.foldl (fun a q => max a q.2) p.2)

/-- A hazard-checker entry in a sample. -/
def Entry.sample (x : Entry) (core : Nat) : List Byte :=
  toLE 4 x.index ++ toLE 1 x.engine ++ toLE 1 (bit x.async) ++ [0#8, 0#8] ++ toLE 4 (x.done - core) ++ unionFeet (x.srcsAt core) ++ unionFeet (x.dstsAt core) ++ toLE 4 0

/-- Lines of a sample that hold an uncorrectable word. -/
def Tiller.badLines (T : Tiller) : List Nat := (List.range 64).filter fun k => T.spUe.any fun w => decide (1024 * k ≤ w) && decide (w < 1024 * k + 8)

/-- The 2,048 bytes of a sample behind its lines. -/
def State.sampleState (s : State) (t : Nat) : List Byte :=
  let T := s.tl t
  let core := s.clk.core
  let es := (T.checker.take 32).map fun x => x.sample core
  padTo 2048 (((List.range 32).map fun r => toLE 4 (T.reg r).toNat).flatten ++ toLE 4 (T.stream 0).pc ++ toLE 4 (s.cycle t) ++ toLE 1 T.mode ++
    toLE 1 ((List.range 6).foldl (fun n e => n + bit (T.working core e) * 2 ^ e) 0) ++ toLE 1 T.rstack.length ++ [0#8] ++
    ((List.range 16).map fun i => toLE 4 (T.rstack.getD i 0)).flatten ++ ((List.range 16).map fun k => toLE 1 (T.semCount k core)).flatten ++
    ([1, 2, 3, 4].map fun e => toLE 1 (SMap.get nilAt T.fifos e).length).flatten ++
    ((List.range 6).map fun e => toLE 4 (if T.mode = 1 then (T.stream e).pc else noneField)).flatten ++
    ((List.range 6).map fun e => toLE 4 (T.engineIndex e)).flatten ++ padTo 128 (T.cvu.image s.freeNat) ++
    es.flatten ++ List.replicate (1024 - 32 * es.length) 0xFF#8 ++ toLE 8 (T.badLines.foldl (fun n k => n + 2 ^ k) 0))

/-- The payload of a sample. -/
def State.samplePayload (s : State) (t : Nat) : List Byte :=
  let T := s.tl t
  let bad := T.badLines
  ((List.range 64).map fun k => if bad.contains k then List.replicate 256 0#8 else T.sp.read (32768 * k) 256).flatten ++ s.sampleState t

/-- SAMPLE_COMPLETE: hardware writes the sample of Tiller t into Almanac memory, and the reset starts (R347, R348). The CVU image of a unit
without an algorithm is free. -/
def execSampleComplete (t : Nat) (s : State) : Host.Outcome State Fault Refusal :=
  onUnit (t < 192) s
    (match (s.tl t).reset with
      | none => s
      | some r =>
        if !r.sample then s
        else
          let seq := s.nextSeq
          let rec2 : ARec := {
            type := 2, fault := r.cause, ctx := (s.tl t).ctxField, unit := t, engine := r.engines.headD 0xFF, signature := s.sigOf (s.tl t),
            detail := detail (toLE 4 (r.faultSeq.getD noneField)), payload := s.samplePayload t }
          ((s.almHw rec2).modT t fun T => { T with reset := some { r with sample := false, sampleSeq := some seq, start := some s.t3 } }).drawn)

/-! ### Engine resets and Tiller resets (R349 to R353) -/

/-- The record of an engine reset or a Tiller reset (13 R369). -/
def State.resetRec (s : State) (t : Nat) (r : ResetInfo) (type engine duration : Nat) (restarted : Bool) : ARec :=
  let T := s.tl t
  { type := type, fault := r.cause, level := type - 3, ctx := T.ctxField, unit := t, engine := engine, signature := s.sigOf T,
    detail := resetDetail r.cause engine r.escalated restarted duration (r.sampleSeq.getD noneField) }

/-- Result words of ENGINE_RESET (R354). -/
def ResetInfo.words (r : ResetInfo) : List Nat := [r.recSeq.getD noneField, r.sampleSeq.getD noneField]

/-- The context of a Tiller is being torn down. -/
def State.tearing (s : State) (t : Nat) : Bool := match (s.tl t).ctx with | some x => (s.ctx x).tear.isSome | none => false

/-- s with a reset of Tiller t finished: a restart waits for the next mesh frame, or the commands complete. -/
def State.endReset (s : State) (t : Nat) (r : ResetInfo) (restart : Bool) : State :=
  if restart then s.modT t fun T => { T with reset := some { r with engines := [], start := none, restart := true } }
  else (s.modT t fun T => { T with reset := none }).finishAll r.cmds stOk r.words

/-- ENGINE_RESET_DONE: the engines of Tiller t have been reset within 100 µs. A lane Tiller or a service Tiller of the prefix store goes on
with a Tiller reset (R349, R351, R352, R361). -/
def execEngineResetDone (t : Nat) (s : State) : Host.Outcome State Fault Refusal :=
  onUnit (t < 192) s
    (match (s.tl t).reset with
      | none => s
      | some r =>
        match r.start with
        | none => s
        | some t0 =>
          if r.engines.isEmpty || r.engines.contains 7 || s.after t0 (usec 100) then s
          else
            let es := dedup r.engines
            let s1 := es.foldl (fun s e => s.resetEngine t e) s
            let s2 := es.foldl (fun s e => s.almQueue (s.resetRec t r 3 e (s.nsSince t0) false)) s1
            let s3 := s2.faultNotice 0 r.cause (s.tl t).ctx
            let r' := { r with recSeq := some ((s2.nextSeq + 2 ^ 32 - 1) % 2 ^ 32) }
            if s.serves t && !s.tearing t then
              s3.modT t fun T => { T with reset := some { r' with engines := [7], start := some s.t3, restart := true } }
            else (s3.endReset t r' r.restart).sendReplays t)

/-- ENGINE_RESET_OVERRUN: 100 µs have passed; the reset of Tiller t becomes a Tiller reset (R352). -/
def execEngineResetOverrun (t : Nat) (s : State) : Host.Outcome State Fault Refusal :=
  onUnit (t < 192) s
    (match (s.tl t).reset with
      | none => s
      | some r =>
        match r.start with
        | none => s
        | some t0 =>
          if r.engines.isEmpty || r.engines.contains 7 || !s.after t0 (usec 100) then s
          else
            let s1 := (dedup r.engines).foldl (fun s e => s.almQueue (s.resetRec t r 3 e noneField false)) s
            s1.modT t fun T => { T with reset := some { r with
              engines := [7], start := some s.t3, escalated := true, recSeq := some ((s1.nextSeq + 2 ^ 32 - 1) % 2 ^ 32) } })

/-- s with what the prefix store held on a service Tiller gone: requests it was serving end as though dropped and its open puts are
discarded, their buffers freed (R351). -/
def State.dropStoreWork (s : State) (t : Nat) : State :=
  if s.pfx.on && s.pfx.tillers.contains t then
    let mine := s.pfx.puts.filter fun p => p.tiller == t
    (mine.foldl (fun s p => if p.refused || p.waitDemote then s else s.giveAddr p.addr) s).modPfx fun p =>
      { p with puts := p.puts.filter fun q => q.tiller != t }
  else s

/-- TILLER_RESET_DONE: Tiller t has been reset within 1 ms. When the loader's copy held an uncorrectable word the Tiller stays stopped
(R350, R351, R352, R361). -/
def execTillerResetDone (t : Nat) (eccBad : Bool) (s : State) : Host.Outcome State Fault Refusal :=
  onUnit (t < 192) s
    (match (s.tl t).reset with
      | none => s
      | some r =>
        match r.start with
        | none => s
        | some t0 =>
          if !r.engines.contains 7 || s.after t0 (msec 1) then s
          else
            let again := (r.restart || s.serves t) && !s.tearing t && !eccBad
            let s1 := (s.resetTiller t true).dropStoreWork t
            let seq := s1.nextSeq
            let s2 := (s1.almQueue (s1.resetRec t r 4 7 (s.nsSince t0) again)).faultNotice 1 r.cause (s.tl t).ctx
            let r' := { r with recSeq := some seq }
            if eccBad then
              let s3 := match (s.tl t).ctx with
                | some x => s2.ctxEvent x 2 stFaulted [x, t, faultEcc, noneField]
                | none => s2
              (s3.modT t fun T => { T with reset := none, run := if T.ctx.isSome then .faulted else T.run }).finishAll r.cmds stFaulted r'.words
            else (s2.endReset t r' again).sendReplays t)

/-- TILLER_RESET_OVERRUN: 1 ms has passed; the device becomes WEDGED (R352, R353, R354). -/
def execTillerResetOverrun (t : Nat) (s : State) : Host.Outcome State Fault Refusal :=
  onUnit (t < 192) s
    (match (s.tl t).reset with
      | none => s
      | some r =>
        match r.start with
        | none => s
        | some t0 =>
          if !r.engines.contains 7 || !s.after t0 (msec 1) then s
          else
            let seq := s.nextSeq
            let s1 := s.almQueue (s.resetRec t r 4 7 noneField false)
            ((s1.modT t fun T => { T with reset := none }).wedge seq r.cause).finishAll r.cmds stWedged [])

/-- TILLER_RESTART: at the first cycle of a mesh frame after its reset Tiller t starts at instruction 0 (R351); the commands
complete. In a WEDGED device nothing starts again (R353). -/
def execTillerRestart (t : Nat) (s : State) : Host.Outcome State Fault Refusal :=
  onUnit (t < 192) s
    (match (s.tl t).reset with
      | none => s
      | some r =>
        if !r.engines.isEmpty || !r.restart || s.clk.core % 256 ≠ 0 then s
        else if s.dev.state = .wedged then (s.modT t fun T => { T with reset := none }).finishAll r.cmds stWedged []
        else
          ((s.startTiller t).modT t fun T => { T with reset := none }).finishAll r.cmds stOk r.words)

/-! ### Commands (R354 to R356) -/

/-- s with a Tiller stopped for a reset, running or not: the steps of its slots are discarded and no event is written (R354, 05 R153). -/
def State.haltForReset (s : State) (t : Nat) : State :=
  if (s.tl t).run = TRun.running then
    let s1 := (s.modT t fun T => { T with run := .stopped, stopReq := false }).discardSteps t
    match (s.tl t).ctx with
    | some x => s1.stopCheck x
    | none => s1
  else s.discardSteps t

/-- ENGINE_RESET. One that finds a reset of the same unit in progress joins it (R354). -/
def execEngineReset (c : Nat) (s : State) : Host.Outcome State Fault Refusal :=
  runCmd 0x0A04 c s fun k s =>
    let u := fieldAt k.params 0 2
    let e := fieldAt k.params 2 1
    let f := fieldAt k.params 3 1
    let x := fieldAt k.params 4 4
    if e = 6 || 8 < e || 3 < f || (f % 2 = 1 && e ≠ 7) || (if e = 8 then 36 ≤ u || x ≠ 0 else 192 ≤ u) then s.finish c stBadParam
    else if e = 8 then
      let L := (s.port u).link
      if L.resetAt.isSome || (SMap.get noneAt s.fab.groupReset (u / 4)).isSome then s.modLink u fun L => { L with cmds := L.cmds ++ [c] }
      else (s.resetLink u 0).modLink u fun L => { L with cmds := [c] }
    else if !s.ctxOk x then s.finish c stContextGone
    else if !(s.ctx x).tillers.contains u then s.finish c stBadParam
    else if e = 1 && !s.harrow u then s.finish c stNotPresent
    else match (s.tl u).reset with
      | some r => s.modT u fun T => { T with reset := some { r with cmds := r.cmds ++ [c] } }
      | none =>
        (s.haltForReset u).modT u fun T => { T with reset := some {
          engines := [e], sample := f < 2, start := if f < 2 then none else some s.t3, restart := f % 2 == 1, cmds := [c] } }

/-- DIAG_SCRATCH_SAMPLE. -/
def execDiagScratchSample (c : Nat) (s : State) : Host.Outcome State Fault Refusal :=
  runCmd 0x0A03 c s fun k s =>
    let x := fieldAt k.params 12 4
    let t := fieldAt k.params 16 2
    let f := fieldAt k.params 18 1
    let a := fieldAt k.params 20 4
    let n := fieldAt k.params 24 4
    if 192 ≤ t || 1 < f || fieldAt k.params 19 1 ≠ 0 || a % 32 ≠ 0 || n % 32 ≠ 0 || n = 0 || 0x200000 < a + n then s.finish c stBadParam
    else if !s.ctxOk x then s.finish c stContextGone
    else if !(s.ctx x).tillers.contains t || ((s.tl t).run = TRun.running && (s.ctx x).started) then s.finish c stBadParam
    else
      let T := s.tl t
      let bad := T.spUe.filter fun w => decide (a ≤ 32 * w) && decide (32 * w < a + n)
      let m := bad.foldl (fun (m : Memory) w => m.clear (32 * w) 32) T.sp
      (s.finishData k [bad.length] (m.read a n ++ (if f = 1 then s.sampleState t else []))).drawn

/-- Tillers a 24-byte mask names, ascending. -/
def maskTillers (b : List Byte) : List Nat := (List.range 192).filter fun n => fieldAt b (n / 8) 1 / 2 ^ (n % 8) % 2 == 1

/-- A Tiller DIAG_SELFTEST may hold: it belongs to no context and nothing keeps its power domain off. -/
def State.testable (s : State) (t : Nat) : Bool := s.tillerFree t && !s.pwr.keepOff.getLsbD (t / 8)

/-- DIAG_SELFTEST: results holds two bytes per named Tiller, the engines that failed and whether a mesh link failed, as firmware found
them (log 50). A run that needs a domain which is off asks for it and begins once it is on. -/
def execDiagSelftest (c : Nat) (results : List Byte) (s0 : State) : Host.Outcome State Fault Refusal :=
  let named (k : Cmd) : List Nat := maskTillers (slice k.params 12 24)
  let proper (k : Cmd) : Bool := fieldAt k.params 36 1 ≤ 1 && allZero (k.params.drop 37)
  let off (k : Cmd) : List Nat := (dedup ((named k).map fun t => domTiller (t / 8))).filter fun d => !s0.domOn d
  match s0.cmd? c with
  | none => .next s0
  | some k =>
    if s0.live && k.opcode == 0x0A01 && s0.ready k && s0.served 0x0A01 && proper k && (named k).all s0.testable && !(off k).isEmpty then
      .next (s0.requestDomains (off k))
    else runCmd 0x0A01 c s0 fun k s =>
      if !proper k then s.finish c stBadParam
      else if !(named k).all s.testable then s.finish c stNoFit
      else
        let found := (List.range (named k).length).map fun i =>
          let t := (named k).getD i 0
          let fused := if s.harrow t then 0 else 2
          let failed := fieldAt results (2 * i) 1 % 64 &&& (63 - fused)
          let link := if fieldAt k.params 36 1 = 1 && fieldAt results (2 * i + 1) 1 % 2 = 1 then 2 else 0
          (t, failed, 63 - fused - failed, fused / 2 + link)
        let bad := found.filter fun r => r.2.1 ≠ 0 || 2 ≤ r.2.2.2
        let s1 := bad.foldl (fun s r => s.almQueue {
          type := 0x10, unit := r.1, detail := detail (toLE 2 r.1 ++ toLE 1 r.2.1 ++ toLE 1 (fieldAt k.params 36 1)) }) s
        s1.finishData k [] ((found.map fun r => toLE 1 r.2.2.1 ++ toLE 1 r.2.1 ++ toLE 1 r.2.2.2 ++ [0#8]).flatten)

end Sys2Proof.Machine
end

