-- ==== Sys2Proof/Machine/Warm.lean ====
section
/-!
DEFINITION. The warm reset (13 R358 to R360): acceptance, t0, the end of the pause, and its end. What the device does between t0 and
t0 + 50 µs happens at t0 in the model (log 60).
-/

namespace Sys2Proof.Machine

/-- The completion position latched at acceptance (R359). -/
def State.latchFor (s : State) (k : Cmd) : Option Latch :=
  match k.src with
  | .ring r =>
    let R := s.ring r
    let n := R.cplTail.toNat
    some { addr := R.cplBase.toNat + 32 * (n % R.nCpl), phase := (n / R.nCpl + 1) % 2, vector := R.vector, cmd := k.id, ring := r, tag := k.tag }
  | _ => none

/-- DEV_WARM_RESET: accepted unless a firmware activation is in progress, or a warm reset already; commands not yet taken up complete with
RETRY and outstanding posts with CONTEXT_GONE (R358). -/
def execDevWarmReset (c : Nat) (s : State) : Host.Outcome State Fault Refusal :=
  runCmd 0x0104 c s fun k s =>
    if s.fw.act.isSome || s.dev.warm.isSome then s.finish c stRetry
    else
      let s1 := (s.modDev fun d => { d with warm := some { cmd := c, accepted := s.t3 } }).modHost fun h => { h with latched := s.latchFor k }
      let s2 := (s1.host.cmds.filter fun x => !x.taken).foldl (fun s x => s.finish x.id stRetry) s1
      (s2.host.posts.foldl (fun s p => s.finish p.cmd stContextGone) s2).modHost fun h => { h with posts := [] }

/-- Every record but that of the warm reset has been written, or its ring has been full for 10 ms. -/
def State.recordsOut (s : State) (w : Warm) : Bool :=
  s.host.cmds.all (fun k => k.id == w.cmd) && s.host.dones.all fun d => s.after (max d.stamp w.accepted) (msec 10)

/-- s with the RW registers at their reset values (00 R7, 13 R360). -/
def State.resetRw (s : State) : State :=
  let s1 := s.modDev fun d => { d with
    bar4Window := 0#32, eventCfg := 0#32, scrubCfg := 0x0000_0E10_000A_0003#64, gleanerCfg := 0x0000_400A#32, hrxBase := 0#64, hrxCfg := 0x40#32
    hrxTail := 0#32, hrxHead := 0#32, mgmtCfg := 0x3F_FFFF_FFFF#64, wdogCfg := 0x0104_07D0#32 }
  let s2 := s1.modHost fun h => { h with rings := h.rings.foldr (fun p m => SMap.set ringAt p.1 { evLost := p.2.evLost } m) [] }
  (List.range 36).foldl (fun s p => s.modLink p fun L => { L with peerChanged := false }) s2

/-- s with a pause that every ACTIVE port sends. -/
def State.pauseAll (s : State) (us : Nat) : State :=
  (List.range 36).foldl (fun s p => s.modLink p fun L => if L.state = .active then { L with pauseTx := us, pausePend := true } else L) s

/-- Packets that wait for a forwarding decision. -/
def State.undecided (s : State) : List Pkt := ([0, 1, 2, 3].map fun i => (s.slice i).dq).flatten

/-- Packets decided: on a stream queue, being transmitted, or on their way to a Tiller. -/
def State.decided (s : State) : List Pkt :=
  (s.fab.sq.map (·.2)).flatten ++ (s.fab.txPkt.filterMap (·.2)) ++ s.fab.transit.map fun p => { p.2 with outPort := 37 }

/-- s with every packet held dropped as CONGESTION, the free lists and the reservations restored (R358). -/
def State.dropAll (s : State) : State :=
  let s1 := s.undecided.foldl (fun s p => s.count (ctrDrop p.inPort dropCongestion) 1) s
  let s2 := s.decided.foldl (fun s p => s.count (ctrDrop p.outPort dropCongestion) 1) s1
  let s3 := (s.tillers.map fun p => p.2.recvQ.length + p.2.strandedPkts.length).foldl (fun s n => s.count (ctrDrop 37 dropCongestion) n) s2
  let s3 := s.fab.stranded.foldl (fun s x => s.count (ctrDrop (if x.1.inPort = 36 then 36 else 37) dropCongestion) 1) s3
  (s3.modFab fun b => { b with
    sq := [], txPkt := [], transit := [], stranded := [], classUse := [], slotUse := [], quadFree := [196608, 196608, 196608, 196608]
    slices := b.slices.map fun p => (p.1, { p.2 with dq := [], holding := false }) }).modHost fun h => { h with admitQ := h.admitQ.filter fun p => p.kind != 1 }

/-- s with every context torn down, without samples or aborts: epochs advance, records are written, slots are FREE, queues are released, and
every Tiller is free with scratchpad and DMEM at 0. Buffers are released at the end of the reset. -/
def State.tearAll (s : State) : State :=
  let live := (s.ctxs.filter fun p => p.2.live).map (·.1)
  let s1 := live.foldl (fun s x =>
    let C := s.ctx x
    let s1 := { s with epochs := SMap.set zeroBits x (s.epoch x + 1#8) s.epochs }
    let s2 := s1.almQueue { type := 0x0F, ctx := x, signature := C.signature, detail := detail (toLE 4 (s1.epoch x).toNat ++ toLE 4 0) }
    C.queues.foldl (fun s q => (s.setQueues q 1 fun g => { g with weight := 1, owner := 1, ownerId := 0 }).modPolicer q fun p => p.write 0#128) s2) s
  let s2 := s1.slots.foldl (fun s p => (s.freeQueues (p.2.queues.map (·.2))).modSlot p.1 fun S => { prevGen := S.prevGen }) s1
  let s3 := if s.pfx.on then { s2 with epochs := SMap.set zeroBits s.pfx.ctx (s2.epoch s.pfx.ctx + 1#8) s2.epochs } else s2
  let s4 := (s3.tillers.map (·.1)).foldl State.loseResults s3
  { (s4.modFab fun b => { b with steer := [] }) with
    ctxs := [], tillers := [], shadow := none
    pfx := { s.pfx with on := false, tillers := [], blocks := [], dying := [], puts := [], slabList := [] } }

/-- WARM_RESET_T0: every record of a command taken up before is out, and the reset runs. In a WEDGED device it ends instead (R353, R358). -/
def execWarmResetT0 (s : State) : Host.Outcome State Fault Refusal :=
  onEvent s.live s
    (match s.dev.warm with
      | none => s
      | some w =>
        if w.t0.isSome || !s.recordsOut w then s
        else
          let s0 := s.modHost fun h => { h with dones := [] }
          if s.dev.state = .wedged then
            ((s0.modDev fun d => { d with warm := none }).modHost fun h => { h with latched := none }).finish w.cmd stWedged
          else
            let s1 := ((s0.modDev fun d => { d with warm := some { w with t0 := some s.t3 }, state := .booting }).resetRw).pauseAll 50
            let s2 := s1.dropAll.tearAll
            let s3 := (s2.modFab fun b => { b with drainPause := true, mailbox := [] }).modPwr fun p => { p with warmW := 0 }
            [0, 1, 2, 3, 4].foldl (fun s q => if s.dev.state = .wedged then s else s.fwpRestart q 4) s3)

/-- WARM_RESET_FORWARDING_RESUME: by t0 + 50 µs the pause ends, forwarding resumes and the FAULT_NOTICE of level 2 is sent. -/
def execWarmResetForwardingResume (s : State) : Host.Outcome State Fault Refusal :=
  onEvent s.live s
    (match s.dev.warm with
      | none => s
      | some w =>
        if w.t0.isNone || w.resumed then s
        else
          let s1 := ((s.modDev fun d => { d with warm := some { w with resumed := true } }).modFab fun b => { b with drainPause := false }).pauseAll 0
          s1.faultNotice 2 0 none)

/-- s with every buffer but those of the system functions released, and only their minima kept (R360). -/
def State.releaseBuffers (s : State) : State :=
  let s1 := s.modSeed fun b => { b with minima := b.minima.filter fun p => p.1 / 8 == 0x101 }
  (s1.buffersWhere fun e => e.owner != 0x101).foldl State.giveAddr s1

/-- WARM_RESET_DONE: all five processors run again: the buffers of what was torn down are released, the state is READY or ISOLATED, and the
record of DEV_WARM_RESET is written. A device that became WEDGED meanwhile ends it with WEDGED. -/
def execWarmResetDone (s : State) : Host.Outcome State Fault Refusal :=
  onEvent s.live s
    (match s.dev.warm with
      | none => s
      | some w =>
        match w.t0 with
        | none => s
        | some t0 =>
          if s.dev.state = .wedged && w.resumed then (s.modDev fun d => { d with warm := none }).finish w.cmd stWedged
          else if !w.resumed || s.dev.fwpUp ≠ 0x1F#5 then s
          else
            let s1 := (s.modDev fun d => { d with warm := none, state := if s.fw.isoDev then .isolated else .ready }).releaseBuffers
            (s1.almQueue { type := 6, level := 2, detail := resetDetail 0 0xFF false false (s.nsSince t0) noneField }).finish w.cmd stOk)

end Sys2Proof.Machine
end

