-- ==== Sys2Proof/Machine/Power.lean ====
section
/-!
DEFINITION. Power, heat and the coolant loop (file 14): switched domains, the Mulch tick, CORE_CLK changes, heat reporting, the throttle
ladder, and the commands of FWP-PWR. Powers are exact rationals in watts (log 19).
-/

namespace Sys2Proof.Machine

/-! ### Fields of MULCH_CFG (R388) -/

/-- A field of MULCH_CFG. -/
def Power.cfg (p : Power) (lo w : Nat) : Nat := p.mulchCfg.toNat / 2 ^ lo % 2 ^ w

/-- cap_w. -/
def Power.capW (p : Power) : Rat := (p.cfg 8 12 : Rat)

/-- r, the ramp limit in watts per tick (R376). -/
def Power.ramp (p : Power) : Rat := (p.cfg 0 7 : Rat) * 2400 / 100000

/-- i_limit_a. -/
def Power.iLimit (p : Power) : Nat := p.cfg 48 6

/-- min_step. -/
def Power.minStep (p : Power) : Nat := p.cfg 54 6

/-- A MULCH_CFG value keeps every field's range, and its reserved fields are 0. -/
def mulchOk (v : Nat) : Bool :=
  let f (lo w : Nat) : Nat := v / 2 ^ lo % 2 ^ w
  decide (1 ≤ f 0 7) && decide (f 0 7 ≤ 100) && decide (400 ≤ f 8 12) && decide (f 8 12 ≤ 2400) && decide (1 ≤ f 20 12) && decide (f 32 8 ≤ 100) &&
  decide (f 41 7 = 0) && decide (5 ≤ f 48 6) && decide (f 48 6 ≤ 42) && decide (17 ≤ f 54 6) && decide (f 54 6 ≤ 34) && decide (f 60 4 = 0)

/-! ### Measurements (R376) -/

/-- The readings a sampling command brings in (log 12). -/
def ofVals (v : SensorVals) : Sensors :=
  { tDie := v.tDie, tIn := v.tIn, tOut := v.tOut, flow := v.flow, vIn := v.vIn, iIn := v.iIn, pDom := v.pDom }

/-- s with the readings of a sample. -/
def State.sense (s : State) (v : SensorVals) : State := s.modPwr fun p => { p with sens := ofVals v }

/-- Heat into the coolant in W. -/
def Power.pThNow (p : Power) : Rat :=
  let rho : Rat := if p.cfg 7 1 = 0 then 103 / 25 else 98 / 25
  (p.sens.flow : Rat) / 60 * rho * (((p.sens.tOut - p.sens.tIn : Int) : Rat) / 16)

/-- Measured input power in W. -/
def Power.pENow (p : Power) : Rat := (p.sens.vIn : Rat) / 100 * ((p.sens.iIn : Rat) / 100)

/-- Measured power of the compute dies in W: the Tiller groups' (log 61). -/
def Power.diePower (p : Power) : Rat := ((List.range 24).foldl (fun n d => n + p.sens.pDom.getD d 0) 0 : Nat) / 4

/-! ### Live state and switched domains (01 R38, 14 R375, R386) -/

/-- A list of the Seedbank holds an allocated buffer. -/
def State.listInUse (s : State) (L : Nat) : Bool := (s.listEntries L).any fun p => p.2.alloc

/-- A fabric port is up. -/
def State.linkActive (s : State) (p : Nat) : Bool := decide ((s.port p).link.state = .active)

/-- Domain d holds live state. -/
def State.domLive (s : State) (d : Nat) : Bool :=
  if d < 24 then (List.range 8).any fun i => decide ((s.tl (8 * d + i)).owner ≠ .free) || (s.tl (8 * d + i)).ctx.isSome
  else if d < 33 then (List.range 4).any fun i => s.linkActive (4 * (d - 24) + i)
  else if d < 42 then (List.range 4).any fun i => s.linkActive (4 * (d - 33) + i)
  else if d < 44 then s.listInUse (16 + (d - 42)) || (s.pfx.blocks ++ s.pfx.dying).any fun b => cxlPort b.addr == some (d - 42)
  else if d < 48 then
    [0, 1, 2, 3].any (fun k => s.listInUse (4 * k + (d - 44))) || (s.pfx.blocks ++ s.pfx.dying).any fun b => isGddr b.addr && b.addr / dieBytes == d - 44
  else if d < 52 then decide (s.fab.quadFree.getD (d - 48) 196608 < 196608)
  else !(s.slice (d - 52)).dq.isEmpty || (List.range 36).any fun p => s.linkActive p && p / 9 == d - 52

/-- The fabric ports that domain d covers: those of an optical engine or of an electrical port group. -/
def domPorts (d : Nat) : List Nat :=
  if 24 ≤ d ∧ d < 33 then (List.range 4).map fun i => 4 * (d - 24) + i
  else if 33 ≤ d ∧ d < 42 then (List.range 4).map fun i => 4 * (d - 33) + i
  else []

/-- s with fabric port p held for POWER (09 R267). -/
def State.holdPower (s : State) (p : Nat) : State :=
  (s.modLink p fun L => { L with heldPower := true }).hold p 10 (s.port p).link.heldPower

/-- s with domain d starting to turn off: what it covers stops at once. -/
def State.beginOff (s : State) (d : Nat) : State :=
  let s1 := s.modPwr fun p => { p with domOn := SMap.set falseAt d false p.domOn, domOff := SMap.set noneAt d (some s.t3) p.domOff,
                                       domReq := SMap.set domReqAt d none p.domReq }
  let s2 := (domPorts d).foldl State.holdPower s1
  if d = 42 || d = 43 then (s2.cxlDown (d - 42)).modCxl (d - 42) fun x => { x with perstN := false } else s2

/-- s with every switched domain turning off and none requested. -/
def State.allOff (s : State) : State :=
  let s1 := (List.range 56).foldl (fun s d => if s.domOn d then s.beginOff d else s) s
  s1.modPwr fun p => { p with domReq := (List.range 56).foldl (fun m d => SMap.set domReqAt d none m) p.domReq }

/-- Place of domain d in the order of power-up (15 R392 step 5). -/
def domRank (d : Nat) : Nat := if d < 24 then 6 else if d < 33 then 3 else if d < 42 then 2 else if d < 44 then 5 else if d < 48 then 4 else if d < 52 then 1 else 0

/-- A request to turn domain d on waits, and nothing forbids it. -/
def State.domWanted (s : State) (d : Nat) : Bool :=
  (SMap.get domReqAt s.pwr.domReq d).isSome && !s.domOn d && (SMap.get noneAt s.pwr.domOff d).isNone && !s.pwr.keepOff.getLsbD d && !s.pwr.causes.getLsbD 4

/-- Domain d waits in power-up for the domains before it. -/
def State.domBehind (s : State) (d : Nat) : Bool :=
  decide (SMap.get domReqAt s.pwr.domReq d = some 0) && (List.range 56).any fun e =>
    decide (domRank e < domRank d) && s.domWanted e && decide (SMap.get domReqAt s.pwr.domReq e = some 0)

/-- s with fabric port p no longer held for POWER, once its engine and its group are both on. -/
def State.freePower (s : State) (p : Nat) : State :=
  if s.domOn (domOe (p / 4)) && s.domOn (domGroup (p / 4)) then (s.modLink p fun L => { L with heldPower := false }).unhold p else s

/-- DOMAIN_POWER_ON_DONE: a requested domain finishes turning on, within 500 µs of the request. -/
def execDomainPowerOnDone (d : Nat) (s : State) : Host.Outcome State Fault Refusal :=
  onUnit (d < 56) s
    (if s.domWanted d && !s.domBehind d then
      let s1 := s.modPwr fun p => { p with domOn := SMap.set falseAt d true p.domOn, domReq := SMap.set domReqAt d none p.domReq,
                                           domIdle := SMap.set zeroAt d s.t3 p.domIdle }
      let s2 := (domPorts d).foldl State.freePower s1
      if d = 42 || d = 43 then s2.modCxl (d - 42) fun x => { x with clearAt := s.now }
      else if 44 ≤ d && d < 48 then
        [0, 1, 2, 3].foldl (fun s k => s.sbServe (4 * k + (d - 44))) ((List.range 6).foldl (fun s j => s.passFromNow (6 * (d - 44) + j)) s2)
      else s2
     else s)

/-- DOMAIN_POWER_OFF_DONE: a domain finishes turning off, within 100 µs. -/
def execDomainPowerOffDone (d : Nat) (s : State) : Host.Outcome State Fault Refusal :=
  if 56 ≤ d then .refused .noSuchUnit
  else onEvent (s.pwr.phase = .running || s.pwr.phase = .held) s (s.modPwr fun p => { p with domOff := SMap.set noneAt d none p.domOff })

/-- DOMAIN_IDLE_EXPIRY: with auto_off, Mulch turns off a domain that it has found without live state for 1 s (R375, log 61). -/
def execDomainIdleExpiry (d : Nat) (s : State) : Host.Outcome State Fault Refusal :=
  onUnit (d < 56) s
    (if s.pwr.mulchCfg.getLsbD 40 && s.fwpUp fwpPwr && s.domOn d && !s.domLive d && s.after (SMap.get zeroAt s.pwr.domIdle d) (msec 1001) then s.beginOff d
     else s)

/-- s with the domains that hold live state noted at this tick. -/
def State.noteLive (s : State) : State :=
  s.modPwr fun p => { p with domIdle := ((List.range 56).filter fun d => s.domOn d && s.domLive d).foldl (fun m d => SMap.set zeroAt d s.t3 m) p.domIdle }

/-! ### CORE_CLK changes (R377; 12 R335) -/

/-- DEV_MODE.deterministic holds a CORE_CLK change back: some Tiller of a started context is inside a step. -/
def State.clkHeld (s : State) : Bool :=
  s.dev.mode.getLsbD 0 && s.ctxs.any fun p => p.2.started && p.2.tillers.any fun t => !s.atBoundary t

/-- s with a CORE_CLK change to a frequency requested; it begins at once where nothing holds it. -/
def State.requestClk (s : State) (mhz : Nat) : State :=
  if s.pwr.clkStep.isNone && !s.clkHeld then s.modPwr fun p => { p with clkReq := none, clkStep := some (mhz, s.t3) }
  else s.modPwr fun p => { p with clkReq := some mhz }

/-- CORE_CLK_CHANGE_APPLY: a change that waits takes effect in the first cycle in which every Tiller of every started context is halted,
faulted or held at an idle STEP_END. -/
def execCoreClkChangeApply (s : State) : Host.Outcome State Fault Refusal :=
  onEvent s.live s
    (match s.pwr.clkReq with
      | none => s
      | some m => if s.pwr.clkStep.isSome || s.clkHeld then s else s.modPwr fun p => { p with clkReq := none, clkStep := some (m, s.t3) })

/-- CORE_CLK_STEP_DONE: the step completes, within 10 µs; CORE_CLK has run throughout. A Tiller that has started inside a step meanwhile holds
the change back once more (12 R335). -/
def execCoreClkStepDone (s : State) : Host.Outcome State Fault Refusal :=
  onEvent s.live s
    (match s.pwr.clkStep with
      | none => s
      | some (m, _) => if s.clkHeld then s else { s.modPwr fun p => { p with clkStep := none } with clk := { s.clk with coreMHz := m } })

/-- The frequency one step up or down from the one in force, within min_step and 1,700 MHz; one below min_step goes up (log 61). -/
def State.clkStepTo (s : State) (up : Bool) : Option Nat :=
  let f := s.clk.coreMHz
  let lo := 50 * s.pwr.minStep
  if f < lo then some (f + 50) else if up then (if f + 50 ≤ 1700 then some (f + 50) else none) else if lo + 50 ≤ f then some (f - 50) else none

/-! ### The control tick (R376 to R381, R371) -/

/-- The derating curve (R380). -/
def derate (t : Rat) : Rat := if t ≤ 55 then 2400 else if t ≤ 65 then 2400 - 120 * (t - 55) else 1200

/-- Power that idle Trellis engines of some Tillers can burn: 4.0 W for each powered one. -/
def State.warmOf (s : State) (l : List Nat) : Rat := 4 * ((l.filter fun t => s.domOn (domTiller (t / 8)) && !(s.tl t).working s.clk.core 2).length : Rat)

/-- warm_avail. -/
def State.warmAvail (s : State) : Rat := s.warmOf (List.range 192)

/-- A shadow run holds its die's temperature now. -/
def State.holding371 (s : State) : Option Shadow := s.shadow.filter fun h => h.hold && h.stage == 2

/-- The load of the hold in this tick: how far Mulch raises or lowers it is free, within the cap, the ramp, 720 W and the idle engines of
the die's free Tillers (R371, log 61). -/
def State.holdLoad (s : State) (room : Rat) : Rat :=
  match s.holding371 with
  | none => 0
  | some h =>
    let mine := (List.range 192).filter fun t => dieOf t == dieOf h.dst && ((s.tl t).owner = .free || t == h.dst)
    min (min (s.freeNat : Rat) (max 0 room)) (min 720 (s.warmOf mine))

/-- s with the shadow run's temperature judged: within 1 °C of hold_temp or not. -/
def State.judgeHold (s : State) : State :=
  match s.holding371 with
  | none => s
  | some h =>
    let gap := (s.dieTemp h.dst - h.temp).natAbs
    { s with shadow := some { h with okSince := if gap ≤ 16 then (match h.okSince with | some t => some t | none => some s.t3) else none } }

/-- What a tick computes before it acts: p_lag, cap, u, l and L. -/
structure Tick where
  /-- p_lag -/
  lag : Rat
  /-- cap -/
  cap : Rat
  /-- A as the tick finds it -/
  a : Rat
  /-- u -/
  u : Rat
  /-- l -/
  l : Rat
  /-- L -/
  load : Rat
  deriving DecidableEq, Repr

/-- The first steps of R376 on the readings held. -/
def Power.tick (p : Power) : Tick :=
  let pth := p.pThNow
  let pe := p.pENow
  let lag0 := p.pLag.getD pth
  let lag := lag0 + (pth - lag0) * (1 / 1000) / (p.cfg 20 12 : Rat)
  let tIn : Rat := (p.sens.tIn : Rat) / 16
  let tPred := max tIn (tIn + (p.cfg 32 8 : Rat) / 10 * (pth - lag) / 1000)
  let rho : Rat := if p.cfg 7 1 = 0 then 103 / 25 else 98 / 25
  let cap := min (min p.capW (derate tPred)) (max 400 ((p.sens.flow : Rat) / 60 * rho * (70 - tIn)))
  let a := if p.setAToPe then pe else p.allowA
  let u := min cap (a + p.ramp)
  let floor : Rat := if p.rung = 0 then (p.floorW : Rat) else 0
  { lag := lag, cap := cap, a := a, u := u, l := min (max floor (a - p.ramp)) u, load := pe - p.warmW }

/-- s with the CORE_CLK step of a tick requested. -/
def State.tickClk (s : State) (k : Tick) : State :=
  let step := s.pwr.diePower * 50 / (s.clk.coreMHz : Rat)
  let want (up : Bool) : State := match s.clkStepTo up with | some m => s.requestClk m | none => s
  if k.u < k.load then want false else if k.load + step ≤ k.u then want true else if s.clk.coreMHz < 50 * s.pwr.minStep then want true else s

/-- W of a tick. -/
def State.tickWarm (s : State) (k : Tick) : Rat :=
  if s.pwr.rung = 0 then max (min (min (max 0 (k.l - k.load)) 720) s.warmAvail) (s.holdLoad (k.u - k.load)) else 0

/-- MULCH_TICK: the 1 ms tick on the readings v. -/
def execMulchTick (v : SensorVals) (s : State) : Host.Outcome State Fault Refusal :=
  onEvent (s.live && s.fwpUp fwpPwr && decide (s.pwr.nextTick ≤ s.now)) s
    (let s1 := s.sense v
     let k := s1.pwr.tick
     let w := s1.tickWarm k
     let p1 := s1.pwr
     let s2 := (s1.tickClk k).modPwr fun p => { p with
       warmW := w, allowA := min (max (k.load + w) (k.a - p1.ramp)) (k.a + p1.ramp), setAToPe := false, pLag := some k.lag, cap := k.cap
       pTh := p1.pThNow, pE := p1.pENow, derating := decide (k.cap < p1.capW), floorShort := decide (w < k.l - k.load)
       rampOverMs := (p.rampOverMs + bit (k.u < k.load + w)) % 2 ^ 32, floorShortMs := (p.floorShortMs + bit (w < k.l - k.load)) % 2 ^ 32
       tickTime := s.now, nextTick := (s.now / 1000000 + 1) * 1000000 }
     let s3 := s2.judgeHold.noteLive
     if s1.holding371.isSome then s3.drawn else s3)

/-! ### Heat (R382, R383) -/

/-- ENERGY_INTEGRATION: every millisecond p_th, p_e and W are added to the energy counters, in millijoules; firmware takes no part. -/
def execEnergyIntegration (v : SensorVals) (s : State) : Host.Outcome State Fault Refusal :=
  onEvent (s.live && decide (s.pwr.nextInt ≤ s.now)) s
    ((s.rollWindow.sense v).modPwr fun p => { p with
      heat := p.heat + p.pThNow, elec := p.elec + p.pENow, warmE := p.warmE + p.warmW, winSum := p.winSum + p.pThNow, winN := p.winN + 1
      nextInt := (s.now / 1000000 + 1) * 1000000 })

/-- A power in units of 0.1 W; what a negative one reads as is free (log 61). -/
def State.tenths (s : State) (x : Rat) : Nat := if x < 0 then s.freeNat % 2 ^ 32 else (x * 10).floor.toNat

/-- An energy counter as 64 bits. -/
def energyBits (x : Rat) : Nat := (x.floor % 2 ^ 64).toNat

/-- The 80 bytes of HEAT_REPORT. -/
def State.heatReport (s : State) : List Byte :=
  let p := s.pwr
  toLE 8 p.tickTime ++ toLE 8 (energyBits p.heat) ++ toLE 8 (energyBits p.elec) ++ toLE 8 (energyBits p.warmE) ++ toLE 4 (s.tenths p.pTh) ++
  toLE 4 (s.tenths p.pE) ++ toLE 4 (s.tenths (p.pLag.getD p.pTh)) ++ toLE 2 (p.sens.tIn % 65536).toNat ++ toLE 2 (p.sens.tOut % 65536).toNat ++
  toLE 2 p.sens.flow ++ toLE 2 p.cap.floor.toNat ++ toLE 2 p.floorW ++ toLE 2 s.warmWatts ++ toLE 1 p.rung ++
  toLE 1 (bit p.derating + 2 * bit p.floorShort + 4 * bit p.clkReq.isSome) ++ [0#8, 0#8] ++ toLE 4 p.rampOverMs ++ toLE 4 p.floorShortMs ++
  toLE 4 (s.tenths p.winPth) ++ List.replicate 8 0#8

/-- HEAT_REPORT. -/
def execHeatReport (c : Nat) (s : State) : Host.Outcome State Fault Refusal := runCmd 0x0903 c s fun k s => (s.rollWindow.finishData k [] s.rollWindow.heatReport).drawn

/-! ### PWR_POLICY and PWR_FLOOR (R388) -/

/-- PWR_POLICY. A domain newly kept off is turned off; one kept off no longer is asked for again (log 61). -/
def execPwrPolicy (c : Nat) (s : State) : Host.Outcome State Fault Refusal :=
  runCmd 0x0901 c s fun k s =>
    let cfg := fieldAt k.params 0 8
    let keep := fieldAt k.params 8 8
    if !mulchOk cfg || 2 ^ 56 ≤ keep || (List.range 56).any (fun d => keep / 2 ^ d % 2 == 1 && s.domLive d) then s.finish c stBadParam
    else
      let off := (List.range 56).filter fun d => keep / 2 ^ d % 2 == 1 && s.domOn d
      let again := (List.range 56).filter fun d => keep / 2 ^ d % 2 == 0 && s.pwr.keepOff.getLsbD d
      let s1 := s.modPwr fun p => { p with mulchCfg := BitVec.ofNat 64 cfg, keepOff := BitVec.ofNat 64 keep }
      ((off.foldl State.beginOff s1).requestDomains again).finish c stOk

/-- PWR_FLOOR. -/
def execPwrFloor (c : Nat) (s : State) : Host.Outcome State Fault Refusal :=
  runCmd 0x0902 c s fun k s =>
    let f := fieldAt k.params 0 2
    if (1 ≤ f && f < 100) || 2400 < f || fieldAt k.params 2 2 ≠ 0 then s.finish c stBadParam
    else (s.modPwr fun p => { p with floorW := f }).finish c stOk [s.warmAvail.floor.toNat]

/-! ### The throttle ladder (R384 to R386) -/

/-- Causes whose value lies beyond the threshold: bit c - 1 for code c. -/
def Power.over (p : Power) : BitVec 5 :=
  let x := p.sens
  BitVec.ofNat 5 (bit (x.tDie.any fun t => decide (1680 ≤ t)) + 2 * bit (x.vIn < 5800) + 4 * bit (8000 < x.vIn) + 8 * bit (100 * p.iLimit < x.iIn) +
    16 * bit (x.tDie.any fun t => decide (2000 ≤ t)))

/-- Every value lies inside its release limit. -/
def Power.inside (p : Power) : Bool :=
  let x := p.sens
  x.tDie.all (fun t => decide (t < 1600)) && decide (5900 ≤ x.vIn) && decide (x.vIn ≤ 7900) && decide (x.iIn + 100 < 100 * p.iLimit)

/-- The hottest junction of a sample, or t where that is hotter. -/
def Sensors.hottest (x : Sensors) (t : Int) : Int := x.tDie.foldl max t

/-- The input voltage farther from the nominal 72 V (log 61). -/
def fartherVin (a b : Nat) : Nat := if ((a : Int) - 7200).natAbs < ((b : Int) - 7200).natAbs then b else a

/-- Comparators sample in the held cold reset and while the module runs (15 R392 step 2). -/
def Power.alive (p : Power) : Bool := decide (p.phase = .held) || decide (p.phase = .running)

/-- Time in ns that runs in the always-on domain, the held cold reset included. -/
def State.aonNs (s : State) : Nat := s.clk.third / 3

/-- EMERGENCY_SAMPLE: the comparators' sample of every 10 µs. -/
def execEmergencySample (v : SensorVals) (s : State) : Host.Outcome State Fault Refusal :=
  onEvent (s.pwr.alive && decide (s.pwr.nextSample ≤ s.aonNs)) s
    ((s.sense v).modPwr fun p => { p with
      due := p.over &&& p.beyond, beyond := p.over
      insideSince := if p.inside then (match p.insideSince with | some t => some t | none => some s.t3) else none
      emTj := if p.rung = 0 then p.emTj else p.sens.hottest p.emTj
      emVin := if p.rung = 0 then p.emVin else fartherVin p.emVin p.sens.vIn
      nextSample := (s.aonNs / 10000 + 1) * 10000 })

/-- EMERGENCY_BEGIN: a cause lies beyond its threshold for the second sample in a row: the ladder enters rung 1, warm-keeping stops, and at
the start of an emergency the event is written. THERMAL_TRIP turns every domain off and makes the device WEDGED (R386). -/
def execEmergencyBegin (s : State) : Host.Outcome State Fault Refusal :=
  onEvent (s.live && decide (s.pwr.due &&& ~~~ s.pwr.causes ≠ 0#5)) s
    (let m := s.pwr.causes ||| s.pwr.due
     let fresh := s.pwr.rung = 0
     let s1 := s.modPwr fun p => { p with
       causes := m, emMask := if fresh then m else p.emMask ||| m, rung := max 1 p.rung, emRung := if fresh then 1 else p.emRung
       rungAt := if p.causes = 0#5 then s.t3 else p.rungAt, emStart := if fresh then s.t3 else p.emStart, warmW := 0
       emTj := if fresh then p.sens.hottest (p.sens.tDie.headD 0) else p.emTj, emVin := if fresh then p.sens.vIn else p.emVin }
     let s2 := if fresh then (s1.modDev fun d => { d with emergency := true }).devEvent 5 stOk [1, m.toNat] else s1
     if m.getLsbD 4 && !s.pwr.causes.getLsbD 4 then (if s.dev.state = .wedged then s2.allOff else s2.allOff.wedge noneField 0) else s2)

/-- EMERGENCY_CLEAR: every value has stayed inside its release limit for 10 ms. A THERMAL_TRIP has no release limit. -/
def execEmergencyClear (s : State) : Host.Outcome State Fault Refusal :=
  onEvent (s.live && decide (s.pwr.causes ≠ 0#5) && (match s.pwr.insideSince with | some t => s.after t (msec 10) | none => false)) s
    (s.modPwr fun p => { p with causes := p.causes &&& 0x10#5, rungAt := if p.causes.getLsbD 4 then p.rungAt else s.t3 })

/-- LADDER_CLIMB: one rung for every 100 µs that a condition persists. -/
def execLadderClimb (s : State) : Host.Outcome State Fault Refusal :=
  onEvent (s.live && decide (s.pwr.causes ≠ 0#5) && decide (s.pwr.rung < 4) && s.after s.pwr.rungAt (usec 100)) s
    (s.modPwr fun p => { p with rung := p.rung + 1, emRung := max p.emRung (p.rung + 1), rungAt := p.rungAt + usec 100 })

/-- The record of an emergency (R385). -/
def State.emergencyRec (s : State) : ARec :=
  let p := s.pwr
  { type := 0x0C, detail := detail (toLE 1 p.emMask.toNat ++ toLE 1 p.emRung ++ [0#8, 0#8] ++ toLE 4 ((s.t3 - p.emStart) / 3000) ++
      toLE 2 (p.emTj % 65536).toNat ++ toLE 2 p.emVin) }

/-- LADDER_DESCEND: one rung every 10 ms once every condition has cleared; at rung 0 the emergency ends with its event and its record,
and A becomes the measured p_e at the next tick (R387). -/
def execLadderDescend (s : State) : Host.Outcome State Fault Refusal :=
  onEvent (s.live && decide (s.pwr.causes = 0#5) && decide (0 < s.pwr.rung) && s.after s.pwr.rungAt (msec 10)) s
    (let s1 := s.modPwr fun p => { p with rung := p.rung - 1, rungAt := p.rungAt + msec 10 }
     if s.pwr.rung = 1 then
      (((s1.modDev fun d => { d with emergency := false }).modPwr fun p => { p with setAToPe := true }).almQueue s.emergencyRec).devEvent 5 stOk
        [0, s.pwr.causes.toNat]
     else s1)

/-! ### Time in which CORE_CLK stands (R385) -/

/-- The ladder removes the CORE_CLK cycle in progress: rung 2, 3 or 4 stops 1, 2 or 3 cycles in every 4. Which of the four is the model's
choice (log 18). -/
def State.coreStopped (s : State) : Bool := decide (s.clk.gate + 1 < s.pwr.rung)

/-- s with one more third of stopped CORE_CLK. -/
def State.skipThird (s : State) : State := { s with tillers := s.tillers.map fun p => (p.1, p.2.skipThird) }

end Sys2Proof.Machine
end

