-- ==== Sys2Proof/Machine/Pins.lean ====
section
/-!
DEFINITION. Power-up, cold reset, reference clocks, PERST_N, the management interface and the test access port (file 15; 13 R357).
-/

namespace Sys2Proof.Machine

/-! ### What a cold reset and a loss of power leave (13 R357, R360, R367; 15 R393) -/

/-- The host interface after a cold reset: what the device has written to host memory stays there. -/
def HostIf.cold (h : HostIf) : HostIf := { mem := h.mem, nextId := h.nextId, sent := h.sent }

/-- The device registers after a cold reset: the straps sampled, PERST_N, the management target and the TAP are kept. -/
def Dev.cold (d : Dev) : Dev :=
  { boardId := d.boardId, perstN := d.perstN, bootCnt := d.bootCnt, tapInst := d.tapInst, mgProto := d.mgProto, mgAddr := d.mgAddr, mgBlock := d.mgBlock,
    mgOut := d.mgOut, fabrefOk := d.fabrefOk, pcieWidth := d.pcieWidth, pcieGen := d.pcieGen }

/-- Firmware after a cold reset: the flash stores are kept, and where the identity key stands. -/
def Firmware.cold (w : Firmware) : Firmware := { flash := w.flash, hssIdx := w.hssIdx, treeReady := w.treeReady }

/-- The memory tiers after a cold reset: their contents are not promised (log 5); the reference clocks of the CXL ports stay as they are. -/
def MemTier.cold (m : MemTier) : MemTier :=
  { cxl := [0, 1].foldl (fun c k => SMap.set cxlAt k { refOk := (SMap.get cxlAt m.cxl k).refOk } c) [] }

/-- The ports after a cold reset: those of a feed without light are HELD for LASER_LOW (09 R254), and those the isolation store names are
isolated (11 R327). -/
def State.coldPorts (s : State) : State :=
  let s1 := (List.range 18).foldl (fun s i =>
    if (s.oe (i / 2)).feedLow.getLsbD (i % 2) then (feedPorts (i / 2) (i % 2)).foldl (fun s p =>
      (s.countLink p (cDowns + 7) 1).modLink p fun L => { L with heldLaser := true, state := .held, reason := 7 }) s else s) s
  (List.range 36).foldl (fun s p => if s.portIsolated p then s.modLink p fun L => { L with state := .isolated } else s) s1

/-- s with everything that a cold reset clears at its reset value, in a phase of power. -/
def State.cold (s : State) (phase : PowerPhase) : State :=
  State.coldPorts
    { State.reset with
      pending := s.pending
      freeCtr := s.freeCtr
      part := s.part
      pwr := { phase := phase, pwrOk := s.pwr.pwrOk, modRstN := s.pwr.modRstN, sens := s.pwr.sens }
      dev := s.dev.cold
      host := s.host.cold
      oes := s.oes
      mem := s.mem.cold
      fw := s.fw.cold
      alm := { s.alm with waiting := [] } }

/-- s with the cold reset begun and held; the boot counter counts it (13 R368). -/
def State.coldReset (s : State) : State :=
  (s.cold .held).modDev fun d => { d with bootCnt := (d.bootCnt + 1) % 256 }

/-- s without power: Almanac memory is lost too, the boot counter is 0, the indices reserved are skipped at the next boot (11 R323), and the
management target is to choose its protocol afresh. -/
def State.unpowered (s : State) (phase : PowerPhase) : State :=
  let s1 := s.cold phase
  { s1 with
    alm := {}
    dev := { s1.dev with bootCnt := 0, tapInst := .idcode, mgProto := none, mgAddr := 0x3C, mgBlock := [], mgOut := none }
    fw := { s1.fw with hssIdx := s1.fw.nextResv } }

/-! ### Power-up, cold reset and power-down (15 R391 to R393) -/

/-- INPUT_POWER_UP: both blade pairs stand at 57 V or above, volts in 10 mV, and the converters start. -/
def execInputPowerUp (volts : List Nat) (s : State) : Host.Outcome State Fault Refusal :=
  onEvent (s.pwr.phase = .off && decide (volts.length = 2) && volts.all fun v => decide (5700 ≤ v)) s (s.modPwr fun p => { p with phase := .converters })

/-- VAON_IN_REGULATION: the always-on domain runs, with the cold reset held. -/
def execVaonInRegulation (s : State) : Host.Outcome State Fault Refusal :=
  onEvent (s.pwr.phase = .converters) s
    ({ s with clk := {} }.modPwr fun p => { p with phase := .held, readySince := some 0, pwrOk := false, modRstN := false })

/-- POWER_DOWN: either pair falls below 54 V. -/
def execPowerDown (s : State) : Host.Outcome State Fault Refusal :=
  onEvent (s.pwr.phase ≠ .off) s ((s.unpowered .off).modPwr fun p => { p with pwrOk := false, modRstN := false })

/-- s with the 10 ms before a release to be counted from a time. -/
def State.waitReady (s : State) (from3 : Nat) : State := s.modPwr fun p => { p with readySince := some from3 }

/-- COLD_RESET_REQUEST: MOD_RST_N or PWR_OK is low for at least 10 µs. In a cold reset already held, the wait for its release starts again. -/
def execColdResetRequest (s : State) : Host.Outcome State Fault Refusal :=
  onEvent s.pwr.alive s
    (let s1 := if s.live then s.coldReset else s
     (s1.waitReady s1.t3).modPwr fun p => { p with modRstN := false })

/-- COLD_RESET_RELEASE: PWR_OK and MOD_RST_N have been high for 10 ms: BOARD_ID is sampled, the time base starts at 0, the domains are asked
for, and boot begins; with PERST_N high the host link trains. -/
def execColdResetRelease (board : Nat) (s : State) : Host.Outcome State Fault Refusal :=
  onEvent (s.pwr.phase = .held && (match s.pwr.readySince with | some t => s.after t (msec 10) | none => false)) s
    ({ (s.modPwr fun p => { p with
        phase := .running, readySince := none, pwrOk := true, modRstN := true, nextSample := 0
        insideSince := match p.insideSince with | some _ => some 0 | none => none }) with clk := {} }.modDev fun d =>
      { d with boardId := BitVec.ofNat 6 board, fabrefOk := true, pcieUp := d.perstN && pcieTrains d.pcieWidth d.pcieGen, mgNext := 0 })

/-- FABREF_LOSS: FABREF has been absent for 1 µs: the cold reset is held until FABREF has been stable for 1 ms and 10 ms more have passed. -/
def execFabrefLoss (s : State) : Host.Outcome State Fault Refusal :=
  onEvent s.pwr.alive s
    (let s1 := if s.live then s.coldReset else s
     (s1.waitReady (s1.t3 + msec 1)).modDev fun d => { d with fabrefOk := false })

/-! ### PERST_N and the reference clocks (13 R357; 15 R392, R396) -/

/-- s with the PCIe function, the ring register sets and the host's registers at their reset values; records of fetched commands are
discarded. -/
def State.perst (s : State) : State :=
  let s1 := s.modDev fun d => { d with perstN := false, pcieUp := false, eventCfg := 0#32, hrxBase := 0#64, hrxCfg := 0x40#32, hrxHead := 0#32, bar4Window := 0#32 }
  s1.modHost fun h => { h with
    rings := h.rings.foldr (fun p m => SMap.set ringAt p.1 { evLost := p.2.evLost } m) []
    cmds := h.cmds.map fun k => (match k.src with | .ring _ => { k with src := .gone } | _ => k)
    dones := h.dones.filter fun d => (match d.src with | .ring _ => false | _ => true)
    msix := [], pba := [], latched := none }

/-- PERST_N_ASSERT. -/
def execPerstNAssert (s : State) : Host.Outcome State Fault Refusal := onEvent (s.pwr.phase ≠ .off) s s.perst

/-- PERST_N_DEASSERT: the host link trains, once the cold reset is released, with the lanes and the generation that its partner brings up; a
narrower link stays in Detect (10 R279). -/
def execPerstNDeassert (width gen : Nat) (s : State) : Host.Outcome State Fault Refusal :=
  onEvent (s.pwr.phase ≠ .off) s
    (s.modDev fun d => { d with perstN := true, pcieWidth := width, pcieGen := gen, pcieUp := s.live && pcieTrains width gen })

/-- HOST_REFCLK_LOSS: the PCIe link goes down, and nothing else changes. -/
def execHostRefclkLoss (s : State) : Host.Outcome State Fault Refusal := onEvent s.live s (s.modDev fun d => { d with pcieUp := false })

/-- CXL_PERST_RELEASE: CXL port k raises its PERST_N 1 ms after its domain is on and its reference is present. -/
def execCxlPerstRelease (k : Nat) (s : State) : Host.Outcome State Fault Refusal :=
  onUnit (k < 2) s
    (if s.domOn (domCxl k) && (s.cxl k).refOk && decide ((s.cxl k).clearAt + 1000000 ≤ s.now) then s.modCxl k fun x => { x with perstN := true } else s)

/-! ### Management interface (15 R398) -/

/-- The first 62 bytes of the management status block. -/
def State.mgmtBody (s : State) : List Byte :=
  let p := s.pwr
  let s16 (i : Int) : List Byte := toLE 2 (i % 65536).toNat
  toLE 1 (if s.live then s.dev.state.code else 0xFF) ++ toLE 1 p.rung ++ toLE 1 p.causes.toNat ++ toLE 1 s.dev.fwpUp.toNat ++
  toLE 8 (if s.live then s.now else 0) ++ ((List.range 5).map fun i => s16 (p.sens.tDie.getD i 0)).flatten ++ s16 p.sens.tIn ++ s16 p.sens.tOut ++
  toLE 2 p.sens.flow ++ toLE 2 p.sens.vIn ++ toLE 2 p.sens.iIn ++ toLE 4 (s.tenths p.pENow) ++ toLE 4 (s.tenths p.pThNow) ++ toLE 8 (energyBits p.heat) ++
  padTo 12 s.part.serial ++ toLE 1 s.dev.boardId.toNat ++ [0xA1#8]

/-- The management status block: its check is CRC-16/CCITT over bytes 0 to 61. -/
def State.mgmtBlock (s : State) : List Byte := s.mgmtBody ++ toLE 2 (crc16 s.mgmtBody).toNat

/-- MGMT_BLOCK_REFRESH: every millisecond the status block is taken afresh. -/
def execMgmtBlockRefresh (s : State) : Host.Outcome State Fault Refusal :=
  onEvent (s.pwr.alive && decide (s.dev.mgNext ≤ s.aonNs)) s
    ((s.modDev fun d => { d with mgBlock := s.mgmtBlock, mgNext := (s.aonNs / 1000000 + 1) * 1000000 }).drawn)

/-- MGMT_STATUS_READ: a write of command byte cmd and a read of len bytes: command byte 0 returns the block as last refreshed, any other is not
acknowledged. Before the first refresh the block is taken now; bytes past it are free. Which of its two protocols a first read chooses is
free too (log 62). -/
def execMgmtStatusRead (cmd len : Nat) (s : State) : Host.Outcome State Fault Refusal :=
  onEvent s.pwr.alive s
    (let s1 := s.modDev fun d => { d with mgProto := match d.mgProto with | some b => some b | none => some (s.freeNat % 2 == 1) }
     let block := if s.dev.mgBlock.isEmpty then s.mgmtBlock else s.dev.mgBlock
     let r := s1.drawn.freeBytes (len - 64)
     r.2.modDev fun d => { d with mgOut := if cmd = 0 then some (block.take len ++ r.1) else none })

/-- I3C_DYNAMIC_ADDRESS_ASSIGN: an I3C target takes its dynamic address; a target that has chosen SMBus does not answer. -/
def execI3cDynamicAddressAssign (addr : Nat) (s : State) : Host.Outcome State Fault Refusal :=
  onEvent (s.pwr.alive && decide (addr < 128) && s.dev.mgProto != some false) s (s.modDev fun d => { d with mgProto := some true, mgAddr := addr })

/-- ALERT_N is driven low (R395). -/
def State.alertLow (s : State) : Bool :=
  decide (s.pwr.phase = .held) || (s.live && (s.dev.emergency || decide (s.dev.state = .wedged) || decide (s.dev.state = .noFirmware)))

/-! ### Test access port (15 R399) -/

/-- An instruction that acts only while the cold reset is held. -/
def TapInst.drives : TapInst → Bool
  | .extest | .extestPulse | .extestTrain | .clamp | .highz => true
  | _ => false

/-- What the TAP does for the instruction in force. -/
def State.tapActs (s : State) : TapInst := if s.dev.tapInst.drives && decide (s.pwr.phase ≠ .held) then .bypass else s.dev.tapInst

/-- TAP_INSTRUCTION: an instruction is loaded into the TAP. -/
def execTapInstruction (inst : TapInst) (s : State) : Host.Outcome State Fault Refusal := onEvent s.pwr.alive s (s.modDev fun d => { d with tapInst := inst })

end Sys2Proof.Machine
end

