-- ==== Sys2Proof/Machine/Clock.lean ====
section
/-!
DEFINITION. What time does by itself: one idle step is a third of a nanosecond (01 R23 to R26; log 1, log 18). Clocks run, token buckets
refill (07 R212, R215), the counters of time count (06 R204; 09 R275, R277), and teardowns, the prefix store and the watchdogs'
exemptions move on.
-/

namespace Sys2Proof.Machine

/-! ### Token buckets (07 R212, R215) -/

/-- s with every enabled shaper and every policer refilled, as in each FAB_CLK cycle. -/
def State.refillAll (s : State) : State :=
  s.modFab fun b => { b with
    strShaper := b.strShaper.foldl (fun m p => SMap.set shaperAt p.1 p.2.refill m) b.strShaper
    svcShaper := b.svcShaper.foldl (fun m p => SMap.set svcShaperAt p.1 p.2.refill m) b.svcShaper
    portShaper := b.portShaper.foldl (fun m p => SMap.set shaperAt p.1 p.2.refill m) b.portShaper
    policer := b.policer.foldl (fun m p => SMap.set policerAt p.1 p.2.refill m) b.policer }

/-! ### Counters of time (06 R204; 09 R275, R277) -/

/-- Items of 09 R277 that count nanoseconds and PRBS31 bits. -/
abbrev cRetryFull : Nat := 7
/-- pause_rx. -/
abbrev cPauseRx : Nat := 8
/-- pause_tx. -/
abbrev cPauseTx : Nat := 9
/-- loop_bits of lane 0. -/
abbrev cLoopBits : Nat := 33
/-- loop_err of lane 0. -/
abbrev cLoopErr : Nat := 41

/-- A packet at the head of some stream queue of (p, v) lacks nothing but credit from the link's peer. -/
def State.stalled (s : State) (p v : Nat) : Bool :=
  s.fab.sq.any fun x =>
    match x.2 with
    | [] => false
    | k :: _ =>
      k.outPort == p && k.vc == v && (s.strShaper x.1).ok && (s.svcShaper (8 * p + v)).ok && (v == 0 || (s.portShaper p).ok) && !s.outputTakes k

/-- Port p withholds credit from class c: it is not 1,023 packets ahead, and yet it may grant none. -/
def State.withholds (s : State) (p c : Nat) : Bool :=
  let L := (s.port p).link
  let ahead := ((SMap.get zeroBits L.grantTx c : BitVec 16) - BitVec.ofNat 16 (SMap.get zeroAt L.rxCnt c)).toNat
  decide (ahead < 1023) && s.grantable p c == 0

/-- Fabric ports that are ACTIVE. -/
def State.activePorts (s : State) : List Nat := (s.ports.filter fun p => decide (p.1 < 36) && decide (p.2.link.state = .active)).map (·.1)

/-- s with tx_stall, rx_hold and dq_hold advanced by one FAB_CLK cycle. -/
def State.countFab (s : State) : State :=
  let s1 := s.activePorts.foldl (fun s1 p =>
    let s2 := (List.range 8).foldl (fun s2 v => if s.stalled p v then s2.count (ctrTxStall p v) 1 else s2) s1
    (List.range 16).foldl (fun s2 c => if s.withholds p c then s2.count (ctrRxHold p c) 1 else s2) s2) s
  [0, 1, 2, 3].foldl (fun s1 i => if (s.slice i).holding then s1.count (ctrKey 5 0 i) 1 else s1) s1

/-- Fabric ports whose link layer runs in full: ACTIVE, or in a FLIT loop (09 R275). -/
def State.runningPorts (s : State) : List Nat :=
  (s.ports.filter fun p => decide (p.1 < 36) && (decide (p.2.link.state = .active) || p.2.link.flitLoop)).map (·.1)

/-- s with retry_full, pause_rx and pause_tx advanced by one nanosecond. -/
def State.countNs (s : State) : State :=
  s.runningPorts.foldl (fun s1 p =>
    let L := (s.port p).link
    let add (b : Bool) (item : Nat) (s : State) : State := if b then s.countLink p item 1 else s
    add (decide (0 < L.pauseTx)) cPauseTx (add (L.paused s.t3) cPauseRx (add (decide (retryMax ≤ L.retry.length)) cRetryFull s1))) s

/-- s with 4 ns of PRBS31, 825 bits of 206.25 Gb/s, checked on lane l of port p. A lane that has lost alignment counts each as an error;
what errors an aligned one finds the fibre decides, so their number is free (log 63). -/
def State.checkLane (s : State) (p l : Nat) (lost : Bool) : State :=
  let n := if lost then 825 else s.freeNat % 826
  ((s.countLink p (cLoopBits + l) 825).countLink p (cLoopErr + l) n).drawn

/-- s with 4 ns of PRBS31 checked on every lane of every checking port. -/
def State.countLoops (s : State) : State :=
  ((s.ports.filter fun p => decide (p.1 < 36) && p.2.link.checks).foldl (fun s1 p =>
    let s2 := (lanesOf p.2.link.aligned).foldl (fun s l => s.checkLane p.1 l false) s1
    (lanesOf p.2.link.lost).foldl (fun s l => s.checkLane p.1 l true) s2) s)

/-! ### The tick -/

/-- The clocks a third of a nanosecond on: FABREF has a period of 6.4 ns, FAB_CLK of two thirds, and CORE_CLK its own; a stopped cycle of
CORE_CLK passes without being counted (14 R385). -/
def Clock.advance (k : Clock) (stopped : Bool) : Clock :=
  let f := k.fabrefAcc + 5
  let c := k.coreAcc + k.coreMHz
  let cyc := decide (3000 ≤ c)
  { k with
    third := k.third + 1
    fabrefAcc := f % 96
    fabref := k.fabref + f / 96
    fab := (k.third + 1) / 2
    coreAcc := c % 3000
    core := if cyc && !stopped then k.core + 1 else k.core
    gate := if cyc then (k.gate + 1) % 4 else k.gate }

/-- s a third of a nanosecond on, while the module runs. -/
def State.tickRun (s : State) : State :=
  let stopped := s.coreStopped
  let s1 := { s with clk := s.clk.advance stopped }
  let s2 := if s1.clk.third % 2 = 0 then s1.countFab.refillAll.tearTick.pfxTick else s1
  let s3 := if s2.clk.third % 3 = 0 then s2.countNs else s2
  let s4 := if s3.clk.third % 12 = 0 then s3.countLoops else s3
  (if stopped then s4.skipThird else s4).exemptTick

/-- s a third of a nanosecond on. In the held cold reset only the always-on domain's time runs; without power nothing does. -/
def State.tick (s : State) : State :=
  match s.pwr.phase with
  | .running => s.tickRun
  | .held => { s with clk := { s.clk with third := s.clk.third + 1 } }
  | _ => s

/-- The 64-bit time base has reached its end (00 R9). -/
def State.timeOver (s : State) : Bool := decide (2 ^ 64 ≤ (s.clk.fabref + 1) * 32 / 5)

end Sys2Proof.Machine
end

