-- ==== Sys2Proof/Machine/Almanac.lean ====
section
/-!
DEFINITION. The black-box record as host software reads it (13 R367 to R370).
-/

namespace Sys2Proof.Machine

/-- Two bytes of a signed reading. -/
def s16 (i : Int) : List Byte := toLE 2 (BitVec.ofInt 16 i).toNat

/-- The measurements of a record, bytes 64 to 201 (13 R368). -/
def sensorBytes (x : Sensors) (mhz : Nat) : List Byte :=
  ((List.range 5).map fun i => s16 (x.tDie.getD i 0)).flatten ++ s16 x.tIn ++ s16 x.tOut ++ toLE 2 x.flow ++ toLE 2 x.vIn ++ toLE 2 x.iIn ++
  toLE 2 mhz ++ [0#8, 0#8] ++ ((List.range 57).map fun i => toLE 2 (x.pDom.getD i 0)).flatten

/-- The 256 bytes of a record (13 R368). -/
def ARec.bytes (r : ARec) : List Byte :=
  let body := padTo 252 (toLE 4 r.seq ++ toLE 1 r.type ++ toLE 1 r.fault ++ toLE 1 r.level ++ toLE 1 (bit (!r.payload.isEmpty) + 2 * bit r.late) ++
    toLE 8 r.time ++ toLE 4 r.ctx ++ toLE 2 r.unit ++ toLE 1 r.engine ++ toLE 1 r.boot ++ toLE 8 r.signature.toNat ++ padTo 32 r.detail ++
    sensorBytes r.sens r.mhz ++ toLE 4 r.payload.length)
  body ++ toLE 4 (crc32c body).toNat

/-- ALMANAC_READ (13 R370). With no record held, the lowest sequence held is free (log 51). -/
def execAlmanacRead (c : Nat) (s : State) : Host.Outcome State Fault Refusal :=
  runCmd 0x0703 c s fun k s =>
    let first := fieldAt k.params 12 4
    let most := fieldAt k.params 16 4
    if most = 0 || 4096 < most then s.finish c stBadParam
    else
      let l := (s.alm.recs.filter fun r => decide (first ≤ r.seq)).take most
      let low := match s.alm.recs with | r :: _ => r.seq | [] => s.freeNat
      (s.finishData k [l.length, low, s.alm.nextSeq, s.alm.lost] ((l.map fun r => r.bytes ++ r.payload).flatten)).drawn

/-- ALMANAC_RECORD_WRITE: FWP-LOG takes the oldest record from the queue in the always-on domain and writes it (01 R37, 13 R367). -/
def execAlmanacRecordWrite (s : State) : Host.Outcome State Fault Refusal :=
  onEvent (s.live && s.fwpUp fwpLog) s
    (match s.alm.waiting with
      | [] => s
      | r :: rest => s.modAlm fun a => { (a.write r) with waiting := rest })

end Sys2Proof.Machine
end

