-- ==== Sys2Proof/Machine/Dispatch.lean ====
section
/-!
DEFINITION. One arm per command: a direct call of its meaning.
-/

namespace Sys2Proof.Machine

/-- The effect of a command on everything but the queue of waiting commands. -/
def exec (i : Instr) (s : State) : Host.Outcome State Fault Refusal :=
  match i with
  | .devIdentify c => Sys2Proof.Machine.execDevIdentify c s
  | .devStatus c => Sys2Proof.Machine.execDevStatus c s
  | .devSetMode c => Sys2Proof.Machine.execDevSetMode c s
  | .devWarmReset c => Sys2Proof.Machine.execDevWarmReset c s
  | .warmResetT0 => Sys2Proof.Machine.execWarmResetT0 s
  | .warmResetForwardingResume => Sys2Proof.Machine.execWarmResetForwardingResume s
  | .warmResetDone => Sys2Proof.Machine.execWarmResetDone s
  | .devIsolate c => Sys2Proof.Machine.execDevIsolate c s
  | .devRestore c => Sys2Proof.Machine.execDevRestore c s
  | .portIsolate c => Sys2Proof.Machine.execPortIsolate c s
  | .portRestore c => Sys2Proof.Machine.execPortRestore c s
  | .isolationApply => Sys2Proof.Machine.execIsolationApply s
  | .ctxCreate c => Sys2Proof.Machine.execCtxCreate c s
  | .ctxLoad c img sizes phases => Sys2Proof.Machine.execCtxLoad c img sizes phases s
  | .ctxStart c => Sys2Proof.Machine.execCtxStart c s
  | .ctxStop c => Sys2Proof.Machine.execCtxStop c s
  | .ctxStopTimeout x => Sys2Proof.Machine.execCtxStopTimeout x s
  | .ctxTeardown c => Sys2Proof.Machine.execCtxTeardown c s
  | .teardownEngineTimeout t e => Sys2Proof.Machine.execTeardownEngineTimeout t e s
  | .teardownWritesAcked x => Sys2Proof.Machine.execTeardownWritesAcked x s
  | .cxlWriteAckTimeout x k => Sys2Proof.Machine.execCxlWriteAckTimeout x k s
  | .collBind c members nbrs ops => Sys2Proof.Machine.execCollBind c members nbrs ops s
  | .collUnbind c => Sys2Proof.Machine.execCollUnbind c s
  | .collPostContrib c data => Sys2Proof.Machine.execCollPostContrib c data s
  | .collPostCounts c data => Sys2Proof.Machine.execCollPostCounts c data s
  | .collPostResultRequest c => Sys2Proof.Machine.execCollPostResultRequest c s
  | .postPacketArrival ecc => Sys2Proof.Machine.execPostPacketArrival ecc s
  | .collQuery c => Sys2Proof.Machine.execCollQuery c s
  | .collSubstitute c => Sys2Proof.Machine.execCollSubstitute c s
  | .routeWrite c => Sys2Proof.Machine.execRouteWrite c s
  | .routeRead c => Sys2Proof.Machine.execRouteRead c s
  | .portConfig c => Sys2Proof.Machine.execPortConfig c s
  | .portLoop c => Sys2Proof.Machine.execPortLoop c s
  | .queueConfigSqCfg c => Sys2Proof.Machine.execQueueConfigSqCfg c s
  | .queueConfigSqMap c => Sys2Proof.Machine.execQueueConfigSqMap c s
  | .queueConfigPortWdrr c => Sys2Proof.Machine.execQueueConfigPortWdrr c s
  | .queueConfigBufClass c => Sys2Proof.Machine.execQueueConfigBufClass c s
  | .shaperConfig c => Sys2Proof.Machine.execShaperConfig c s
  | .policerConfig c => Sys2Proof.Machine.execPolicerConfig c s
  | .wredProfileProfile c => Sys2Proof.Machine.execWredProfileProfile c s
  | .wredProfilePortVcRed c => Sys2Proof.Machine.execWredProfilePortVcRed c s
  | .poolConfigCounts c => Sys2Proof.Machine.execPoolConfigCounts c s
  | .poolConfigMinima c => Sys2Proof.Machine.execPoolConfigMinima c s
  | .bufAlloc c => Sys2Proof.Machine.execBufAlloc c s
  | .bufFree c => Sys2Proof.Machine.execBufFree c s
  | .seedbankRequest t r => Sys2Proof.Machine.execSeedbankRequest t r s
  | .seedbankRebuildDone l => Sys2Proof.Machine.execSeedbankRebuildDone l s
  | .prefixConfig c => Sys2Proof.Machine.execPrefixConfig c s
  | .telRead c => Sys2Proof.Machine.execTelRead c s
  | .telWindow c => Sys2Proof.Machine.execTelWindow c s
  | .almanacRead c => Sys2Proof.Machine.execAlmanacRead c s
  | .fwVersion c => Sys2Proof.Machine.execFwVersion c s
  | .fwStage c obj => Sys2Proof.Machine.execFwStage c obj s
  | .fwActivate c => Sys2Proof.Machine.execFwActivate c s
  | .attest c => Sys2Proof.Machine.execAttest c s
  | .hssTreeBuilt => Sys2Proof.Machine.execHssTreeBuilt s
  | .pwrPolicy c => Sys2Proof.Machine.execPwrPolicy c s
  | .pwrFloor c => Sys2Proof.Machine.execPwrFloor c s
  | .heatReport c => Sys2Proof.Machine.execHeatReport c s
  | .diagSelftest c results => Sys2Proof.Machine.execDiagSelftest c results s
  | .diagShadowRun c => Sys2Proof.Machine.execDiagShadowRun c s
  | .shadowRepeatStart => Sys2Proof.Machine.execShadowRepeatStart s
  | .shadowRunTimeout => Sys2Proof.Machine.execShadowRunTimeout s
  | .diagScratchSample c => Sys2Proof.Machine.execDiagScratchSample c s
  | .engineReset c => Sys2Proof.Machine.execEngineReset c s
  | .cmdTailWrite off width v => Sys2Proof.Machine.execCmdTailWrite off width v s
  | .cplHeadWrite off width v => Sys2Proof.Machine.execCplHeadWrite off width v s
  | .ringEnable r v => Sys2Proof.Machine.execRingEnable r v s
  | .ringDisable r v => Sys2Proof.Machine.execRingDisable r v s
  | .descriptorFetch r desc params => Sys2Proof.Machine.execDescriptorFetch r desc params s
  | .completionRecordWrite c => Sys2Proof.Machine.execCompletionRecordWrite c s
  | .interruptCoalesceExpiry r => Sys2Proof.Machine.execInterruptCoalesceExpiry r s
  | .deviceEventWrite r => Sys2Proof.Machine.execDeviceEventWrite r s
  | .registerWrite off width v => Sys2Proof.Machine.execRegisterWrite off width v s
  | .bar2BadAccess off width write => Sys2Proof.Machine.execBar2BadAccess off width write s
  | .bar4Read off len ecc ce => Sys2Proof.Machine.execBar4Read off len ecc ce s
  | .bar4Write off data ecc ce => Sys2Proof.Machine.execBar4Write off data ecc ce s
  | .nop t e => Sys2Proof.Machine.execNop t e s
  | .jmp t e => Sys2Proof.Machine.execJmp t e s
  | .beq t e => Sys2Proof.Machine.execBeq t e s
  | .bne t e => Sys2Proof.Machine.execBne t e s
  | .blt t e => Sys2Proof.Machine.execBlt t e s
  | .bge t e => Sys2Proof.Machine.execBge t e s
  | .bltu t e => Sys2Proof.Machine.execBltu t e s
  | .bgeu t e => Sys2Proof.Machine.execBgeu t e s
  | .call t e => Sys2Proof.Machine.execCall t e s
  | .ret t e => Sys2Proof.Machine.execRet t e s
  | .stepEnd t e => Sys2Proof.Machine.execStepEnd t e s
  | .stepEndRetire t e => Sys2Proof.Machine.execStepEndRetire t e s
  | .halt t e => Sys2Proof.Machine.execHalt t e s
  | .haltRetire t e => Sys2Proof.Machine.execHaltRetire t e s
  | .fence t e => Sys2Proof.Machine.execFence t e s
  | .fenceRetire t e => Sys2Proof.Machine.execFenceRetire t e s
  | .add t e => Sys2Proof.Machine.execAdd t e s
  | .sub t e => Sys2Proof.Machine.execSub t e s
  | .and t e => Sys2Proof.Machine.execAnd t e s
  | .or t e => Sys2Proof.Machine.execOr t e s
  | .xor t e => Sys2Proof.Machine.execXor t e s
  | .shl t e => Sys2Proof.Machine.execShl t e s
  | .shr t e => Sys2Proof.Machine.execShr t e s
  | .sra t e => Sys2Proof.Machine.execSra t e s
  | .slt t e => Sys2Proof.Machine.execSlt t e s
  | .sltu t e => Sys2Proof.Machine.execSltu t e s
  | .mul t e => Sys2Proof.Machine.execMul t e s
  | .mulhu t e => Sys2Proof.Machine.execMulhu t e s
  | .div t e => Sys2Proof.Machine.execDiv t e s
  | .divu t e => Sys2Proof.Machine.execDivu t e s
  | .rem t e => Sys2Proof.Machine.execRem t e s
  | .remu t e => Sys2Proof.Machine.execRemu t e s
  | .li t e => Sys2Proof.Machine.execLi t e s
  | .lui t e => Sys2Proof.Machine.execLui t e s
  | .ldB t e => Sys2Proof.Machine.execLdB t e s
  | .ldH t e => Sys2Proof.Machine.execLdH t e s
  | .ldW t e => Sys2Proof.Machine.execLdW t e s
  | .stB t e => Sys2Proof.Machine.execStB t e s
  | .stH t e => Sys2Proof.Machine.execStH t e s
  | .stW t e => Sys2Proof.Machine.execStW t e s
  | .spld t e => Sys2Proof.Machine.execSpld t e s
  | .spst t e => Sys2Proof.Machine.execSpst t e s
  | .rdcyc t e => Sys2Proof.Machine.execRdcyc t e s
  | .rdtime t e => Sys2Proof.Machine.execRdtime t e s
  | .rdtile t e => Sys2Proof.Machine.execRdtile t e s
  | .seed t e => Sys2Proof.Machine.execSeed t e s
  | .mm t e => Sys2Proof.Machine.execMm t e s
  | .mmBs t e => Sys2Proof.Machine.execMmBs t e s
  | .mmGs t e => Sys2Proof.Machine.execMmGs t e s
  | .mmBgs t e => Sys2Proof.Machine.execMmBgs t e s
  | .sparseBandFault t => Sys2Proof.Machine.execSparseBandFault t s
  | .sparseMmComplete t ecc => Sys2Proof.Machine.execSparseMmComplete t ecc s
  | .trMap t e => Sys2Proof.Machine.execTrMap t e s
  | .trRed t e => Sys2Proof.Machine.execTrRed t e s
  | .trCvt t e => Sys2Proof.Machine.execTrCvt t e s
  | .trLdprog t e => Sys2Proof.Machine.execTrLdprog t e s
  | .trLdprogCheck t ecc => Sys2Proof.Machine.execTrLdprogCheck t ecc s
  | .shPrune t e => Sys2Proof.Machine.execShPrune t e s
  | .shTmask t e => Sys2Proof.Machine.execShTmask t e s
  | .engineResultComplete t k ecc => Sys2Proof.Machine.execEngineResultComplete t k ecc s
  | .astreamRowFetch t e => Sys2Proof.Machine.execAstreamRowFetch t e s
  | .mvCopy t e => Sys2Proof.Machine.execMvCopy t e s
  | .mvMesh t e => Sys2Proof.Machine.execMvMesh t e s
  | .meshSlotStart t k ecc => Sys2Proof.Machine.execMeshSlotStart t k ecc s
  | .meshArrival t k => Sys2Proof.Machine.execMeshArrival t k s
  | .meshTransferComplete t k => Sys2Proof.Machine.execMeshTransferComplete t k s
  | .mvMrecv t e => Sys2Proof.Machine.execMvMrecv t e s
  | .mvGet t e => Sys2Proof.Machine.execMvGet t e s
  | .mvGetComplete t k ecc ce => Sys2Proof.Machine.execMvGetComplete t k ecc ce s
  | .mvPut t e => Sys2Proof.Machine.execMvPut t e s
  | .mvPutComplete t k ecc => Sys2Proof.Machine.execMvPutComplete t k ecc s
  | .mvSend t e => Sys2Proof.Machine.execMvSend t e s
  | .mvSendAdmit t ecc => Sys2Proof.Machine.execMvSendAdmit t ecc s
  | .mvSendComplete t => Sys2Proof.Machine.execMvSendComplete t s
  | .mvRecv t e => Sys2Proof.Machine.execMvRecv t e s
  | .receiveQueueArrival t ecc => Sys2Proof.Machine.execReceiveQueueArrival t ecc s
  | .mvRecvComplete t => Sys2Proof.Machine.execMvRecvComplete t s
  | .cvInit t e => Sys2Proof.Machine.execCvInit t e s
  | .cvWb t e => Sys2Proof.Machine.execCvWb t e s
  | .cvWh t e => Sys2Proof.Machine.execCvWh t e s
  | .cvWw t e => Sys2Proof.Machine.execCvWw t e s
  | .cvRead t e => Sys2Proof.Machine.execCvRead t e s
  | .cvSave t e => Sys2Proof.Machine.execCvSave t e s
  | .cvRestore t e ecc => Sys2Proof.Machine.execCvRestore t e ecc s
  | .cvFeed t e => Sys2Proof.Machine.execCvFeed t e s
  | .signal t e => Sys2Proof.Machine.execSignal t e s
  | .wait t e => Sys2Proof.Machine.execWait t e s
  | .waitRetire t e => Sys2Proof.Machine.execWaitRetire t e s
  | .aspush t e => Sys2Proof.Machine.execAspush t e s
  | .coreClkChangeApply => Sys2Proof.Machine.execCoreClkChangeApply s
  | .coreClkStepDone => Sys2Proof.Machine.execCoreClkStepDone s
  | .tillerWatchdogFire t e => Sys2Proof.Machine.execTillerWatchdogFire t e s
  | .sampleComplete t => Sys2Proof.Machine.execSampleComplete t s
  | .engineResetDone t => Sys2Proof.Machine.execEngineResetDone t s
  | .engineResetOverrun t => Sys2Proof.Machine.execEngineResetOverrun t s
  | .tillerResetDone t eccBad => Sys2Proof.Machine.execTillerResetDone t eccBad s
  | .tillerResetOverrun t => Sys2Proof.Machine.execTillerResetOverrun t s
  | .tillerRestart t => Sys2Proof.Machine.execTillerRestart t s
  | .linkWatchdogFire p => Sys2Proof.Machine.execLinkWatchdogFire p s
  | .linkEngineResetDone p => Sys2Proof.Machine.execLinkEngineResetDone p s
  | .linkEngineResetOverrun p => Sys2Proof.Machine.execLinkEngineResetOverrun p s
  | .portGroupResetDone g => Sys2Proof.Machine.execPortGroupResetDone g s
  | .portGroupResetOverrun g => Sys2Proof.Machine.execPortGroupResetOverrun g s
  | .flitSlotTransmit p => Sys2Proof.Machine.execFlitSlotTransmit p s
  | .dataFlitReceive p flit => Sys2Proof.Machine.execDataFlitReceive p flit s
  | .controlFlitReceive p flit => Sys2Proof.Machine.execControlFlitReceive p flit s
  | .discoveryFlitReceive p flit => Sys2Proof.Machine.execDiscoveryFlitReceive p flit s
  | .trainingBlockReceive p lane block => Sys2Proof.Machine.execTrainingBlockReceive p lane block s
  | .laneBlockLock p lane => Sys2Proof.Machine.execLaneBlockLock p lane s
  | .enterDiscovery p => Sys2Proof.Machine.execEnterDiscovery p s
  | .enterActive p => Sys2Proof.Machine.execEnterActive p s
  | .replayTimerExpiry p => Sys2Proof.Machine.execReplayTimerExpiry p s
  | .retryExhausted p => Sys2Proof.Machine.execRetryExhausted p s
  | .controlTimeout p => Sys2Proof.Machine.execControlTimeout p s
  | .pauseExpiry p => Sys2Proof.Machine.execPauseExpiry p s
  | .pauseTimeout p => Sys2Proof.Machine.execPauseTimeout p s
  | .trainingTimeout p => Sys2Proof.Machine.execTrainingTimeout p s
  | .retrainTimer p => Sys2Proof.Machine.execRetrainTimer p s
  | .laneLossOfSignal p lane => Sys2Proof.Machine.execLaneLossOfSignal p lane s
  | .sparingWindowEnd p errs => Sys2Proof.Machine.execSparingWindowEnd p errs s
  | .laserFeedLow o f => Sys2Proof.Machine.execLaserFeedLow o f s
  | .laserFeedRecovered o f => Sys2Proof.Machine.execLaserFeedRecovered o f s
  | .oeCalibrationCycle o overrun power => Sys2Proof.Machine.execOeCalibrationCycle o overrun power s
  | .hostPacketAdmit => Sys2Proof.Machine.execHostPacketAdmit s
  | .forwardingDecision fs => Sys2Proof.Machine.execForwardingDecision fs s
  | .schedulerSelect p => Sys2Proof.Machine.execSchedulerSelect p s
  | .packetTransmitComplete p ecc => Sys2Proof.Machine.execPacketTransmitComplete p ecc s
  | .mgmtRequest => Sys2Proof.Machine.execMgmtRequest s
  | .noticeReceive => Sys2Proof.Machine.execNoticeReceive s
  | .noticeQueueSend => Sys2Proof.Machine.execNoticeQueueSend s
  | .contribReceive t => Sys2Proof.Machine.execContribReceive t s
  | .partialReceive t => Sys2Proof.Machine.execPartialReceive t s
  | .resultReceive t => Sys2Proof.Machine.execResultReceive t s
  | .countReceive t => Sys2Proof.Machine.execCountReceive t s
  | .stepAbortReceive t => Sys2Proof.Machine.execStepAbortReceive t s
  | .stepReplayReceive t => Sys2Proof.Machine.execStepReplayReceive t s
  | .resultRequestReceive t => Sys2Proof.Machine.execResultRequestReceive t s
  | .stepCommit l => Sys2Proof.Machine.execStepCommit l s
  | .stepTimeout l n => Sys2Proof.Machine.execStepTimeout l n s
  | .put t => Sys2Proof.Machine.execPut t s
  | .putCommit k => Sys2Proof.Machine.execPutCommit k s
  | .putTimeout k => Sys2Proof.Machine.execPutTimeout k s
  | .get t ce => Sys2Proof.Machine.execGet t ce s
  | .prefixPromote b => Sys2Proof.Machine.execPrefixPromote b s
  | .prefixDemoteDone b => Sys2Proof.Machine.execPrefixDemoteDone b s
  | .delete t => Sys2Proof.Machine.execDelete t s
  | .probe t => Sys2Proof.Machine.execProbe t s
  | .cxlPortDown k => Sys2Proof.Machine.execCxlPortDown k s
  | .cxlPortUp k cap => Sys2Proof.Machine.execCxlPortUp k cap s
  | .scrubSlot m ecc => Sys2Proof.Machine.execScrubSlot m ecc s
  | .gleanerPassStart => Sys2Proof.Machine.execGleanerPassStart s
  | .gleanerPassEnd => Sys2Proof.Machine.execGleanerPassEnd s
  | .telemetryWindowBoundary => Sys2Proof.Machine.execTelemetryWindowBoundary s
  | .almanacRecordWrite => Sys2Proof.Machine.execAlmanacRecordWrite s
  | .mulchTick v => Sys2Proof.Machine.execMulchTick v s
  | .energyIntegration v => Sys2Proof.Machine.execEnergyIntegration v s
  | .emergencySample v => Sys2Proof.Machine.execEmergencySample v s
  | .emergencyBegin => Sys2Proof.Machine.execEmergencyBegin s
  | .emergencyClear => Sys2Proof.Machine.execEmergencyClear s
  | .ladderClimb => Sys2Proof.Machine.execLadderClimb s
  | .ladderDescend => Sys2Proof.Machine.execLadderDescend s
  | .domainIdleExpiry d => Sys2Proof.Machine.execDomainIdleExpiry d s
  | .domainPowerOnDone d => Sys2Proof.Machine.execDomainPowerOnDone d s
  | .domainPowerOffDone d => Sys2Proof.Machine.execDomainPowerOffDone d s
  | .inputPowerUp volts => Sys2Proof.Machine.execInputPowerUp volts s
  | .vaonInRegulation => Sys2Proof.Machine.execVaonInRegulation s
  | .powerDown => Sys2Proof.Machine.execPowerDown s
  | .coldResetRequest => Sys2Proof.Machine.execColdResetRequest s
  | .coldResetRelease board => Sys2Proof.Machine.execColdResetRelease board s
  | .fabrefLoss => Sys2Proof.Machine.execFabrefLoss s
  | .perstNAssert => Sys2Proof.Machine.execPerstNAssert s
  | .perstNDeassert width gen => Sys2Proof.Machine.execPerstNDeassert width gen s
  | .hostRefclkLoss => Sys2Proof.Machine.execHostRefclkLoss s
  | .cxlPerstRelease k => Sys2Proof.Machine.execCxlPerstRelease k s
  | .bootImageVerified => Sys2Proof.Machine.execBootImageVerified s
  | .deviceReady => Sys2Proof.Machine.execDeviceReady s
  | .fwpWatchdogExpiry q => Sys2Proof.Machine.execFwpWatchdogExpiry q s
  | .fwpTrap q => Sys2Proof.Machine.execFwpTrap q s
  | .fwpMemoryUe q w => Sys2Proof.Machine.execFwpMemoryUe q w s
  | .fwpRestartDone q => Sys2Proof.Machine.execFwpRestartDone q s
  | .mgmtStatusRead cmd len => Sys2Proof.Machine.execMgmtStatusRead cmd len s
  | .mgmtBlockRefresh => Sys2Proof.Machine.execMgmtBlockRefresh s
  | .tapInstruction inst => Sys2Proof.Machine.execTapInstruction inst s
  | .loopLaneAligned p lane => Sys2Proof.Machine.execLoopLaneAligned p lane s
  | .loopLaneAlignmentLost p lane => Sys2Proof.Machine.execLoopLaneAlignmentLost p lane s
  | .i3cDynamicAddressAssign addr => Sys2Proof.Machine.execI3cDynamicAddressAssign addr s
  | .postStepReplay c data => Sys2Proof.Machine.execPostStepReplay c data s

end Sys2Proof.Machine
end

