-- ==== Sys2Proof/Machine/Step.lean ====
section
/-!
DEFINITION. One step of the module: the command at the front of its queue, or, on an empty queue, a third of a nanosecond (log 1).
-/

namespace Sys2Proof.Machine

/-- One step. On an empty queue time moves on; a time base at its end stops the model (00 R9). -/
def step (s : State) : Host.Outcome State Fault Refusal :=
  match s.pending with
  | c :: rest => exec c { s with pending := rest }
  | [] => if s.timeOver then .fault .timeBaseExhausted else .next s.tick

/-- s with the command that a word of the table spells put at the front of its queue. The table gives no row bits, so no word spells
one. -/
def State.withFetchWord (s : State) (nbits w : Nat) : State :=
  match Sys2Proof.decodeTableWord nbits w with
  | some c => { s with pending := c :: s.pending }
  | none => s

end Sys2Proof.Machine
end

