-- ==== Sys2Proof/Safety.lean ====
section
/-!
DEFINITION. The words in which claims about the module are stated: when a row carries out its command or its instruction, what a run
without a stop is, what the module keeps whatever is commanded, and the canonical form of its memories.
-/

namespace Sys2Proof.Machine

/-! ### When a row takes effect -/

/-- Command c waits as k with opcode op, may be taken up now, and the processors it needs are up (10 R294, R295). -/
abbrev State.carries (s : State) (op c : Nat) (k : Cmd) : Prop :=
  s.cmd? c = some k ∧ s.live = true ∧ k.opcode = op ∧ s.ready k = true ∧ s.served op = true

/-- The command came from a ring, so that its record goes to that ring. -/
def Cmd.fromRing (k : Cmd) : Bool := match k.src with | .ring _ => true | _ => false

/-- The command came in a MGMT request, so that its reply goes back in a packet. -/
def Cmd.viaPort (k : Cmd) : Bool := match k.src with | .mgmt _ _ => true | _ => false

/-- n bytes of result data fit what the command's record asks for: no more than out_len, and, but for a MGMT request, an out_addr aligned to
32 bytes (10 R293, R305). -/
abbrev Cmd.takes (k : Cmd) (n : Nat) : Prop := (k.viaPort = true ∨ fieldAt k.params 0 8 % 32 = 0) ∧ n ≤ fieldAt k.params 8 4

/-- s after a command with result data has completed with OK: the data lies at out_addr, or in the reply to a MGMT request, and its record has
the data's length in word5 (10 R293, R305). -/
def State.reported (s : State) (k : Cmd) (words : List Nat) (data : List Byte) : State :=
  (if k.viaPort then s.take k.id else (s.take k.id).writeHost (fieldAt k.params 0 8) data).finish k.id stOk
    ((List.range 5).map (fun i => words.getD i 0) ++ [data.length]) (if k.viaPort then data else [])

/-- What waits to be written for a command finished at a time (10 R288, R291). -/
def Cmd.reportedAs (k : Cmd) (status : Nat) (words : List Nat) (t3 : Nat) : Done :=
  { id := k.id, src := k.src, status := status, opcode := k.opcode, tag := k.tag, words := words, stamp := t3 }

/-- The command that a descriptor of ring r with some parameter record carries (10 R290). -/
def State.fetched (s : State) (r : Nat) (d p : List Byte) : Cmd :=
  { id := s.host.nextId, src := .ring r, opcode := fieldAt d 0 2, barrier := fieldAt d 2 2 / 2 % 2 == 1, tag := fieldAt d 4 4, params := p }

/-- Stream e of Tiller t may issue in this cycle, the instruction at its position is i, a mnemonic mn, and nothing stops it there: its
words in instruction memory are good (01 R32), its engine is present and the hazard checker finds nothing (03 R89, 04 R118). -/
abbrev State.issues (s : State) (t e : Nat) (mn : Mnem) (i : Shoze) : Prop :=
  (t < 192 ∧ e < 6) ∧ s.mayIssue t e = true ∧ (s.tl t).img.code[((s.tl t).stream e).pc]? = some i ∧ i.mn = mn ∧
  (engineOf mn = 1 → s.harrow t = true) ∧ (s.tl t).findHazard s.clk.core i = none ∧ ((s.tl t).stream e).pc ∉ (s.tl t).imUe

/-- Stream e of Tiller t may issue in this cycle, the instruction at its position is i, a mnemonic mn, whose words are good and whose engine is
present, and the hazard checker finds h (03 R89). -/
abbrev State.meets (s : State) (t e : Nat) (mn : Mnem) (i : Shoze) (h : Hazard) : Prop :=
  (t < 192 ∧ e < 6) ∧ s.mayIssue t e = true ∧ (s.tl t).img.code[((s.tl t).stream e).pc]? = some i ∧ i.mn = mn ∧
  (engineOf mn = 1 → s.harrow t = true) ∧ (s.tl t).findHazard s.clk.core i = some h ∧ ((s.tl t).stream e).pc ∉ (s.tl t).imUe

/-- The packet p at the head of lane Tiller t's receive queue, of slot l and prefix c, passes the checks of 05 R143 and R403 for a slot of the
device's own operators, in a device that is not WEDGED (05 R176); s1 is s with it taken out of the queue and its cells returned. -/
abbrev State.accepts (s : State) (t l : Nat) (p : Pkt) (c : CPrefix) (s1 : State) : Prop :=
  t < 192 ∧ s.live = true ∧ s.dev.state ≠ .wedged ∧ s.collHead t = some p ∧ c = readPrefix p.payload ∧ l = p.slotNo ∧ s.refuses p c = none ∧
  (s.slot l).bind.user = false ∧ s1 = (s.release p).modT t fun T => { T with recvQ := T.recvQ.tail }

/-- Scalar register i.sa of Tiller t. -/
def State.ra (s : State) (t : Nat) (i : Shoze) : Word := (s.tl t).reg i.sa.toNat

/-- Scalar register i.sb of Tiller t. -/
def State.rb (s : State) (t : Nat) (i : Shoze) : Word := (s.tl t).reg i.sb.toNat

/-! ### What changes -/

/-- Nothing but Tiller t differs between two states. -/
def onlyTiller (t : Nat) (s s' : State) : Prop := s' = { s with tillers := s'.tillers } ∧ ∀ u, u ≠ t → s'.tl u = s.tl u

/-- Stream e of a Tiller goes on to index pc and issues again no earlier than cycle next; no other stream changes. -/
def wentOn (e pc next t3 : Nat) (T T' : Tiller) : Prop :=
  T'.stream e = { T.stream e with pc := pc, next := next, prog := t3 } ∧ ∀ f, f ≠ e → T'.stream f = T.stream f

/-- s' is s after stream e of Tiller t has gone on to index pc, able to issue again after n cycles; nothing else differs. -/
def branched (t e pc n : Nat) (s s' : State) : Prop :=
  onlyTiller t s s' ∧ s'.tl t = { s.tl t with streams := (s'.tl t).streams } ∧ wentOn e pc (s.clk.core + n) s.t3 (s.tl t) (s'.tl t)

/-- s' is s after a one-cycle instruction of stream e of Tiller t that writes v to scalar register d: s0 keeps reading 0 (03 R71), no other
register changes, the stream goes on to its next instruction, and nothing else differs. -/
def wrote (t e d : Nat) (v : Word) (s s' : State) : Prop :=
  onlyTiller t s s' ∧ s'.tl t = { s.tl t with regs := (s'.tl t).regs, streams := (s'.tl t).streams } ∧
  wentOn e (((s.tl t).stream e).pc + 1) (s.clk.core + 1) s.t3 (s.tl t) (s'.tl t) ∧
  ∀ r, (s'.tl t).reg r = if r = d ∧ d ≠ 0 then v else (s.tl t).reg r

/-- s' is s after stream e of Tiller t has issued an instruction to its engine: the entries xs (one, or none where nothing is claimed) join the
checker (03 R89), engine g is occupied until cycle busy, and the stream goes on; no register, no memory and no other Tiller changes. -/
def launched (t e g busy : Nat) (xs : List Entry) (s s' : State) : Prop :=
  onlyTiller t s s' ∧ (s'.tl t).checker = (s.tl t).checker ++ xs ∧ SMap.get zeroAt (s'.tl t).busy g = busy ∧
  wentOn e (((s.tl t).stream e).pc + 1) (s.clk.core + 1) s.t3 (s.tl t) (s'.tl t) ∧
  s'.tl t = { s.tl t with checker := (s'.tl t).checker, busy := (s'.tl t).busy, streams := (s'.tl t).streams, engProg := (s'.tl t).engProg }

/-! ### Runs -/

/-- Every one of the next n steps answers a next state: no time base runs out and no command names a unit the module lacks. -/
def safeFor : Nat → State → Bool
  | 0, _ => true
  | n + 1, s => match step s with
    | .next s' => safeFor n s'
    | _ => false

/-- All that is fixed for the life of the part (00 R2 to R4, 11 R313, R322): everything but the fused minimum security version (11 R321). -/
def Part.identity (p : Part) : Part := { p with svMin := 0 }

/-- The isolation store: quorum_seq, the mask of isolated ports and the device flag (11 R327). -/
def State.isolation (s : State) : BitVec 64 × BitVec 64 × Bool := (s.fw.quorumSeq, s.fw.isoPorts, s.fw.isoDev)

/-- A row that carries a quorum command (11 R326 to R329). -/
def quorumRow : Instr → Bool
  | .devIsolate _ | .devRestore _ | .portIsolate _ | .portRestore _ => true
  | _ => false

/-! ### Canonical memories -/

/-- The memories of a Tiller are in canonical form. -/
def Tiller.memWf (T : Tiller) : Bool := SMap.wf byte0 T.dmem && SMap.wf byte0 T.sp

/-- The byte memories of the module, the host memory it has written, and those of a Tiller captured for a shadow run, are in canonical form. -/
def State.memWf (s : State) : Prop :=
  SMap.wf byte0 s.host.mem = true ∧ SMap.wf byte0 s.mem.bytes = true ∧ (∀ t, (s.tl t).memWf = true) ∧
  ∀ h T, s.shadow = some h → h.snap = some T → T.memWf = true

/-- An operating point of CORE_CLK: 850 to 1,700 MHz in steps of 50 MHz (14 R377). -/
def isPoint (m : Nat) : Bool := decide (850 ≤ m) && decide (m ≤ 1700) && m % 50 == 0

/-- CORE_CLK, a change of it that waits and one in progress are at operating points, and MULCH_CFG.min_step names one. -/
def State.clockWf (s : State) : Bool :=
  isPoint s.clk.coreMHz && s.pwr.clkReq.all isPoint && s.pwr.clkStep.all (fun c => isPoint c.1) && decide (17 ≤ s.pwr.minStep) &&
  decide (s.pwr.minStep ≤ 34)

end Sys2Proof.Machine
end

