-- ==== Sys2Proof/Certificates/Slice0/Obligations.lean ====
section
/-!
DEFINITION. The statements about the model, for the provers: each says in its docstring which rules of spec/ it formalises and where a
choice of the model's own enters.
-/

section

open Sys2Proof Sys2Proof.Machine

/-! ### The step, time and reset -/

/-- A step takes the command at the front of the queue and carries it out on the state with the rest of the queue. That waiting commands form a queue of
the model is its form, no rule of the spec. -/
def Obligations.StepRunsTheFrontCommand : Prop :=
  ∀ (s : State) (c : Instr) (rest : List Instr), s.pending = c :: rest → step s = exec c { s with pending := rest }

/-- An idle step of a running module is a third of a nanosecond: the clocks count as 01 R23 and R26 say (FABREF once in 6.4 ns, FAB_CLK once in two
thirds, CORE_CLK at its own frequency except in the cycles that the throttle ladder stops); in the held cold reset only the always-on time runs;
without power nothing changes; at the end of the 64-bit time base the model stops with the fault timeBaseExhausted. That an idle step is the tick is
the model's choice (logs 1 and 18). -/
def Obligations.IdleStepPassesTime : Prop :=
  ∀ s : State, s.pending = [] →
    (s.timeOver = true → step s = .fault .timeBaseExhausted) ∧
    (s.timeOver = false → step s = .next s.tick) ∧
    (s.pwr.phase = .running → s.tick.clk.third = s.clk.third + 1 ∧
      96 * s.tick.clk.fabref + s.tick.clk.fabrefAcc = 96 * s.clk.fabref + s.clk.fabrefAcc + 5 ∧
      s.tick.clk.fab = (s.clk.third + 1) / 2 ∧ s.tick.clk.coreMHz = s.clk.coreMHz ∧
      s.tick.clk.core = s.clk.core + (if 3000 ≤ s.clk.coreAcc + s.clk.coreMHz ∧ s.coreStopped = false then 1 else 0)) ∧
    (s.pwr.phase = .held → s.tick = { s with clk := { s.clk with third := s.clk.third + 1 } }) ∧
    (s.pwr.phase = .off ∨ s.pwr.phase = .converters → s.tick = s)

/-- What the spec says of the module at the release of a cold reset: BOOTING with every firmware processor down, no emergency, the mode register at 1
(deterministic), the time base at 0, CORE_CLK at 1,700 MHz, every ring disabled, every port DOWN, every Tiller and every collective slot free, no
context, an empty Almanac, no domain on. That no domain is on at that moment, and that reset is the release of the first cold reset, are the model's
reading (log 3). -/
def Obligations.ResetStateAsTheSpecSays : Prop :=
  State.reset.dev.state = .booting ∧ State.reset.dev.fwpUp = 0#5 ∧ State.reset.dev.emergency = false ∧ State.reset.dev.mode = 1#32 ∧
  State.reset.now = 0 ∧ State.reset.clk.coreMHz = 1700 ∧ State.reset.pwr.rung = 0 ∧ State.reset.alm.recs = [] ∧
  (∀ r, (State.reset.ring r).enabled = false) ∧ (∀ p, (State.reset.port p).link.state = .down) ∧
  (∀ t, (State.reset.tl t).owner = .free) ∧ (∀ l, (State.reset.slot l).state = .free) ∧ (∀ x, (State.reset.ctx x).live = false) ∧
  (∀ d, State.reset.domOn d = false) ∧ State.reset.pending = []

/-- Whatever is commanded, the commands that wait behind it stay waiting in their order. The queue is the model's own form, no rule of the spec. -/
def Obligations.EveryCommandKeepsTheQueue : Prop :=
  ∀ (c : Instr) (s s' : State), exec c s = .next s' → s'.pending = s.pending

/-- 00 R3: DEV_IDENTIFY returns the serial number, the stepping and the fuse map, the identity registers read the same, and no step changes any of them
(nor the grade and the certificate). -/
def Obligations.PartIdentityIsReadAndNeverChanges : Prop :=
  (∀ (s : State) (c : Nat) (k : Cmd), s.carries 0x0101 c k → k.takes 64 → ∃ s', exec (.devIdentify c) s = .next s' ∧
    s' = s.reported k [s.devId] (padTo 64 (padTo 12 s.part.serial ++ [0xA1#8, BitVec.ofNat 8 s.part.grade, 0#8, 0#8] ++
      toLE 24 s.part.fuse.toNat ++ (if s.dev.fwVer.getLsbD 31 then toLE 3 s.dev.fwVer.toNat else [0#8, 0#8, 0#8])))) ∧
  (∀ s : State, s.regWord 0x0004 = 0xA1 ∧
    (∀ i < 3, s.regWord (0x0010 + 4 * i) = fieldAt s.part.serial (4 * i) 4) ∧
    (∀ i < 6, s.regWord (0x0020 + 4 * i) = wordOf s.part.fuse.toNat i)) ∧
  (∀ s s' : State, step s = .next s' → s'.part.identity = s.part.identity)

/-- 11 R327: quorum_seq, the mask of isolated ports and the device flag change only by a quorum command: every other step, resets included, keeps them. -/
def Obligations.IsolationChangesOnlyByQuorumCommands : Prop :=
  ∀ s s' : State, step s = .next s' → (∀ c rest, s.pending = c :: rest → quorumRow c = false) → s'.isolation = s.isolation

/-- 14 R377: CORE_CLK runs at one of its 18 operating points, and so do a change that waits and one in progress: every step keeps it. -/
def Obligations.CoreClockStaysAtAnOperatingPoint : Prop :=
  ∀ s s' : State, s.clockWf = true → step s = .next s' → s'.clockWf = true

/-- The invariants of the module hold at reset. (14 R377 for the clock; the canonical form of a memory is the model's own.) -/
def Obligations.InvariantsHoldAtReset : Prop := State.reset.memWf ∧ State.reset.clockWf = true

/-- Every step keeps the byte memories of the module in their canonical form. The canonical form is the model's own representation of a memory. -/
def Obligations.MemoriesStayCanonical : Prop :=
  ∀ s s' : State, s.memWf → step s = .next s' → s'.memWf

/-! ### The host's side -/

/-- The doorbells of ring r are the words at 0x40000 r and 0x40000 r + 8 of BAR0 (10 R280, R281): on an enabled ring that has not stopped, a tail no
further ahead of CMD_HEAD than the ring is long is taken, one further ahead stops the ring with cause OVERRUN, and CPL_HEAD takes what is written
(10 R287, R288); nothing else changes. A write of another width or at another place of the page, or to a ring that is not enabled, changes nothing.
10 R287: 1 written to RING_CFG.enable while RING_STATUS.enabled is 0 enables the ring with CMD_HEAD, CPL_TAIL and the last doorbell values at 0; 0
written to it stops the fetching, and enabled falls once no command of the ring is left to report. Sizes are taken only while the ring is disabled
and, like the rest, only within range. No other ring and nothing else changes. -/
def Obligations.RingsDoorbellsAndEnables : Prop :=
  (∀ (s : State) (r v : Nat), r < 256 → s.live = true → s.dev.pcieUp = true →
     ((s.ring r).enabled = true → (s.ring r).error = false → (BitVec.ofNat 32 v - (s.ring r).cmdHead).toNat ≤ (s.ring r).nCmd →
       exec (.cmdTailWrite (0x40000 * r) 4 v) s = .next (s.modRing r fun R => { R with tailDb := BitVec.ofNat 32 v })) ∧
     ((s.ring r).enabled = true → (s.ring r).error = false → (s.ring r).nCmd < (BitVec.ofNat 32 v - (s.ring r).cmdHead).toNat →
       exec (.cmdTailWrite (0x40000 * r) 4 v) s = .next (s.modRing r fun R => { R with error := true, cause := 1 })) ∧
     ((s.ring r).enabled = true →
       exec (.cplHeadWrite (0x40000 * r + 8) 4 v) s = .next (s.modRing r fun R => { R with headDb := BitVec.ofNat 32 v })) ∧
     ((s.ring r).enabled = false → exec (.cmdTailWrite (0x40000 * r) 4 v) s = .next s ∧ exec (.cplHeadWrite (0x40000 * r + 8) 4 v) s = .next s) ∧
     (∀ off w, w ≠ 4 ∨ off % 0x40000 ≠ 0 → exec (.cmdTailWrite off w v) s = .next s) ∧
     (∀ off w, w ≠ 4 ∨ off % 0x40000 ≠ 8 → exec (.cplHeadWrite off w v) s = .next s)) ∧
  (∀ (s : State) (r v : Nat) (inRange : Prop), r < 256 → s.live = true → s.dev.pcieUp = true →
     inRange = (((BitVec.ofNat 32 v).extractLsb' 1 4).toNat ≤ 12 ∧ ((BitVec.ofNat 32 v).extractLsb' 5 4).toNat ≤ 12) →
     (¬ inRange → exec (.ringEnable r v) s = .next s ∧ exec (.ringDisable r v) s = .next s) ∧
     (inRange → v % 2 = 1 → (s.ring r).enabled = false → (s.ring r).enable = false →
       exec (.ringEnable r v) s = .next (s.modRing r fun R => { R with
         cfg := (BitVec.ofNat 32 v &&& 0xFF01FE01#32) ||| (BitVec.ofNat 32 v &&& 0x1FE#32), enabled := true, error := false, cause := 0,
         cmdHead := 0#32, cplTail := 0#32, tailDb := 0#32, headDb := 0#32, unsig := none })) ∧
     (inRange → v % 2 = 0 → (s.ring r).enabled = true → ∃ s', exec (.ringDisable r v) s = .next s' ∧
       s' = { s with host := { s.host with rings := s'.host.rings } } ∧ (∀ q, q ≠ r → s'.ring q = s.ring q) ∧
       (s'.ring r).enable = false ∧ (s'.ring r).enabled = s.ringBusy r ∧ (s'.ring r).nCmd = (s.ring r).nCmd ∧
       (s'.ring r).cmdHead = (s.ring r).cmdHead ∧ (s'.ring r).cplTail = (s.ring r).cplTail ∧ s'.mayFetch r = false))

/-- A well-formed descriptor, with its own record or with one read from host memory, is fetched and accepted: CMD_HEAD advances by one, and the command
waits behind every earlier one; a failed read of the descriptor stops the ring with cause HOST_READ; a malformed descriptor, or a record that cannot
be read, completes with BAD_PARAM, and any descriptor of a WEDGED device with WEDGED (10 R287, R290, R295). While 4,096 posts are outstanding a
COLL_POST is not fetched. 10 R288: the record of the first command waiting on an enabled ring with room is written as 32 bytes at CPL_RING_BASE + 32
× (n mod N_cpl) with phase (⌊n / N_cpl⌋ + 1) mod 2, CPL_TAIL becomes n + 1, and the command is done; no other byte of host memory changes. The
record of the warm reset that was accepted is written at the place, with the phase and the tag latched then, and its vector signalled (13 R359). -/
def Obligations.CommandsAreFetchedAndReported : Prop :=
  (∀ (s : State) (r : Nat) (d p rec : List Byte) (moved : State), r < 256 → s.mayFetch r = true →
     moved = (s.modRing r fun R => { R with cmdHead := R.cmdHead + 1#32 }) →
     rec = (if descIndirect d then p else Machine.slice d 12 (fieldAt d 8 4)) →
     (d = [] → exec (.descriptorFetch r d p) s = .next (s.modRing r fun R => { R with error := true, cause := 2 })) ∧
     (d.length = 64 → fieldAt d 0 2 = 0x0302 → 4096 ≤ s.postCount → exec (.descriptorFetch r d p) s = .next s) ∧
     (d.length = 64 → (fieldAt d 0 2 = 0x0302 → s.postCount < 4096) → s.dev.state ≠ .wedged → descOk d = true →
       (descIndirect d = true → p.length = fieldAt d 8 4) → exec (.descriptorFetch r d p) s = .next (moved.modHost fun h =>
         { h with nextId := h.nextId + 1, cmds := h.cmds ++ [s.fetched r d rec] })) ∧
     (d.length = 64 → (fieldAt d 0 2 = 0x0302 → s.postCount < 4096) → (∀ k ∈ s.host.cmds, k.id < s.host.nextId) →
       (s.dev.state = .wedged ∨ descOk d = false ∨ (descIndirect d = true ∧ p.length ≠ fieldAt d 8 4)) →
       exec (.descriptorFetch r d p) s = .next (moved.modHost fun h => { h with
         nextId := h.nextId + 1
         dones := h.dones ++ [(s.fetched r d rec).reportedAs (if s.dev.state = .wedged then stWedged else stBadParam) [] s.t3] }))) ∧
  (∀ (s : State) (d : Done) (r : Nat), d.src = .ring r → s.host.dones.find? (fun x => x.id == d.id) = some d →
     s.host.dones.find? (fun x => x.src == d.src) = some d → s.live = true → s.dev.pcieUp = true →
     ((∀ L, s.host.latched = some L → L.cmd ≠ d.id) → (s.ring r).enabled = true → (s.ring r).room = true →
       ∃ s', exec (.completionRecordWrite d.id) s = .next s' ∧
       (let n := (s.ring r).cplTail.toNat
        let at0 := (s.ring r).cplBase.toNat + 32 * (n % (s.ring r).nCpl)
        let rec32 := recordBytes d.status ((n / (s.ring r).nCpl + 1) % 2) false d.opcode d.tag d.words
        ∀ a, s'.host.mem.byte a = if at0 ≤ a ∧ a < at0 + rec32.length then rec32.getD (a - at0) 0#8 else s.host.mem.byte a) ∧
       (s'.ring r).cplTail = (s.ring r).cplTail + 1#32 ∧ (∀ q, q ≠ r → s'.ring q = s.ring q) ∧
       s'.host.dones = s.host.dones.filter (fun x => x.id != d.id) ∧ s'.host.cmds = s.host.cmds ∧
       s' = { s with host := s'.host }) ∧
     (∀ L, s.host.latched = some L → L.cmd = d.id → ∃ s', exec (.completionRecordWrite d.id) s = .next s' ∧
       (let rec32 := recordBytes d.status L.phase false d.opcode L.tag d.words
        ∀ a, s'.host.mem.byte a = if L.addr ≤ a ∧ a < L.addr + rec32.length then rec32.getD (a - L.addr) 0#8 else s.host.mem.byte a) ∧
       s'.host.latched = none ∧ (∀ q, s'.ring q = s.ring q) ∧ s'.host.dones = s.host.dones.filter (fun x => x.id != d.id) ∧
       s' = { s with host := s'.host }))

/-- A record written to a ring whose coalesce_us is 0 signals its vector at once; else the time of the first record not yet signalled is kept, and the
vector is signalled once coalesce_us have passed since then, not before; a masked vector's message stays pending (10 R283, R289). The oldest event
waiting for an enabled ring with room is written as a record with tag 0xFFFF_FFFF and leaves the queue; when none waits, the count of events that
did not fit is reported and starts again at 0 (10 R291, R301). -/
def Obligations.InterruptsAndEventsAreDelivered : Prop :=
  ((∀ (s : State) (r st op tag : Nat) (ev : Bool) (words : List Nat) (s' : State), s' = s.putRecord r st op tag ev words →
     ((s.ring r).coalesce = 0 → (s'.ring r).unsig = none ∧
       ((SMap.get msixAt s.host.msix (4 * (s.ring r).vector + 3)).getLsbD 0 = false →
         SMap.get zeroAt s'.host.sent (s.ring r).vector = SMap.get zeroAt s.host.sent (s.ring r).vector + 1) ∧
       ((SMap.get msixAt s.host.msix (4 * (s.ring r).vector + 3)).getLsbD 0 = true → SMap.get falseAt s'.host.pba (s.ring r).vector = true ∧
         s'.host.sent = s.host.sent)) ∧
     ((s.ring r).coalesce ≠ 0 → (s'.ring r).unsig = some ((s.ring r).unsig.getD s.t3) ∧ s'.host.sent = s.host.sent ∧ s'.host.pba = s.host.pba)) ∧
   (∀ (s : State) (r t0 : Nat), r < 256 → s.live = true → (s.ring r).unsig = some t0 →
     (s.t3 < t0 + 3000 * (s.ring r).coalesce → exec (.interruptCoalesceExpiry r) s = .next s) ∧
     (t0 + 3000 * (s.ring r).coalesce ≤ s.t3 → (SMap.get msixAt s.host.msix (4 * (s.ring r).vector + 3)).getLsbD 0 = false →
       exec (.interruptCoalesceExpiry r) s = .next ((s.modRing r fun R => { R with unsig := none }).modHost fun h =>
         { h with sent := SMap.set zeroAt (s.ring r).vector (SMap.get zeroAt h.sent (s.ring r).vector + 1) h.sent })) ∧
     (t0 + 3000 * (s.ring r).coalesce ≤ s.t3 → (SMap.get msixAt s.host.msix (4 * (s.ring r).vector + 3)).getLsbD 0 = true →
       exec (.interruptCoalesceExpiry r) s = .next ((s.modRing r fun R => { R with unsig := none }).modHost fun h =>
         { h with pba := SMap.set falseAt (s.ring r).vector true h.pba })))) ∧
  (∀ (s : State) (r : Nat), r < 256 → s.live = true → s.dev.pcieUp = true → (s.ring r).enabled = true → (s.ring r).room = true →
     (∀ e, s.host.events.find? (fun x => x.ring == r) = some e → exec (.deviceEventWrite r) s = .next
       ((s.modHost fun h => { h with events := h.events.erase e }).putRecord r e.status e.code 0xFFFFFFFF true e.words)) ∧
     (s.host.events.find? (fun x => x.ring == r) = none → 0 < (s.ring r).evLost → exec (.deviceEventWrite r) s = .next
       ((s.modRing r fun R => { R with evLost := 0 }).putRecord r stOk 8 0xFFFFFFFF true [(s.ring r).evLost])))

/-- BAR2 (10 R282, R285): an aligned write of 4 or 8 bytes is accepted, changes the RW registers it covers, and leaves read-only ones; any other width
or alignment completes with Completer Abort and changes nothing. Out-of-range fields are ignored one by one (a choice of the model). -/
def Obligations.RegisterWritesFollowTheMap : Prop :=
  ∀ (s : State) (off v : Nat), s.linkUp = true → off < 0x1000000 →
    (∀ w, bar2Ok off w = false → ∀ wr, exec (.bar2BadAccess off w wr) s = .next (s.answer .completerAbort) ∧
      exec (.registerWrite off w v) s = .next (s.answer .completerAbort)) ∧
    (off % 4 = 0 → exec (.registerWrite off 4 v) s = .next ((s.writeWord off (BitVec.ofNat 32 v)).answer .accepted)) ∧
    (off % 8 = 0 → exec (.registerWrite off 8 v) s = .next
      (((s.writeWord off (BitVec.ofNat 32 v)).writeWord (off + 4) (BitVec.ofNat 32 (v / 2 ^ 32))).answer .accepted)) ∧
    exec (.registerWrite 0x1030 4 v) s = .next (s.modDev fun d => { d with hrxHead := BitVec.ofNat 32 v, barOut := .accepted }) ∧
    exec (.registerWrite 0x1008 4 v) s = .next (s.modDev fun d => { d with bar4Window := BitVec.ofNat 32 v &&& 7#32, barOut := .accepted }) ∧
    exec (.registerWrite 0x100C 4 v) s = .next (s.modDev fun d => { d with eventCfg := BitVec.ofNat 32 v &&& 0x1FF#32, barOut := .accepted }) ∧
    (off < 0x1008 → off % 4 = 0 → exec (.registerWrite off 4 v) s = .next (s.answer .accepted))

/-- The BAR4 window (01 R30, R32, R33): a read of memory that is there and holds no uncorrectable word answers its bytes, and counts the words it
corrects; one that meets an uncorrectable word completes with Completer Abort and records it; one where no memory is reads free bytes. A write is
carried out 32-byte word by word; a word it covers in part is read, corrected, and written whole. A write to GDDR7 or the CXL tier changes exactly
the bytes it covers, as every later read of a byte shows. -/
def Obligations.Bar4ReadsAndWritesMemory : Prop :=
  (∀ (s : State) (off len : Nat) (data : List Byte) (ecc : Option Nat) (ce : List Nat), s.linkUp = true →
     (0 < len → off + len ≤ 0x1000000000 → s.memThere (s.bar4Addr off) = true → s.badAmong (wordsOf (s.bar4Addr off) len) ecc = none →
       exec (.bar4Read off len ecc ce) s = .next ((s.corrected (wordsOf (s.bar4Addr off) len) ce).answer (.data (s.memRead (s.bar4Addr off) len)))) ∧
     (0 < len → off + len ≤ 0x1000000000 → s.memThere (s.bar4Addr off) = true → ∀ w, s.badAmong (wordsOf (s.bar4Addr off) len) ecc = some w →
       exec (.bar4Read off len ecc ce) s = .next (((s.corrected (wordsOf (s.bar4Addr off) len) ce).bar4Ecc w).answer .completerAbort)) ∧
     (0 < len → off + len ≤ 0x1000000000 → s.memThere (s.bar4Addr off) = false →
       exec (.bar4Read off len ecc ce) s = .next ((s.freeBytes len).2.answer (.data (s.freeBytes len).1))) ∧
     (off + data.length ≤ 0x1000000000 → ∀ w, (s.bar4Addr off) / 32 = w → (s.bar4Addr off + data.length - 1) / 32 = w → 0 < data.length →
       s.memThere (s.bar4Addr off) = true →
       (data.length = 32 → exec (.bar4Write off data ecc ce) s = .next ((s.memWrite (s.bar4Addr off) data).answer .accepted)) ∧
       (data.length < 32 → s.badAmong [w] ecc = none →
         exec (.bar4Write off data ecc ce) s = .next ((((s.corrected [w] ce).memWrite (s.bar4Addr off) data).healCe [w]).answer .accepted))) ∧
     (off + data.length ≤ 0x1000000000 → exec (.bar4Write off data ecc ce) s =
       .next (((wordsOf (s.bar4Addr off) data.length).foldl (fun s w => s.bar4Word (s.bar4Addr off) data ecc ce w) s).answer .accepted))) ∧
  (∀ (s : State) (a x : Nat) (d : List Byte),
     (s.memWrite a d).memRead x 1 = if a ≤ x ∧ x < a + d.length then [d.getD (x - a) 0#8] else s.memRead x 1)

/-- The commands that report the state and the running firmware (10 R296; 11 R313): each completes with OK and its data, FW_VERSION with zeros while no
image is verified; where the data does not fit out_len the command completes with BAD_PARAM and the length needed in word5, and at a misaligned
out_addr with BAD_PARAM, and no data is written (10 R293). A command of the firmware while a processor it needs is down completes with RETRY and
nothing else changes (10 R295, 01 R37); a finished command of a ring leaves the waiting commands and its record, with status, opcode, tag and words,
waits behind the earlier ones (10 R288). -/
def Obligations.DeviceCommandsReport : Prop :=
  (∀ (s : State) (c : Nat) (k : Cmd) (ver status : List Byte),
     ver = (if s.dev.fwVer.getLsbD 31 then padTo 64 (toLE 3 s.dev.fwVer.toNat ++ [0#8] ++ padTo 32 s.dev.fwDigest ++ padTo 3 s.dev.translator)
            else List.replicate 64 0#8) →
     status = toLE 4 s.devState ++ [0#8, 0#8, 0#8, 0#8] ++ ((List.range 36).map s.portRecord).flatten →
     (s.carries 0x0801 c k → k.takes 64 → exec (.fwVersion c) s = .next (s.reported k [] ver)) ∧
     (s.carries 0x0102 c k → k.takes 1160 → exec (.devStatus c) s = .next (s.reported k [] status)) ∧
     (s.carries 0x0801 c k → fieldAt k.params 8 4 < 64 → k.viaPort = true ∨ fieldAt k.params 0 8 % 32 = 0 →
       exec (.fwVersion c) s = .next ((s.take c).finish c stBadParam [0, 0, 0, 0, 0, 64])) ∧
     (s.carries 0x0102 c k → fieldAt k.params 8 4 < 1160 → k.viaPort = true ∨ fieldAt k.params 0 8 % 32 = 0 →
       exec (.devStatus c) s = .next ((s.take c).finish c stBadParam [0, 0, 0, 0, 0, 1160])) ∧
     (k.viaPort = false → fieldAt k.params 0 8 % 32 ≠ 0 →
       (s.carries 0x0801 c k → exec (.fwVersion c) s = .next ((s.take c).finish c stBadParam)) ∧
       (s.carries 0x0102 c k → exec (.devStatus c) s = .next ((s.take c).finish c stBadParam)))) ∧
  ((∀ (s : State) (c : Nat) (k : Cmd) (row : (Nat → Instr) × Nat), row ∈ [(Instr.devStatus, 0x0102), (Instr.devSetMode, 0x0103),
       (Instr.devWarmReset, 0x0104), (Instr.ctxCreate, 0x0201), (Instr.ctxStop, 0x0204), (Instr.ctxTeardown, 0x0205), (Instr.collSubstitute, 0x0304),
       (Instr.routeWrite, 0x0401), (Instr.routeRead, 0x0402), (Instr.portConfig, 0x0403), (Instr.portLoop, 0x0405), (Instr.shaperConfig, 0x0502),
       (Instr.policerConfig, 0x0503), (Instr.telWindow, 0x0702), (Instr.almanacRead, 0x0703), (Instr.fwActivate, 0x0803), (Instr.attest, 0x0804),
       (Instr.pwrPolicy, 0x0901), (Instr.pwrFloor, 0x0902), (Instr.heatReport, 0x0903), (Instr.diagScratchSample, 0x0A03),
       (Instr.engineReset, 0x0A04)] →
     s.cmd? c = some k → s.live = true → k.opcode = row.2 → s.ready k = true → s.served row.2 = false →
     exec (row.1 c) s = .next (s.finish c stRetry)) ∧
   (∀ (s : State) (c r status : Nat) (k : Cmd) (words : List Nat), s.cmd? c = some k → k.src = .ring r →
     s.finish c status words = { s with host := { s.host with
       cmds := s.host.cmds.filter (fun x => x.id != c),
       dones := s.host.dones ++ [k.reportedAs status words s.t3] } }))

/-- 01 R36: while a context exists or the prefix store is enabled, with mode_lock 1, or with a reserved field that is not 0, DEV_SET_MODE completes with
BAD_PARAM and changes nothing; otherwise DEV_MODE, mode_lock included, takes the value of the command before it completes with OK. -/
def Obligations.DevSetModeObeysItsLocks : Prop :=
  ∀ (s : State) (c : Nat) (k : Cmd) (v : BitVec 32), s.carries 0x0103 c k → v = BitVec.ofNat 32 (fieldAt k.params 0 4) →
    ((∃ x < 256, (s.ctx x).live = true) ∨ s.pfx.on = true ∨ s.dev.mode.getLsbD 31 = true ∨ v &&& 0x7FFFFFFC#32 ≠ 0#32 →
      exec (.devSetMode c) s = .next ((s.take c).finish c stBadParam)) ∧
    ((∀ x < 256, (s.ctx x).live = false) → s.pfx.on = false → s.dev.mode.getLsbD 31 = false → v &&& 0x7FFFFFFC#32 = 0#32 →
      exec (.devSetMode c) s = .next ((((s.take c).modDev fun d => { d with mode := v }).configured).finish c stOk))

/-! ### The switch -/

/-- A packet's way through the switch (01 R18 to R20; 06 R192, R193; 07 R205 to R222): the oldest host or firmware packet enters on port 36 once its
class admits it and joins a slice's decision queue, or is dropped when the reservation of its slot has no room, or waits; a slice decides the packet
at the head of its queue in its turn, not in the cycle that received it; an idle scheduler port selects its next packet in its turn; and the packet
whose last byte is handed over leaves its port, its cells returned, or is dropped as ECC when a word of it is found uncorrectable, which its source
is told when the word lies behind the header. The checks of a forwarding decision, in their order (06 R184, R189, R205; 07 R217, R221): a header out
of order is HDR_ERR, a route at its end ROUTE_END, a hop that names no port BAD_HOP, a climb after a descent ROUTE_RANK; a packet for a Tiller
without a steering entry is NO_STEER and one of an epoch that is over EPOCH_STALE; one whose output is down is PORT_DOWN; one past them all, for
which a stream queue is found, is linked to it with its return byte, hop, phase and rank_last updated. Packets to the firmware and its packets out
(06 R185; 10 R301, R305): FWP-CMD takes the oldest MGMT packet as a command when its port is accepted, drops it as HDR_ERR when not, and puts a
reply aside; it reports the oldest NOTICE as an event, and sends the oldest waiting notice on port 36, or records it when its route has no hop. That
replies and notices enter as port 36 is the model's choice (log 17). -/
def Obligations.PacketsMoveThroughTheSwitch : Prop :=
  (∀ s : State, s.live = true → s.fab.drainPause = false →
     (∀ p rest, s.host.admitQ = p :: rest →
       (∀ r s1, s.enter p.bytes 36 none = some (some r, s1) →
         exec .hostPacketAdmit s = .next ((s1.modHost fun h => { h with admitQ := rest }).enqueue r.2 { r.1 with origin := p.origin })) ∧
       (∀ s1, s.enter p.bytes 36 none = some (none, s1) → exec .hostPacketAdmit s = .next (s1.modHost fun h => { h with admitQ := rest })) ∧
       (s.enter p.bytes 36 none = none → exec .hostPacketAdmit s = .next s)) ∧
     (∀ i p rest, i < 4 → (s.slice i).dq = p :: rest →
       (s.inTurn i = true → p.rxCyc ≤ s.clk.fab →
         exec (.forwardingDecision i) s = .next ((((s.takeTurn i).modSlice i fun S => { S with dq := rest }).easeSlice i).decidePkt i p)) ∧
       (s.clk.fab < p.rxCyc → exec (.forwardingDecision i) s = .next s)) ∧
     (∀ p, p < 38 → SMap.get noneAt s.fab.txPkt p = none → s.portUp p = true → s.inTurn 4 = true →
       exec (.schedulerSelect p) s = .next ((s.takeTurn 4).selectPort p)) ∧
     (∀ p k idle, p < 38 → SMap.get noneAt s.fab.txPkt p = some k → s.mayHandOver p k = true →
       idle = (s.modFab fun b => { b with txPkt := SMap.set noneAt p none b.txPkt }) →
       exec (.packetTransmitComplete p none) s = .next ((idle.handOver p k).samplePeak p k.vc) ∧
       (∀ w, exec (.packetTransmitComplete p (some w)) s = .next
         ((if 2 ≤ w then (idle.dropPkt k p dropEcc).deliveryLost k p dropEcc else idle.dropPkt k p dropEcc).samplePeak p k.vc)))) ∧
  (∀ (s : State) (i : Nat) (p : Pkt) (aimed : Bool), aimed = (p.hopPort == 37 && decide (p.kind < 2)) →
     (p.headerOk = false → s.decidePkt i p = s.dropPkt p p.inPort dropHdrErr) ∧
     (p.headerOk = true → p.hopCount ≤ p.hopPtr → s.decidePkt i p = s.dropPkt p p.inPort dropRouteEnd) ∧
     (p.headerOk = true → p.hopPtr < p.hopCount → p.hopOk = false → s.decidePkt i p = s.dropPkt p p.inPort dropBadHop) ∧
     (p.headerOk = true → p.hopPtr < p.hopCount → p.hopOk = true → p.hopPort < 36 → p.phase ≠ 0 → p.rankLast ≤ (s.port p.hopPort).rank →
       s.decidePkt i p = s.windowedDrop p dropRouteRank) ∧
     (p.headerOk = true → p.hopPtr < p.hopCount → p.hopOk = true → aimed = true → s.steered p = none →
       s.decidePkt i p = if s.tornEpoch p then s.windowedDrop p dropEpochStale else s.dropPkt p p.inPort dropNoSteer) ∧
     (p.headerOk = true → p.hopPtr < p.hopCount → p.hopOk = true → aimed = true → s.steered p ≠ none → p.epoch ≠ (s.epoch p.ctx).toNat →
       s.decidePkt i p = s.windowedDrop p dropEpochStale) ∧
     (∀ sc phase last p', p.headerOk = true → p.hopPtr < p.hopCount → p.hopOk = true → p.hopPort < 36 →
       rankRule (s.port p.hopPort).rank p.phase p.rankLast = some (sc, phase, last) →
       p' = { (p.pass sc phase last) with outPort := p.hopPort, outSc := sc, steer := 0 } →
       ((s.port p.hopPort).link.state ≠ .active → s.decidePkt i p = (s.dropPkt p p.hopPort dropPortDown).deliveryLost p' p.hopPort dropPortDown) ∧
       ((s.port p.hopPort).link.state = .active → ∀ q, s.classify p' p.hopPort = some q → s.decidePkt i p = s.link i p' q)) ∧
     (∀ t q p', p.headerOk = true → p.hopPtr < p.hopCount → p.hopOk = true → aimed = true → s.steered p = some t →
       p.epoch = (s.epoch p.ctx).toNat → p' = { (p.pass 0 p.phase p.rankLast) with outPort := 37, outSc := 0, steer := t } →
       s.classify p' 37 = some q → s.decidePkt i p = s.link i p' q)) ∧
  (∀ s : State, s.live = true →
     (s.fwpUp fwpCmd = true → ∀ p rest, takeKind 2 s.fab.mailbox = some (p, rest) →
       (s.dev.mgmtCfg.getLsbD p.inPort = false →
         exec .mgmtRequest s = .next ((s.modFab fun b => { b with mailbox := rest }).count (ctrDrop p.inPort dropHdrErr) 1)) ∧
       (s.dev.mgmtCfg.getLsbD p.inPort = true → p.payload.headD 0#8 = 1#8 → exec .mgmtRequest s =
         .next ((s.modFab fun b => { b with mailbox := rest }).accept (.mgmt (p.bytes.take 48) (fieldAt p.payload 4 4))
           ((p.payload.drop 16).take 64) (some (slice p.payload 80 (fieldAt ((p.payload.drop 16).take 64) 8 4))) (mgmtOk p.payload))) ∧
       (s.dev.mgmtCfg.getLsbD p.inPort = true → p.payload.headD 0#8 ≠ 1#8 →
         exec .mgmtRequest s = .next (s.modFab fun b => { b with mailbox := rest }))) ∧
     (s.fwpUp fwpCmd = true → ∀ p rest, takeKind 3 s.fab.mailbox = some (p, rest) →
       exec .noticeReceive s = .next ((s.modFab fun b => { b with mailbox := rest }).devEvent 4 stOk
         [fieldAt p.payload 0 1, fieldAt p.payload 1 1, fieldAt p.payload 2 1, fieldAt p.payload 24 2, fieldAt p.payload 28 4, p.ctx])) ∧
     (∀ n rest, s.fab.notices = n :: rest →
       ((n.route.headD 0#8).toNat / 16 ≠ 0 → exec .noticeQueueSend s = .next ((s.modFab fun b => { b with notices := rest }).sendOn36
         { bytes := mkHeader 3 n.vc 0 0 0 0 0 0 n.tag n.payload.length n.route ++ n.payload })) ∧
       ((n.route.headD 0#8).toNat / 16 = 0 → exec .noticeQueueSend s = .next ((s.modFab fun b => { b with notices := rest }).almQueue
         { type := 0x0E, detail := detail [n.payload.headD 0#8, n.payload.getD 1 0#8, 0#8, 0#8] }))))

/-- The Gleaner (06 R200, R201): a pass starts when the period has elapsed and none runs, not before; at its end the cells found stranded in two passes
in a row are returned, each packet's loss counted, and the pass is counted, as a late one too when the next is due already. Telemetry (07 R223; 10
R296): TEL_READ returns the time base and the counters of a block; TEL_WINDOW sets the length of the windows that begin from now on; at the end of a
window its peaks, first drops and notices restart, whether its row or a later event comes first, and the next window ends at the next multiple of
its length. 13 R367, R370: ALMANAC_READ returns the records from the sequence asked for on, in ascending order and at most as many as asked for,
with their payloads, and refuses a number of records out of range; FWP-LOG writes the oldest waiting record, the oldest held giving way. With no
record held the lowest sequence is free (log 51). The order of the counters of a block is log 23; the lowest sequence of an empty Almanac is free
(log 51). -/
def Obligations.CountersAndRecordsAreKept : Prop :=
  (∀ s : State, s.live = true →
     (s.dev.gleanerCfg.getLsbD 14 = true → s.fab.gleaning = false → s.fab.gleanNext ≤ s.now → exec .gleanerPassStart s =
       .next (s.modFab fun b => { b with gleaning := true, gleanNext := s.now + s.gleanPeriod, stranded := b.stranded.map fun x => (x.1, x.2 + 1) })) ∧
     (s.now < s.fab.gleanNext → exec .gleanerPassStart s = .next s) ∧
     (s.fab.gleaning = true → ∀ s1, s1 = ((s.modFab fun b => { b with gleaning := false, stranded := b.stranded.filter fun x => decide (x.2 < 2) }).count
         ctrGleanPasses 1) → exec .gleanerPassEnd s = .next ((s.fab.stranded.filter fun x => decide (2 ≤ x.2)).foldl (fun s x => s.glean x.1)
           (if s.fab.gleanNext ≤ s.now then s1.count ctrGleanLag 1 else s1)))) ∧
  ((∀ (s : State) (c : Nat) (k : Cmd) (l : List Nat), s.carries 0x0701 c k → fieldAt k.params 13 1 = 0 →
     (s.take c).rollWindow.telBlock (fieldAt k.params 12 1) (fieldAt k.params 14 2) = some l → k.takes (8 + 8 * l.length) →
     exec (.telRead c) s = .next (s.rollWindow.reported k [] (toLE 8 s.now ++ (l.map (toLE 8)).flatten))) ∧
   (∀ (s : State) (c : Nat) (k : Cmd), s.carries 0x0702 c k →
     (1 ≤ fieldAt k.params 0 4 ∧ fieldAt k.params 0 4 ≤ 1000000 →
       exec (.telWindow c) s = .next (((s.take c).rollWindow.modDev fun d => { d with telNext := fieldAt k.params 0 4 }).finish c stOk)) ∧
     (fieldAt k.params 0 4 = 0 ∨ 1000000 < fieldAt k.params 0 4 → exec (.telWindow c) s = .next ((s.take c).finish c stBadParam))) ∧
   (∀ s : State, s.live = true →
     (s.now < s.dev.telEnd → exec .telemetryWindowBoundary s = .next s) ∧
     (s.dev.telEnd ≤ s.now → exec .telemetryWindowBoundary s = .next { s with
       dev := { s.dev with telLen := s.dev.telNext, telEnd := (s.now / (s.dev.telNext * 1000) + 1) * (s.dev.telNext * 1000) }
       fab := { s.fab with qPeak := [], winDrops := [], noticed := [] }
       pwr := { s.pwr with winPth := if s.pwr.winN = 0 then 0 else s.pwr.winSum / (s.pwr.winN : Rat), winSum := 0, winN := 0 } }) ∧
     (s.dev.telEnd ≤ s.now → ∀ p v, SMap.get zeroAt (s.samplePeak p v).fab.qPeak (8 * p + v) = s.qDepth p v))) ∧
  ((∀ (s : State) (c : Nat) (k : Cmd) (l : List ARec) (low : Nat), s.carries 0x0703 c k →
     (1 ≤ fieldAt k.params 16 4 → fieldAt k.params 16 4 ≤ 4096 → low = ((s.alm.recs.head?).map (·.seq)).getD (s.take c).freeNat →
       l = (s.alm.recs.filter fun r => decide (fieldAt k.params 12 4 ≤ r.seq)).take (fieldAt k.params 16 4) →
       k.takes (l.map fun r => r.bytes ++ r.payload).flatten.length →
       exec (.almanacRead c) s = .next (s.reported k [l.length, low, s.alm.nextSeq, s.alm.lost] (l.map fun r => r.bytes ++ r.payload).flatten).drawn) ∧
     (fieldAt k.params 16 4 = 0 ∨ 4096 < fieldAt k.params 16 4 → exec (.almanacRead c) s = .next ((s.take c).finish c stBadParam))) ∧
   (∀ (s : State) (r : ARec) (rest : List ARec), s.live = true → s.fwpUp fwpLog = true → s.alm.waiting = r :: rest →
     exec .almanacRecordWrite s = .next (s.modAlm fun a => { (a.write r) with waiting := rest })))

/-- ROUTE_WRITE replaces entries first to first + n − 1 of the route table and no other, or none with BAD_PARAM when a hop byte has its reserved bit 7
set (06 R181, 00 R8); ROUTE_READ returns them (06 R187; 10 R296). PORT_CONFIG writes the settings it selects when they are in range and the port's
reservations and admission still hold, and completes with BAD_PARAM or REFUSED_NO_FIT and no effect when not (07 R217, R218); PORT_LOOP puts a port
in a test loop, or takes it out to DOWN, or to HELD while something holds it; on a port that is isolated or held for power, or for a mode without
such a pattern, it is BAD_PARAM (09 R274 to R276; 10 R296). -/
def Obligations.RoutesAndPortsAreConfigured : Prop :=
  ((∀ (s : State) (c : Nat) (k : Cmd), s.carries 0x0401 c k → fieldAt k.params 1 1 ≠ 0 → k.params.length = 4 + 16 * fieldAt k.params 1 1 →
     fieldAt k.params 2 2 = 0 → fieldAt k.params 0 1 + fieldAt k.params 1 1 ≤ 256 →
     ((∃ i < fieldAt k.params 1 1, ∃ b ∈ slice k.params (5 + 16 * i) 15, b.getLsbD 7 = true) →
       exec (.routeWrite c) s = .next ((s.take c).finish c stBadParam)) ∧
     (routeBad (fieldAt k.params 1 1) k.params = false →
       ∃ m : SMap (List Byte), exec (.routeWrite c) s = .next (((s.take c).modFab fun b => { b with routes := m }).finish c stOk) ∧
       ∀ e, SMap.get nilAt m e = if fieldAt k.params 0 1 ≤ e ∧ e < fieldAt k.params 0 1 + fieldAt k.params 1 1 then
         routeEntry (slice k.params (4 + 16 * (e - fieldAt k.params 0 1)) 16) else SMap.get nilAt s.fab.routes e)) ∧
   (∀ (s : State) (c : Nat) (k : Cmd), s.carries 0x0402 c k → fieldAt k.params 13 1 ≠ 0 → fieldAt k.params 14 2 = 0 →
     fieldAt k.params 12 1 + fieldAt k.params 13 1 ≤ 256 → k.takes (16 * fieldAt k.params 13 1) →
     exec (.routeRead c) s = .next (s.reported k []
       ((List.range (fieldAt k.params 13 1)).map fun i => padTo 16 (SMap.get nilAt s.fab.routes (fieldAt k.params 12 1 + i))).flatten))) ∧
  ((∀ (s : State) (c p : Nat) (k : Cmd) (s1 : State), s.carries 0x0403 c k → p = fieldAt k.params 0 1 → s1 = (s.take c).writePort k.params →
     ((s.take c).portCfgBad k.params = true → exec (.portConfig c) s = .next ((s.take c).finish c stBadParam)) ∧
     ((s.take c).portCfgBad k.params = false →
       (s1.reservationsOk p = false → exec (.portConfig c) s = .next ((s.take c).finish c stBadParam)) ∧
       (s1.reservationsOk p = true → s1.admissionOk p = false → exec (.portConfig c) s = .next ((s.take c).finish c stNoFit)) ∧
       (s1.reservationsOk p = true → s1.admissionOk p = true → exec (.portConfig c) s = .next (s1.configured.finish c stOk)))) ∧
   (∀ (s : State) (c p mode pattern : Nat) (k : Cmd), s.carries 0x0405 c k → p = fieldAt k.params 0 1 → mode = fieldAt k.params 1 1 →
     pattern = fieldAt k.params 2 1 →
     (36 ≤ p ∨ loopPattern mode pattern = false ∨ fieldAt k.params 3 1 ≠ 0 ∨ (s.port p).link.state = .isolated ∨ (s.port p).link.heldPower = true →
       exec (.portLoop c) s = .next ((s.take c).finish c stBadParam)) ∧
     (p < 36 → loopPattern mode pattern = true → fieldAt k.params 3 1 = 0 → (s.port p).link.state ≠ .isolated → (s.port p).link.heldPower = false →
       (mode ≠ 0 → exec (.portLoop c) s = .next (((s.take c).enterLoop p mode pattern).finish c stOk)) ∧
       (mode = 0 → (s.port p).link.state = .loop → exec (.portLoop c) s = .next (((s.take c).rejoin p).finish c stOk)) ∧
       (mode = 0 → (s.port p).link.state ≠ .loop → exec (.portLoop c) s = .next ((s.take c).finish c stOk)))))

/-- QUEUE_CONFIG (06 R192; 07 R206 to R209): a record in range writes exactly the queues, map, weights or class it names and completes with OK when the
reservations and the admission of the ports concerned still hold; a run of free queues that is nowhere to be found is REFUSED_NO_FIT; queues that
hold nothing are released, and queues already bound as the record says are weighted anew. What is decided later sees the change from the next
FAB_CLK cycle (R222). Shapers, policers and early-drop profiles (07 R212 to R217): a record in range writes exactly the registers it names, and
completes with OK when the reservations and the admission of the ports concerned still hold. What is decided later sees the change from the next
FAB_CLK cycle (R222). -/
def Obligations.QueuesShapersAndPoliciesAreConfigured : Prop :=
  (∀ (s : State) (c : Nat) (k : Cmd),
     (s.carries 0x0501 c k → fieldAt k.params 0 1 = 0 → fieldAt k.params 1 1 < 38 → fieldAt k.params 2 1 ≤ 7 → fieldAt k.params 3 1 ≠ 0 →
       1 ≤ fieldAt k.params 6 2 → fieldAt k.params 4 2 + fieldAt k.params 6 2 ≤ 65536 → fieldAt k.params 4 2 ≠ 0xFFFF →
       fieldAt k.params 6 2 ≤ 4096 → fieldAt k.params 8 1 = 0 → allZero (k.params.drop 9) = true →
       ((∀ i < fieldAt k.params 6 2, (s.sqCfg (fieldAt k.params 4 2 + i)).inUse = false ∧ s.queueHolds (fieldAt k.params 4 2 + i) = false ∧
         s.mapped (fieldAt k.params 4 2 + i) = false) ∨
        (∀ i < fieldAt k.params 6 2, ∃ w, s.sqCfg (fieldAt k.params 4 2 + i) =
         { port := fieldAt k.params 1 1, vc := fieldAt k.params 2 1, inUse := true, weight := w, owner := 1 })) →
       ∀ s1, s1 = (s.take c).setQueues (fieldAt k.params 4 2) (fieldAt k.params 6 2)
         (fun _ => { port := fieldAt k.params 1 1, vc := fieldAt k.params 2 1, inUse := true, weight := fieldAt k.params 3 1, owner := 1 }) →
       (∀ p ∈ fieldAt k.params 1 1 :: (List.range (fieldAt k.params 6 2)).map (fun i => (s.sqCfg (fieldAt k.params 4 2 + i)).port),
         s1.reservationsOk p = true ∧ s1.admissionOk p = true) →
       exec (.queueConfigSqCfg c) s = .next (s1.configured.finish c stOk [fieldAt k.params 4 2])) ∧
     (s.carries 0x0501 c k → fieldAt k.params 0 1 = 0 → fieldAt k.params 1 1 < 38 → fieldAt k.params 2 1 ≤ 7 → fieldAt k.params 3 1 ≠ 0 →
       1 ≤ fieldAt k.params 6 2 → fieldAt k.params 6 2 ≤ 4096 → fieldAt k.params 4 2 = 0xFFFF → fieldAt k.params 8 1 = 0 →
       allZero (k.params.drop 9) = true → firstRun (fun i => !(s.sqCfg i).inUse && !s.queueHolds i) (fieldAt k.params 6 2) 65536 0 0 = none →
       exec (.queueConfigSqCfg c) s = .next ((s.take c).finish c stNoFit)) ∧
     (s.carries 0x0501 c k → fieldAt k.params 0 1 = 0 → fieldAt k.params 1 1 < 38 → 1 ≤ fieldAt k.params 6 2 →
       fieldAt k.params 4 2 + fieldAt k.params 6 2 ≤ 65536 → fieldAt k.params 4 2 ≠ 0xFFFF → fieldAt k.params 6 2 ≤ 4096 → fieldAt k.params 8 1 = 1 →
       allZero (k.params.drop 9) = true →
       (∀ i < fieldAt k.params 6 2, (s.sqCfg (fieldAt k.params 4 2 + i)).inUse = true ∧ (s.sqCfg (fieldAt k.params 4 2 + i)).owner = 1 ∧
         s.queueHolds (fieldAt k.params 4 2 + i) = false ∧ s.mapped (fieldAt k.params 4 2 + i) = false) →
       exec (.queueConfigSqCfg c) s = .next (((s.take c).setQueues (fieldAt k.params 4 2) (fieldAt k.params 6 2) fun _ => {}).configured.finish c stOk
         [fieldAt k.params 4 2])) ∧
     (s.carries 0x0501 c k → fieldAt k.params 0 1 = 1 → fieldAt k.params 1 1 < 38 → fieldAt k.params 2 1 ≤ 7 → fieldAt k.params 3 1 = 0 →
       fieldAt k.params 6 1 ≤ 12 → allZero (k.params.drop 7) = true → fieldAt k.params 4 2 + 2 ^ fieldAt k.params 6 1 ≤ 65536 →
       (∀ i < 2 ^ fieldAt k.params 6 1, (s.sqCfg (fieldAt k.params 4 2 + i)).inUse = true ∧
         (s.sqCfg (fieldAt k.params 4 2 + i)).port = fieldAt k.params 1 1 ∧ (s.sqCfg (fieldAt k.params 4 2 + i)).vc = fieldAt k.params 2 1 ∧
         (s.sqCfg (fieldAt k.params 4 2 + i)).owner ≠ 3) →
       exec (.queueConfigSqMap c) s = .next (((s.take c).modFab fun b => { b with
         sqMap := SMap.set sqMapAt (8 * fieldAt k.params 1 1 + fieldAt k.params 2 1) (fieldAt k.params 4 2, fieldAt k.params 6 1) b.sqMap }).configured.finish
           c stOk)) ∧
     (s.carries 0x0501 c k → fieldAt k.params 0 1 = 2 → fieldAt k.params 1 1 < 38 → fieldAt k.params 2 2 = 0 → fieldAt k.params 18 2 = 0 →
       (∀ v < 7, 1 ≤ fieldAt k.params (4 + 2 * v) 2 ∧ fieldAt k.params (4 + 2 * v) 2 ≤ 1023) →
       ∀ s1, s1 = (s.take c).modPort (fieldAt k.params 1 1) (fun P => { P with wdrr := (List.range 7).map fun v => fieldAt k.params (4 + 2 * v) 2 }) →
       s1.reservationsOk (fieldAt k.params 1 1) = true → s1.admissionOk (fieldAt k.params 1 1) = true →
       exec (.queueConfigPortWdrr c) s = .next (s1.configured.finish c stOk)) ∧
     (s.carries 0x0501 c k → fieldAt k.params 0 1 = 3 → fieldAt k.params 1 1 < 38 → fieldAt k.params 2 1 ≤ 15 → fieldAt k.params 3 1 = 0 →
       allZero (k.params.drop 12) = true → 17 ≤ fieldAt k.params 4 4 → fieldAt k.params 4 4 ≤ fieldAt k.params 8 4 → fieldAt k.params 8 4 ≤ 786432 →
       ∀ m, m = SMap.set bufCfgAt (16 * fieldAt k.params 1 1 + fieldAt k.params 2 1) (fieldAt k.params 4 4, fieldAt k.params 8 4) s.fab.bufCfg →
       sumMinima m + s.slotCells ≤ s.poweredCells →
       exec (.queueConfigBufClass c) s = .next (((s.take c).modFab fun b => { b with bufCfg := m }).configured.finish c stOk))) ∧
  (∀ (s : State) (c : Nat) (k : Cmd),
     (s.carries 0x0502 c k → fieldAt k.params 1 1 = 0 →
       ∀ v, v = BitVec.ofNat 64 (fieldAt k.params 4 8) → v.getLsbD 23 = false → v >>> 49 = 0#64 → (v.getLsbD 48 = true → v.extractLsb' 0 23 ≠ 0#23) →
       ∀ s1 p, p = s.shaperPort (fieldAt k.params 0 1) (fieldAt k.params 2 2) → s1.reservationsOk p = true → s1.admissionOk p = true →
         (fieldAt k.params 0 1 = 0 → s1 = (s.take c).modStrShaper (fieldAt k.params 2 2) (·.write v) →
           exec (.shaperConfig c) s = .next (s1.configured.finish c stOk)) ∧
         (fieldAt k.params 0 1 = 1 → fieldAt k.params 2 2 < 304 → (fieldAt k.params 2 2 % 8 = 0 → v.getLsbD 48 = true) →
           s1 = (s.take c).modSvcShaper (fieldAt k.params 2 2) (·.write v) → exec (.shaperConfig c) s = .next (s1.configured.finish c stOk)) ∧
         (fieldAt k.params 0 1 = 2 → fieldAt k.params 2 2 < 38 → s1 = (s.take c).modPortShaper (fieldAt k.params 2 2) (·.write v) →
           exec (.shaperConfig c) s = .next (s1.configured.finish c stOk))) ∧
     (s.carries 0x0503 c k → fieldAt k.params 2 2 = 0 → policerOk (BitVec.ofNat 128 (fieldAt k.params 4 16)) = true →
       ∀ s1, s1 = (s.take c).modPolicer (fieldAt k.params 0 2) (·.write (BitVec.ofNat 128 (fieldAt k.params 4 16))) →
       s1.reservationsOk (s.sqCfg (fieldAt k.params 0 2)).port = true → s1.admissionOk (s.sqCfg (fieldAt k.params 0 2)).port = true →
       exec (.policerConfig c) s = .next (s1.configured.finish c stOk)) ∧
     (s.carries 0x0504 c k → fieldAt k.params 0 1 = 0 → 1 ≤ fieldAt k.params 1 1 → fieldAt k.params 1 1 ≤ 15 → fieldAt k.params 2 2 = 0 →
       (∀ i < 3, redOk (BitVec.ofNat 64 (fieldAt k.params (4 + 8 * i) 8)) = true) →
       ∃ m : SMap (BitVec 64), exec (.wredProfileProfile c) s = .next (((s.take c).modFab fun b => { b with red := m }).configured.finish c stOk) ∧
         ∀ e, SMap.get zeroBits m e = if e / 4 = fieldAt k.params 1 1 ∧ e % 4 < 3 then BitVec.ofNat 64 (fieldAt k.params (4 + 8 * (e % 4)) 8)
           else SMap.get zeroBits s.fab.red e) ∧
     (s.carries 0x0504 c k → fieldAt k.params 0 1 = 1 → fieldAt k.params 1 1 < 38 → fieldAt k.params 2 2 = 0 → allZero (k.params.drop 12) = true →
       (BitVec.ofNat 64 (fieldAt k.params 4 8)).extractLsb' 0 4 = 0#4 → (BitVec.ofNat 64 (fieldAt k.params 4 8)).extractLsb' 56 4 = 0#4 →
       exec (.wredProfilePortVcRed c) s =
         .next (((s.take c).modPort (fieldAt k.params 1 1) fun P => { P with vcRed := BitVec.ofNat 64 (fieldAt k.params 4 8) }).configured.finish
           c stOk)))

/-! ### Memory tiers -/

/-- The CXL ports and the scrub (08 R227, R229 to R231; 13 R364): a failed port goes down; a write of a torn-down context unacknowledged 10 ms after
step 4 takes its port down, not before; a trained expander of the capacity known before comes up with its list to be rebuilt and its first pass of
scrub counted from then, one of another capacity holds the port down until a cold reset, and a device outside the subset leaves the port down and is
recorded (log 57); a scrub slot writes the oldest corrected word back, or else reads the next line. -/
def Obligations.MemoryTierEventsTakeEffect : Prop :=
  ∀ (s : State) (k : Nat), s.live = true → k < 2 →
    exec (.cxlPortDown k) s = .next (s.cxlDown k) ∧
    (∀ x r, x < 256 → (s.ctx x).tear = some r → r.step = 4 → r.since + 30000000 ≤ s.t3 →
      exec (.cxlWriteAckTimeout x k) s = .next (s.cxlDown k)) ∧
    (∀ x r, x < 256 → (s.ctx x).tear = some r → s.t3 < r.since + 30000000 → exec (.cxlWriteAckTimeout x k) s = .next s) ∧
    ((s.cxl k).up = false → (s.cxl k).heldDown = false → (s.cxl k).refOk = true → (s.cxl k).perstN = true → s.domOn (domCxl k) = true →
      exec (.cxlPortUp k 0) s = .next (s.cxlRefused k)) ∧
    (∀ cap, 0 < cap → (s.cxl k).up = false → (s.cxl k).heldDown = false → (s.cxl k).refOk = true → (s.cxl k).perstN = true →
      s.domOn (domCxl k) = true →
      ((s.cxl k).lastCap = none ∨ (s.cxl k).lastCap = some (min cap cxlMax) → exec (.cxlPortUp k cap) s =
        .next (((s.modCxl k fun x => { x with up := true, cap := min cap cxlMax, lastCap := some (min cap cxlMax) }).modList (16 + k)
          fun l => { l with drained := true, rebuilding := true }).passFromNow (24 + k))) ∧
      (∀ u, (s.cxl k).lastCap = some u → u ≠ min cap cxlMax →
        exec (.cxlPortUp k cap) s = .next (s.modCxl k fun x => { x with heldDown := true }))) ∧
    (∀ m ecc, m < 26 → s.scrubs m = true →
      (∀ w rest, (s.ctrl m).back = w :: rest → exec (.scrubSlot m ecc) s = .next ((s.healCe [w]).modCtrl m fun c => { c with back := rest })) ∧
      ((s.ctrl m).back = [] → exec (.scrubSlot m ecc) s = .next ((s.scrubLine m ecc).scrubStep m)))

/-! ### Power, pins and the management port -/

/-- 14 R385: the comparators sample every 10 µs, in the always-on domain too: a condition is due when the sample before found it beyond as well; the
extremes of an emergency are kept. 14 R385, R386: a cause beyond its threshold in two samples in a row starts the emergency at rung 1, with
warm-keeping at 0, the emergency bit and its event; a cause that joins later adds to the mask; a THERMAL_TRIP turns every switched domain off and
makes the device WEDGED. The sensor values are operands of the rows (log 12). -/
def Obligations.EmergencyIsSensedAndBegins : Prop :=
  (∀ (s : State) (v : SensorVals), s.pwr.alive = true → s.pwr.nextSample ≤ s.aonNs →
     ∃ s', exec (.emergencySample v) s = .next s' ∧ s' = { s with pwr := s'.pwr } ∧ s'.pwr.sens = ofVals v ∧
       s'.pwr.beyond = (s.sense v).pwr.over ∧ s'.pwr.due = (s.sense v).pwr.over &&& s.pwr.beyond ∧
       s'.pwr.insideSince = (if (s.sense v).pwr.inside then some (s.pwr.insideSince.getD s.t3) else none) ∧
       s'.pwr.nextSample = (s.aonNs / 10000 + 1) * 10000 ∧ s'.pwr.causes = s.pwr.causes ∧ s'.pwr.rung = s.pwr.rung ∧
       s'.pwr.emTj = (if s.pwr.rung = 0 then s.pwr.emTj else (ofVals v).hottest s.pwr.emTj) ∧
       s'.pwr.emVin = (if s.pwr.rung = 0 then s.pwr.emVin else fartherVin s.pwr.emVin v.vIn)) ∧
  (∀ s : State, s.live = true → s.pwr.due &&& ~~~ s.pwr.causes ≠ 0#5 →
     (s.pwr.due.getLsbD 4 = true → s.pwr.causes.getLsbD 4 = false → ∃ s', exec .emergencyBegin s = .next s' ∧ s'.dev.state = .wedged ∧
       (∀ d < 56, s'.domOn d = false) ∧ s'.pwr.causes = s.pwr.causes ||| s.pwr.due) ∧
     ((s.pwr.causes ||| s.pwr.due).getLsbD 4 = false → ∀ m p, m = s.pwr.causes ||| s.pwr.due →
       p = { s.pwr with causes := m, rungAt := if s.pwr.causes = 0#5 then s.t3 else s.pwr.rungAt, warmW := 0 } →
       (s.pwr.rung = 0 → exec .emergencyBegin s = .next (({ s with
         pwr := { p with emMask := m, rung := 1, emRung := 1, emStart := s.t3, emTj := s.pwr.sens.hottest (s.pwr.sens.tDie.headD 0), emVin := s.pwr.sens.vIn }
         dev := { s.dev with emergency := true } }).devEvent 5 stOk [1, m.toNat])) ∧
       (s.pwr.rung ≠ 0 → exec .emergencyBegin s = .next { s with pwr := { p with emMask := s.pwr.emMask ||| m } })))

/-- 14 R385, R387: the ladder climbs one rung for each 100 µs that a condition persists, up to rung 4; the causes clear once every value has stayed
inside its release limit for 10 ms; then the ladder descends one rung each 10 ms, and at rung 0 the emergency ends with its event and its record.
Nothing else changes. 14 R377 and 12 R335: a waiting CORE_CLK change begins once no step in progress holds it, and not before; begun, it takes
effect when it is done, unless a Tiller has started inside a step meanwhile, which holds it once more. -/
def Obligations.LadderAndCoreClockMove : Prop :=
  (∀ s : State, s.live = true →
     (s.pwr.causes ≠ 0#5 → s.pwr.rung < 4 → s.pwr.rungAt + 300000 ≤ s.t3 → exec .ladderClimb s = .next (s.modPwr fun p =>
       { p with rung := p.rung + 1, emRung := max p.emRung (p.rung + 1), rungAt := p.rungAt + 300000 })) ∧
     (s.pwr.causes ≠ 0#5 → s.pwr.causes.getLsbD 4 = false → (∃ t, s.pwr.insideSince = some t ∧ t + 30000000 ≤ s.t3) →
       exec .emergencyClear s = .next (s.modPwr fun p => { p with causes := 0#5, rungAt := s.t3 })) ∧
     (s.pwr.causes = 0#5 → 1 < s.pwr.rung → s.pwr.rungAt + 30000000 ≤ s.t3 →
       exec .ladderDescend s = .next (s.modPwr fun p => { p with rung := p.rung - 1, rungAt := p.rungAt + 30000000 })) ∧
     (s.pwr.causes = 0#5 → s.pwr.rung = 1 → s.pwr.rungAt + 30000000 ≤ s.t3 → exec .ladderDescend s =
       .next (({ s with pwr := { s.pwr with rung := 0, rungAt := s.pwr.rungAt + 30000000, setAToPe := true },
                        dev := { s.dev with emergency := false } }.almQueue s.emergencyRec).devEvent 5 stOk [0, 0]))) ∧
  (∀ s : State, s.live = true →
     (∀ m, s.pwr.clkReq = some m → s.pwr.clkStep = none → s.clkHeld = false →
       exec .coreClkChangeApply s = .next (s.modPwr fun p => { p with clkReq := none, clkStep := some (m, s.t3) })) ∧
     (∀ m t, s.pwr.clkStep = some (m, t) → s.clkHeld = false →
       exec .coreClkStepDone s = .next { s with pwr := { s.pwr with clkStep := none }, clk := { s.clk with coreMHz := m } }) ∧
     (s.clkHeld = true → exec .coreClkChangeApply s = .next s ∧ exec .coreClkStepDone s = .next s))

/-- The Mulch tick and the energy integration (14 R376 to R382): each runs once its millisecond has come; the tick computes cap, load, floor and
headroom from the readings, keeps W within them and at most 720 W, moves the allowance A by no more than the ramp, and requests at most one step of
CORE_CLK, up or down by 50 MHz; the integration adds the powers of its millisecond, to the telemetry window that holds it. The sensor values are
operands of the rows (log 12); rationals stand for the controller's numbers (log 19). -/
def Obligations.MulchTicksAndIntegrates : Prop :=
  ∀ (s : State) (v : SensorVals), s.live = true →
    (s.fwpUp fwpPwr = true → s.pwr.nextTick ≤ s.now → ∃ s', exec (.mulchTick v) s = .next s' ∧
      s'.pwr.warmW = (s.sense v).tickWarm (s.sense v).pwr.tick ∧ s'.pwr.cap = (s.sense v).pwr.tick.cap ∧
      s'.pwr.warmW ≤ 720 ∧ s'.pwr.allowA ≤ (s.sense v).pwr.tick.a + (s.sense v).pwr.ramp ∧
      (s.sense v).pwr.tick.a - (s.sense v).pwr.ramp ≤ s'.pwr.allowA ∧ s'.clk = s.clk ∧
      (∀ m, s'.pwr.clkReq = some m → s.pwr.clkReq = some m ∨ m = s.clk.coreMHz + 50 ∨ m + 50 = s.clk.coreMHz) ∧
      (∀ m t0, s'.pwr.clkStep = some (m, t0) → s.pwr.clkStep = some (m, t0) ∨ m = s.clk.coreMHz + 50 ∨ m + 50 = s.clk.coreMHz) ∧ s'.pwr.pTh = (s.sense v).pwr.pThNow ∧ s'.pwr.pE = (s.sense v).pwr.pENow ∧
      s'.pwr.nextTick = (s.now / 1000000 + 1) * 1000000 ∧ s'.pwr.rung = s.pwr.rung ∧ s'.pwr.mulchCfg = s.pwr.mulchCfg ∧
      s'.tillers = s.tillers ∧ s'.mem = s.mem ∧ s'.fab = s.fab) ∧
    (s.pwr.nextInt ≤ s.now → exec (.energyIntegration v) s = .next ((s.rollWindow.sense v).modPwr fun p => { p with
      heat := p.heat + p.pThNow, elec := p.elec + p.pENow, warmE := p.warmE + p.warmW, winSum := p.winSum + p.pThNow, winN := p.winN + 1,
      nextInt := (s.now / 1000000 + 1) * 1000000 }))

/-- The power commands (14 R375, R381, R383, R388): a record in range is taken and completes with OK; PWR_POLICY turns the domains newly kept off off,
and asks again for those kept off no longer; a value out of range, or a domain to be kept off that holds live state, is BAD_PARAM and changes
nothing. HEAT_REPORT changes nothing but its own data, its record, the window in force and the draw of a free value. -/
def Obligations.PowerCommandsTakeEffect : Prop :=
  ∀ (s : State) (c cfg keep f : Nat) (k : Cmd) (off again : List Nat),
    cfg = fieldAt k.params 0 8 → keep = fieldAt k.params 8 8 → f = fieldAt k.params 0 2 →
    off = (List.range 56).filter (fun d => keep / 2 ^ d % 2 == 1 && s.domOn d) →
    again = (List.range 56).filter (fun d => keep / 2 ^ d % 2 == 0 && s.pwr.keepOff.getLsbD d) →
    (s.carries 0x0901 c k → mulchOk cfg = true → keep < 2 ^ 56 → (∀ d < 56, keep / 2 ^ d % 2 = 1 → s.domLive d = false) →
      exec (.pwrPolicy c) s = .next (((off.foldl State.beginOff ((s.take c).modPwr fun p =>
        { p with mulchCfg := BitVec.ofNat 64 cfg, keepOff := BitVec.ofNat 64 keep })).requestDomains again).finish c stOk)) ∧
    (s.carries 0x0901 c k → mulchOk cfg = false ∨ 2 ^ 56 ≤ keep ∨ (∃ d < 56, keep / 2 ^ d % 2 = 1 ∧ s.domLive d = true) →
      exec (.pwrPolicy c) s = .next ((s.take c).finish c stBadParam)) ∧
    (s.carries 0x0902 c k → f = 0 ∨ (100 ≤ f ∧ f ≤ 2400) → fieldAt k.params 2 2 = 0 →
      exec (.pwrFloor c) s = .next (((s.take c).modPwr fun p => { p with floorW := f }).finish c stOk [s.warmAvail.floor.toNat])) ∧
    (s.carries 0x0902 c k → (0 < f ∧ f < 100) ∨ 2400 < f ∨ fieldAt k.params 2 2 ≠ 0 → exec (.pwrFloor c) s = .next ((s.take c).finish c stBadParam)) ∧
    (s.carries 0x0903 c k → k.takes (s.take c).rollWindow.heatReport.length →
      exec (.heatReport c) s = .next (s.rollWindow.reported k [] (s.take c).rollWindow.heatReport).drawn)

/-- Switched domains (14 R374, R375; 15 R392): a domain asked for, with none before it in power-up still off, turns on, frees the ports that it alone
held, and may idle from now on, a GDDR7 group also with its first pass of scrub and the requests that waited for its lists; one found without live
state for a second turns off under auto_off; the turning off ends. 15 R391, R392: both blade pairs at 57 V start the converters; with V_AON in
regulation the cold reset is held and the always-on time starts at 0; PWR_OK and MOD_RST_N high for 10 ms release it: the time base starts at 0,
BOARD_ID is sampled and boot begins; below 54 V the module is off. Whose pins show low until the release is log 62. -/
def Obligations.DomainsAndPowerTurnOnAndOff : Prop :=
  (∀ (s : State) (d : Nat), s.live = true → d < 56 →
     (s.domWanted d = true → s.domBehind d = false → ∀ s1, s1 = ((domPorts d).foldl State.freePower (s.modPwr fun p => { p with
         domOn := SMap.set falseAt d true p.domOn, domReq := SMap.set domReqAt d none p.domReq, domIdle := SMap.set zeroAt d s.t3 p.domIdle })) →
       (d < 42 ∨ 48 ≤ d → exec (.domainPowerOnDone d) s = .next s1) ∧
       (d = 42 ∨ d = 43 → exec (.domainPowerOnDone d) s = .next (s1.modCxl (d - 42) fun x => { x with clearAt := s.now })) ∧
       (44 ≤ d → d < 48 → exec (.domainPowerOnDone d) s = .next ([0, 1, 2, 3].foldl (fun s k => s.sbServe (4 * k + (d - 44)))
         ((List.range 6).foldl (fun s j => s.passFromNow (6 * (d - 44) + j)) s1)))) ∧
     exec (.domainPowerOffDone d) s = .next (s.modPwr fun p => { p with domOff := SMap.set noneAt d none p.domOff }) ∧
     (s.pwr.mulchCfg.getLsbD 40 = true → s.fwpUp fwpPwr = true → s.domOn d = true → s.domLive d = false →
       SMap.get zeroAt s.pwr.domIdle d + 3003000000 ≤ s.t3 → exec (.domainIdleExpiry d) s = .next (s.beginOff d))) ∧
  (∀ s : State,
     (∀ a b, s.pwr.phase = .off → 5700 ≤ a → 5700 ≤ b →
       exec (.inputPowerUp [a, b]) s = .next { s with pwr := { s.pwr with phase := .converters } }) ∧
     (s.pwr.phase = .converters → exec .vaonInRegulation s =
       .next { s with clk := {}, pwr := { s.pwr with phase := .held, readySince := some 0, pwrOk := false, modRstN := false } }) ∧
     (s.pwr.phase ≠ .off → ∃ s', exec .powerDown s = .next s' ∧ s'.pwr.phase = .off ∧ s'.pwr.pwrOk = false ∧ s'.part = s.part ∧
       s'.isolation = s.isolation ∧ s'.pending = s.pending) ∧
     (∀ board t, s.pwr.phase = .held → s.pwr.readySince = some t → t + 30000000 ≤ s.t3 → ∃ s', exec (.coldResetRelease board) s = .next s' ∧
       s'.pwr.phase = .running ∧ s'.now = 0 ∧ s'.clk = {} ∧ s'.dev.boardId = BitVec.ofNat 6 board ∧ s'.dev.pcieUp = (s.dev.perstN && pcieTrains s.dev.pcieWidth s.dev.pcieGen) ∧
       s' = { s with clk := {}, pwr := s'.pwr, dev := s'.dev }))

/-- 13 R357, R360; 15 R391, R396: MOD_RST_N or PWR_OK low puts the running module into its cold reset, and so does the loss of FABREF; the isolation
store and the part's identity survive. Losing only the host's reference, or asserting PERST_N, is no device reset: only the PCIe function goes down,
and PERST_N resets the host's registers; once it is high the link comes up at x16 and 16 GT/s or more (10 R279). -/
def Obligations.PinsResetTheModule : Prop :=
  ∀ s : State, s.live = true →
    (∃ s', exec .coldResetRequest s = .next s' ∧ s'.pwr.phase = .held ∧ s'.pwr.modRstN = false ∧ s'.isolation = s.isolation ∧ s'.part = s.part ∧
      s'.ctxs = [] ∧ s'.slots = [] ∧ s'.tillers = [] ∧ s'.alm.recs = s.alm.recs ∧ s'.dev.mode = 1#32) ∧
    (∃ s', exec .fabrefLoss s = .next s' ∧ s'.pwr.phase = .held ∧ s'.dev.fabrefOk = false ∧ s'.isolation = s.isolation ∧ s'.part = s.part) ∧
    exec .hostRefclkLoss s = .next (s.modDev fun d => { d with pcieUp := false }) ∧
    (∃ s', exec .perstNAssert s = .next s' ∧ s'.dev.pcieUp = false ∧ s'.dev.perstN = false ∧ (∀ r, s'.ring r = { evLost := (s.ring r).evLost }) ∧ s'.dev.eventCfg = 0#32 ∧
      s'.dev.hrxBase = 0#64 ∧ s'.dev.bar4Window = 0#32 ∧ s'.dev.mode = s.dev.mode ∧ s'.ctxs = s.ctxs ∧ s'.slots = s.slots ∧
      s'.tillers = s.tillers ∧ s'.fab = s.fab ∧ s'.mem = s.mem ∧ s'.ports = s.ports) ∧
    (∀ w g, exec (.perstNDeassert w g) s = .next (s.modDev fun d => { d with
      perstN := true, pcieWidth := w, pcieGen := g, pcieUp := decide (w = 16 ∧ 4 ≤ g ∧ g ≤ 6) })) ∧
    (∀ k, k < 2 → s.domOn (domCxl k) = true → (s.cxl k).refOk = true → (s.cxl k).clearAt + 1000000 ≤ s.now →
      exec (.cxlPerstRelease k) s = .next (s.modCxl k fun x => { x with perstN := true }))

/-- The management port and the TAP (14 R389, R390; 15 R399, R400): the status block is taken afresh each millisecond and read with command byte 0, a
longer read ending in free bytes; another command byte is not acknowledged; an I3C target takes its dynamic address; an instruction is loaded into
the TAP. -/
def Obligations.ManagementPortAnswers : Prop :=
  ∀ s : State, s.pwr.alive = true →
    (s.dev.mgNext ≤ s.aonNs → exec .mgmtBlockRefresh s =
      .next (s.modDev fun d => { d with mgBlock := s.mgmtBlock, mgNext := (s.aonNs / 1000000 + 1) * 1000000 }).drawn) ∧
    (∀ len, ∃ s' tail, exec (.mgmtStatusRead 0 len) s = .next s' ∧ tail.length = len - 64 ∧
      s'.dev.mgOut = some ((if s.dev.mgBlock = [] then s.mgmtBlock else s.dev.mgBlock).take len ++ tail) ∧
      s' = { s with dev := { s.dev with mgProto := s'.dev.mgProto, mgOut := s'.dev.mgOut }, freeCtr := s'.freeCtr } ∧ s'.dev.mgProto ≠ none) ∧
    (∀ cmd len, cmd ≠ 0 → ∃ s', exec (.mgmtStatusRead cmd len) s = .next s' ∧ s'.dev.mgOut = none) ∧
    (∀ addr, addr < 128 → s.dev.mgProto ≠ some false →
      exec (.i3cDynamicAddressAssign addr) s = .next (s.modDev fun d => { d with mgProto := some true, mgAddr := addr })) ∧
    (∀ inst, exec (.tapInstruction inst) s = .next (s.modDev fun d => { d with tapInst := inst }))

/-! ### The control core -/

/-- 03 R78: a one-cycle register operation writes the value the table gives to s[sd], which discards it when sd is s0 (R71); its stream goes on to the
next instruction, and nothing else changes. -/
def Obligations.OneCycleArithmeticWritesItsRegister : Prop :=
  ∀ row ∈ ([(.add, .add, fun a b => a + b), (.sub, .sub, fun a b => a - b), (.and, .and, fun a b => a &&& b), (.or, .or, fun a b => a ||| b),
      (.xor, .xor, fun a b => a ^^^ b), (.shl, .shl, fun a b => a <<< (b.toNat % 32)), (.shr, .shr, fun a b => a >>> (b.toNat % 32)),
      (.sra, .sra, fun a b => a.sshiftRight (b.toNat % 32)), (.slt, .slt, fun a b => if a.toInt < b.toInt then 1#32 else 0#32),
      (.sltu, .sltu, fun a b => if a.toNat < b.toNat then 1#32 else 0#32)] : List ((Nat → Nat → Instr) × Mnem × (Word → Word → Word))),
    ∀ (s : State) (t e : Nat) (i : Shoze), s.issues t e row.2.1 i →
      ∃ s', exec (row.1 t e) s = .next s' ∧ wrote t e i.sd.toNat (row.2.2 (s.ra t i) (s.rb t i)) s s'

/-- 03 R78: LI, LUI, RDCYC and RDTILE write the immediate, sign-extended or in the high bits, the cycles since CTX_START, or the Tiller's number, to
s[sd]. 03 R77, R83: SPLD and SPST claim the 32-byte word of their address until they complete, and RDTIME the register it writes; RDTIME's value is
the copy of the time base that CORE_CLK's domain holds (01 R26). SEED loads the generator, a seed of 0 as 1 (02 R53). RDTIME's lag is a free value
(log 13). -/
def Obligations.ConstantsCountersAndScratchpadWords : Prop :=
  (∀ (s : State) (t e : Nat) (i : Shoze),
     (s.issues t e .li i → ∃ s', exec (.li t e) s = .next s' ∧ wrote t e i.sd.toNat (i.imm.signExtend 32) s s') ∧
     (s.issues t e .lui i → ∃ s', exec (.lui t e) s = .next s' ∧ wrote t e i.sd.toNat (i.imm ++ 0#8) s s') ∧
     (s.issues t e .rdcyc i → ∃ s', exec (.rdcyc t e) s = .next s' ∧
       wrote t e i.sd.toNat (BitVec.ofNat 32 (s.clk.core - (s.tl t).startCyc)) s s') ∧
     (s.issues t e .rdtile i → ∃ s', exec (.rdtile t e) s = .next s' ∧ wrote t e i.sd.toNat (BitVec.ofNat 32 t) s s')) ∧
  (∀ (s : State) (t e : Nat) (i : Shoze),
     (s.issues t e .spld i → i.ast = false → ∃ s' x, exec (.spld t e) s = .next s' ∧ launched t e 0 (s.clk.core + 1) [x] s s' ∧ x.rows = [(s.tl t).effAddr i] ∧
       x.srcs = [((s.tl t).effAddr i / 32, (s.tl t).effAddr i / 32)] ∧ x.done = s.clk.core + 3) ∧
     (s.issues t e .spst i → i.ast = false → ∃ s' x, exec (.spst t e) s = .next s' ∧ launched t e 0 (s.clk.core + 1) [x] s s' ∧ x.rows = [(s.tl t).effAddr i] ∧
       x.vals = [s.rb t i] ∧ x.dsts = [((s.tl t).effAddr i / 32, (s.tl t).effAddr i / 32)] ∧ x.done = s.clk.core + 2) ∧
     (s.issues t e .rdtime i → i.ast = false → i.sd = 0#5 → i.ds = [] →
       ∃ s', exec (.rdtime t e) s = .next s' ∧ launched t e 0 (s.clk.core + 1) [] s s') ∧
     (s.issues t e .rdtime i → i.ast = false → i.sd ≠ 0#5 → ∃ s' x, exec (.rdtime t e) s = .next s' ∧ launched t e 0 (s.clk.core + 1) [x] s s' ∧
       x.vals = [BitVec.ofNat 32 s.coreTime] ∧ x.regs = [i.sd.toNat] ∧ x.done = s.clk.core + 4) ∧
     (s.issues t e .seed i → ∃ s', exec (.seed t e) s = .next s' ∧ onlyTiller t s s' ∧
       s'.tl t = { s.tl t with gen := if s.ra t i = 0#32 then 1#32 else s.ra t i, streams := (s'.tl t).streams } ∧
       wentOn e (((s.tl t).stream e).pc + 1) (s.clk.core + 1) s.t3 (s.tl t) (s'.tl t)))

/-- 03 R78, R82, R83, R89: MUL, MULHU, DIV, DIVU, REM and REMU fix their result at issue (division by 0 and −2^31 / −1 as the table says) and hold a
claim on s[sd], unless it is s0, until the result lands after 3 or 18 cycles; nothing else changes. -/
def Obligations.LongArithmeticIsIssued : Prop :=
  ∀ row ∈ ([(.mul, .mul, fun a b => a * b), (.mulhu, .mulhu, fun a b => BitVec.ofNat 32 (a.toNat * b.toNat / 2 ^ 32)),
      (.div, .div, fun a b => if b = 0#32 then BitVec.allOnes 32 else BitVec.ofInt 32 (a.toInt.tdiv b.toInt)),
      (.divu, .divu, fun a b => if b = 0#32 then BitVec.allOnes 32 else BitVec.ofNat 32 (a.toNat / b.toNat)),
      (.rem, .rem, fun a b => if b = 0#32 then a else BitVec.ofInt 32 (a.toInt.tmod b.toInt)),
      (.remu, .remu, fun a b => if b = 0#32 then a else BitVec.ofNat 32 (a.toNat % b.toNat))] :
        List ((Nat → Nat → Instr) × Mnem × (Word → Word → Word))),
    ∀ (s : State) (t e : Nat) (i : Shoze), s.issues t e row.2.1 i → i.ast = false →
      (i.sd = 0#5 → i.ds = [] → ∃ s', exec (row.1 t e) s = .next s' ∧ launched t e 0 (s.clk.core + ((s.tl t).timing s.clk.core i).1) [] s s') ∧
      (i.sd ≠ 0#5 → ∃ s' x, exec (row.1 t e) s = .next s' ∧ launched t e 0 (s.clk.core + ((s.tl t).timing s.clk.core i).1) [x] s s' ∧
        x.vals = [row.2.2 (s.ra t i) (s.rb t i)] ∧ x.regs = [i.sd.toNat] ∧ x.issue = s.clk.core ∧ x.done = s.clk.core + ((s.tl t).timing s.clk.core i).2)

/-- 03 R71, R77, R78: a store writes the low bytes of s[sb] at s[sa] + imm, little-endian, and no other byte of DMEM; a load's value is fixed at issue
from the bytes there; nothing else changes. -/
def Obligations.DataMemoryIsLoadedAndStored : Prop :=
  (∀ row ∈ ([(.stB, .stB, 1), (.stH, .stH, 2), (.stW, .stW, 4)] : List ((Nat → Nat → Instr) × Mnem × Nat)),
    ∀ (s : State) (t e : Nat) (i : Shoze), s.issues t e row.2.1 i →
      ∃ s', exec (row.1 t e) s = .next s' ∧ onlyTiller t s s' ∧
        s'.tl t = { s.tl t with dmem := (s'.tl t).dmem, streams := (s'.tl t).streams } ∧
        wentOn e (((s.tl t).stream e).pc + 1) (s.clk.core + 1) s.t3 (s.tl t) (s'.tl t) ∧
        ∀ a, (s'.tl t).dmem.byte a = if (s.tl t).effAddr i ≤ a ∧ a < (s.tl t).effAddr i + row.2.2 then
          BitVec.ofNat 8 ((s.rb t i).toNat / 256 ^ (a - (s.tl t).effAddr i)) else (s.tl t).dmem.byte a) ∧
  (∀ row ∈ ([(.ldB, .ldB, 1), (.ldH, .ldH, 2), (.ldW, .ldW, 4)] : List ((Nat → Nat → Instr) × Mnem × Nat)),
    ∀ (s : State) (t e : Nat) (i : Shoze), s.issues t e row.2.1 i → i.ast = false →
      (i.sd = 0#5 → i.ds = [] → ∃ s', exec (row.1 t e) s = .next s' ∧ launched t e 0 (s.clk.core + 1) [] s s') ∧
      (i.sd ≠ 0#5 → ∃ s' x, exec (row.1 t e) s = .next s' ∧ launched t e 0 (s.clk.core + 1) [x] s s' ∧ x.regs = [i.sd.toNat] ∧ x.done = s.clk.core + 2 ∧
        x.vals = [BitVec.ofNat 32 (leNat ((List.range row.2.2).map fun j => (s.tl t).dmem.byte ((s.tl t).effAddr i + j)))]))

/-- 03 R78, R83: NOP goes on; JMP goes to index + imm after three cycles; a branch does so when its comparison of s[sa] and s[sb] holds and goes on
after one cycle when not; CALL pushes the next index and jumps; RET jumps to the index it pops. -/
def Obligations.ControlFlowMovesTheStream : Prop :=
  (∀ row ∈ ([(.beq, .beq, fun a b => a == b), (.bne, .bne, fun a b => a != b), (.blt, .blt, fun a b => decide (a.toInt < b.toInt)),
      (.bge, .bge, fun a b => decide (b.toInt ≤ a.toInt)), (.bltu, .bltu, fun a b => decide (a.toNat < b.toNat)),
      (.bgeu, .bgeu, fun a b => decide (b.toNat ≤ a.toNat))] : List ((Nat → Nat → Instr) × Mnem × (Word → Word → Bool))),
    ∀ (s : State) (t e : Nat) (i : Shoze), s.issues t e row.2.1 i →
      ∃ s', exec (row.1 t e) s = .next s' ∧
        (row.2.2 (s.ra t i) (s.rb t i) = true → branched t e (((((s.tl t).stream e).pc : Int) + i.imm.toInt).toNat) 3 s s') ∧
        (row.2.2 (s.ra t i) (s.rb t i) = false → branched t e (((s.tl t).stream e).pc + 1) 1 s s')) ∧
  (∀ (s : State) (t e : Nat) (i : Shoze),
    (s.issues t e .nop i → ∃ s', exec (.nop t e) s = .next s' ∧ branched t e (((s.tl t).stream e).pc + 1) 1 s s') ∧
    (s.issues t e .jmp i → ∃ s', exec (.jmp t e) s = .next s' ∧ branched t e (((((s.tl t).stream e).pc : Int) + i.imm.toInt).toNat) 3 s s') ∧
    (s.issues t e .call i → ∃ s', exec (.call t e) s = .next s' ∧ onlyTiller t s s' ∧
      s'.tl t = { s.tl t with rstack := (((s.tl t).stream e).pc + 1) :: (s.tl t).rstack, streams := (s'.tl t).streams } ∧
      wentOn e (((((s.tl t).stream e).pc : Int) + i.imm.toInt).toNat) (s.clk.core + 3) s.t3 (s.tl t) (s'.tl t)) ∧
    (∀ j rest, s.issues t e .ret i → (s.tl t).rstack = j :: rest → ∃ s', exec (.ret t e) s = .next s' ∧ onlyTiller t s s' ∧
      s'.tl t = { s.tl t with rstack := rest, streams := (s'.tl t).streams } ∧
      wentOn e j (s.clk.core + 3) s.t3 (s.tl t) (s'.tl t)))

/-- 03 R78, R86: STEP_END, FENCE and HALT issue and hold their stream; a WAIT on a semaphore without a count holds it too. A held FENCE or STEP_END
retires once every engine is idle, STEP_END counting a program step, unless a stop or a CORE_CLK change waits; a held HALT then halts its stream. 03
R86, R88: SIGNAL counts its semaphore up, seen from the next cycle on, and faults the Tiller beyond 255; a WAIT on a counted semaphore, and a held
one whose engine number wins, takes one count and releases the claims of the oldest instruction it waited for; ASPUSH appends s[sa] to an
address-stream FIFO that is not full. STEP_END retiring only when no CORE_CLK change waits is how the model reads 12 R335. -/
def Obligations.HoldsSemaphoresAndStreams : Prop :=
  (∀ (s : State) (t e : Nat) (i : Shoze),
     (s.issues t e .stepEnd i → exec (.stepEnd t e) s = .next (s.holdStream t e .stepEnd)) ∧
     (s.issues t e .fence i → exec (.fence t e) s = .next (s.holdStream t e .fence)) ∧
     (s.issues t e .halt i → exec (.halt t e) s = .next (s.holdStream t e .halt)) ∧
     (s.issues t e .wait i → (s.tl t).winsWait e i.sem.toNat s.clk.core = false →
       exec (.wait t e) s = .next (s.holdStream t e (.wait i.sem.toNat))) ∧
     (t < 192 → e < 6 → s.holding t e .fence = true → (s.tl t).idle s.clk.core = true → ∃ s', exec (.fenceRetire t e) s = .next s' ∧ onlyTiller t s s' ∧
       s'.tl t = { s.tl t with streams := (s'.tl t).streams } ∧
       (s'.tl t).stream e = { (s.tl t).stream e with hold := .none, pc := ((s.tl t).stream e).pc + 1, next := s.clk.core + 1, prog := s.t3 }) ∧
     (t < 192 → e < 6 → s.holding t e .stepEnd = true → (s.tl t).idle s.clk.core = true → (s.tl t).stopReq = false →
       s.dev.mode.getLsbD 0 = false ∨ (s.pwr.clkReq = none ∧ s.pwr.clkStep = none) → ∃ s1, exec (.stepEndRetire t e) s = .next (s1.shadowStep t) ∧
       onlyTiller t s s1 ∧ s1.tl t = { s.tl t with stepNo := (s.tl t).stepNo + 1, streams := (s1.tl t).streams } ∧
       (s1.tl t).stream e = { (s.tl t).stream e with hold := .none, pc := ((s.tl t).stream e).pc + 1, next := s.clk.core + 1, prog := s.t3 }) ∧
     (s.live = true → t < 192 → e < 6 → (s.tl t).idle s.clk.core = false → exec (.stepEndRetire t e) s = .next s ∧ exec (.fenceRetire t e) s = .next s ∧
       exec (.haltRetire t e) s = .next s) ∧
     (t < 192 → e < 6 → s.holding t e .stepEnd = true → (s.tl t).stopReq = false → s.dev.mode.getLsbD 0 = true →
       s.pwr.clkReq ≠ none ∨ s.pwr.clkStep ≠ none → exec (.stepEndRetire t e) s = .next s) ∧
     (t < 192 → e < 6 → s.holding t e .stepEnd = true → (s.tl t).idle s.clk.core = true → (s.tl t).stopReq = true → ∀ x, (s.tl t).ctx = some x →
       exec (.stepEndRetire t e) s = .next ((s.modT t fun T => { T with run := .stopped, stopReq := false }).stopCheck x)) ∧
     (t < 192 → e < 6 → s.holding t e .stepEnd = true → (s.tl t).idle s.clk.core = true → (s.tl t).stopReq = true → (s.tl t).ctx = none →
       exec (.stepEndRetire t e) s = .next (s.modT t fun T => { T with run := .stopped, stopReq := false })) ∧
     (t < 192 → e < 6 → s.holding t e .halt = true → (s.tl t).idle s.clk.core = true → ((s.tl t).haltStream e (s.harrow t)).run = .halted →
       ∀ x, (s.tl t).ctx = some x → exec (.haltRetire t e) s = .next (((s.modT t fun T => T.haltStream e (s.harrow t)).shadowStep t).ctxHalts x)) ∧
     (t < 192 → e < 6 → s.holding t e .halt = true → (s.tl t).idle s.clk.core = true → ((s.tl t).haltStream e (s.harrow t)).run = .halted →
       (s.tl t).ctx = none → exec (.haltRetire t e) s = .next ((s.modT t fun T => T.haltStream e (s.harrow t)).shadowStep t)) ∧
     (t < 192 → e < 6 → s.holding t e .halt = true → (s.tl t).idle s.clk.core = true → ((s.tl t).haltStream e (s.harrow t)).run ≠ .halted →
       exec (.haltRetire t e) s = .next (s.modT t fun T => T.haltStream e (s.harrow t)))) ∧
  (∀ (s : State) (t e : Nat) (i : Shoze),
     (s.issues t e .signal i → (s.tl t).semTotal i.sem.toNat < 255 → ∃ s', exec (.signal t e) s = .next s' ∧ onlyTiller t s s' ∧
       s'.tl t = { s.tl t with semInc := (s.tl t).semInc ++ [(i.sem.toNat, s.clk.core)], streams := (s'.tl t).streams } ∧
       wentOn e (((s.tl t).stream e).pc + 1) (s.clk.core + 1) s.t3 (s.tl t) (s'.tl t)) ∧
     (s.issues t e .signal i → 255 ≤ (s.tl t).semTotal i.sem.toNat →
       exec (.signal t e) s = .next (s.hazard t (streamEngine (s.tl t) e) ((s.tl t).stream e).pc { cause := 11 })) ∧
     (s.issues t e .wait i → (s.tl t).winsWait e i.sem.toNat s.clk.core = true →
       exec (.wait t e) s = .next (s.modT t fun T => T.retireWait e i.sem.toNat s.clk.core s.t3)) ∧
     (∀ k, t < 192 → e < 6 → s.holding t e (.wait k) = true → (s.tl t).winsWait e k s.clk.core = true →
       exec (.waitRetire t e) s = .next (s.modT t fun T => T.retireWait e k s.clk.core s.t3)) ∧
     (s.issues t e .aspush i → (SMap.get nilAt (s.tl t).fifos (i.imm.toNat % 8)).length < 64 → ∃ s', exec (.aspush t e) s = .next s' ∧
       onlyTiller t s s' ∧ s'.tl t = { s.tl t with fifos := (s'.tl t).fifos, streams := (s'.tl t).streams } ∧
       (∀ k, SMap.get nilAt (s'.tl t).fifos k = if k = i.imm.toNat % 8 then SMap.get nilAt (s.tl t).fifos k ++ [s.ra t i]
         else SMap.get nilAt (s.tl t).fifos k) ∧
       wentOn e (((s.tl t).stream e).pc + 1) (s.clk.core + 1) s.t3 (s.tl t) (s'.tl t)))

/-- 03 R89: an instruction that meets a hazard faults its Tiller, whichever it is (MV_MRECV's hazard names engine 4 too), with the cause of the first
row of the table that applies: the hazard is recorded and none of the instruction's own effect happens. A position past the last instruction is a
RANGE fault (R78), an instruction word that cannot be corrected resets the control core (01 R32), and a form for a fused-off Harrow is NOT_PRESENT
(04 R118). -/
def Obligations.HazardsFaultTheTiller : Prop :=
  ∀ row ∈ (List.flatten [
      [(.nop, .nop), (.jmp, .jmp), (.beq, .beq), (.bne, .bne), (.blt, .blt), (.bge, .bge), (.bltu, .bltu), (.bgeu, .bgeu),
       (.call, .call), (.ret, .ret), (.stepEnd, .stepEnd), (.halt, .halt), (.fence, .fence), (.add, .add), (.sub, .sub),
       (.and, .and), (.or, .or), (.xor, .xor), (.shl, .shl), (.shr, .shr)],
      [(.sra, .sra), (.slt, .slt), (.sltu, .sltu), (.mul, .mul), (.mulhu, .mulhu), (.div, .div), (.divu, .divu), (.rem, .rem),
       (.remu, .remu), (.li, .li), (.lui, .lui), (.ldB, .ldB), (.ldH, .ldH), (.ldW, .ldW), (.stB, .stB), (.stH, .stH),
       (.stW, .stW), (.spld, .spld), (.spst, .spst), (.rdcyc, .rdcyc)],
      [(.rdtime, .rdtime), (.rdtile, .rdtile), (.seed, .seed), (.mm, .mm), (.mmBs, .mmBs), (.mmGs, .mmGs), (.mmBgs, .mmBgs),
       (.trMap, .trMap), (.trRed, .trRed), (.trCvt, .trCvt), (.trLdprog, .trLdprog), (.shPrune, .shPrune), (.shTmask, .shTmask),
       (.mvCopy, .mvCopy), (.mvMesh, .mvMesh), (.mvMrecv, .mvMrecv), (.mvGet, .mvGet), (.mvPut, .mvPut), (.mvSend, .mvSend),
       (.mvRecv, .mvRecv)],
      [(.cvInit, .cvInit), (.cvWb, .cvWb), (.cvWh, .cvWh), (.cvWw, .cvWw), (.cvRead, .cvRead), (.cvSave, .cvSave),
       (fun t e => .cvRestore t e none, .cvRestore), (.cvFeed, .cvFeed), (.signal, .signal), (.wait, .wait), (.aspush, .aspush)]] :
        List ((Nat → Nat → Instr) × Mnem)),
    ∀ (s : State) (t e pc : Nat) (i : Shoze) (ecc : Option Nat), pc = ((s.tl t).stream e).pc →
      (∀ h, s.meets t e row.2 i h →
        exec (row.1 t e) s = .next (s.hazard t (if row.2 = .mvMrecv then 4 else engineOf row.2) pc h) ∧
        (row.2 = .cvRestore → exec (.cvRestore t e ecc) s = .next (s.hazard t 5 pc h))) ∧
      (t < 192 → e < 6 → s.mayIssue t e = true → (s.tl t).img.code[pc]? = none →
        exec (row.1 t e) s = .next (s.hazard t (streamEngine (s.tl t) e) pc { cause := 6 })) ∧
      (t < 192 → e < 6 → s.mayIssue t e = true → (s.tl t).img.code[pc]? = some i → i.mn = row.2 → pc ∈ (s.tl t).imUe →
        exec (row.1 t e) s = .next (s.eccFetch t pc)) ∧
      (t < 192 → e < 6 → s.mayIssue t e = true → (s.tl t).img.code[pc]? = some i → i.mn = row.2 → pc ∉ (s.tl t).imUe → engineOf row.2 = 1 →
        s.harrow t = false → exec (row.1 t e) s = .next (s.harrowAbsent t pc))

/-! ### The engines -/

/-- 03 R82, R83, R85, R89; 02 R53: MM, TR_RED, TR_CVT, TR_LDPROG, MV_COPY, MV_GET and MV_RECV are issued: their entry claims the words they read and
write, synchronous ones occupy their engine, the generator advances by the draws the instruction takes, and the stream goes on. 04 R110, R111, R125,
R127; 03 R93, R94; 06 R202: TR_MAP is compared with its program and keeps it; the sparse and Shears forms are checked against their header and claim
what it names; a mesh transfer takes its slot phase, a mesh claim is held apart from the Mover's own, and MV_SEND builds its packet. What does not
fit faults with FMT_VIOLATION and is not issued. What a Tiller sends out is recorded where a shadow run needs it. Image facts the loader has not
fixed are operands (log 8). -/
def Obligations.EngineInstructionsAreIssued : Prop :=
  (∀ row ∈ ([(.mm, .mm), (.trRed, .trRed), (.trCvt, .trCvt), (.trLdprog, .trLdprog), (.mvCopy, .mvCopy), (.mvGet, .mvGet), (.mvRecv, .mvRecv)] :
       List ((Nat → Nat → Instr) × Mnem)),
     ∀ (s : State) (t e : Nat) (i : Shoze), s.issues t e row.2 i → i.ds ≠ [] →
       ∃ s1 x, exec (row.1 t e) s = .next (s1.modT t fun T => { T with gen := advance T.gen ((s.tl t).draws i) }) ∧
         launched t e (engineOf row.2) (if isAsync row.2 && engineOf row.2 = 4 then SMap.get zeroAt (s.tl t).busy (engineOf row.2)
           else s.clk.core + ((s.tl t).timing s.clk.core i).1) [x] s s1 ∧
         x.srcs = natFeet ((s.tl t).reads i) ∧ x.dsts = natFeet ((s.tl t).writes i) ∧ x.async = isAsync row.2 ∧ x.inst = (s.tl t).resolve i ∧
         x.issue = s.clk.core ∧ x.finished = false ∧ s.clk.core + ((s.tl t).timing s.clk.core i).2 ≤ x.done) ∧
  (∀ (s : State) (t e : Nat) (i : Shoze),
     (s.issues t e .trMap i → mapMismatch (s.tl t) ((s.tl t).stream e).pc i = false →
       exec (.trMap t e) s = .next (s.engine t e i fun x => { x with prog := SMap.get progAt (s.tl t).progs (progIndex i) })) ∧
     (s.issues t e .trMap i → mapMismatch (s.tl t) ((s.tl t).stream e).pc i = true →
       exec (.trMap t e) s = .next (s.fmtViolation t 2 ((s.tl t).stream e).pc { reason := 7 })) ∧
     (∀ row ∈ ([(.mmBs, .mmBs), (.mmGs, .mmGs), (.mmBgs, .mmBgs)] : List ((Nat → Nat → Instr) × Mnem)), s.issues t e row.2 i →
       ((s.tl t).sparseHeader ((s.tl t).resolve i) = none →
         exec (row.1 t e) s = .next (s.engine t e i fun x => { x with
           headSrcs := natFeet (spHdr ((((s.tl t).resolve i).desc 0).header (s.tl t).sp)).feet })) ∧
       (∀ o d, (s.tl t).sparseHeader ((s.tl t).resolve i) = some o → d = ((s.tl t).resolve i).desc 0 →
         exec (row.1 t e) s = .next (s.fmtViolation t 1 ((s.tl t).stream e).pc
           { reason := 5, form := fieldAt (d.header (s.tl t).sp) 0 1, addr := d.aux.toNat + o }))) ∧
     (∀ row ∈ ([(.shPrune, .shPrune), (.shTmask, .shTmask)] : List ((Nat → Nat → Instr) × Mnem)), s.issues t e row.2 i →
       (shearsHeader ((s.tl t).resolve i) (s.tl t).sp = none → exec (row.1 t e) s = .next (s.engine t e i fun x => { x with
         headSrcs := natFeet (shearsFeet ((s.tl t).resolve i) (s.tl t).sp).1,
         headDsts := natFeet (shearsFeet ((s.tl t).resolve i) (s.tl t).sp).2 })) ∧
       (∀ p, shearsHeader ((s.tl t).resolve i) (s.tl t).sp = some p →
         exec (row.1 t e) s = .next (s.fmtViolation t 3 ((s.tl t).stream e).pc { reason := 5, form := p.2, addr := p.1 }))) ∧
     (s.issues t e .mvMrecv i → exec (.mvMrecv t e) s = .next (s.engine t e i fun x => { x with engine := 6 })) ∧
     (s.issues t e .mvMesh i → exec (.mvMesh t e) s = .next ((s.engine t e i fun x => { x with
       phase := (((s.tl t).img.phases.find? fun p => p.1 == ((s.tl t).stream e).pc).map (·.2)).getD 0 }).recordOut t
         ((((s.tl t).resolve i).desc 0).rowBytes (s.tl t).sp []))) ∧
     (s.issues t e .mvPut i → exec (.mvPut t e) s = .next ((s.engine t e i id).recordOut t
       (if i.ast then [] else (((s.tl t).resolve i).desc 0).rowBytes (s.tl t).sp []))) ∧
     (s.issues t e .mvSend i → ∀ b, b = ((s.tl t).resolve i).sendPacket (s.tl t).sp [] → exec (.mvSend t e) s =
       .next (((s.engine t e i fun x => { x with data := b }).modT t fun T => { T with
         sendQ := T.sendQ ++ [{ bytes := b, issue := some s.clk.core }] }).recordOut t b)))

/-- 03 R95 to R98: the check-value unit starts an algorithm, takes one, two or four bytes of s[sa] low byte first or the bytes of a descriptor, gives
its value so far without losing it, and is saved to and restored from DMEM; a bad image faults with RANGE and leaves it as it was, an uncorrectable
word of the image resets the control core (01 R32). Before any CV_INIT the value is free (log 16). That its effects land at issue is the model's
choice (log 30). -/
def Obligations.CheckValueUnitRuns : Prop :=
  ∀ (s : State) (t e : Nat) (i : Shoze),
    (s.issues t e .cvInit i → exec (.cvInit t e) s = .next ((s.launch t e i [] id).modT t fun T => T.setCvu fun _ => cvuInit (i.imm.toNat % 8))) ∧
    (∀ row ∈ ([(.cvWb, .cvWb, 1), (.cvWh, .cvWh, 2), (.cvWw, .cvWw, 4)] : List ((Nat → Nat → Instr) × Mnem × Nat)), s.issues t e row.2.1 i →
      exec (row.1 t e) s = .next ((s.launch t e i [] id).modT t fun T => T.setCvu fun c => c.feed s.clk.core (toLE row.2.2 (s.ra t i).toNat))) ∧
    (s.issues t e .cvFeed i → exec (.cvFeed t e) s = .next ((s.launch t e i [] id).modT t fun T => T.setCvu fun c =>
      c.feedSlow s.clk.core ((((s.tl t).resolve i).desc 0).packedBytes (s.tl t).sp))) ∧
    (s.issues t e .cvRead i → (s.tl t).cvu.sha = true → exec (.cvRead t e) s = .next ((s.launch t e i [] id).modT t fun T =>
      { T with dmem := T.dmem.write (s.ra t i).toNat (s.tl t).cvu.digest })) ∧
    (s.issues t e .cvRead i → (s.tl t).cvu.sha = false → ∀ s1, s1 = s.launch t e i ((s.tl t).cvu.value s.freeNat) id →
      exec (.cvRead t e) s = .next (if (s.tl t).cvu.alg = none then s1.drawn else s1)) ∧
    (s.issues t e .cvSave i → ∀ s1, s1 = ((s.launch t e i [] id).modT t fun T => { T with
        dmem := T.dmem.write (s.ra t i).toNat ((s.tl t).cvu.image s.freeNat),
        dmUe := T.dmUe.filter fun w => !(wordsOf (s.ra t i).toNat 128).contains w }) →
      exec (.cvSave t e) s = .next (if (s.tl t).cvu.alg = none then s1.drawn else s1)) ∧
    (∀ ecc bad, s.issues t e .cvRestore i →
      bad = (wordsOf (s.ra t i).toNat 128).find? (fun w => ecc == some w || (s.tl t).dmUe.contains w) →
      (∀ w, bad = some w → exec (.cvRestore t e ecc) s = .next (s.eccCore t ((s.tl t).stream e).pc w)) ∧
      (∀ c, bad = none → cvuOf ((s.tl t).dmem.read (s.ra t i).toNat 128) = some c →
        exec (.cvRestore t e ecc) s = .next ((s.launch t e i [] id).modT t fun T => T.setCvu fun _ => c)) ∧
      (bad = none → cvuOf ((s.tl t).dmem.read (s.ra t i).toNat 128) = none → exec (.cvRestore t e ecc) s =
        .next (s.hazard t 5 ((s.tl t).stream e).pc { cause := 6, range := some (((s.ra t i).toNat / 32 : Nat), ((s.ra t i).toNat / 32 : Nat)) })))

/-- 03 R82, R88; 01 R32; 04 R111: an entry whose latency has elapsed, with no uncorrectable operand and no format violation, completes: its claims are
gone and its result lands. Addresses left over in its FIFO fault the Tiller after that. Of MUL the register it named takes the result, of SPST the
scratchpad takes the word, and nothing else of the Tiller's registers and memories changes, and no other Tiller. An uncorrectable operand, the one
the row names or one known, resets the engine instead, and a violation in what the Shears reads faults with nothing written. 04 R111, R113, R120,
R124; 03 R88: a sparse form ends by writing D and signalling, or at its first violation with the bands before it written; a program is checked in
its completion cycle and takes its slot, or faults and leaves it; an engine takes its next row's address from its FIFO, claims the row, and faults
on an empty FIFO or a row that conflicts. An uncorrectable operand resets the engine instead (01 R32). That a result is computed at its completion
is the model's choice (log 14). -/
def Obligations.EngineResultsLandWithTheirEvents : Prop :=
  (∀ (s : State) (t k : Nat) (x : Entry), t < 192 → s.live = true → (s.tl t).checker[k]? = some x → x.async = false →
     (s.tl t).mayComplete x.engine = true → x.done ≤ s.clk.core → x.inst.ast = false ∨ astRows x.inst ≤ x.rows.length →
     x.inst.mn ≠ .trLdprog ∨ x.finished = true →
     (∀ ecc s1, x.badLoad (s.tl t).dmUe ecc = none → x.badWord (s.tl t).spUe ecc = none → x.engine ≠ 3 ∨ shearsFault x.inst (s.tl t).sp = none →
       s1 = (s.dropEntry t x).modT t (fun T => { (T.result x) with engProg := SMap.set zeroAt x.engine s.t3 T.engProg }) →
       (x.inst.ast = false ∨ SMap.get nilAt (s.tl t).fifos x.engine = [] → exec (.engineResultComplete t k ecc) s = .next s1) ∧
       (x.inst.ast = true → SMap.get nilAt (s.tl t).fifos x.engine ≠ [] →
         exec (.engineResultComplete t k ecc) s = .next (s1.hazard t x.engine x.index { cause := 10 }))) ∧
     (∀ ecc w, x.badLoad (s.tl t).dmUe ecc = some w →
       exec (.engineResultComplete t k ecc) s = .next ((s.dropEntry t x).eccCore t x.index w)) ∧
     (∀ ecc w, x.badLoad (s.tl t).dmUe ecc = none → x.badWord (s.tl t).spUe ecc = some w →
       exec (.engineResultComplete t k ecc) s = .next ((s.dropEntry t x).eccOperand t x.engine x.index w)) ∧
     (∀ ecc v, x.badLoad (s.tl t).dmUe ecc = none → x.badWord (s.tl t).spUe ecc = none → x.engine = 3 → shearsFault x.inst (s.tl t).sp = some v →
       exec (.engineResultComplete t k ecc) s = .next ((s.dropEntry t x).fmtViolation t 3 x.index { v with written := 0 })) ∧
     (∀ d v, x.inst.mn = .mul → x.inst.ast = false → x.badWord (s.tl t).spUe none = none → x.engine = 0 → x.regs = [d] → x.inst.sd.toNat = d → x.vals = [v] → 0 < d →
       ∃ s', exec (.engineResultComplete t k none) s = .next s' ∧ onlyTiller t s s' ∧
         (∀ r, (s'.tl t).reg r = if r = d then v else (s.tl t).reg r) ∧ (s'.tl t).checker = (s.tl t).checker.filter (fun z => z != x) ∧
         (s'.tl t).sp = (s.tl t).sp ∧ (s'.tl t).dmem = (s.tl t).dmem ∧ (s'.tl t).streams = (s.tl t).streams) ∧
     (∀ a v, x.inst.mn = .spst → x.inst.ast = false → x.badWord (s.tl t).spUe none = none → x.engine = 0 → x.rows = [a] → x.vals = [v] →
       ∃ s', exec (.engineResultComplete t k none) s = .next s' ∧ onlyTiller t s s' ∧
         (∀ b, (s'.tl t).sp.byte b = if a ≤ b ∧ b < a + 4 then BitVec.ofNat 8 (v.toNat / 256 ^ (b - a)) else (s.tl t).sp.byte b) ∧
         (s'.tl t).regs = (s.tl t).regs ∧ (s'.tl t).dmem = (s.tl t).dmem)) ∧
  (∀ (s : State) (t : Nat) (x : Entry), t < 192 → s.live = true →
     ((s.tl t).sparse? = some x → (s.tl t).mayComplete 1 = true → s.sparseFault t x = none → s.sparseEnd t x ≤ s.clk.core →
       ∀ ecc, (x.badWord (s.tl t).spUe ecc = none → exec (.sparseMmComplete t ecc) s = .next ((s.modT t fun T => { T.healed x with
         sp := runSparse x (T.copyOf x.index) T.sp (x.inst.desc 2).rows,
         engProg := SMap.set zeroAt 1 s.t3 T.engProg }).finishAsync t x)) ∧
       (∀ w, x.badWord (s.tl t).spUe ecc = some w → exec (.sparseMmComplete t ecc) s =
         .next ((s.dropEntry t x).eccOperand t 1 x.index w))) ∧
     (∀ c v, (s.tl t).sparse? = some x → (s.tl t).mayComplete 1 = true → s.sparseFault t x = some (c, v) → c ≤ s.clk.core →
       exec (.sparseBandFault t) s = .next ((s.modT t fun T => { T with
         sp := runSparse x (T.copyOf x.index) T.sp v.written, checker := T.checker.filter fun y => y != x }).fmtViolation t 1 x.index v)) ∧
     (∀ ecc w, (s.tl t).ldprog? s.clk.core = some x → x.badWord (s.tl t).spUe ecc = some w →
       exec (.trLdprogCheck t ecc) s = .next ((s.dropEntry t x).eccOperand t 2 x.index w)) ∧
     (∀ ecc, (s.tl t).ldprog? s.clk.core = some x → x.badWord (s.tl t).spUe ecc = none →
       ∀ b, b = (((x.inst.desc 0).rowBytes (s.tl t).sp (x.rowsOf 0)).take (4 * (x.inst.desc 0).count.toNat)) →
       (progFault b (s.dev.mode.getLsbD 0 && (s.tl t).img.seed.isNone) = none → exec (.trLdprogCheck t ecc) s = .next (s.modT t fun T => { T with
         checker := T.checker.map (fun y => if y = x then { y with finished := true } else y),
         progs := SMap.set progAt (progIndex x.inst) (progOf b) T.progs })) ∧
       (∀ o, progFault b (s.dev.mode.getLsbD 0 && (s.tl t).img.seed.isNone) = some o → exec (.trLdprogCheck t ecc) s = .next ((s.modT t fun T =>
         { T with checker := T.checker.map fun y => if y = x then { y with finished := true } else y }).fmtViolation t 2 x.index
           { reason := 6, addr := (x.inst.desc 0).rowStart (x.rowsOf 0) 0 + o }))) ∧
     (∀ e, 1 ≤ e → e ≤ 4 → (s.tl t).feeding e = some x → (s.tl t).mayComplete e = true → x.issue + x.rows.length * x.every ≤ s.clk.core →
       (SMap.get nilAt (s.tl t).fifos e = [] → exec (.astreamRowFetch t e) s = .next ((s.dropEntry t x).hazard t e x.index { cause := 8 })) ∧
       (∀ a rest s1, SMap.get nilAt (s.tl t).fifos e = a :: rest → s1 = s.modT t (fun T => { T with fifos := SMap.set nilAt e rest T.fifos }) →
         ((s.tl t).rowHazard s.clk.core x a.toNat = none → exec (.astreamRowFetch t e) s = .next (s1.setEntry t x (x.takeRow a.toNat))) ∧
         (∀ h, (s.tl t).rowHazard s.clk.core x a.toNat = some h →
           exec (.astreamRowFetch t e) s = .next ((s1.dropEntry t x).hazard t e x.index h)))))

/-- 03 R92 to R94; 01 R32: a queued mesh transfer starts in the first cycle of its phase, meets the oldest open claim of its channel at the destination,
or faults the destination with MESH_CLAIM where there is none or one of another length, and when its last word has arrived both semaphores are
signalled and the words lie in the claim. A source word that is uncorrectable resets the sender's Mover instead. 01 R29, R32, R33; 03 R85, R88: an
MV_GET's words arrive in its destination, single-bit errors corrected and counted, and an MV_PUT's are written where it says, when the place is
there and the words are correctable, and the semaphore is signalled; an access that is not there faults with NOT_PRESENT, and an uncorrectable word
faults and resets the Mover. Addresses left over in the FIFO fault the Tiller. -/
def Obligations.TransfersReachMeshAndMemory : Prop :=
  (∀ (s : State) (t k : Nat) (x : Entry), t < 192 → s.live = true → s.moverEntry t k .mvMesh = some x → s.isShadow t = false →
     (x.started = none → x.issue < s.clk.core → s.clk.core % 256 = x.phase → ∀ ecc,
       (x.badWord (s.tl t).spUe ecc = none →
         exec (.meshSlotStart t k ecc) s = .next ((s.setEntry t x { x with started := some s.clk.core }).moverProgress t)) ∧
       (∀ w, x.badWord (s.tl t).spUe ecc = some w →
         exec (.meshSlotStart t k ecc) s = .next ((s.dropEntry t x).eccOperand t 4 x.index w))) ∧
     (∀ c y, x.started = some c → x.arrived = false → c + meshHops t (meshDest x.inst) + 2 ≤ s.clk.core →
       (s.tl (meshDest x.inst)).openClaim (meshChannel x.inst) = some y → meshBytes y.inst ≠ meshBytes x.inst →
       exec (.meshArrival t k) s = .next ((s.setEntry t x { x with arrived := true }).hazard (meshDest x.inst) 6 y.index
         { cause := 12, range := y.dsts.head?.map toInt2, otherEngine := 6, otherIndex := y.index })) ∧
     (∀ c y, x.started = some c → x.arrived = false → c + meshHops t (meshDest x.inst) + 2 ≤ s.clk.core →
       (s.tl (meshDest x.inst)).openClaim (meshChannel x.inst) = some y → meshBytes y.inst = meshBytes x.inst →
       exec (.meshArrival t k) s = .next ((s.setEntry t x { x with arrived := true, admitted := true }).modT (meshDest x.inst) fun T =>
         { T with checker := T.checker.map fun z => if z = y then { z with arrived := true, peer := some (t, x.issue) } else z })) ∧
     (∀ c, x.started = some c → x.arrived = false → c + meshHops t (meshDest x.inst) + 2 ≤ s.clk.core →
       (s.tl (meshDest x.inst)).openClaim (meshChannel x.inst) = none →
       (∀ n, (s.tl (meshDest x.inst)).ctx = some n → (s.ctx n).tear = none) →
       exec (.meshArrival t k) s = .next ((s.setEntry t x { x with arrived := true }).hazard (meshDest x.inst) 6 0xFFFFFFFF { cause := 12 })) ∧
     (∀ c y, x.started = some c → x.arrived = true → x.admitted = true → meshEnd t x c ≤ s.clk.core →
       (((s.moverProgress t).finishAsync t x).tl (meshDest x.inst)).checker.find?
         (fun z => z.inst.mn = .mvMrecv && z.peer == some (t, x.issue) && !z.finished) = some y →
       exec (.meshTransferComplete t k) s = .next (((((s.moverProgress t).finishAsync t x).modT (meshDest x.inst) fun T =>
         T.putWords (y.inst.desc 0) [] (x.words (s.tl t))).recordIn (meshDest x.inst) (x.words (s.tl t))).finishAsync (meshDest x.inst) y))) ∧
  (∀ (s : State) (t k : Nat) (x : Entry), t < 192 → s.live = true → s.isShadow t = false →
     (s.moverEntry t k .mvGet = some x → ∀ ce n b, n = 32 * (x.inst.desc 0).words → b = s.devRead x.devAddr (x.inst.desc 0).words →
       (s.accessOk t x.devAddr (x.inst.desc 0).words = true → s.devUe x.devAddr n = none →
         exec (.mvGetComplete t k false ce) s = .next ((((((s.devCorrected x.devAddr n ce).modT t fun T =>
           T.putWords (x.inst.desc 0) (x.rowsOf 0) b).recordIn t b).moverProgress t).finishAsync t x).astLeft t x)) ∧
       (∀ w, s.accessOk t x.devAddr (x.inst.desc 0).words = true → s.devUe x.devAddr n = some w →
         exec (.mvGetComplete t k false ce) s = .next ((s.countUe w).moverFault t x faultEcc w)) ∧
       (s.accessOk t x.devAddr (x.inst.desc 0).words = true →
         exec (.mvGetComplete t k true ce) s = .next ((s.countUe x.devAddr).moverFault t x faultEcc x.devAddr)) ∧
       (∀ ecc, s.accessOk t x.devAddr (x.inst.desc 0).words = false →
         exec (.mvGetComplete t k ecc ce) s = .next (s.moverFault t x faultNotPresent x.devAddr))) ∧
     (s.moverEntry t k .mvPut = some x → ∀ ecc bad, bad = x.badWord (s.tl t).spUe (if ecc then x.srcs.head?.map (·.1) else none) →
       (bad = none → s.accessOk t x.devAddr (x.inst.desc 0).words = true →
         exec (.mvPutComplete t k ecc) s = .next (((((s.recordOut t (if x.inst.ast then x.words (s.tl t) else [])).devWrite x.devAddr
           (x.words (s.tl t))).moverProgress t).finishAsync t x).astLeft t x)) ∧
       (∀ w, bad = some w → exec (.mvPutComplete t k ecc) s = .next ((s.dropEntry t x).eccOperand t 4 x.index w)) ∧
       (bad = none → s.accessOk t x.devAddr (x.inst.desc 0).words = false →
         exec (.mvPutComplete t k ecc) s = .next (s.moverFault t x faultNotPresent x.devAddr))))

/-- 06 R202; 03 R79; 01 R20, R32, R34: a packet at the head of a Tiller's send queue goes on once its class admits it, an MV_SEND is complete when its
packet lies in the buffer, a packet arrives in the receive queue while it has room, and the oldest claim takes the packet at its head. An MV_SEND
whose packet has an uncorrectable word resets the Mover and sends nothing; an arriving packet with one is dropped and counted, and a delivery loss
is noticed where its header is good (07 R221). -/
def Obligations.TillersSendAndReceive : Prop :=
  ∀ (s : State) (t : Nat), t < 192 → s.live = true → s.isShadow t = false →
    (∀ q p i s1 ecc, (s.tl t).sendQ.head? = some q → (s.tl t).mayComplete 4 = true → q.issue = none → s.enter q.bytes 37 (some t) = some (some (p, i), s1) →
      exec (.mvSendAdmit t ecc) s = .next ((s1.popSend t).enqueue i p)) ∧
    (∀ q c x ecc, (s.tl t).sendQ.head? = some q → (s.tl t).mayComplete 4 = true → q.issue = some c → (s.tl t).sendEntry c = some x → x.allFed = true →
      (∀ r s1, x.badWord (s.tl t).spUe ecc = none →
        s.enter (if x.inst.ast then x.inst.sendPacket (s.tl t).sp x.rows else q.bytes) 37 (some t) = some (r, s1) → exec (.mvSendAdmit t ecc) s =
        .next (((s1.popSend t).setEntry t x { x with admitted := true, pkt := r.map (·.1) }).moverProgress t)) ∧
      (∀ w, x.badWord (s.tl t).spUe ecc = some w →
        exec (.mvSendAdmit t ecc) s = .next (((s.popSend t).dropEntry t x).eccOperand t 4 x.index w))) ∧
    (∀ x p i, (s.tl t).checker.find? (fun x => x.inst.mn = .mvSend && x.admitted && !x.finished) = some x → (s.tl t).mayComplete 4 = true →
      x.pkt = some p → s.sliceFor 37 t = some i →
      exec (.mvSendComplete t) s = .next (((((s.enqueue i p).moverProgress t).finishAsync t x).exemptEnds t).astLeft t x)) ∧
    (∀ q s1, s.fab.transit.find? (fun q => q.1 == t) = some q → (s.tl t).recvQ.length < recvMax →
      s1 = s.modFab (fun b => { b with transit := b.transit.erase q }) →
      exec (.receiveQueueArrival t none) s = .next (s1.modT t fun T => { T with recvQ := T.recvQ ++ [{ q.2 with stamp := s1.coreTime }] }) ∧
      (∀ w, w < 2 → exec (.receiveQueueArrival t (some w)) s = .next (s1.dropPkt q.2 37 dropEcc)) ∧
      (∀ w, 2 ≤ w → exec (.receiveQueueArrival t (some w)) s = .next ((s1.dropPkt q.2 37 dropEcc).deliveryLost q.2 37 dropEcc))) ∧
    (∀ x p rest, (s.tl t).recvClaim = some x → (s.tl t).mayComplete 4 = true → (s.tl t).recvQ = p :: rest → (p.kind = 1 → p.origin ≠ 0) →
      exec (.mvRecvComplete t) s = .next ((((((((s.release p).modT t fun T =>
        { (T.putPacket (x.inst.desc 0) (x.rowsOf 0) (claimBytes p.bytes s.freeNat)) with recvQ := rest }).recordIn t p.bytes).drawn).moverProgress
          t).finishAsync t x).exemptEnds t).astLeft t x))

/-! ### Contexts, Seedbank and the prefix store -/

/-- CTX_CREATE gives the lowest free context number with its epoch, REFUSED_NO_FIT where none is free; CTX_LOAD places an image that passes every check
on domains that are on, and answers the largest size, asks first for the domains it needs, waits its turn at Seedbank, or completes with the status
of the first check that fails (10 R296; 03 R80; 01 R38; 08 R237). CTX_START starts every Tiller of a loaded context in the first cycle of a mesh
frame (03 R81); CTX_STOP asks its running Tillers to stop, and those that have not within its timeout are stopped and counted; CTX_TEARDOWN begins a
teardown, whose unfinished engines are reset after 100 µs and which ends with the context's memory writes (10 R296; 13 R363). A context that is not
there gives CONTEXT_GONE. That CTX_CREATE gives the lowest free number is the model's choice (log 24). -/
def Obligations.ContextsLiveFromCreateToTeardown : Prop :=
  (∀ (s : State) (c : Nat) (k : Cmd),
     (s.carries 0x0201 c k →
       (fieldAt k.params 0 1 ≤ 1 → fieldAt k.params 2 2 = 0 →
         (∀ x, s.freeCtx = some x → exec (.ctxCreate c) s = .next (((s.take c).modCtx x fun _ =>
           { live := true, ring := fieldAt k.params 1 1, diag := fieldAt k.params 0 1 == 1 }).finish c stOk [x, (s.epoch x).toNat])) ∧
         (s.freeCtx = none → exec (.ctxCreate c) s = .next ((s.take c).finish c stNoFit))) ∧
       (1 < fieldAt k.params 0 1 ∨ fieldAt k.params 2 2 ≠ 0 → exec (.ctxCreate c) s = .next ((s.take c).finish c stBadParam))) ∧
     (∀ x img sizes phases s1, s.carries 0x0202 c k → fieldAt k.params 0 4 = x → s1 = s.take c →
       (loadFieldsOk k img = false → exec (.ctxLoad c img sizes phases) s = .next (s1.finish c stBadParam)) ∧
       (loadFieldsOk k img = true → s.ctxOk x = false → exec (.ctxLoad c img sizes phases) s = .next (s1.finish c stContextGone)) ∧
       (loadFieldsOk k img = true → s.ctxOk x = true → (s.ctx x).loaded = true →
         exec (.ctxLoad c img sizes phases) s = .next (s1.finish c stBadParam)) ∧
       (loadFieldsOk k img = true → s.ctxOk x = true → (s.ctx x).loaded = false →
         (∀ v s2, s1.loadImage { cmd := some c } x img sizes phases = .got v s2 → s.domainsWanted x img = [] →
           exec (.ctxLoad c img sizes phases) s = .next ((s2.finish c stOk [sizes.foldl max 0]).leaveQueue { cmd := some c })) ∧
         (∀ v s2, s1.loadImage { cmd := some c } x img sizes phases = .got v s2 → s.domainsWanted x img ≠ [] →
           exec (.ctxLoad c img sizes phases) s = .next (s.requestDomains (s.domainsWanted x img))) ∧
         (s1.loadImage { cmd := some c } x img sizes phases = .empty → exec (.ctxLoad c img sizes phases) s =
           .next ((s1.finish c (s1.loadStatus x img sizes phases)).leaveQueue { cmd := some c })) ∧
         (s1.loadImage { cmd := some c } x img sizes phases = .noFit →
           exec (.ctxLoad c img sizes phases) s = .next ((s1.finish c stNoFit).leaveQueue { cmd := some c })) ∧
         (∀ w, s1.loadImage { cmd := some c } x img sizes phases = .wait w →
           exec (.ctxLoad c img sizes phases) s = .next ((s.requestDomains (s.domainsWanted x img)).await { cmd := some c } w))))) ∧
  (∀ (s : State) (c x : Nat) (k : Cmd),
     (s.carries 0x0203 c k → fieldAt k.params 0 4 = x → s.clk.core % 256 = 0 →
       (s.ctxOk x = true → (s.ctx x).loaded = true → (s.ctx x).started = false →
         exec (.ctxStart c) s = .next (((s.take c).startAll x).finish c stOk)) ∧
       (s.ctxOk x = true → (s.ctx x).loaded = false ∨ (s.ctx x).started = true → exec (.ctxStart c) s = .next ((s.take c).finish c stBadParam)) ∧
       (s.ctxOk x = false → exec (.ctxStart c) s = .next ((s.take c).finish c stContextGone))) ∧
     (∀ ms, s.carries 0x0204 c k → fieldAt k.params 0 4 = x → ms = fieldAt k.params 4 4 →
       (ms ≤ 60000 → s.ctxOk x = true → (s.ctx x).everStarted = true →
         exec (.ctxStop c) s = .next (((s.ctx x).tillers.foldl (fun s t => s.modT t fun T => { T with stopReq := T.run == .running })
           ((s.take c).modCtx x fun C => { C with stops := C.stops ++ [(c, s.t3 + msec (if ms = 0 then 1000 else ms))] })).stopCheck x)) ∧
       (60000 < ms → exec (.ctxStop c) s = .next ((s.take c).finish c stBadParam)) ∧
       (ms ≤ 60000 → s.ctxOk x = false → exec (.ctxStop c) s = .next ((s.take c).finish c stContextGone)) ∧
       (ms ≤ 60000 → s.ctxOk x = true → (s.ctx x).everStarted = false → exec (.ctxStop c) s = .next ((s.take c).finish c stBadParam))) ∧
     (∀ late, x < 256 → s.live = true → late = (s.ctx x).stops.filter (fun p => decide (p.2 ≤ s.t3)) → late ≠ [] →
       ∀ run, run = (s.ctx x).tillers.filter (fun t => (s.tl t).run = .running) → exec (.ctxStopTimeout x) s =
         .next (((late.foldl (fun s p => s.finish p.1 stTimeout [run.length]) (run.foldl State.stopTiller s)).modCtx x fun C =>
           { C with stops := C.stops.filter fun p => !late.contains p, started := false }).stopCheck x)) ∧
     (s.carries 0x0205 c k → fieldAt k.params 0 4 = x →
       (s.ctxOk x = true → exec (.ctxTeardown c) s = .next ((s.take c).tearBegin x (some c))) ∧
       (s.ctxOk x = false → exec (.ctxTeardown c) s = .next ((s.take c).finish c stContextGone))) ∧
     (∀ t e r, t < 192 → e < 6 → s.live = true → (s.tl t).ctx = some x → (s.ctx x).tear = some r → r.step = 1 → s.after r.since (usec 100) = true →
       (s.tl t).reset = none → (s.tl t).working s.clk.core e = true →
       exec (.teardownEngineTimeout t e) s = .next ((s.discardSteps t).beginReset t [e] 0 none)) ∧
     (∀ r, x < 256 → s.live = true → (s.ctx x).tear = some r → r.step = 4 → (∀ t ∈ (s.ctx x).tillers, (s.tl t).sendQ = [] ∧ s.quiet t = true) →
       (∀ c, r.cmd = some c → exec (.teardownWritesAcked x) s = .next ((s.tearRelease x).finish c stOk)) ∧
       (r.cmd = none → exec (.teardownWritesAcked x) s = .next (s.tearRelease x))))

/-- Seedbank (08 R233 to R242; 01 R38): a request of BUF_ALLOC or of a service Tiller that keeps the rules waits its turn where its list is being
rebuilt or requests stand before it, or for the domain of its memory, is refused where its owner may not take or the list is empty, is handed the
buffer of a good head with its address, pool and list, and begins a rebuild at a bad one; BUF_FREE gives a buffer back to its list, and a second
free changes nothing and says DOUBLE_FREE; the end of a rebuild serves what waited; pool counts and minima are set when they fit. The order of a
free list after a layout is log 22. -/
def Obligations.SeedbankServes : Prop :=
  (∀ (s : State) (c : Nat) (k : Cmd), s.carries 0x0602 c k →
    (∀ p, allocPool (fieldAt k.params 2 1) (fieldAt k.params 8 8) = some p → listExists p (fieldAt k.params 3 1) = true →
      fieldAt k.params 0 2 ≤ 255 ∨ fieldAt k.params 0 2 = 0x101 → fieldAt k.params 4 1 ≤ 1 → fieldAt k.params 5 3 = 0 →
      ∀ q, q = { cmd := some c, owner := fieldAt k.params 0 2, pool := p, list := fieldAt k.params 3 1, zero := fieldAt k.params 4 1 == 1 } →
      exec (.bufAlloc c) s = .next ((s.take c).sbAsk q)) ∧
    (allocPool (fieldAt k.params 2 1) (fieldAt k.params 8 8) = none → exec (.bufAlloc c) s = .next ((s.take c).finish c stBadParam))) ∧
  (∀ (s : State) (q : SbReq) (L : Nat), L = s.chooseList q.pool q.list →
    (q.owner < 0x100 → s.ctxOk q.owner = false → s.sbAsk q = s.sbReply q stContextGone []) ∧
    ((q.owner < 0x100 → s.ctxOk q.owner = true) →
    (∀ l b, s.mustWait { q with mark := true } L = some (.list l b) →
      s.sbAsk q = s.modSeed fun b => { b with waiting := b.waiting ++ [{ q with on := L }] }) ∧
    (∀ d, s.mustWait { q with mark := true } L = some (.domain d) →
      s.sbAsk q = if s.pwr.keepOff.getLsbD d then s.sbReply q stNoFit []
        else (s.requestDomains [d]).modSeed fun b => { b with waiting := b.waiting ++ [{ q with on := L }] }) ∧
    (s.mustWait { q with mark := true } L = none →
      (s.mayTake q.owner q.pool = false ∨ s.listFree L = 0 ∨ s.listHead L = none → s.sbAsk q = s.sbReply q stPoolEmpty []) ∧
      (∀ i, s.mayTake q.owner q.pool = true → 0 < s.listFree L → s.listHead L = some i →
        (s.headerOk L i = true → s.sbAsk q = (s.handOut L i q.owner none q.zero).sbReply q stOk
          [s.bufAddr L i % 2 ^ 32, s.bufAddr L i / 2 ^ 32, q.pool, dieOfList L]) ∧
        (s.headerOk L i = false → s.sbAsk q = ((s.quarantine L i).modList L fun l => { l with rebuilding := true }).modSeed fun b =>
          { b with waiting := b.waiting ++ [{ q with on := L }] }))))) ∧
  (∀ (s : State) (c : Nat) (k : Cmd) (L i : Nat), s.carries 0x0603 c k → fieldAt k.params 2 6 = 0 →
    (fieldAt k.params 0 2 < 0x100 → s.ctxOk (fieldAt k.params 0 2) = true) →
    s.bufferOf (fieldAt k.params 8 8) = some (L, i) → s.bufAddr L i = fieldAt k.params 8 8 →
    ((s.sbEntry L i).alloc = true → (s.sbEntry L i).quar = false → (s.sbEntry L i).owner = fieldAt k.params 0 2 → (s.sbEntry L i).slot = none →
      exec (.bufFree c) s = .next (((s.take c).giveBack L i).finish c stOk)) ∧
    ((s.sbEntry L i).alloc = false ∨ (s.sbEntry L i).quar = true → exec (.bufFree c) s = .next ((s.take c).finish c stDoubleFree))) ∧
  (∀ (s : State) (t : Nat) (r : SbAsk), t < 192 → s.live = true → s.pfx.on = true → s.pfx.tillers.contains t = true →
    (r.free = false → r.pool ≤ 4 → listExists r.pool r.list = true →
      exec (.seedbankRequest t r) s = .next (s.sbAsk { tiller := t, owner := r.owner, pool := r.pool, list := r.list })) ∧
    (r.free = true → (s.sbFree r.owner r.addr).1 ≠ stDoubleFree → exec (.seedbankRequest t r) s = .next (s.sbFree r.owner r.addr).2) ∧
    (r.free = true → (s.sbFree r.owner r.addr).1 = stDoubleFree → exec (.seedbankRequest t r) s =
      .next (s.almQueue { type := 0x0B, ctx := s.pfx.ctx, unit := t, detail := memDetail 7 0xFF noneField r.addr }))) ∧
  (∀ (s : State) (L : Nat), L < 18 → s.live = true →
    ((s.sbList L).rebuilding = true →
      exec (.seedbankRebuildDone L) s = .next (((s.modList L fun l => { l with drained := false }).rebuildList L).sbServe L)) ∧
    ((s.sbList L).rebuilding = false → exec (.seedbankRebuildDone L) s = .next (s.sbServe L))) ∧
  (∀ (s s1 : State) (c : Nat) (k : Cmd), s.carries 0x0601 c k → fieldAt k.params 0 4 = 1 → allZero (k.params.drop 24) = true →
    s1 = (s.take c).setMinima 0x101 ((List.range 5).map fun i => fieldAt k.params (4 + 4 * i) 4) →
    exec (.poolConfigMinima c) s = .next (if s1.minimaFit then s1.finish c stOk else (s.take c).finish c stNoFit)) ∧
  (∀ (s s1 : State) (c : Nat) (k : Cmd), s.carries 0x0601 c k → fieldAt k.params 0 4 = 0 → s1 = (s.take c).layPools (poolCounts k.params) →
    ((∀ p ∈ s.seed.entries, p.1 / 2 ^ 22 < 16 → p.2.alloc = false ∧ p.2.quar = false) → countsFit (poolCounts k.params) = true →
      exec (.poolConfigCounts c) s = .next (if (poolCounts k.params).foldl (· + ·) 0 + 122880 ≤ 4194304 ∧ s1.minimaFit = true then s1.finish c stOk
        else (s.take c).finish c stNoFit)) ∧
    (countsFit (poolCounts k.params) = false → exec (.poolConfigCounts c) s = .next ((s.take c).finish c stBadParam)))

/-- A put (08 R245, R246, R237): its first chunk opens it with the buffer that room gives, waits for a demotion or for Seedbank, or is refused with
POOL_EMPTY; a further one joins it, and one held already is counted and dropped; with every chunk held, before its timeout, the block is entered
under the next commit sequence and answered OK; past the timeout it is discarded and answered TIMEOUT. -/
def Obligations.PutsGatherAndCommit : Prop :=
  ∀ s : State, s.live = true →
    (∀ t p rest r, t < 192 → s.pfx.on = true → s.pfx.tillers.contains t = true → (s.tl t).reset = none → (s.tl t).recvQ = p :: rest →
      s.pfxRequestOk p = true → r = preqOf p → r.op = 1 →
      (∀ q, s.pfx.puts.find? (fun q => q.takes t p r) = some q → q.refused = false → q.waitDemote = false →
        (q.held.contains r.chunk = false → exec (.put t) s = .next ((s.takeHead t p).putChunk q r.chunk (p.payload.drop 48))) ∧
        (q.held.contains r.chunk = true → exec (.put t) s = .next ((s.takeHead t p).pfxCount 11))) ∧
      (∀ s1 q, s.pfx.puts.find? (fun q => q.takes t p r) = none →
        q = { pid := s1.pfx.nextPut, tiller := t, key := r.key, big := r.big, crc := r.crc, req := r.req, hdr := p.bytes.take 48, openedAt := s.t3 } →
        (∀ a q1, s.gddrRoom { tiller := t } r.big = (.now a, s1) → q1 = { q with addr := a } →
          exec (.put t) s = .next ((((s1.modPfx fun x => { x with puts := x.puts ++ [q1], nextPut := x.nextPut + 1 }).takeHead t p).putChunk q1
            r.chunk (p.payload.drop 48)).leaveQueue { tiller := t })) ∧
        (∀ a, s.gddrRoom { tiller := t } r.big = (.later a, s1) → exec (.put t) s = .next ((s1.modPfx fun x =>
          { x with puts := x.puts ++ [{ q with addr := a, waitDemote := true }], nextPut := x.nextPut + 1 }).leaveQueue { tiller := t })) ∧
        (∀ q1, s.gddrRoom { tiller := t } r.big = (.no, s1) → q1 = { q with refused := true, held := [r.chunk] } → exec (.put t) s =
          .next (((((s1.modPfx fun x => { x with puts := x.puts ++ [q1], nextPut := x.nextPut + 1 }).takeHead t p).putReply q stPoolEmpty 0).pfxCount
            2).leaveQueue { tiller := t })) ∧
        (∀ w, s.gddrRoom { tiller := t } r.big = (.wait w, s1) → exec (.put t) s = .next (s.await { tiller := t } w)))) ∧
    (∀ pid q, s.pfx.puts.find? (fun q => q.pid == pid) = some q → q.refused = false → q.waitDemote = false →
      (q.held.length = blockChunks q.big → s.after q.openedAt (usec s.pfx.tmo) = false →
        (s.pfx.verify = false ∨ crc32c (s.memRead q.addr (blockBytes q.big)) = q.crc →
          ∀ v, v = (s.pfx.seq + 1) % 2 ^ 64 → exec (.putCommit pid) s = .next (((((s.dropPut pid).modPfx fun p => { p with seq := v }).enterBlock
            { key := q.key, big := q.big, version := v, crc := q.crc, addr := q.addr, stamp := v }).putReply q stOk v).pfxCount 0)) ∧
        (s.pfx.verify = true → crc32c (s.memRead q.addr (blockBytes q.big)) ≠ q.crc →
          exec (.putCommit pid) s = .next (((s.dropPut pid).giveAddr q.addr).putReply q stBadParam 0))) ∧
      (s.after q.openedAt (usec s.pfx.tmo) = true →
        exec (.putTimeout pid) s = .next ((((s.dropPut pid).giveAddr q.addr).putReply q stTimeout 0).pfxCount 1)))

/-- Reads and removals of the store (08 R245, R247, R250): a GET or a DELETE of a block of another size or none, and a PROBE of no block, is answered
PREFIX_MISS; a hit is answered with the block, its single-bit errors counted, counted and stamped; a DELETE removes it; a PROBE says that it is
there. A packet that breaks the rules is dropped and counted by whichever row finds it. -/
def Obligations.StoreRequestsAreAnswered : Prop :=
  ∀ (s : State) (t : Nat) (p : Pkt) (rest : List Pkt), s.live = true → t < 192 → s.pfx.on = true → s.pfx.tillers.contains t = true →
    (s.tl t).reset = none → (s.tl t).recvQ = p :: rest →
    (s.pfxRequestOk p = false → ∀ ce,
      exec (.put t) s = .next ((s.takeHead t p).pfxCount 12) ∧ exec (.get t ce) s = .next ((s.takeHead t p).pfxCount 12) ∧
      exec (.delete t) s = .next ((s.takeHead t p).pfxCount 12) ∧ exec (.probe t) s = .next ((s.takeHead t p).pfxCount 12)) ∧
    (s.pfxRequestOk p = true → (preqOf p).op = 2 → ∀ ce,
      ((s.block? (preqOf p).key).filter (fun b => b.big == (preqOf p).big) = none →
        exec (.get t ce) s = .next (((s.takeHead t p).missReply t p.bytes 0x82 (preqOf p) 0).pfxCount 5)) ∧
      (∀ b v b', (s.block? (preqOf p).key).filter (fun b => b.big == (preqOf p).big) = some b → v = (s.pfx.seq + 1) % 2 ^ 64 →
        b' = { b with stamp := v, promote := b.promote || (b.cxl && s.pfx.promote) } →
        exec (.get t ce) s = .next (((((s.takeHead t p).modBlock b.key fun _ => b').modPfx fun x => { x with seq := v }).sendBlock t p.bytes (preqOf p)
          b' ce).pfxCount (if b.cxl then 4 else 3)))) ∧
    (s.pfxRequestOk p = true → (preqOf p).op = 3 →
      ((s.block? (preqOf p).key).filter (fun b => b.big == (preqOf p).big) = none →
        exec (.delete t) s = .next ((s.takeHead t p).missReply t p.bytes 0x83 (preqOf p) 0)) ∧
      (∀ b, (s.block? (preqOf p).key).filter (fun b => b.big == (preqOf p).big) = some b → exec (.delete t) s =
        .next (((s.takeHead t p).pfxSend t (pfxReply p.bytes 0x83 stOk (preqOf p) false 0 b.crc.toNat b.version [])).removeBlock b))) ∧
    (s.pfxRequestOk p = true → (preqOf p).op = 4 →
      (s.block? (preqOf p).key = none → exec (.probe t) s = .next ((s.takeHead t p).missReply t p.bytes 0x84 (preqOf p) 0)) ∧
      (∀ b, s.block? (preqOf p).key = some b → exec (.probe t) s =
        .next ((s.takeHead t p).pfxSend t (pfxReply p.bytes 0x84 stOk { preqOf p with big := b.big } false 0 b.crc.toNat b.version []))))

/-- Demotion, promotion and PREFIX_CONFIG (08 R243, R244, R248, R249, R250): a copied block that no get reads switches to the CXL tier and frees its
GDDR7 buffer, and one with an uncorrectable word is removed; a hit block of the CXL tier with room in GDDR7 moves there; the store is enabled on
free Tillers that are on, with its minima and its own context, asks first for those that are off, and is reconfigured, its limits put in force, or
disabled while it is on. -/
def Obligations.StoreMovesAndIsConfigured : Prop :=
  (∀ (s : State) (key : List Byte) (b : PBlock), s.live = true → s.block? key = some b → s.reading b = false →
    (∀ slot s1, b.copying = some slot → b.cxl = false → s1 = s.noteRead b.addr (blockBytes b.big) →
      (s1.knownUe b.addr (blockBytes b.big) = none → exec (.prefixDemoteDone key) s =
        .next ((((s1.copyBlock b.addr slot b.big).modBlock key fun x => { x with cxl := true, addr := slot, copying := none }).pfxCount 6).freeStorage
          { b with copying := none })) ∧
      (s1.knownUe b.addr (blockBytes b.big) ≠ none → exec (.prefixDemoteDone key) s = .next ((s1.removeBlock b).pfxCount 9))) ∧
    (∀ s0, b.cxl = true → b.promote = true → b.copying = none → s0 = s.modBlock key (fun x => { x with copying := some b.addr }) →
      (∀ a s1, s0.gddrRoom { tiller := 192 } b.big = (.now a, s1) →
        exec (.prefixPromote key) s = .next ((s1.promoteTo b a).leaveQueue { tiller := 192 })) ∧
      (∀ a s1, s0.gddrRoom { tiller := 192 } b.big = (.later a, s1) →
        exec (.prefixPromote key) s = .next ((s1.modBlock key fun x => { x with copying := some a }).leaveQueue { tiller := 192 })) ∧
      (∀ s1, s0.gddrRoom { tiller := 192 } b.big = (.no, s1) →
        exec (.prefixPromote key) s = .next ((s.leaveQueue { tiller := 192 }).modBlock key fun x => { x with promote := false })))) ∧
  (∀ (s : State) (c : Nat) (k : Cmd), s.carries 0x0604 c k →
    (prefixRecordOk k.params = false → exec (.prefixConfig c) s = .next ((s.take c).finish c stBadParam)) ∧
    (∀ n ts, prefixRecordOk k.params = true → fieldAt k.params 0 1 % 2 = 1 → s.pfx.on = false → n = fieldAt k.params 1 1 → ts = s.storeTillers n →
      (ts.length = n → (∀ t ∈ ts, s.domOn (domTiller (t / 8)) = true) →
        (∀ x s1, s.freeCtx = some x → s1 = (s.take c).setMinima 0x100 (prefixMinima k.params) → s1.minimaFit = true →
          ∀ s2, s2 = (s1.modPfx fun p => p.configured k.params).enableStore x ts →
          exec (.prefixConfig c) s = .next (s2.finish c stOk [s2.pfx.ctx, (s2.epoch s2.pfx.ctx).toNat])) ∧
        (s.freeCtx = none ∨ ((s.take c).setMinima 0x100 (prefixMinima k.params)).minimaFit = false →
          exec (.prefixConfig c) s = .next ((s.take c).finish c stNoFit))) ∧
      (ts.length ≠ n → exec (.prefixConfig c) s = .next ((s.take c).finish c stNoFit)) ∧
      (∀ l, ts.length = n → l = (dedup (ts.map fun t => domTiller (t / 8))).filter (fun d => !s.domOn d) → l ≠ [] →
        exec (.prefixConfig c) s = .next (s.requestDomains l))) ∧
    (prefixRecordOk k.params = true → fieldAt k.params 0 1 % 2 = 0 → s.pfx.on = true →
      ∀ s1, s1 = (s.take c).disableStore.modPfx (fun p => p.configured k.params) →
      exec (.prefixConfig c) s = .next (s1.finish c stOk [s1.pfx.ctx, (s1.epoch s1.pfx.ctx).toNat])) ∧
    (prefixRecordOk k.params = true → fieldAt k.params 0 1 % 2 = 1 → s.pfx.on = true → fieldAt k.params 1 1 = s.pfx.tillers.length →
      ((s.take c).setMinima 0x100 (prefixMinima k.params)).minimaFit = true →
      ∀ s1, s1 = (((s.take c).setMinima 0x100 (prefixMinima k.params)).modPfx fun p => p.configured k.params).holdLimits →
      exec (.prefixConfig c) s = .next (s1.finish c stOk [s1.pfx.ctx, (s1.epoch s1.pfx.ctx).toNat])))

/-! ### Posts and diagnosis -/

/-- 10 R299, R300; 05 R172: a post in order is sent with its data, of each kind, and one out of order is refused; a packet that answers it goes to the
posts it concerns and leaves port 36, or, with an uncorrectable word (01 R32), is dropped there; on a STEP_REPLAY each contribution or count is read
and sent again. -/
def Obligations.PostsAreSentAndAnswered : Prop :=
  (∀ (s : State) (c : Nat) (k : Cmd) (data : List Byte), s.carries 0x0302 c k →
    (∀ d s1, d = (if fieldAt k.params 1 1 = 2 then [] else data) →
      s1 = (if (s.take c).postOk k d then ((s.take c).modHost fun h => { h with posts := h.posts ++ [k.post] }).sendPost k.post d
        else (s.take c).finish k.id stBadParam) →
      (fieldAt k.params 1 1 = 0 → exec (.collPostContrib c data) s = .next s1) ∧
      (fieldAt k.params 1 1 = 1 → exec (.collPostCounts c data) s = .next s1) ∧
      (fieldAt k.params 1 1 = 2 → exec (.collPostResultRequest c) s = .next s1)) ∧
    (2 < fieldAt k.params 1 1 → exec (.collPostContrib c data) s = .next ((s.take c).finish k.id stBadParam))) ∧
  (∀ (s : State) (p : Pkt) (ps : List Post), s.live = true → s.postHead = some (p, ps) →
    ((readPrefix p.payload).kind ≠ kReplay ∨ replayed ps = [] → exec (.postPacketArrival none) s = .next ((s.clear36 p).takePostPacket ps p)) ∧
    (∀ w, exec (.postPacketArrival (some w)) s =
      .next ((s.dropPkt p 36 dropEcc).modFab fun b => { b with txPkt := SMap.set noneAt 36 none b.txPkt })) ∧
    (∀ c q data, (readPrefix p.payload).kind = kReplay → (replayed ps).find? (fun q => q.cmd == c) = some q →
      ∀ s1, s1 = (if (readPrefix p.payload).gen = (s.slot q.slot).bind.gen then s.sendPost q data else s) →
      ((∀ q ∈ replayed ps, q.cmd ≤ c) → exec (.postStepReplay c data) s = .next (s1.clear36 p)) ∧
      ((∃ q ∈ replayed ps, c < q.cmd) → exec (.postStepReplay c data) s = .next s1)))

/-- 13 R371, R372: a shadow run takes two buffers and a free Tiller and waits for the source's step, or is refused where they are not to be had; a
repeat begins with the captured state once the temperature allows; a source that does not finish its step in time ends the run with TIMEOUT. 13
R354, R355, R356: ENGINE_RESET of an engine of a context's own Tiller, or of a fabric port, halts it and begins the reset, or joins one in progress,
and refuses what is out of order; DIAG_SCRATCH_SAMPLE returns the scratchpad bytes asked for, uncorrectable words as zeros and counted, with the
Tiller's state where that is asked for, of a Tiller that does not run; DIAG_SELFTEST reports each named Tiller, writes a record for each that
failed, and asks first for the domains it needs. The results of a self-test are operands of its row (log 50); an ENGINE_RESET that joins one in
progress leaves it as it is (a reading of 13 R354). -/
def Obligations.DiagnosticsRunAndReport : Prop :=
  ((∀ (s : State) (c a b : Nat) (k : Cmd), s.carries 0x0A02 c k → a = fieldAt k.params 16 2 → b = fieldAt k.params 18 2 → a < 192 → b < 192 →
     fieldAt k.params 20 1 ≠ 0 → fieldAt k.params 21 1 ≤ 1 → (BitVec.ofNat 16 (fieldAt k.params 22 2)).toInt < 1600 → fieldAt k.params 24 4 ≠ 0 →
     fieldAt k.params 24 4 ≤ 60000 → allZero (k.params.drop 28) = true → s.ctxOk (fieldAt k.params 12 4) = true →
     (s.tl a).ctx = some (fieldAt k.params 12 4) → (s.tl a).mode = 0 → (s.tl a).run = .running →
     (s.harrow b = false → usesHarrow (s.tl a).img.code = true → exec (.diagShadowRun c) s = .next ((s.take c).finish c stNotPresent)) ∧
     (s.harrow b = true ∨ usesHarrow (s.tl a).img.code = false →
       (s.tillerFree b = false ∨ s.domOn (domTiller (b / 8)) = false ∨ s.shadow ≠ none →
         exec (.diagShadowRun c) s = .next ((s.take c).finish c stNoFit)) ∧
       (s.tillerFree b = true → s.domOn (domTiller (b / 8)) = true → s.shadow = none →
         ((s.take c).takeMany { cmd := some c } 0x101 3 none 2 = .empty →
           exec (.diagShadowRun c) s = .next (((s.take c).finish c stPoolEmpty).leaveQueue { cmd := some c })) ∧
         (∀ w, (s.take c).takeMany { cmd := some c } 0x101 3 none 2 = .wait w → exec (.diagShadowRun c) s = .next (s.await { cmd := some c } w)) ∧
         (∀ bufs s1, (s.take c).takeMany { cmd := some c } 0x101 3 none 2 = .got bufs s1 →
           ∃ h, exec (.diagShadowRun c) s = .next (State.leaveQueue { s1.modT b (fun T => { T with owner := .shadow }) with shadow := some h }
               { cmd := some c }) ∧
             h.src = a ∧ h.dst = b ∧ h.repeats = fieldAt k.params 20 1 ∧ h.bufs = bufs ∧ h.stage = 0 ∧ h.cmd = c ∧
             h.deadline = s.t3 + msec (fieldAt k.params 24 4))))) ∧
   (∀ (s : State) (h : Shadow), s.live = true → s.shadow = some h → h.stage < 2 → h.deadline ≤ s.t3 →
     exec .shadowRunTimeout s = .next (s.endShadow stTimeout)) ∧
   (∀ (s : State) (h : Shadow), s.live = true → s.shadow = some h → h.stage = 2 → (s.tl h.dst).run = .faulted →
     exec .shadowRepeatStart s = .next (s.endRepeat false)) ∧
   (∀ (s : State) (h : Shadow) (T : Tiller), s.live = true → s.shadow = some h → h.stage = 2 → (s.tl h.dst).run ≠ .running →
     (s.tl h.dst).run ≠ .faulted → h.snap = some T → s.holdOver h = true →
     ∃ s', exec .shadowRepeatStart s = .next s' ∧ onlyTiller h.dst { s with shadow := s'.shadow } s' ∧ (s'.tl h.dst).run = .running ∧
       (s'.tl h.dst).owner = .shadow ∧ (s'.tl h.dst).regs = T.regs ∧ (s'.tl h.dst).dmem = T.dmem ∧ (s'.tl h.dst).sp = T.sp ∧ (s'.tl h.dst).gen = T.gen ∧
       (s'.tl h.dst).img = T.img ∧ (s'.tl h.dst).ctx = none ∧ (s'.tl h.dst).checker = T.checker)) ∧
  (∀ (s : State) (c : Nat) (k : Cmd),
     (∀ u e f x, s.carries 0x0A04 c k → u = fieldAt k.params 0 2 → e = fieldAt k.params 2 1 → f = fieldAt k.params 3 1 → x = fieldAt k.params 4 4 →
       (u < 192 → e < 8 → e ≠ 6 → f ≤ 3 → f % 2 = 0 ∨ e = 7 →
         (s.ctxOk x = false → exec (.engineReset c) s = .next ((s.take c).finish c stContextGone)) ∧
         (s.ctxOk x = true → (s.ctx x).tillers.contains u = false → exec (.engineReset c) s = .next ((s.take c).finish c stBadParam)) ∧
         (s.ctxOk x = true → (s.ctx x).tillers.contains u = true → e = 1 → s.harrow u = false →
           exec (.engineReset c) s = .next ((s.take c).finish c stNotPresent)) ∧
         (s.ctxOk x = true → (s.ctx x).tillers.contains u = true → e ≠ 1 ∨ s.harrow u = true →
           (∀ r, (s.tl u).reset = some r →
             exec (.engineReset c) s = .next ((s.take c).modT u fun T => { T with reset := some { r with cmds := r.cmds ++ [c] } })) ∧
           ((s.tl u).reset = none → exec (.engineReset c) s = .next (((s.take c).haltForReset u).modT u fun T => { T with reset := some {
             engines := [e], sample := decide (f < 2), start := if f < 2 then none else some s.t3, restart := f % 2 == 1, cmds := [c] } })))) ∧
       (u < 36 → e = 8 → x = 0 → f = 0 ∨ f = 2 → ∀ j, j = ((s.port u).link.resetAt.isSome || (SMap.get noneAt s.fab.groupReset (u / 4)).isSome) →
         exec (.engineReset c) s = .next (if j then (s.take c).modLink u fun L => { L with cmds := L.cmds ++ [c] }
           else ((s.take c).resetLink u 0).modLink u fun L => { L with cmds := [c] })) ∧
       (e = 6 ∨ 8 < e ∨ 3 < f ∨ (f % 2 = 1 ∧ e ≠ 7) → exec (.engineReset c) s = .next ((s.take c).finish c stBadParam))) ∧
     (∀ t f a n bad m data, s.carries 0x0A03 c k → t = fieldAt k.params 16 2 → f = fieldAt k.params 18 1 → a = fieldAt k.params 20 4 →
       n = fieldAt k.params 24 4 → t < 192 → f ≤ 1 → fieldAt k.params 19 1 = 0 → a % 32 = 0 → n % 32 = 0 → n ≠ 0 → a + n ≤ 0x200000 →
       (s.ctxOk (fieldAt k.params 12 4) = false → exec (.diagScratchSample c) s = .next ((s.take c).finish c stContextGone)) ∧
       (s.ctxOk (fieldAt k.params 12 4) = true → (s.ctx (fieldAt k.params 12 4)).tillers.contains t = true →
         ((s.tl t).run = .running → (s.ctx (fieldAt k.params 12 4)).started = true →
           exec (.diagScratchSample c) s = .next ((s.take c).finish c stBadParam)) ∧
         ((s.tl t).run ≠ .running ∨ (s.ctx (fieldAt k.params 12 4)).started = false →
           bad = (s.tl t).spUe.filter (fun w => decide (a ≤ 32 * w) && decide (32 * w < a + n)) →
           m = bad.foldl (fun (m : Memory) w => m.clear (32 * w) 32) (s.tl t).sp →
           data = m.read a n ++ (if f = 1 then (s.take c).sampleState t else []) → k.takes data.length →
           exec (.diagScratchSample c) s = .next (s.reported k [bad.length] data).drawn))) ∧
     (∀ res named, s.carries 0x0A01 c k → named = maskTillers (slice k.params 12 24) → fieldAt k.params 36 1 ≤ 1 → allZero (k.params.drop 37) = true →
       (named.all s.testable = true → (∀ t ∈ named, s.domOn (domTiller (t / 8)) = true) → k.takes (4 * named.length) →
         (∀ i < named.length, s.harrow (named.getD i 0) = true ∧ fieldAt res (2 * i) 1 % 64 = 0 ∧
           (fieldAt k.params 36 1 = 0 ∨ fieldAt res (2 * i + 1) 1 % 2 = 0)) →
         exec (.diagSelftest c res) s = .next (s.reported k [] (List.replicate named.length [63#8, 0#8, 0#8, 0#8]).flatten)) ∧
       (named.all s.testable = false → exec (.diagSelftest c res) s = .next ((s.take c).finish c stNoFit)) ∧
       (∀ l, named.all s.testable = true → l = (dedup (named.map fun t => domTiller (t / 8))).filter (fun d => !s.domOn d) → l ≠ [] →
         exec (.diagSelftest c res) s = .next (s.requestDomains l))))

/-! ### Collectives -/

/-- 05 R134 to R139; 08 R240, R242: COLL_BIND with a record that meets the rules, on a loaded context and a FREE slot whose resources can be reserved,
binds the slot and reports its cells and step buffers, waits its turn at Seedbank, or is refused; COLL_BIND with op 0 frees a slot that is not FREE,
its step buffers going back in ascending address, and waits while the context has memory writes open. 05 R174, R175: COLL_QUERY reports the slot,
its counters and its stragglers; COLL_SUBSTITUTE gives a rank to another member from the step that R175 names, its uncommitted steps aborted with
RETRY where that is now, and keeps the entries it replaces; both refuse what is out of order. -/
def Obligations.SlotsAreBoundQueriedAndSubstituted : Prop :=
  (∀ (s : State) (c l : Nat) (k : Cmd) (m n o : List Byte), s.carries 0x0301 c k → fieldAt k.params 0 1 = l →
     (∀ T b s0, fieldAt k.params 1 1 ≠ 0 → T = k.tables m n o → b = parseBinding k.params → s0 = s.take c →
       (s0.bindOk l k.params T.1 T.2.1 T.2.2 = false → exec (.collBind c m n o) s = .next (s0.finish c stBadParam)) ∧
       (s0.bindOk l k.params T.1 T.2.1 T.2.2 = true →
         (s.ctxOk b.ctx = false ∨ (s.ctx b.ctx).loaded = false → exec (.collBind c m n o) s = .next (s0.finish c stContextGone)) ∧
         (s.ctxOk b.ctx = true → (s.ctx b.ctx).loaded = true →
           ((s.slot l).state ≠ .free → exec (.collBind c m n o) s = .next (s0.finish c stNoFit)) ∧
           ((s.slot l).state = .free → ∀ r, r = s0.reserveSlot { cmd := some c } l b ((records T.1 0 32 b.nloc).map parseMember)
               ((records T.2.1 0 32 b.nnbr).map parseNbr) →
             (∀ S s1, r = .got S s1 → exec (.collBind c m n o) s =
               .next ((((s1.modSlot l fun _ => S.withOps T.2.2).steerLanes l S.laneTs).finish c stOk
                 [S.cells, S.bufBytes, bit !S.bufs.isEmpty, b.gen]).leaveQueue { cmd := some c })) ∧
             (∀ w, r = .wait w → exec (.collBind c m n o) s = .next (s.await { cmd := some c } w)) ∧
             (r = .noFit ∨ r = .empty → exec (.collBind c m n o) s = .next ((s0.finish c stNoFit).leaveQueue { cmd := some c })))))) ∧
     (∀ S, fieldAt k.params 1 1 = 0 → S = s.slot l →
       (S.state ≠ .free → fieldAt k.params 51 1 = 0 → allZero (slice k.params 80 48) = true → fieldAt k.params 28 4 < 32 →
         (S.bufs = [] ∨ (s.take c).writesOpen S.bind.ctx = false →
           exec (.collUnbind c) s = .next (((S.bufs.mergeSort (· ≤ ·)).foldl State.giveAddr ((s.take c).unbind l)).finish c stOk)) ∧
         (S.bufs ≠ [] → (s.take c).writesOpen S.bind.ctx = true → exec (.collUnbind c) s = .next s)) ∧
       (S.state = .free ∨ fieldAt k.params 51 1 ≠ 0 ∨ allZero (slice k.params 80 48) = false ∨ 32 ≤ fieldAt k.params 28 4 →
         exec (.collUnbind c) s = .next ((s.take c).finish c stBadParam)))) ∧
  (∀ (s : State) (c : Nat) (k : Cmd),
     (∀ S, s.carries 0x0303 c k → S = s.slot (fieldAt k.params 12 1) →
       (∀ data, allZero (k.params.drop 13) = true → S.state ≠ .free →
         data = toLE 4 S.state.code ++ ([S.proto, S.window, S.dup, S.gateDrop, S.capDrop].map fun v => toLE 8 v.toNat).flatten ++ padTo 128 S.bind.raw ++
           (S.members.map fun m => toLE 4 m.timesLast ++ [0#8, 0#8, 0#8, 0#8] ++ toLE 8 m.lateness).flatten ++
           (S.nbrs.map fun m => toLE 4 m.timesLast ++ [0#8, 0#8, 0#8, 0#8] ++ toLE 8 m.lateness).flatten ++ S.strag.flatten → k.takes data.length →
         exec (.collQuery c) s = .next (s.reported k [S.strag.length] data)) ∧
       (allZero (k.params.drop 13) = false ∨ S.state = .free → exec (.collQuery c) s = .next ((s.take c).finish c stBadParam))) ∧
     (∀ l S r m e now, s.carries 0x0304 c k → l = fieldAt k.params 0 1 → S = s.slot l → fieldAt k.params 1 1 = bit now → r = fieldAt k.params 2 2 →
       e = slice k.params 4 32 → m = parseMember e →
       (S.state = .bound → S.isLocal r = true → m.rank = r → memberEntryOk S.bind e = true →
         (s.routeUp m.route = true → ∀ q s1, (if S.queues.any (fun q => q.1 == fieldAt m.route 1 1 % 64) then some ([], s.take c)
             else (s.take c).takeSlotQueues l S.bind [fieldAt m.route 1 1 % 64]) = some (q, s1) →
           exec (.collSubstitute c) s = .next ((((if now then s1.abortSteps l stRetry S.uncommitted none else s1).modSlot l fun S' => { S' with
             queues := S'.queues ++ q,
             members := S'.members.map fun x => if x.rank = r then { m with since := S.effStep now, old := x.entry :: x.old } else x }).finish c
               stOk [S.effStep now])) ) ∧
         (s.routeUp m.route = false → exec (.collSubstitute c) s = .next ((s.take c).finish c stNoFit))) ∧
       (S.state ≠ .bound ∨ S.isLocal r = false ∨ m.rank ≠ r ∨ memberEntryOk S.bind e = false →
         exec (.collSubstitute c) s = .next ((s.take c).finish c stBadParam))))

/-- 05 R140 to R144, R157, R158, R171, R176, R403: a packet that fails the checks is dropped and counted as a protocol, a window or a duplicate drop,
its cells returned; each kind that its operator takes joins its step, once, counts going on to the other neighbours; a user operator's packet goes
to its program, once. A WEDGED device receives nothing. -/
def Obligations.CollectivePacketsAreTakenOnce : Prop :=
  (∀ (s : State) (t : Nat) (p : Pkt) (why : Nat), t < 192 → s.live = true → s.dev.state ≠ .wedged → s.collHead t = some p →
    s.refuses p (readPrefix p.payload) = some why →
    ∀ s1, s1 = ((s.release p).modT t fun T => { T with recvQ := T.recvQ.tail }).collDrop p.slotNo why →
      ((readPrefix p.payload).kind = kContrib → exec (.contribReceive t) s = .next s1) ∧
      ((readPrefix p.payload).kind = kCount → exec (.countReceive t) s = .next s1) ∧
      ((readPrefix p.payload).kind = kPartial → exec (.partialReceive t) s = .next s1) ∧
      ((readPrefix p.payload).kind = kResult → exec (.resultReceive t) s = .next s1) ∧
      ((readPrefix p.payload).kind = kAbort → exec (.stepAbortReceive t) s = .next s1) ∧
      ((readPrefix p.payload).kind = kReplay → exec (.stepReplayReceive t) s = .next s1) ∧
      ((readPrefix p.payload).kind = kRequest → exec (.resultRequestReceive t) s = .next s1)) ∧
  (∀ (s : State) (t : Nat), t < 192 → s.dev.state = .wedged → exec (.contribReceive t) s = .next s ∧ exec (.countReceive t) s = .next s ∧
    exec (.partialReceive t) s = .next s ∧ exec (.resultReceive t) s = .next s ∧ exec (.stepAbortReceive t) s = .next s ∧
    exec (.stepReplayReceive t) s = .next s ∧ exec (.resultRequestReceive t) s = .next s) ∧
  (∀ (s : State) (l : Nat) (p : Pkt) (c : CPrefix) (i : Option Nat) (ok : Bool),
    (ok = false ∨ (s.slot l).bind.chunkOk (s.stepOf l c.step) p c = false → s.admitPacket l p c i ok = s.protoDrop l) ∧
    (ok = true → (s.slot l).bind.chunkOk (s.stepOf l c.step) p c = true →
      ((s.stepOf l c.step).holds c = true → s.admitPacket l p c i ok = s.dupDrop l) ∧
      ((s.stepOf l c.step).holds c = false → s.admitPacket l p c i ok = (s.takeIn l p c i).progress l c.step))) ∧
  (∀ (s s1 : State) (t l : Nat) (p : Pkt) (c : CPrefix), s.accepts t l p c s1 → ∀ S i, S = s1.slot l → i = S.senderOf c →
    (c.kind = kContrib → ∀ d, d = (s1.contribOk l p c && S.bind.chunkOk (s1.stepOf l c.step) p c && !(s1.stepOf l c.step).holds c &&
        s1.tooMuch l c (collData p c)) →
      (d = false → exec (.contribReceive t) s = .next (s1.admitPacket l p c none (s1.contribOk l p c))) ∧
      (d = true → exec (.contribReceive t) s = .next ((s1.takeIn l p c none).abortSteps l stBadParam [c.step] none))) ∧
    (c.kind = kCount → S.isLocal c.rank = true →
      (S.bind.xtopo = 2 → S.bind.counts = true → S.bind.memberCounts = false → S.nbrOnPort p ≠ none →
        exec (.countReceive t) s = .next (s1.dupDrop l)) ∧
      (S.bind.op = opDispatch → S.bind.xtopo ≠ 2 ∨ S.bind.memberCounts = true →
        exec (.countReceive t) s = .next (s1.admitPacket l p c none (S.bind.memberCounts && S.memberOk p c)))) ∧
    (∀ s2, c.kind = kCount → S.isLocal c.rank = false → (s1.stepOf l c.step).holds c = false →
      s2 = s1.admitPacket l p c i (S.bind.counts && i.isSome && decide (c.rank < S.bind.gsize) && !S.fromMember p) →
      ((s2.stepOf l c.step).holds c = true → exec (.countReceive t) s = .next ((S.countTargets.filter fun j => some j != i).foldl
        (fun s j => s.slotSend l (4096 + j) { c with slot := 0, gen := 0 } (collData p c)) s2)) ∧
      ((s2.stepOf l c.step).holds c = false → exec (.countReceive t) s = .next s2)) ∧
    (c.kind = kPartial → S.bind.reducing = false → exec (.partialReceive t) s = .next (s1.admitPacket l p c i
      (S.bind.xtopo != 0 && i.isSome && decide (c.tag < S.bind.gsize) && !S.fromMember p &&
        (S.bind.scaled || !c.flags.testBit 0 || c.flags.testBit 2 == s1.lineageOn l)))) ∧
    (c.kind = kPartial → S.bind.reducing = true → s1.arrivalOrder = true → exec (.partialReceive t) s = .next (s1.admitPacket l p c i
      (S.bind.xtopo != 0 && i.isSome && c.tag == nodeTag 15 0 && !S.fromMember p &&
        (S.bind.scaled || !c.flags.testBit 0 || c.flags.testBit 2 == s1.lineageOn l)))) ∧
    (c.kind = kResult → exec (.resultReceive t) s = .next ((s1.admitPacket l p c i (S.bind.xtopo != 0 && i.isSome && !s1.computes l &&
      !S.fromMember p && (S.bind.xtopo == 1 || (decide (c.seg < S.bind.ringSize) && c.seg != S.bind.ringPos)))).ringFlow l c.step))) ∧
  (∀ (s : State) (t l : Nat) (p : Pkt) (c : CPrefix), t < 192 → s.live = true → s.dev.state ≠ .wedged → s.collHead t = some p →
    c = readPrefix p.payload → l = p.slotNo → s.refuses p c = none → (s.slot l).bind.user = true → c.kind = kContrib →
    ∀ s1, s1 = (s.release p).modT t (fun T => { T with recvQ := T.recvQ.tail }) →
      ((s1.slot l).fromReplaced p c = true → exec (.contribReceive t) s = .next (s1.protoDrop l)) ∧
      ((s1.slot l).fromReplaced p c = false → (s1.stepOf l c.step).holds c = true → exec (.contribReceive t) s = .next (s1.dupDrop l)) ∧
      ((s1.slot l).fromReplaced p c = false → (s1.stepOf l c.step).holds c = false → exec (.contribReceive t) s =
        .next ((s.modT t fun T => { T with recvQ := { p with origin := 1 } :: T.recvQ.tail }).takeIn l p c none)))

/-- 05 R152, R155, R176: the lowest uncommitted step of a bound slot commits when it is complete and in time; one that has not committed within
step_timeout is aborted with TIMEOUT, and every later one with it; a step whose outputs do not fit is aborted with BAD_PARAM. In a WEDGED device
nothing commits. 05 R144, R153 to R155: an abort from a neighbour aborts the same step here, begun or not, after a timeout every later one too, and
goes on to the others once; a replay sends the step's input to that neighbour again; a request brings a kept step's results, and an abort with
DELIVERY_LOST when they are gone; a member's abort or replay is a protocol error. -/
def Obligations.StepsCommitTimeOutAndAreRepaired : Prop :=
  (∀ (s : State) (l : Nat) (st : StepSt) (S : Slot), l < 256 → s.live = true → S = s.slot l → S.state = .bound → s.dev.state ≠ .wedged →
     (S.steps.find? (fun x => x.num == S.sLow) = some st → S.replayQ = [] → s.stepReady l st = true →
       (S.bind.user = false → s.stepLate l st = false →
         exec (.stepCommit l) s = .next (if s.outputsBad l st then s.abortSteps l stBadParam [st.num] none else s.commitStep l st)) ∧
       (S.bind.user = true → exec (.stepCommit l) s = .next (s.commitStep l st))) ∧
     (∀ n, S.bind.user = false → S.steps.find? (fun x => x.num == n) = some st → s.stepLate l st = true →
       exec (.stepTimeout l n) s = .next (s.abortSteps l stTimeout (S.uncommitted.filter fun k => decide (n ≤ k)) none))) ∧
  (∀ (s s1 : State) (t l : Nat) (p : Pkt) (c : CPrefix) (S : Slot), s.accepts t l p c s1 → S = s1.slot l →
     (∀ i later, c.kind = kAbort → S.nbrOnPort p = some i →
       later = (if c.status = stTimeout then S.uncommitted.filter fun n => decide (c.step < n) else []) →
       exec (.stepAbortReceive t) s = .next (s1.abortSteps l c.status (if S.aborted.contains c.step then later else c.step :: later)
         (some (4096 + i)))) ∧
     (c.kind = kAbort → S.nbrOnPort p = none → exec (.stepAbortReceive t) s = .next (s1.protoDrop l)) ∧
     (∀ i, c.kind = kReplay → S.nbrOnPort p = some i → exec (.stepReplayReceive t) s = .next (s1.resendTo l c.step i)) ∧
     (c.kind = kReplay → S.nbrOnPort p = none → exec (.stepReplayReceive t) s = .next (s1.protoDrop l)) ∧
     (c.kind = kRequest → S.memberOk p c = false → exec (.resultRequestReceive t) s = .next (s1.protoDrop l)) ∧
     (c.kind = kRequest → S.memberOk p c = true → S.sLow ≤ c.step ∨ S.ring.any (fun x => x.num == c.step) = true →
       exec (.resultRequestReceive t) s = .next s1) ∧
     (c.kind = kRequest → S.memberOk p c = true → c.step < S.sLow → S.ring.any (fun x => x.num == c.step) = false →
       (∀ q, S.kept.find? (fun k => k.num == c.step && !k.lost) = some q → exec (.resultRequestReceive t) s =
         .next (s1.releaseAll l c.step false ((q.outs.filter fun o => o.1 == c.rank).map fun o => (o.1, o.1, o.2)))) ∧
       (S.kept.find? (fun k => k.num == c.step && !k.lost) = none → exec (.resultRequestReceive t) s =
         .next (s1.slotSendAll l { kind := kAbort, status := stDeliveryLost, step := c.step } [c.rank]))))

/-! ### Links -/

/-- 09 R255, R259, R267 to R269: a DOWN port trains again after 1 ms; in LANE_LOCK and DESKEW it sends a training block on each usable lane, locks
lanes, aligns them by the counters of the blocks it takes, descrambled where they come as the lanes bring them, and counts the blocks that report
its peer's lanes; with 256 blocks each way and six lanes each way it enters DISCOVERY, sends and takes discovery flits, and after 16 that report it
seen it becomes ACTIVE with its stripe's counters at 0. Not ACTIVE within 20 ms, it fails training. A flit of DISCOVERY whose reserved fields are
not 0 breaks the protocol. -/
def Obligations.LinksTrainAndComeUp : Prop :=
  ∀ (s : State) (p : Nat) (L : Link), p < 36 → s.live = true → L = (s.port p).link →
    (L.state = .down → (s.port p).isHeld = false → s.fwLink = true → s.after L.since (msec 1) = true → SMap.get noneAt s.fab.groupReset (p / 4) = none →
      exec (.retrainTimer p) s = .next (s.modLink p fun L =>
        { L.fresh s.t3 .laneLock with lockAt := s.t3, laneBad := badLanes s.fw.eqTable s.dev.boardId.toNat p })) ∧
    (L.state = .laneLock ∨ L.state = .deskew → exec (.flitSlotTransmit p) s = .next (s.modLink p fun L => L.trainSlot s.t3) ∧
      (L.trainSlot s.t3).trainTx = L.trainTx + 1 ∧ (L.trainSlot s.t3).trainIdx = (L.trainIdx + 1) % 65536 ∧
      (L.trainSlot s.t3).lastFlit = ((lanesOf (~~~ L.laneBad)).map L.trainingBlock).flatten) ∧
    (∀ lane, lane < 8 → L.state = .laneLock ∨ L.state = .deskew → L.laneBad.getLsbD lane = false → L.locked.getLsbD lane = false →
      exec (.laneBlockLock p lane) s = .next (s.modLink p fun L => { L with locked := L.locked ||| laneBit lane })) ∧
    (∀ lane b, lane < 8 → L.state = .laneLock ∨ L.state = .deskew → L.locked.getLsbD lane = true → b.length ≠ 9 → b.headD 0#8 = 0x2D#8 →
      s.fwLink = true → exec (.trainingBlockReceive p lane b) s = .next (s.modLink p fun L => { L.align lane (fieldAt b 4 2) with
        state := .deskew, peerLocked := b.getD 2 0#8, trainRx := if b.getD 2 0#8 = L.peerLocked then L.trainRx + 1 else 1 })) ∧
    (∀ lane b d s1, lane < 8 → b.length = 9 → s.blockIn p lane b = (d, s1) → L.state = .laneLock ∨ L.state = .deskew →
      L.locked.getLsbD lane = true → d.headD 0#8 = 0x2D#8 → s.fwLink = true → exec (.trainingBlockReceive p lane b) s =
        .next (s1.modLink p fun L => { L.align lane (fieldAt d 4 2) with
          state := .deskew, peerLocked := d.getD 2 0#8, trainRx := if d.getD 2 0#8 = L.peerLocked then L.trainRx + 1 else 1 })) ∧
    (L.state = .deskew → 256 ≤ L.trainRx → 256 ≤ L.trainTx → 6 ≤ laneCount L.peerLocked → 6 ≤ laneCount L.rxLocked → s.fwLink = true →
      exec (.enterDiscovery p) s = .next (s.modLink p fun L => { L with
        state := .discovery, txMap := L.peerLocked, nextMap := L.peerLocked, rxMap := L.rxLocked, slot := 0, since := s.t3, peerSeen := false,
        seenSeen := false, sent16 := 0 })) ∧
    (L.state = .discovery → exec (.flitSlotTransmit p) s = .next ((s.modLink p fun L => { L with
      lastFlit := s.discoveryFlit p, sent16 := if L.peerSeen && L.seenSeen then L.sent16 + 1 else L.sent16, slot := L.slot + 1,
      slotAt := s.t3 }).stripeOut p L.txMap L.slot)) ∧
    (∀ f, L.state = .discovery → L.resetAt = none → flitGood f = true → flitKind f = 2 → discoveryOk f = true →
      exec (.discoveryFlitReceive p f) s = .next ((s.modLink p fun L => { L with
        disc := (f.drop 2).take 22, peerSeen := true, seenSeen := L.seenSeen || decide (fieldAt f 17 1 % 2 = 1) }).slotIn p)) ∧
    (∀ f, L.state = .discovery → L.resetAt = none → flitGood f = true →
      (flitKind f = 2 → discoveryOk f = false → exec (.discoveryFlitReceive p f) s = .next ((s.linkDown p 5 .down).slotIn p)) ∧
      (flitKind f = 1 → controlOk f = false → exec (.controlFlitReceive p f) s = .next ((s.linkDown p 5 .down).slotIn p))) ∧
    (L.state = .discovery → L.seenSeen = true → 16 ≤ L.sent16 → s.fwLink = true → ∃ s1 : State, exec (.enterActive p) s =
        .next ((s1.grantAll p).devEvent 3 stOk [p, LinkState.active.code, L.reason]) ∧ s1 = { s with ports := s1.ports } ∧
      (∀ q, q ≠ p → s1.port q = s.port q) ∧ (s1.port p).link.state = .active ∧ (s1.port p).link.seq = 0#12 ∧ (s1.port p).link.expect = 0#12 ∧
      (s1.port p).link.slot = 0 ∧ (s1.port p).link.grantTx = [] ∧ (s1.port p).link.retry = [] ∧ (s1.port p).link.naks = 0 ∧
      (s1.port p).link.txMap = L.txMap ∧ (s1.port p).link.rxMap = L.rxMap) ∧
    (L.state = .laneLock ∨ L.state = .deskew ∨ L.state = .discovery → s.after L.lockAt (msec 20) = true →
      6 ≤ laneCount L.rxLocked → L.state = .laneLock ∨ 6 ≤ laneCount L.peerLocked →
      exec (.trainingTimeout p) s = .next ((s.countLink p cTrainFail 1).modLink p fun L => L.fresh s.t3 .down))

/-- 09 R270: each thing that takes a link down names its reason: LOS on a lane of the map, eight naks for one flit, no good control flit for 10 µs, a
broken protocol, a pause of 1 ms without a break, a peer that has restarted, and too few lanes when training times out; the port then is in the
state asked for, for that reason, and no other port changes. A lane that loses its lock in training leaves the locked lanes. -/
def Obligations.LinksGoDown : Prop :=
  (∀ (s : State) (p reason : Nat) (st : LinkState), ((s.linkDown p reason st).port p).link.state = st ∧
    ((s.linkDown p reason st).port p).link.reason = reason ∧ (∀ q, q ≠ p → (s.linkDown p reason st).port q = s.port q)) ∧
  (∀ (s : State) (p : Nat) (L : Link), p < 36 → s.live = true → L = (s.port p).link →
    (∀ lane, lane < 8 → L.state = .active ∨ L.state = .discovery → L.rxMap.getLsbD lane = true →
      exec (.laneLossOfSignal p lane) s = .next (s.linkDown p 2 .down)) ∧
    (∀ lane, lane < 8 → L.state = .laneLock ∨ L.state = .deskew → exec (.laneLossOfSignal p lane) s =
      .next (s.modLink p fun L => { L with
        locked := L.locked &&& ~~~ laneBit lane, inLine := L.inLine &&& ~~~ laneBit lane, laneCtr := SMap.set noneAt lane none L.laneCtr,
        trainTx := 0 })) ∧
    (L.state = .active → 8 ≤ L.naks → exec (.retryExhausted p) s = .next (s.linkDown p 3 .down)) ∧
    (L.state = .active → s.after L.lastCtl (usec 10) = true → exec (.controlTimeout p) s = .next (s.linkDown p 4 .down)) ∧
    (∀ f, L.state = .active → L.resetAt = none → flitGood f = true → 2 < flitKind f →
      exec (.dataFlitReceive p f) s = .next ((s.linkDown p 5 .down).slotIn p)) ∧
    (∀ t, L.state = .active → L.pausedAt = some t → s.after t (msec 1) = true → t + msec 1 ≤ L.pauseEnd → exec (.pauseTimeout p) s = .next (s.linkDown p 6 .down)) ∧
    (∀ lane b, lane < 8 → L.state = .active → b.length ≠ 9 → exec (.trainingBlockReceive p lane b) s = .next (s.linkDown p 0xB .down)) ∧
    (∀ f, L.state = .active → L.resetAt = none → flitGood f = true → flitKind f = 2 →
      exec (.discoveryFlitReceive p f) s = .next ((s.linkDown p 0xB .down).slotIn p)) ∧
    (L.state = .laneLock ∨ L.state = .deskew ∨ L.state = .discovery → s.after L.lockAt (msec 20) = true →
      laneCount L.rxLocked < 6 ∨ (L.state ≠ .laneLock ∧ laneCount L.peerLocked < 6) →
      exec (.trainingTimeout p) s = .next ((s.countLink p cTrainFail 1).linkDown p 8 .down)))

/-- 09 R256, R257, R259 to R262, R264, R265, R271: an ACTIVE link or a FLIT loop with a data flit to send, which no periodic slot, NAK, pause, reset or
full retry buffer holds back, sends a resend first, else its next new flit, which it keeps, credit used by the packets that start in it; otherwise
its slot carries a control flit. Every flit leaves as blocks on the lanes of the map. A data flit that is expected advances the sequence and its
payload joins the byte stream; one that is not expected, or whose CRC fails, asks for a resend, once; a control flit releases what it acknowledges,
grants, and announces lane changes; the replay timer asks again after 4 µs; a pause ends when its time is over. -/
def Obligations.FlitsMoveOnALink : Prop :=
  (∀ (s : State) (p : Nat) (bytes : List Byte), bytes.length ≠ 288 → s.flitIn p bytes = (bytes, s)) ∧
  (∀ (s : State) (p : Nat) (L : Link), p < 36 → s.live = true → L = (s.port p).link → L.state = .active ∨ L.flitLoop = true →
    (∀ f rest, L.sendsData s.t3 (L.flitLoop || !L.txBuf.isEmpty) = true → L.resend = f :: rest →
      exec (.flitSlotTransmit p) s = .next ((((s.countLink p cFlitsTx 1).countLink p cReplay 1).modLink p fun L =>
        { L with lastFlit := f.2, resend := rest, slot := L.slot + 1, slotAt := s.t3 }).stripeOut p L.txMap L.slot)) ∧
    (∀ f, L.state = .active → L.sendsData s.t3 (!L.txBuf.isEmpty) = true → L.resend = [] → f = dataFlit L.seq (L.txBuf.take 246) →
      exec (.flitSlotTransmit p) s = .next (((s.countLink p cFlitsTx 1).modLink p fun L => { L.takeStream with
        lastFlit := f, retry := L.retry ++ [(L.seq, f)], seq := L.seq + 1, slot := L.slot + 1, slotAt := s.t3 }).stripeOut p L.txMap L.slot)) ∧
    (L.sendsData s.t3 (L.flitLoop || !L.txBuf.isEmpty) = false →
      exec (.flitSlotTransmit p) s = .next ((s.sendControl p).stripeOut p L.txMap L.slot))) ∧
  (∀ (s s1 : State) (p : Nat) (b f : List Byte) (L : Link), p < 36 → s.live = true → s.flitIn p b = (f, s1) → L = (s1.port p).link →
    L.state = .active → L.resetAt = none →
    (flitGood f = true → flitKind f = 0 → BitVec.ofNat 12 (fieldAt f 0 2) = L.expect → exec (.dataFlitReceive p b) s =
      .next ((((s1.countLink p cFlitsRx 1).modLink p fun L => { L with expect := L.expect + 1, awaiting := false, naks := 0 }).acceptPayload p
        ((f.drop 2).take 246)).slotIn p)) ∧
    (flitGood f = true → flitKind f = 0 → BitVec.ofNat 12 (fieldAt f 0 2) ≠ L.expect → exec (.dataFlitReceive p b) s =
      .next ((if L.awaiting then s1.countLink p cSeqDiscard 1 else (s1.countLink p cSeqDiscard 1).askResend p).slotIn p)) ∧
    (flitGood f = false → ∀ s2, s2 = (if L.awaiting then s1.countLink p cCrcErr 1 else (s1.countLink p cCrcErr 1).askResend p).slotIn p →
      exec (.dataFlitReceive p b) s = .next s2 ∧ exec (.controlFlitReceive p b) s = .next s2 ∧ exec (.discoveryFlitReceive p b) s = .next s2) ∧
    (flitGood f = true → flitKind f = 1 → controlOk f = false ∨ releaseTo (BitVec.ofNat 12 (fieldAt f 2 2)) L.retry L.seq = none →
      exec (.controlFlitReceive p b) s = .next (((s1.modLink p fun L => { L with lastCtl := s.t3 }).linkDown p 5 .down).slotIn p)) ∧
    (∀ kept, flitGood f = true → flitKind f = 1 → controlOk f = true → releaseTo (BitVec.ofNat 12 (fieldAt f 2 2)) L.retry L.seq = some kept →
      ∃ s2 : State, exec (.controlFlitReceive p b) s = .next ((s2.takeMaps p f).slotIn p) ∧ s2 = { s1 with ports := s2.ports, ctr := s2.ctr } ∧
        (∀ q, q ≠ p → s2.port q = s1.port q) ∧ (s2.port p).link.retry = kept ∧ (s2.port p).link.lastCtl = s.t3 ∧
        (fieldAt f 2 2 / 4096 % 2 = 1 → (s2.port p).link.resend = kept ∧
          s2.counter (ctrLink p cNakRx) = s1.counter (ctrLink p cNakRx) + 1) ∧
        (fieldAt f 2 2 / 4096 % 2 = 0 → s2.ctr = s1.ctr ∧ (s2.port p).link.resend = L.resend.filter fun x => kept.any fun y => y.1 == x.1) ∧
        (∀ c < 16, SMap.get zeroBits (s2.port p).link.grantRx c = newGrant (SMap.get zeroBits L.grantRx c) (BitVec.ofNat 16 (fieldAt f (12 + 2 * c) 2))))) ∧
  (∀ (s : State) (p : Nat) (L : Link), p < 36 → s.live = true → L = (s.port p).link →
    (L.state = .active ∨ L.flitLoop = true → L.awaiting = true → s.after L.replayAt (usec 4) = true →
      exec (.replayTimerExpiry p) s = .next (s.modLink p fun L =>
        { L with nakPend := true, awaiting := true, replayAt := s.t3, naks := L.naks + 1 })) ∧
    (L.pausedAt.isSome = true → L.pauseEnd ≤ s.t3 → exec (.pauseExpiry p) s = .next (s.modLink p fun L => { L with pausedAt := none })))

/-- 09 R254, R255, R271, R275, R277: a sparing window ends a second after the last, counts the invalid sync headers of each lane and, on an ACTIVE port
that may spare, asks to drop the lanes at their limit; a checked lane aligns, or loses alignment; a calibration cycle that overruns is counted and
its readings become the gauges (log 98); a laser feed that is low holds its two ports, a LOOP port too but no ISOLATED one, and one that recovers
frees them unless something else holds them. 13 R344, R346, R352, R354: an ACTIVE link whose engine starts no slot for link_limit_us is reset; a
reset done within 8 µs resumes with a NAK and completes the commands that asked for it; one that is not takes down the ports of its group, which
retrain, or after 1 ms the device is WEDGED. -/
def Obligations.LanesLasersAndLinkEnginesAreWatched : Prop :=
  (∀ s : State, s.live = true →
     (∀ p errs, p < 36 → (s.port p).link.winEnd ≤ s.now → ∃ s', exec (.sparingWindowEnd p errs) s = .next s' ∧
       s' = { s with ports := s'.ports, ctr := s'.ctr } ∧ (s'.port p).link.winEnd = (s.port p).link.winEnd + 1000000000 ∧
       (∀ i < 8, s'.counter (ctrLink p (cSync + i)) = s.counter (ctrLink p (cSync + i)) + BitVec.ofNat 64 (errs.getD i 0)) ∧
       (∀ i < 8, (s'.port p).link.dropReq.getLsbD i = ((s.port p).link.dropReq.getLsbD i || ((s.port p).spare && s.fwLink &&
         decide ((s.port p).link.state = .active) && decide (6 < laneCount (s.port p).link.rxMap) && (s.port p).link.rxMap.getLsbD i &&
         decide ((s.port p).errLimit ≤ SMap.get zeroAt (s.port p).link.winErr i + errs.getD i 0)))) ∧ (s'.port p).link.winErr = []) ∧
     (∀ p lane, p < 36 → lane < 8 → (s.port p).link.checks = true → (s.port p).link.laneBad.getLsbD lane = false →
       exec (.loopLaneAligned p lane) s = .next (s.modLink p fun L => { L with aligned := L.aligned ||| laneBit lane, lost := L.lost &&& ~~~ laneBit lane })) ∧
     (∀ p lane, p < 36 → lane < 8 → (s.port p).link.checks = true → (s.port p).link.aligned.getLsbD lane = true →
       exec (.loopLaneAlignmentLost p lane) s = .next (s.modLink p fun L => { L with aligned := L.aligned &&& ~~~ laneBit lane, lost := L.lost ||| laneBit lane })) ∧
     (∀ o late power, o < 9 → ∃ s', exec (.oeCalibrationCycle o late power) s = .next s' ∧ s' = { s with ctr := s'.ctr, oes := s'.oes } ∧
       s'.ctr = (if late then (s.count (ctrKey 6 o 0) 1).ctr else s.ctr) ∧ (s'.oe o).feedLow = (s.oe o).feedLow ∧ (∀ q, q ≠ o → s'.oe q = s.oe q) ∧
       (∀ i, SMap.get (fun _ => (0 : Int)) (s'.oe o).power i =
         if i < 8 ∧ i < power.length then power.getD i 0 else SMap.get (fun _ => (0 : Int)) (s.oe o).power i)) ∧
     (∀ o f, o < 9 → f < 2 → (s.oe o).feedLow.getLsbD f = false → ∃ s', exec (.laserFeedLow o f) s = .next s' ∧ (s'.oe o).feedLow.getLsbD f = true ∧
       ∀ p ∈ feedPorts o f, (s'.port p).link.heldLaser = true ∧
         ((s.port p).link.state = .isolated → (s'.port p).link.state = .isolated) ∧
         ((s.port p).link.state ≠ .isolated → (s.port p).link.heldLaser = false → (s'.port p).link.state = .held ∧ (s'.port p).link.reason = 7)) ∧
     (∀ o f, o < 9 → f < 2 → (s.oe o).feedLow.getLsbD f = true → ∃ s', exec (.laserFeedRecovered o f) s = .next s' ∧ (s'.oe o).feedLow.getLsbD f = false ∧
       ∀ p ∈ feedPorts o f, (s'.port p).link.heldLaser = false ∧ ((s.port p).link.state = .held → (s.port p).enable = true →
         (s.port p).link.heldEq = false → (s.port p).link.heldPower = false → (s'.port p).link.state = .down))) ∧
  (∀ s : State, s.live = true →
     (∀ p L, p < 36 → L = (s.port p).link → L.state = .active → L.resetAt = none → s.after L.slotAt (usec s.linkLimit) = true → ∃ r : ARec,
       exec (.linkWatchdogFire p) s = .next ((s.almQueue r).resetLink p faultWatchdog) ∧ r.type = 1 ∧ r.fault = faultWatchdog ∧ r.unit = p ∧ r.engine = 8) ∧
     (∀ p L t, p < 36 → L = (s.port p).link → L.resetAt = some t → s.after t (usec 8) = false → exec (.linkEngineResetDone p) s =
       .next (((s.almQueue (linkResetRec p L (s.nsSince t) false)).modLink p fun L =>
         { L with resetAt := none, cmds := [], nakPend := true, awaiting := true, replayAt := s.t3, naks := L.naks + 1, slotAt := s.t3 }).finishAll L.cmds
           stOk [s.nextSeq, noneField])) ∧
     (∀ p t, p < 36 → (s.port p).link.resetAt = some t → s.after t (usec 8) = true → ∃ s', exec (.linkEngineResetOverrun p) s = .next s' ∧
       SMap.get noneAt s'.fab.groupReset (p / 4) = some s.t3 ∧ (∀ q, q / 4 = p / 4 → (s'.port q).link.resetAt = none) ∧
       (∀ q, q / 4 = p / 4 → (s.port q).link.state = .active → (s'.port q).link.state = .down ∧ (s'.port q).link.reason = 2) ∧
       (∀ q, q / 4 ≠ p / 4 → s'.port q = s.port q)) ∧
     (∀ g t, g < 9 → SMap.get noneAt s.fab.groupReset g = some t → s.after t (msec 1) = false → exec (.portGroupResetDone g) s =
       .next ((((s.almQueue (s.groupResetRec g (s.nsSince t))).modFab fun b =>
         { b with groupReset := SMap.set noneAt g none b.groupReset }).clearGroupCmds g).finishAll (s.groupCmds g) stOk [s.nextSeq, noneField])) ∧
     (∀ g t, g < 9 → SMap.get noneAt s.fab.groupReset g = some t → s.after t (msec 1) = true → ∃ s', exec (.portGroupResetOverrun g) s = .next s' ∧
       s'.dev.state = .wedged ∧ SMap.get noneAt s'.fab.groupReset g = none))

/-! ### Resets, firmware and isolation -/

/-- 13 R344 to R348, R350 to R354: a watched engine without progress for tiller_limit_us, time in which CORE_CLK stands left out, is faulted and reset;
its sample is written and the reset starts; done in time, a lane's or a service Tiller's reset goes on as a Tiller reset; one that overruns its 100
µs becomes a Tiller reset, and one that overruns its 1 ms makes the device WEDGED; a Tiller whose copy is bad stays stopped; at the first cycle of a
mesh frame the Tiller starts again and the commands complete, with WEDGED where the device is. -/
def Obligations.TillersAreResetAndRestarted : Prop :=
  ∀ (s : State) (t : Nat), t < 192 → s.live = true →
    (s.dev.wdogCfg.getLsbD 24 = true → s.watched t 0 = true →
      s.after ((s.tl t).lastProgress 0 + (s.tl t).skipped 0) (usec (s.dev.wdogCfg.toNat % 65536)) = true →
      exec (.tillerWatchdogFire t 0) s = .next (s.faultReset t faultWatchdog 0 (s.watchdogDetail t 0 0))) ∧
    (∀ e, 0 < e → e < 6 → s.dev.wdogCfg.getLsbD 24 = true → s.watched t e = true →
      s.after ((s.tl t).lastProgress e + (s.tl t).skipped e) (usec (s.dev.wdogCfg.toNat % 65536)) = true → ∃ n,
      exec (.tillerWatchdogFire t e) s = .next (s.faultReset t faultWatchdog e (s.watchdogDetail t e n)).drawn) ∧
    (∀ e cause d, ((s.faultReset t cause e d).tl t).reset.isSome = true) ∧
    (∀ r, (s.tl t).reset = some r → r.sample = true → ∃ (a : ARec) (s' : State), exec (.sampleComplete t) s = .next s' ∧
      s' = (((s.almHw a).modT t fun T => { T with reset := (s'.tl t).reset }).drawn) ∧ a.type = 2 ∧ a.fault = r.cause ∧ a.unit = t ∧
      a.payload.length = 18432 ∧ (s'.tl t).reset = some { r with sample := false, sampleSeq := some s.nextSeq, start := some s.t3 }) ∧
    (∀ r t0, (s.tl t).reset = some r → r.start = some t0 → r.engines ≠ [] → r.engines.contains 7 = false → s.after t0 (usec 100) = true →
      ∃ s' r', exec (.engineResetOverrun t) s = .next s' ∧ (s'.tl t).reset = some r' ∧ r'.engines = [7] ∧ r'.escalated = true ∧ r'.start = some s.t3) ∧
    (∀ r t0, (s.tl t).reset = some r → r.start = some t0 → r.engines ≠ [] → r.engines.contains 7 = false → s.after t0 (usec 100) = false →
      s.serves t = true → s.tearing t = false → ∃ s' r', exec (.engineResetDone t) s = .next s' ∧ (s'.tl t).reset = some r' ∧ r'.engines = [7] ∧
        r'.restart = true ∧ r'.start = some s.t3) ∧
    (∀ r t0, (s.tl t).reset = some r → r.start = some t0 → r.engines.contains 7 = true → s.after t0 (msec 1) = true →
      exec (.tillerResetOverrun t) s = .next ((((s.almQueue (s.resetRec t r 4 7 noneField false)).modT t fun T => { T with reset := none }).wedge s.nextSeq
        r.cause).finishAll r.cmds stWedged [])) ∧ (∀ n m, (s.wedge n m).dev.state = .wedged) ∧
    (∀ r t0, (s.tl t).reset = some r → r.start = some t0 → r.engines.contains 7 = true → s.after t0 (msec 1) = false → r.restart = true →
      s.serves t = false → s.tearing t = false → ∃ s' r', exec (.tillerResetDone t false) s = .next s' ∧ (s'.tl t).reset = some r' ∧ r'.engines = [] ∧
        r'.restart = true ∧ (s'.tl t).regs = [] ∧ (s'.tl t).checker = [] ∧ (s'.tl t).rstack = []) ∧
    (∀ r t0, (s.tl t).reset = some r → r.start = some t0 → r.engines.contains 7 = true → s.after t0 (msec 1) = false →
      ∃ s', exec (.tillerResetDone t true) s = .next s' ∧ (s'.tl t).reset = none ∧ ((s.tl t).ctx ≠ none → (s'.tl t).run = .faulted)) ∧
    (∀ r, (s.tl t).reset = some r → r.engines = [] → r.restart = true → s.clk.core % 256 = 0 →
      (s.dev.state ≠ .wedged →
        exec (.tillerRestart t) s = .next (((s.startTiller t).modT t fun T => { T with reset := none }).finishAll r.cmds stOk r.words)) ∧
      (s.dev.state = .wedged →
        exec (.tillerRestart t) s = .next ((s.modT t fun T => { T with reset := none }).finishAll r.cmds stWedged [])))

/-- 13 R353, R358, R359: DEV_WARM_RESET is accepted with the ring positions latched, ends every command not taken up with RETRY and every post with
CONTEXT_GONE, and is refused with RETRY while an activation or another reset is in progress; at t0 the device is BOOTING, the contexts and Tillers
are gone and every processor restarts; forwarding resumes with a notice; with all five processors running the device is READY, or ISOLATED, and its
record is written. A WEDGED device ends it with WEDGED. That the work of t0 to t0 + 50 µs happens at t0 is the model's choice (log 60). -/
def Obligations.WarmResetRuns : Prop :=
  (∀ (s : State) (c : Nat) (k : Cmd), s.carries 0x0104 c k →
    (∀ s1 s2, s.fw.act = none → s.dev.warm = none →
      s1 = (((s.take c).modDev fun d => { d with warm := some { cmd := c, accepted := s.t3 } }).modHost fun h =>
        { h with latched := (s.take c).latchFor k }) →
      s2 = (s1.host.cmds.filter fun x => !x.taken).foldl (fun s x => s.finish x.id stRetry) s1 →
      exec (.devWarmReset c) s = .next ((s2.host.posts.foldl (fun s p => s.finish p.cmd stContextGone) s2).modHost fun h => { h with posts := [] })) ∧
    (s.fw.act.isSome = true ∨ s.dev.warm.isSome = true → exec (.devWarmReset c) s = .next ((s.take c).finish c stRetry))) ∧
  (∀ (s : State) (w : Warm), s.live = true → s.dev.warm = some w →
    (w.t0 = none → s.recordsOut w = true → s.dev.state ≠ .wedged → ∃ s', exec .warmResetT0 s = .next s' ∧ s'.pwr.warmW = 0 ∧ s'.fab.drainPause = true ∧
      s'.ctxs = [] ∧ s'.tillers = [] ∧ s'.shadow = none ∧ s'.pfx.on = false ∧ (s'.dev.fwpUp = 0#5 ∨ s'.dev.state = .wedged) ∧
      s'.dev.warm = some { w with t0 := some s.t3 } ∧ s'.isolation = s.isolation ∧ s'.fab.routes = s.fab.routes ∧ s'.mem = s.mem) ∧
    (w.t0 = none → s.recordsOut w = true → s.dev.state = .wedged → exec .warmResetT0 s =
      .next ((((s.modHost fun h => { h with dones := [] }).modDev fun d => { d with warm := none }).modHost fun h => { h with latched := none }).finish
        w.cmd stWedged)) ∧
    (∀ t0, w.t0 = some t0 → w.resumed = false → exec .warmResetForwardingResume s = .next ((((s.modDev fun d =>
      { d with warm := some { w with resumed := true } }).modFab fun b => { b with drainPause := false }).pauseAll 0).faultNotice 2 0 none)) ∧
    (∀ t0, w.t0 = some t0 → w.resumed = true →
      (s.dev.state ≠ .wedged → s.dev.fwpUp = 0x1F#5 → exec .warmResetDone s =
        .next (((((s.modDev fun d => { d with warm := none, state := if s.fw.isoDev then .isolated else .ready }).releaseBuffers).almQueue
          { type := 6, level := 2, detail := resetDetail 0 0xFF false false (s.nsSince t0) noneField })).finish w.cmd stOk)) ∧
      (s.dev.state = .wedged → exec .warmResetDone s = .next ((s.modDev fun d => { d with warm := none }).finish w.cmd stWedged))))

/-- 11 R309 to R321; 13 R365: an object is written into the slot that its store's next write takes, and staged if it passes every check; activation
commits it, of an image by booting from it; boot verifies the image, loads its sections and starts the processors; with all up the device is READY
or ISOLATED, and the activation completes with its fuses burnt, or with AUTH_FAIL after a fallback. FW_VER is valid from DEVICE_READY on where an
activation led to the boot (R320). A processor whose watchdog expires, that traps, or whose memory fails goes down, restarts and is loaded again,
the device WEDGED where a section fails its check. The conditions that restart a processor are told by rows (log 58). -/
def Obligations.FirmwareBootsStagesAndRestarts : Prop :=
  (∀ (s s0 : State) (c store : Nat) (k : Cmd) (obj : List Byte), s.carries 0x0802 c k → s0 = s.take c → store = fieldAt k.params 12 1 →
    (1 ≤ store → store ≤ 3 → k.viaPort = false → fieldAt k.params 13 3 = 0 → obj.length = fieldAt k.params 8 4 →
      s.dev.state ≠ .noFirmware ∨ store = 1 →
      ∀ s1 g, s1 = (if fitsStore store obj then s0.setFlash store (s0.targetSlot store) (FlashSlot.written store (s0.nextGen store) obj) else s0) →
      g = (if s0.objectStatus store obj = stOk then some (s0.targetSlot store) else none) → exec (.fwStage c obj) s =
        .next ((s1.modFw fun w => { w with staged := SMap.set noneAt store g w.staged }).finish c (s0.objectStatus store obj))) ∧
    (store = 0 ∨ 3 < store ∨ k.viaPort = true ∨ fieldAt k.params 13 3 ≠ 0 ∨ obj.length ≠ fieldAt k.params 8 4 →
      exec (.fwStage c obj) s = .next (s0.finish c stBadParam))) ∧
  (∀ (s s0 : State) (c store i : Nat) (k : Cmd), s.carries 0x0803 c k → s0 = s.take c → store = fieldAt k.params 0 1 → 1 ≤ store → store ≤ 3 →
    fieldAt k.params 1 1 ≤ 1 → fieldAt k.params 1 1 = 0 ∨ store = 1 → fieldAt k.params 2 2 = 0 → s.dev.state ≠ .noFirmware ∨ store = 1 →
    (SMap.get noneAt s.fw.staged store = none → exec (.fwActivate c) s = .next (s0.finish c stBadParam)) ∧
    (SMap.get noneAt s.fw.staged store = some i →
      (s.dev.emergency = true → exec (.fwActivate c) s = .next (s0.finish c stEmergency)) ∧
      (s.dev.emergency = false → (s0.flashSlot store i).good store = true → ∀ s1,
        s1 = (s0.setFlash store i (s0.flashSlot store i).committed).modFw (fun w => { w with staged := SMap.set noneAt store none w.staged }) →
        (store ≠ 1 → exec (.fwActivate c) s = .next (s1.finish c stOk)) ∧
        (store = 1 → exec (.fwActivate c) s = .next (s1.rebootAt2.modFw fun w => { w with act := some (c, fieldAt k.params 1 1 == 1) }))))) ∧
  (∀ s : State, s.live = true → s.dev.state = .booting → s.dev.warm = none →
    (s.fw.verified = false → s.bootSlot = none →
      (s.fw.act = none → exec .bootImageVerified s = .next (s.modDev fun d => { d with state := .noFirmware })) ∧
      (∀ a, s.fw.act = some a → exec .bootImageVerified s =
        .next (((s.modDev fun d => { d with state := .noFirmware }).modFw fun w => { w with act := none }).finish a.1 stAuthFail))) ∧
    (∀ i kind b, s.fw.verified = false → s.bootSlot = some (i, kind) → b = (s.flashSlot 1 i).content → ∃ s', exec .bootImageVerified s = .next s' ∧
      s'.dev.fwDigest = sha256 b ∧ s'.dev.fwVer = BitVec.ofNat 32 (fieldAt b 6 3) ||| (if s.fw.act = none then 0x80000000#32 else 0#32) ∧
      s'.dev.translator = slice b 10 3 ∧ s'.fw.verified = true ∧ s'.fw.bootKind = kind ∧ s'.dev.fwpUp = 0x1F#5 ∧
      ∀ q < 5, (s'.proc q).code = ((s.proc q).loaded b q).code ∧ (s'.proc q).data = ((s.proc q).loaded b q).data ∧
        (s'.proc q).sums = sectionSums b q) ∧
    (∀ s1, s.fw.verified = true → s.dev.fwpUp = 0x1F#5 → s1 = ((s.modDev fun d => { d with
        state := if s.fw.isoDev then .isolated else .ready, fwVer := d.fwVer ||| 0x80000000#32 }).modFw fun w => { w with bootStep := 7, act := none }) →
      (s.fw.act = none → exec .deviceReady s = .next s1) ∧
      (∀ c burn, s.fw.act = some (c, burn) → s.fw.bootKind = 1 → exec .deviceReady s = .next (s1.finish c stAuthFail)) ∧
      (∀ c burn, s.fw.act = some (c, burn) → s.fw.bootKind ≠ 1 → exec .deviceReady s = .next (({ s1 with
        part := { s1.part with svMin := if burn then max s.part.svMin s.fw.svRun else s.part.svMin } } : State).finish c stOk)))) ∧
  (∀ (s : State) (q : Nat), q < 5 → s.live = true →
    (s.fwpRuns q = true → exec (.fwpWatchdogExpiry q) s = .next (s.fwpRestart q 1) ∧ exec (.fwpTrap q) s = .next (s.fwpRestart q 3) ∧
      ∀ w < 49152, exec (.fwpMemoryUe q w) s = .next ((((s.almQueue { type := 1, fault := 4, unit := q, detail := memDetail 10 0xFF noneField s.freeNat
        }).drawn).modProc q fun p => { p with ue := if p.ue.contains w then p.ue else p.ue ++ [w] }).fwpRestart q 2)) ∧
    ((s.proc q).restarting = true → q = 0 ∨ s.fwpUp fwpSec = true →
      (sectionSums (s.stored 1) q = (s.proc q).sums → ∃ (s1 : State) (r : ARec),
        s1 = ((s.modProc q fun p => { p.loaded (s.stored 1) q with restarting := false }).fwpStart q) ∧
        exec (.fwpRestartDone q) s = .next ((s1.almQueue r).devEvent 6 stOk [q]) ∧ s1.fwpUp q = true ∧ (s1.proc q).restarting = false ∧
        r.type = 9 ∧ r.unit = q) ∧
      (sectionSums (s.stored 1) q ≠ (s.proc q).sums → exec (.fwpRestartDone q) s =
        .next ((s.modProc q fun p => { p with restarting := false }).wedge noneField 0))))

/-- 11 R322 to R325: ATTEST signs with the lowest-numbered key not yet used, which is used up, reserves further ones in its store, returns the report,
the signature and the certificate, and reports how many keys are left; a request whose answer cannot be given back uses none. With none left it is
refused, and it answers RETRY while the next tree is being built, which happens in the background. 11 R326 to R329: a quorum command that passes its
checks writes the isolation store; one from a ring acts at once, one from the fabric manager after its reply has left or 100 µs have passed; one
that fails its checks changes nothing and reports why. The signature is that of RFC 8554 under a private key whose values are free (log 10). -/
def Obligations.AttestationAndQuorumCommands : Prop :=
  ((∀ (s s1 : State) (c i : Nat) (k : Cmd) (rep data : List Byte), s.carries 0x0804 c k → i = s.fw.hssIdx →
     (i < hssTotal → i % hssTree ≠ 0 ∨ i = 0 ∨ s.fw.treeReady = true → rep = (s.take c).report (slice k.params 12 32) i →
       data = rep ++ hssSign (padTo 32 s.part.secret) i rep ++ s.part.certificate → k.takes data.length →
       s1 = s.modFw (fun w => { w with
         hssIdx := i + 1, flash := if w.nextResv ≤ i then writeStore w.flash 5 (toLE 8 (w.nextResv + 16384)) else w.flash,
         treeReady := if i % hssTree = 0 then false else w.treeReady }) →
       exec (.attest c) s = .next (s1.reported k [(hssTotal - (i + 1)) % 2 ^ 32, (hssTotal - (i + 1)) / 2 ^ 32] data)) ∧
     (i < hssTotal → i % hssTree ≠ 0 ∨ i = 0 ∨ s.fw.treeReady = true → rep = (s.take c).report (slice k.params 12 32) i →
       data = rep ++ hssSign (padTo 32 s.part.secret) i rep ++ s.part.certificate → ¬ k.takes data.length →
       exec (.attest c) s = .next ((s.take c).finishData k [] data)) ∧
     (i < hssTotal → i % hssTree = 0 → i ≠ 0 → s.fw.treeReady = false → exec (.attest c) s = .next ((s.take c).finish c stRetry)) ∧
     (hssTotal ≤ i → exec (.attest c) s = .next ((s.take c).finish c stNoFit))) ∧
   (∀ s : State, s.live = true → s.fwpUp fwpSec = true → hssTree / 2 ≤ s.fw.hssIdx % hssTree ∨ s.fw.hssIdx % hssTree = 0 ∧ s.fw.hssIdx ≠ 0 →
     exec .hssTreeBuilt s = .next (s.modFw fun w => { w with treeReady := true }))) ∧
  ((∀ row ∈ ([(.devIsolate, 0x0105, false), (.devRestore, 0x0105, true), (.portIsolate, 0x0404, false), (.portRestore, 0x0404, true)] :
       List ((Nat → Instr) × Nat × Bool)),
     ∀ (s : State) (c : Nat) (k : Cmd), s.carries row.2.1 c k → (fieldAt k.params 2 1 == 1) = row.2.2 →
       ((s.take c).quorumCheck row.2.1 k.params = stOk → k.viaPort = false → exec (row.1 c) s =
         .next ((((s.take c).applyPending.modFw fun w => w.isolate row.2.1 k.params).applyIsolation (decide (row.2.1 = 0x0105))).finish c stOk)) ∧
       ((s.take c).quorumCheck row.2.1 k.params ≠ stOk → exec (row.1 c) s = .next ((s.take c).finish c ((s.take c).quorumCheck row.2.1 k.params))) ∧
       (∀ hdr seq, (s.take c).quorumCheck row.2.1 k.params = stOk → k.src = .mgmt hdr seq → exec (row.1 c) s =
         .next ((((s.take c).applyPending.modFw fun w => w.isolate row.2.1 k.params).modDev fun d => { d with isoPend := some {
           cmd := c, action := (if row.2.1 = 0x0404 then 1 else 3) + fieldAt k.params 2 1, port := fieldAt k.params 3 1, since := s.t3 } }).finish c stOk))) ∧
   (∀ (s : State) (i : IsoPend), s.live = true → s.dev.isoPend = some i → i.left = true ∨ s.after i.since (usec 100) = true →
     exec .isolationApply s = .next s.applyPending ∧ s.applyPending.dev.isoPend = none))

/-! ### The encoding of Shoze -/

/-- 03 R73, R74, R78: decoding an encoded instruction, whatever follows it, gives it and what follows: every field of word 0 and of its descriptors, at
every value. 03 R73, R74: no two byte strings of one length decode alike: what decodes re-encodes to itself. -/
def Obligations.ShozeRoundTrips : Prop :=
  (∀ (i : Shoze) (rest : List Byte), i.ds.length ≤ 4 → decodeShoze (encodeShoze i ++ rest) = some (i, rest)) ∧
  (∀ (b rest : List Byte) (i : Shoze), decodeShoze b = some (i, rest) → b = encodeShoze i ++ rest)

/-- 03 R73, R74, R78: words written out from the encoding: ADD s3, s1, s2; LI s5, −1; JMP −2; an unlisted operation of class 0 and class 8 are refused,
and so are five descriptors. -/
def Obligations.ShozeWordsDecode : Prop :=
  decodeShoze [0x01#8, 0x00#8, 0x41#8, 0x0C#8, 0#8, 0#8, 0#8, 0#8] = some ({ mn := .add, sa := 1#5, sb := 2#5, sd := 3#5 }, []) ∧
  decodeShoze [0x01#8, 0x01#8, 0x00#8, 0x14#8, 0#8, 0xFF#8, 0xFF#8, 0xFF#8] = some ({ mn := .li, sd := 5#5, imm := 0xFFFFFF#24 }, []) ∧
  decodeShoze [0x10#8, 0x00#8, 0x00#8, 0x00#8, 0#8, 0xFE#8, 0xFF#8, 0xFF#8] = some ({ mn := .jmp, imm := 0xFFFFFE#24 }, []) ∧
  decodeShoze [0xD0#8, 0x00#8, 0x00#8, 0x00#8, 0#8, 0#8, 0#8, 0#8] = none ∧
  decodeShoze [0x08#8, 0x00#8, 0x00#8, 0x00#8, 0#8, 0#8, 0#8, 0#8] = none ∧
  decodeShoze ([0x02#8, 0xA0#8, 0x00#8, 0x00#8, 0#8, 0#8, 0#8, 0#8] ++ List.replicate 80 0#8) = none

end
end

