-- ==== Sys2Proof/Laws/Bytes.lean ====
section
/-!
SUPPORT. Little-endian numbers and byte lists: lengths, ranges, and that a number read from its own bytes is the number.
-/

namespace Sys2Proof.Machine

theorem leNat_lt (l : List Byte) : leNat l < 256 ^ l.length := by
  induction l with
  | nil => simp [leNat]
  | cons b t ih => have := b.isLt; simp only [leNat, List.length_cons, Nat.pow_succ]; omega

@[simp] theorem toLE_length (n v : Nat) : (toLE n v).length = n := by
  induction n generalizing v with
  | zero => rfl
  | succ n ih => simp [toLE, ih]

/-- A number is read back from its low bytes, modulo their range. -/
@[simp] theorem leNat_toLE (n v : Nat) : leNat (toLE n v) = v % 256 ^ n := by
  induction n generalizing v with
  | zero => simp [toLE, leNat, Nat.mod_one]
  | succ n ih => simp only [toLE, leNat, ih]; rw [Nat.pow_succ', Nat.mod_mul, BitVec.toNat_ofNat]

/-- Bytes are the low bytes of the number they hold. -/
theorem toLE_leNat (l : List Byte) : toLE l.length (leNat l) = l := by
  induction l with
  | nil => rfl
  | cons b t ih =>
    have := b.isLt
    simp only [List.length_cons, toLE, leNat]
    rw [show (b.toNat + 256 * leNat t) / 256 = leNat t by omega, ih]
    congr 1
    apply BitVec.eq_of_toNat_eq
    simp [BitVec.isLt b]

/-- Byte i of a number's low bytes. -/
theorem toLE_getElem? (n v i : Nat) (h : i < n) : (toLE n v)[i]? = some (BitVec.ofNat 8 (v / 256 ^ i)) := by
  induction n generalizing v i with
  | zero => omega
  | succ n ih =>
    cases i with
    | zero => simp [toLE]
    | succ i => simp [toLE, ih _ i (by omega), Nat.div_div_eq_div_mul, Nat.pow_succ']

theorem fieldAt_lt (l : List Byte) (a n : Nat) : fieldAt l a n < 256 ^ n := by
  unfold fieldAt
  exact Nat.lt_of_lt_of_le (leNat_lt _) (Nat.pow_le_pow_right (by decide) (by rw [List.length_take]; exact Nat.min_le_left _ _))

@[simp] theorem padTo_length (n : Nat) (l : List Byte) : (padTo n l).length = n := by
  simp [padTo]; omega

theorem padTo_self (l : List Byte) : padTo l.length l = l := by simp [padTo]

@[simp] theorem slice_length (l : List Byte) (o n : Nat) : (slice l o n).length = n := by
  simp [slice] <;> omega

end Sys2Proof.Machine
end

