-- ==== Sys2Proof/Laws/Maps.lean ====
section
/-!
SUPPORT. Sparse maps and byte memories: what is read after a write, and that every writer keeps the canonical form.
-/

namespace Sys2Proof.Machine

theorem SMap.get_erase {α : Type} (d : Nat → α) (m : SMap α) (k j : Nat) :
    SMap.get d (SMap.erase m k) j = if j = k then d k else SMap.get d m j := by
  induction m with
  | nil => simp [SMap.erase, SMap.get]; intro h; rw [h]
  | cons p t ih =>
    simp only [SMap.erase, List.filter_cons] at ih ⊢
    by_cases h : p.1 = k
    · simp only [h, bne_self_eq_false, Bool.false_eq_true, if_false, ih, SMap.get]
      by_cases hj : j = k
      · simp [hj]
      · simp [hj, Ne.symm hj]
    · simp only [bne_iff_ne, ne_eq, h, not_false_eq_true, if_true, SMap.get, ih]
      by_cases hj : p.1 = j
      · subst hj; simp [h]
      · simp [hj]

theorem SMap.get_insert {α : Type} (d : Nat → α) (k : Nat) (v : α) (m : SMap α) (j : Nat) :
    SMap.get d (SMap.insert k v (SMap.erase m k)) j = if j = k then v else SMap.get d m j := by
  have key : ∀ l : SMap α, (∀ p ∈ l, p.1 ≠ k) → SMap.get d (SMap.insert k v l) j = if j = k then v else SMap.get d l j := by
    intro l
    induction l with
    | nil => intro _; by_cases h : k = j <;> simp [SMap.insert, SMap.get, h, eq_comm]
    | cons p t ih =>
      intro hl
      have hp : p.1 ≠ k := hl p (by simp)
      have ht := ih fun q hq => hl q (by simp [hq])
      simp only [SMap.insert]
      split
      · by_cases h : k = j
        · simp [SMap.get, h]
        · simp [SMap.get, h, Ne.symm h]
      · by_cases h : p.1 = j
        · subst h; simp [SMap.get, hp]
        · simp [SMap.get, h, ht]
  rw [key _ (by intro p hp; simp [SMap.erase] at hp; exact hp.2), SMap.get_erase]
  by_cases h : j = k <;> simp [h]

/-- A write is read back at its key and nowhere else, whatever the map. -/
@[simp] theorem SMap.get_set {α : Type} [DecidableEq α] (d : Nat → α) (m : SMap α) (k : Nat) (v : α) (j : Nat) :
    SMap.get d (SMap.set d k v m) j = if j = k then v else SMap.get d m j := by
  unfold SMap.set
  split
  · next h => rw [SMap.get_erase]; split <;> simp [h]
  · exact SMap.get_insert d k v m j

theorem SMap.get_set_self {α : Type} [DecidableEq α] (d : Nat → α) (m : SMap α) (k : Nat) (v : α) :
    SMap.get d (SMap.set d k v m) k = v := by simp

@[simp] theorem SMap.get_nil {α : Type} (d : Nat → α) (k : Nat) : SMap.get d [] k = d k := rfl

/-! ### The canonical form -/

theorem SMap.wf_cons {α : Type} [DecidableEq α] (d : Nat → α) (p : Nat × α) (t : SMap α) :
    SMap.wf d (p :: t) = true ↔ p.2 ≠ d p.1 ∧ (∀ q ∈ t, p.1 < q.1) ∧ SMap.wf d t = true := by
  simp [SMap.wf, and_assoc]

/-- What a canonical map keeps after entries are taken out of it. -/
theorem SMap.wf_filter {α : Type} [DecidableEq α] (d : Nat → α) (f : Nat × α → Bool) (m : SMap α) (h : SMap.wf d m = true) :
    SMap.wf d (m.filter f) = true := by
  induction m with
  | nil => simpa using h
  | cons p t ih =>
    obtain ⟨h1, h2, h3⟩ := (SMap.wf_cons d p t).1 h
    rw [List.filter_cons]
    split
    · exact (SMap.wf_cons d p _).2 ⟨h1, fun q hq => h2 q (List.mem_filter.1 hq).1, ih h3⟩
    · exact ih h3

theorem SMap.wf_insert {α : Type} [DecidableEq α] (d : Nat → α) (k : Nat) (v : α) (m : SMap α) (h : SMap.wf d m = true) (hv : v ≠ d k)
    (hk : ∀ p ∈ m, p.1 ≠ k) : SMap.wf d (SMap.insert k v m) = true ∧ ∀ q ∈ SMap.insert k v m, q.1 = k ∨ q ∈ m := by
  induction m with
  | nil => simp [SMap.insert, SMap.wf, hv]
  | cons p t ih =>
    obtain ⟨h1, h2, h3⟩ := (SMap.wf_cons d p t).1 h
    have ht := ih h3 fun q hq => hk q (by simp [hq])
    simp only [SMap.insert]
    split
    · next hlt =>
      refine ⟨(SMap.wf_cons d _ _).2 ⟨hv, ?_, h⟩, by simp; grind⟩
      intro q hq
      rcases List.mem_cons.1 hq with rfl | hq
      · exact hlt
      · exact Nat.lt_trans hlt (h2 q hq)
    · next hlt =>
      have hne := hk p (by simp)
      refine ⟨(SMap.wf_cons d _ _).2 ⟨h1, ?_, ht.1⟩, ?_⟩
      · intro q hq
        rcases ht.2 q hq with rfl | hq
        · omega
        · exact h2 q hq
      · intro q hq
        rcases List.mem_cons.1 hq with rfl | hq
        · simp
        · rcases ht.2 q hq with h | h <;> simp [h]

/-- A write keeps the canonical form. -/
theorem SMap.wf_set {α : Type} [DecidableEq α] (d : Nat → α) (k : Nat) (v : α) (m : SMap α) (h : SMap.wf d m = true) :
    SMap.wf d (SMap.set d k v m) = true := by
  unfold SMap.set SMap.erase
  split
  · exact SMap.wf_filter d _ m h
  · next hv => exact (SMap.wf_insert d k v _ (SMap.wf_filter d _ m h) hv (by intro p hp; simpa using (List.mem_filter.1 hp).2)).1

/-! ### Byte memories -/

@[simp] theorem Memory.byte_nil (a : Nat) : Memory.byte [] a = 0#8 := rfl

theorem Memory.byte_set (m : Memory) (a : Nat) (v : Byte) (b : Nat) :
    Memory.byte (SMap.set byte0 a v m) b = if b = a then v else m.byte b := SMap.get_set byte0 m a v b

/-- A byte after a write: the byte written there, or what it was. -/
theorem Memory.byte_write (m : Memory) (a : Nat) (l : List Byte) (b : Nat) :
    (m.write a l).byte b = if a ≤ b ∧ b < a + l.length then l.getD (b - a) 0#8 else m.byte b := by
  induction l generalizing m a with
  | nil => rw [Memory.write, if_neg (by simp)]
  | cons x t ih =>
    rw [Memory.write, ih, Memory.byte_set]
    simp only [List.length_cons]
    by_cases h1 : a + 1 ≤ b ∧ b < a + 1 + t.length
    · rw [if_pos h1, if_pos (by omega), show b - a = (b - (a + 1)) + 1 by omega]; simp
    · rw [if_neg h1]
      by_cases h2 : b = a
      · subst h2; rw [if_pos rfl, if_pos (by omega)]; simp
      · rw [if_neg h2, if_neg (by omega)]

/-- A read is the bytes in turn. -/
theorem Memory.read_eq (m : Memory) (a n : Nat) : m.read a n = (List.range n).map fun i => m.byte (a + i) := by
  induction n generalizing a with
  | zero => rfl
  | succ n ih =>
    rw [Memory.read, ih, List.range_succ_eq_map]
    simp [Function.comp_def, Nat.add_assoc, Nat.add_comm 1]

@[simp] theorem Memory.read_length (m : Memory) (a n : Nat) : (m.read a n).length = n := by simp [Memory.read_eq]

/-- What was written is read back. -/
theorem Memory.read_write (m : Memory) (a : Nat) (l : List Byte) : (m.write a l).read a l.length = l := by
  rw [Memory.read_eq]
  apply List.ext_getElem (by simp)
  intro i h1 h2
  simp only [List.getElem_map, List.getElem_range, Memory.byte_write]
  rw [if_pos (by omega)]
  simp at h1
  simp [h1]

/-- A read elsewhere is not changed by a write. -/
theorem Memory.read_write_other (m : Memory) (a b n : Nat) (l : List Byte) (h : b + n ≤ a ∨ a + l.length ≤ b) :
    (m.write a l).read b n = m.read b n := by
  rw [Memory.read_eq, Memory.read_eq]
  apply List.map_congr_left
  intro i hi
  have := List.mem_range.1 hi
  rw [Memory.byte_write, if_neg (by omega)]

theorem Memory.byte_clear (m : Memory) (a n b : Nat) : (m.clear a n).byte b = if a ≤ b ∧ b < a + n then 0#8 else m.byte b := by
  unfold Memory.clear Memory.byte
  induction m with
  | nil => simp [SMap.get, byte0]
  | cons p t ih =>
    simp only [List.filter_cons]
    by_cases hp : p.1 = b
    · subst hp
      by_cases hr : a ≤ p.1 ∧ p.1 < a + n
      · rw [if_neg (by simp; omega), ih, if_pos hr, if_pos hr]
      · rw [if_pos (by simp; omega), if_neg hr]; simp [SMap.get]
    · split
      · simp [SMap.get, hp, ih]
      · simp [SMap.get, hp, ih]

/-- Writing bytes keeps the canonical form. -/
theorem Memory.wf_write (m : Memory) (a : Nat) (l : List Byte) (h : SMap.wf byte0 m = true) : SMap.wf byte0 (m.write a l) = true := by
  induction l generalizing m a with
  | nil => exact h
  | cons x t ih => exact ih _ _ (SMap.wf_set byte0 a x m h)

/-- Clearing bytes keeps the canonical form. -/
theorem Memory.wf_clear (m : Memory) (a n : Nat) (h : SMap.wf byte0 m = true) : SMap.wf byte0 (m.clear a n) = true :=
  SMap.wf_filter byte0 _ m h

end Sys2Proof.Machine
end

