-- ==== Sys2Proof/Laws/Canonical.lean ====
section
/-!
SUPPORT. Every operation on a byte memory, and every update of a Tiller, keeps the canonical form.
-/

namespace Sys2Proof.Machine

theorem wf_foldl {α : Type} {g : Memory → α → Memory} {l : List α} {m : Memory} (h : SMap.wf byte0 m = true)
    (hg : ∀ m a, SMap.wf byte0 m = true → SMap.wf byte0 (g m a) = true) : SMap.wf byte0 (l.foldl g m) = true := by
  induction l generalizing m with
  | nil => exact h
  | cons a t ih => exact ih (hg _ _ h)

theorem wf_foldlPair {α β : Type} {g : Memory × β → α → Memory × β} {l : List α} {p : Memory × β} (h : SMap.wf byte0 p.1 = true)
    (hg : ∀ p a, SMap.wf byte0 p.1 = true → SMap.wf byte0 (g p a).1 = true) : SMap.wf byte0 (l.foldl g p).1 = true := by
  induction l generalizing p with
  | nil => exact h
  | cons a t ih => exact ih (hg _ _ h)

theorem wf_writeBits {m : Memory} (a n v : Nat) (h : SMap.wf byte0 m = true) : SMap.wf byte0 (writeBits m a n v) = true :=
  Memory.wf_write _ _ _ h

theorem wf_setElem {m : Memory} (d : Desc) (rows : List Nat) (i v : Nat) (h : SMap.wf byte0 m = true) : SMap.wf byte0 (d.setElem m rows i v) = true :=
  wf_writeBits _ _ _ h

theorem wf_putBytes {m : Memory} (d : Desc) (rows : List Nat) (bs : List Byte) (h : SMap.wf byte0 m = true) :
    SMap.wf byte0 (d.putBytes m rows bs) = true := wf_foldl h fun _ _ h => Memory.wf_write _ _ _ h

theorem wf_writeCells {m : Memory} (x : Entry) (int : Bool) (rows : Nat) (kept : Nat → Bool) (acc : Nat → Nat → Option Nat) (h : SMap.wf byte0 m = true) :
    SMap.wf byte0 (writeCells x m int rows kept acc) = true := wf_foldlPair (p := (m, x.gen)) h fun _ _ h => wf_setElem _ _ _ _ h

theorem wf_runMm {m : Memory} (x : Entry) (h : SMap.wf byte0 m = true) : SMap.wf byte0 (runMm x m) = true := by
  unfold runMm; dsimp only; exact wf_writeCells _ _ _ _ _ h

theorem wf_runSparse {m : Memory} (x : Entry) (c : Option BalCopy) (rows : Nat) (h : SMap.wf byte0 m = true) :
    SMap.wf byte0 (runSparse x c m rows) = true := by
  unfold runSparse
  dsimp only
  refine wf_foldl (wf_writeCells _ _ _ _ _ h) fun _ _ h => ?_
  split
  · exact h
  · exact wf_foldl h fun _ _ h => wf_foldl h fun _ _ h => Memory.wf_write _ _ _ h

theorem wf_runSums {m : Memory} (x : Entry) (c : BalCopy) (h : SMap.wf byte0 m = true) : SMap.wf byte0 (runSums x c m) = true :=
  wf_foldl h fun _ _ h => wf_foldl h fun _ _ h => wf_setElem _ _ _ _ h

theorem wf_writeSlots {m : Memory} (a d : Desc) (src : Memory) (h : SpHdr) (z : Bool) (p b k : Nat) (hm : SMap.wf byte0 m = true) :
    SMap.wf byte0 (writeSlots a d src h z m p b k) = true := wf_foldl hm fun _ _ h => wf_writeBits _ _ _ h

theorem wf_writeHeader {m : Memory} (aux : Nat) (h : SpHdr) (hm : SMap.wf byte0 m = true) : SMap.wf byte0 (writeHeader m aux h) = true :=
  Memory.wf_write _ _ _ (Memory.wf_write _ _ _ (Memory.wf_write _ _ _ hm))

theorem wf_runPrune {m : Memory} (i : Shoze) (h : SMap.wf byte0 m = true) : SMap.wf byte0 (runPrune i m) = true := by
  unfold runPrune
  dsimp only
  repeat' with_reducible first
    | exact h | apply Memory.wf_write | apply wf_writeHeader | apply wf_writeSlots | assumption | apply wf_foldl | split | intro _

theorem wf_runApply {m : Memory} (i : Shoze) (h : SMap.wf byte0 m = true) : SMap.wf byte0 (runApply i m) = true :=
  wf_foldl h fun _ _ h => wf_foldl h fun _ _ h => wf_foldl h fun _ _ h => wf_writeBits _ _ _ h

theorem wf_runTmask {m : Memory} (i : Shoze) (h : SMap.wf byte0 m = true) : SMap.wf byte0 (runTmask i m) = true :=
  wf_foldl (Memory.wf_write _ _ _ (wf_writeHeader _ _ h)) fun _ _ h => wf_foldl (Memory.wf_write _ _ _ h) fun _ _ h => wf_writeBits _ _ _ h

theorem wf_runShears {m : Memory} (i : Shoze) (h : SMap.wf byte0 m = true) : SMap.wf byte0 (runShears i m) = true := by
  unfold runShears
  split
  · exact wf_runTmask i h
  · split
    · exact wf_runApply i h
    · exact wf_runPrune i h

theorem wf_store {m : Memory} (d : Desc) (rows : List Nat) (rm : Nat) (c : Bool) (vals : List (Nat × Val × Nat)) (h : SMap.wf byte0 m = true) :
    SMap.wf byte0 (d.store m rows rm c vals) = true := by
  unfold Desc.store
  dsimp only
  repeat' with_reducible first
    | exact h | apply Memory.wf_write | apply wf_setElem | assumption | apply wf_foldl | split | intro _

theorem wf_runMap {m : Memory} (x : Entry) (h : SMap.wf byte0 m = true) : SMap.wf byte0 (runMap x m) = true := wf_store _ _ _ _ _ h

theorem wf_runCvt {m : Memory} (x : Entry) (h : SMap.wf byte0 m = true) : SMap.wf byte0 (runCvt x m) = true := wf_store _ _ _ _ _ h

theorem wf_runRed {m : Memory} (x : Entry) (h : SMap.wf byte0 m = true) : SMap.wf byte0 (runRed x m).1 = true := by
  unfold runRed
  dsimp only
  split
  · exact wf_foldlPair (p := (m, x.gen)) h fun _ _ h => wf_setElem _ _ _ _ h
  · exact h

theorem wf_pad (I : TImage) (b : Option (List Byte)) : SMap.wf byte0 (I.pad b) = true := by
  unfold TImage.pad
  dsimp only
  split
  · exact Memory.wf_write _ _ _ (wf_foldl rfl fun _ _ h => Memory.wf_write _ _ _ h)
  · exact wf_foldl rfl fun _ _ h => Memory.wf_write _ _ _ h

/-! ### Tillers -/

theorem Tiller.memWf_iff (T : Tiller) : T.memWf = true ↔ SMap.wf byte0 T.dmem = true ∧ SMap.wf byte0 T.sp = true := by simp [Tiller.memWf]

/-- A Tiller with the memories of another is as canonical. -/
theorem Tiller.memWf_congr {T T' : Tiller} (h : T.memWf = true) (hd : T'.dmem = T.dmem) (hs : T'.sp = T.sp) : T'.memWf = true := by
  rw [Tiller.memWf_iff] at *; rw [hd, hs]; exact h

theorem Tiller.memWf_foldl {α : Type} {g : Tiller → α → Tiller} {l : List α} {T : Tiller} (h : T.memWf = true)
    (hg : ∀ T a, T.memWf = true → (g T a).memWf = true) : (l.foldl g T).memWf = true := by
  induction l generalizing T with
  | nil => exact h
  | cons a t ih => exact ih (hg _ _ h)

theorem Tiller.setReg_memWf {T : Tiller} (r : Nat) (v : Word) (h : T.memWf = true) : (T.setReg r v).memWf = true := by
  unfold Tiller.setReg; split <;> exact h

theorem Tiller.modStream_memWf {T : Tiller} (e : Nat) (f : StreamSt → StreamSt) (h : T.memWf = true) : (T.modStream e f).memWf = true := h

theorem Tiller.goto_memWf {T : Tiller} (e core t3 pc n : Nat) (h : T.memWf = true) : (T.goto e core t3 pc n).memWf = true := h

theorem Tiller.foldSems_memWf {T : Tiller} (core : Nat) (h : T.memWf = true) : (T.foldSems core).memWf = true := h

theorem Tiller.takeSem_memWf {T : Tiller} (k core : Nat) (h : T.memWf = true) : (T.takeSem k core).memWf = true := h

theorem Tiller.startSums_memWf {T : Tiller} (e core : Nat) (x : Option Entry) (h : T.memWf = true) : (T.startSums e core x).memWf = true := by
  unfold Tiller.startSums; dsimp only; split
  all_goals exact h

theorem Tiller.retireWait_memWf {T : Tiller} (e k core t3 : Nat) (h : T.memWf = true) : (T.retireWait e k core t3).memWf = true := by
  unfold Tiller.retireWait; dsimp only; exact Tiller.startSums_memWf _ _ _ h

theorem Tiller.setCvu_memWf {T : Tiller} (f : Cvu → Cvu) (h : T.memWf = true) : (T.setCvu f).memWf = true := h

theorem Tiller.startAt_memWf {T : Tiller} (cyc t3 : Nat) (g : BitVec 32) (h : T.memWf = true) : (T.startAt cyc t3 g).memWf = true := h

theorem Tiller.tearStop_memWf {T : Tiller} (h : T.memWf = true) : T.tearStop.memWf = true := h

theorem Tiller.occupy_memWf {T : Tiller} (core : Nat) (i : Shoze) (h : T.memWf = true) : (T.occupy core i).memWf = true := by
  unfold Tiller.occupy; dsimp only; split <;> exact h

theorem Tiller.haltStream_memWf {T : Tiller} (e : Nat) (b : Bool) (h : T.memWf = true) : (T.haltStream e b).memWf = true := by
  unfold Tiller.haltStream; dsimp only; repeat' split
  all_goals exact h

theorem Tiller.clearEngine_memWf {T : Tiller} (e core : Nat) (h : T.memWf = true) : (T.clearEngine e core).memWf = true := by
  unfold Tiller.clearEngine; dsimp only; split <;> exact h

theorem Tiller.skipThird_memWf {T : Tiller} (h : T.memWf = true) : T.skipThird.memWf = true := by
  unfold Tiller.skipThird; split <;> exact h

theorem Tiller.land_memWf {T : Tiller} (x : Entry) (vals : List Word) (h : T.memWf = true) : (T.land x vals).memWf = true :=
  Tiller.memWf_foldl h fun T a h => by split; exact Tiller.setReg_memWf _ _ h; exact h

theorem Tiller.withSp_memWf {T : Tiller} {m : Memory} (h : T.memWf = true) (hm : SMap.wf byte0 T.sp = true → SMap.wf byte0 m = true) :
    ({ T with sp := m } : Tiller).memWf = true := by
  rw [Tiller.memWf_iff] at *; exact ⟨h.1, hm h.2⟩

theorem Tiller.withDmem_memWf {T : Tiller} {m : Memory} (h : T.memWf = true) (hm : SMap.wf byte0 T.dmem = true → SMap.wf byte0 m = true) :
    ({ T with dmem := m } : Tiller).memWf = true := by
  rw [Tiller.memWf_iff] at *; exact ⟨hm h.1, h.2⟩

theorem Tiller.putWords_memWf {T : Tiller} (d : Desc) (rows : List Nat) (b : List Byte) (h : T.memWf = true) : (T.putWords d rows b).memWf = true := by
  rw [Tiller.memWf_iff] at *; exact ⟨h.1, wf_putBytes _ _ _ h.2⟩

theorem Tiller.putPacket_memWf {T : Tiller} (d : Desc) (rows : List Nat) (b : List Byte) (h : T.memWf = true) : (T.putPacket d rows b).memWf = true := by
  rw [Tiller.memWf_iff] at *; exact ⟨h.1, wf_foldl h.2 fun _ _ h => Memory.wf_write _ _ _ h⟩

theorem Tiller.healed_memWf {T : Tiller} (x : Entry) (h : T.memWf = true) : (T.healed x).memWf = true := by
  unfold Tiller.healed; split
  · exact h
  · exact Tiller.memWf_congr h rfl rfl

theorem Tiller.effect_memWf {T : Tiller} (x : Entry) (h : T.memWf = true) : (T.effect x).memWf = true := by
  unfold Tiller.effect
  dsimp only
  split
  · exact Tiller.withSp_memWf h (wf_runMm x)
  · refine Tiller.withSp_memWf h fun hm => ?_
    split
    · exact wf_runSums _ _ hm
    · exact hm
  · refine Tiller.withSp_memWf h fun hm => ?_
    split
    · exact wf_runSums _ _ hm
    · exact hm
  · exact Tiller.withSp_memWf h (wf_runMap x)
  · exact Tiller.withSp_memWf h (wf_runCvt x)
  · rw [Tiller.memWf_iff]
    exact ⟨((Tiller.memWf_iff _).1 (Tiller.land_memWf _ _ h)).1, wf_runRed x ((Tiller.memWf_iff _).1 h).2⟩
  · exact Tiller.withSp_memWf h (wf_runShears _)
  · exact Tiller.withSp_memWf h (wf_runShears _)
  · exact Tiller.putWords_memWf _ _ _ h
  · exact Tiller.land_memWf _ _ h
  · exact Tiller.withSp_memWf h (Memory.wf_write _ _ _)
  · exact Tiller.land_memWf _ _ h

theorem Tiller.result_memWf {T : Tiller} (x : Entry) (h : T.memWf = true) : (T.result x).memWf = true :=
  Tiller.healed_memWf x (Tiller.effect_memWf x h)

theorem TEntry.place_memWf (t : TEntry) (x level : Nat) (phases : List (Nat × Nat × Nat)) (l : List Byte) : (t.place x level phases l).memWf = true := by
  unfold TEntry.place; dsimp only
  rw [Tiller.memWf_iff]; dsimp only
  exact ⟨Memory.wf_write _ _ _ rfl, wf_pad _ _⟩

end Sys2Proof.Machine
end

