-- ==== Sys2Proof/Laws/Flash.lean ====
section
/-!
SUPPORT. The flash stores: a slot written and committed is valid, and a store reads back what was written to it; lengths of what ATTEST sends.
-/

namespace Sys2Proof.Machine

@[simp] theorem FlashSlot.written_content (store gen : Nat) (c : List Byte) : (FlashSlot.written store gen c).content = c := rfl
@[simp] theorem FlashSlot.committed_content (f : FlashSlot) : f.committed.content = f.content := rfl

/-- A slot written for a store checks. -/
theorem FlashSlot.written_good (store gen : Nat) (c : List Byte) (hs : store < 2 ^ 32) (h0 : 1 ≤ gen) (h1 : gen ≤ 0xFFFFFFFE)
    (hc : c.length < 2 ^ 32) : (FlashSlot.written store gen c).good store = true := by
  have e1 : fieldAt (slotHeader store gen c) 4 4 = leNat (toLE 4 store) := rfl
  have e2 : fieldAt (slotHeader store gen c) 8 4 = leNat (toLE 4 gen) := rfl
  have e3 : fieldAt (slotHeader store gen c) 12 4 = leNat (toLE 4 c.length) := rfl
  have e4 : fieldAt (slotHeader store gen c) 16 4 = leNat (toLE 4 (crc32c c).toNat) := rfl
  have e5 : slice (slotHeader store gen c) 20 40 = List.replicate 40 0#8 := rfl
  have e6 : (slotHeader store gen c).length = 64 := rfl
  have e7 : (slotHeader store gen c).take 4 = [0x4C#8, 0x4B#8, 0x53#8, 0x4C#8] := rfl
  have hb := (crc32c c).isLt
  unfold FlashSlot.good FlashSlot.gen FlashSlot.written
  simp only [e1, e2, e3, e4, e5, e6, e7, leNat_toLE]
  have m1 : store % 256 ^ 4 = store := Nat.mod_eq_of_lt (by omega)
  have m2 : gen % 256 ^ 4 = gen := Nat.mod_eq_of_lt (by omega)
  have m3 : c.length % 256 ^ 4 = c.length := Nat.mod_eq_of_lt (by omega)
  have m4 : (crc32c c).toNat % 256 ^ 4 = (crc32c c).toNat := Nat.mod_eq_of_lt (by omega)
  rw [m1, m2, m3, m4]
  simp [h0, h1]
  decide

/-- A slot written for a store and committed is valid for it. -/
theorem FlashSlot.written_valid (store gen : Nat) (c : List Byte) (hs : store < 2 ^ 32) (h0 : 1 ≤ gen) (h1 : gen ≤ 0xFFFFFFFE)
    (hc : c.length < 2 ^ 32) : (FlashSlot.written store gen c).committed.valid store = true := by
  have g : (FlashSlot.written store gen c).committed.good store = (FlashSlot.written store gen c).good store := rfl
  have e : fieldAt (FlashSlot.written store gen c).committed.header 60 4 = (FlashSlot.written store gen c).committed.gen := rfl
  rw [FlashSlot.valid, g, FlashSlot.written_good store gen c hs h0 h1 hc, e]
  simp

theorem FlashSlot.written_gen (store gen : Nat) (c : List Byte) (h : gen < 2 ^ 32) : (FlashSlot.written store gen c).committed.gen = gen := by
  have e : (FlashSlot.written store gen c).committed.gen = leNat (toLE 4 gen) := rfl
  rw [e, leNat_toLE, Nat.mod_eq_of_lt (by omega)]

/-- The other slot of a store stays as it was, and the slot put is the slot read. -/
theorem flashSlotOf_putSlot (m : SMap FlashSlot) (store i j : Nat) (f : FlashSlot) :
    flashSlotOf (putSlot m store i f) store j = if j = i then f else flashSlotOf m store j := by
  unfold flashSlotOf putSlot
  rw [SMap.get_set]
  by_cases h : j = i
  · simp [h]
  · rw [if_neg (by omega), if_neg h]

/-- A store reads back what was written to it last (11 R311). -/
theorem storeContent_writeStore (m : SMap FlashSlot) (store : Nat) (c : List Byte) (hs : store < 2 ^ 32) (hg : (writeTarget m store).2 ≤ 0xFFFFFFFE)
    (hc : c.length < 2 ^ 32) : storeContent (writeStore m store c) store = c := by
  have h0 : 1 ≤ (writeTarget m store).2 := by unfold writeTarget; split <;> simp
  have hv := FlashSlot.written_valid store _ c hs h0 hg hc
  have hn := FlashSlot.written_gen store (writeTarget m store).2 c (by omega)
  show storeContent (putSlot m store (writeTarget m store).1 (FlashSlot.written store (writeTarget m store).2 c).committed) store = c
  generalize hw : (FlashSlot.written store (writeTarget m store).2 c).committed = f at hv hn ⊢
  have hf : f.content = c := by rw [← hw]; rfl
  simp only [storeContent, slotInForce, writeTarget, flashSlotOf_putSlot] at hn ⊢
  by_cases ha : (flashSlotOf m store 0).valid store = true <;> by_cases hb : (flashSlotOf m store 1).valid store = true
  · by_cases hl : (flashSlotOf m store 0).gen < (flashSlotOf m store 1).gen
    · simp [ha, hb, hl] at hn ⊢
      rw [if_pos hv, if_neg (by omega)]
      simp [hf]
    · simp [ha, hb, hl] at hn ⊢
      rw [if_pos hv, if_pos (by omega)]
      simp [hf]
  · simp [ha, hb] at hn ⊢
    rw [if_pos hv, if_pos (by omega)]
    simp [hf]
  · simp [ha, hb] at hn ⊢
    rw [if_pos hv, if_neg (by omega)]
    simp [hf]
  · simp [ha, hb] at hn ⊢
    rw [if_pos hv]
    simp [hf]

/-- A store whose slot A alone is valid has it in force. -/
theorem slotInForce_of (m : SMap FlashSlot) (store : Nat) (ha : (flashSlotOf m store 0).valid store = true)
    (hb : (flashSlotOf m store 1).valid store = false) : slotInForce m store = some 0 := by simp [slotInForce, ha, hb]

/-- Such a store reads as that slot's content. -/
theorem storeContent_of (m : SMap FlashSlot) (store : Nat) (f : FlashSlot) (h : flashSlotOf m store 0 = f) (ha : f.valid store = true)
    (hb : (flashSlotOf m store 1).valid store = false) : storeContent m store = f.content := by
  subst h
  simp [storeContent, slotInForce_of m store ha hb]

/-- The boot ROM takes the slot in force when its image passes (11 R315). -/
theorem State.bootSlot_of (s : State) (i : Nat) (f : FlashSlot) (hi : s.inForce 1 = some i) (h : s.flashSlot 1 i = f) (hv : f.valid 1 = true)
    (hf : imageFormatOk f.content = true) (ha : s.imageAuthOk f.content = true) : s.bootSlot = some (i, 0) := by
  subst h
  simp [State.bootSlot, hi, hv, hf, ha]

/-- The boot ROM's key is the part's when the part gives one. -/
theorem Part.firmwareKey_of (p : Part) (h : p.romKey.length = 56) : p.firmwareKey = p.romKey := by
  rw [Part.firmwareKey, if_neg]
  intro e
  rw [List.isEmpty_iff.mp e] at h
  exact absurd h (by decide)

@[simp] theorem hssSign_length (secret : List Byte) (i : Nat) (msg : List Byte) : (hssSign secret i msg).length = 3284 := padTo_length _ _

/-- The device certificate is of 2,956 bytes (11 R322). -/
@[simp] theorem Part.certificate_length (p : Part) : p.certificate.length = 2956 := by
  have h : (hssPublic (padTo 32 p.secret)).length = 60 := padTo_length _ _
  simp [Part.certificate, Part.certBody, h]

end Sys2Proof.Machine
end

