-- ==== Sys2Proof/Laws/State.lean ====
section
/-!
SUPPORT. What each named update of the state does to each field of State, by rfl, and what the readers give after it, so that no proof
unfolds an update. Written by a script from the list of the updates.
-/

namespace Sys2Proof.Machine

variable (s : State)

/-! ### modT -/

@[simp] theorem State.modT_pending (t : Nat) (f : Tiller → Tiller) : (s.modT t f).pending = s.pending := rfl
@[simp] theorem State.modT_clk (t : Nat) (f : Tiller → Tiller) : (s.modT t f).clk = s.clk := rfl
@[simp] theorem State.modT_pwr (t : Nat) (f : Tiller → Tiller) : (s.modT t f).pwr = s.pwr := rfl
@[simp] theorem State.modT_part (t : Nat) (f : Tiller → Tiller) : (s.modT t f).part = s.part := rfl
@[simp] theorem State.modT_dev (t : Nat) (f : Tiller → Tiller) : (s.modT t f).dev = s.dev := rfl
@[simp] theorem State.modT_host (t : Nat) (f : Tiller → Tiller) : (s.modT t f).host = s.host := rfl
@[simp] theorem State.modT_ctxs (t : Nat) (f : Tiller → Tiller) : (s.modT t f).ctxs = s.ctxs := rfl
@[simp] theorem State.modT_epochs (t : Nat) (f : Tiller → Tiller) : (s.modT t f).epochs = s.epochs := rfl
@[simp] theorem State.modT_tillers (t : Nat) (f : Tiller → Tiller) : (s.modT t f).tillers = SMap.set tillerAt t (f (s.tl t)) s.tillers := rfl
@[simp] theorem State.modT_fab (t : Nat) (f : Tiller → Tiller) : (s.modT t f).fab = s.fab := rfl
@[simp] theorem State.modT_ports (t : Nat) (f : Tiller → Tiller) : (s.modT t f).ports = s.ports := rfl
@[simp] theorem State.modT_oes (t : Nat) (f : Tiller → Tiller) : (s.modT t f).oes = s.oes := rfl
@[simp] theorem State.modT_mem (t : Nat) (f : Tiller → Tiller) : (s.modT t f).mem = s.mem := rfl
@[simp] theorem State.modT_seed (t : Nat) (f : Tiller → Tiller) : (s.modT t f).seed = s.seed := rfl
@[simp] theorem State.modT_slots (t : Nat) (f : Tiller → Tiller) : (s.modT t f).slots = s.slots := rfl
@[simp] theorem State.modT_pfx (t : Nat) (f : Tiller → Tiller) : (s.modT t f).pfx = s.pfx := rfl
@[simp] theorem State.modT_fw (t : Nat) (f : Tiller → Tiller) : (s.modT t f).fw = s.fw := rfl
@[simp] theorem State.modT_alm (t : Nat) (f : Tiller → Tiller) : (s.modT t f).alm = s.alm := rfl
@[simp] theorem State.modT_shadow (t : Nat) (f : Tiller → Tiller) : (s.modT t f).shadow = s.shadow := rfl
@[simp] theorem State.modT_ctr (t : Nat) (f : Tiller → Tiller) : (s.modT t f).ctr = s.ctr := rfl
@[simp] theorem State.modT_freeCtr (t : Nat) (f : Tiller → Tiller) : (s.modT t f).freeCtr = s.freeCtr := rfl
@[simp] theorem State.modT_tl' (t : Nat) (f : Tiller → Tiller) (u : Nat) : (s.modT t f).tl u = if u = t then f (s.tl t) else s.tl u := SMap.get_set _ _ _ _ _
@[simp] theorem State.modT_ctx' (t : Nat) (f : Tiller → Tiller) (u : Nat) : (s.modT t f).ctx u = s.ctx u := rfl
@[simp] theorem State.modT_port' (t : Nat) (f : Tiller → Tiller) (u : Nat) : (s.modT t f).port u = s.port u := rfl
@[simp] theorem State.modT_slot' (t : Nat) (f : Tiller → Tiller) (u : Nat) : (s.modT t f).slot u = s.slot u := rfl
@[simp] theorem State.modT_ring' (t : Nat) (f : Tiller → Tiller) (u : Nat) : (s.modT t f).ring u = s.ring u := rfl
@[simp] theorem State.modT_slice' (t : Nat) (f : Tiller → Tiller) (u : Nat) : (s.modT t f).slice u = s.slice u := rfl
@[simp] theorem State.modT_sq' (t : Nat) (f : Tiller → Tiller) (u : Nat) : (s.modT t f).sq u = s.sq u := rfl
@[simp] theorem State.modT_oe' (t : Nat) (f : Tiller → Tiller) (u : Nat) : (s.modT t f).oe u = s.oe u := rfl
@[simp] theorem State.modT_cxl' (t : Nat) (f : Tiller → Tiller) (u : Nat) : (s.modT t f).cxl u = s.cxl u := rfl
@[simp] theorem State.modT_proc' (t : Nat) (f : Tiller → Tiller) (u : Nat) : (s.modT t f).proc u = s.proc u := rfl
@[simp] theorem State.modT_t3' (t : Nat) (f : Tiller → Tiller) : (s.modT t f).t3 = s.t3 := rfl
@[simp] theorem State.modT_now' (t : Nat) (f : Tiller → Tiller) : (s.modT t f).now = s.now := rfl
@[simp] theorem State.modT_live' (t : Nat) (f : Tiller → Tiller) : (s.modT t f).live = s.live := rfl

/-! ### modCtx -/

@[simp] theorem State.modCtx_pending (x : Nat) (f : Ctx → Ctx) : (s.modCtx x f).pending = s.pending := rfl
@[simp] theorem State.modCtx_clk (x : Nat) (f : Ctx → Ctx) : (s.modCtx x f).clk = s.clk := rfl
@[simp] theorem State.modCtx_pwr (x : Nat) (f : Ctx → Ctx) : (s.modCtx x f).pwr = s.pwr := rfl
@[simp] theorem State.modCtx_part (x : Nat) (f : Ctx → Ctx) : (s.modCtx x f).part = s.part := rfl
@[simp] theorem State.modCtx_dev (x : Nat) (f : Ctx → Ctx) : (s.modCtx x f).dev = s.dev := rfl
@[simp] theorem State.modCtx_host (x : Nat) (f : Ctx → Ctx) : (s.modCtx x f).host = s.host := rfl
@[simp] theorem State.modCtx_ctxs (x : Nat) (f : Ctx → Ctx) : (s.modCtx x f).ctxs = SMap.set ctxAt x (f (s.ctx x)) s.ctxs := rfl
@[simp] theorem State.modCtx_epochs (x : Nat) (f : Ctx → Ctx) : (s.modCtx x f).epochs = s.epochs := rfl
@[simp] theorem State.modCtx_tillers (x : Nat) (f : Ctx → Ctx) : (s.modCtx x f).tillers = s.tillers := rfl
@[simp] theorem State.modCtx_fab (x : Nat) (f : Ctx → Ctx) : (s.modCtx x f).fab = s.fab := rfl
@[simp] theorem State.modCtx_ports (x : Nat) (f : Ctx → Ctx) : (s.modCtx x f).ports = s.ports := rfl
@[simp] theorem State.modCtx_oes (x : Nat) (f : Ctx → Ctx) : (s.modCtx x f).oes = s.oes := rfl
@[simp] theorem State.modCtx_mem (x : Nat) (f : Ctx → Ctx) : (s.modCtx x f).mem = s.mem := rfl
@[simp] theorem State.modCtx_seed (x : Nat) (f : Ctx → Ctx) : (s.modCtx x f).seed = s.seed := rfl
@[simp] theorem State.modCtx_slots (x : Nat) (f : Ctx → Ctx) : (s.modCtx x f).slots = s.slots := rfl
@[simp] theorem State.modCtx_pfx (x : Nat) (f : Ctx → Ctx) : (s.modCtx x f).pfx = s.pfx := rfl
@[simp] theorem State.modCtx_fw (x : Nat) (f : Ctx → Ctx) : (s.modCtx x f).fw = s.fw := rfl
@[simp] theorem State.modCtx_alm (x : Nat) (f : Ctx → Ctx) : (s.modCtx x f).alm = s.alm := rfl
@[simp] theorem State.modCtx_shadow (x : Nat) (f : Ctx → Ctx) : (s.modCtx x f).shadow = s.shadow := rfl
@[simp] theorem State.modCtx_ctr (x : Nat) (f : Ctx → Ctx) : (s.modCtx x f).ctr = s.ctr := rfl
@[simp] theorem State.modCtx_freeCtr (x : Nat) (f : Ctx → Ctx) : (s.modCtx x f).freeCtr = s.freeCtr := rfl
@[simp] theorem State.modCtx_tl' (x : Nat) (f : Ctx → Ctx) (u : Nat) : (s.modCtx x f).tl u = s.tl u := rfl
@[simp] theorem State.modCtx_ctx' (x : Nat) (f : Ctx → Ctx) (u : Nat) : (s.modCtx x f).ctx u = if u = x then f (s.ctx x) else s.ctx u := SMap.get_set _ _ _ _ _
@[simp] theorem State.modCtx_port' (x : Nat) (f : Ctx → Ctx) (u : Nat) : (s.modCtx x f).port u = s.port u := rfl
@[simp] theorem State.modCtx_slot' (x : Nat) (f : Ctx → Ctx) (u : Nat) : (s.modCtx x f).slot u = s.slot u := rfl
@[simp] theorem State.modCtx_ring' (x : Nat) (f : Ctx → Ctx) (u : Nat) : (s.modCtx x f).ring u = s.ring u := rfl
@[simp] theorem State.modCtx_slice' (x : Nat) (f : Ctx → Ctx) (u : Nat) : (s.modCtx x f).slice u = s.slice u := rfl
@[simp] theorem State.modCtx_sq' (x : Nat) (f : Ctx → Ctx) (u : Nat) : (s.modCtx x f).sq u = s.sq u := rfl
@[simp] theorem State.modCtx_oe' (x : Nat) (f : Ctx → Ctx) (u : Nat) : (s.modCtx x f).oe u = s.oe u := rfl
@[simp] theorem State.modCtx_cxl' (x : Nat) (f : Ctx → Ctx) (u : Nat) : (s.modCtx x f).cxl u = s.cxl u := rfl
@[simp] theorem State.modCtx_proc' (x : Nat) (f : Ctx → Ctx) (u : Nat) : (s.modCtx x f).proc u = s.proc u := rfl
@[simp] theorem State.modCtx_t3' (x : Nat) (f : Ctx → Ctx) : (s.modCtx x f).t3 = s.t3 := rfl
@[simp] theorem State.modCtx_now' (x : Nat) (f : Ctx → Ctx) : (s.modCtx x f).now = s.now := rfl
@[simp] theorem State.modCtx_live' (x : Nat) (f : Ctx → Ctx) : (s.modCtx x f).live = s.live := rfl

/-! ### modPort -/

@[simp] theorem State.modPort_pending (p : Nat) (f : Port → Port) : (s.modPort p f).pending = s.pending := rfl
@[simp] theorem State.modPort_clk (p : Nat) (f : Port → Port) : (s.modPort p f).clk = s.clk := rfl
@[simp] theorem State.modPort_pwr (p : Nat) (f : Port → Port) : (s.modPort p f).pwr = s.pwr := rfl
@[simp] theorem State.modPort_part (p : Nat) (f : Port → Port) : (s.modPort p f).part = s.part := rfl
@[simp] theorem State.modPort_dev (p : Nat) (f : Port → Port) : (s.modPort p f).dev = s.dev := rfl
@[simp] theorem State.modPort_host (p : Nat) (f : Port → Port) : (s.modPort p f).host = s.host := rfl
@[simp] theorem State.modPort_ctxs (p : Nat) (f : Port → Port) : (s.modPort p f).ctxs = s.ctxs := rfl
@[simp] theorem State.modPort_epochs (p : Nat) (f : Port → Port) : (s.modPort p f).epochs = s.epochs := rfl
@[simp] theorem State.modPort_tillers (p : Nat) (f : Port → Port) : (s.modPort p f).tillers = s.tillers := rfl
@[simp] theorem State.modPort_fab (p : Nat) (f : Port → Port) : (s.modPort p f).fab = s.fab := rfl
@[simp] theorem State.modPort_ports (p : Nat) (f : Port → Port) : (s.modPort p f).ports = SMap.set portAt p (f (s.port p)) s.ports := rfl
@[simp] theorem State.modPort_oes (p : Nat) (f : Port → Port) : (s.modPort p f).oes = s.oes := rfl
@[simp] theorem State.modPort_mem (p : Nat) (f : Port → Port) : (s.modPort p f).mem = s.mem := rfl
@[simp] theorem State.modPort_seed (p : Nat) (f : Port → Port) : (s.modPort p f).seed = s.seed := rfl
@[simp] theorem State.modPort_slots (p : Nat) (f : Port → Port) : (s.modPort p f).slots = s.slots := rfl
@[simp] theorem State.modPort_pfx (p : Nat) (f : Port → Port) : (s.modPort p f).pfx = s.pfx := rfl
@[simp] theorem State.modPort_fw (p : Nat) (f : Port → Port) : (s.modPort p f).fw = s.fw := rfl
@[simp] theorem State.modPort_alm (p : Nat) (f : Port → Port) : (s.modPort p f).alm = s.alm := rfl
@[simp] theorem State.modPort_shadow (p : Nat) (f : Port → Port) : (s.modPort p f).shadow = s.shadow := rfl
@[simp] theorem State.modPort_ctr (p : Nat) (f : Port → Port) : (s.modPort p f).ctr = s.ctr := rfl
@[simp] theorem State.modPort_freeCtr (p : Nat) (f : Port → Port) : (s.modPort p f).freeCtr = s.freeCtr := rfl
@[simp] theorem State.modPort_tl' (p : Nat) (f : Port → Port) (u : Nat) : (s.modPort p f).tl u = s.tl u := rfl
@[simp] theorem State.modPort_ctx' (p : Nat) (f : Port → Port) (u : Nat) : (s.modPort p f).ctx u = s.ctx u := rfl
@[simp] theorem State.modPort_port' (p : Nat) (f : Port → Port) (u : Nat) : (s.modPort p f).port u = if u = p then f (s.port p) else s.port u := SMap.get_set _ _ _ _ _
@[simp] theorem State.modPort_slot' (p : Nat) (f : Port → Port) (u : Nat) : (s.modPort p f).slot u = s.slot u := rfl
@[simp] theorem State.modPort_ring' (p : Nat) (f : Port → Port) (u : Nat) : (s.modPort p f).ring u = s.ring u := rfl
@[simp] theorem State.modPort_slice' (p : Nat) (f : Port → Port) (u : Nat) : (s.modPort p f).slice u = s.slice u := rfl
@[simp] theorem State.modPort_sq' (p : Nat) (f : Port → Port) (u : Nat) : (s.modPort p f).sq u = s.sq u := rfl
@[simp] theorem State.modPort_oe' (p : Nat) (f : Port → Port) (u : Nat) : (s.modPort p f).oe u = s.oe u := rfl
@[simp] theorem State.modPort_cxl' (p : Nat) (f : Port → Port) (u : Nat) : (s.modPort p f).cxl u = s.cxl u := rfl
@[simp] theorem State.modPort_proc' (p : Nat) (f : Port → Port) (u : Nat) : (s.modPort p f).proc u = s.proc u := rfl
@[simp] theorem State.modPort_t3' (p : Nat) (f : Port → Port) : (s.modPort p f).t3 = s.t3 := rfl
@[simp] theorem State.modPort_now' (p : Nat) (f : Port → Port) : (s.modPort p f).now = s.now := rfl
@[simp] theorem State.modPort_live' (p : Nat) (f : Port → Port) : (s.modPort p f).live = s.live := rfl

/-! ### modLink -/

@[simp] theorem State.modLink_pending (p : Nat) (f : Link → Link) : (s.modLink p f).pending = s.pending := rfl
@[simp] theorem State.modLink_clk (p : Nat) (f : Link → Link) : (s.modLink p f).clk = s.clk := rfl
@[simp] theorem State.modLink_pwr (p : Nat) (f : Link → Link) : (s.modLink p f).pwr = s.pwr := rfl
@[simp] theorem State.modLink_part (p : Nat) (f : Link → Link) : (s.modLink p f).part = s.part := rfl
@[simp] theorem State.modLink_dev (p : Nat) (f : Link → Link) : (s.modLink p f).dev = s.dev := rfl
@[simp] theorem State.modLink_host (p : Nat) (f : Link → Link) : (s.modLink p f).host = s.host := rfl
@[simp] theorem State.modLink_ctxs (p : Nat) (f : Link → Link) : (s.modLink p f).ctxs = s.ctxs := rfl
@[simp] theorem State.modLink_epochs (p : Nat) (f : Link → Link) : (s.modLink p f).epochs = s.epochs := rfl
@[simp] theorem State.modLink_tillers (p : Nat) (f : Link → Link) : (s.modLink p f).tillers = s.tillers := rfl
@[simp] theorem State.modLink_fab (p : Nat) (f : Link → Link) : (s.modLink p f).fab = s.fab := rfl
@[simp] theorem State.modLink_ports (p : Nat) (f : Link → Link) : (s.modLink p f).ports = SMap.set portAt p (let q := s.port p; { q with link := f q.link }) s.ports := rfl
@[simp] theorem State.modLink_oes (p : Nat) (f : Link → Link) : (s.modLink p f).oes = s.oes := rfl
@[simp] theorem State.modLink_mem (p : Nat) (f : Link → Link) : (s.modLink p f).mem = s.mem := rfl
@[simp] theorem State.modLink_seed (p : Nat) (f : Link → Link) : (s.modLink p f).seed = s.seed := rfl
@[simp] theorem State.modLink_slots (p : Nat) (f : Link → Link) : (s.modLink p f).slots = s.slots := rfl
@[simp] theorem State.modLink_pfx (p : Nat) (f : Link → Link) : (s.modLink p f).pfx = s.pfx := rfl
@[simp] theorem State.modLink_fw (p : Nat) (f : Link → Link) : (s.modLink p f).fw = s.fw := rfl
@[simp] theorem State.modLink_alm (p : Nat) (f : Link → Link) : (s.modLink p f).alm = s.alm := rfl
@[simp] theorem State.modLink_shadow (p : Nat) (f : Link → Link) : (s.modLink p f).shadow = s.shadow := rfl
@[simp] theorem State.modLink_ctr (p : Nat) (f : Link → Link) : (s.modLink p f).ctr = s.ctr := rfl
@[simp] theorem State.modLink_freeCtr (p : Nat) (f : Link → Link) : (s.modLink p f).freeCtr = s.freeCtr := rfl
@[simp] theorem State.modLink_tl' (p : Nat) (f : Link → Link) (u : Nat) : (s.modLink p f).tl u = s.tl u := rfl
@[simp] theorem State.modLink_ctx' (p : Nat) (f : Link → Link) (u : Nat) : (s.modLink p f).ctx u = s.ctx u := rfl
@[simp] theorem State.modLink_port' (p : Nat) (f : Link → Link) (u : Nat) : (s.modLink p f).port u = if u = p then { s.port p with link := f (s.port p).link } else s.port u := SMap.get_set _ _ _ _ _
@[simp] theorem State.modLink_slot' (p : Nat) (f : Link → Link) (u : Nat) : (s.modLink p f).slot u = s.slot u := rfl
@[simp] theorem State.modLink_ring' (p : Nat) (f : Link → Link) (u : Nat) : (s.modLink p f).ring u = s.ring u := rfl
@[simp] theorem State.modLink_slice' (p : Nat) (f : Link → Link) (u : Nat) : (s.modLink p f).slice u = s.slice u := rfl
@[simp] theorem State.modLink_sq' (p : Nat) (f : Link → Link) (u : Nat) : (s.modLink p f).sq u = s.sq u := rfl
@[simp] theorem State.modLink_oe' (p : Nat) (f : Link → Link) (u : Nat) : (s.modLink p f).oe u = s.oe u := rfl
@[simp] theorem State.modLink_cxl' (p : Nat) (f : Link → Link) (u : Nat) : (s.modLink p f).cxl u = s.cxl u := rfl
@[simp] theorem State.modLink_proc' (p : Nat) (f : Link → Link) (u : Nat) : (s.modLink p f).proc u = s.proc u := rfl
@[simp] theorem State.modLink_t3' (p : Nat) (f : Link → Link) : (s.modLink p f).t3 = s.t3 := rfl
@[simp] theorem State.modLink_now' (p : Nat) (f : Link → Link) : (s.modLink p f).now = s.now := rfl
@[simp] theorem State.modLink_live' (p : Nat) (f : Link → Link) : (s.modLink p f).live = s.live := rfl

/-! ### modSlot -/

@[simp] theorem State.modSlot_pending (l : Nat) (f : Slot → Slot) : (s.modSlot l f).pending = s.pending := rfl
@[simp] theorem State.modSlot_clk (l : Nat) (f : Slot → Slot) : (s.modSlot l f).clk = s.clk := rfl
@[simp] theorem State.modSlot_pwr (l : Nat) (f : Slot → Slot) : (s.modSlot l f).pwr = s.pwr := rfl
@[simp] theorem State.modSlot_part (l : Nat) (f : Slot → Slot) : (s.modSlot l f).part = s.part := rfl
@[simp] theorem State.modSlot_dev (l : Nat) (f : Slot → Slot) : (s.modSlot l f).dev = s.dev := rfl
@[simp] theorem State.modSlot_host (l : Nat) (f : Slot → Slot) : (s.modSlot l f).host = s.host := rfl
@[simp] theorem State.modSlot_ctxs (l : Nat) (f : Slot → Slot) : (s.modSlot l f).ctxs = s.ctxs := rfl
@[simp] theorem State.modSlot_epochs (l : Nat) (f : Slot → Slot) : (s.modSlot l f).epochs = s.epochs := rfl
@[simp] theorem State.modSlot_tillers (l : Nat) (f : Slot → Slot) : (s.modSlot l f).tillers = s.tillers := rfl
@[simp] theorem State.modSlot_fab (l : Nat) (f : Slot → Slot) : (s.modSlot l f).fab = s.fab := rfl
@[simp] theorem State.modSlot_ports (l : Nat) (f : Slot → Slot) : (s.modSlot l f).ports = s.ports := rfl
@[simp] theorem State.modSlot_oes (l : Nat) (f : Slot → Slot) : (s.modSlot l f).oes = s.oes := rfl
@[simp] theorem State.modSlot_mem (l : Nat) (f : Slot → Slot) : (s.modSlot l f).mem = s.mem := rfl
@[simp] theorem State.modSlot_seed (l : Nat) (f : Slot → Slot) : (s.modSlot l f).seed = s.seed := rfl
@[simp] theorem State.modSlot_slots (l : Nat) (f : Slot → Slot) : (s.modSlot l f).slots = SMap.set slotAt l (f (s.slot l)) s.slots := rfl
@[simp] theorem State.modSlot_pfx (l : Nat) (f : Slot → Slot) : (s.modSlot l f).pfx = s.pfx := rfl
@[simp] theorem State.modSlot_fw (l : Nat) (f : Slot → Slot) : (s.modSlot l f).fw = s.fw := rfl
@[simp] theorem State.modSlot_alm (l : Nat) (f : Slot → Slot) : (s.modSlot l f).alm = s.alm := rfl
@[simp] theorem State.modSlot_shadow (l : Nat) (f : Slot → Slot) : (s.modSlot l f).shadow = s.shadow := rfl
@[simp] theorem State.modSlot_ctr (l : Nat) (f : Slot → Slot) : (s.modSlot l f).ctr = s.ctr := rfl
@[simp] theorem State.modSlot_freeCtr (l : Nat) (f : Slot → Slot) : (s.modSlot l f).freeCtr = s.freeCtr := rfl
@[simp] theorem State.modSlot_tl' (l : Nat) (f : Slot → Slot) (u : Nat) : (s.modSlot l f).tl u = s.tl u := rfl
@[simp] theorem State.modSlot_ctx' (l : Nat) (f : Slot → Slot) (u : Nat) : (s.modSlot l f).ctx u = s.ctx u := rfl
@[simp] theorem State.modSlot_port' (l : Nat) (f : Slot → Slot) (u : Nat) : (s.modSlot l f).port u = s.port u := rfl
@[simp] theorem State.modSlot_slot' (l : Nat) (f : Slot → Slot) (u : Nat) : (s.modSlot l f).slot u = if u = l then f (s.slot l) else s.slot u := SMap.get_set _ _ _ _ _
@[simp] theorem State.modSlot_ring' (l : Nat) (f : Slot → Slot) (u : Nat) : (s.modSlot l f).ring u = s.ring u := rfl
@[simp] theorem State.modSlot_slice' (l : Nat) (f : Slot → Slot) (u : Nat) : (s.modSlot l f).slice u = s.slice u := rfl
@[simp] theorem State.modSlot_sq' (l : Nat) (f : Slot → Slot) (u : Nat) : (s.modSlot l f).sq u = s.sq u := rfl
@[simp] theorem State.modSlot_oe' (l : Nat) (f : Slot → Slot) (u : Nat) : (s.modSlot l f).oe u = s.oe u := rfl
@[simp] theorem State.modSlot_cxl' (l : Nat) (f : Slot → Slot) (u : Nat) : (s.modSlot l f).cxl u = s.cxl u := rfl
@[simp] theorem State.modSlot_proc' (l : Nat) (f : Slot → Slot) (u : Nat) : (s.modSlot l f).proc u = s.proc u := rfl
@[simp] theorem State.modSlot_t3' (l : Nat) (f : Slot → Slot) : (s.modSlot l f).t3 = s.t3 := rfl
@[simp] theorem State.modSlot_now' (l : Nat) (f : Slot → Slot) : (s.modSlot l f).now = s.now := rfl
@[simp] theorem State.modSlot_live' (l : Nat) (f : Slot → Slot) : (s.modSlot l f).live = s.live := rfl

/-! ### modHost -/

@[simp] theorem State.modHost_pending (f : HostIf → HostIf) : (s.modHost f).pending = s.pending := rfl
@[simp] theorem State.modHost_clk (f : HostIf → HostIf) : (s.modHost f).clk = s.clk := rfl
@[simp] theorem State.modHost_pwr (f : HostIf → HostIf) : (s.modHost f).pwr = s.pwr := rfl
@[simp] theorem State.modHost_part (f : HostIf → HostIf) : (s.modHost f).part = s.part := rfl
@[simp] theorem State.modHost_dev (f : HostIf → HostIf) : (s.modHost f).dev = s.dev := rfl
@[simp] theorem State.modHost_host (f : HostIf → HostIf) : (s.modHost f).host = f s.host := rfl
@[simp] theorem State.modHost_ctxs (f : HostIf → HostIf) : (s.modHost f).ctxs = s.ctxs := rfl
@[simp] theorem State.modHost_epochs (f : HostIf → HostIf) : (s.modHost f).epochs = s.epochs := rfl
@[simp] theorem State.modHost_tillers (f : HostIf → HostIf) : (s.modHost f).tillers = s.tillers := rfl
@[simp] theorem State.modHost_fab (f : HostIf → HostIf) : (s.modHost f).fab = s.fab := rfl
@[simp] theorem State.modHost_ports (f : HostIf → HostIf) : (s.modHost f).ports = s.ports := rfl
@[simp] theorem State.modHost_oes (f : HostIf → HostIf) : (s.modHost f).oes = s.oes := rfl
@[simp] theorem State.modHost_mem (f : HostIf → HostIf) : (s.modHost f).mem = s.mem := rfl
@[simp] theorem State.modHost_seed (f : HostIf → HostIf) : (s.modHost f).seed = s.seed := rfl
@[simp] theorem State.modHost_slots (f : HostIf → HostIf) : (s.modHost f).slots = s.slots := rfl
@[simp] theorem State.modHost_pfx (f : HostIf → HostIf) : (s.modHost f).pfx = s.pfx := rfl
@[simp] theorem State.modHost_fw (f : HostIf → HostIf) : (s.modHost f).fw = s.fw := rfl
@[simp] theorem State.modHost_alm (f : HostIf → HostIf) : (s.modHost f).alm = s.alm := rfl
@[simp] theorem State.modHost_shadow (f : HostIf → HostIf) : (s.modHost f).shadow = s.shadow := rfl
@[simp] theorem State.modHost_ctr (f : HostIf → HostIf) : (s.modHost f).ctr = s.ctr := rfl
@[simp] theorem State.modHost_freeCtr (f : HostIf → HostIf) : (s.modHost f).freeCtr = s.freeCtr := rfl
@[simp] theorem State.modHost_tl' (f : HostIf → HostIf) (u : Nat) : (s.modHost f).tl u = s.tl u := rfl
@[simp] theorem State.modHost_ctx' (f : HostIf → HostIf) (u : Nat) : (s.modHost f).ctx u = s.ctx u := rfl
@[simp] theorem State.modHost_port' (f : HostIf → HostIf) (u : Nat) : (s.modHost f).port u = s.port u := rfl
@[simp] theorem State.modHost_slot' (f : HostIf → HostIf) (u : Nat) : (s.modHost f).slot u = s.slot u := rfl
@[simp] theorem State.modHost_slice' (f : HostIf → HostIf) (u : Nat) : (s.modHost f).slice u = s.slice u := rfl
@[simp] theorem State.modHost_sq' (f : HostIf → HostIf) (u : Nat) : (s.modHost f).sq u = s.sq u := rfl
@[simp] theorem State.modHost_oe' (f : HostIf → HostIf) (u : Nat) : (s.modHost f).oe u = s.oe u := rfl
@[simp] theorem State.modHost_cxl' (f : HostIf → HostIf) (u : Nat) : (s.modHost f).cxl u = s.cxl u := rfl
@[simp] theorem State.modHost_proc' (f : HostIf → HostIf) (u : Nat) : (s.modHost f).proc u = s.proc u := rfl
@[simp] theorem State.modHost_t3' (f : HostIf → HostIf) : (s.modHost f).t3 = s.t3 := rfl
@[simp] theorem State.modHost_now' (f : HostIf → HostIf) : (s.modHost f).now = s.now := rfl
@[simp] theorem State.modHost_live' (f : HostIf → HostIf) : (s.modHost f).live = s.live := rfl

/-! ### modRing -/

@[simp] theorem State.modRing_pending (r : Nat) (f : Ring → Ring) : (s.modRing r f).pending = s.pending := rfl
@[simp] theorem State.modRing_clk (r : Nat) (f : Ring → Ring) : (s.modRing r f).clk = s.clk := rfl
@[simp] theorem State.modRing_pwr (r : Nat) (f : Ring → Ring) : (s.modRing r f).pwr = s.pwr := rfl
@[simp] theorem State.modRing_part (r : Nat) (f : Ring → Ring) : (s.modRing r f).part = s.part := rfl
@[simp] theorem State.modRing_dev (r : Nat) (f : Ring → Ring) : (s.modRing r f).dev = s.dev := rfl
@[simp] theorem State.modRing_host (r : Nat) (f : Ring → Ring) : (s.modRing r f).host = { s.host with rings := SMap.set ringAt r (f (s.ring r)) s.host.rings } := rfl
@[simp] theorem State.modRing_ctxs (r : Nat) (f : Ring → Ring) : (s.modRing r f).ctxs = s.ctxs := rfl
@[simp] theorem State.modRing_epochs (r : Nat) (f : Ring → Ring) : (s.modRing r f).epochs = s.epochs := rfl
@[simp] theorem State.modRing_tillers (r : Nat) (f : Ring → Ring) : (s.modRing r f).tillers = s.tillers := rfl
@[simp] theorem State.modRing_fab (r : Nat) (f : Ring → Ring) : (s.modRing r f).fab = s.fab := rfl
@[simp] theorem State.modRing_ports (r : Nat) (f : Ring → Ring) : (s.modRing r f).ports = s.ports := rfl
@[simp] theorem State.modRing_oes (r : Nat) (f : Ring → Ring) : (s.modRing r f).oes = s.oes := rfl
@[simp] theorem State.modRing_mem (r : Nat) (f : Ring → Ring) : (s.modRing r f).mem = s.mem := rfl
@[simp] theorem State.modRing_seed (r : Nat) (f : Ring → Ring) : (s.modRing r f).seed = s.seed := rfl
@[simp] theorem State.modRing_slots (r : Nat) (f : Ring → Ring) : (s.modRing r f).slots = s.slots := rfl
@[simp] theorem State.modRing_pfx (r : Nat) (f : Ring → Ring) : (s.modRing r f).pfx = s.pfx := rfl
@[simp] theorem State.modRing_fw (r : Nat) (f : Ring → Ring) : (s.modRing r f).fw = s.fw := rfl
@[simp] theorem State.modRing_alm (r : Nat) (f : Ring → Ring) : (s.modRing r f).alm = s.alm := rfl
@[simp] theorem State.modRing_shadow (r : Nat) (f : Ring → Ring) : (s.modRing r f).shadow = s.shadow := rfl
@[simp] theorem State.modRing_ctr (r : Nat) (f : Ring → Ring) : (s.modRing r f).ctr = s.ctr := rfl
@[simp] theorem State.modRing_freeCtr (r : Nat) (f : Ring → Ring) : (s.modRing r f).freeCtr = s.freeCtr := rfl
@[simp] theorem State.modRing_tl' (r : Nat) (f : Ring → Ring) (u : Nat) : (s.modRing r f).tl u = s.tl u := rfl
@[simp] theorem State.modRing_ctx' (r : Nat) (f : Ring → Ring) (u : Nat) : (s.modRing r f).ctx u = s.ctx u := rfl
@[simp] theorem State.modRing_port' (r : Nat) (f : Ring → Ring) (u : Nat) : (s.modRing r f).port u = s.port u := rfl
@[simp] theorem State.modRing_slot' (r : Nat) (f : Ring → Ring) (u : Nat) : (s.modRing r f).slot u = s.slot u := rfl
@[simp] theorem State.modRing_ring' (r : Nat) (f : Ring → Ring) (u : Nat) : (s.modRing r f).ring u = if u = r then f (s.ring r) else s.ring u := SMap.get_set _ _ _ _ _
@[simp] theorem State.modRing_slice' (r : Nat) (f : Ring → Ring) (u : Nat) : (s.modRing r f).slice u = s.slice u := rfl
@[simp] theorem State.modRing_sq' (r : Nat) (f : Ring → Ring) (u : Nat) : (s.modRing r f).sq u = s.sq u := rfl
@[simp] theorem State.modRing_oe' (r : Nat) (f : Ring → Ring) (u : Nat) : (s.modRing r f).oe u = s.oe u := rfl
@[simp] theorem State.modRing_cxl' (r : Nat) (f : Ring → Ring) (u : Nat) : (s.modRing r f).cxl u = s.cxl u := rfl
@[simp] theorem State.modRing_proc' (r : Nat) (f : Ring → Ring) (u : Nat) : (s.modRing r f).proc u = s.proc u := rfl
@[simp] theorem State.modRing_t3' (r : Nat) (f : Ring → Ring) : (s.modRing r f).t3 = s.t3 := rfl
@[simp] theorem State.modRing_now' (r : Nat) (f : Ring → Ring) : (s.modRing r f).now = s.now := rfl
@[simp] theorem State.modRing_live' (r : Nat) (f : Ring → Ring) : (s.modRing r f).live = s.live := rfl

/-! ### modFab -/

@[simp] theorem State.modFab_pending (f : Fabric → Fabric) : (s.modFab f).pending = s.pending := rfl
@[simp] theorem State.modFab_clk (f : Fabric → Fabric) : (s.modFab f).clk = s.clk := rfl
@[simp] theorem State.modFab_pwr (f : Fabric → Fabric) : (s.modFab f).pwr = s.pwr := rfl
@[simp] theorem State.modFab_part (f : Fabric → Fabric) : (s.modFab f).part = s.part := rfl
@[simp] theorem State.modFab_dev (f : Fabric → Fabric) : (s.modFab f).dev = s.dev := rfl
@[simp] theorem State.modFab_host (f : Fabric → Fabric) : (s.modFab f).host = s.host := rfl
@[simp] theorem State.modFab_ctxs (f : Fabric → Fabric) : (s.modFab f).ctxs = s.ctxs := rfl
@[simp] theorem State.modFab_epochs (f : Fabric → Fabric) : (s.modFab f).epochs = s.epochs := rfl
@[simp] theorem State.modFab_tillers (f : Fabric → Fabric) : (s.modFab f).tillers = s.tillers := rfl
@[simp] theorem State.modFab_fab (f : Fabric → Fabric) : (s.modFab f).fab = f s.fab := rfl
@[simp] theorem State.modFab_ports (f : Fabric → Fabric) : (s.modFab f).ports = s.ports := rfl
@[simp] theorem State.modFab_oes (f : Fabric → Fabric) : (s.modFab f).oes = s.oes := rfl
@[simp] theorem State.modFab_mem (f : Fabric → Fabric) : (s.modFab f).mem = s.mem := rfl
@[simp] theorem State.modFab_seed (f : Fabric → Fabric) : (s.modFab f).seed = s.seed := rfl
@[simp] theorem State.modFab_slots (f : Fabric → Fabric) : (s.modFab f).slots = s.slots := rfl
@[simp] theorem State.modFab_pfx (f : Fabric → Fabric) : (s.modFab f).pfx = s.pfx := rfl
@[simp] theorem State.modFab_fw (f : Fabric → Fabric) : (s.modFab f).fw = s.fw := rfl
@[simp] theorem State.modFab_alm (f : Fabric → Fabric) : (s.modFab f).alm = s.alm := rfl
@[simp] theorem State.modFab_shadow (f : Fabric → Fabric) : (s.modFab f).shadow = s.shadow := rfl
@[simp] theorem State.modFab_ctr (f : Fabric → Fabric) : (s.modFab f).ctr = s.ctr := rfl
@[simp] theorem State.modFab_freeCtr (f : Fabric → Fabric) : (s.modFab f).freeCtr = s.freeCtr := rfl
@[simp] theorem State.modFab_tl' (f : Fabric → Fabric) (u : Nat) : (s.modFab f).tl u = s.tl u := rfl
@[simp] theorem State.modFab_ctx' (f : Fabric → Fabric) (u : Nat) : (s.modFab f).ctx u = s.ctx u := rfl
@[simp] theorem State.modFab_port' (f : Fabric → Fabric) (u : Nat) : (s.modFab f).port u = s.port u := rfl
@[simp] theorem State.modFab_slot' (f : Fabric → Fabric) (u : Nat) : (s.modFab f).slot u = s.slot u := rfl
@[simp] theorem State.modFab_ring' (f : Fabric → Fabric) (u : Nat) : (s.modFab f).ring u = s.ring u := rfl
@[simp] theorem State.modFab_oe' (f : Fabric → Fabric) (u : Nat) : (s.modFab f).oe u = s.oe u := rfl
@[simp] theorem State.modFab_cxl' (f : Fabric → Fabric) (u : Nat) : (s.modFab f).cxl u = s.cxl u := rfl
@[simp] theorem State.modFab_proc' (f : Fabric → Fabric) (u : Nat) : (s.modFab f).proc u = s.proc u := rfl
@[simp] theorem State.modFab_t3' (f : Fabric → Fabric) : (s.modFab f).t3 = s.t3 := rfl
@[simp] theorem State.modFab_now' (f : Fabric → Fabric) : (s.modFab f).now = s.now := rfl
@[simp] theorem State.modFab_live' (f : Fabric → Fabric) : (s.modFab f).live = s.live := rfl

/-! ### modPwr -/

@[simp] theorem State.modPwr_pending (f : Power → Power) : (s.modPwr f).pending = s.pending := rfl
@[simp] theorem State.modPwr_clk (f : Power → Power) : (s.modPwr f).clk = s.clk := rfl
@[simp] theorem State.modPwr_pwr (f : Power → Power) : (s.modPwr f).pwr = f s.pwr := rfl
@[simp] theorem State.modPwr_part (f : Power → Power) : (s.modPwr f).part = s.part := rfl
@[simp] theorem State.modPwr_dev (f : Power → Power) : (s.modPwr f).dev = s.dev := rfl
@[simp] theorem State.modPwr_host (f : Power → Power) : (s.modPwr f).host = s.host := rfl
@[simp] theorem State.modPwr_ctxs (f : Power → Power) : (s.modPwr f).ctxs = s.ctxs := rfl
@[simp] theorem State.modPwr_epochs (f : Power → Power) : (s.modPwr f).epochs = s.epochs := rfl
@[simp] theorem State.modPwr_tillers (f : Power → Power) : (s.modPwr f).tillers = s.tillers := rfl
@[simp] theorem State.modPwr_fab (f : Power → Power) : (s.modPwr f).fab = s.fab := rfl
@[simp] theorem State.modPwr_ports (f : Power → Power) : (s.modPwr f).ports = s.ports := rfl
@[simp] theorem State.modPwr_oes (f : Power → Power) : (s.modPwr f).oes = s.oes := rfl
@[simp] theorem State.modPwr_mem (f : Power → Power) : (s.modPwr f).mem = s.mem := rfl
@[simp] theorem State.modPwr_seed (f : Power → Power) : (s.modPwr f).seed = s.seed := rfl
@[simp] theorem State.modPwr_slots (f : Power → Power) : (s.modPwr f).slots = s.slots := rfl
@[simp] theorem State.modPwr_pfx (f : Power → Power) : (s.modPwr f).pfx = s.pfx := rfl
@[simp] theorem State.modPwr_fw (f : Power → Power) : (s.modPwr f).fw = s.fw := rfl
@[simp] theorem State.modPwr_alm (f : Power → Power) : (s.modPwr f).alm = s.alm := rfl
@[simp] theorem State.modPwr_shadow (f : Power → Power) : (s.modPwr f).shadow = s.shadow := rfl
@[simp] theorem State.modPwr_ctr (f : Power → Power) : (s.modPwr f).ctr = s.ctr := rfl
@[simp] theorem State.modPwr_freeCtr (f : Power → Power) : (s.modPwr f).freeCtr = s.freeCtr := rfl
@[simp] theorem State.modPwr_tl' (f : Power → Power) (u : Nat) : (s.modPwr f).tl u = s.tl u := rfl
@[simp] theorem State.modPwr_ctx' (f : Power → Power) (u : Nat) : (s.modPwr f).ctx u = s.ctx u := rfl
@[simp] theorem State.modPwr_port' (f : Power → Power) (u : Nat) : (s.modPwr f).port u = s.port u := rfl
@[simp] theorem State.modPwr_slot' (f : Power → Power) (u : Nat) : (s.modPwr f).slot u = s.slot u := rfl
@[simp] theorem State.modPwr_ring' (f : Power → Power) (u : Nat) : (s.modPwr f).ring u = s.ring u := rfl
@[simp] theorem State.modPwr_slice' (f : Power → Power) (u : Nat) : (s.modPwr f).slice u = s.slice u := rfl
@[simp] theorem State.modPwr_sq' (f : Power → Power) (u : Nat) : (s.modPwr f).sq u = s.sq u := rfl
@[simp] theorem State.modPwr_oe' (f : Power → Power) (u : Nat) : (s.modPwr f).oe u = s.oe u := rfl
@[simp] theorem State.modPwr_cxl' (f : Power → Power) (u : Nat) : (s.modPwr f).cxl u = s.cxl u := rfl
@[simp] theorem State.modPwr_proc' (f : Power → Power) (u : Nat) : (s.modPwr f).proc u = s.proc u := rfl
@[simp] theorem State.modPwr_t3' (f : Power → Power) : (s.modPwr f).t3 = s.t3 := rfl
@[simp] theorem State.modPwr_now' (f : Power → Power) : (s.modPwr f).now = s.now := rfl

/-! ### modDev -/

@[simp] theorem State.modDev_pending (f : Dev → Dev) : (s.modDev f).pending = s.pending := rfl
@[simp] theorem State.modDev_clk (f : Dev → Dev) : (s.modDev f).clk = s.clk := rfl
@[simp] theorem State.modDev_pwr (f : Dev → Dev) : (s.modDev f).pwr = s.pwr := rfl
@[simp] theorem State.modDev_part (f : Dev → Dev) : (s.modDev f).part = s.part := rfl
@[simp] theorem State.modDev_dev (f : Dev → Dev) : (s.modDev f).dev = f s.dev := rfl
@[simp] theorem State.modDev_host (f : Dev → Dev) : (s.modDev f).host = s.host := rfl
@[simp] theorem State.modDev_ctxs (f : Dev → Dev) : (s.modDev f).ctxs = s.ctxs := rfl
@[simp] theorem State.modDev_epochs (f : Dev → Dev) : (s.modDev f).epochs = s.epochs := rfl
@[simp] theorem State.modDev_tillers (f : Dev → Dev) : (s.modDev f).tillers = s.tillers := rfl
@[simp] theorem State.modDev_fab (f : Dev → Dev) : (s.modDev f).fab = s.fab := rfl
@[simp] theorem State.modDev_ports (f : Dev → Dev) : (s.modDev f).ports = s.ports := rfl
@[simp] theorem State.modDev_oes (f : Dev → Dev) : (s.modDev f).oes = s.oes := rfl
@[simp] theorem State.modDev_mem (f : Dev → Dev) : (s.modDev f).mem = s.mem := rfl
@[simp] theorem State.modDev_seed (f : Dev → Dev) : (s.modDev f).seed = s.seed := rfl
@[simp] theorem State.modDev_slots (f : Dev → Dev) : (s.modDev f).slots = s.slots := rfl
@[simp] theorem State.modDev_pfx (f : Dev → Dev) : (s.modDev f).pfx = s.pfx := rfl
@[simp] theorem State.modDev_fw (f : Dev → Dev) : (s.modDev f).fw = s.fw := rfl
@[simp] theorem State.modDev_alm (f : Dev → Dev) : (s.modDev f).alm = s.alm := rfl
@[simp] theorem State.modDev_shadow (f : Dev → Dev) : (s.modDev f).shadow = s.shadow := rfl
@[simp] theorem State.modDev_ctr (f : Dev → Dev) : (s.modDev f).ctr = s.ctr := rfl
@[simp] theorem State.modDev_freeCtr (f : Dev → Dev) : (s.modDev f).freeCtr = s.freeCtr := rfl
@[simp] theorem State.modDev_tl' (f : Dev → Dev) (u : Nat) : (s.modDev f).tl u = s.tl u := rfl
@[simp] theorem State.modDev_ctx' (f : Dev → Dev) (u : Nat) : (s.modDev f).ctx u = s.ctx u := rfl
@[simp] theorem State.modDev_port' (f : Dev → Dev) (u : Nat) : (s.modDev f).port u = s.port u := rfl
@[simp] theorem State.modDev_slot' (f : Dev → Dev) (u : Nat) : (s.modDev f).slot u = s.slot u := rfl
@[simp] theorem State.modDev_ring' (f : Dev → Dev) (u : Nat) : (s.modDev f).ring u = s.ring u := rfl
@[simp] theorem State.modDev_slice' (f : Dev → Dev) (u : Nat) : (s.modDev f).slice u = s.slice u := rfl
@[simp] theorem State.modDev_sq' (f : Dev → Dev) (u : Nat) : (s.modDev f).sq u = s.sq u := rfl
@[simp] theorem State.modDev_oe' (f : Dev → Dev) (u : Nat) : (s.modDev f).oe u = s.oe u := rfl
@[simp] theorem State.modDev_cxl' (f : Dev → Dev) (u : Nat) : (s.modDev f).cxl u = s.cxl u := rfl
@[simp] theorem State.modDev_proc' (f : Dev → Dev) (u : Nat) : (s.modDev f).proc u = s.proc u := rfl
@[simp] theorem State.modDev_t3' (f : Dev → Dev) : (s.modDev f).t3 = s.t3 := rfl
@[simp] theorem State.modDev_now' (f : Dev → Dev) : (s.modDev f).now = s.now := rfl
@[simp] theorem State.modDev_live' (f : Dev → Dev) : (s.modDev f).live = s.live := rfl

/-! ### modFw -/

@[simp] theorem State.modFw_pending (f : Firmware → Firmware) : (s.modFw f).pending = s.pending := rfl
@[simp] theorem State.modFw_clk (f : Firmware → Firmware) : (s.modFw f).clk = s.clk := rfl
@[simp] theorem State.modFw_pwr (f : Firmware → Firmware) : (s.modFw f).pwr = s.pwr := rfl
@[simp] theorem State.modFw_part (f : Firmware → Firmware) : (s.modFw f).part = s.part := rfl
@[simp] theorem State.modFw_dev (f : Firmware → Firmware) : (s.modFw f).dev = s.dev := rfl
@[simp] theorem State.modFw_host (f : Firmware → Firmware) : (s.modFw f).host = s.host := rfl
@[simp] theorem State.modFw_ctxs (f : Firmware → Firmware) : (s.modFw f).ctxs = s.ctxs := rfl
@[simp] theorem State.modFw_epochs (f : Firmware → Firmware) : (s.modFw f).epochs = s.epochs := rfl
@[simp] theorem State.modFw_tillers (f : Firmware → Firmware) : (s.modFw f).tillers = s.tillers := rfl
@[simp] theorem State.modFw_fab (f : Firmware → Firmware) : (s.modFw f).fab = s.fab := rfl
@[simp] theorem State.modFw_ports (f : Firmware → Firmware) : (s.modFw f).ports = s.ports := rfl
@[simp] theorem State.modFw_oes (f : Firmware → Firmware) : (s.modFw f).oes = s.oes := rfl
@[simp] theorem State.modFw_mem (f : Firmware → Firmware) : (s.modFw f).mem = s.mem := rfl
@[simp] theorem State.modFw_seed (f : Firmware → Firmware) : (s.modFw f).seed = s.seed := rfl
@[simp] theorem State.modFw_slots (f : Firmware → Firmware) : (s.modFw f).slots = s.slots := rfl
@[simp] theorem State.modFw_pfx (f : Firmware → Firmware) : (s.modFw f).pfx = s.pfx := rfl
@[simp] theorem State.modFw_fw (f : Firmware → Firmware) : (s.modFw f).fw = f s.fw := rfl
@[simp] theorem State.modFw_alm (f : Firmware → Firmware) : (s.modFw f).alm = s.alm := rfl
@[simp] theorem State.modFw_shadow (f : Firmware → Firmware) : (s.modFw f).shadow = s.shadow := rfl
@[simp] theorem State.modFw_ctr (f : Firmware → Firmware) : (s.modFw f).ctr = s.ctr := rfl
@[simp] theorem State.modFw_freeCtr (f : Firmware → Firmware) : (s.modFw f).freeCtr = s.freeCtr := rfl
@[simp] theorem State.modFw_tl' (f : Firmware → Firmware) (u : Nat) : (s.modFw f).tl u = s.tl u := rfl
@[simp] theorem State.modFw_ctx' (f : Firmware → Firmware) (u : Nat) : (s.modFw f).ctx u = s.ctx u := rfl
@[simp] theorem State.modFw_port' (f : Firmware → Firmware) (u : Nat) : (s.modFw f).port u = s.port u := rfl
@[simp] theorem State.modFw_slot' (f : Firmware → Firmware) (u : Nat) : (s.modFw f).slot u = s.slot u := rfl
@[simp] theorem State.modFw_ring' (f : Firmware → Firmware) (u : Nat) : (s.modFw f).ring u = s.ring u := rfl
@[simp] theorem State.modFw_slice' (f : Firmware → Firmware) (u : Nat) : (s.modFw f).slice u = s.slice u := rfl
@[simp] theorem State.modFw_sq' (f : Firmware → Firmware) (u : Nat) : (s.modFw f).sq u = s.sq u := rfl
@[simp] theorem State.modFw_oe' (f : Firmware → Firmware) (u : Nat) : (s.modFw f).oe u = s.oe u := rfl
@[simp] theorem State.modFw_cxl' (f : Firmware → Firmware) (u : Nat) : (s.modFw f).cxl u = s.cxl u := rfl
@[simp] theorem State.modFw_t3' (f : Firmware → Firmware) : (s.modFw f).t3 = s.t3 := rfl
@[simp] theorem State.modFw_now' (f : Firmware → Firmware) : (s.modFw f).now = s.now := rfl
@[simp] theorem State.modFw_live' (f : Firmware → Firmware) : (s.modFw f).live = s.live := rfl

/-! ### modMem -/

@[simp] theorem State.modMem_pending (f : MemTier → MemTier) : (s.modMem f).pending = s.pending := rfl
@[simp] theorem State.modMem_clk (f : MemTier → MemTier) : (s.modMem f).clk = s.clk := rfl
@[simp] theorem State.modMem_pwr (f : MemTier → MemTier) : (s.modMem f).pwr = s.pwr := rfl
@[simp] theorem State.modMem_part (f : MemTier → MemTier) : (s.modMem f).part = s.part := rfl
@[simp] theorem State.modMem_dev (f : MemTier → MemTier) : (s.modMem f).dev = s.dev := rfl
@[simp] theorem State.modMem_host (f : MemTier → MemTier) : (s.modMem f).host = s.host := rfl
@[simp] theorem State.modMem_ctxs (f : MemTier → MemTier) : (s.modMem f).ctxs = s.ctxs := rfl
@[simp] theorem State.modMem_epochs (f : MemTier → MemTier) : (s.modMem f).epochs = s.epochs := rfl
@[simp] theorem State.modMem_tillers (f : MemTier → MemTier) : (s.modMem f).tillers = s.tillers := rfl
@[simp] theorem State.modMem_fab (f : MemTier → MemTier) : (s.modMem f).fab = s.fab := rfl
@[simp] theorem State.modMem_ports (f : MemTier → MemTier) : (s.modMem f).ports = s.ports := rfl
@[simp] theorem State.modMem_oes (f : MemTier → MemTier) : (s.modMem f).oes = s.oes := rfl
@[simp] theorem State.modMem_mem (f : MemTier → MemTier) : (s.modMem f).mem = f s.mem := rfl
@[simp] theorem State.modMem_seed (f : MemTier → MemTier) : (s.modMem f).seed = s.seed := rfl
@[simp] theorem State.modMem_slots (f : MemTier → MemTier) : (s.modMem f).slots = s.slots := rfl
@[simp] theorem State.modMem_pfx (f : MemTier → MemTier) : (s.modMem f).pfx = s.pfx := rfl
@[simp] theorem State.modMem_fw (f : MemTier → MemTier) : (s.modMem f).fw = s.fw := rfl
@[simp] theorem State.modMem_alm (f : MemTier → MemTier) : (s.modMem f).alm = s.alm := rfl
@[simp] theorem State.modMem_shadow (f : MemTier → MemTier) : (s.modMem f).shadow = s.shadow := rfl
@[simp] theorem State.modMem_ctr (f : MemTier → MemTier) : (s.modMem f).ctr = s.ctr := rfl
@[simp] theorem State.modMem_freeCtr (f : MemTier → MemTier) : (s.modMem f).freeCtr = s.freeCtr := rfl
@[simp] theorem State.modMem_tl' (f : MemTier → MemTier) (u : Nat) : (s.modMem f).tl u = s.tl u := rfl
@[simp] theorem State.modMem_ctx' (f : MemTier → MemTier) (u : Nat) : (s.modMem f).ctx u = s.ctx u := rfl
@[simp] theorem State.modMem_port' (f : MemTier → MemTier) (u : Nat) : (s.modMem f).port u = s.port u := rfl
@[simp] theorem State.modMem_slot' (f : MemTier → MemTier) (u : Nat) : (s.modMem f).slot u = s.slot u := rfl
@[simp] theorem State.modMem_ring' (f : MemTier → MemTier) (u : Nat) : (s.modMem f).ring u = s.ring u := rfl
@[simp] theorem State.modMem_slice' (f : MemTier → MemTier) (u : Nat) : (s.modMem f).slice u = s.slice u := rfl
@[simp] theorem State.modMem_sq' (f : MemTier → MemTier) (u : Nat) : (s.modMem f).sq u = s.sq u := rfl
@[simp] theorem State.modMem_oe' (f : MemTier → MemTier) (u : Nat) : (s.modMem f).oe u = s.oe u := rfl
@[simp] theorem State.modMem_proc' (f : MemTier → MemTier) (u : Nat) : (s.modMem f).proc u = s.proc u := rfl
@[simp] theorem State.modMem_t3' (f : MemTier → MemTier) : (s.modMem f).t3 = s.t3 := rfl
@[simp] theorem State.modMem_now' (f : MemTier → MemTier) : (s.modMem f).now = s.now := rfl
@[simp] theorem State.modMem_live' (f : MemTier → MemTier) : (s.modMem f).live = s.live := rfl

/-! ### modSeed -/

@[simp] theorem State.modSeed_pending (f : Seedbank → Seedbank) : (s.modSeed f).pending = s.pending := rfl
@[simp] theorem State.modSeed_clk (f : Seedbank → Seedbank) : (s.modSeed f).clk = s.clk := rfl
@[simp] theorem State.modSeed_pwr (f : Seedbank → Seedbank) : (s.modSeed f).pwr = s.pwr := rfl
@[simp] theorem State.modSeed_part (f : Seedbank → Seedbank) : (s.modSeed f).part = s.part := rfl
@[simp] theorem State.modSeed_dev (f : Seedbank → Seedbank) : (s.modSeed f).dev = s.dev := rfl
@[simp] theorem State.modSeed_host (f : Seedbank → Seedbank) : (s.modSeed f).host = s.host := rfl
@[simp] theorem State.modSeed_ctxs (f : Seedbank → Seedbank) : (s.modSeed f).ctxs = s.ctxs := rfl
@[simp] theorem State.modSeed_epochs (f : Seedbank → Seedbank) : (s.modSeed f).epochs = s.epochs := rfl
@[simp] theorem State.modSeed_tillers (f : Seedbank → Seedbank) : (s.modSeed f).tillers = s.tillers := rfl
@[simp] theorem State.modSeed_fab (f : Seedbank → Seedbank) : (s.modSeed f).fab = s.fab := rfl
@[simp] theorem State.modSeed_ports (f : Seedbank → Seedbank) : (s.modSeed f).ports = s.ports := rfl
@[simp] theorem State.modSeed_oes (f : Seedbank → Seedbank) : (s.modSeed f).oes = s.oes := rfl
@[simp] theorem State.modSeed_mem (f : Seedbank → Seedbank) : (s.modSeed f).mem = s.mem := rfl
@[simp] theorem State.modSeed_seed (f : Seedbank → Seedbank) : (s.modSeed f).seed = f s.seed := rfl
@[simp] theorem State.modSeed_slots (f : Seedbank → Seedbank) : (s.modSeed f).slots = s.slots := rfl
@[simp] theorem State.modSeed_pfx (f : Seedbank → Seedbank) : (s.modSeed f).pfx = s.pfx := rfl
@[simp] theorem State.modSeed_fw (f : Seedbank → Seedbank) : (s.modSeed f).fw = s.fw := rfl
@[simp] theorem State.modSeed_alm (f : Seedbank → Seedbank) : (s.modSeed f).alm = s.alm := rfl
@[simp] theorem State.modSeed_shadow (f : Seedbank → Seedbank) : (s.modSeed f).shadow = s.shadow := rfl
@[simp] theorem State.modSeed_ctr (f : Seedbank → Seedbank) : (s.modSeed f).ctr = s.ctr := rfl
@[simp] theorem State.modSeed_freeCtr (f : Seedbank → Seedbank) : (s.modSeed f).freeCtr = s.freeCtr := rfl
@[simp] theorem State.modSeed_tl' (f : Seedbank → Seedbank) (u : Nat) : (s.modSeed f).tl u = s.tl u := rfl
@[simp] theorem State.modSeed_ctx' (f : Seedbank → Seedbank) (u : Nat) : (s.modSeed f).ctx u = s.ctx u := rfl
@[simp] theorem State.modSeed_port' (f : Seedbank → Seedbank) (u : Nat) : (s.modSeed f).port u = s.port u := rfl
@[simp] theorem State.modSeed_slot' (f : Seedbank → Seedbank) (u : Nat) : (s.modSeed f).slot u = s.slot u := rfl
@[simp] theorem State.modSeed_ring' (f : Seedbank → Seedbank) (u : Nat) : (s.modSeed f).ring u = s.ring u := rfl
@[simp] theorem State.modSeed_slice' (f : Seedbank → Seedbank) (u : Nat) : (s.modSeed f).slice u = s.slice u := rfl
@[simp] theorem State.modSeed_sq' (f : Seedbank → Seedbank) (u : Nat) : (s.modSeed f).sq u = s.sq u := rfl
@[simp] theorem State.modSeed_oe' (f : Seedbank → Seedbank) (u : Nat) : (s.modSeed f).oe u = s.oe u := rfl
@[simp] theorem State.modSeed_cxl' (f : Seedbank → Seedbank) (u : Nat) : (s.modSeed f).cxl u = s.cxl u := rfl
@[simp] theorem State.modSeed_proc' (f : Seedbank → Seedbank) (u : Nat) : (s.modSeed f).proc u = s.proc u := rfl
@[simp] theorem State.modSeed_t3' (f : Seedbank → Seedbank) : (s.modSeed f).t3 = s.t3 := rfl
@[simp] theorem State.modSeed_now' (f : Seedbank → Seedbank) : (s.modSeed f).now = s.now := rfl
@[simp] theorem State.modSeed_live' (f : Seedbank → Seedbank) : (s.modSeed f).live = s.live := rfl

/-! ### modPfx -/

@[simp] theorem State.modPfx_pending (f : Prefix → Prefix) : (s.modPfx f).pending = s.pending := rfl
@[simp] theorem State.modPfx_clk (f : Prefix → Prefix) : (s.modPfx f).clk = s.clk := rfl
@[simp] theorem State.modPfx_pwr (f : Prefix → Prefix) : (s.modPfx f).pwr = s.pwr := rfl
@[simp] theorem State.modPfx_part (f : Prefix → Prefix) : (s.modPfx f).part = s.part := rfl
@[simp] theorem State.modPfx_dev (f : Prefix → Prefix) : (s.modPfx f).dev = s.dev := rfl
@[simp] theorem State.modPfx_host (f : Prefix → Prefix) : (s.modPfx f).host = s.host := rfl
@[simp] theorem State.modPfx_ctxs (f : Prefix → Prefix) : (s.modPfx f).ctxs = s.ctxs := rfl
@[simp] theorem State.modPfx_epochs (f : Prefix → Prefix) : (s.modPfx f).epochs = s.epochs := rfl
@[simp] theorem State.modPfx_tillers (f : Prefix → Prefix) : (s.modPfx f).tillers = s.tillers := rfl
@[simp] theorem State.modPfx_fab (f : Prefix → Prefix) : (s.modPfx f).fab = s.fab := rfl
@[simp] theorem State.modPfx_ports (f : Prefix → Prefix) : (s.modPfx f).ports = s.ports := rfl
@[simp] theorem State.modPfx_oes (f : Prefix → Prefix) : (s.modPfx f).oes = s.oes := rfl
@[simp] theorem State.modPfx_mem (f : Prefix → Prefix) : (s.modPfx f).mem = s.mem := rfl
@[simp] theorem State.modPfx_seed (f : Prefix → Prefix) : (s.modPfx f).seed = s.seed := rfl
@[simp] theorem State.modPfx_slots (f : Prefix → Prefix) : (s.modPfx f).slots = s.slots := rfl
@[simp] theorem State.modPfx_pfx (f : Prefix → Prefix) : (s.modPfx f).pfx = f s.pfx := rfl
@[simp] theorem State.modPfx_fw (f : Prefix → Prefix) : (s.modPfx f).fw = s.fw := rfl
@[simp] theorem State.modPfx_alm (f : Prefix → Prefix) : (s.modPfx f).alm = s.alm := rfl
@[simp] theorem State.modPfx_shadow (f : Prefix → Prefix) : (s.modPfx f).shadow = s.shadow := rfl
@[simp] theorem State.modPfx_ctr (f : Prefix → Prefix) : (s.modPfx f).ctr = s.ctr := rfl
@[simp] theorem State.modPfx_freeCtr (f : Prefix → Prefix) : (s.modPfx f).freeCtr = s.freeCtr := rfl
@[simp] theorem State.modPfx_tl' (f : Prefix → Prefix) (u : Nat) : (s.modPfx f).tl u = s.tl u := rfl
@[simp] theorem State.modPfx_ctx' (f : Prefix → Prefix) (u : Nat) : (s.modPfx f).ctx u = s.ctx u := rfl
@[simp] theorem State.modPfx_port' (f : Prefix → Prefix) (u : Nat) : (s.modPfx f).port u = s.port u := rfl
@[simp] theorem State.modPfx_slot' (f : Prefix → Prefix) (u : Nat) : (s.modPfx f).slot u = s.slot u := rfl
@[simp] theorem State.modPfx_ring' (f : Prefix → Prefix) (u : Nat) : (s.modPfx f).ring u = s.ring u := rfl
@[simp] theorem State.modPfx_slice' (f : Prefix → Prefix) (u : Nat) : (s.modPfx f).slice u = s.slice u := rfl
@[simp] theorem State.modPfx_sq' (f : Prefix → Prefix) (u : Nat) : (s.modPfx f).sq u = s.sq u := rfl
@[simp] theorem State.modPfx_oe' (f : Prefix → Prefix) (u : Nat) : (s.modPfx f).oe u = s.oe u := rfl
@[simp] theorem State.modPfx_cxl' (f : Prefix → Prefix) (u : Nat) : (s.modPfx f).cxl u = s.cxl u := rfl
@[simp] theorem State.modPfx_proc' (f : Prefix → Prefix) (u : Nat) : (s.modPfx f).proc u = s.proc u := rfl
@[simp] theorem State.modPfx_t3' (f : Prefix → Prefix) : (s.modPfx f).t3 = s.t3 := rfl
@[simp] theorem State.modPfx_now' (f : Prefix → Prefix) : (s.modPfx f).now = s.now := rfl
@[simp] theorem State.modPfx_live' (f : Prefix → Prefix) : (s.modPfx f).live = s.live := rfl

/-! ### modAlm -/

@[simp] theorem State.modAlm_pending (f : Almanac → Almanac) : (s.modAlm f).pending = s.pending := rfl
@[simp] theorem State.modAlm_clk (f : Almanac → Almanac) : (s.modAlm f).clk = s.clk := rfl
@[simp] theorem State.modAlm_pwr (f : Almanac → Almanac) : (s.modAlm f).pwr = s.pwr := rfl
@[simp] theorem State.modAlm_part (f : Almanac → Almanac) : (s.modAlm f).part = s.part := rfl
@[simp] theorem State.modAlm_dev (f : Almanac → Almanac) : (s.modAlm f).dev = s.dev := rfl
@[simp] theorem State.modAlm_host (f : Almanac → Almanac) : (s.modAlm f).host = s.host := rfl
@[simp] theorem State.modAlm_ctxs (f : Almanac → Almanac) : (s.modAlm f).ctxs = s.ctxs := rfl
@[simp] theorem State.modAlm_epochs (f : Almanac → Almanac) : (s.modAlm f).epochs = s.epochs := rfl
@[simp] theorem State.modAlm_tillers (f : Almanac → Almanac) : (s.modAlm f).tillers = s.tillers := rfl
@[simp] theorem State.modAlm_fab (f : Almanac → Almanac) : (s.modAlm f).fab = s.fab := rfl
@[simp] theorem State.modAlm_ports (f : Almanac → Almanac) : (s.modAlm f).ports = s.ports := rfl
@[simp] theorem State.modAlm_oes (f : Almanac → Almanac) : (s.modAlm f).oes = s.oes := rfl
@[simp] theorem State.modAlm_mem (f : Almanac → Almanac) : (s.modAlm f).mem = s.mem := rfl
@[simp] theorem State.modAlm_seed (f : Almanac → Almanac) : (s.modAlm f).seed = s.seed := rfl
@[simp] theorem State.modAlm_slots (f : Almanac → Almanac) : (s.modAlm f).slots = s.slots := rfl
@[simp] theorem State.modAlm_pfx (f : Almanac → Almanac) : (s.modAlm f).pfx = s.pfx := rfl
@[simp] theorem State.modAlm_fw (f : Almanac → Almanac) : (s.modAlm f).fw = s.fw := rfl
@[simp] theorem State.modAlm_alm (f : Almanac → Almanac) : (s.modAlm f).alm = f s.alm := rfl
@[simp] theorem State.modAlm_shadow (f : Almanac → Almanac) : (s.modAlm f).shadow = s.shadow := rfl
@[simp] theorem State.modAlm_ctr (f : Almanac → Almanac) : (s.modAlm f).ctr = s.ctr := rfl
@[simp] theorem State.modAlm_freeCtr (f : Almanac → Almanac) : (s.modAlm f).freeCtr = s.freeCtr := rfl
@[simp] theorem State.modAlm_tl' (f : Almanac → Almanac) (u : Nat) : (s.modAlm f).tl u = s.tl u := rfl
@[simp] theorem State.modAlm_ctx' (f : Almanac → Almanac) (u : Nat) : (s.modAlm f).ctx u = s.ctx u := rfl
@[simp] theorem State.modAlm_port' (f : Almanac → Almanac) (u : Nat) : (s.modAlm f).port u = s.port u := rfl
@[simp] theorem State.modAlm_slot' (f : Almanac → Almanac) (u : Nat) : (s.modAlm f).slot u = s.slot u := rfl
@[simp] theorem State.modAlm_ring' (f : Almanac → Almanac) (u : Nat) : (s.modAlm f).ring u = s.ring u := rfl
@[simp] theorem State.modAlm_slice' (f : Almanac → Almanac) (u : Nat) : (s.modAlm f).slice u = s.slice u := rfl
@[simp] theorem State.modAlm_sq' (f : Almanac → Almanac) (u : Nat) : (s.modAlm f).sq u = s.sq u := rfl
@[simp] theorem State.modAlm_oe' (f : Almanac → Almanac) (u : Nat) : (s.modAlm f).oe u = s.oe u := rfl
@[simp] theorem State.modAlm_cxl' (f : Almanac → Almanac) (u : Nat) : (s.modAlm f).cxl u = s.cxl u := rfl
@[simp] theorem State.modAlm_proc' (f : Almanac → Almanac) (u : Nat) : (s.modAlm f).proc u = s.proc u := rfl
@[simp] theorem State.modAlm_t3' (f : Almanac → Almanac) : (s.modAlm f).t3 = s.t3 := rfl
@[simp] theorem State.modAlm_now' (f : Almanac → Almanac) : (s.modAlm f).now = s.now := rfl
@[simp] theorem State.modAlm_live' (f : Almanac → Almanac) : (s.modAlm f).live = s.live := rfl

/-! ### modSlice -/

@[simp] theorem State.modSlice_pending (i : Nat) (f : Slice → Slice) : (s.modSlice i f).pending = s.pending := rfl
@[simp] theorem State.modSlice_clk (i : Nat) (f : Slice → Slice) : (s.modSlice i f).clk = s.clk := rfl
@[simp] theorem State.modSlice_pwr (i : Nat) (f : Slice → Slice) : (s.modSlice i f).pwr = s.pwr := rfl
@[simp] theorem State.modSlice_part (i : Nat) (f : Slice → Slice) : (s.modSlice i f).part = s.part := rfl
@[simp] theorem State.modSlice_dev (i : Nat) (f : Slice → Slice) : (s.modSlice i f).dev = s.dev := rfl
@[simp] theorem State.modSlice_host (i : Nat) (f : Slice → Slice) : (s.modSlice i f).host = s.host := rfl
@[simp] theorem State.modSlice_ctxs (i : Nat) (f : Slice → Slice) : (s.modSlice i f).ctxs = s.ctxs := rfl
@[simp] theorem State.modSlice_epochs (i : Nat) (f : Slice → Slice) : (s.modSlice i f).epochs = s.epochs := rfl
@[simp] theorem State.modSlice_tillers (i : Nat) (f : Slice → Slice) : (s.modSlice i f).tillers = s.tillers := rfl
@[simp] theorem State.modSlice_fab (i : Nat) (f : Slice → Slice) : (s.modSlice i f).fab = { s.fab with slices := SMap.set sliceAt i (f (s.slice i)) s.fab.slices } := rfl
@[simp] theorem State.modSlice_ports (i : Nat) (f : Slice → Slice) : (s.modSlice i f).ports = s.ports := rfl
@[simp] theorem State.modSlice_oes (i : Nat) (f : Slice → Slice) : (s.modSlice i f).oes = s.oes := rfl
@[simp] theorem State.modSlice_mem (i : Nat) (f : Slice → Slice) : (s.modSlice i f).mem = s.mem := rfl
@[simp] theorem State.modSlice_seed (i : Nat) (f : Slice → Slice) : (s.modSlice i f).seed = s.seed := rfl
@[simp] theorem State.modSlice_slots (i : Nat) (f : Slice → Slice) : (s.modSlice i f).slots = s.slots := rfl
@[simp] theorem State.modSlice_pfx (i : Nat) (f : Slice → Slice) : (s.modSlice i f).pfx = s.pfx := rfl
@[simp] theorem State.modSlice_fw (i : Nat) (f : Slice → Slice) : (s.modSlice i f).fw = s.fw := rfl
@[simp] theorem State.modSlice_alm (i : Nat) (f : Slice → Slice) : (s.modSlice i f).alm = s.alm := rfl
@[simp] theorem State.modSlice_shadow (i : Nat) (f : Slice → Slice) : (s.modSlice i f).shadow = s.shadow := rfl
@[simp] theorem State.modSlice_ctr (i : Nat) (f : Slice → Slice) : (s.modSlice i f).ctr = s.ctr := rfl
@[simp] theorem State.modSlice_freeCtr (i : Nat) (f : Slice → Slice) : (s.modSlice i f).freeCtr = s.freeCtr := rfl
@[simp] theorem State.modSlice_tl' (i : Nat) (f : Slice → Slice) (u : Nat) : (s.modSlice i f).tl u = s.tl u := rfl
@[simp] theorem State.modSlice_ctx' (i : Nat) (f : Slice → Slice) (u : Nat) : (s.modSlice i f).ctx u = s.ctx u := rfl
@[simp] theorem State.modSlice_port' (i : Nat) (f : Slice → Slice) (u : Nat) : (s.modSlice i f).port u = s.port u := rfl
@[simp] theorem State.modSlice_slot' (i : Nat) (f : Slice → Slice) (u : Nat) : (s.modSlice i f).slot u = s.slot u := rfl
@[simp] theorem State.modSlice_ring' (i : Nat) (f : Slice → Slice) (u : Nat) : (s.modSlice i f).ring u = s.ring u := rfl
@[simp] theorem State.modSlice_slice' (i : Nat) (f : Slice → Slice) (u : Nat) : (s.modSlice i f).slice u = if u = i then f (s.slice i) else s.slice u := SMap.get_set _ _ _ _ _
@[simp] theorem State.modSlice_sq' (i : Nat) (f : Slice → Slice) (u : Nat) : (s.modSlice i f).sq u = s.sq u := rfl
@[simp] theorem State.modSlice_oe' (i : Nat) (f : Slice → Slice) (u : Nat) : (s.modSlice i f).oe u = s.oe u := rfl
@[simp] theorem State.modSlice_cxl' (i : Nat) (f : Slice → Slice) (u : Nat) : (s.modSlice i f).cxl u = s.cxl u := rfl
@[simp] theorem State.modSlice_proc' (i : Nat) (f : Slice → Slice) (u : Nat) : (s.modSlice i f).proc u = s.proc u := rfl
@[simp] theorem State.modSlice_t3' (i : Nat) (f : Slice → Slice) : (s.modSlice i f).t3 = s.t3 := rfl
@[simp] theorem State.modSlice_now' (i : Nat) (f : Slice → Slice) : (s.modSlice i f).now = s.now := rfl
@[simp] theorem State.modSlice_live' (i : Nat) (f : Slice → Slice) : (s.modSlice i f).live = s.live := rfl

/-! ### modProc -/

@[simp] theorem State.modProc_pending (q : Nat) (f : Proc → Proc) : (s.modProc q f).pending = s.pending := rfl
@[simp] theorem State.modProc_clk (q : Nat) (f : Proc → Proc) : (s.modProc q f).clk = s.clk := rfl
@[simp] theorem State.modProc_pwr (q : Nat) (f : Proc → Proc) : (s.modProc q f).pwr = s.pwr := rfl
@[simp] theorem State.modProc_part (q : Nat) (f : Proc → Proc) : (s.modProc q f).part = s.part := rfl
@[simp] theorem State.modProc_dev (q : Nat) (f : Proc → Proc) : (s.modProc q f).dev = s.dev := rfl
@[simp] theorem State.modProc_host (q : Nat) (f : Proc → Proc) : (s.modProc q f).host = s.host := rfl
@[simp] theorem State.modProc_ctxs (q : Nat) (f : Proc → Proc) : (s.modProc q f).ctxs = s.ctxs := rfl
@[simp] theorem State.modProc_epochs (q : Nat) (f : Proc → Proc) : (s.modProc q f).epochs = s.epochs := rfl
@[simp] theorem State.modProc_tillers (q : Nat) (f : Proc → Proc) : (s.modProc q f).tillers = s.tillers := rfl
@[simp] theorem State.modProc_fab (q : Nat) (f : Proc → Proc) : (s.modProc q f).fab = s.fab := rfl
@[simp] theorem State.modProc_ports (q : Nat) (f : Proc → Proc) : (s.modProc q f).ports = s.ports := rfl
@[simp] theorem State.modProc_oes (q : Nat) (f : Proc → Proc) : (s.modProc q f).oes = s.oes := rfl
@[simp] theorem State.modProc_mem (q : Nat) (f : Proc → Proc) : (s.modProc q f).mem = s.mem := rfl
@[simp] theorem State.modProc_seed (q : Nat) (f : Proc → Proc) : (s.modProc q f).seed = s.seed := rfl
@[simp] theorem State.modProc_slots (q : Nat) (f : Proc → Proc) : (s.modProc q f).slots = s.slots := rfl
@[simp] theorem State.modProc_pfx (q : Nat) (f : Proc → Proc) : (s.modProc q f).pfx = s.pfx := rfl
@[simp] theorem State.modProc_fw (q : Nat) (f : Proc → Proc) : (s.modProc q f).fw = { s.fw with procs := SMap.set procAt q (f (s.proc q)) s.fw.procs } := rfl
@[simp] theorem State.modProc_alm (q : Nat) (f : Proc → Proc) : (s.modProc q f).alm = s.alm := rfl
@[simp] theorem State.modProc_shadow (q : Nat) (f : Proc → Proc) : (s.modProc q f).shadow = s.shadow := rfl
@[simp] theorem State.modProc_ctr (q : Nat) (f : Proc → Proc) : (s.modProc q f).ctr = s.ctr := rfl
@[simp] theorem State.modProc_freeCtr (q : Nat) (f : Proc → Proc) : (s.modProc q f).freeCtr = s.freeCtr := rfl
@[simp] theorem State.modProc_tl' (q : Nat) (f : Proc → Proc) (u : Nat) : (s.modProc q f).tl u = s.tl u := rfl
@[simp] theorem State.modProc_ctx' (q : Nat) (f : Proc → Proc) (u : Nat) : (s.modProc q f).ctx u = s.ctx u := rfl
@[simp] theorem State.modProc_port' (q : Nat) (f : Proc → Proc) (u : Nat) : (s.modProc q f).port u = s.port u := rfl
@[simp] theorem State.modProc_slot' (q : Nat) (f : Proc → Proc) (u : Nat) : (s.modProc q f).slot u = s.slot u := rfl
@[simp] theorem State.modProc_ring' (q : Nat) (f : Proc → Proc) (u : Nat) : (s.modProc q f).ring u = s.ring u := rfl
@[simp] theorem State.modProc_slice' (q : Nat) (f : Proc → Proc) (u : Nat) : (s.modProc q f).slice u = s.slice u := rfl
@[simp] theorem State.modProc_sq' (q : Nat) (f : Proc → Proc) (u : Nat) : (s.modProc q f).sq u = s.sq u := rfl
@[simp] theorem State.modProc_oe' (q : Nat) (f : Proc → Proc) (u : Nat) : (s.modProc q f).oe u = s.oe u := rfl
@[simp] theorem State.modProc_cxl' (q : Nat) (f : Proc → Proc) (u : Nat) : (s.modProc q f).cxl u = s.cxl u := rfl
@[simp] theorem State.modProc_proc' (q : Nat) (f : Proc → Proc) (u : Nat) : (s.modProc q f).proc u = if u = q then f (s.proc q) else s.proc u := SMap.get_set _ _ _ _ _
@[simp] theorem State.modProc_t3' (q : Nat) (f : Proc → Proc) : (s.modProc q f).t3 = s.t3 := rfl
@[simp] theorem State.modProc_now' (q : Nat) (f : Proc → Proc) : (s.modProc q f).now = s.now := rfl
@[simp] theorem State.modProc_live' (q : Nat) (f : Proc → Proc) : (s.modProc q f).live = s.live := rfl

/-! ### modOe -/

@[simp] theorem State.modOe_pending (o : Nat) (f : Engine9 → Engine9) : (s.modOe o f).pending = s.pending := rfl
@[simp] theorem State.modOe_clk (o : Nat) (f : Engine9 → Engine9) : (s.modOe o f).clk = s.clk := rfl
@[simp] theorem State.modOe_pwr (o : Nat) (f : Engine9 → Engine9) : (s.modOe o f).pwr = s.pwr := rfl
@[simp] theorem State.modOe_part (o : Nat) (f : Engine9 → Engine9) : (s.modOe o f).part = s.part := rfl
@[simp] theorem State.modOe_dev (o : Nat) (f : Engine9 → Engine9) : (s.modOe o f).dev = s.dev := rfl
@[simp] theorem State.modOe_host (o : Nat) (f : Engine9 → Engine9) : (s.modOe o f).host = s.host := rfl
@[simp] theorem State.modOe_ctxs (o : Nat) (f : Engine9 → Engine9) : (s.modOe o f).ctxs = s.ctxs := rfl
@[simp] theorem State.modOe_epochs (o : Nat) (f : Engine9 → Engine9) : (s.modOe o f).epochs = s.epochs := rfl
@[simp] theorem State.modOe_tillers (o : Nat) (f : Engine9 → Engine9) : (s.modOe o f).tillers = s.tillers := rfl
@[simp] theorem State.modOe_fab (o : Nat) (f : Engine9 → Engine9) : (s.modOe o f).fab = s.fab := rfl
@[simp] theorem State.modOe_ports (o : Nat) (f : Engine9 → Engine9) : (s.modOe o f).ports = s.ports := rfl
@[simp] theorem State.modOe_oes (o : Nat) (f : Engine9 → Engine9) : (s.modOe o f).oes = SMap.set oeAt o (f (s.oe o)) s.oes := rfl
@[simp] theorem State.modOe_mem (o : Nat) (f : Engine9 → Engine9) : (s.modOe o f).mem = s.mem := rfl
@[simp] theorem State.modOe_seed (o : Nat) (f : Engine9 → Engine9) : (s.modOe o f).seed = s.seed := rfl
@[simp] theorem State.modOe_slots (o : Nat) (f : Engine9 → Engine9) : (s.modOe o f).slots = s.slots := rfl
@[simp] theorem State.modOe_pfx (o : Nat) (f : Engine9 → Engine9) : (s.modOe o f).pfx = s.pfx := rfl
@[simp] theorem State.modOe_fw (o : Nat) (f : Engine9 → Engine9) : (s.modOe o f).fw = s.fw := rfl
@[simp] theorem State.modOe_alm (o : Nat) (f : Engine9 → Engine9) : (s.modOe o f).alm = s.alm := rfl
@[simp] theorem State.modOe_shadow (o : Nat) (f : Engine9 → Engine9) : (s.modOe o f).shadow = s.shadow := rfl
@[simp] theorem State.modOe_ctr (o : Nat) (f : Engine9 → Engine9) : (s.modOe o f).ctr = s.ctr := rfl
@[simp] theorem State.modOe_freeCtr (o : Nat) (f : Engine9 → Engine9) : (s.modOe o f).freeCtr = s.freeCtr := rfl
@[simp] theorem State.modOe_tl' (o : Nat) (f : Engine9 → Engine9) (u : Nat) : (s.modOe o f).tl u = s.tl u := rfl
@[simp] theorem State.modOe_ctx' (o : Nat) (f : Engine9 → Engine9) (u : Nat) : (s.modOe o f).ctx u = s.ctx u := rfl
@[simp] theorem State.modOe_port' (o : Nat) (f : Engine9 → Engine9) (u : Nat) : (s.modOe o f).port u = s.port u := rfl
@[simp] theorem State.modOe_slot' (o : Nat) (f : Engine9 → Engine9) (u : Nat) : (s.modOe o f).slot u = s.slot u := rfl
@[simp] theorem State.modOe_ring' (o : Nat) (f : Engine9 → Engine9) (u : Nat) : (s.modOe o f).ring u = s.ring u := rfl
@[simp] theorem State.modOe_slice' (o : Nat) (f : Engine9 → Engine9) (u : Nat) : (s.modOe o f).slice u = s.slice u := rfl
@[simp] theorem State.modOe_sq' (o : Nat) (f : Engine9 → Engine9) (u : Nat) : (s.modOe o f).sq u = s.sq u := rfl
@[simp] theorem State.modOe_oe' (o : Nat) (f : Engine9 → Engine9) (u : Nat) : (s.modOe o f).oe u = if u = o then f (s.oe o) else s.oe u := SMap.get_set _ _ _ _ _
@[simp] theorem State.modOe_cxl' (o : Nat) (f : Engine9 → Engine9) (u : Nat) : (s.modOe o f).cxl u = s.cxl u := rfl
@[simp] theorem State.modOe_proc' (o : Nat) (f : Engine9 → Engine9) (u : Nat) : (s.modOe o f).proc u = s.proc u := rfl
@[simp] theorem State.modOe_t3' (o : Nat) (f : Engine9 → Engine9) : (s.modOe o f).t3 = s.t3 := rfl
@[simp] theorem State.modOe_now' (o : Nat) (f : Engine9 → Engine9) : (s.modOe o f).now = s.now := rfl
@[simp] theorem State.modOe_live' (o : Nat) (f : Engine9 → Engine9) : (s.modOe o f).live = s.live := rfl

/-! ### modCxl -/

@[simp] theorem State.modCxl_pending (k : Nat) (f : Cxl → Cxl) : (s.modCxl k f).pending = s.pending := rfl
@[simp] theorem State.modCxl_clk (k : Nat) (f : Cxl → Cxl) : (s.modCxl k f).clk = s.clk := rfl
@[simp] theorem State.modCxl_pwr (k : Nat) (f : Cxl → Cxl) : (s.modCxl k f).pwr = s.pwr := rfl
@[simp] theorem State.modCxl_part (k : Nat) (f : Cxl → Cxl) : (s.modCxl k f).part = s.part := rfl
@[simp] theorem State.modCxl_dev (k : Nat) (f : Cxl → Cxl) : (s.modCxl k f).dev = s.dev := rfl
@[simp] theorem State.modCxl_host (k : Nat) (f : Cxl → Cxl) : (s.modCxl k f).host = s.host := rfl
@[simp] theorem State.modCxl_ctxs (k : Nat) (f : Cxl → Cxl) : (s.modCxl k f).ctxs = s.ctxs := rfl
@[simp] theorem State.modCxl_epochs (k : Nat) (f : Cxl → Cxl) : (s.modCxl k f).epochs = s.epochs := rfl
@[simp] theorem State.modCxl_tillers (k : Nat) (f : Cxl → Cxl) : (s.modCxl k f).tillers = s.tillers := rfl
@[simp] theorem State.modCxl_fab (k : Nat) (f : Cxl → Cxl) : (s.modCxl k f).fab = s.fab := rfl
@[simp] theorem State.modCxl_ports (k : Nat) (f : Cxl → Cxl) : (s.modCxl k f).ports = s.ports := rfl
@[simp] theorem State.modCxl_oes (k : Nat) (f : Cxl → Cxl) : (s.modCxl k f).oes = s.oes := rfl
@[simp] theorem State.modCxl_mem (k : Nat) (f : Cxl → Cxl) : (s.modCxl k f).mem = { s.mem with cxl := SMap.set cxlAt k (f (s.cxl k)) s.mem.cxl } := rfl
@[simp] theorem State.modCxl_seed (k : Nat) (f : Cxl → Cxl) : (s.modCxl k f).seed = s.seed := rfl
@[simp] theorem State.modCxl_slots (k : Nat) (f : Cxl → Cxl) : (s.modCxl k f).slots = s.slots := rfl
@[simp] theorem State.modCxl_pfx (k : Nat) (f : Cxl → Cxl) : (s.modCxl k f).pfx = s.pfx := rfl
@[simp] theorem State.modCxl_fw (k : Nat) (f : Cxl → Cxl) : (s.modCxl k f).fw = s.fw := rfl
@[simp] theorem State.modCxl_alm (k : Nat) (f : Cxl → Cxl) : (s.modCxl k f).alm = s.alm := rfl
@[simp] theorem State.modCxl_shadow (k : Nat) (f : Cxl → Cxl) : (s.modCxl k f).shadow = s.shadow := rfl
@[simp] theorem State.modCxl_ctr (k : Nat) (f : Cxl → Cxl) : (s.modCxl k f).ctr = s.ctr := rfl
@[simp] theorem State.modCxl_freeCtr (k : Nat) (f : Cxl → Cxl) : (s.modCxl k f).freeCtr = s.freeCtr := rfl
@[simp] theorem State.modCxl_tl' (k : Nat) (f : Cxl → Cxl) (u : Nat) : (s.modCxl k f).tl u = s.tl u := rfl
@[simp] theorem State.modCxl_ctx' (k : Nat) (f : Cxl → Cxl) (u : Nat) : (s.modCxl k f).ctx u = s.ctx u := rfl
@[simp] theorem State.modCxl_port' (k : Nat) (f : Cxl → Cxl) (u : Nat) : (s.modCxl k f).port u = s.port u := rfl
@[simp] theorem State.modCxl_slot' (k : Nat) (f : Cxl → Cxl) (u : Nat) : (s.modCxl k f).slot u = s.slot u := rfl
@[simp] theorem State.modCxl_ring' (k : Nat) (f : Cxl → Cxl) (u : Nat) : (s.modCxl k f).ring u = s.ring u := rfl
@[simp] theorem State.modCxl_slice' (k : Nat) (f : Cxl → Cxl) (u : Nat) : (s.modCxl k f).slice u = s.slice u := rfl
@[simp] theorem State.modCxl_sq' (k : Nat) (f : Cxl → Cxl) (u : Nat) : (s.modCxl k f).sq u = s.sq u := rfl
@[simp] theorem State.modCxl_oe' (k : Nat) (f : Cxl → Cxl) (u : Nat) : (s.modCxl k f).oe u = s.oe u := rfl
@[simp] theorem State.modCxl_cxl' (k : Nat) (f : Cxl → Cxl) (u : Nat) : (s.modCxl k f).cxl u = if u = k then f (s.cxl k) else s.cxl u := SMap.get_set _ _ _ _ _
@[simp] theorem State.modCxl_proc' (k : Nat) (f : Cxl → Cxl) (u : Nat) : (s.modCxl k f).proc u = s.proc u := rfl
@[simp] theorem State.modCxl_t3' (k : Nat) (f : Cxl → Cxl) : (s.modCxl k f).t3 = s.t3 := rfl
@[simp] theorem State.modCxl_now' (k : Nat) (f : Cxl → Cxl) : (s.modCxl k f).now = s.now := rfl
@[simp] theorem State.modCxl_live' (k : Nat) (f : Cxl → Cxl) : (s.modCxl k f).live = s.live := rfl

/-! ### setSq -/

@[simp] theorem State.setSq_pending (q : Nat) (l : List Pkt) : (s.setSq q l).pending = s.pending := rfl
@[simp] theorem State.setSq_clk (q : Nat) (l : List Pkt) : (s.setSq q l).clk = s.clk := rfl
@[simp] theorem State.setSq_pwr (q : Nat) (l : List Pkt) : (s.setSq q l).pwr = s.pwr := rfl
@[simp] theorem State.setSq_part (q : Nat) (l : List Pkt) : (s.setSq q l).part = s.part := rfl
@[simp] theorem State.setSq_dev (q : Nat) (l : List Pkt) : (s.setSq q l).dev = s.dev := rfl
@[simp] theorem State.setSq_host (q : Nat) (l : List Pkt) : (s.setSq q l).host = s.host := rfl
@[simp] theorem State.setSq_ctxs (q : Nat) (l : List Pkt) : (s.setSq q l).ctxs = s.ctxs := rfl
@[simp] theorem State.setSq_epochs (q : Nat) (l : List Pkt) : (s.setSq q l).epochs = s.epochs := rfl
@[simp] theorem State.setSq_tillers (q : Nat) (l : List Pkt) : (s.setSq q l).tillers = s.tillers := rfl
@[simp] theorem State.setSq_fab (q : Nat) (l : List Pkt) : (s.setSq q l).fab = { s.fab with sq := SMap.set nilAt q l s.fab.sq } := rfl
@[simp] theorem State.setSq_ports (q : Nat) (l : List Pkt) : (s.setSq q l).ports = s.ports := rfl
@[simp] theorem State.setSq_oes (q : Nat) (l : List Pkt) : (s.setSq q l).oes = s.oes := rfl
@[simp] theorem State.setSq_mem (q : Nat) (l : List Pkt) : (s.setSq q l).mem = s.mem := rfl
@[simp] theorem State.setSq_seed (q : Nat) (l : List Pkt) : (s.setSq q l).seed = s.seed := rfl
@[simp] theorem State.setSq_slots (q : Nat) (l : List Pkt) : (s.setSq q l).slots = s.slots := rfl
@[simp] theorem State.setSq_pfx (q : Nat) (l : List Pkt) : (s.setSq q l).pfx = s.pfx := rfl
@[simp] theorem State.setSq_fw (q : Nat) (l : List Pkt) : (s.setSq q l).fw = s.fw := rfl
@[simp] theorem State.setSq_alm (q : Nat) (l : List Pkt) : (s.setSq q l).alm = s.alm := rfl
@[simp] theorem State.setSq_shadow (q : Nat) (l : List Pkt) : (s.setSq q l).shadow = s.shadow := rfl
@[simp] theorem State.setSq_ctr (q : Nat) (l : List Pkt) : (s.setSq q l).ctr = s.ctr := rfl
@[simp] theorem State.setSq_freeCtr (q : Nat) (l : List Pkt) : (s.setSq q l).freeCtr = s.freeCtr := rfl
@[simp] theorem State.setSq_tl' (q : Nat) (l : List Pkt) (u : Nat) : (s.setSq q l).tl u = s.tl u := rfl
@[simp] theorem State.setSq_ctx' (q : Nat) (l : List Pkt) (u : Nat) : (s.setSq q l).ctx u = s.ctx u := rfl
@[simp] theorem State.setSq_port' (q : Nat) (l : List Pkt) (u : Nat) : (s.setSq q l).port u = s.port u := rfl
@[simp] theorem State.setSq_slot' (q : Nat) (l : List Pkt) (u : Nat) : (s.setSq q l).slot u = s.slot u := rfl
@[simp] theorem State.setSq_ring' (q : Nat) (l : List Pkt) (u : Nat) : (s.setSq q l).ring u = s.ring u := rfl
@[simp] theorem State.setSq_slice' (q : Nat) (l : List Pkt) (u : Nat) : (s.setSq q l).slice u = s.slice u := rfl
@[simp] theorem State.setSq_sq' (q : Nat) (l : List Pkt) (u : Nat) : (s.setSq q l).sq u = if u = q then l else s.sq u := SMap.get_set _ _ _ _ _
@[simp] theorem State.setSq_oe' (q : Nat) (l : List Pkt) (u : Nat) : (s.setSq q l).oe u = s.oe u := rfl
@[simp] theorem State.setSq_cxl' (q : Nat) (l : List Pkt) (u : Nat) : (s.setSq q l).cxl u = s.cxl u := rfl
@[simp] theorem State.setSq_proc' (q : Nat) (l : List Pkt) (u : Nat) : (s.setSq q l).proc u = s.proc u := rfl
@[simp] theorem State.setSq_t3' (q : Nat) (l : List Pkt) : (s.setSq q l).t3 = s.t3 := rfl
@[simp] theorem State.setSq_now' (q : Nat) (l : List Pkt) : (s.setSq q l).now = s.now := rfl
@[simp] theorem State.setSq_live' (q : Nat) (l : List Pkt) : (s.setSq q l).live = s.live := rfl

/-! ### drawn -/

@[simp] theorem State.drawn_pending : s.drawn.pending = s.pending := rfl
@[simp] theorem State.drawn_clk : s.drawn.clk = s.clk := rfl
@[simp] theorem State.drawn_pwr : s.drawn.pwr = s.pwr := rfl
@[simp] theorem State.drawn_part : s.drawn.part = s.part := rfl
@[simp] theorem State.drawn_dev : s.drawn.dev = s.dev := rfl
@[simp] theorem State.drawn_host : s.drawn.host = s.host := rfl
@[simp] theorem State.drawn_ctxs : s.drawn.ctxs = s.ctxs := rfl
@[simp] theorem State.drawn_epochs : s.drawn.epochs = s.epochs := rfl
@[simp] theorem State.drawn_tillers : s.drawn.tillers = s.tillers := rfl
@[simp] theorem State.drawn_fab : s.drawn.fab = s.fab := rfl
@[simp] theorem State.drawn_ports : s.drawn.ports = s.ports := rfl
@[simp] theorem State.drawn_oes : s.drawn.oes = s.oes := rfl
@[simp] theorem State.drawn_mem : s.drawn.mem = s.mem := rfl
@[simp] theorem State.drawn_seed : s.drawn.seed = s.seed := rfl
@[simp] theorem State.drawn_slots : s.drawn.slots = s.slots := rfl
@[simp] theorem State.drawn_pfx : s.drawn.pfx = s.pfx := rfl
@[simp] theorem State.drawn_fw : s.drawn.fw = s.fw := rfl
@[simp] theorem State.drawn_alm : s.drawn.alm = s.alm := rfl
@[simp] theorem State.drawn_shadow : s.drawn.shadow = s.shadow := rfl
@[simp] theorem State.drawn_ctr : s.drawn.ctr = s.ctr := rfl
@[simp] theorem State.drawn_freeCtr : s.drawn.freeCtr = s.freeCtr + 1 := rfl
@[simp] theorem State.drawn_tl' (u : Nat) : s.drawn.tl u = s.tl u := rfl
@[simp] theorem State.drawn_ctx' (u : Nat) : s.drawn.ctx u = s.ctx u := rfl
@[simp] theorem State.drawn_port' (u : Nat) : s.drawn.port u = s.port u := rfl
@[simp] theorem State.drawn_slot' (u : Nat) : s.drawn.slot u = s.slot u := rfl
@[simp] theorem State.drawn_ring' (u : Nat) : s.drawn.ring u = s.ring u := rfl
@[simp] theorem State.drawn_slice' (u : Nat) : s.drawn.slice u = s.slice u := rfl
@[simp] theorem State.drawn_sq' (u : Nat) : s.drawn.sq u = s.sq u := rfl
@[simp] theorem State.drawn_oe' (u : Nat) : s.drawn.oe u = s.oe u := rfl
@[simp] theorem State.drawn_cxl' (u : Nat) : s.drawn.cxl u = s.cxl u := rfl
@[simp] theorem State.drawn_proc' (u : Nat) : s.drawn.proc u = s.proc u := rfl
@[simp] theorem State.drawn_t3' : s.drawn.t3 = s.t3 := rfl
@[simp] theorem State.drawn_now' : s.drawn.now = s.now := rfl
@[simp] theorem State.drawn_live' : s.drawn.live = s.live := rfl

/-! ### count -/

@[simp] theorem State.count_pending (k n : Nat) : (s.count k n).pending = s.pending := rfl
@[simp] theorem State.count_clk (k n : Nat) : (s.count k n).clk = s.clk := rfl
@[simp] theorem State.count_pwr (k n : Nat) : (s.count k n).pwr = s.pwr := rfl
@[simp] theorem State.count_part (k n : Nat) : (s.count k n).part = s.part := rfl
@[simp] theorem State.count_dev (k n : Nat) : (s.count k n).dev = s.dev := rfl
@[simp] theorem State.count_host (k n : Nat) : (s.count k n).host = s.host := rfl
@[simp] theorem State.count_ctxs (k n : Nat) : (s.count k n).ctxs = s.ctxs := rfl
@[simp] theorem State.count_epochs (k n : Nat) : (s.count k n).epochs = s.epochs := rfl
@[simp] theorem State.count_tillers (k n : Nat) : (s.count k n).tillers = s.tillers := rfl
@[simp] theorem State.count_fab (k n : Nat) : (s.count k n).fab = s.fab := rfl
@[simp] theorem State.count_ports (k n : Nat) : (s.count k n).ports = s.ports := rfl
@[simp] theorem State.count_oes (k n : Nat) : (s.count k n).oes = s.oes := rfl
@[simp] theorem State.count_mem (k n : Nat) : (s.count k n).mem = s.mem := rfl
@[simp] theorem State.count_seed (k n : Nat) : (s.count k n).seed = s.seed := rfl
@[simp] theorem State.count_slots (k n : Nat) : (s.count k n).slots = s.slots := rfl
@[simp] theorem State.count_pfx (k n : Nat) : (s.count k n).pfx = s.pfx := rfl
@[simp] theorem State.count_fw (k n : Nat) : (s.count k n).fw = s.fw := rfl
@[simp] theorem State.count_alm (k n : Nat) : (s.count k n).alm = s.alm := rfl
@[simp] theorem State.count_shadow (k n : Nat) : (s.count k n).shadow = s.shadow := rfl
@[simp] theorem State.count_ctr (k n : Nat) : (s.count k n).ctr = SMap.set zeroBits k (s.counter k + BitVec.ofNat 64 n) s.ctr := rfl
@[simp] theorem State.count_freeCtr (k n : Nat) : (s.count k n).freeCtr = s.freeCtr := rfl
@[simp] theorem State.count_tl' (k n : Nat) (u : Nat) : (s.count k n).tl u = s.tl u := rfl
@[simp] theorem State.count_ctx' (k n : Nat) (u : Nat) : (s.count k n).ctx u = s.ctx u := rfl
@[simp] theorem State.count_port' (k n : Nat) (u : Nat) : (s.count k n).port u = s.port u := rfl
@[simp] theorem State.count_slot' (k n : Nat) (u : Nat) : (s.count k n).slot u = s.slot u := rfl
@[simp] theorem State.count_ring' (k n : Nat) (u : Nat) : (s.count k n).ring u = s.ring u := rfl
@[simp] theorem State.count_slice' (k n : Nat) (u : Nat) : (s.count k n).slice u = s.slice u := rfl
@[simp] theorem State.count_sq' (k n : Nat) (u : Nat) : (s.count k n).sq u = s.sq u := rfl
@[simp] theorem State.count_oe' (k n : Nat) (u : Nat) : (s.count k n).oe u = s.oe u := rfl
@[simp] theorem State.count_cxl' (k n : Nat) (u : Nat) : (s.count k n).cxl u = s.cxl u := rfl
@[simp] theorem State.count_proc' (k n : Nat) (u : Nat) : (s.count k n).proc u = s.proc u := rfl
@[simp] theorem State.count_t3' (k n : Nat) : (s.count k n).t3 = s.t3 := rfl
@[simp] theorem State.count_now' (k n : Nat) : (s.count k n).now = s.now := rfl
@[simp] theorem State.count_live' (k n : Nat) : (s.count k n).live = s.live := rfl

/-! ### writeHost -/

@[simp] theorem State.writeHost_pending (a : Nat) (d : List Byte) : (s.writeHost a d).pending = s.pending := rfl
@[simp] theorem State.writeHost_clk (a : Nat) (d : List Byte) : (s.writeHost a d).clk = s.clk := rfl
@[simp] theorem State.writeHost_pwr (a : Nat) (d : List Byte) : (s.writeHost a d).pwr = s.pwr := rfl
@[simp] theorem State.writeHost_part (a : Nat) (d : List Byte) : (s.writeHost a d).part = s.part := rfl
@[simp] theorem State.writeHost_dev (a : Nat) (d : List Byte) : (s.writeHost a d).dev = s.dev := rfl
@[simp] theorem State.writeHost_host (a : Nat) (d : List Byte) : (s.writeHost a d).host = { s.host with mem := s.host.mem.write a d } := rfl
@[simp] theorem State.writeHost_ctxs (a : Nat) (d : List Byte) : (s.writeHost a d).ctxs = s.ctxs := rfl
@[simp] theorem State.writeHost_epochs (a : Nat) (d : List Byte) : (s.writeHost a d).epochs = s.epochs := rfl
@[simp] theorem State.writeHost_tillers (a : Nat) (d : List Byte) : (s.writeHost a d).tillers = s.tillers := rfl
@[simp] theorem State.writeHost_fab (a : Nat) (d : List Byte) : (s.writeHost a d).fab = s.fab := rfl
@[simp] theorem State.writeHost_ports (a : Nat) (d : List Byte) : (s.writeHost a d).ports = s.ports := rfl
@[simp] theorem State.writeHost_oes (a : Nat) (d : List Byte) : (s.writeHost a d).oes = s.oes := rfl
@[simp] theorem State.writeHost_mem (a : Nat) (d : List Byte) : (s.writeHost a d).mem = s.mem := rfl
@[simp] theorem State.writeHost_seed (a : Nat) (d : List Byte) : (s.writeHost a d).seed = s.seed := rfl
@[simp] theorem State.writeHost_slots (a : Nat) (d : List Byte) : (s.writeHost a d).slots = s.slots := rfl
@[simp] theorem State.writeHost_pfx (a : Nat) (d : List Byte) : (s.writeHost a d).pfx = s.pfx := rfl
@[simp] theorem State.writeHost_fw (a : Nat) (d : List Byte) : (s.writeHost a d).fw = s.fw := rfl
@[simp] theorem State.writeHost_alm (a : Nat) (d : List Byte) : (s.writeHost a d).alm = s.alm := rfl
@[simp] theorem State.writeHost_shadow (a : Nat) (d : List Byte) : (s.writeHost a d).shadow = s.shadow := rfl
@[simp] theorem State.writeHost_ctr (a : Nat) (d : List Byte) : (s.writeHost a d).ctr = s.ctr := rfl
@[simp] theorem State.writeHost_freeCtr (a : Nat) (d : List Byte) : (s.writeHost a d).freeCtr = s.freeCtr := rfl
@[simp] theorem State.writeHost_tl' (a : Nat) (d : List Byte) (u : Nat) : (s.writeHost a d).tl u = s.tl u := rfl
@[simp] theorem State.writeHost_ctx' (a : Nat) (d : List Byte) (u : Nat) : (s.writeHost a d).ctx u = s.ctx u := rfl
@[simp] theorem State.writeHost_port' (a : Nat) (d : List Byte) (u : Nat) : (s.writeHost a d).port u = s.port u := rfl
@[simp] theorem State.writeHost_slot' (a : Nat) (d : List Byte) (u : Nat) : (s.writeHost a d).slot u = s.slot u := rfl
@[simp] theorem State.writeHost_ring' (a : Nat) (d : List Byte) (u : Nat) : (s.writeHost a d).ring u = s.ring u := rfl
@[simp] theorem State.writeHost_slice' (a : Nat) (d : List Byte) (u : Nat) : (s.writeHost a d).slice u = s.slice u := rfl
@[simp] theorem State.writeHost_sq' (a : Nat) (d : List Byte) (u : Nat) : (s.writeHost a d).sq u = s.sq u := rfl
@[simp] theorem State.writeHost_oe' (a : Nat) (d : List Byte) (u : Nat) : (s.writeHost a d).oe u = s.oe u := rfl
@[simp] theorem State.writeHost_cxl' (a : Nat) (d : List Byte) (u : Nat) : (s.writeHost a d).cxl u = s.cxl u := rfl
@[simp] theorem State.writeHost_proc' (a : Nat) (d : List Byte) (u : Nat) : (s.writeHost a d).proc u = s.proc u := rfl
@[simp] theorem State.writeHost_t3' (a : Nat) (d : List Byte) : (s.writeHost a d).t3 = s.t3 := rfl
@[simp] theorem State.writeHost_now' (a : Nat) (d : List Byte) : (s.writeHost a d).now = s.now := rfl
@[simp] theorem State.writeHost_live' (a : Nat) (d : List Byte) : (s.writeHost a d).live = s.live := rfl

/-! ### modCmd -/

@[simp] theorem State.modCmd_pending (c : Nat) (f : Cmd → Cmd) : (s.modCmd c f).pending = s.pending := rfl
@[simp] theorem State.modCmd_clk (c : Nat) (f : Cmd → Cmd) : (s.modCmd c f).clk = s.clk := rfl
@[simp] theorem State.modCmd_pwr (c : Nat) (f : Cmd → Cmd) : (s.modCmd c f).pwr = s.pwr := rfl
@[simp] theorem State.modCmd_part (c : Nat) (f : Cmd → Cmd) : (s.modCmd c f).part = s.part := rfl
@[simp] theorem State.modCmd_dev (c : Nat) (f : Cmd → Cmd) : (s.modCmd c f).dev = s.dev := rfl
@[simp] theorem State.modCmd_host (c : Nat) (f : Cmd → Cmd) : (s.modCmd c f).host = { s.host with cmds := s.host.cmds.map fun k => if k.id = c then f k else k } := rfl
@[simp] theorem State.modCmd_ctxs (c : Nat) (f : Cmd → Cmd) : (s.modCmd c f).ctxs = s.ctxs := rfl
@[simp] theorem State.modCmd_epochs (c : Nat) (f : Cmd → Cmd) : (s.modCmd c f).epochs = s.epochs := rfl
@[simp] theorem State.modCmd_tillers (c : Nat) (f : Cmd → Cmd) : (s.modCmd c f).tillers = s.tillers := rfl
@[simp] theorem State.modCmd_fab (c : Nat) (f : Cmd → Cmd) : (s.modCmd c f).fab = s.fab := rfl
@[simp] theorem State.modCmd_ports (c : Nat) (f : Cmd → Cmd) : (s.modCmd c f).ports = s.ports := rfl
@[simp] theorem State.modCmd_oes (c : Nat) (f : Cmd → Cmd) : (s.modCmd c f).oes = s.oes := rfl
@[simp] theorem State.modCmd_mem (c : Nat) (f : Cmd → Cmd) : (s.modCmd c f).mem = s.mem := rfl
@[simp] theorem State.modCmd_seed (c : Nat) (f : Cmd → Cmd) : (s.modCmd c f).seed = s.seed := rfl
@[simp] theorem State.modCmd_slots (c : Nat) (f : Cmd → Cmd) : (s.modCmd c f).slots = s.slots := rfl
@[simp] theorem State.modCmd_pfx (c : Nat) (f : Cmd → Cmd) : (s.modCmd c f).pfx = s.pfx := rfl
@[simp] theorem State.modCmd_fw (c : Nat) (f : Cmd → Cmd) : (s.modCmd c f).fw = s.fw := rfl
@[simp] theorem State.modCmd_alm (c : Nat) (f : Cmd → Cmd) : (s.modCmd c f).alm = s.alm := rfl
@[simp] theorem State.modCmd_shadow (c : Nat) (f : Cmd → Cmd) : (s.modCmd c f).shadow = s.shadow := rfl
@[simp] theorem State.modCmd_ctr (c : Nat) (f : Cmd → Cmd) : (s.modCmd c f).ctr = s.ctr := rfl
@[simp] theorem State.modCmd_freeCtr (c : Nat) (f : Cmd → Cmd) : (s.modCmd c f).freeCtr = s.freeCtr := rfl
@[simp] theorem State.modCmd_tl' (c : Nat) (f : Cmd → Cmd) (u : Nat) : (s.modCmd c f).tl u = s.tl u := rfl
@[simp] theorem State.modCmd_ctx' (c : Nat) (f : Cmd → Cmd) (u : Nat) : (s.modCmd c f).ctx u = s.ctx u := rfl
@[simp] theorem State.modCmd_port' (c : Nat) (f : Cmd → Cmd) (u : Nat) : (s.modCmd c f).port u = s.port u := rfl
@[simp] theorem State.modCmd_slot' (c : Nat) (f : Cmd → Cmd) (u : Nat) : (s.modCmd c f).slot u = s.slot u := rfl
@[simp] theorem State.modCmd_ring' (c : Nat) (f : Cmd → Cmd) (u : Nat) : (s.modCmd c f).ring u = s.ring u := rfl
@[simp] theorem State.modCmd_slice' (c : Nat) (f : Cmd → Cmd) (u : Nat) : (s.modCmd c f).slice u = s.slice u := rfl
@[simp] theorem State.modCmd_sq' (c : Nat) (f : Cmd → Cmd) (u : Nat) : (s.modCmd c f).sq u = s.sq u := rfl
@[simp] theorem State.modCmd_oe' (c : Nat) (f : Cmd → Cmd) (u : Nat) : (s.modCmd c f).oe u = s.oe u := rfl
@[simp] theorem State.modCmd_cxl' (c : Nat) (f : Cmd → Cmd) (u : Nat) : (s.modCmd c f).cxl u = s.cxl u := rfl
@[simp] theorem State.modCmd_proc' (c : Nat) (f : Cmd → Cmd) (u : Nat) : (s.modCmd c f).proc u = s.proc u := rfl
@[simp] theorem State.modCmd_t3' (c : Nat) (f : Cmd → Cmd) : (s.modCmd c f).t3 = s.t3 := rfl
@[simp] theorem State.modCmd_now' (c : Nat) (f : Cmd → Cmd) : (s.modCmd c f).now = s.now := rfl
@[simp] theorem State.modCmd_live' (c : Nat) (f : Cmd → Cmd) : (s.modCmd c f).live = s.live := rfl

/-! ### take -/

@[simp] theorem State.take_pending (c : Nat) : (s.take c).pending = s.pending := rfl
@[simp] theorem State.take_clk (c : Nat) : (s.take c).clk = s.clk := rfl
@[simp] theorem State.take_pwr (c : Nat) : (s.take c).pwr = s.pwr := rfl
@[simp] theorem State.take_part (c : Nat) : (s.take c).part = s.part := rfl
@[simp] theorem State.take_dev (c : Nat) : (s.take c).dev = s.dev := rfl
@[simp] theorem State.take_host (c : Nat) : (s.take c).host = { s.host with cmds := s.host.cmds.map fun k => if k.id = c then { k with taken := true } else k } := rfl
@[simp] theorem State.take_ctxs (c : Nat) : (s.take c).ctxs = s.ctxs := rfl
@[simp] theorem State.take_epochs (c : Nat) : (s.take c).epochs = s.epochs := rfl
@[simp] theorem State.take_tillers (c : Nat) : (s.take c).tillers = s.tillers := rfl
@[simp] theorem State.take_fab (c : Nat) : (s.take c).fab = s.fab := rfl
@[simp] theorem State.take_ports (c : Nat) : (s.take c).ports = s.ports := rfl
@[simp] theorem State.take_oes (c : Nat) : (s.take c).oes = s.oes := rfl
@[simp] theorem State.take_mem (c : Nat) : (s.take c).mem = s.mem := rfl
@[simp] theorem State.take_seed (c : Nat) : (s.take c).seed = s.seed := rfl
@[simp] theorem State.take_slots (c : Nat) : (s.take c).slots = s.slots := rfl
@[simp] theorem State.take_pfx (c : Nat) : (s.take c).pfx = s.pfx := rfl
@[simp] theorem State.take_fw (c : Nat) : (s.take c).fw = s.fw := rfl
@[simp] theorem State.take_alm (c : Nat) : (s.take c).alm = s.alm := rfl
@[simp] theorem State.take_shadow (c : Nat) : (s.take c).shadow = s.shadow := rfl
@[simp] theorem State.take_ctr (c : Nat) : (s.take c).ctr = s.ctr := rfl
@[simp] theorem State.take_freeCtr (c : Nat) : (s.take c).freeCtr = s.freeCtr := rfl
@[simp] theorem State.take_tl' (c : Nat) (u : Nat) : (s.take c).tl u = s.tl u := rfl
@[simp] theorem State.take_ctx' (c : Nat) (u : Nat) : (s.take c).ctx u = s.ctx u := rfl
@[simp] theorem State.take_port' (c : Nat) (u : Nat) : (s.take c).port u = s.port u := rfl
@[simp] theorem State.take_slot' (c : Nat) (u : Nat) : (s.take c).slot u = s.slot u := rfl
@[simp] theorem State.take_ring' (c : Nat) (u : Nat) : (s.take c).ring u = s.ring u := rfl
@[simp] theorem State.take_slice' (c : Nat) (u : Nat) : (s.take c).slice u = s.slice u := rfl
@[simp] theorem State.take_sq' (c : Nat) (u : Nat) : (s.take c).sq u = s.sq u := rfl
@[simp] theorem State.take_oe' (c : Nat) (u : Nat) : (s.take c).oe u = s.oe u := rfl
@[simp] theorem State.take_cxl' (c : Nat) (u : Nat) : (s.take c).cxl u = s.cxl u := rfl
@[simp] theorem State.take_proc' (c : Nat) (u : Nat) : (s.take c).proc u = s.proc u := rfl
@[simp] theorem State.take_t3' (c : Nat) : (s.take c).t3 = s.t3 := rfl
@[simp] theorem State.take_now' (c : Nat) : (s.take c).now = s.now := rfl
@[simp] theorem State.take_live' (c : Nat) : (s.take c).live = s.live := rfl

end Sys2Proof.Machine
end

