-- ==== Sys2Proof/Laws/Rows.lean ====
section
/-!
SUPPORT. How each form of a row answers: when its unit, its command, its instruction or its packet is there, the row is its body.
-/

namespace Sys2Proof.Machine

theorem onEvent_next {due : Bool} {s s' : State} (h : due = true) : onEvent due s s' = .next s' := by simp [onEvent, h]

theorem onUnit_next {has : Bool} {s s' : State} (h : has = true) (hl : s.live = true) : onUnit has s s' = .next s' := by simp [onUnit, h, hl]

/-- A command that may be carried out is. -/
theorem runCmd_next {op c : Nat} {k : Cmd} {s : State} (h : s.carries op c k) (body : Cmd → State → State) :
    runCmd op c s body = .next (body k (s.take c)) := by
  obtain ⟨h1, h2, h3, h4, h5⟩ := h
  simp [runCmd, h1, h2, h3, h4, h5]

theorem runSub_next {op c : Nat} {k : Cmd} {s : State} {mine : Cmd → Bool} (h : s.carries op c k) (hm : mine k = true) (body : Cmd → State → State) :
    runSub op c mine s body = .next (body k (s.take c)) := by
  unfold runSub
  rw [h.1]
  simp only [hm, if_true]
  exact runCmd_next h body

/-- A command that completes with data which fits its place is reported (10 R293). -/
theorem State.finishData_reported {op c : Nat} {k : Cmd} {s : State} (h : s.carries op c k) (words : List Nat)
    {data : List Byte} (ht : k.takes data.length) : (s.take c).finishData k words data = s.reported k words data := by
  have hid : k.id = c := by
    have h1 := h.1
    unfold State.cmd? at h1
    have := List.find?_some h1
    simpa using this
  obtain ⟨ha, hl⟩ := ht
  cases hk : k.src <;> simp_all [State.finishData, State.reported, Cmd.viaPort]

/-- Data that does not fit, or a misaligned place for it, ends the command with BAD_PARAM (10 R293). -/
theorem State.finishData_bad {k : Cmd} {s : State} (words : List Nat) {data : List Byte} (ht : ¬ k.takes data.length) :
    ∃ w, s.finishData k words data = s.finish k.id stBadParam w := by
  unfold State.finishData
  cases hk : k.src <;> simp_all [Cmd.viaPort] <;> split <;>
    first | exact ⟨_, rfl⟩ | (exfalso; omega) | (split <;> first | exact ⟨_, rfl⟩ | (exfalso; omega))

/-- An instruction that issues has its effect. -/
theorem issueRow_next {t e : Nat} {mn : Mnem} {i : Shoze} {s : State} (h : s.issues t e mn i) (body : Shoze → State) :
    issueRow t e mn s body = .next (body i) := by
  obtain ⟨⟨h1, h2⟩, h3, h4, h5, h6, h7, h8⟩ := h
  unfold issueRow State.issue
  simp only [h1, h2, decide_true, Bool.and_self, if_true, h3, h4, h5]
  by_cases he : engineOf mn = 1
  · simp [he, h6 he, h7, h8]
  · simp [he, h7, h8]

/-- A packet that passes its checks is taken. -/
theorem onReceive_next {s s1 : State} {t l : Nat} {p : Pkt} {c : CPrefix} (h : s.accepts t l p c s1) {kinds : Nat → Bool} (hk : kinds c.kind = true)
    (act : Nat → Pkt → CPrefix → State → State) : onReceive t s kinds act = .next (act l p c s1) := by
  obtain ⟨h1, h2, hw, h3, h4, h5, h6, h7, h8⟩ := h
  subst h4 h5 h8
  simp [onReceive, onUnit, h1, h2, hw, h3, h6, h7, hk]

end Sys2Proof.Machine
end

