-- ==== Sys2Proof/Laws/Issue.lean ====
section
/-!
SUPPORT. What the end of an issue does: the stream that goes on, the register that is written, the entry that joins the checker, and the
hazard that faults the Tiller in place of the instruction's own effect.
-/

namespace Sys2Proof.Machine

/-! ### Streams of a Tiller -/

@[simp] theorem Tiller.modStream_stream (T : Tiller) (e : Nat) (f : StreamSt → StreamSt) (x : Nat) :
    (T.modStream e f).stream x = if x = e then f (T.stream e) else T.stream x := SMap.get_set _ _ _ _ _

@[simp] theorem Tiller.goto_stream (T : Tiller) (e core t3 pc n x : Nat) :
    (T.goto e core t3 pc n).stream x = if x = e then { T.stream e with pc := pc, next := core + n, prog := t3 } else T.stream x :=
  SMap.get_set _ _ _ _ _

/-- Going on changes nothing but the stream. -/
theorem Tiller.goto_eq (T : Tiller) (e core t3 pc n : Nat) : T.goto e core t3 pc n = { T with streams := (T.goto e core t3 pc n).streams } := rfl

@[simp] theorem Tiller.goto_reg (T : Tiller) (e core t3 pc n r : Nat) : (T.goto e core t3 pc n).reg r = T.reg r := rfl

@[simp] theorem Tiller.modStream_reg (T : Tiller) (e : Nat) (f : StreamSt → StreamSt) (r : Nat) : (T.modStream e f).reg r = T.reg r := rfl

/-- A register is written, but s0 is not (03 R71). -/
theorem Tiller.setReg_reg (T : Tiller) (d : Nat) (v : Word) (h : d < 32) (r : Nat) :
    (T.setReg d v).reg r = if r = d ∧ d ≠ 0 then v else T.reg r := by
  unfold Tiller.setReg Tiller.reg
  by_cases h0 : d = 0
  · subst h0; simp
  · have h1 : ¬ d > 31 := by omega
    simp only [h0, h1, decide_false, Bool.or_self, Bool.false_eq_true, if_false, SMap.get_set, ne_eq, not_false_eq_true, and_true]
    by_cases hr : r = d
    · subst hr; simp [h0]
    · simp [hr]

/-- Writing a register changes nothing else of the Tiller. -/
theorem Tiller.setReg_eq (T : Tiller) (d : Nat) (v : Word) : T.setReg d v = { T with regs := (T.setReg d v).regs } := by
  unfold Tiller.setReg; split <;> rfl

/-! ### Changes of one Tiller -/

/-- A change of one Tiller is a change of one Tiller. -/
theorem onlyTiller_modT (t : Nat) (f : Tiller → Tiller) (s : State) : onlyTiller t s (s.modT t f) :=
  ⟨rfl, fun u hu => by simp [hu]⟩

/-- An instruction of one cycle that writes a register has done so. -/
theorem retire_wrote (s : State) (t e : Nat) (d : BitVec 5) (v : Word) (f : Tiller → Word)
    (hf : f ((s.tl t).goto e s.clk.core s.t3 (((s.tl t).stream e).pc + 1) 1) = v) :
    wrote t e d.toNat v s (s.retire t e fun T => T.setReg d.toNat (f T)) := by
  refine ⟨onlyTiller_modT _ _ _, ?_, ?_, ?_⟩
  · simp only [State.retire, State.modT_tl', if_true]
    rw [Tiller.setReg_eq]; rfl
  · simp only [State.retire, State.modT_tl', if_true]
    rw [Tiller.setReg_eq]
    exact ⟨by rw [show ∀ T : Tiller, ∀ r, ({ T with regs := r } : Tiller).stream e = T.stream e from fun _ _ => rfl]; simp,
      fun x hx => by rw [show ∀ T : Tiller, ∀ r, ({ T with regs := r } : Tiller).stream x = T.stream x from fun _ _ => rfl]; simp [hx]⟩
  · intro r
    simp only [State.retire, State.modT_tl', if_true, hf]
    rw [Tiller.setReg_reg _ _ _ d.isLt]; rfl

/-- A stream that only goes on has done so. -/
theorem goto_branched (s : State) (t e pc n : Nat) : branched t e pc n s (s.modT t fun T => T.goto e s.clk.core s.t3 pc n) :=
  ⟨onlyTiller_modT _ _ _, by simp only [State.modT_tl', if_true]; rfl, by
    simp only [wentOn, State.modT_tl', if_true]; exact ⟨by simp, fun x hx => by simp [hx]⟩⟩

/-- An instruction that is launched has joined the checker, if it needs an entry, and occupies its engine (03 R82, R89). -/
theorem launch_launched (s : State) (t e : Nat) (i : Shoze) (vals : List Word) (upd : Entry → Entry) (ha : isAsync i.mn = false) :
    launched t e (engineOf i.mn) (s.clk.core + ((s.tl t).timing s.clk.core i).1)
      (if (s.tl t).needsEntry s.clk.core i then [upd ((s.tl t).entryOf s.clk.core ((s.tl t).stream e).pc i vals)] else []) s
      (s.launch t e i vals upd) := by
  refine ⟨onlyTiller_modT _ _ _, ?_, ?_, ?_, ?_⟩
  · simp only [State.launch, State.modT_tl', if_true, Tiller.occupy, ha, Bool.false_and, Bool.false_eq_true, if_false]
    split <;> simp [Tiller.goto, Tiller.modStream]
  · simp [State.launch, Tiller.occupy, ha, Tiller.goto, Tiller.modStream]
  · simp only [State.launch, State.modT_tl', if_true, Tiller.occupy, ha, Bool.false_and, Bool.false_eq_true, if_false, wentOn]
    exact ⟨by rw [Tiller.goto_stream, if_pos rfl]; rfl, fun x hx => by rw [Tiller.goto_stream, if_neg hx]; rfl⟩
  · simp only [State.launch, State.modT_tl', if_true, Tiller.occupy, ha, Bool.false_and, Bool.false_eq_true, if_false]
    rfl

/-- An instruction that meets a hazard faults its Tiller (03 R89). -/
theorem issueRow_hazard {t e : Nat} {mn : Mnem} {i : Shoze} {s : State} {h : Hazard} (ht : t < 192) (he : e < 6) (hm : s.mayIssue t e = true)
    (hc : (s.tl t).img.code[((s.tl t).stream e).pc]? = some i) (hi : i.mn = mn) (hg : engineOf mn = 1 → s.harrow t = true)
    (hh : (s.tl t).findHazard s.clk.core i = some h) (hu : ((s.tl t).stream e).pc ∉ (s.tl t).imUe) (body : Shoze → State) :
    issueRow t e mn s body = .next (s.hazard t (if mn = .mvMrecv then 4 else engineOf mn) ((s.tl t).stream e).pc h) := by
  unfold issueRow State.issue
  simp only [ht, he, decide_true, Bool.and_self, if_true, hm, hc, hi]
  by_cases h1 : engineOf mn = 1
  · simp [h1, hg h1, hh, hu]
  · simp [h1, hh, hu]

end Sys2Proof.Machine
end

