-- ==== Sys2Proof/Laws/Lms.lean ====
section
/-!
SUPPORT. Signatures: the length of a digest, and that a signature of the right form verifies under the key whose root it leads to.
-/

namespace Sys2Proof.Machine

theorem shaRound_length (v : List (BitVec 32)) (kw : BitVec 32 × BitVec 32) : (shaRound v kw).length = v.length := by
  unfold shaRound; split <;> rfl

theorem shaBlock_length (h : List (BitVec 32)) (blk : List Byte) : (shaBlock h blk).length = h.length := by
  have hf : ∀ (l : List (BitVec 32 × BitVec 32)) (v : List (BitVec 32)), (l.foldl shaRound v).length = v.length := by
    intro l
    induction l with
    | nil => intro v; rfl
    | cons x t ih => intro v; rw [List.foldl_cons, ih, shaRound_length]
  simp only [shaBlock, List.length_map, List.length_zip, hf, Nat.min_self]

theorem shaFeed_length (h : List (BitVec 32)) (l : List Byte) : (shaFeed h l).1.length = h.length := by
  unfold shaFeed
  generalize ([] : List Byte) = r
  generalize chunksOf 64 (l.length / 64 + 1) l = cs
  induction cs generalizing h r with
  | nil => rfl
  | cons x t ih =>
    rw [List.foldl_cons]
    split
    · rw [ih, shaBlock_length]
    · exact ih h x

@[simp] theorem toBE_length (n v : Nat) : (toBE n v).length = n := by simp [toBE]

/-- A digest has 32 bytes. -/
@[simp] theorem sha256_length (l : List Byte) : (sha256 l).length = 32 := by
  have hf : ∀ w : List (BitVec 32), ((w.map fun x => toBE 4 x.toNat).flatten).length = 4 * w.length := by
    intro w
    induction w with
    | nil => rfl
    | cons x t ih => simp at ih ⊢; omega
  simp only [sha256, shaFinish, hf, shaFeed_length]
  rfl

/-- A root has the length of a digest. -/
theorem lmsClimb_length (id : List Byte) (path : List (List Byte)) (n : Nat) (t : List Byte) (h : t.length = 32) :
    (lmsClimb id path n t).length = 32 := by
  induction path generalizing n t with
  | nil => exact h
  | cons x path ih => unfold lmsClimb; apply ih; split <;> exact sha256_length _

/-- The root that a signature over a message leads to under a tree identifier. -/
def LmsKind.rootOf (K : LmsKind) (id msg sig : List Byte) : List Byte :=
  let q := beNat (sig.take 4)
  lmsClimb id ((List.range K.h).map fun i => slice sig (44 + 32 * K.p + 32 * i) 32) (2 ^ K.h + q)
    (lmsLeaf id (2 ^ K.h + q) (K.otsFrom id q (slice sig 8 (32 + 32 * K.p)) msg))

/-- The public key under which a signature over a message verifies. -/
def LmsKind.keyFor (K : LmsKind) (id msg sig : List Byte) : List Byte := toBE 4 K.lms ++ toBE 4 K.ots ++ id ++ K.rootOf id msg sig

theorem LmsKind.keyFor_length (K : LmsKind) (id msg sig : List Byte) (hi : id.length = 16) : (K.keyFor id msg sig).length = 56 := by
  have hr : (K.rootOf id msg sig).length = 32 := lmsClimb_length _ _ _ _ (sha256_length _)
  simp [keyFor, hi, hr]

/-- A signature of the right form verifies under the key whose root it leads to (11 R313). -/
theorem LmsKind.verifies_keyFor (K : LmsKind) (id msg sig : List Byte) (hi : id.length = 16) (hl : beNat (toBE 4 K.lms) = K.lms)
    (ho : beNat (toBE 4 K.ots) = K.ots) (hs : K.sigOk sig = true) : K.verifies (K.keyFor id msg sig) msg sig = true := by
  have hr : (K.rootOf id msg sig).length = 32 := lmsClimb_length _ _ _ _ (sha256_length _)
  have e0 := K.keyFor_length id msg sig hi
  have e1 : (K.keyFor id msg sig).take 4 = toBE 4 K.lms := by
    simp only [keyFor, List.append_assoc]
    exact List.take_left' (toBE_length _ _)
  have e2 : slice (K.keyFor id msg sig) 4 4 = toBE 4 K.ots := by
    simp only [slice, keyFor, List.append_assoc, List.drop_left' (toBE_length 4 K.lms), List.take_left' (toBE_length 4 K.ots)]
    simp
  have e3 : slice (K.keyFor id msg sig) 8 16 = id := by
    rw [slice, keyFor, List.append_assoc, List.drop_left' (by simp), List.take_left' hi, hi]
    simp
  have e4 : slice (K.keyFor id msg sig) 24 32 = K.rootOf id msg sig := by
    rw [slice, keyFor, List.drop_left' (by simp [hi]), List.take_of_length_le (by omega), hr]
    simp
  simp only [verifies, keyOk, e0, e1, e2, e3, e4, hl, ho, hs]
  simp [rootOf]

end Sys2Proof.Machine
end

