-- ==== Sys2Proof/Laws/Sound.lean ====
section
/-!
SUPPORT. What no named operation of the model does, whatever it is given: it leaves the queue, the part's identity and the isolation store
as they are, keeps CORE_CLK at its operating points, and keeps every byte memory canonical. Sound s0 s says that of a state s reached from s0;
each operation has one lemma, which the claims over all commands cite in place of unfolding it.
-/

namespace Sys2Proof.Machine

/-- s, reached from s0, has kept what no operation changes. -/
def Sound (s0 s : State) : Prop :=
  s.pending = s0.pending ∧ s.part.identity = s0.part.identity ∧ s.isolation = s0.isolation ∧ (s0.clockWf = true → s.clockWf = true) ∧ (s0.memWf → s.memWf)

theorem Sound.refl (s : State) : Sound s s := ⟨rfl, rfl, rfl, id, id⟩

theorem Sound.trans {s0 s s' : State} (h : Sound s0 s) (h' : Sound s s') : Sound s0 s' :=
  ⟨h'.1.trans h.1, h'.2.1.trans h.2.1, h'.2.2.1.trans h.2.2.1, h'.2.2.2.1 ∘ h.2.2.2.1, h'.2.2.2.2 ∘ h.2.2.2.2⟩

theorem Sound.foldl {α : Type} {s0 s : State} {g : State → α → State} {l : List α} (hs : Sound s0 s) (h : ∀ x a, Sound s0 x → Sound s0 (g x a)) :
    Sound s0 (l.foldl g s) := by
  induction l generalizing s with
  | nil => exact hs
  | cons a t ih => exact ih (h _ _ hs)

theorem Sound.foldlPair {α β : Type} {s0 : State} {g : State × β → α → State × β} {l : List α} {p : State × β} (hs : Sound s0 p.1)
    (h : ∀ x a, Sound s0 x.1 → Sound s0 (g x a).1) : Sound s0 (l.foldl g p).1 := by
  induction l generalizing p with
  | nil => exact hs
  | cons a t ih => exact ih (h _ _ hs)

theorem Sound.ite {s0 a b : State} {c : Prop} [Decidable c] (ha : Sound s0 a) (hb : Sound s0 b) : Sound s0 (if c then a else b) := by
  split
  · exact ha
  · exact hb

theorem Sound.lit {s0 s : State} {dev ctxs epochs fab ports oes seed slots pfx alm ctr freeCtr} (h : Sound s0 s) :
    Sound s0 (State.mk s.pending s.clk s.pwr s.part dev s.host ctxs epochs s.tillers fab ports oes s.mem seed slots pfx s.fw alm s.shadow ctr freeCtr) := h

theorem Sound.mk' {s0 s s' : State} (h : Sound s0 s) (h1 : s'.pending = s.pending) (h2 : s'.part.identity = s.part.identity)
    (h3 : s'.isolation = s.isolation) (h4 : s.clockWf = true → s'.clockWf = true) (h5 : s.memWf → s'.memWf) : Sound s0 s' :=
  h.trans ⟨h1, h2, h3, h4, h5⟩

/-- The state that a take leaves is sound. -/
def Take.Sound {α : Type} (s0 : State) : Take α → Prop
  | .got _ s => Machine.Sound s0 s
  | _ => True

/-! ### The updates -/

theorem State.modT_sound {s0 s : State} {t : Nat} {f : Tiller → Tiller} (h : Sound s0 s) (hf : ∀ T : Tiller, T.memWf = true → (f T).memWf = true) :
    Sound s0 (s.modT t f) := by
  refine h.mk' rfl rfl rfl id fun ⟨a, b, c, d⟩ => ⟨a, b, fun u => ?_, d⟩
  rw [State.modT_tl']
  split
  · exact hf _ (c t)
  · exact c u

theorem State.modTillers_sound {s0 s : State} {g : Nat × Tiller → Tiller} (h : Sound s0 s) (hg : ∀ p, p.2.memWf = true → (g p).memWf = true) :
    Sound s0 { s with tillers := s.tillers.map fun p => (p.1, g p) } := by
  refine h.mk' rfl rfl rfl id fun ⟨a, b, c, d⟩ => ⟨a, b, fun u => ?_, d⟩
  have key : ∀ l : SMap Tiller, (SMap.get tillerAt l u).memWf = true → (SMap.get tillerAt (l.map fun p => (p.1, g p)) u).memWf = true := by
    intro l
    induction l with
    | nil => exact id
    | cons p t ih =>
      simp only [List.map_cons, SMap.get]
      split
      · exact hg p
      · exact ih
  exact key _ (c u)

theorem State.modHost_sound {s0 s : State} {f : HostIf → HostIf} (h : Sound s0 s)
    (hf : SMap.wf byte0 s.host.mem = true → SMap.wf byte0 (f s.host).mem = true) : Sound s0 (s.modHost f) :=
  h.mk' rfl rfl rfl id fun ⟨a, b, c, d⟩ => ⟨hf a, b, c, d⟩

theorem State.modMem_sound {s0 s : State} {f : MemTier → MemTier} (h : Sound s0 s)
    (hf : SMap.wf byte0 s.mem.bytes = true → SMap.wf byte0 (f s.mem).bytes = true) : Sound s0 (s.modMem f) :=
  h.mk' rfl rfl rfl id fun ⟨a, b, c, d⟩ => ⟨a, hf b, c, d⟩

theorem State.modPwr_sound {s0 s : State} {f : Power → Power} (h : Sound s0 s)
    (hf : (f s.pwr).clkReq = s.pwr.clkReq ∧ (f s.pwr).clkStep = s.pwr.clkStep ∧ (f s.pwr).mulchCfg = s.pwr.mulchCfg) : Sound s0 (s.modPwr f) := by
  obtain ⟨a, b, c⟩ := hf
  refine h.mk' rfl rfl rfl (fun h => ?_) id
  unfold State.clockWf Power.minStep Power.cfg at *
  simp only [State.modPwr_pwr, State.modPwr_clk, a, b, c]
  exact h

theorem State.modFw_sound {s0 s : State} {f : Firmware → Firmware} (h : Sound s0 s)
    (hf : (f s.fw).quorumSeq = s.fw.quorumSeq ∧ (f s.fw).isoPorts = s.fw.isoPorts ∧ (f s.fw).isoDev = s.fw.isoDev) : Sound s0 (s.modFw f) := by
  obtain ⟨a, b, c⟩ := hf
  refine h.mk' rfl rfl ?_ id id
  unfold State.isolation
  simp only [State.modFw_fw, a, b, c]

theorem State.modShadow_sound {s0 s : State} {f : Shadow → Shadow} (h : Sound s0 s) (hf : ∀ x, s.shadow = some x → (f x).snap = x.snap) :
    Sound s0 (s.modShadow f) := by
  refine h.mk' rfl rfl rfl id fun ⟨a, b, c, d⟩ => ⟨a, b, c, fun x T hx hT => ?_⟩
  simp only [State.modShadow, Option.map_eq_some_iff] at hx
  obtain ⟨y, hy, rfl⟩ := hx
  rw [hf y hy] at hT
  exact d y T hy hT

theorem State.holding371_some {s : State} {h : Shadow} (hh : s.holding371 = some h) : s.shadow = some h := by
  unfold State.holding371 at hh
  exact (Option.filter_eq_some_iff.1 hh).1

/-- A step of CORE_CLK from an operating point leads to one. -/
theorem State.clkStepTo_isPoint {s : State} {up : Bool} {m : Nat} (hs : s.clockWf = true) (hm : s.clkStepTo up = some m) : isPoint m = true := by
  unfold State.clockWf at hs
  unfold State.clkStepTo at hm
  simp only [Bool.and_eq_true, isPoint, decide_eq_true_eq, beq_iff_eq] at hs ⊢
  obtain ⟨⟨⟨⟨⟨⟨h1, h2⟩, h3⟩, _⟩, _⟩, h4⟩, h5⟩ := hs
  dsimp only at hm
  repeat' split at hm
  all_goals first | (simp at hm; done) | (injection hm with hm; omega)

theorem State.modCtx_sound {s0 s : State} (x : Nat) (f : Ctx → Ctx) (hK : Sound s0 s) : Sound s0 (s.modCtx x f) := hK

theorem State.modPort_sound {s0 s : State} (p : Nat) (f : Port → Port) (hK : Sound s0 s) : Sound s0 (s.modPort p f) := hK

theorem State.modLink_sound {s0 s : State} (p : Nat) (f : Link → Link) (hK : Sound s0 s) : Sound s0 (s.modLink p f) := hK

theorem State.modSlot_sound {s0 s : State} (l : Nat) (f : Slot → Slot) (hK : Sound s0 s) : Sound s0 (s.modSlot l f) := hK

theorem State.modRing_sound {s0 s : State} (r : Nat) (f : Ring → Ring) (hK : Sound s0 s) : Sound s0 (s.modRing r f) := hK

theorem State.modFab_sound {s0 s : State} (f : Fabric → Fabric) (hK : Sound s0 s) : Sound s0 (s.modFab f) := hK

theorem State.modDev_sound {s0 s : State} (f : Dev → Dev) (hK : Sound s0 s) : Sound s0 (s.modDev f) := hK

theorem State.modSeed_sound {s0 s : State} (f : Seedbank → Seedbank) (hK : Sound s0 s) : Sound s0 (s.modSeed f) := hK

theorem State.modPfx_sound {s0 s : State} (f : Prefix → Prefix) (hK : Sound s0 s) : Sound s0 (s.modPfx f) := hK

theorem State.modAlm_sound {s0 s : State} (f : Almanac → Almanac) (hK : Sound s0 s) : Sound s0 (s.modAlm f) := hK

theorem State.modSlice_sound {s0 s : State} (i : Nat) (f : Slice → Slice) (hK : Sound s0 s) : Sound s0 (s.modSlice i f) := hK

theorem State.modProc_sound {s0 s : State} (q : Nat) (f : Proc → Proc) (hK : Sound s0 s) : Sound s0 (s.modProc q f) := hK

theorem State.modOe_sound {s0 s : State} (o : Nat) (f : Engine9 → Engine9) (hK : Sound s0 s) : Sound s0 (s.modOe o f) := hK

theorem State.modCxl_sound {s0 s : State} (k : Nat) (f : Cxl → Cxl) (hK : Sound s0 s) : Sound s0 (s.modCxl k f) := hK

theorem State.setSq_sound {s0 s : State} (q : Nat) (l : List Pkt) (hK : Sound s0 s) : Sound s0 (s.setSq q l) := hK

theorem State.drawn_sound {s0 s : State} (hK : Sound s0 s) : Sound s0 s.drawn := hK

theorem State.count_sound {s0 s : State} (k n : Nat) (hK : Sound s0 s) : Sound s0 (s.count k n) := hK

theorem State.modCmd_sound {s0 s : State} (c : Nat) (f : Cmd → Cmd) (hK : Sound s0 s) : Sound s0 (s.modCmd c f) := hK

theorem State.take_sound {s0 s : State} (c : Nat) (hK : Sound s0 s) : Sound s0 (s.take c) := hK

theorem State.countLink_sound {s0 s : State} (p : Nat) (item : Nat) (n : Nat) (hK : Sound s0 s) :
    Sound s0 (s.countLink p item n) := by
  unfold State.countLink
  try dsimp only
  repeat' with_reducible first | exact hK | assumption | (apply State.count_sound) | split | (intro _ hr; cases hr; done) | (intro _ hr; cases hr) | (intro _) | (dsimp only; done)

theorem State.pushNotice_sound {s0 s : State} (n : Notice) (hK : Sound s0 s) :
    Sound s0 (s.pushNotice n) := by
  unfold State.pushNotice
  try dsimp only
  repeat' with_reducible first | exact hK | assumption | (apply State.modFab_sound) | (apply State.count_sound) | split | (intro _ hr; cases hr; done) | (intro _ hr; cases hr) | (intro _) | (dsimp only; done)

theorem State.deliveryLost_sound {s0 s : State} (p : Pkt) (port : Nat) (reason : Nat) (hK : Sound s0 s) :
    Sound s0 (s.deliveryLost p port reason) := by
  unfold State.deliveryLost
  try dsimp only
  repeat' with_reducible first | exact hK | assumption | (apply State.pushNotice_sound) | split | (intro _ hr; cases hr; done) | (intro _ hr; cases hr) | (intro _) | (dsimp only; done)

theorem State.unchargeSlot_sound {s0 s : State} (l : Nat) (k : Nat) (hK : Sound s0 s) :
    Sound s0 (s.unchargeSlot l k) := by
  unfold State.unchargeSlot
  try dsimp only
  repeat' with_reducible first | exact hK | assumption | (apply State.modFab_sound) | split | (intro _ hr; cases hr; done) | (intro _ hr; cases hr) | (intro _) | (dsimp only; done)

theorem State.unchargeClass_sound {s0 s : State} (c : Nat) (k : Nat) (hK : Sound s0 s) :
    Sound s0 (s.unchargeClass c k) := by
  unfold State.unchargeClass
  try dsimp only
  repeat' with_reducible first | exact hK | assumption | (apply State.modFab_sound) | split | (intro _ hr; cases hr; done) | (intro _ hr; cases hr) | (intro _) | (dsimp only; done)

theorem State.release_sound {s0 s : State} (p : Pkt) (hK : Sound s0 s) :
    Sound s0 (s.release p) := by
  unfold State.release
  try dsimp only
  repeat' with_reducible first | exact hK | assumption | (apply State.modFab_sound) | (apply State.unchargeSlot_sound) | (apply State.unchargeClass_sound) | split | (intro _ hr; cases hr; done) | (intro _ hr; cases hr) | (intro _) | (dsimp only; done)

theorem State.dropPkt_sound {s0 s : State} (p : Pkt) (port : Nat) (reason : Nat) (hK : Sound s0 s) :
    Sound s0 (s.dropPkt p port reason) := by
  unfold State.dropPkt
  try dsimp only
  repeat' with_reducible first | exact hK | assumption | (apply State.count_sound) | (apply State.release_sound) | split | (intro _ hr; cases hr; done) | (intro _ hr; cases hr) | (intro _) | (dsimp only; done)

theorem State.rollWindow_sound {s0 s : State} (hK : Sound s0 s) :
    Sound s0 s.rollWindow := by
  unfold State.rollWindow
  try dsimp only
  repeat' with_reducible first | exact hK | assumption | (apply State.modDev_sound) | (apply State.modFab_sound) | (refine State.modPwr_sound ?_ ?_) | split | (with_unfolding_all exact fun _ h => h) | (with_unfolding_all exact fun h => h) | (with_unfolding_all exact ⟨rfl, rfl, rfl⟩) | (with_unfolding_all exact fun _ _ => rfl) | (intro _ hr; cases hr; done) | (intro _ hr; cases hr) | (intro _) | (dsimp only; done)

theorem State.samplePeak_sound {s0 s : State} (p : Nat) (v : Nat) (hK : Sound s0 s) :
    Sound s0 (s.samplePeak p v) := by
  unfold State.samplePeak
  try dsimp only
  repeat' with_reducible first | exact hK | assumption | (apply State.rollWindow_sound) | (apply State.modFab_sound) | split | (intro _ hr; cases hr; done) | (intro _ hr; cases hr) | (intro _) | (dsimp only; done)

theorem State.flushPort_sound {s0 s : State} (p : Nat) (hK : Sound s0 s) :
    Sound s0 (s.flushPort p) := by
  unfold State.flushPort
  try dsimp only
  repeat' with_reducible first | exact hK | assumption | (apply State.setSq_sound) | (apply State.modFab_sound) | (apply State.dropPkt_sound) | (apply State.deliveryLost_sound) | (apply State.samplePeak_sound) | (apply Sound.foldl) | split | (intro _ hr; cases hr; done) | (intro _ hr; cases hr) | (intro _) | (dsimp only; done)

theorem State.lapseGrants_sound {s0 s : State} (p : Nat) (hK : Sound s0 s) :
    Sound s0 (s.lapseGrants p) := by
  unfold State.lapseGrants
  try dsimp only
  repeat' with_reducible first | exact hK | assumption | (apply State.modFab_sound) | split | (intro _ hr; cases hr; done) | (intro _ hr; cases hr) | (intro _) | (dsimp only; done)

theorem State.almQueue_sound {s0 s : State} (r : ARec) (hK : Sound s0 s) :
    Sound s0 (s.almQueue r) := by
  unfold State.almQueue
  try dsimp only
  repeat' with_reducible first | exact hK | assumption | (apply State.modAlm_sound) | split | (intro _ hr; cases hr; done) | (intro _ hr; cases hr) | (intro _) | (dsimp only; done)

theorem State.pushEvent_sound {s0 s : State} (e : Event) (hK : Sound s0 s) :
    Sound s0 (s.pushEvent e) := by
  unfold State.pushEvent
  try dsimp only
  repeat' with_reducible first | exact hK | assumption | (refine State.modHost_sound ?_ ?_) | (apply State.modRing_sound) | split | (with_unfolding_all exact fun _ h => h) | (with_unfolding_all exact fun h => h) | (with_unfolding_all exact ⟨rfl, rfl, rfl⟩) | (with_unfolding_all exact fun _ _ => rfl) | (intro _ hr; cases hr; done) | (intro _ hr; cases hr) | (intro _) | (dsimp only; done)

theorem State.devEvent_sound {s0 s : State} (code : Nat) (status : Nat) (words : List Nat) (hK : Sound s0 s) :
    Sound s0 (s.devEvent code status words) := by
  unfold State.devEvent
  try dsimp only
  repeat' with_reducible first | exact hK | assumption | (apply State.pushEvent_sound) | split | (intro _ hr; cases hr; done) | (intro _ hr; cases hr) | (intro _) | (dsimp only; done)

theorem State.linkDown_sound {s0 s : State} (p : Nat) (reason : Nat) (st : LinkState) (hK : Sound s0 s) :
    Sound s0 (s.linkDown p reason st) := by
  unfold State.linkDown
  try dsimp only
  repeat' with_reducible first | exact hK | assumption | (apply State.countLink_sound) | (apply State.modLink_sound) | (apply State.flushPort_sound) | (apply State.lapseGrants_sound) | (apply State.almQueue_sound) | (apply State.devEvent_sound) | split | (intro _ hr; cases hr; done) | (intro _ hr; cases hr) | (intro _) | (dsimp only; done)

theorem State.earlyDrop_sound {s0 s : State} (i : Nat) (p : Pkt) (hK : Sound s0 s) :
    Sound s0 (s.earlyDrop i p).2 := by
  unfold State.earlyDrop
  try dsimp only
  repeat' with_reducible first | exact hK | assumption | (apply State.modFab_sound) | (apply State.modSlice_sound) | (apply State.drawn_sound) | split | (intro _ hr; cases hr; done) | (intro _ hr; cases hr) | (intro _) | (dsimp only; done)

theorem State.modPolicer_sound {s0 s : State} (q : Nat) (f : Policer → Policer) (hK : Sound s0 s) :
    Sound s0 (s.modPolicer q f) := by
  unfold State.modPolicer
  try dsimp only
  repeat' with_reducible first | exact hK | assumption | (apply State.modFab_sound) | split | (intro _ hr; cases hr; done) | (intro _ hr; cases hr) | (intro _) | (dsimp only; done)

theorem State.link_sound {s0 s : State} (i : Nat) (p : Pkt) (q : Nat) (hK : Sound s0 s) :
    Sound s0 (s.link i p q) := by
  unfold State.link
  try dsimp only
  repeat' with_reducible first | exact hK | assumption | (apply State.dropPkt_sound) | (apply State.modPolicer_sound) | (apply State.count_sound) | (apply State.earlyDrop_sound) | (apply State.setSq_sound) | (apply State.samplePeak_sound) | split | (intro _ hr; cases hr; done) | (intro _ hr; cases hr) | (intro _) | (dsimp only; done)

theorem State.rejoin_sound {s0 s : State} (p : Nat) (hK : Sound s0 s) :
    Sound s0 (s.rejoin p) := by
  unfold State.rejoin
  try dsimp only
  repeat' with_reducible first | exact hK | assumption | (apply State.linkDown_sound) | (apply State.lapseGrants_sound) | (apply State.modLink_sound) | split | (intro _ hr; cases hr; done) | (intro _ hr; cases hr) | (intro _) | (dsimp only; done)

theorem State.applyPort_sound {s0 s : State} (p : Nat) (hK : Sound s0 s) :
    Sound s0 (s.applyPort p) := by
  unfold State.applyPort
  try dsimp only
  repeat' with_reducible first | exact hK | assumption | (apply State.link_sound) | (apply State.linkDown_sound) | (apply State.rejoin_sound) | split | (intro _ hr; cases hr; done) | (intro _ hr; cases hr) | (intro _) | (dsimp only; done)

theorem State.applyIsolation_sound {s0 s : State} (device : Bool) (hK : Sound s0 s) :
    Sound s0 (s.applyIsolation device) := by
  unfold State.applyIsolation
  try dsimp only
  repeat' with_reducible first | exact hK | assumption | (apply State.applyPort_sound) | (apply State.modDev_sound) | (apply Sound.foldl) | split | (intro _ hr; cases hr; done) | (intro _ hr; cases hr) | (intro _) | (dsimp only; done)

theorem State.applyPending_sound {s0 s : State} (hK : Sound s0 s) :
    Sound s0 s.applyPending := by
  unfold State.applyPending
  try dsimp only
  repeat' with_reducible first | exact hK | assumption | (apply State.modDev_sound) | (apply State.applyIsolation_sound) | split | (intro _ hr; cases hr; done) | (intro _ hr; cases hr) | (intro _) | (dsimp only; done)

theorem State.sendOn36_sound {s0 s : State} (p : Pkt) (hK : Sound s0 s) :
    Sound s0 (s.sendOn36 p) := by
  unfold State.sendOn36
  try dsimp only
  repeat' with_reducible first | exact hK | assumption | (refine State.modHost_sound ?_ ?_) | split | (with_unfolding_all exact fun _ h => h) | (with_unfolding_all exact fun h => h) | (with_unfolding_all exact ⟨rfl, rfl, rfl⟩) | (with_unfolding_all exact fun _ _ => rfl) | (intro _ hr; cases hr; done) | (intro _ hr; cases hr) | (intro _) | (dsimp only; done)

theorem State.finish_sound {s0 s : State} (c : Nat) (status : Nat) (words : optParam (List Nat) []) (data : optParam (List Byte) []) (hK : Sound s0 s) :
    Sound s0 (s.finish c status words data) := by
  unfold State.finish
  try dsimp only
  repeat' with_reducible first | exact hK | assumption | (refine State.modHost_sound ?_ ?_) | (apply State.sendOn36_sound) | split | (with_unfolding_all exact fun _ h => h) | (with_unfolding_all exact fun h => h) | (with_unfolding_all exact ⟨rfl, rfl, rfl⟩) | (with_unfolding_all exact fun _ _ => rfl) | (intro _ hr; cases hr; done) | (intro _ hr; cases hr) | (intro _) | (dsimp only; done)

theorem State.startTiller_sound {s0 s : State} (t : Nat) (hK : Sound s0 s) :
    Sound s0 (s.startTiller t) := by
  unfold State.startTiller
  try dsimp only
  repeat' with_reducible first | exact hK | assumption | (apply State.drawn_sound) | (refine State.modT_sound ?_ ?_) | split | (with_unfolding_all exact fun _ h => h) | (with_unfolding_all exact fun h => h) | (with_unfolding_all exact ⟨rfl, rfl, rfl⟩) | (with_unfolding_all exact fun _ _ => rfl) | (intro _ hr; cases hr; done) | (intro _ hr; cases hr) | (intro _) | (dsimp only; done)

theorem State.startAll_sound {s0 s : State} (x : Nat) (hK : Sound s0 s) :
    Sound s0 (s.startAll x) := by
  unfold State.startAll
  try dsimp only
  repeat' with_reducible first | exact hK | assumption | (apply State.modCtx_sound) | (apply State.startTiller_sound) | (refine State.modT_sound ?_ ?_) | (apply Sound.foldl) | split | (with_unfolding_all exact fun _ h => h) | (with_unfolding_all exact fun h => h) | (with_unfolding_all exact ⟨rfl, rfl, rfl⟩) | (with_unfolding_all exact fun _ _ => rfl) | (intro _ hr; cases hr; done) | (intro _ hr; cases hr) | (intro _) | (dsimp only; done)

theorem State.ctxEvent_sound {s0 s : State} (x : Nat) (code : Nat) (status : Nat) (words : List Nat) (hK : Sound s0 s) :
    Sound s0 (s.ctxEvent x code status words) := by
  unfold State.ctxEvent
  try dsimp only
  repeat' with_reducible first | exact hK | assumption | (apply State.pushEvent_sound) | split | (intro _ hr; cases hr; done) | (intro _ hr; cases hr) | (intro _) | (dsimp only; done)

theorem State.slotSend_sound {s0 s : State} (l : Nat) (dest : Nat) (p : CPrefix) (data : List Byte) (hK : Sound s0 s) :
    Sound s0 (s.slotSend l dest p data) := by
  unfold State.slotSend
  try dsimp only
  repeat' with_reducible first | exact hK | assumption | (refine State.modT_sound ?_ ?_) | split | (with_unfolding_all exact fun _ h => h) | (with_unfolding_all exact fun h => h) | (with_unfolding_all exact ⟨rfl, rfl, rfl⟩) | (with_unfolding_all exact fun _ _ => rfl) | (intro _ hr; cases hr; done) | (intro _ hr; cases hr) | (intro _) | (dsimp only; done)

theorem State.slotSendAll_sound {s0 s : State} (l : Nat) (p : CPrefix) (dests : List Nat) (hK : Sound s0 s) :
    Sound s0 (s.slotSendAll l p dests) := by
  unfold State.slotSendAll
  try dsimp only
  repeat' with_reducible first | exact hK | assumption | (apply State.slotSend_sound) | (apply Sound.foldl) | split | (intro _ hr; cases hr; done) | (intro _ hr; cases hr) | (intro _) | (dsimp only; done)

theorem State.straggle_sound {s0 s : State} (l : Nat) (st : StepSt) (aborted : Bool) (hK : Sound s0 s) :
    Sound s0 (s.straggle l st aborted) := by
  unfold State.straggle
  try dsimp only
  repeat' with_reducible first | exact hK | assumption | (apply State.modSlot_sound) | split | (refine Sound.lit ?_; first | exact hK | (apply State.modSlot_sound)) | (intro _ hr; cases hr; done) | (intro _ hr; cases hr) | (intro _) | (dsimp only; done)

theorem State.abortSteps_sound {s0 s : State} (l : Nat) (status : Nat) (steps : List Nat) (except : Option Nat) (hK : Sound s0 s) :
    Sound s0 (s.abortSteps l status steps except) := by
  unfold State.abortSteps
  try dsimp only
  repeat' with_reducible first | exact hK | assumption | (apply State.slotSendAll_sound) | (apply State.straggle_sound) | (apply State.modSlot_sound) | (apply Sound.foldl) | split | (intro _ hr; cases hr; done) | (intro _ hr; cases hr) | (intro _) | (dsimp only; done)

theorem State.discardSlot_sound {s0 s : State} (l : Nat) (hK : Sound s0 s) :
    Sound s0 (s.discardSlot l) := by
  unfold State.discardSlot
  try dsimp only
  repeat' with_reducible first | exact hK | assumption | (apply State.modSlot_sound) | (apply State.abortSteps_sound) | split | (intro _ hr; cases hr; done) | (intro _ hr; cases hr) | (intro _) | (dsimp only; done)

theorem State.discardSteps_sound {s0 s : State} (t : Nat) (hK : Sound s0 s) :
    Sound s0 (s.discardSteps t) := by
  unfold State.discardSteps
  try dsimp only
  repeat' with_reducible first | exact hK | assumption | (apply State.discardSlot_sound) | (apply Sound.foldl) | split | (intro _ hr; cases hr; done) | (intro _ hr; cases hr) | (intro _) | (dsimp only; done)

theorem State.stopCheck_sound {s0 s : State} (x : Nat) (hK : Sound s0 s) :
    Sound s0 (s.stopCheck x) := by
  unfold State.stopCheck
  try dsimp only
  repeat' with_reducible first | exact hK | assumption | (apply State.modCtx_sound) | (apply State.finish_sound) | (apply Sound.foldl) | split | (intro _ hr; cases hr; done) | (intro _ hr; cases hr) | (intro _) | (dsimp only; done)

theorem State.faultT_sound {s0 s : State} (t : Nat) (code : Nat) (engine : Nat) (det : List Byte) (hK : Sound s0 s) :
    Sound s0 (s.faultT t code engine det) := by
  unfold State.faultT
  try dsimp only
  repeat' with_reducible first | exact hK | assumption | (apply State.almQueue_sound) | (apply State.ctxEvent_sound) | (apply State.discardSteps_sound) | (refine State.modT_sound ?_ ?_) | (apply State.stopCheck_sound) | split | (with_unfolding_all exact fun _ h => h) | (with_unfolding_all exact fun h => h) | (with_unfolding_all exact ⟨rfl, rfl, rfl⟩) | (with_unfolding_all exact fun _ _ => rfl) | (intro _ hr; cases hr; done) | (intro _ hr; cases hr) | (intro _) | (dsimp only; done)

theorem State.hazard_sound {s0 s : State} (t : Nat) (engine : Nat) (index : Nat) (h : Hazard) (hK : Sound s0 s) :
    Sound s0 (s.hazard t engine index h) := by
  unfold State.hazard
  try dsimp only
  repeat' with_reducible first | exact hK | assumption | (apply State.faultT_sound) | split | (intro _ hr; cases hr; done) | (intro _ hr; cases hr) | (intro _) | (dsimp only; done)

theorem State.harrowAbsent_sound {s0 s : State} (t : Nat) (index : Nat) (hK : Sound s0 s) :
    Sound s0 (s.harrowAbsent t index) := by
  unfold State.harrowAbsent
  try dsimp only
  repeat' with_reducible first | exact hK | assumption | (apply State.faultT_sound) | split | (intro _ hr; cases hr; done) | (intro _ hr; cases hr) | (intro _) | (dsimp only; done)

theorem State.beginReset_sound {s0 s : State} (t : Nat) (engines : List Nat) (cause : Nat) (faultSeq : Option Nat) (hK : Sound s0 s) :
    Sound s0 (s.beginReset t engines cause faultSeq) := by
  unfold State.beginReset
  try dsimp only
  repeat' with_reducible first | exact hK | assumption | (refine State.modT_sound ?_ ?_) | split | (with_unfolding_all exact fun _ h => h) | (with_unfolding_all exact fun h => h) | (with_unfolding_all exact ⟨rfl, rfl, rfl⟩) | (with_unfolding_all exact fun _ _ => rfl) | (intro _ hr; cases hr; done) | (intro _ hr; cases hr) | (intro _) | (dsimp only; done)

theorem State.faultReset_sound {s0 s : State} (t : Nat) (code : Nat) (engine : Nat) (det : List Byte) (hK : Sound s0 s) :
    Sound s0 (s.faultReset t code engine det) := by
  unfold State.faultReset
  try dsimp only
  repeat' with_reducible first | exact hK | assumption | (apply State.beginReset_sound) | (apply State.faultT_sound) | split | (intro _ hr; cases hr; done) | (intro _ hr; cases hr) | (intro _) | (dsimp only; done)

theorem State.eccFetch_sound {s0 s : State} (t : Nat) (index : Nat) (hK : Sound s0 s) :
    Sound s0 (s.eccFetch t index) := by
  unfold State.eccFetch
  try dsimp only
  repeat' with_reducible first | exact hK | assumption | (apply State.faultReset_sound) | split | (intro _ hr; cases hr; done) | (intro _ hr; cases hr) | (intro _) | (dsimp only; done)

theorem State.issue_sound {s0 s : State} (t e : Nat) (mn : Mnem) (body : Shoze → State) (hK : Sound s0 s) (hb : ∀ i, Sound s0 (body i)) :
    Sound s0 (s.issue t e mn body) := by
  unfold State.issue
  try dsimp only
  repeat' with_reducible first | exact hK | exact hb _ | apply State.eccFetch_sound | apply State.hazard_sound | apply State.harrowAbsent_sound | split

theorem State.retire_sound {s0 s : State} (t e : Nat) {f : Tiller → Tiller} (hK : Sound s0 s) (hf : ∀ T : Tiller, T.memWf = true → (f T).memWf = true) :
    Sound s0 (s.retire t e f) := by
  exact State.modT_sound hK fun T h => hf _ (Tiller.goto_memWf _ _ _ _ _ h)

theorem State.requestDomains_sound {s0 s : State} (l : List Nat) (hK : Sound s0 s) :
    Sound s0 (s.requestDomains l) := by
  unfold State.requestDomains
  try dsimp only
  repeat' with_reducible first | exact hK | assumption | (refine State.modPwr_sound ?_ ?_) | (apply Sound.foldl) | split | (with_unfolding_all exact fun _ h => h) | (with_unfolding_all exact fun h => h) | (with_unfolding_all exact ⟨rfl, rfl, rfl⟩) | (with_unfolding_all exact fun _ _ => rfl) | (intro _ hr; cases hr; done) | (intro _ hr; cases hr) | (intro _) | (dsimp only; done)

theorem State.enqueue_sound {s0 s : State} (i : Nat) (p : Pkt) (hK : Sound s0 s) :
    Sound s0 (s.enqueue i p) := by
  unfold State.enqueue
  try dsimp only
  repeat' with_reducible first | exact hK | assumption | (apply State.count_sound) | (apply State.modSlice_sound) | split | (intro _ hr; cases hr; done) | (intro _ hr; cases hr) | (intro _) | (dsimp only; done)

theorem State.enableStore_sound {s0 s : State} (x : Nat) (ts : List Nat) (hK : Sound s0 s) :
    Sound s0 (s.enableStore x ts) := by
  unfold State.enableStore
  try dsimp only
  repeat' with_reducible first | exact hK | assumption | (refine State.modT_sound ?_ ?_) | (apply State.modFab_sound) | (apply State.modPfx_sound) | (apply Sound.foldl) | split | (refine Sound.lit ?_; first | exact hK | (refine State.modT_sound ?_ ?_) | (apply State.modFab_sound) | (apply State.modPfx_sound) | (apply Sound.foldl)) | (with_unfolding_all exact fun _ h => h) | (with_unfolding_all exact fun h => h) | (with_unfolding_all exact ⟨rfl, rfl, rfl⟩) | (with_unfolding_all exact fun _ _ => rfl) | (intro _ hr; cases hr; done) | (intro _ hr; cases hr) | (intro _) | (dsimp only; done)

theorem State.pfxSend_sound {s0 s : State} (t : Nat) (b : List Byte) (hK : Sound s0 s) :
    Sound s0 (s.pfxSend t b) := by
  unfold State.pfxSend
  try dsimp only
  repeat' with_reducible first | exact hK | assumption | (refine State.modT_sound ?_ ?_) | split | (with_unfolding_all exact fun _ h => h) | (with_unfolding_all exact fun h => h) | (with_unfolding_all exact ⟨rfl, rfl, rfl⟩) | (with_unfolding_all exact fun _ _ => rfl) | (intro _ hr; cases hr; done) | (intro _ hr; cases hr) | (intro _) | (dsimp only; done)

theorem State.storeD_sound {s0 s : State} (t : Nat) (e : Nat) (n : Nat) (i : Shoze) (hK : Sound s0 s) :
    Sound s0 (s.storeD t e n i) := by
  exact State.retire_sound _ _ hK fun _ h => Tiller.withDmem_memWf h (Memory.wf_write _ _ _)

theorem State.slotDrop_sound {s0 s : State} (l : Nat) (f : Slot → Slot) (hK : Sound s0 s) :
    Sound s0 (s.slotDrop l f) := by
  unfold State.slotDrop
  try dsimp only
  repeat' with_reducible first | exact hK | assumption | (apply State.modSlot_sound) | split | (intro _ hr; cases hr; done) | (intro _ hr; cases hr) | (intro _) | (dsimp only; done)

theorem State.protoDrop_sound {s0 s : State} (l : Nat) (hK : Sound s0 s) :
    Sound s0 (s.protoDrop l) := by
  unfold State.protoDrop
  try dsimp only
  repeat' with_reducible first | exact hK | assumption | (apply State.slotDrop_sound) | split | (intro _ hr; cases hr; done) | (intro _ hr; cases hr) | (intro _) | (dsimp only; done)

theorem State.windowDrop_sound {s0 s : State} (l : Nat) (hK : Sound s0 s) :
    Sound s0 (s.windowDrop l) := by
  unfold State.windowDrop
  try dsimp only
  repeat' with_reducible first | exact hK | assumption | (apply State.slotDrop_sound) | split | (intro _ hr; cases hr; done) | (intro _ hr; cases hr) | (intro _) | (dsimp only; done)

theorem State.dupDrop_sound {s0 s : State} (l : Nat) (hK : Sound s0 s) :
    Sound s0 (s.dupDrop l) := by
  unfold State.dupDrop
  try dsimp only
  repeat' with_reducible first | exact hK | assumption | (apply State.slotDrop_sound) | split | (intro _ hr; cases hr; done) | (intro _ hr; cases hr) | (intro _) | (dsimp only; done)

theorem State.collDrop_sound {s0 s : State} (l : Nat) (why : Nat) (hK : Sound s0 s) :
    Sound s0 (s.collDrop l why) := by
  unfold State.collDrop
  try dsimp only
  repeat' with_reducible first | exact hK | assumption | (apply State.protoDrop_sound) | (apply State.windowDrop_sound) | (apply State.dupDrop_sound) | split | (intro _ hr; cases hr; done) | (intro _ hr; cases hr) | (intro _) | (dsimp only; done)

theorem State.loseResults_sound {s0 s : State} (t : Nat) (hK : Sound s0 s) :
    Sound s0 (s.loseResults t) := by
  unfold State.loseResults
  try dsimp only
  repeat' with_reducible first | exact hK | assumption | (apply State.count_sound) | (apply Sound.foldl) | split | (intro _ hr; cases hr; done) | (intro _ hr; cases hr) | (intro _) | (dsimp only; done)

theorem State.launch_sound {s0 s : State} (t : Nat) (e : Nat) (i : Shoze) (vals : List Word) (upd : Entry → Entry) (hK : Sound s0 s) :
    Sound s0 (s.launch t e i vals upd) := by
  exact State.modT_sound hK fun T h => Tiller.goto_memWf _ _ _ _ _ (Tiller.memWf_congr (Tiller.occupy_memWf _ _ h) rfl rfl)

theorem State.engine_sound {s0 s : State} (t : Nat) (e : Nat) (i : Shoze) (upd : Entry → Entry) (hK : Sound s0 s) :
    Sound s0 (s.engine t e i upd) := by
  unfold State.engine
  try dsimp only
  repeat' with_reducible first | exact hK | assumption | (refine State.modT_sound ?_ ?_) | (apply State.launch_sound) | split | (with_unfolding_all exact fun _ h => h) | (with_unfolding_all exact fun h => h) | (with_unfolding_all exact ⟨rfl, rfl, rfl⟩) | (with_unfolding_all exact fun _ _ => rfl) | (intro _ hr; cases hr; done) | (intro _ hr; cases hr) | (intro _) | (dsimp only; done)

theorem State.modStrShaper_sound {s0 s : State} (q : Nat) (f : Shaper → Shaper) (hK : Sound s0 s) :
    Sound s0 (s.modStrShaper q f) := by
  unfold State.modStrShaper
  try dsimp only
  repeat' with_reducible first | exact hK | assumption | (apply State.modFab_sound) | split | (intro _ hr; cases hr; done) | (intro _ hr; cases hr) | (intro _) | (dsimp only; done)

theorem State.modPortShaper_sound {s0 s : State} (p : Nat) (f : Shaper → Shaper) (hK : Sound s0 s) :
    Sound s0 (s.modPortShaper p f) := by
  unfold State.modPortShaper
  try dsimp only
  repeat' with_reducible first | exact hK | assumption | (apply State.modFab_sound) | split | (intro _ hr; cases hr; done) | (intro _ hr; cases hr) | (intro _) | (dsimp only; done)

theorem State.modSvcShaper_sound {s0 s : State} (i : Nat) (f : Shaper → Shaper) (hK : Sound s0 s) :
    Sound s0 (s.modSvcShaper i f) := by
  unfold State.modSvcShaper
  try dsimp only
  repeat' with_reducible first | exact hK | assumption | (apply State.modFab_sound) | split | (intro _ hr; cases hr; done) | (intro _ hr; cases hr) | (intro _) | (dsimp only; done)

theorem State.sendHead_sound {s0 s : State} (p : Nat) (v : Nat) (q : Nat) (hK : Sound s0 s) :
    Sound s0 (s.sendHead p v q) := by
  unfold State.sendHead
  try dsimp only
  repeat' with_reducible first | exact hK | assumption | (apply State.modPortShaper_sound) | (apply State.modSvcShaper_sound) | (apply State.modStrShaper_sound) | (apply State.modFab_sound) | (apply State.setSq_sound) | (apply State.modLink_sound) | split | (intro _ hr; cases hr; done) | (intro _ hr; cases hr) | (intro _) | (dsimp only; done)

theorem State.moverProgress_sound {s0 s : State} (t : Nat) (hK : Sound s0 s) :
    Sound s0 (s.moverProgress t) := by
  unfold State.moverProgress
  try dsimp only
  repeat' with_reducible first | exact hK | assumption | (refine State.modT_sound ?_ ?_) | split | (with_unfolding_all exact fun _ h => h) | (with_unfolding_all exact fun h => h) | (with_unfolding_all exact ⟨rfl, rfl, rfl⟩) | (with_unfolding_all exact fun _ _ => rfl) | (intro _ hr; cases hr; done) | (intro _ hr; cases hr) | (intro _) | (dsimp only; done)

theorem State.cutGets_sound {s0 s : State} (b : PBlock) (chunk : Nat) (hK : Sound s0 s) :
    Sound s0 (s.cutGets b chunk) := by
  unfold State.cutGets
  try dsimp only
  repeat' with_reducible first | exact hK | assumption | (refine State.modT_sound ?_ ?_) | (apply Sound.foldl) | split | (with_unfolding_all exact fun _ h => h) | (with_unfolding_all exact fun h => h) | (with_unfolding_all exact ⟨rfl, rfl, rfl⟩) | (with_unfolding_all exact fun _ _ => rfl) | (intro _ hr; cases hr; done) | (intro _ hr; cases hr) | (intro _) | (dsimp only; done)

theorem State.pfxCount_sound {s0 s : State} (item : Nat) (hK : Sound s0 s) :
    Sound s0 (s.pfxCount item) := by
  unfold State.pfxCount
  try dsimp only
  repeat' with_reducible first | exact hK | assumption | (apply State.count_sound) | split | (intro _ hr; cases hr; done) | (intro _ hr; cases hr) | (intro _) | (dsimp only; done)

theorem State.modEntry_sound {s0 s : State} (L : Nat) (i : Nat) (f : SbEntry → SbEntry) (hK : Sound s0 s) :
    Sound s0 (s.modEntry L i f) := by
  unfold State.modEntry
  try dsimp only
  repeat' with_reducible first | exact hK | assumption | (apply State.modSeed_sound) | split | (intro _ hr; cases hr; done) | (intro _ hr; cases hr) | (intro _) | (dsimp only; done)

theorem State.modList_sound {s0 s : State} (L : Nat) (f : SbList → SbList) (hK : Sound s0 s) :
    Sound s0 (s.modList L f) := by
  unfold State.modList
  try dsimp only
  repeat' with_reducible first | exact hK | assumption | (apply State.modSeed_sound) | split | (intro _ hr; cases hr; done) | (intro _ hr; cases hr) | (intro _) | (dsimp only; done)

theorem State.giveBack_sound {s0 s : State} (L : Nat) (i : Nat) (hK : Sound s0 s) :
    Sound s0 (s.giveBack L i) := by
  unfold State.giveBack
  dsimp only
  with_reducible split
  · exact State.modEntry_sound _ _ _ hK
  · split
    · with_reducible refine State.modList_sound _ _ (State.modMem_sound (State.modEntry_sound _ _ _ hK) ?_)
      intro h
      dsimp only
      with_reducible exact Memory.wf_write _ _ _ h
    · exact State.modEntry_sound _ _ _ hK

theorem State.giveAddr_sound {s0 s : State} (a : Nat) (hK : Sound s0 s) :
    Sound s0 (s.giveAddr a) := by
  unfold State.giveAddr
  try dsimp only
  repeat' with_reducible first | exact hK | assumption | (apply State.giveBack_sound) | split | (intro _ hr; cases hr; done) | (intro _ hr; cases hr) | (intro _) | (dsimp only; done)

theorem State.freeSlabs_sound {s0 s : State} (hK : Sound s0 s) :
    Sound s0 s.freeSlabs := by
  unfold State.freeSlabs
  try dsimp only
  repeat' with_reducible first | exact hK | assumption | (apply State.modPfx_sound) | (apply State.giveAddr_sound) | (apply Sound.foldl) | split | (intro _ hr; cases hr; done) | (intro _ hr; cases hr) | (intro _) | (dsimp only; done)

theorem State.freeStorage_sound {s0 s : State} (b : PBlock) (hK : Sound s0 s) :
    Sound s0 (s.freeStorage b) := by
  unfold State.freeStorage
  try dsimp only
  repeat' with_reducible first | exact hK | assumption | (apply State.freeSlabs_sound) | (apply State.giveAddr_sound) | (apply State.modPfx_sound) | split | (intro _ hr; cases hr; done) | (intro _ hr; cases hr) | (intro _) | (dsimp only; done)

theorem State.removeBlock_sound {s0 s : State} (b : PBlock) (hK : Sound s0 s) :
    Sound s0 (s.removeBlock b) := by
  unfold State.removeBlock
  try dsimp only
  repeat' with_reducible first | exact hK | assumption | (apply State.modPfx_sound) | (apply State.freeStorage_sound) | split | (intro _ hr; cases hr; done) | (intro _ hr; cases hr) | (intro _) | (dsimp only; done)

theorem State.dropPortBlocks_sound {s0 s : State} (k : Nat) (hK : Sound s0 s) :
    Sound s0 (s.dropPortBlocks k) := by
  unfold State.dropPortBlocks
  try dsimp only
  repeat' with_reducible first | exact hK | assumption | (apply State.cutGets_sound) | (apply State.pfxCount_sound) | (apply State.removeBlock_sound) | (apply Sound.foldl) | split | (intro _ hr; cases hr; done) | (intro _ hr; cases hr) | (intro _) | (dsimp only; done)

theorem State.dropDemotions_sound {s0 s : State} (k : Nat) (hK : Sound s0 s) :
    Sound s0 (s.dropDemotions k) := by
  unfold State.dropDemotions
  try dsimp only
  repeat' with_reducible first | exact hK | assumption | (apply State.pfxCount_sound) | (apply State.removeBlock_sound) | (apply Sound.foldl) | split | (intro _ hr; cases hr; done) | (intro _ hr; cases hr) | (intro _) | (dsimp only; done)

theorem State.sbReply_sound {s0 s : State} (q : SbReq) (status : Nat) (words : List Nat) (hK : Sound s0 s) :
    Sound s0 (s.sbReply q status words) := by
  unfold State.sbReply
  try dsimp only
  repeat' with_reducible first | exact hK | assumption | (apply State.finish_sound) | split | (intro _ hr; cases hr; done) | (intro _ hr; cases hr) | (intro _) | (dsimp only; done)

theorem State.memZero_sound {s0 s : State} (a : Nat) (n : Nat) (hK : Sound s0 s) :
    Sound s0 (s.memZero a n) := by
  exact State.modMem_sound hK (Memory.wf_clear _ _ _)

theorem State.unlist_sound {s0 s : State} (L : Nat) (i : Nat) (hK : Sound s0 s) :
    Sound s0 (s.unlist L i) := by
  unfold State.unlist
  try dsimp only
  repeat' with_reducible first | exact hK | assumption | (apply State.modList_sound) | split | (intro _ hr; cases hr; done) | (intro _ hr; cases hr) | (intro _) | (dsimp only; done)

theorem State.corrected_sound {s0 s : State} (ws : List Nat) (found : List Nat) (hK : Sound s0 s) :
    Sound s0 (s.corrected ws found) := by
  unfold State.corrected
  try dsimp only
  repeat' with_reducible first | exact hK | assumption | (apply State.count_sound) | (refine State.modMem_sound ?_ ?_) | (apply Sound.foldl) | split | (with_unfolding_all exact fun _ h => h) | (with_unfolding_all exact fun h => h) | (with_unfolding_all exact ⟨rfl, rfl, rfl⟩) | (with_unfolding_all exact fun _ _ => rfl) | (intro _ hr; cases hr; done) | (intro _ hr; cases hr) | (intro _) | (dsimp only; done)

theorem State.handOut_sound {s0 s : State} (L : Nat) (i : Nat) (owner : Nat) (slot : Option Nat) (zero : Bool) (hK : Sound s0 s) :
    Sound s0 (s.handOut L i owner slot zero) := by
  unfold State.handOut
  try dsimp only
  repeat' with_reducible first | exact hK | assumption | (apply State.corrected_sound) | (apply State.unlist_sound) | (apply State.modEntry_sound) | (apply State.memZero_sound) | split | (intro _ hr; cases hr; done) | (intro _ hr; cases hr) | (intro _) | (dsimp only; done)

theorem State.memUe_sound {s0 s : State} (a : Nat) (hK : Sound s0 s) :
    Sound s0 (s.memUe a) := by
  unfold State.memUe
  try dsimp only
  repeat' with_reducible first | exact hK | assumption | (refine State.modMem_sound ?_ ?_) | (apply State.count_sound) | split | (with_unfolding_all exact fun _ h => h) | (with_unfolding_all exact fun h => h) | (with_unfolding_all exact ⟨rfl, rfl, rfl⟩) | (with_unfolding_all exact fun _ _ => rfl) | (intro _ hr; cases hr; done) | (intro _ hr; cases hr) | (intro _) | (dsimp only; done)

theorem State.quarantine_sound {s0 s : State} (L : Nat) (i : Nat) (hK : Sound s0 s) :
    Sound s0 (s.quarantine L i) := by
  unfold State.quarantine
  try dsimp only
  repeat' with_reducible first | exact hK | assumption | (apply State.memUe_sound) | (apply State.unlist_sound) | (apply State.modEntry_sound) | (apply State.almQueue_sound) | split | (intro _ hr; cases hr; done) | (intro _ hr; cases hr) | (intro _) | (dsimp only; done)

theorem State.sbAsk_sound {s0 s : State} (q : SbReq) (hK : Sound s0 s) :
    Sound s0 (s.sbAsk q) := by
  unfold State.sbAsk
  try dsimp only
  repeat' with_reducible first | exact hK | assumption | (apply State.modSeed_sound) | (apply State.sbReply_sound) | (apply State.requestDomains_sound) | (apply State.handOut_sound) | (apply State.quarantine_sound) | (apply State.modList_sound) | split | (intro _ hr; cases hr; done) | (intro _ hr; cases hr) | (intro _) | (dsimp only; done)

theorem State.freeBytes_sound {s0 s : State} (x1 : Nat) (hK : Sound s0 s) : Sound s0 (s.freeBytes x1).2 := by
  induction x1 generalizing s with
  | zero => exact hK
  | succ n ih => exact ih (State.drawn_sound hK)

theorem State.rebuildList_sound {s0 s : State} (L : Nat) (hK : Sound s0 s) :
    Sound s0 (s.rebuildList L) := by
  unfold State.rebuildList
  dsimp only
  with_reducible refine Sound.foldl (State.modMem_sound (State.modSeed_sound _ (State.modList_sound _ _ hK)) ?_) ?_
  · exact fun h => h
  · intro x a h
    with_reducible refine State.modMem_sound h ?_
    intro h
    dsimp only
    with_reducible exact Memory.wf_write _ _ _ h

theorem State.takeBuffer_sound {s0 s : State} (who : SbReq) (owner k die : Nat) (slot : Option Nat) (zero : Bool) (hK : Sound s0 s) :
    (s.takeBuffer who owner k die slot zero).Sound s0 := by
  unfold State.takeBuffer
  dsimp only
  repeat' split
  all_goals first | trivial | exact State.handOut_sound _ _ _ _ _ hK

theorem State.cxlRoom_sound {s0 s : State} (who : SbReq) (big : Bool) (hK : Sound s0 s) : (s.cxlRoom who big).Sound s0 := by
  unfold State.cxlRoom
  dsimp only
  split
  · exact hK
  · have ht : (if s.pfx.slabList.length < s.pfx.slabs then s.takeBuffer who 0x100 4 0xF none false else .empty).Sound s0 := by
      split
      · exact State.takeBuffer_sound _ _ _ _ _ _ hK
      · trivial
    split
    · next h => rw [h] at ht; exact State.modPfx_sound _ ht
    · trivial
    · split
      · exact State.pfxCount_sound _ (State.modPfx_sound _ hK)
      · trivial

theorem State.holdStream_sound {s0 s : State} (t : Nat) (e : Nat) (h : Hold) (hK : Sound s0 s) :
    Sound s0 (s.holdStream t e h) := by
  unfold State.holdStream
  try dsimp only
  repeat' with_reducible first | exact hK | assumption | (refine State.modT_sound ?_ ?_) | split | (with_unfolding_all exact fun _ h => h) | (with_unfolding_all exact fun h => h) | (with_unfolding_all exact ⟨rfl, rfl, rfl⟩) | (with_unfolding_all exact fun _ _ => rfl) | (intro _ hr; cases hr; done) | (intro _ hr; cases hr) | (intro _) | (dsimp only; done)

theorem State.fmtViolation_sound {s0 s : State} (t : Nat) (engine : Nat) (index : Nat) (v : FmtViol) (hK : Sound s0 s) :
    Sound s0 (s.fmtViolation t engine index v) := by
  unfold State.fmtViolation
  try dsimp only
  repeat' with_reducible first | exact hK | assumption | (apply State.faultT_sound) | split | (intro _ hr; cases hr; done) | (intro _ hr; cases hr) | (intro _) | (dsimp only; done)

theorem State.stopTiller_sound {s0 s : State} (t : Nat) (hK : Sound s0 s) :
    Sound s0 (s.stopTiller t) := by
  unfold State.stopTiller
  try dsimp only
  repeat' with_reducible first | exact hK | assumption | (refine State.modT_sound ?_ ?_) | split | (with_unfolding_all exact fun _ h => h) | (with_unfolding_all exact fun h => h) | (with_unfolding_all exact ⟨rfl, rfl, rfl⟩) | (with_unfolding_all exact fun _ _ => rfl) | (intro _ hr; cases hr; done) | (intro _ hr; cases hr) | (intro _) | (dsimp only; done)

theorem State.noteLive_sound {s0 s : State} (hK : Sound s0 s) :
    Sound s0 s.noteLive := by
  unfold State.noteLive
  try dsimp only
  repeat' with_reducible first | exact hK | assumption | (refine State.modPwr_sound ?_ ?_) | (apply Sound.foldl) | split | (with_unfolding_all exact fun _ h => h) | (with_unfolding_all exact fun h => h) | (with_unfolding_all exact ⟨rfl, rfl, rfl⟩) | (with_unfolding_all exact fun _ _ => rfl) | (intro _ hr; cases hr; done) | (intro _ hr; cases hr) | (intro _) | (dsimp only; done)

theorem State.clearedShadow_sound {s0 s : State} (h : Sound s0 s) : Sound s0 { s with shadow := none } :=
  h.mk' rfl rfl rfl id fun ⟨a, b, c, _⟩ => ⟨a, b, c, fun _ _ hx => by simp at hx⟩

theorem State.clearShadow_sound {s0 s : State} (hK : Sound s0 s) :
    Sound s0 s.clearShadow := by
  unfold State.clearShadow
  split
  · exact hK
  · exact State.clearedShadow_sound (Sound.foldl (State.modT_sound hK fun _ _ => rfl) fun _ _ h => State.giveAddr_sound _ h)

theorem State.writeHost_sound {s0 s : State} (a : Nat) (d : List Byte) (hK : Sound s0 s) :
    Sound s0 (s.writeHost a d) := by
  exact State.modHost_sound hK (Memory.wf_write _ _ _)

theorem State.finishData_sound {s0 s : State} (k : Cmd) (words : List Nat) (data : List Byte) (hK : Sound s0 s) :
    Sound s0 (s.finishData k words data) := by
  unfold State.finishData
  try dsimp only
  repeat' with_reducible first | exact hK | assumption | (apply State.finish_sound) | (apply State.writeHost_sound) | split | (intro _ hr; cases hr; done) | (intro _ hr; cases hr) | (intro _) | (dsimp only; done)

theorem State.reportShadow_sound {s0 s : State} (hK : Sound s0 s) :
    Sound s0 s.reportShadow := by
  unfold State.reportShadow
  try dsimp only
  repeat' with_reducible first | exact hK | assumption | (apply State.clearShadow_sound) | (apply State.finishData_sound) | split | (intro _ hr; cases hr; done) | (intro _ hr; cases hr) | (intro _) | (dsimp only; done)

theorem State.endRepeat_sound {s0 s : State} (ok : Bool) (hK : Sound s0 s) :
    Sound s0 (s.endRepeat ok) := by
  unfold State.endRepeat
  try dsimp only
  repeat' with_reducible first | exact hK | assumption | (apply State.almQueue_sound) | (refine State.modT_sound ?_ ?_) | (refine State.modShadow_sound ?_ ?_) | (apply State.reportShadow_sound) | split | (with_unfolding_all exact fun _ h => h) | (with_unfolding_all exact fun h => h) | (with_unfolding_all exact ⟨rfl, rfl, rfl⟩) | (with_unfolding_all exact fun _ _ => rfl) | (intro _ hr; cases hr; done) | (intro _ hr; cases hr) | (intro _) | (dsimp only; done)

theorem State.almHw_sound {s0 s : State} (r : ARec) (hK : Sound s0 s) :
    Sound s0 (s.almHw r) := by
  unfold State.almHw
  try dsimp only
  repeat' with_reducible first | exact hK | assumption | (apply State.modAlm_sound) | split | (intro _ hr; cases hr; done) | (intro _ hr; cases hr) | (intro _) | (dsimp only; done)

theorem State.markReply_sound {s0 s : State} (k : Pkt) (hK : Sound s0 s) :
    Sound s0 (s.markReply k) := by
  unfold State.markReply
  try dsimp only
  repeat' with_reducible first | exact hK | assumption | (apply State.modDev_sound) | split | (intro _ hr; cases hr; done) | (intro _ hr; cases hr) | (intro _) | (dsimp only; done)

theorem State.countTx_sound {s0 s : State} (p : Nat) (k : Pkt) (hK : Sound s0 s) :
    Sound s0 (s.countTx p k) := by
  unfold State.countTx
  try dsimp only
  repeat' with_reducible first | exact hK | assumption | (apply State.count_sound) | split | (intro _ hr; cases hr; done) | (intro _ hr; cases hr) | (intro _) | (dsimp only; done)

theorem State.msix_sound {s0 s : State} (v : Nat) (hK : Sound s0 s) :
    Sound s0 (s.msix v) := by
  unfold State.msix
  try dsimp only
  repeat' with_reducible first | exact hK | assumption | (refine State.modHost_sound ?_ ?_) | split | (with_unfolding_all exact fun _ h => h) | (with_unfolding_all exact fun h => h) | (with_unfolding_all exact ⟨rfl, rfl, rfl⟩) | (with_unfolding_all exact fun _ _ => rfl) | (intro _ hr; cases hr; done) | (intro _ hr; cases hr) | (intro _) | (dsimp only; done)

theorem State.toHost_sound {s0 s : State} (k : Pkt) (hK : Sound s0 s) :
    Sound s0 (s.toHost k) := by
  unfold State.toHost
  try dsimp only
  repeat' with_reducible first | exact hK | assumption | (apply State.msix_sound) | (apply State.modDev_sound) | (apply State.writeHost_sound) | (apply State.release_sound) | (apply State.dropPkt_sound) | split | (intro _ hr; cases hr; done) | (intro _ hr; cases hr) | (intro _) | (dsimp only; done)

theorem State.handOver_sound {s0 s : State} (p : Nat) (k : Pkt) (hK : Sound s0 s) :
    Sound s0 (s.handOver p k) := by
  unfold State.handOver
  try dsimp only
  repeat' with_reducible first | exact hK | assumption | (apply State.markReply_sound) | (apply State.countTx_sound) | (apply State.modLink_sound) | (apply State.release_sound) | (apply State.toHost_sound) | (apply State.modFab_sound) | split | (intro _ hr; cases hr; done) | (intro _ hr; cases hr) | (intro _) | (dsimp only; done)

theorem State.endShadow_sound {s0 s : State} (status : Nat) (hK : Sound s0 s) :
    Sound s0 (s.endShadow status) := by
  unfold State.endShadow
  try dsimp only
  repeat' with_reducible first | exact hK | assumption | (apply State.finish_sound) | (apply State.clearShadow_sound) | split | (intro _ hr; cases hr; done) | (intro _ hr; cases hr) | (intro _) | (dsimp only; done)

theorem State.fwpDown_sound {s0 s : State} (q : Nat) (hK : Sound s0 s) :
    Sound s0 (s.fwpDown q) := by
  unfold State.fwpDown
  try dsimp only
  repeat' with_reducible first | exact hK | assumption | (apply State.modDev_sound) | (apply State.modLink_sound) | (apply State.endShadow_sound) | (apply Sound.foldl) | split | (intro _ hr; cases hr; done) | (intro _ hr; cases hr) | (intro _) | (dsimp only; done)

theorem State.faultNotice_sound {s0 s : State} (level : Nat) (reason : Nat) (ctx : Option Nat) (hK : Sound s0 s) :
    Sound s0 (s.faultNotice level reason ctx) := by
  unfold State.faultNotice
  try dsimp only
  repeat' with_reducible first | exact hK | assumption | (apply State.rollWindow_sound) | (apply State.modFab_sound) | (apply State.pushNotice_sound) | split | (intro _ hr; cases hr; done) | (intro _ hr; cases hr) | (intro _) | (dsimp only; done)

theorem State.wedge_sound {s0 s : State} (lastRec reason : Nat) (hK : Sound s0 s) :
    Sound s0 (s.wedge lastRec reason) := by
  unfold State.wedge
  dsimp only
  apply State.modFab_sound
  refine State.modTillers_sound (g := fun p => if p.2.run = TRun.running then { p.2 with run := .stopped } else p.2) ?_ ?_
  · exact State.devEvent_sound _ _ _ (State.faultNotice_sound _ _ _ (State.almHw_sound _ (State.modDev_sound _ hK)))
  · intro p h; dsimp only; split <;> exact h

theorem State.fwpRestart_sound {s0 s : State} (q : Nat) (cause : Nat) (hK : Sound s0 s) :
    Sound s0 (s.fwpRestart q cause) := by
  unfold State.fwpRestart
  try dsimp only
  repeat' with_reducible first | exact hK | assumption | (apply State.drawn_sound) | (apply State.modProc_sound) | (apply State.fwpDown_sound) | (apply State.wedge_sound) | split | (intro _ hr; cases hr; done) | (intro _ hr; cases hr) | (intro _) | (dsimp only; done)

theorem State.requestClk_sound {s0 s : State} (mhz : Nat) (hK : Sound s0 s) (hm : s.clockWf = true → isPoint mhz = true) : Sound s0 (s.requestClk mhz) := by
  unfold State.requestClk
  split
  · refine hK.mk' rfl rfl rfl (fun h => ?_) id
    have := hm h
    unfold State.clockWf Power.minStep Power.cfg at *
    simp_all
  · refine hK.mk' rfl rfl rfl (fun h => ?_) id
    have := hm h
    unfold State.clockWf Power.minStep Power.cfg at *
    simp_all

theorem State.modStep_sound {s0 s : State} (l : Nat) (n : Nat) (f : StepSt → StepSt) (hK : Sound s0 s) :
    Sound s0 (s.modStep l n f) := by
  unfold State.modStep
  try dsimp only
  repeat' with_reducible first | exact hK | assumption | (apply State.modSlot_sound) | split | (intro _ hr; cases hr; done) | (intro _ hr; cases hr) | (intro _) | (dsimp only; done)

theorem State.sendStream_sound {s0 s : State} (l : Nat) (dest : Nat) (c : CPrefix) (ps : List RPkt) (hK : Sound s0 s) :
    Sound s0 (s.sendStream l dest c ps) := by
  unfold State.sendStream
  try dsimp only
  repeat' with_reducible first | exact hK | assumption | (apply State.slotSend_sound) | (apply Sound.foldl) | split | (intro _ hr; cases hr; done) | (intro _ hr; cases hr) | (intro _) | (dsimp only; done)

theorem State.alu_sound {s0 s : State} (t : Nat) (e : Nat) (f : Word → Word → Word) (i : Shoze) (hK : Sound s0 s) :
    Sound s0 (s.alu t e f i) := by
  exact State.retire_sound _ _ hK fun _ h => Tiller.setReg_memWf _ _ h

theorem State.aluLate_sound {s0 s : State} (t : Nat) (e : Nat) (f : Word → Word → Word) (i : Shoze) (hK : Sound s0 s) :
    Sound s0 (s.aluLate t e f i) := by
  unfold State.aluLate
  try dsimp only
  repeat' with_reducible first | exact hK | assumption | (apply State.launch_sound) | split | (intro _ hr; cases hr; done) | (intro _ hr; cases hr) | (intro _) | (dsimp only; done)

theorem State.memWrite_sound {s0 s : State} (a : Nat) (d : List Byte) (hK : Sound s0 s) :
    Sound s0 (s.memWrite a d) := by
  unfold State.memWrite
  dsimp only
  have h : Sound s0 (s.modMem fun m => { m with
      bytes := (((wordsOf a d.length).filter fun w => (s.freshHeader (32 * w)).isSome).foldl
        (fun (m : Memory) w => m.write (32 * w) ((s.freshHeader (32 * w)).getD [])) s.mem.bytes).write a d
      ue := m.ue.filter fun w => !(fullWords a d.length).contains w }) :=
    State.modMem_sound hK fun h => Memory.wf_write _ _ _ (wf_foldl h fun _ _ h => Memory.wf_write _ _ _ h)
  split
  · exact h
  · exact State.modSeed_sound _ h

theorem State.copyBlock_sound {s0 s : State} (src : Nat) (dst : Nat) (big : Bool) (hK : Sound s0 s) :
    Sound s0 (s.copyBlock src dst big) := by
  unfold State.copyBlock
  try dsimp only
  repeat' with_reducible first | exact hK | assumption | (apply State.memWrite_sound) | split | (intro _ hr; cases hr; done) | (intro _ hr; cases hr) | (intro _) | (dsimp only; done)

theorem State.finishAll_sound {s0 s : State} (cs : List Nat) (status : Nat) (words : List Nat) (hK : Sound s0 s) :
    Sound s0 (s.finishAll cs status words) := by
  unfold State.finishAll
  try dsimp only
  repeat' with_reducible first | exact hK | assumption | (apply State.finish_sound) | (apply Sound.foldl) | split | (intro _ hr; cases hr; done) | (intro _ hr; cases hr) | (intro _) | (dsimp only; done)

theorem State.astLeft_sound {s0 s : State} (t : Nat) (x : Entry) (hK : Sound s0 s) :
    Sound s0 (s.astLeft t x) := by
  unfold State.astLeft
  try dsimp only
  repeat' with_reducible first | exact hK | assumption | (apply State.hazard_sound) | split | (intro _ hr; cases hr; done) | (intro _ hr; cases hr) | (intro _) | (dsimp only; done)

theorem State.exemptEnds_sound {s0 s : State} (t : Nat) (hK : Sound s0 s) :
    Sound s0 (s.exemptEnds t) := by
  unfold State.exemptEnds
  try dsimp only
  repeat' with_reducible first | exact hK | assumption | (refine State.modT_sound ?_ ?_) | split | (with_unfolding_all exact fun _ h => h) | (with_unfolding_all exact fun h => h) | (with_unfolding_all exact ⟨rfl, rfl, rfl⟩) | (with_unfolding_all exact fun _ _ => rfl) | (intro _ hr; cases hr; done) | (intro _ hr; cases hr) | (intro _) | (dsimp only; done)

theorem State.signalSem_sound {s0 s : State} (t : Nat) (engine : Nat) (index : Nat) (k : Nat) (hK : Sound s0 s) :
    Sound s0 (s.signalSem t engine index k) := by
  unfold State.signalSem
  try dsimp only
  repeat' with_reducible first | exact hK | assumption | (refine State.modT_sound ?_ ?_) | (apply State.hazard_sound) | split | (with_unfolding_all exact fun _ h => h) | (with_unfolding_all exact fun h => h) | (with_unfolding_all exact ⟨rfl, rfl, rfl⟩) | (with_unfolding_all exact fun _ _ => rfl) | (intro _ hr; cases hr; done) | (intro _ hr; cases hr) | (intro _) | (dsimp only; done)

theorem State.deliver_sound {s0 s : State} (t : Nat) (hK : Sound s0 s) :
    Sound s0 (s.deliver t) := by
  unfold State.deliver
  try dsimp only
  repeat' with_reducible first | exact hK | assumption | (apply State.signalSem_sound) | (refine State.modT_sound ?_ ?_) | (apply Sound.foldl) | split | (with_unfolding_all exact fun _ h => h) | (with_unfolding_all exact fun h => h) | (with_unfolding_all exact ⟨rfl, rfl, rfl⟩) | (with_unfolding_all exact fun _ _ => rfl) | (intro _ hr; cases hr; done) | (intro _ hr; cases hr) | (intro _) | (dsimp only; done)

theorem State.finishAsync_sound {s0 s : State} (t : Nat) (x : Entry) (hK : Sound s0 s) :
    Sound s0 (s.finishAsync t x) := by
  unfold State.finishAsync
  try dsimp only
  repeat' with_reducible first | exact hK | assumption | (apply State.deliver_sound) | (refine State.modT_sound ?_ ?_) | split | (with_unfolding_all exact fun _ h => h) | (with_unfolding_all exact fun h => h) | (with_unfolding_all exact ⟨rfl, rfl, rfl⟩) | (with_unfolding_all exact fun _ _ => rfl) | (intro _ hr; cases hr; done) | (intro _ hr; cases hr) | (intro _) | (dsimp only; done)

theorem State.issueShears_sound {s0 s : State} (t : Nat) (e : Nat) (i : Shoze) (hK : Sound s0 s) :
    Sound s0 (s.issueShears t e i) := by
  unfold State.issueShears
  try dsimp only
  repeat' with_reducible first | exact hK | assumption | (apply State.fmtViolation_sound) | (apply State.engine_sound) | split | (intro _ hr; cases hr; done) | (intro _ hr; cases hr) | (intro _) | (dsimp only; done)

theorem State.cvu_sound {s0 s : State} (t : Nat) (e : Nat) (i : Shoze) (f : Cvu → Cvu) (hK : Sound s0 s) :
    Sound s0 (s.cvu t e i f) := by
  unfold State.cvu
  try dsimp only
  repeat' with_reducible first | exact hK | assumption | (refine State.modT_sound ?_ ?_) | (apply State.launch_sound) | split | (with_unfolding_all exact fun _ h => h) | (with_unfolding_all exact fun h => h) | (with_unfolding_all exact ⟨rfl, rfl, rfl⟩) | (with_unfolding_all exact fun _ _ => rfl) | (intro _ hr; cases hr; done) | (intro _ hr; cases hr) | (intro _) | (dsimp only; done)

theorem State.cvFeedReg_sound {s0 s : State} (t : Nat) (e : Nat) (n : Nat) (i : Shoze) (hK : Sound s0 s) :
    Sound s0 (s.cvFeedReg t e n i) := by
  unfold State.cvFeedReg
  try dsimp only
  repeat' with_reducible first | exact hK | assumption | (apply State.cvu_sound) | split | (intro _ hr; cases hr; done) | (intro _ hr; cases hr) | (intro _) | (dsimp only; done)

theorem State.pauseAll_sound {s0 s : State} (us : Nat) (hK : Sound s0 s) :
    Sound s0 (s.pauseAll us) := by
  unfold State.pauseAll
  try dsimp only
  repeat' with_reducible first | exact hK | assumption | (apply State.modLink_sound) | (apply Sound.foldl) | split | (intro _ hr; cases hr; done) | (intro _ hr; cases hr) | (intro _) | (dsimp only; done)

theorem State.modBlock_sound {s0 s : State} (key : List Byte) (f : PBlock → PBlock) (hK : Sound s0 s) :
    Sound s0 (s.modBlock key f) := by
  unfold State.modBlock
  try dsimp only
  repeat' with_reducible first | exact hK | assumption | (apply State.modPfx_sound) | split | (intro _ hr; cases hr; done) | (intro _ hr; cases hr) | (intro _) | (dsimp only; done)

theorem State.gddrRoom_sound {s0 s : State} (who : SbReq) (big : Bool) (hK : Sound s0 s) : Sound s0 (s.gddrRoom who big).2 := by
  unfold State.gddrRoom
  dsimp only
  have ht : (if s.held 0x100 (blockPool big) < (if big then s.pfx.lim1m else s.pfx.lim64) then s.takeBuffer who 0x100 (blockPool big) 0xF none false
      else .empty).Sound s0 := by
    by_cases hl : s.held 0x100 (blockPool big) < (if big then s.pfx.lim1m else s.pfx.lim64)
    · rw [if_pos hl]; exact State.takeBuffer_sound _ _ _ _ _ _ hK
    · rw [if_neg hl]; trivial
  have hc := State.cxlRoom_sound who big hK
  split
  · next h => rw [h] at ht; exact ht
  · exact hK
  · split
    · exact hK
    · split
      · next h => rw [h] at hc; exact State.modBlock_sound _ _ hc
      · exact hK
      · exact State.pfxCount_sound _ (State.modPfx_sound _ hK)

theorem State.allocCells_sound {s0 s : State} (p : Pkt) (hK : Sound s0 s) :
    Sound s0 (s.allocCells p).2 := by
  unfold State.allocCells
  try dsimp only
  repeat' with_reducible first | exact hK | assumption | (apply State.modFab_sound) | split | (intro _ hr; cases hr; done) | (intro _ hr; cases hr) | (intro _) | (dsimp only; done)

theorem State.lowerSlabs_sound {s0 s : State} (lim n : Nat) (hK : Sound s0 s) : Sound s0 (s.lowerSlabs lim n) := by
  induction n generalizing s with
  | zero => exact hK
  | succ n ih =>
    unfold State.lowerSlabs
    split
    · exact hK
    · split
      · exact hK
      · exact ih (State.pfxCount_sound _ (State.removeBlock_sound _ hK))

theorem State.postPackets_sound {s0 s : State} (l : Nat) (c : CPrefix) (ps : List RPkt) (hK : Sound s0 s) :
    Sound s0 (s.postPackets l c ps) := by
  unfold State.postPackets
  try dsimp only
  repeat' with_reducible first | exact hK | assumption | (apply State.sendOn36_sound) | (apply Sound.foldl) | split | (intro _ hr; cases hr; done) | (intro _ hr; cases hr) | (intro _) | (dsimp only; done)

theorem State.admitTo_sound {s0 s s' : State} (c : Nat) (ports words : List Nat) (hK : Sound s0 s) (hK' : Sound s0 s') : Sound s0 (s.admitTo s' c ports words) := by
  unfold State.admitTo
  split
  · exact State.finish_sound _ _ _ _ hK
  · split
    · exact State.finish_sound _ _ _ _ hK
    · exact State.finish_sound _ _ _ _ hK'

theorem State.dropPut_sound {s0 s : State} (pid : Nat) (hK : Sound s0 s) :
    Sound s0 (s.dropPut pid) := by
  unfold State.dropPut
  try dsimp only
  repeat' with_reducible first | exact hK | assumption | (apply State.modPfx_sound) | split | (intro _ hr; cases hr; done) | (intro _ hr; cases hr) | (intro _) | (dsimp only; done)

theorem State.takeHead_sound {s0 s : State} (t : Nat) (p : Pkt) (hK : Sound s0 s) :
    Sound s0 (s.takeHead t p) := by
  unfold State.takeHead
  try dsimp only
  repeat' with_reducible first | exact hK | assumption | (apply State.release_sound) | (refine State.modT_sound ?_ ?_) | split | (with_unfolding_all exact fun _ h => h) | (with_unfolding_all exact fun h => h) | (with_unfolding_all exact ⟨rfl, rfl, rfl⟩) | (with_unfolding_all exact fun _ _ => rfl) | (intro _ hr; cases hr; done) | (intro _ hr; cases hr) | (intro _) | (dsimp only; done)

theorem State.putReply_sound {s0 s : State} (q : PPut) (status : Nat) (version : Nat) (hK : Sound s0 s) :
    Sound s0 (s.putReply q status version) := by
  unfold State.putReply
  try dsimp only
  repeat' with_reducible first | exact hK | assumption | (apply State.drawn_sound) | (apply State.pfxSend_sound) | split | (intro _ hr; cases hr; done) | (intro _ hr; cases hr) | (intro _) | (dsimp only; done)

theorem State.dropRecvQ_sound {s0 s : State} (t : Nat) (hK : Sound s0 s) :
    Sound s0 (s.dropRecvQ t) := by
  unfold State.dropRecvQ
  try dsimp only
  repeat' with_reducible first | exact hK | assumption | (refine State.modT_sound ?_ ?_) | (apply State.dropPkt_sound) | (apply Sound.foldl) | split | (with_unfolding_all exact fun _ h => h) | (with_unfolding_all exact fun h => h) | (with_unfolding_all exact ⟨rfl, rfl, rfl⟩) | (with_unfolding_all exact fun _ _ => rfl) | (intro _ hr; cases hr; done) | (intro _ hr; cases hr) | (intro _) | (dsimp only; done)

theorem State.writeScrub_sound {s0 s : State} (hi : Bool) (v : BitVec 32) (hK : Sound s0 s) :
    Sound s0 (s.writeScrub hi v) := by
  unfold State.writeScrub
  try dsimp only
  repeat' with_reducible first | exact hK | assumption | (apply State.modDev_sound) | split | (intro _ hr; cases hr; done) | (intro _ hr; cases hr) | (intro _) | (dsimp only; done)

theorem State.writeGleaner_sound {s0 s : State} (v : BitVec 32) (hK : Sound s0 s) :
    Sound s0 (s.writeGleaner v) := by
  unfold State.writeGleaner
  try dsimp only
  repeat' with_reducible first | exact hK | assumption | (apply State.modDev_sound) | (apply State.modFab_sound) | split | (intro _ hr; cases hr; done) | (intro _ hr; cases hr) | (intro _) | (dsimp only; done)

theorem State.writeHrxCfg_sound {s0 s : State} (v : BitVec 32) (hK : Sound s0 s) :
    Sound s0 (s.writeHrxCfg v) := by
  unfold State.writeHrxCfg
  try dsimp only
  repeat' with_reducible first | exact hK | assumption | (apply State.modDev_sound) | split | (intro _ hr; cases hr; done) | (intro _ hr; cases hr) | (intro _) | (dsimp only; done)

theorem State.writeWdog_sound {s0 s : State} (v : BitVec 32) (hK : Sound s0 s) :
    Sound s0 (s.writeWdog v) := by
  unfold State.writeWdog
  try dsimp only
  repeat' with_reducible first | exact hK | assumption | (apply State.modDev_sound) | split | (intro _ hr; cases hr; done) | (intro _ hr; cases hr) | (intro _) | (dsimp only; done)

theorem State.settleRing_sound {s0 s : State} (r : Nat) (hK : Sound s0 s) :
    Sound s0 (s.settleRing r) := by
  unfold State.settleRing
  try dsimp only
  repeat' with_reducible first | exact hK | assumption | (apply State.modRing_sound) | split | (intro _ hr; cases hr; done) | (intro _ hr; cases hr) | (intro _) | (dsimp only; done)

theorem State.writeRingCfg_sound {s0 s : State} (r : Nat) (v : BitVec 32) (hK : Sound s0 s) :
    Sound s0 (s.writeRingCfg r v) := by
  unfold State.writeRingCfg
  try dsimp only
  repeat' with_reducible first | exact hK | assumption | (apply State.modRing_sound) | (apply State.settleRing_sound) | split | (intro _ hr; cases hr; done) | (intro _ hr; cases hr) | (intro _) | (dsimp only; done)

theorem State.writeRingWord_sound {s0 s : State} (r : Nat) (o : Nat) (v : BitVec 32) (hK : Sound s0 s) :
    Sound s0 (s.writeRingWord r o v) := by
  unfold State.writeRingWord
  try dsimp only
  repeat' with_reducible first | exact hK | assumption | (apply State.modRing_sound) | (apply State.writeRingCfg_sound) | split | (intro _ hr; cases hr; done) | (intro _ hr; cases hr) | (intro _) | (dsimp only; done)

theorem State.writeMsix_sound {s0 s : State} (i : Nat) (v : BitVec 32) (hK : Sound s0 s) :
    Sound s0 (s.writeMsix i v) := by
  unfold State.writeMsix
  try dsimp only
  repeat' with_reducible first | exact hK | assumption | (refine State.modHost_sound ?_ ?_) | (apply State.msix_sound) | split | (with_unfolding_all exact fun _ h => h) | (with_unfolding_all exact fun h => h) | (with_unfolding_all exact ⟨rfl, rfl, rfl⟩) | (with_unfolding_all exact fun _ _ => rfl) | (intro _ hr; cases hr; done) | (intro _ hr; cases hr) | (intro _) | (dsimp only; done)

theorem State.writeWord_sound {s0 s : State} (off : Nat) (v : BitVec 32) (hK : Sound s0 s) :
    Sound s0 (s.writeWord off v) := by
  unfold State.writeWord
  repeat' with_reducible first
    | exact hK | apply State.modDev_sound | apply State.writeScrub_sound | apply State.writeGleaner_sound | apply State.writeHrxCfg_sound
    | apply State.writeWdog_sound | apply State.writeRingWord_sound | apply State.modLink_sound | apply State.writeMsix_sound | apply Sound.ite

theorem State.setMinima_sound {s0 s : State} (o : Nat) (l : List Nat) (hK : Sound s0 s) :
    Sound s0 (s.setMinima o l) := by
  unfold State.setMinima
  try dsimp only
  repeat' with_reducible first | exact hK | assumption | (apply State.modSeed_sound) | (apply Sound.foldl) | split | (intro _ hr; cases hr; done) | (intro _ hr; cases hr) | (intro _) | (dsimp only; done)

theorem State.setQueues_sound {s0 s : State} (first : Nat) (n : Nat) (f : SqCfg → SqCfg) (hK : Sound s0 s) :
    Sound s0 (s.setQueues first n f) := by
  unfold State.setQueues
  try dsimp only
  repeat' with_reducible first | exact hK | assumption | (apply State.modFab_sound) | (apply Sound.foldl) | split | (intro _ hr; cases hr; done) | (intro _ hr; cases hr) | (intro _) | (dsimp only; done)

theorem State.takeQueues_sound {s0 s : State} (x : Nat) (l : List (List Byte)) (hK : Sound s0 s) : ∀ r, s.takeQueues x l = some r → Sound s0 r.2 := by
  induction l generalizing s with
  | nil => intro r hr; cases hr; exact hK
  | cons d t ih =>
    intro r
    unfold State.takeQueues
    dsimp only
    split
    · intro hr; simp at hr
    · split
      · intro hr
        simp only [Option.map_eq_some_iff] at hr
        obtain ⟨y, hy, rfl⟩ := hr
        have := ih (State.modPolicer_sound _ _ (State.setQueues_sound _ _ _ hK)) y hy
        exact this
      · intro hr; simp at hr

theorem State.takeMany_sound {s0 s : State} (who : SbReq) (owner k : Nat) (slot : Option Nat) (n : Nat) (hK : Sound s0 s) :
    (s.takeMany who owner k slot n).Sound s0 := by
  induction n generalizing s with
  | zero => exact hK
  | succ n ih =>
    have ht := State.takeBuffer_sound who owner k 0xF slot false hK
    unfold State.takeMany
    split
    · trivial
    · trivial
    · trivial
    · next h =>
      rw [h] at ht
      have hi := ih ht
      split
      · next h => rw [h] at hi; exact hi
      · exact hi

theorem State.reserveCopy_sound {s0 s : State} (who : SbReq) (x : Nat) (queues : List Nat) (n : Nat) (hK : Sound s0 s) :
    (s.reserveCopy who x queues n).Sound s0 := by
  have ht := State.takeMany_sound who x 2 none n hK
  unfold State.reserveCopy
  split
  · next h => rw [h] at ht; exact State.modCtx_sound _ _ ht
  · trivial
  · trivial

theorem State.check7_sound {s0 s : State} (who : SbReq) (x : Nat) (I : Image) (sizes : List Nat) (hK : Sound s0 s) :
    (s.check7 who x I sizes).Sound s0 := by
  unfold State.check7
  extract_lets s1
  have k1 : Sound s0 s1 := State.setMinima_sound _ _ hK
  clear_value s1
  split
  · trivial
  · split
    · trivial
    · split
      · trivial
      · next q hq => exact State.reserveCopy_sound _ _ _ _ (State.takeQueues_sound _ _ k1 _ hq)

theorem State.steerBytes_sound {s0 s : State} (x : Nat) (l : List Nat) (hK : Sound s0 s) :
    Sound s0 (s.steerBytes x l) := by
  unfold State.steerBytes
  try dsimp only
  repeat' with_reducible first | exact hK | assumption | (apply State.modFab_sound) | (apply Sound.foldl) | split | (intro _ hr; cases hr; done) | (intro _ hr; cases hr) | (intro _) | (dsimp only; done)

theorem State.placeImage_sound {s0 s : State} (x : Nat) (I : Image) (bytes : List Byte) (phases : List Nat) (hK : Sound s0 s) :
    Sound s0 (s.placeImage x I bytes phases) := by
  unfold State.placeImage
  dsimp only
  exact State.steerBytes_sound _ _ (Sound.foldl (State.modCtx_sound _ _ hK) fun _ _ h => State.modT_sound h fun _ _ => TEntry.place_memWf _ _ _ _ _)

theorem State.loadImage_sound {s0 s : State} (who : SbReq) (x : Nat) (bytes : List Byte) (sizes phases : List Nat) (hK : Sound s0 s) :
    (s.loadImage who x bytes sizes phases).Sound s0 := by
  unfold State.loadImage
  split
  · trivial
  · split
    · trivial
    · next I _ =>
      have ht := State.check7_sound who x I sizes hK
      split
      · next h => rw [h] at ht; exact State.placeImage_sound _ _ _ _ ht
      · exact ht

theorem State.accept_sound {s0 s : State} (src : CmdSrc) (desc : List Byte) (params : Option (List Byte)) (ok : Bool) (hK : Sound s0 s) :
    Sound s0 (s.accept src desc params ok) := by
  unfold State.accept
  try dsimp only
  repeat' with_reducible first | exact hK | assumption | (refine State.modHost_sound ?_ ?_) | (apply State.finish_sound) | split | (with_unfolding_all exact fun _ h => h) | (with_unfolding_all exact fun h => h) | (with_unfolding_all exact ⟨rfl, rfl, rfl⟩) | (with_unfolding_all exact fun _ _ => rfl) | (intro _ hr; cases hr; done) | (intro _ hr; cases hr) | (intro _) | (dsimp only; done)

theorem State.startStep_sound {s0 s : State} (l : Nat) (n : Nat) (hK : Sound s0 s) :
    Sound s0 (s.startStep l n) := by
  unfold State.startStep
  try dsimp only
  repeat' with_reducible first | exact hK | assumption | (apply State.modSlot_sound) | split | (intro _ hr; cases hr; done) | (intro _ hr; cases hr) | (intro _) | (dsimp only; done)

theorem State.takeIn_sound {s0 s : State} (l : Nat) (p : Pkt) (c : CPrefix) (nbr : Option Nat) (hK : Sound s0 s) :
    Sound s0 (s.takeIn l p c nbr) := by
  unfold State.takeIn
  try dsimp only
  repeat' with_reducible first | exact hK | assumption | (apply State.startStep_sound) | (apply State.modSlot_sound) | (apply State.modStep_sound) | split | (refine Sound.lit ?_; first | exact hK | (apply State.startStep_sound) | (apply State.modSlot_sound) | (apply State.modStep_sound)) | (intro _ hr; cases hr; done) | (intro _ hr; cases hr) | (intro _) | (dsimp only; done)

theorem State.releaseBuffers_sound {s0 s : State} (hK : Sound s0 s) :
    Sound s0 s.releaseBuffers := by
  unfold State.releaseBuffers
  try dsimp only
  repeat' with_reducible first | exact hK | assumption | (apply State.modSeed_sound) | (apply State.giveAddr_sound) | (apply Sound.foldl) | split | (intro _ hr; cases hr; done) | (intro _ hr; cases hr) | (intro _) | (dsimp only; done)

theorem State.windowedDrop_sound {s0 s : State} (p : Pkt) (reason : Nat) (hK : Sound s0 s) :
    Sound s0 (s.windowedDrop p reason) := by
  unfold State.windowedDrop
  try dsimp only
  repeat' with_reducible first | exact hK | assumption | (apply State.rollWindow_sound) | (apply State.dropPkt_sound) | (apply State.modFab_sound) | (apply State.almQueue_sound) | split | (intro _ hr; cases hr; done) | (intro _ hr; cases hr) | (intro _) | (dsimp only; done)

theorem State.decidePkt_sound {s0 s : State} (i : Nat) (p : Pkt) (hK : Sound s0 s) :
    Sound s0 (s.decidePkt i p) := by
  unfold State.decidePkt
  try dsimp only
  have h : ∀ x : Option State, (∀ y, x = some y → Sound s0 y) → Sound s0 (x.getD (s.release p)) := by
    intro x hx
    cases x with
    | none => exact State.release_sound _ hK
    | some y => exact hx y rfl
  repeat' with_reducible first
    | exact hK | apply State.dropPkt_sound | apply State.windowedDrop_sound | apply State.deliveryLost_sound | apply State.protoDrop_sound
    | apply State.release_sound | apply State.link_sound | split
  all_goals
    refine h _ fun y hy => ?_
    simp only [Option.map_eq_some_iff] at hy
    obtain ⟨a, _, rfl⟩ := hy
    exact State.protoDrop_sound _ (State.release_sound _ hK)

theorem State.easeSlice_sound {s0 s : State} (i : Nat) (hK : Sound s0 s) :
    Sound s0 (s.easeSlice i) := by
  unfold State.easeSlice
  try dsimp only
  repeat' with_reducible first | exact hK | assumption | (apply State.modSlice_sound) | split | (intro _ hr; cases hr; done) | (intro _ hr; cases hr) | (intro _) | (dsimp only; done)

theorem State.noteRead_sound {s0 s : State} (a : Nat) (n : Nat) (hK : Sound s0 s) :
    Sound s0 (s.noteRead a n) := by
  unfold State.noteRead
  try dsimp only
  repeat' with_reducible first | exact hK | assumption | (apply State.corrected_sound) | (apply State.memUe_sound) | split | (intro _ hr; cases hr; done) | (intro _ hr; cases hr) | (intro _) | (dsimp only; done)

theorem State.lowerGddr_sound {s0 s : State} (big : Bool) (lim n : Nat) (hK : Sound s0 s) : Sound s0 (s.lowerGddr big lim n) := by
  induction n generalizing s with
  | zero => exact hK
  | succ n ih =>
    unfold State.lowerGddr
    split
    · exact hK
    · split
      · exact hK
      · next v _ =>
        have hc := State.cxlRoom_sound { tiller := 193 } big hK
        split
        · exact hK
        · next h =>
          rw [h] at hc
          dsimp only
          refine ih (Sound.ite ?_ ?_)
          · exact State.pfxCount_sound _ (State.removeBlock_sound _ (State.noteRead_sound _ _ hK))
          · exact State.giveAddr_sound _ (State.pfxCount_sound _ (State.modBlock_sound _ _ (State.copyBlock_sound _ _ _ (State.noteRead_sound _ _ hc))))
        · exact ih (State.pfxCount_sound _ (State.removeBlock_sound _ hK))

theorem State.unhold_sound {s0 s : State} (p : Nat) (hK : Sound s0 s) :
    Sound s0 (s.unhold p) := by
  unfold State.unhold
  try dsimp only
  repeat' with_reducible first | exact hK | assumption | (apply State.modLink_sound) | split | (intro _ hr; cases hr; done) | (intro _ hr; cases hr) | (intro _) | (dsimp only; done)

theorem State.hold_sound {s0 s : State} (p : Nat) (reason : Nat) (before : Bool) (hK : Sound s0 s) :
    Sound s0 (s.hold p reason before) := by
  unfold State.hold
  try dsimp only
  repeat' with_reducible first | exact hK | assumption | (apply State.link_sound) | (apply State.linkDown_sound) | split | (intro _ hr; cases hr; done) | (intro _ hr; cases hr) | (intro _) | (dsimp only; done)

theorem State.writePort_sound {s0 s : State} (q : List Byte) (hK : Sound s0 s) :
    Sound s0 (s.writePort q) := by
  unfold State.writePort
  try dsimp only
  repeat' with_reducible first | exact hK | assumption | (apply State.modPort_sound) | (apply State.link_sound) | (apply State.unhold_sound) | (apply State.hold_sound) | split | (intro _ hr; cases hr; done) | (intro _ hr; cases hr) | (intro _) | (dsimp only; done)

theorem State.grantClass_sound {s0 s : State} (p : Nat) (c : Nat) (hK : Sound s0 s) :
    Sound s0 (s.grantClass p c) := by
  unfold State.grantClass
  try dsimp only
  repeat' with_reducible first | exact hK | assumption | (apply State.modLink_sound) | (apply State.modFab_sound) | split | (intro _ hr; cases hr; done) | (intro _ hr; cases hr) | (intro _) | (dsimp only; done)

theorem State.grantAll_sound {s0 s : State} (p : Nat) (hK : Sound s0 s) :
    Sound s0 (s.grantAll p) := by
  unfold State.grantAll
  try dsimp only
  repeat' with_reducible first | exact hK | assumption | (apply State.grantClass_sound) | (apply Sound.foldl) | split | (intro _ hr; cases hr; done) | (intro _ hr; cases hr) | (intro _) | (dsimp only; done)

theorem State.sendControl_sound {s0 s : State} (p : Nat) (hK : Sound s0 s) :
    Sound s0 (s.sendControl p) := by
  unfold State.sendControl
  try dsimp only
  repeat' with_reducible first | exact hK | assumption | (apply State.grantAll_sound) | (apply State.countLink_sound) | (apply State.modLink_sound) | split | (intro _ hr; cases hr; done) | (intro _ hr; cases hr) | (intro _) | (dsimp only; done)

theorem State.sendData_sound {s0 s : State} (p : Nat) (hK : Sound s0 s) :
    Sound s0 (s.sendData p) := by
  unfold State.sendData
  try dsimp only
  repeat' with_reducible first | exact hK | assumption | (apply State.modLink_sound) | (apply State.countLink_sound) | split | (intro _ hr; cases hr; done) | (intro _ hr; cases hr) | (intro _) | (dsimp only; done)

theorem State.pfxRow_sound {s0 s : State} (t op : Nat) (serve : Pkt → PReq → State) (hK : Sound s0 s) (hs : ∀ p q, Sound s0 (serve p q)) :
    Sound s0 (s.pfxRow t op serve) := by
  unfold State.pfxRow
  split
  · exact hK
  · split
    · exact hK
    · split
      · exact State.pfxCount_sound _ (State.takeHead_sound _ _ hK)
      · split
        · exact hs _ _
        · exact hK

theorem State.sendReplays_sound {s0 s : State} (t : Nat) (hK : Sound s0 s) :
    Sound s0 (s.sendReplays t) := by
  unfold State.sendReplays
  try dsimp only
  repeat' with_reducible first | exact hK | assumption | (apply State.modSlot_sound) | (apply State.slotSendAll_sound) | (apply Sound.foldl) | split | (intro _ hr; cases hr; done) | (intro _ hr; cases hr) | (intro _) | (dsimp only; done)

theorem State.putRecord_sound {s0 s : State} (r : Nat) (status : Nat) (opcode : Nat) (tag : Nat) (event : Bool) (words : List Nat) (hK : Sound s0 s) :
    Sound s0 (s.putRecord r status opcode tag event words) := by
  unfold State.putRecord
  try dsimp only
  repeat' with_reducible first | exact hK | assumption | (apply State.writeHost_sound) | (apply State.modRing_sound) | (refine State.modHost_sound ?_ ?_) | (apply State.msix_sound) | split | (with_unfolding_all exact fun _ h => h) | (with_unfolding_all exact fun h => h) | (with_unfolding_all exact ⟨rfl, rfl, rfl⟩) | (with_unfolding_all exact fun _ _ => rfl) | (intro _ hr; cases hr; done) | (intro _ hr; cases hr) | (intro _) | (dsimp only; done)

theorem State.takeSteered_sound {s0 s : State} (x : Nat) (tillers : List Nat) (hK : Sound s0 s) :
    Sound s0 (s.takeSteered x tillers).2 := by
  unfold State.takeSteered
  try dsimp only
  repeat' with_reducible first | exact hK | assumption | (apply State.setSq_sound) | (apply State.modFab_sound) | (refine State.modT_sound ?_ ?_) | (apply Sound.foldl) | split | (with_unfolding_all exact fun _ h => h) | (with_unfolding_all exact fun h => h) | (with_unfolding_all exact ⟨rfl, rfl, rfl⟩) | (with_unfolding_all exact fun _ _ => rfl) | (intro _ hr; cases hr; done) | (intro _ hr; cases hr) | (intro _) | (dsimp only; done)

theorem State.endPosts_sound {s0 s : State} (l : Nat) (status : Nat) (hK : Sound s0 s) :
    Sound s0 (s.endPosts l status) := by
  unfold State.endPosts
  try dsimp only
  repeat' with_reducible first | exact hK | assumption | (refine State.modHost_sound ?_ ?_) | (apply State.finish_sound) | (apply Sound.foldl) | split | (with_unfolding_all exact fun _ h => h) | (with_unfolding_all exact fun h => h) | (with_unfolding_all exact ⟨rfl, rfl, rfl⟩) | (with_unfolding_all exact fun _ _ => rfl) | (intro _ hr; cases hr; done) | (intro _ hr; cases hr) | (intro _) | (dsimp only; done)

theorem State.freeQueues_sound {s0 s : State} (l : List Nat) (hK : Sound s0 s) :
    Sound s0 (s.freeQueues l) := by
  unfold State.freeQueues
  try dsimp only
  repeat' with_reducible first | exact hK | assumption | (apply State.setQueues_sound) | (apply Sound.foldl) | split | (intro _ hr; cases hr; done) | (intro _ hr; cases hr) | (intro _) | (dsimp only; done)

theorem State.unbind_sound {s0 s : State} (l : Nat) (hK : Sound s0 s) :
    Sound s0 (s.unbind l) := by
  unfold State.unbind
  try dsimp only
  repeat' with_reducible first | exact hK | assumption | (apply State.endPosts_sound) | (apply State.abortSteps_sound) | (apply State.freeQueues_sound) | (apply State.giveAddr_sound) | (apply State.modFab_sound) | (apply State.modSlot_sound) | (apply Sound.foldl) | split | (intro _ hr; cases hr; done) | (intro _ hr; cases hr) | (intro _) | (dsimp only; done)

theorem State.dropStale_sound {s0 s : State} (l : List Pkt) (hK : Sound s0 s) :
    Sound s0 (s.dropStale l) := by
  unfold State.dropStale
  try dsimp only
  repeat' with_reducible first | exact hK | assumption | (apply State.windowedDrop_sound) | (apply Sound.foldl) | split | (intro _ hr; cases hr; done) | (intro _ hr; cases hr) | (intro _) | (dsimp only; done)

theorem State.tearEpoch_sound {s0 s : State} (x : Nat) (hK : Sound s0 s) :
    Sound s0 (s.tearEpoch x) := by
  unfold State.tearEpoch
  try dsimp only
  repeat' with_reducible first | exact hK | assumption | (apply State.takeSteered_sound) | (apply State.dropStale_sound) | (apply State.almQueue_sound) | (apply State.unbind_sound) | (apply State.modCtx_sound) | (apply Sound.foldl) | split | (refine Sound.lit ?_) | (intro _ hr; cases hr; done) | (intro _ hr; cases hr) | (intro _) | (dsimp only; done)

theorem State.serveVc_sound {s0 s : State} (p : Nat) (v : Nat) (hK : Sound s0 s) :
    Sound s0 (s.serveVc p v) := by
  unfold State.serveVc
  try dsimp only
  repeat' with_reducible first | exact hK | assumption | (apply State.modFab_sound) | (apply State.sendHead_sound) | split | (intro _ hr; cases hr; done) | (intro _ hr; cases hr) | (intro _) | (dsimp only; done)

theorem State.selectPort_sound {s0 s : State} (p : Nat) (hK : Sound s0 s) :
    Sound s0 (s.selectPort p) := by
  unfold State.selectPort
  try dsimp only
  repeat' with_reducible first | exact hK | assumption | (apply State.serveVc_sound) | (apply State.modFab_sound) | split | (intro _ hr; cases hr; done) | (intro _ hr; cases hr) | (intro _) | (dsimp only; done)

theorem State.dropStoreWork_sound {s0 s : State} (t : Nat) (hK : Sound s0 s) :
    Sound s0 (s.dropStoreWork t) := by
  unfold State.dropStoreWork
  try dsimp only
  repeat' with_reducible first | exact hK | assumption | (apply State.modPfx_sound) | (apply State.giveAddr_sound) | (apply Sound.foldl) | split | (intro _ hr; cases hr; done) | (intro _ hr; cases hr) | (intro _) | (dsimp only; done)

theorem State.resetEngine_sound {s0 s : State} (t : Nat) (e : Nat) (hK : Sound s0 s) :
    Sound s0 (s.resetEngine t e) := by
  unfold State.resetEngine
  dsimp only
  split
  · exact State.modT_sound (State.modFab_sound _ hK) fun _ h => Tiller.clearEngine_memWf _ _ h
  · exact State.modT_sound hK fun _ h => Tiller.clearEngine_memWf _ _ h

theorem State.loseCommits_sound {s0 s : State} (t : Nat) (hK : Sound s0 s) :
    Sound s0 (s.loseCommits t) := by
  unfold State.loseCommits
  try dsimp only
  repeat' with_reducible first | exact hK | assumption | (apply State.modSlot_sound) | (apply Sound.foldl) | split | (intro _ hr; cases hr; done) | (intro _ hr; cases hr) | (intro _) | (dsimp only; done)

theorem State.resetTiller_sound {s0 s : State} (t : Nat) (reload : Bool) (hK : Sound s0 s) :
    Sound s0 (s.resetTiller t reload) := by
  unfold State.resetTiller
  dsimp only
  refine State.modT_sound (State.loseResults_sound _ (State.dropRecvQ_sound _ (Sound.foldl (State.loseCommits_sound _ hK) fun _ _ h => State.resetEngine_sound _ _ h))) ?_
  intro T _
  rw [Tiller.memWf_iff]
  dsimp only
  refine ⟨?_, ?_⟩
  · split
    · exact Memory.wf_write _ _ _ rfl
    · rfl
  · split
    · exact wf_pad _ _
    · rfl

theorem State.endReset_sound {s0 s : State} (t : Nat) (r : ResetInfo) (restart : Bool) (hK : Sound s0 s) :
    Sound s0 (s.endReset t r restart) := by
  unfold State.endReset
  try dsimp only
  repeat' with_reducible first | exact hK | assumption | (refine State.modT_sound ?_ ?_) | (apply State.finishAll_sound) | split | (with_unfolding_all exact fun _ h => h) | (with_unfolding_all exact fun h => h) | (with_unfolding_all exact ⟨rfl, rfl, rfl⟩) | (with_unfolding_all exact fun _ _ => rfl) | (intro _ hr; cases hr; done) | (intro _ hr; cases hr) | (intro _) | (dsimp only; done)

theorem State.dropEntry_sound {s0 s : State} (t : Nat) (x : Entry) (hK : Sound s0 s) :
    Sound s0 (s.dropEntry t x) := by
  unfold State.dropEntry
  try dsimp only
  repeat' with_reducible first | exact hK | assumption | (refine State.modT_sound ?_ ?_) | split | (with_unfolding_all exact fun _ h => h) | (with_unfolding_all exact fun h => h) | (with_unfolding_all exact ⟨rfl, rfl, rfl⟩) | (with_unfolding_all exact fun _ _ => rfl) | (intro _ hr; cases hr; done) | (intro _ hr; cases hr) | (intro _) | (dsimp only; done)

theorem State.chargeClass_sound {s0 s : State} (c : Nat) (k : Nat) (hK : Sound s0 s) :
    Sound s0 (s.chargeClass c k) := by
  unfold State.chargeClass
  try dsimp only
  repeat' with_reducible first | exact hK | assumption | (apply State.modFab_sound) | split | (intro _ hr; cases hr; done) | (intro _ hr; cases hr) | (intro _) | (dsimp only; done)

theorem State.holdPower_sound {s0 s : State} (p : Nat) (hK : Sound s0 s) :
    Sound s0 (s.holdPower p) := by
  unfold State.holdPower
  try dsimp only
  repeat' with_reducible first | exact hK | assumption | (apply State.modLink_sound) | (apply State.hold_sound) | (apply State.link_sound) | split | (intro _ hr; cases hr; done) | (intro _ hr; cases hr) | (intro _) | (dsimp only; done)

theorem State.sbServeList_sound {s0 s : State} (l : List SbReq) (hK : Sound s0 s) : Sound s0 (State.sbServeList l s) := by
  induction l generalizing s with
  | nil => exact hK
  | cons q t ih => exact ih (Sound.ite (Sound.ite hK (State.modSeed_sound _ hK)) (State.sbAsk_sound _ hK))

theorem State.sbServe_sound {s0 s : State} (L : Nat) (hK : Sound s0 s) : Sound s0 (s.sbServe L) :=
  State.sbServeList_sound _ (State.modSeed_sound _ hK)

theorem State.holdLimits_sound {s0 s : State} (hK : Sound s0 s) : Sound s0 s.holdLimits := by
  unfold State.holdLimits
  split
  · exact State.lowerSlabs_sound _ _ (State.lowerGddr_sound _ _ _ (State.lowerGddr_sound _ _ _ hK))
  · exact hK

theorem State.pfxTick_sound {s0 s : State} (hK : Sound s0 s) :
    Sound s0 s.pfxTick := by
  unfold State.pfxTick
  try dsimp only
  repeat' with_reducible first | exact hK | assumption | (apply State.freeStorage_sound) | (apply State.modPfx_sound) | (apply State.holdLimits_sound) | (apply Sound.foldl) | split | (intro _ hr; cases hr; done) | (intro _ hr; cases hr) | (intro _) | (dsimp only; done)

theorem State.cxlDown_sound {s0 s : State} (k : Nat) (hK : Sound s0 s) :
    Sound s0 (s.cxlDown k) := by
  unfold State.cxlDown
  try dsimp only
  repeat' with_reducible first | exact hK | assumption | (apply State.modList_sound) | (apply State.modCxl_sound) | (apply State.sbServe_sound) | (apply State.pfxTick_sound) | (apply State.dropPortBlocks_sound) | (apply State.dropDemotions_sound) | split | (intro _ hr; cases hr; done) | (intro _ hr; cases hr) | (intro _) | (dsimp only; done)

theorem State.beginOff_sound {s0 s : State} (d : Nat) (hK : Sound s0 s) :
    Sound s0 (s.beginOff d) := by
  unfold State.beginOff
  try dsimp only
  repeat' with_reducible first | exact hK | assumption | (refine State.modPwr_sound ?_ ?_) | (apply State.holdPower_sound) | (apply State.modCxl_sound) | (apply State.cxlDown_sound) | (apply Sound.foldl) | split | (with_unfolding_all exact fun _ h => h) | (with_unfolding_all exact fun h => h) | (with_unfolding_all exact ⟨rfl, rfl, rfl⟩) | (with_unfolding_all exact fun _ _ => rfl) | (intro _ hr; cases hr; done) | (intro _ hr; cases hr) | (intro _) | (dsimp only; done)

theorem State.issueSparse_sound {s0 s : State} (t : Nat) (e : Nat) (i : Shoze) (hK : Sound s0 s) :
    Sound s0 (s.issueSparse t e i) := by
  unfold State.issueSparse
  try dsimp only
  repeat' with_reducible first | exact hK | assumption | (apply State.fmtViolation_sound) | (apply State.engine_sound) | split | (intro _ hr; cases hr; done) | (intro _ hr; cases hr) | (intro _) | (dsimp only; done)

theorem State.askResend_sound {s0 s : State} (p : Nat) (hK : Sound s0 s) :
    Sound s0 (s.askResend p) := by
  unfold State.askResend
  try dsimp only
  repeat' with_reducible first | exact hK | assumption | (apply State.modLink_sound) | split | (intro _ hr; cases hr; done) | (intro _ hr; cases hr) | (intro _) | (dsimp only; done)

theorem State.rxBad_sound {s0 s : State} (p : Nat) (hK : Sound s0 s) :
    Sound s0 (s.rxBad p) := by
  unfold State.rxBad
  try dsimp only
  repeat' with_reducible first | exact hK | assumption | (apply State.countLink_sound) | (apply State.askResend_sound) | split | (intro _ hr; cases hr; done) | (intro _ hr; cases hr) | (intro _) | (dsimp only; done)

theorem State.takeMaps_sound {s0 s : State} (p : Nat) (f : List Byte) (hK : Sound s0 s) :
    Sound s0 (s.takeMaps p f) := by
  unfold State.takeMaps
  try dsimp only
  repeat' with_reducible first | exact hK | assumption | (apply State.linkDown_sound) | (apply State.modLink_sound) | split | (intro _ hr; cases hr; done) | (intro _ hr; cases hr) | (intro _) | (dsimp only; done)

theorem State.rxControl_sound {s0 s : State} (p : Nat) (f : List Byte) (hK : Sound s0 s) :
    Sound s0 (s.rxControl p f) := by
  unfold State.rxControl
  try dsimp only
  repeat' with_reducible first | exact hK | assumption | (apply State.modLink_sound) | (apply State.linkDown_sound) | (apply State.countLink_sound) | (apply State.takeMaps_sound) | (apply Sound.foldl) | split | (intro _ hr; cases hr; done) | (intro _ hr; cases hr) | (intro _) | (dsimp only; done)

theorem State.tickClk_sound {s0 s : State} (k : Tick) (hK : Sound s0 s) :
    Sound s0 (s.tickClk k) := by
  have key : ∀ up, Sound s0 (match s.clkStepTo up with | some m => s.requestClk m | none => s) := by
    intro up
    split
    · next h => exact State.requestClk_sound _ hK fun hs => State.clkStepTo_isPoint hs h
    · exact hK
  unfold State.tickClk
  dsimp only
  repeat' apply Sound.ite
  all_goals first | exact key _ | exact hK

theorem State.skipThird_sound {s0 s : State} (hK : Sound s0 s) :
    Sound s0 s.skipThird := by
  exact State.modTillers_sound (g := fun p => p.2.skipThird) hK fun _ h => Tiller.skipThird_memWf h

theorem State.tearRelease_sound {s0 s : State} (x : Nat) (hK : Sound s0 s) :
    Sound s0 (s.tearRelease x) := by
  unfold State.tearRelease
  try dsimp only
  repeat' with_reducible first | exact hK | assumption | (apply State.giveAddr_sound) | (apply State.setMinima_sound) | (apply State.setQueues_sound) | (apply State.modPolicer_sound) | (apply State.modFab_sound) | (refine State.modT_sound ?_ ?_) | (apply State.modCtx_sound) | (apply Sound.foldl) | split | (with_unfolding_all exact fun _ h => h) | (with_unfolding_all exact fun h => h) | (with_unfolding_all exact ⟨rfl, rfl, rfl⟩) | (with_unfolding_all exact fun _ _ => rfl) | (intro _ hr; cases hr; done) | (intro _ hr; cases hr) | (intro _) | (dsimp only; done)

theorem State.clear36_sound {s0 s : State} (k : Pkt) (hK : Sound s0 s) :
    Sound s0 (s.clear36 k) := by
  unfold State.clear36
  try dsimp only
  repeat' with_reducible first | exact hK | assumption | (apply State.modFab_sound) | (apply State.release_sound) | (apply State.countTx_sound) | split | (intro _ hr; cases hr; done) | (intro _ hr; cases hr) | (intro _) | (dsimp only; done)

theorem State.sendNodes_sound {s0 s : State} (l : Nat) (st : StepSt) (v : Nat) (i : Nat) (hK : Sound s0 s) :
    Sound s0 (s.sendNodes l st v i) := by
  unfold State.sendNodes
  try dsimp only
  repeat' with_reducible first | exact hK | assumption | (apply State.modStep_sound) | (apply State.sendStream_sound) | (apply Sound.foldl) | split | (intro _ hr; cases hr; done) | (intro _ hr; cases hr) | (intro _) | (dsimp only; done)

theorem State.partialPhase_sound {s0 s : State} (l : Nat) (st : StepSt) (hK : Sound s0 s) :
    Sound s0 (s.partialPhase l st) := by
  unfold State.partialPhase
  try dsimp only
  repeat' with_reducible first | exact hK | assumption | (apply State.sendNodes_sound) | (apply Sound.foldl) | split | (intro _ hr; cases hr; done) | (intro _ hr; cases hr) | (intro _) | (dsimp only; done)

theorem State.resetLink_sound {s0 s : State} (p : Nat) (fault : Nat) (hK : Sound s0 s) :
    Sound s0 (s.resetLink p fault) := by
  unfold State.resetLink
  try dsimp only
  repeat' with_reducible first | exact hK | assumption | (apply State.countLink_sound) | (apply State.modLink_sound) | split | (intro _ hr; cases hr; done) | (intro _ hr; cases hr) | (intro _) | (dsimp only; done)

theorem State.promoteTo_sound {s0 s : State} (b : PBlock) (a : Nat) (hK : Sound s0 s) :
    Sound s0 (s.promoteTo b a) := by
  unfold State.promoteTo
  try dsimp only
  repeat' with_reducible first | exact hK | assumption | (apply State.noteRead_sound) | (apply State.removeBlock_sound) | (apply State.giveAddr_sound) | (apply State.pfxCount_sound) | (apply State.copyBlock_sound) | (apply State.modBlock_sound) | (apply State.freeSlabs_sound) | split | (intro _ hr; cases hr; done) | (intro _ hr; cases hr) | (intro _) | (dsimp only; done)

theorem State.devWrite_sound {s0 s : State} (a : Nat) (d : List Byte) (hK : Sound s0 s) :
    Sound s0 (s.devWrite a d) := by
  unfold State.devWrite
  split
  · exact State.modT_sound hK fun _ h => Tiller.withSp_memWf h (Memory.wf_write _ _ _)
  · exact State.memWrite_sound _ _ hK

theorem State.haltForReset_sound {s0 s : State} (t : Nat) (hK : Sound s0 s) :
    Sound s0 (s.haltForReset t) := by
  unfold State.haltForReset
  try dsimp only
  repeat' with_reducible first | exact hK | assumption | (apply State.discardSteps_sound) | (refine State.modT_sound ?_ ?_) | (apply State.stopCheck_sound) | split | (with_unfolding_all exact fun _ h => h) | (with_unfolding_all exact fun h => h) | (with_unfolding_all exact ⟨rfl, rfl, rfl⟩) | (with_unfolding_all exact fun _ _ => rfl) | (intro _ hr; cases hr; done) | (intro _ hr; cases hr) | (intro _) | (dsimp only; done)

theorem State.eccOperand_sound {s0 s : State} (t : Nat) (engine : Nat) (index : Nat) (word : Nat) (hK : Sound s0 s) :
    Sound s0 (s.eccOperand t engine index word) := by
  unfold State.eccOperand
  try dsimp only
  repeat' with_reducible first | exact hK | assumption | (apply State.faultReset_sound) | (refine State.modT_sound ?_ ?_) | split | (with_unfolding_all exact fun _ h => h) | (with_unfolding_all exact fun h => h) | (with_unfolding_all exact ⟨rfl, rfl, rfl⟩) | (with_unfolding_all exact fun _ _ => rfl) | (intro _ hr; cases hr; done) | (intro _ hr; cases hr) | (intro _) | (dsimp only; done)

theorem State.eccCore_sound {s0 s : State} (t : Nat) (index : Nat) (word : Nat) (hK : Sound s0 s) :
    Sound s0 (s.eccCore t index word) := by
  unfold State.eccCore
  try dsimp only
  repeat' with_reducible first | exact hK | assumption | (refine State.modT_sound ?_ ?_) | (apply State.faultReset_sound) | split | (with_unfolding_all exact fun _ h => h) | (with_unfolding_all exact fun h => h) | (with_unfolding_all exact ⟨rfl, rfl, rfl⟩) | (with_unfolding_all exact fun _ _ => rfl) | (intro _ hr; cases hr; done) | (intro _ hr; cases hr) | (intro _) | (dsimp only; done)

theorem State.completeEntry_sound {s0 s : State} (t : Nat) (x : Entry) (ecc : Option Nat) (hK : Sound s0 s) :
    Sound s0 (s.completeEntry t x ecc) := by
  have hd : Sound s0 (s.dropEntry t x) := State.dropEntry_sound _ _ hK
  have hm : Sound s0 ((s.dropEntry t x).modT t fun T => { (T.result x) with engProg := SMap.set zeroAt x.engine s.t3 T.engProg }) :=
    State.modT_sound hd fun _ h => Tiller.memWf_congr (Tiller.result_memWf x h) rfl rfl
  unfold State.completeEntry
  dsimp only
  repeat' with_reducible first
    | exact hd | exact hm | apply State.eccCore_sound | apply State.eccOperand_sound | apply State.fmtViolation_sound | apply State.hazard_sound | split

theorem State.sbFree_sound {s0 s : State} (o : Nat) (a : Nat) (hK : Sound s0 s) :
    Sound s0 (s.sbFree o a).2 := by
  unfold State.sbFree
  try dsimp only
  repeat' with_reducible first | exact hK | assumption | (apply State.giveBack_sound) | split | (intro _ hr; cases hr; done) | (intro _ hr; cases hr) | (intro _) | (dsimp only; done)

theorem State.countPhase_sound {s0 s : State} (l : Nat) (st : StepSt) (hK : Sound s0 s) :
    Sound s0 (s.countPhase l st) := by
  unfold State.countPhase
  try dsimp only
  repeat' with_reducible first | exact hK | assumption | (apply State.sendStream_sound) | (apply State.modStep_sound) | (apply Sound.foldl) | split | (intro _ hr; cases hr; done) | (intro _ hr; cases hr) | (intro _) | (dsimp only; done)

theorem State.progress_sound {s0 s : State} (l : Nat) (n : Nat) (hK : Sound s0 s) :
    Sound s0 (s.progress l n) := by
  unfold State.progress
  try dsimp only
  repeat' with_reducible first | exact hK | assumption | (apply State.abortSteps_sound) | (apply State.countPhase_sound) | (apply State.partialPhase_sound) | split | (intro _ hr; cases hr; done) | (intro _ hr; cases hr) | (intro _) | (dsimp only; done)

theorem State.resendTo_sound {s0 s : State} (l : Nat) (n : Nat) (i : Nat) (hK : Sound s0 s) :
    Sound s0 (s.resendTo l n i) := by
  unfold State.resendTo
  try dsimp only
  repeat' with_reducible first | exact hK | assumption | (apply State.slotSend_sound) | (apply State.modStep_sound) | (apply State.progress_sound) | (apply Sound.foldl) | split | (intro _ hr; cases hr; done) | (intro _ hr; cases hr) | (intro _) | (dsimp only; done)

theorem State.shadowStep_sound {s0 s : State} (t : Nat) (hK : Sound s0 s) :
    Sound s0 (s.shadowStep t) := by
  unfold State.shadowStep
  split
  · exact hK
  · split
    · refine hK.mk' rfl rfl rfl id fun ⟨a, b, c, d⟩ => ⟨a, b, c, fun x T hx hT => ?_⟩
      simp only [State.modShadow, Option.map_eq_some_iff] at hx
      obtain ⟨y, _, rfl⟩ := hx
      simp only [Option.some.injEq] at hT
      exact hT ▸ c t
    · split
      · split
        · exact State.endShadow_sound _ hK
        · exact State.modShadow_sound hK fun _ _ => rfl
      · split
        · exact State.endRepeat_sound _ hK
        · exact hK

theorem State.ctxHalts_sound {s0 s : State} (x : Nat) (hK : Sound s0 s) :
    Sound s0 (s.ctxHalts x) := by
  unfold State.ctxHalts
  try dsimp only
  repeat' with_reducible first | exact hK | assumption | (apply State.modCtx_sound) | (apply State.ctxEvent_sound) | (apply State.stopCheck_sound) | split | (intro _ hr; cases hr; done) | (intro _ hr; cases hr) | (intro _) | (dsimp only; done)

theorem State.endPost_sound {s0 s : State} (p : Post) (status : Nat) (words : List Nat) (hK : Sound s0 s) :
    Sound s0 (s.endPost p status words) := by
  unfold State.endPost
  try dsimp only
  repeat' with_reducible first | exact hK | assumption | (refine State.modHost_sound ?_ ?_) | (apply State.finish_sound) | split | (with_unfolding_all exact fun _ h => h) | (with_unfolding_all exact fun h => h) | (with_unfolding_all exact ⟨rfl, rfl, rfl⟩) | (with_unfolding_all exact fun _ _ => rfl) | (intro _ hr; cases hr; done) | (intro _ hr; cases hr) | (intro _) | (dsimp only; done)

theorem State.modPost_sound {s0 s : State} (p : Post) (q : Post) (hK : Sound s0 s) :
    Sound s0 (s.modPost p q) := by
  unfold State.modPost
  try dsimp only
  repeat' with_reducible first | exact hK | assumption | (refine State.modHost_sound ?_ ?_) | split | (with_unfolding_all exact fun _ h => h) | (with_unfolding_all exact fun h => h) | (with_unfolding_all exact ⟨rfl, rfl, rfl⟩) | (with_unfolding_all exact fun _ _ => rfl) | (intro _ hr; cases hr; done) | (intro _ hr; cases hr) | (intro _) | (dsimp only; done)

theorem State.answerPost_sound {s0 s : State} (l : Nat) (p : Post) (c : CPrefix) (d : List Byte) (pieces : Nat) (hK : Sound s0 s) :
    Sound s0 (s.answerPost l p c d pieces) := by
  unfold State.answerPost
  try dsimp only
  repeat' with_reducible first | exact hK | assumption | (apply State.writeHost_sound) | (apply State.protoDrop_sound) | (apply State.modPost_sound) | (apply State.endPost_sound) | split | (intro _ hr; cases hr; done) | (intro _ hr; cases hr) | (intro _) | (dsimp only; done)

theorem State.takePostPacket_sound {s0 s : State} (ps : List Post) (k : Pkt) (hK : Sound s0 s) :
    Sound s0 (s.takePostPacket ps k) := by
  unfold State.takePostPacket
  try dsimp only
  repeat' with_reducible first | exact hK | assumption | (apply State.endPost_sound) | (apply State.answerPost_sound) | (apply Sound.foldl) | split | (intro _ hr; cases hr; done) | (intro _ hr; cases hr) | (intro _) | (dsimp only; done)

theorem State.coldPorts_sound {s0 s : State} (hK : Sound s0 s) :
    Sound s0 s.coldPorts := by
  unfold State.coldPorts
  try dsimp only
  repeat' with_reducible first | exact hK | assumption | (apply State.countLink_sound) | (apply State.modLink_sound) | (apply Sound.foldl) | split | (intro _ hr; cases hr; done) | (intro _ hr; cases hr) | (intro _) | (dsimp only; done)

theorem State.cold_sound {s0 s : State} (phase : PowerPhase) (hK : Sound s0 s) :
    Sound s0 (s.cold phase) := by
  unfold State.cold
  apply State.coldPorts_sound
  refine hK.mk' rfl rfl rfl (fun _ => ?_) fun ⟨a, _, _, _⟩ => ⟨a, rfl, fun _ => rfl, fun _ _ hx => by cases hx⟩
  unfold State.clockWf Power.minStep Power.cfg
  dsimp only [State.reset]
  simp [isPoint]

theorem State.perst_sound {s0 s : State} (hK : Sound s0 s) :
    Sound s0 s.perst := by
  unfold State.perst
  try dsimp only
  repeat' with_reducible first | exact hK | assumption | (apply State.modDev_sound) | (refine State.modHost_sound ?_ ?_) | (apply Sound.foldl) | split | (with_unfolding_all exact fun _ h => h) | (with_unfolding_all exact fun h => h) | (with_unfolding_all exact ⟨rfl, rfl, rfl⟩) | (with_unfolding_all exact fun _ _ => rfl) | (intro _ hr; cases hr; done) | (intro _ hr; cases hr) | (intro _) | (dsimp only; done)

theorem State.takeSlotQueues_sound {s0 s : State} (l : Nat) (b : Binding) (ps : List Nat) (hK : Sound s0 s) : ∀ r, s.takeSlotQueues l b ps = some r → Sound s0 r.2 := by
  induction ps generalizing s with
  | nil => intro r hr; cases hr; exact hK
  | cons d t ih =>
    intro r
    unfold State.takeSlotQueues
    dsimp only
    split
    · intro hr; simp at hr
    · intro hr
      simp only [Option.map_eq_some_iff] at hr
      obtain ⟨y, hy, rfl⟩ := hr
      have := ih (State.setQueues_sound _ _ _ hK) y hy
      exact this

theorem State.branch_sound {s0 s : State} (t : Nat) (e : Nat) (c : Word → Word → Bool) (i : Shoze) (hK : Sound s0 s) :
    Sound s0 (s.branch t e c i) := by
  unfold State.branch
  try dsimp only
  repeat' with_reducible first | exact hK | assumption | (refine State.modT_sound ?_ ?_) | split | (with_unfolding_all exact fun _ h => h) | (with_unfolding_all exact fun h => h) | (with_unfolding_all exact ⟨rfl, rfl, rfl⟩) | (with_unfolding_all exact fun _ _ => rfl) | (intro _ hr; cases hr; done) | (intro _ hr; cases hr) | (intro _) | (dsimp only; done)

theorem State.sendPost_sound {s0 s : State} (p : Post) (data : List Byte) (hK : Sound s0 s) :
    Sound s0 (s.sendPost p data) := by
  unfold State.sendPost
  try dsimp only
  repeat' with_reducible first | exact hK | assumption | (apply State.postPackets_sound) | split | (intro _ hr; cases hr; done) | (intro _ hr; cases hr) | (intro _) | (dsimp only; done)

theorem State.startPost_sound {s0 s : State} (k : Cmd) (data : List Byte) (hK : Sound s0 s) :
    Sound s0 (s.startPost k data) := by
  unfold State.startPost
  try dsimp only
  repeat' with_reducible first | exact hK | assumption | (apply State.sendPost_sound) | (refine State.modHost_sound ?_ ?_) | (apply State.finish_sound) | split | (with_unfolding_all exact fun _ h => h) | (with_unfolding_all exact fun h => h) | (with_unfolding_all exact ⟨rfl, rfl, rfl⟩) | (with_unfolding_all exact fun _ _ => rfl) | (intro _ hr; cases hr; done) | (intro _ hr; cases hr) | (intro _) | (dsimp only; done)

theorem State.tearTick_sound {s0 s : State} (hK : Sound s0 s) :
    Sound s0 s.tearTick := by
  unfold State.tearTick
  try dsimp only
  repeat' with_reducible first | exact hK | assumption | (apply State.tearEpoch_sound) | (apply Sound.foldl) | split | (intro _ hr; cases hr; done) | (intro _ hr; cases hr) | (intro _) | (dsimp only; done)

theorem State.refillAll_sound {s0 s : State} (hK : Sound s0 s) :
    Sound s0 s.refillAll := by
  unfold State.refillAll
  try dsimp only
  repeat' with_reducible first | exact hK | assumption | (apply State.modFab_sound) | (apply Sound.foldl) | split | (intro _ hr; cases hr; done) | (intro _ hr; cases hr) | (intro _) | (dsimp only; done)

theorem State.countFab_sound {s0 s : State} (hK : Sound s0 s) :
    Sound s0 s.countFab := by
  unfold State.countFab
  try dsimp only
  repeat' with_reducible first | exact hK | assumption | (apply State.count_sound) | (apply Sound.foldl) | split | (intro _ hr; cases hr; done) | (intro _ hr; cases hr) | (intro _) | (dsimp only; done)

theorem State.countNs_sound {s0 s : State} (hK : Sound s0 s) :
    Sound s0 s.countNs := by
  unfold State.countNs
  try dsimp only
  repeat' with_reducible first | exact hK | assumption | (apply State.countLink_sound) | (apply Sound.foldl) | split | (intro _ hr; cases hr; done) | (intro _ hr; cases hr) | (intro _) | (dsimp only; done)

theorem State.checkLane_sound {s0 s : State} (p : Nat) (l : Nat) (lost : Bool) (hK : Sound s0 s) :
    Sound s0 (s.checkLane p l lost) := by
  unfold State.checkLane
  try dsimp only
  repeat' with_reducible first | exact hK | assumption | (apply State.drawn_sound) | (apply State.countLink_sound) | split | (intro _ hr; cases hr; done) | (intro _ hr; cases hr) | (intro _) | (dsimp only; done)

theorem State.countLoops_sound {s0 s : State} (hK : Sound s0 s) :
    Sound s0 s.countLoops := by
  unfold State.countLoops
  try dsimp only
  repeat' with_reducible first | exact hK | assumption | (apply State.checkLane_sound) | (apply Sound.foldl) | split | (intro _ hr; cases hr; done) | (intro _ hr; cases hr) | (intro _) | (dsimp only; done)

theorem State.exemptTick_sound {s0 s : State} (hK : Sound s0 s) :
    Sound s0 s.exemptTick := by
  have h := State.modTillers_sound (g := fun p => if p.2.run = TRun.running && s.exempt p.1 then { p.2 with exemptEnd := s.t3 } else p.2) hK
    (by intro p h; dsimp only; split <;> exact h)
  unfold State.exemptTick
  refine Eq.mp (congrArg (Sound s0) ?_) h
  congr 1
  apply List.map_congr_left
  intro p _
  split <;> rfl

theorem State.tickRun_sound {s0 s : State} (hK : Sound s0 s) :
    Sound s0 s.tickRun := by
  have h0 : Sound s0 { s with clk := s.clk.advance s.coreStopped } := hK.mk' rfl rfl rfl (fun h => h) id
  unfold State.tickRun
  dsimp only
  repeat' with_reducible first
    | exact h0 | apply State.exemptTick_sound | apply State.skipThird_sound | apply State.countLoops_sound | apply State.countNs_sound
    | apply State.pfxTick_sound | apply State.tearTick_sound | apply State.refillAll_sound | apply State.countFab_sound | split

theorem State.tick_sound {s0 s : State} (hK : Sound s0 s) :
    Sound s0 s.tick := by
  unfold State.tick
  split
  · exact State.tickRun_sound hK
  · exact hK.mk' rfl rfl rfl (fun h => h) id
  · exact hK

/-- A write of another store leaves a store's content (11 R311). -/
theorem storeContent_putSlot {m : SMap FlashSlot} {k store i : Nat} {f : FlashSlot} (h0 : 2 * (store - 1) + i ≠ 2 * (k - 1))
    (h1 : 2 * (store - 1) + i ≠ 2 * (k - 1) + 1) : storeContent (putSlot m store i f) k = storeContent m k := by
  have e (j : Nat) (h : 2 * (store - 1) + i ≠ 2 * (k - 1) + j) : flashSlotOf (putSlot m store i f) k j = flashSlotOf m k j := by
    unfold flashSlotOf putSlot
    rw [SMap.get_set, if_neg (fun e => h e.symm)]
  have e0 := e 0 h0
  have e1 := e 1 h1
  have ei : slotInForce (putSlot m store i f) k = slotInForce m k := by unfold slotInForce; rw [e0, e1]
  have two : ∀ j, slotInForce m k = some j → j = 0 ∨ j = 1 := by
    intro j hj
    unfold slotInForce at hj
    dsimp only at hj
    repeat' split at hj
    all_goals simp at hj
    all_goals omega
  unfold storeContent
  rw [ei]
  split
  · next j hj => rcases two j hj with rfl | rfl <;> simp [e0, e1]
  · rfl

theorem State.setFlash_sound {s0 s : State} (store : Nat) (i : Nat) (f : FlashSlot) (h0 : 2 * (store - 1) + i ≠ 6) (h1 : 2 * (store - 1) + i ≠ 7)
    (hK : Sound s0 s) : Sound s0 (s.setFlash store i f) := by
  refine State.modFw_sound hK ?_
  have h : storeContent (putSlot s.fw.flash store i f) 4 = storeContent s.fw.flash 4 := storeContent_putSlot h0 h1
  exact ⟨congrArg (fun c => BitVec.ofNat 64 (fieldAt c 0 8)) h, congrArg (fun c => BitVec.ofNat 64 (fieldAt c 8 8)) h,
    congrArg (fun c => fieldAt c 16 1 == 1) h⟩

theorem State.sense_sound {s0 s : State} (v : SensorVals) (hK : Sound s0 s) :
    Sound s0 (s.sense v) := by
  unfold State.sense
  try dsimp only
  repeat' with_reducible first | exact hK | assumption | (refine State.modPwr_sound ?_ ?_) | split | (with_unfolding_all exact fun _ h => h) | (with_unfolding_all exact fun h => h) | (with_unfolding_all exact ⟨rfl, rfl, rfl⟩) | (with_unfolding_all exact fun _ _ => rfl) | (intro _ hr; cases hr; done) | (intro _ hr; cases hr) | (intro _) | (dsimp only; done)

theorem State.enterBlock_sound {s0 s : State} (b : PBlock) (hK : Sound s0 s) :
    Sound s0 (s.enterBlock b) := by
  unfold State.enterBlock
  try dsimp only
  repeat' with_reducible first | exact hK | assumption | (apply State.removeBlock_sound) | (apply State.modPfx_sound) | split | (intro _ hr; cases hr; done) | (intro _ hr; cases hr) | (intro _) | (dsimp only; done)

theorem State.allOff_sound {s0 s : State} (hK : Sound s0 s) :
    Sound s0 s.allOff := by
  unfold State.allOff
  dsimp only
  refine State.modPwr_sound (Sound.foldl hK fun _ _ h => by split; exact State.beginOff_sound _ h; exact h) ?_
  with_reducible exact ⟨rfl, rfl, rfl⟩

theorem State.admitPacket_sound {s0 s : State} (l : Nat) (p : Pkt) (c : CPrefix) (nbr : Option Nat) (ok : Bool) (hK : Sound s0 s) :
    Sound s0 (s.admitPacket l p c nbr ok) := by
  unfold State.admitPacket
  try dsimp only
  repeat' with_reducible first | exact hK | assumption | (apply State.dupDrop_sound) | (apply State.takeIn_sound) | (apply State.protoDrop_sound) | (apply State.progress_sound) | split | (intro _ hr; cases hr; done) | (intro _ hr; cases hr) | (intro _) | (dsimp only; done)

theorem State.setEntry_sound {s0 s : State} (t : Nat) (x : Entry) (y : Entry) (hK : Sound s0 s) :
    Sound s0 (s.setEntry t x y) := by
  unfold State.setEntry
  try dsimp only
  repeat' with_reducible first | exact hK | assumption | (refine State.modT_sound ?_ ?_) | split | (with_unfolding_all exact fun _ h => h) | (with_unfolding_all exact fun h => h) | (with_unfolding_all exact ⟨rfl, rfl, rfl⟩) | (with_unfolding_all exact fun _ _ => rfl) | (intro _ hr; cases hr; done) | (intro _ hr; cases hr) | (intro _) | (dsimp only; done)

theorem State.bar4Ecc_sound {s0 s : State} (w : Nat) (hK : Sound s0 s) :
    Sound s0 (s.bar4Ecc w) := by
  unfold State.bar4Ecc
  try dsimp only
  repeat' with_reducible first | exact hK | assumption | (apply State.almQueue_sound) | (apply State.memUe_sound) | split | (intro _ hr; cases hr; done) | (intro _ hr; cases hr) | (intro _) | (dsimp only; done)

theorem State.judgeHold_sound {s0 s : State} (hK : Sound s0 s) :
    Sound s0 s.judgeHold := by
  unfold State.judgeHold
  split
  · exact hK
  · next h hh =>
    refine hK.mk' rfl rfl rfl id fun ⟨a, b, c, d⟩ => ⟨a, b, c, fun x T hx hT => ?_⟩
    cases hx
    exact d h T (State.holding371_some hh) hT

theorem State.glean_sound {s0 s : State} (k : Pkt) (hK : Sound s0 s) :
    Sound s0 (s.glean k) := by
  unfold State.glean
  try dsimp only
  repeat' with_reducible first | exact hK | assumption | (apply State.count_sound) | (apply State.dropPkt_sound) | split | (intro _ hr; cases hr; done) | (intro _ hr; cases hr) | (intro _) | (dsimp only; done)

theorem State.steerLanes_sound {s0 s : State} (l : Nat) (lanes : List Nat) (hK : Sound s0 s) :
    Sound s0 (s.steerLanes l lanes) := by
  unfold State.steerLanes
  try dsimp only
  repeat' with_reducible first | exact hK | assumption | (apply State.modFab_sound) | (apply Sound.foldl) | split | (intro _ hr; cases hr; done) | (intro _ hr; cases hr) | (intro _) | (dsimp only; done)

theorem State.takeGrant_sound {s0 s : State} (k : Nat) (hK : Sound s0 s) :
    Sound s0 (s.takeGrant k) := by
  unfold State.takeGrant
  try dsimp only
  repeat' with_reducible first | exact hK | assumption | (apply State.modFab_sound) | split | (intro _ hr; cases hr; done) | (intro _ hr; cases hr) | (intro _) | (dsimp only; done)

theorem State.chargeSlot_sound {s0 s : State} (l : Nat) (k : Nat) (hK : Sound s0 s) :
    Sound s0 (s.chargeSlot l k) := by
  unfold State.chargeSlot
  try dsimp only
  repeat' with_reducible first | exact hK | assumption | (apply State.modFab_sound) | split | (intro _ hr; cases hr; done) | (intro _ hr; cases hr) | (intro _) | (dsimp only; done)

theorem State.receive_sound {s0 s : State} (p : Nat) (bytes : List Byte) (hK : Sound s0 s) :
    Sound s0 (s.receive p bytes) := by
  unfold State.receive
  try dsimp only
  repeat' with_reducible first | exact hK | assumption | (apply State.modLink_sound) | (apply State.takeGrant_sound) | (apply State.count_sound) | (apply State.allocCells_sound) | (apply State.enqueue_sound) | (apply State.chargeSlot_sound) | (apply State.windowDrop_sound) | (apply State.chargeClass_sound) | split | (intro _ hr; cases hr; done) | (intro _ hr; cases hr) | (intro _) | (dsimp only; done)

theorem State.acceptPayload_sound {s0 s : State} (p : Nat) (d : List Byte) (hK : Sound s0 s) :
    Sound s0 (s.acceptPayload p d) := by
  unfold State.acceptPayload
  try dsimp only
  repeat' with_reducible first | exact hK | assumption | (apply State.modLink_sound) | (apply State.receive_sound) | (apply State.linkDown_sound) | (apply Sound.foldl) | split | (intro _ hr; cases hr; done) | (intro _ hr; cases hr) | (intro _) | (dsimp only; done)

theorem State.rxData_sound {s0 s : State} (p : Nat) (f : List Byte) (hK : Sound s0 s) :
    Sound s0 (s.rxData p f) := by
  unfold State.rxData
  try dsimp only
  repeat' with_reducible first | exact hK | assumption | (apply State.modLink_sound) | (apply State.countLink_sound) | (apply State.acceptPayload_sound) | (apply State.askResend_sound) | split | (intro _ hr; cases hr; done) | (intro _ hr; cases hr) | (intro _) | (dsimp only; done)

theorem State.answer_sound {s0 s : State} (r : BarReply) (hK : Sound s0 s) :
    Sound s0 (s.answer r) := by
  unfold State.answer
  try dsimp only
  repeat' with_reducible first | exact hK | assumption | (apply State.modDev_sound) | split | (intro _ hr; cases hr; done) | (intro _ hr; cases hr) | (intro _) | (dsimp only; done)

theorem State.releaseAll_sound {s0 s : State} (l : Nat) (n : Nat) (chunkwise : Bool) (outs : List (Nat × Nat × List RPkt)) (hK : Sound s0 s) :
    Sound s0 (s.releaseAll l n chunkwise outs) := by
  unfold State.releaseAll
  try dsimp only
  repeat' with_reducible first | exact hK | assumption | (apply State.sendStream_sound) | (apply Sound.foldl) | split | (intro _ hr; cases hr; done) | (intro _ hr; cases hr) | (intro _) | (dsimp only; done)

theorem State.passSegment_sound {s0 s : State} (l : Nat) (n : Nat) (v : Nat) (d : List Byte) (digest : List Byte) (hK : Sound s0 s) :
    Sound s0 (s.passSegment l n v d digest) := by
  unfold State.passSegment
  try dsimp only
  repeat' with_reducible first | exact hK | assumption | (apply State.modStep_sound) | (apply State.sendStream_sound) | split | (intro _ hr; cases hr; done) | (intro _ hr; cases hr) | (intro _) | (dsimp only; done)

theorem State.ringFlow_sound {s0 s : State} (l : Nat) (n : Nat) (hK : Sound s0 s) :
    Sound s0 (s.ringFlow l n) := by
  unfold State.ringFlow
  try dsimp only
  repeat' with_reducible first | exact hK | assumption | (apply State.passSegment_sound) | (apply State.modSlot_sound) | (apply State.releaseAll_sound) | (apply Sound.foldl) | split | (intro _ hr; cases hr; done) | (intro _ hr; cases hr) | (intro _) | (dsimp only; done)

theorem State.commitStep_sound {s0 s : State} (l : Nat) (st : StepSt) (hK : Sound s0 s) :
    Sound s0 (s.commitStep l st) := by
  unfold State.commitStep
  try dsimp only
  repeat' with_reducible first | exact hK | assumption | (apply State.straggle_sound) | (apply State.modSlot_sound) | (apply State.releaseAll_sound) | (apply State.ringFlow_sound) | split | (intro _ hr; cases hr; done) | (intro _ hr; cases hr) | (intro _) | (dsimp only; done)

theorem State.holdNoEq_sound {s0 s : State} (hK : Sound s0 s) :
    Sound s0 s.holdNoEq := by
  unfold State.holdNoEq
  try dsimp only
  repeat' with_reducible first | exact hK | assumption | (apply State.link_sound) | (apply State.modLink_sound) | (apply State.almQueue_sound) | (apply State.hold_sound) | (apply Sound.foldl) | split | (intro _ hr; cases hr; done) | (intro _ hr; cases hr) | (intro _) | (dsimp only; done)

theorem State.readEq_sound {s0 s : State} (hK : Sound s0 s) :
    Sound s0 s.readEq := by
  unfold State.readEq
  try dsimp only
  repeat' with_reducible first | exact hK | assumption | (refine State.modFw_sound ?_ ?_) | (apply State.holdNoEq_sound) | split | (with_unfolding_all exact fun _ h => h) | (with_unfolding_all exact fun h => h) | (with_unfolding_all exact ⟨rfl, rfl, rfl⟩) | (with_unfolding_all exact fun _ _ => rfl) | (intro _ hr; cases hr; done) | (intro _ hr; cases hr) | (intro _) | (dsimp only; done)

theorem State.fwpStart_sound {s0 s : State} (q : Nat) (hK : Sound s0 s) :
    Sound s0 (s.fwpStart q) := by
  unfold State.fwpStart
  try dsimp only
  repeat' with_reducible first | exact hK | assumption | (apply State.modDev_sound) | (apply State.modLink_sound) | (apply State.readEq_sound) | (refine State.modPwr_sound ?_ ?_) | (apply Sound.foldl) | split | (with_unfolding_all exact fun _ h => h) | (with_unfolding_all exact fun h => h) | (with_unfolding_all exact ⟨rfl, rfl, rfl⟩) | (with_unfolding_all exact fun _ _ => rfl) | (intro _ hr; cases hr; done) | (intro _ hr; cases hr) | (intro _) | (dsimp only; done)

theorem State.tearBegin_sound {s0 s : State} (x : Nat) (cmd : Option Nat) (hK : Sound s0 s) :
    Sound s0 (s.tearBegin x cmd) := by
  unfold State.tearBegin
  try dsimp only
  repeat' with_reducible first | exact hK | assumption | (apply State.finish_sound) | (apply State.modSeed_sound) | (apply State.endShadow_sound) | (apply State.modCtx_sound) | (refine State.modT_sound ?_ ?_) | (apply Sound.foldl) | split | (with_unfolding_all exact fun _ h => h) | (with_unfolding_all exact fun h => h) | (with_unfolding_all exact ⟨rfl, rfl, rfl⟩) | (with_unfolding_all exact fun _ _ => rfl) | (intro _ hr; cases hr; done) | (intro _ hr; cases hr) | (intro _) | (dsimp only; done)

theorem State.enter_sound {s0 s : State} (bytes : List Byte) (port : Nat) (tiller : Option Nat) (hK : Sound s0 s) :
    ∀ r, s.enter bytes port tiller = some r → Sound s0 r.2 := by
  unfold State.enter
  try dsimp only
  repeat' with_reducible first | exact hK | assumption | (apply State.allocCells_sound) | (apply State.chargeSlot_sound) | (apply State.windowDrop_sound) | (apply State.chargeClass_sound) | split | (intro _ hr; cases hr; done) | (intro _ hr; cases hr) | (intro _) | (dsimp only; done)

theorem State.popSend_sound {s0 s : State} (t : Nat) (hK : Sound s0 s) :
    Sound s0 (s.popSend t) := by
  unfold State.popSend
  try dsimp only
  repeat' with_reducible first | exact hK | assumption | (refine State.modT_sound ?_ ?_) | split | (with_unfolding_all exact fun _ h => h) | (with_unfolding_all exact fun h => h) | (with_unfolding_all exact ⟨rfl, rfl, rfl⟩) | (with_unfolding_all exact fun _ _ => rfl) | (intro _ hr; cases hr; done) | (intro _ hr; cases hr) | (intro _) | (dsimp only; done)

theorem State.layPools_sound {s0 s : State} (l : List Nat) (hK : Sound s0 s) :
    Sound s0 (s.layPools l) := by
  unfold State.layPools
  try dsimp only
  repeat' with_reducible first | exact hK | assumption | (apply State.modSeed_sound) | (apply Sound.foldl) | split | (intro _ hr; cases hr; done) | (intro _ hr; cases hr) | (intro _) | (dsimp only; done)

theorem State.dropStorePackets_sound {s0 s : State} (hK : Sound s0 s) :
    Sound s0 s.dropStorePackets := by
  unfold State.dropStorePackets
  try dsimp only
  repeat' with_reducible first | exact hK | assumption | (apply State.takeSteered_sound) | (apply State.dropStale_sound) | split | (intro _ hr; cases hr; done) | (intro _ hr; cases hr) | (intro _) | (dsimp only; done)

theorem State.disableStore_sound {s0 s : State} (hK : Sound s0 s) :
    Sound s0 s.disableStore := by
  unfold State.disableStore
  try dsimp only
  repeat' with_reducible first | exact hK | assumption | (apply State.dropStorePackets_sound) | (apply State.giveAddr_sound) | (apply State.setMinima_sound) | (refine State.modT_sound ?_ ?_) | (apply State.modFab_sound) | (apply State.modPfx_sound) | (apply Sound.foldl) | split | (refine Sound.lit ?_; first | exact hK | (apply State.dropStorePackets_sound) | (apply State.giveAddr_sound) | (apply State.setMinima_sound) | (refine State.modT_sound ?_ ?_) | (apply State.modFab_sound) | (apply State.modPfx_sound) | (apply Sound.foldl)) | (with_unfolding_all exact fun _ h => h) | (with_unfolding_all exact fun h => h) | (with_unfolding_all exact ⟨rfl, rfl, rfl⟩) | (with_unfolding_all exact fun _ _ => rfl) | (intro _ hr; cases hr; done) | (intro _ hr; cases hr) | (intro _) | (dsimp only; done)

theorem State.missReply_sound {s0 s : State} (t : Nat) (hdr : List Byte) (op : Nat) (r : PReq) (chunk : Nat) (hK : Sound s0 s) :
    Sound s0 (s.missReply t hdr op r chunk) := by
  unfold State.missReply
  try dsimp only
  repeat' with_reducible first | exact hK | assumption | (apply State.drawn_sound) | (apply State.pfxSend_sound) | split | (intro _ hr; cases hr; done) | (intro _ hr; cases hr) | (intro _) | (dsimp only; done)

theorem State.coldReset_sound {s0 s : State} (hK : Sound s0 s) :
    Sound s0 s.coldReset := by
  unfold State.coldReset
  try dsimp only
  repeat' with_reducible first | exact hK | assumption | (apply State.modDev_sound) | (apply State.cold_sound) | split | (intro _ hr; cases hr; done) | (intro _ hr; cases hr) | (intro _) | (dsimp only; done)

theorem State.waitReady_sound {s0 s : State} (from3 : Nat) (hK : Sound s0 s) :
    Sound s0 (s.waitReady from3) := by
  unfold State.waitReady
  try dsimp only
  repeat' with_reducible first | exact hK | assumption | (refine State.modPwr_sound ?_ ?_) | split | (with_unfolding_all exact fun _ h => h) | (with_unfolding_all exact fun h => h) | (with_unfolding_all exact ⟨rfl, rfl, rfl⟩) | (with_unfolding_all exact fun _ _ => rfl) | (intro _ hr; cases hr; done) | (intro _ hr; cases hr) | (intro _) | (dsimp only; done)

theorem State.rxDiscovery_sound {s0 s : State} (p : Nat) (f : List Byte) (hK : Sound s0 s) :
    Sound s0 (s.rxDiscovery p f) := by
  unfold State.rxDiscovery
  try dsimp only
  repeat' with_reducible first | exact hK | assumption | (apply State.linkDown_sound) | (apply State.modLink_sound) | split | (intro _ hr; cases hr; done) | (intro _ hr; cases hr) | (intro _) | (dsimp only; done)

theorem State.enterLoop_sound {s0 s : State} (p : Nat) (mode : Nat) (pattern : Nat) (hK : Sound s0 s) :
    Sound s0 (s.enterLoop p mode pattern) := by
  unfold State.enterLoop
  try dsimp only
  repeat' with_reducible first | exact hK | assumption | (apply State.modLink_sound) | (apply State.linkDown_sound) | split | (intro _ hr; cases hr; done) | (intro _ hr; cases hr) | (intro _) | (dsimp only; done)

theorem State.loadD_sound {s0 s : State} (t : Nat) (e : Nat) (n : Nat) (i : Shoze) (hK : Sound s0 s) :
    Sound s0 (s.loadD t e n i) := by
  unfold State.loadD
  try dsimp only
  repeat' with_reducible first | exact hK | assumption | (apply State.launch_sound) | split | (intro _ hr; cases hr; done) | (intro _ hr; cases hr) | (intro _) | (dsimp only; done)

theorem State.unpowered_sound {s0 s : State} (phase : PowerPhase) (hK : Sound s0 s) :
    Sound s0 (s.unpowered phase) := by
  have h := State.cold_sound phase hK
  unfold State.unpowered
  generalize s.cold phase = c at *
  exact h.mk' rfl rfl rfl (fun h => h) id

theorem State.modPut_sound {s0 s : State} (pid : Nat) (f : PPut → PPut) (hK : Sound s0 s) :
    Sound s0 (s.modPut pid f) := by
  unfold State.modPut
  try dsimp only
  repeat' with_reducible first | exact hK | assumption | (apply State.modPfx_sound) | split | (intro _ hr; cases hr; done) | (intro _ hr; cases hr) | (intro _) | (dsimp only; done)

theorem State.putChunk_sound {s0 s : State} (q : PPut) (chunk : Nat) (data : List Byte) (hK : Sound s0 s) :
    Sound s0 (s.putChunk q chunk data) := by
  unfold State.putChunk
  try dsimp only
  repeat' with_reducible first | exact hK | assumption | (apply State.modPut_sound) | (apply State.memWrite_sound) | split | (intro _ hr; cases hr; done) | (intro _ hr; cases hr) | (intro _) | (dsimp only; done)

theorem State.rebootAt2_sound {s0 s : State} (hK : Sound s0 s) :
    Sound s0 s.rebootAt2 := by
  unfold State.rebootAt2
  extract_lets s1
  have k : Sound s0 s1 := Sound.foldl hK fun _ _ h => State.modProc_sound _ _ (State.fwpDown_sound _ h)
  clear_value s1
  exact State.modFw_sound (State.modDev_sound _ k) ⟨rfl, rfl, rfl⟩

theorem State.freePower_sound {s0 s : State} (p : Nat) (hK : Sound s0 s) :
    Sound s0 (s.freePower p) := by
  unfold State.freePower
  try dsimp only
  repeat' with_reducible first | exact hK | assumption | (apply State.unhold_sound) | (apply State.modLink_sound) | split | (intro _ hr; cases hr; done) | (intro _ hr; cases hr) | (intro _) | (dsimp only; done)

theorem State.quarantineFree_sound {s0 s : State} (L : Nat) (i : Nat) (hK : Sound s0 s) :
    Sound s0 (s.quarantineFree L i) := by
  unfold State.quarantineFree
  extract_lets l before s1
  have k : Sound s0 s1 := State.modEntry_sound _ _ _ (State.modList_sound _ _ hK)
  clear_value s1 before l
  split
  · exact k
  · exact State.modMem_sound k fun h => Memory.wf_write _ _ _ h

theorem State.scrubUe_sound {s0 s : State} (m : Nat) (a : Nat) (hK : Sound s0 s) :
    Sound s0 (s.scrubUe m a) := by
  unfold State.scrubUe
  try dsimp only
  repeat' with_reducible first | exact hK | assumption | (apply State.memUe_sound) | (apply State.almQueue_sound) | (apply State.cutGets_sound) | (apply State.removeBlock_sound) | (apply State.pfxCount_sound) | (apply State.quarantineFree_sound) | split | (intro _ hr; cases hr; done) | (intro _ hr; cases hr) | (intro _) | (dsimp only; done)

theorem State.resetRw_sound {s0 s : State} (hK : Sound s0 s) :
    Sound s0 s.resetRw := by
  unfold State.resetRw
  try dsimp only
  repeat' with_reducible first | exact hK | assumption | (apply State.modDev_sound) | (refine State.modHost_sound ?_ ?_) | (apply State.modLink_sound) | (apply Sound.foldl) | split | (with_unfolding_all exact fun _ h => h) | (with_unfolding_all exact fun h => h) | (with_unfolding_all exact ⟨rfl, rfl, rfl⟩) | (with_unfolding_all exact fun _ _ => rfl) | (intro _ hr; cases hr; done) | (intro _ hr; cases hr) | (intro _) | (dsimp only; done)

theorem State.tearAll_sound {s0 s : State} (hK : Sound s0 s) :
    Sound s0 s.tearAll := by
  have h2 : ∀ l s, Sound s0 s → Sound s0 (List.foldl (fun (s : State) (p : Nat × Slot) =>
      (s.freeQueues (p.2.queues.map (·.2))).modSlot p.1 fun S => { prevGen := S.prevGen }) s l) :=
    fun l s h => Sound.foldl h fun _ _ h => State.modSlot_sound _ _ (State.freeQueues_sound _ h)
  have h3 : ∀ s, Sound s0 s → Sound s0 (if s.pfx.on then { s with epochs := SMap.set zeroBits s.pfx.ctx (s.epoch s.pfx.ctx + 1#8) s.epochs } else s) :=
    fun s h => by split; exact Sound.lit h; exact h
  have h4 : ∀ (c : State) p, Sound s0 c → Sound s0 { c with ctxs := [], tillers := [], shadow := none, pfx := p } :=
    fun c p h => h.mk' rfl rfl rfl (fun h => h) fun ⟨a, b, _, _⟩ => ⟨a, b, fun _ => rfl, fun _ _ hx => by cases hx⟩
  unfold State.tearAll
  extract_lets live s1 s2 s3 s4
  have k1 : Sound s0 s1 := Sound.foldl hK fun _ _ h =>
    Sound.foldl (State.almQueue_sound _ (Sound.lit h)) fun _ _ h => State.modPolicer_sound _ _ (State.setQueues_sound _ _ _ h)
  clear_value s1
  have k2 : Sound s0 s2 := h2 _ _ k1
  clear_value s2
  have k3 : Sound s0 s3 := by
    unfold s3
    split
    · exact Sound.lit k2
    · exact k2
  clear_value s3
  have k4 : Sound s0 s4 := Sound.foldl k3 fun _ _ h => State.loseResults_sound _ h
  clear_value s4
  exact h4 _ _ (State.modFab_sound _ k4)

theorem State.dropAll_sound {s0 s : State} (hK : Sound s0 s) :
    Sound s0 s.dropAll := by
  unfold State.dropAll
  try dsimp only
  repeat' with_reducible first | exact hK | assumption | (apply State.count_sound) | (refine State.modHost_sound ?_ ?_) | (apply State.modFab_sound) | (apply Sound.foldl) | split | (with_unfolding_all exact fun _ h => h) | (with_unfolding_all exact fun h => h) | (with_unfolding_all exact ⟨rfl, rfl, rfl⟩) | (with_unfolding_all exact fun _ _ => rfl) | (intro _ hr; cases hr; done) | (intro _ hr; cases hr) | (intro _) | (dsimp only; done)

theorem State.reserveSlot_sound {s0 s : State} (who : SbReq) (l : Nat) (b : Binding) (ms : List Member) (ns : List Nbr) (hK : Sound s0 s) :
    (s.reserveSlot who l b ms ns).Sound s0 := by
  unfold State.reserveSlot
  extract_lets lanes cells routes bytes share inPads n
  clear_value lanes cells bytes share inPads n
  split
  · trivial
  · split
    · trivial
    · next q hq =>
      have k := State.takeSlotQueues_sound _ _ _ hK _ hq
      split
      · next h =>
        split at h
        · cases h; exact k
        · have ht := State.takeMany_sound who b.ctx n (some l) (b.lanes * ceilDiv share (poolSize n)) k
          rw [h] at ht; exact ht
      · trivial
      · trivial

theorem State.healCe_sound {s0 s : State} (ws : List Nat) (hK : Sound s0 s) : Sound s0 (s.healCe ws) := State.modMem_sound hK fun h => h

theorem State.bar4Word_sound {s0 s : State} (a : Nat) (d : List Byte) (ecc : Option Nat) (ce : List Nat) (w : Nat) (hK : Sound s0 s) :
    Sound s0 (s.bar4Word a d ecc ce w) := by
  unfold State.bar4Word
  try dsimp only
  repeat' with_reducible first | exact hK | assumption | (apply State.healCe_sound) | (apply State.memWrite_sound) | (apply State.corrected_sound) | (apply State.bar4Ecc_sound) | split | (dsimp only; done)

theorem State.recordOut_sound {s0 s : State} (t : Nat) (d : List Byte) (hK : Sound s0 s) :
    Sound s0 (s.recordOut t d) := by
  unfold State.recordOut
  try dsimp only
  repeat' with_reducible first | exact hK | assumption | (refine State.modShadow_sound ?_ ?_) | split | (with_unfolding_all exact fun _ h => h) | (with_unfolding_all exact fun h => h) | (with_unfolding_all exact ⟨rfl, rfl, rfl⟩) | (with_unfolding_all exact fun _ _ => rfl) | (intro _ hr; cases hr; done) | (intro _ hr; cases hr) | (intro _) | (dsimp only; done)

theorem State.recordIn_sound {s0 s : State} (t : Nat) (d : List Byte) (hK : Sound s0 s) :
    Sound s0 (s.recordIn t d) := by
  unfold State.recordIn
  try dsimp only
  repeat' with_reducible first | exact hK | assumption | (refine State.modShadow_sound ?_ ?_) | split | (with_unfolding_all exact fun _ h => h) | (with_unfolding_all exact fun h => h) | (with_unfolding_all exact ⟨rfl, rfl, rfl⟩) | (with_unfolding_all exact fun _ _ => rfl) | (intro _ hr; cases hr; done) | (intro _ hr; cases hr) | (intro _) | (dsimp only; done)

theorem State.serveIn_sound {s0 s : State} (n : Nat) (hK : Sound s0 s) :
    Sound s0 (s.serveIn n).2 := by
  unfold State.serveIn
  try dsimp only
  repeat' with_reducible first | exact hK | assumption | (refine State.modShadow_sound ?_ ?_) | split | (with_unfolding_all exact fun _ h => h) | (with_unfolding_all exact fun h => h) | (with_unfolding_all exact ⟨rfl, rfl, rfl⟩) | (with_unfolding_all exact fun _ _ => rfl) | (intro _ hr; cases hr; done) | (intro _ hr; cases hr) | (intro _) | (dsimp only; done)

theorem State.moverFault_sound {s0 s : State} (t : Nat) (x : Entry) (code : Nat) (a : Nat) (hK : Sound s0 s) :
    Sound s0 (s.moverFault t x code a) := by
  unfold State.moverFault
  try dsimp only
  repeat' with_reducible first | exact hK | assumption | (apply State.faultReset_sound) | (apply State.dropEntry_sound) | split | (intro _ hr; cases hr; done) | (intro _ hr; cases hr) | (intro _) | (dsimp only; done)

theorem State.countUe_sound {s0 s : State} (a : Nat) (hK : Sound s0 s) :
    Sound s0 (s.countUe a) := by
  unfold State.countUe
  try dsimp only
  repeat' with_reducible first | exact hK | assumption | (apply State.memUe_sound) | split | (intro _ hr; cases hr; done) | (intro _ hr; cases hr) | (intro _) | (dsimp only; done)

theorem State.clearGroupCmds_sound {s0 s : State} (g : Nat) (hK : Sound s0 s) :
    Sound s0 (s.clearGroupCmds g) := by
  unfold State.clearGroupCmds
  try dsimp only
  repeat' with_reducible first | exact hK | assumption | (apply State.modLink_sound) | (apply Sound.foldl) | split | (intro _ hr; cases hr; done) | (intro _ hr; cases hr) | (intro _) | (dsimp only; done)

theorem State.sendBlock_sound {s0 s : State} (t : Nat) (hdr : List Byte) (r : PReq) (b : PBlock) (ce : List Nat) (hK : Sound s0 s) :
    Sound s0 (s.sendBlock t hdr r b ce) := by
  unfold State.sendBlock
  extract_lets n s1 good s2
  have k1 : Sound s0 s1 := State.noteRead_sound _ _ (State.modMem_sound hK fun h => h)
  clear_value good s1
  have k2 : Sound s0 s2 := Sound.foldl k1 fun _ _ h => State.pfxSend_sound _ _ h
  clear_value s2
  split
  · exact k2
  · exact State.pfxCount_sound _ (State.removeBlock_sound _ (State.missReply_sound _ _ _ _ _ k2))

theorem State.modCtrl_sound {s0 s : State} (m : Nat) (f : Ctrl → Ctrl) (hK : Sound s0 s) :
    Sound s0 (s.modCtrl m f) := by
  unfold State.modCtrl
  try dsimp only
  repeat' with_reducible first | exact hK | assumption | (refine State.modMem_sound ?_ ?_) | split | (with_unfolding_all exact fun _ h => h) | (with_unfolding_all exact fun h => h) | (with_unfolding_all exact ⟨rfl, rfl, rfl⟩) | (with_unfolding_all exact fun _ _ => rfl) | (intro _ hr; cases hr; done) | (intro _ hr; cases hr) | (intro _) | (dsimp only; done)

theorem State.scrubStep_sound {s0 s : State} (m : Nat) (hK : Sound s0 s) :
    Sound s0 (s.scrubStep m) := by
  unfold State.scrubStep
  try dsimp only
  repeat' with_reducible first | exact hK | assumption | (apply State.modCtrl_sound) | (apply State.count_sound) | split | (intro _ hr; cases hr; done) | (intro _ hr; cases hr) | (intro _) | (dsimp only; done)

theorem State.scrubLine_sound {s0 s : State} (m : Nat) (ecc : Nat) (hK : Sound s0 s) :
    Sound s0 (s.scrubLine m ecc) := by
  unfold State.scrubLine
  try dsimp only
  repeat' with_reducible first | exact hK | assumption | (apply State.scrubUe_sound) | (apply State.modCtrl_sound) | (apply State.count_sound) | (apply Sound.foldl) | split | (intro _ hr; cases hr; done) | (intro _ hr; cases hr) | (intro _) | (dsimp only; done)

/-! ### The forms of a row -/

theorem onEvent_sound {s0 s s' : State} {due : Bool} (hK : Sound s0 s) (h : Sound s0 s') : ∀ r, onEvent due s s' = .next r → Sound s0 r := by
  intro r hr
  unfold onEvent at hr
  cases hr
  exact Sound.ite h hK

theorem onUnit_sound {s0 s s' : State} {has : Bool} (hK : Sound s0 s) (h : Sound s0 s') : ∀ r, onUnit has s s' = .next r → Sound s0 r := by
  intro r hr
  unfold onUnit at hr
  split at hr
  · cases hr; exact Sound.ite h hK
  · simp at hr

theorem runCmd_sound {s0 s : State} {op c : Nat} {body : Cmd → State → State} (hK : Sound s0 s) (h : ∀ k, Sound s0 (body k (s.take c))) :
    ∀ r, runCmd op c s body = .next r → Sound s0 r := by
  intro r hr
  unfold runCmd at hr
  repeat' split at hr
  all_goals cases hr
  all_goals first | exact hK | exact h _ | exact State.finish_sound _ _ _ _ hK

theorem runSub_sound {s0 s : State} {op c : Nat} {mine : Cmd → Bool} {body : Cmd → State → State} (hK : Sound s0 s)
    (h : ∀ k, Sound s0 (body k (s.take c))) : ∀ r, runSub op c mine s body = .next r → Sound s0 r := by
  intro r hr
  unfold runSub at hr
  repeat' split at hr
  · cases hr; exact hK
  · exact runCmd_sound hK h r hr
  · cases hr; exact hK

theorem issueRow_sound {s0 s : State} {t e : Nat} {mn : Mnem} {body : Shoze → State} (hK : Sound s0 s) (h : ∀ i, Sound s0 (body i)) :
    ∀ r, issueRow t e mn s body = .next r → Sound s0 r := by
  intro r hr
  unfold issueRow at hr
  split at hr
  · cases hr; exact State.issue_sound _ _ _ _ hK h
  · simp at hr

theorem onReceive_sound {s0 s : State} {t : Nat} {kinds : Nat → Bool} {act : Nat → Pkt → CPrefix → State → State} (hK : Sound s0 s)
    (h : ∀ l p c x, Sound s0 x → Sound s0 (act l p c x)) : ∀ r, onReceive t s kinds act = .next r → Sound s0 r := by
  unfold onReceive
  refine onUnit_sound hK ?_
  split
  · exact hK
  · next p _ =>
    extract_lets c l s1 S
    have k1 : Sound s0 s1 := State.modT_sound (State.release_sound _ hK) fun _ h => h
    clear_value s1
    split
    · exact hK
    · split
      · exact State.collDrop_sound _ _ k1
      · refine Sound.ite (h _ _ _ _ k1) (Sound.ite (State.protoDrop_sound _ k1) (Sound.ite (State.dupDrop_sound _ k1) ?_))
        exact State.takeIn_sound _ _ _ _ (State.modT_sound hK fun _ h => h)

end Sys2Proof.Machine
end

