-- ==== Sys2Proof/WellFormed.lean ====
section
/-!
DEFINITION. Well-formed commands: every operand names a unit the module has, and every byte string has the length its
carrier gives it (a descriptor 64 bytes or none for a failed read, a flit 256, a training block 8).
-/

namespace Sys2Proof

/-- A command names only units the module has. -/
def Instr.wf : Instr → Bool
  | .devIdentify .. => true
  | .devStatus .. => true
  | .devSetMode .. => true
  | .devWarmReset .. => true
  | .warmResetT0 => true
  | .warmResetForwardingResume => true
  | .warmResetDone => true
  | .devIsolate .. => true
  | .devRestore .. => true
  | .portIsolate .. => true
  | .portRestore .. => true
  | .isolationApply => true
  | .ctxCreate .. => true
  | .ctxLoad .. => true
  | .ctxStart .. => true
  | .ctxStop .. => true
  | .ctxStopTimeout x => decide (x < 256)
  | .ctxTeardown .. => true
  | .teardownEngineTimeout t e => decide (t < 192) && decide (e < 6)
  | .teardownWritesAcked x => decide (x < 256)
  | .cxlWriteAckTimeout x k => decide (x < 256) && decide (k < 2)
  | .collBind .. => true
  | .collUnbind .. => true
  | .collPostContrib .. => true
  | .collPostCounts .. => true
  | .collPostResultRequest .. => true
  | .postPacketArrival _ => true
  | .collQuery .. => true
  | .collSubstitute .. => true
  | .routeWrite .. => true
  | .routeRead .. => true
  | .portConfig .. => true
  | .portLoop .. => true
  | .queueConfigSqCfg .. => true
  | .queueConfigSqMap .. => true
  | .queueConfigPortWdrr .. => true
  | .queueConfigBufClass .. => true
  | .shaperConfig .. => true
  | .policerConfig .. => true
  | .wredProfileProfile .. => true
  | .wredProfilePortVcRed .. => true
  | .poolConfigCounts .. => true
  | .poolConfigMinima .. => true
  | .bufAlloc .. => true
  | .bufFree .. => true
  | .seedbankRequest t _ => decide (t < 192)
  | .seedbankRebuildDone l => decide (l < 18)
  | .prefixConfig .. => true
  | .telRead .. => true
  | .telWindow .. => true
  | .almanacRead .. => true
  | .fwVersion .. => true
  | .fwStage .. => true
  | .fwActivate .. => true
  | .attest .. => true
  | .hssTreeBuilt => true
  | .pwrPolicy .. => true
  | .pwrFloor .. => true
  | .heatReport .. => true
  | .diagSelftest .. => true
  | .diagShadowRun .. => true
  | .shadowRepeatStart => true
  | .shadowRunTimeout => true
  | .diagScratchSample .. => true
  | .engineReset .. => true
  | .cmdTailWrite off _ _ => decide (off < 0x4000000)
  | .cplHeadWrite off _ _ => decide (off < 0x4000000)
  | .ringEnable r _ => decide (r < 256)
  | .ringDisable r _ => decide (r < 256)
  | .descriptorFetch r desc _ => decide (r < 256) && (desc.length == 64 || desc.isEmpty)
  | .completionRecordWrite .. => true
  | .interruptCoalesceExpiry r => decide (r < 256)
  | .deviceEventWrite r => decide (r < 256)
  | .registerWrite .. => true
  | .bar2BadAccess .. => true
  | .bar4Read .. => true
  | .bar4Write .. => true
  | .nop t e => decide (t < 192) && decide (e < 6)
  | .jmp t e => decide (t < 192) && decide (e < 6)
  | .beq t e => decide (t < 192) && decide (e < 6)
  | .bne t e => decide (t < 192) && decide (e < 6)
  | .blt t e => decide (t < 192) && decide (e < 6)
  | .bge t e => decide (t < 192) && decide (e < 6)
  | .bltu t e => decide (t < 192) && decide (e < 6)
  | .bgeu t e => decide (t < 192) && decide (e < 6)
  | .call t e => decide (t < 192) && decide (e < 6)
  | .ret t e => decide (t < 192) && decide (e < 6)
  | .stepEnd t e => decide (t < 192) && decide (e < 6)
  | .stepEndRetire t e => decide (t < 192) && decide (e < 6)
  | .halt t e => decide (t < 192) && decide (e < 6)
  | .haltRetire t e => decide (t < 192) && decide (e < 6)
  | .fence t e => decide (t < 192) && decide (e < 6)
  | .fenceRetire t e => decide (t < 192) && decide (e < 6)
  | .add t e => decide (t < 192) && decide (e < 6)
  | .sub t e => decide (t < 192) && decide (e < 6)
  | .and t e => decide (t < 192) && decide (e < 6)
  | .or t e => decide (t < 192) && decide (e < 6)
  | .xor t e => decide (t < 192) && decide (e < 6)
  | .shl t e => decide (t < 192) && decide (e < 6)
  | .shr t e => decide (t < 192) && decide (e < 6)
  | .sra t e => decide (t < 192) && decide (e < 6)
  | .slt t e => decide (t < 192) && decide (e < 6)
  | .sltu t e => decide (t < 192) && decide (e < 6)
  | .mul t e => decide (t < 192) && decide (e < 6)
  | .mulhu t e => decide (t < 192) && decide (e < 6)
  | .div t e => decide (t < 192) && decide (e < 6)
  | .divu t e => decide (t < 192) && decide (e < 6)
  | .rem t e => decide (t < 192) && decide (e < 6)
  | .remu t e => decide (t < 192) && decide (e < 6)
  | .li t e => decide (t < 192) && decide (e < 6)
  | .lui t e => decide (t < 192) && decide (e < 6)
  | .ldB t e => decide (t < 192) && decide (e < 6)
  | .ldH t e => decide (t < 192) && decide (e < 6)
  | .ldW t e => decide (t < 192) && decide (e < 6)
  | .stB t e => decide (t < 192) && decide (e < 6)
  | .stH t e => decide (t < 192) && decide (e < 6)
  | .stW t e => decide (t < 192) && decide (e < 6)
  | .spld t e => decide (t < 192) && decide (e < 6)
  | .spst t e => decide (t < 192) && decide (e < 6)
  | .rdcyc t e => decide (t < 192) && decide (e < 6)
  | .rdtime t e => decide (t < 192) && decide (e < 6)
  | .rdtile t e => decide (t < 192) && decide (e < 6)
  | .seed t e => decide (t < 192) && decide (e < 6)
  | .mm t e => decide (t < 192) && decide (e < 6)
  | .mmBs t e => decide (t < 192) && decide (e < 6)
  | .mmGs t e => decide (t < 192) && decide (e < 6)
  | .mmBgs t e => decide (t < 192) && decide (e < 6)
  | .sparseBandFault t => decide (t < 192)
  | .sparseMmComplete t _ => decide (t < 192)
  | .trMap t e => decide (t < 192) && decide (e < 6)
  | .trRed t e => decide (t < 192) && decide (e < 6)
  | .trCvt t e => decide (t < 192) && decide (e < 6)
  | .trLdprog t e => decide (t < 192) && decide (e < 6)
  | .trLdprogCheck t _ => decide (t < 192)
  | .shPrune t e => decide (t < 192) && decide (e < 6)
  | .shTmask t e => decide (t < 192) && decide (e < 6)
  | .engineResultComplete t _ _ => decide (t < 192)
  | .astreamRowFetch t e => decide (t < 192) && (decide (1 ≤ e) && decide (e ≤ 4))
  | .mvCopy t e => decide (t < 192) && decide (e < 6)
  | .mvMesh t e => decide (t < 192) && decide (e < 6)
  | .meshSlotStart t _ _ => decide (t < 192)
  | .meshArrival t _ => decide (t < 192)
  | .meshTransferComplete t _ => decide (t < 192)
  | .mvMrecv t e => decide (t < 192) && decide (e < 6)
  | .mvGet t e => decide (t < 192) && decide (e < 6)
  | .mvGetComplete t _ _ _ => decide (t < 192)
  | .mvPut t e => decide (t < 192) && decide (e < 6)
  | .mvPutComplete t _ _ => decide (t < 192)
  | .mvSend t e => decide (t < 192) && decide (e < 6)
  | .mvSendAdmit t _ => decide (t < 192)
  | .mvSendComplete t => decide (t < 192)
  | .mvRecv t e => decide (t < 192) && decide (e < 6)
  | .receiveQueueArrival t _ => decide (t < 192)
  | .mvRecvComplete t => decide (t < 192)
  | .cvInit t e => decide (t < 192) && decide (e < 6)
  | .cvWb t e => decide (t < 192) && decide (e < 6)
  | .cvWh t e => decide (t < 192) && decide (e < 6)
  | .cvWw t e => decide (t < 192) && decide (e < 6)
  | .cvRead t e => decide (t < 192) && decide (e < 6)
  | .cvSave t e => decide (t < 192) && decide (e < 6)
  | .cvRestore t e _ => decide (t < 192) && decide (e < 6)
  | .cvFeed t e => decide (t < 192) && decide (e < 6)
  | .signal t e => decide (t < 192) && decide (e < 6)
  | .wait t e => decide (t < 192) && decide (e < 6)
  | .waitRetire t e => decide (t < 192) && decide (e < 6)
  | .aspush t e => decide (t < 192) && decide (e < 6)
  | .coreClkChangeApply => true
  | .coreClkStepDone => true
  | .tillerWatchdogFire t e => decide (t < 192) && decide (e < 6)
  | .sampleComplete t => decide (t < 192)
  | .engineResetDone t => decide (t < 192)
  | .engineResetOverrun t => decide (t < 192)
  | .tillerResetDone t _ => decide (t < 192)
  | .tillerResetOverrun t => decide (t < 192)
  | .tillerRestart t => decide (t < 192)
  | .linkWatchdogFire p => decide (p < 36)
  | .linkEngineResetDone p => decide (p < 36)
  | .linkEngineResetOverrun p => decide (p < 36)
  | .portGroupResetDone g => decide (g < 9)
  | .portGroupResetOverrun g => decide (g < 9)
  | .flitSlotTransmit p => decide (p < 36)
  | .dataFlitReceive p flit => decide (p < 36) && flit.length == 256
  | .controlFlitReceive p flit => decide (p < 36) && flit.length == 256
  | .discoveryFlitReceive p flit => decide (p < 36) && flit.length == 256
  | .trainingBlockReceive p lane block => decide (p < 36) && decide (lane < 8) && block.length == 8
  | .laneBlockLock p lane => decide (p < 36) && decide (lane < 8)
  | .enterDiscovery p => decide (p < 36)
  | .enterActive p => decide (p < 36)
  | .replayTimerExpiry p => decide (p < 36)
  | .retryExhausted p => decide (p < 36)
  | .controlTimeout p => decide (p < 36)
  | .pauseExpiry p => decide (p < 36)
  | .pauseTimeout p => decide (p < 36)
  | .trainingTimeout p => decide (p < 36)
  | .retrainTimer p => decide (p < 36)
  | .laneLossOfSignal p lane => decide (p < 36) && decide (lane < 8)
  | .sparingWindowEnd p errs => decide (p < 36) && errs.length == 8
  | .laserFeedLow o f => decide (o < 9) && decide (f < 2)
  | .laserFeedRecovered o f => decide (o < 9) && decide (f < 2)
  | .oeCalibrationCycle o _ _ => decide (o < 9)
  | .hostPacketAdmit => true
  | .forwardingDecision fs => decide (fs < 4)
  | .schedulerSelect p => decide (p < 38)
  | .packetTransmitComplete p _ => decide (p < 38)
  | .mgmtRequest => true
  | .noticeReceive => true
  | .noticeQueueSend => true
  | .contribReceive t => decide (t < 192)
  | .partialReceive t => decide (t < 192)
  | .resultReceive t => decide (t < 192)
  | .countReceive t => decide (t < 192)
  | .stepAbortReceive t => decide (t < 192)
  | .stepReplayReceive t => decide (t < 192)
  | .resultRequestReceive t => decide (t < 192)
  | .stepCommit l => decide (l < 256)
  | .stepTimeout l _ => decide (l < 256)
  | .put t => decide (t < 192)
  | .putCommit .. => true
  | .putTimeout .. => true
  | .get t _ => decide (t < 192)
  | .prefixPromote .. => true
  | .prefixDemoteDone .. => true
  | .delete t => decide (t < 192)
  | .probe t => decide (t < 192)
  | .cxlPortDown k => decide (k < 2)
  | .cxlPortUp k _ => decide (k < 2)
  | .scrubSlot m _ => decide (m < 26)
  | .gleanerPassStart => true
  | .gleanerPassEnd => true
  | .telemetryWindowBoundary => true
  | .almanacRecordWrite => true
  | .mulchTick .. => true
  | .energyIntegration .. => true
  | .emergencySample .. => true
  | .emergencyBegin => true
  | .emergencyClear => true
  | .ladderClimb => true
  | .ladderDescend => true
  | .domainIdleExpiry d => decide (d < 56)
  | .domainPowerOnDone d => decide (d < 56)
  | .domainPowerOffDone d => decide (d < 56)
  | .inputPowerUp .. => true
  | .vaonInRegulation => true
  | .powerDown => true
  | .coldResetRequest => true
  | .coldResetRelease board => decide (board < 64)
  | .fabrefLoss => true
  | .perstNAssert => true
  | .perstNDeassert _ _ => true
  | .hostRefclkLoss => true
  | .cxlPerstRelease k => decide (k < 2)
  | .bootImageVerified => true
  | .deviceReady => true
  | .fwpWatchdogExpiry q => decide (q < 5)
  | .fwpTrap q => decide (q < 5)
  | .fwpMemoryUe q w => decide (q < 5) && decide (w < 49152)
  | .fwpRestartDone q => decide (q < 5)
  | .mgmtStatusRead .. => true
  | .mgmtBlockRefresh => true
  | .tapInstruction .. => true
  | .loopLaneAligned p lane => decide (p < 36) && decide (lane < 8)
  | .loopLaneAlignmentLost p lane => decide (p < 36) && decide (lane < 8)
  | .i3cDynamicAddressAssign addr => decide (addr < 128)
  | .postStepReplay .. => true

end Sys2Proof
end

