-- ==== Sys2Proof/Tests/Slice0.lean ====
section
/-!
SUPPORT. Tests of the model: the checks of WellFormed on ill-formed commands, worked examples of the spec, and for every clause of a
statement a state and operands that meet its hypotheses together (with the answer checked where it can be computed).
-/

namespace Sys2Proof.Tests

open Sys2Proof Sys2Proof.Machine

set_option Elab.async false

/-- The outcome is the next state t. -/
def answers (o : Host.Outcome State Fault Refusal) (t : State) : Bool := match o with | .next u => decide (u = t) | _ => false

/-- The next state of an outcome, the reset state where there is none. -/
def after (o : Host.Outcome State Fault Refusal) : State := match o with | .next u => u | _ => State.reset

/-- n bytes, zero but for the fields given: offset, width in bytes, value. -/
def fields (n : Nat) (fs : List (Nat × Nat × Nat)) : List Byte :=
  fs.foldl (fun b f => b.take f.1 ++ toLE f.2.1 f.2.2 ++ b.drop (f.1 + f.2.1)) (List.replicate n 0#8)

/-- A module that has booted: READY, every processor up, the host link trained, every switched domain on. -/
def booted : State := { State.reset with
  dev := { state := .ready, fwpUp := 0x1F#5, pcieUp := true, perstN := true, fwVer := 0x80010203#32 }
  pwr := { domOn := (List.range 56).map fun d => (d, true) }
  fw := { verified := true, bootStep := 7 } }

/-- A command of ring 0 with opcode op and parameter record p. -/
def cmd (op : Nat) (p : List Byte) (src : CmdSrc := .ring 0) : Cmd := { id := 1, src := src, opcode := op, params := p }

/-- s with that command waiting. -/
def given (s : State) (op : Nat) (p : List Byte) (src : CmdSrc := .ring 0) : State :=
  { s with host := { s.host with cmds := [cmd op p src], nextId := 2 } }

/-- s at time base ns. -/
def atNs (s : State) (ns : Nat) : State := { s with clk := { s.clk with third := 3 * ns, fabref := ns * 5 / 32 } }

/-- What a request that may not take its buffers yet waits for. -/
def waitOf {α : Type} (r : Take α) : Wait := match r with | .wait w => w | _ => .domain 0

/-- What a request that gets its buffers takes, and the state then. -/
def gotOf {α : Type} (d : α) (r : Take α) : α × State := match r with | .got v s => (v, s) | _ => (d, State.reset)

/-- s with every list of the Seedbank rebuilding. -/
def rebuilding (s : State) : State := { s with seed := { lists := (List.range 18).map fun L => (L, { rebuilding := true }) } }

/-- booted with ring 0 enabled, eight commands ahead of the device at most 16. -/
def ringed : State := { booted with
  host := { rings := [(0, { cfg := 1#32, enabled := true, tailDb := 1#32, cplBase := 0x1000#64 })] } }

/-- ringed with more told about ring 0. -/
def ringedWith (f : Ring → Ring) : State := { ringed with host := { ringed.host with rings := [(0, f { cfg := 1#32, enabled := true, tailDb := 1#32, cplBase := 0x1000#64 })] } }

/-- A descriptor of DEV_STATUS for 1,160 bytes at 0x4000. -/
def statusDesc : List Byte := fields 64 [(0, 2, 0x0102), (4, 4, 7), (8, 4, 12), (12, 8, 0x4000), (20, 4, 1160)]

/-- Steps that the invariants speak of: a command that draws nothing, on a state with others behind it. -/
theorem test_everyCommandKeepsTheQueue :
    ∃ (c : Instr) (s s' : State), answers (exec c s) s' = true ∧ s.pending = [.warmResetT0] :=
  ⟨.hssTreeBuilt, { booted with pending := [.warmResetT0] }, after (exec .hssTreeBuilt { booted with pending := [.warmResetT0] }), by decide +kernel, rfl⟩

theorem test_partIdentityNeverChanges : ∃ s s' : State, answers (step s) s' = true :=
  ⟨{ booted with pending := [.coldResetRequest] }, after (step { booted with pending := [.coldResetRequest] }), by decide +kernel⟩

/-- A module isolated by its fabric manager, asked for a cold reset. -/
def isolated : State := { booted with pending := [.coldResetRequest], fw := { booted.fw with flash := [(6, (FlashSlot.written 4 1 (toLE 8 5 ++ toLE 8 2 ++ [1#8])).committed)] } }

theorem test_isolationChangesOnly :
    ∃ s s' : State, answers (step s) s' = true ∧ s.pending = [.coldResetRequest] ∧ quorumRow .coldResetRequest = false ∧ s.isolation = (5#64, 2#64, true) :=
  ⟨isolated, after (step isolated), by decide +kernel, rfl, rfl, by decide +kernel⟩

/-- A module in the middle of a step of CORE_CLK from 850 to 900 MHz. -/
def stepping : State := { booted with clk := { coreMHz := 850 }, pwr := { clkStep := some (900, 0) }, pending := [.coreClkStepDone] }

theorem test_coreClockStays :
    ∃ s s' : State, s.clockWf = true ∧ answers (step s) s' = true ∧ s.clk.coreMHz = 850 ∧ s.pending = [.coreClkStepDone] :=
  ⟨stepping, after (step stepping), by decide +kernel, by decide +kernel, rfl, rfl⟩

/-- A module whose GDDR7 holds two bytes, one of them about to be written with zero. -/
def written : State := { booted with mem := { bytes := [(0, 1#8), (5, 2#8)] }, pending := [.bar4Write 0 [0#8] none []] }

theorem test_memoriesStayCanonical :
    ∃ s s' : State, s.memWf ∧ answers (step s) s' = true ∧ s.mem.bytes ≠ [] ∧ s.pending = [.bar4Write 0 [0#8] none []] := by
  refine ⟨written, after (step written), ?_, by decide +kernel, by decide, rfl⟩
  refine ⟨by decide, by decide, fun t => ?_, fun h T a => by cases a⟩
  rfl

/-- ringed with n posts kept. -/
def fullPosts (n : Nat) : State := { ringed with host := { ringed.host with posts := List.replicate n {} } }

theorem fullPosts_count (n : Nat) : n ≤ (fullPosts n).postCount := by
  unfold State.postCount fullPosts
  simp

/-- A data packet of VC 1 to port 36 by way of one hop. -/
def somePacket : Pkt := { bytes := mkHeader 0 1 0 0 0 0 0 0 0 16 [0x10#8, 0x24#8] ++ List.replicate 16 7#8, inPort := 3, cells := [1, 0, 0, 0] }

/-- A packet of collective slot 255 to port 37. -/
def cellPacket : Pkt := { bytes := mkHeader 1 4 0 0 0 255 0 0 0 16 [0x10#8, 0x25#8] ++ List.replicate 16 7#8 }

/-- booted with the fabric given. -/
def withFab (f : Fabric) : State := { booted with fab := f }

/-- A packet that enters, and the state then. -/
def entered (s : State) (b : List Byte) (port : Nat) (t : Option Nat) : (Pkt × Nat) × State :=
  match s.enter b port t with
  | some (some r, s1) => (r, s1)
  | _ => (({}, 0), s)

/-- A packet of some kind for FWP-CMD with a payload, arrived on port 5. -/
def firmwarePacket (kind : Nat) (pay : List Byte) : Pkt :=
  { bytes := mkHeader kind 0 0 0 0 0 0 0 0 pay.length [] ++ pay, inPort := 5, cells := [1, 0, 0, 0] }

/-- booted with a link in a state on port p. -/
def withLink (p : Nat) (L : Link) : State := { booted with ports := [(p, { link := L })] }

/-- booted with a packet of a collective waiting in host memory, its slot bound with no cells left. -/
def fullSlot : State := { booted with host := { admitQ := [cellPacket] }, slots := [(255, { state := .bound })] }

/-- No run of 4,096 queues is free where each 4,096th is not. -/
theorem firstRun_none {ok : Nat → Bool} : ∀ fuel q run, q + fuel ≤ 65536 → run ≤ q % 4096 → (∀ m < 65536, ok m = true → m % 4096 ≠ 4095) →
    firstRun ok 4096 fuel q run = none
  | 0, _, _, _, _, _ => rfl
  | fuel + 1, q, run, hb, hr, h => by
    unfold firstRun
    by_cases hq : ok q = true
    · have := h q (by omega) hq
      rw [if_pos hq, if_neg (by omega)]
      exact firstRun_none fuel (q + 1) (run + 1) (by omega) (by omega) h
    · rw [if_neg hq]
      exact firstRun_none fuel (q + 1) 0 (by omega) (by omega) h

/-- Every 4,096th queue is in use. -/
def crowded : State := withFab { sqCfg := (List.range 16).map fun i => (4096 * i + 4095, { inUse := true }) }

theorem test_queueConfigWritesWhatItNames_2 : ∃ (s : State) (c : Nat) (k : Cmd),
    (s.carries 0x0501 c k ∧ fieldAt k.params 0 1 = 0 ∧ fieldAt k.params 1 1 < 38 ∧ fieldAt k.params 2 1 ≤ 7 ∧ fieldAt k.params 3 1 ≠ 0 ∧
      1 ≤ fieldAt k.params 6 2 ∧ fieldAt k.params 6 2 ≤ 4096 ∧ fieldAt k.params 4 2 = 0xFFFF ∧ fieldAt k.params 8 1 = 0 ∧ allZero (k.params.drop 9) = true) ∧
    firstRun (fun i => !(s.sqCfg i).inUse && !s.queueHolds i) (fieldAt k.params 6 2) 65536 0 0 = none := by
  refine ⟨given crowded 0x0501 (fields 20 [(1, 1, 3), (2, 1, 7), (3, 1, 5), (4, 2, 0xFFFF), (6, 2, 4096)]), 1,
    cmd 0x0501 (fields 20 [(1, 1, 3), (2, 1, 7), (3, 1, 5), (4, 2, 0xFFFF), (6, 2, 4096)]), by decide +kernel, ?_⟩
  rw [show fieldAt (cmd 0x0501 (fields 20 [(1, 1, 3), (2, 1, 7), (3, 1, 5), (4, 2, 0xFFFF), (6, 2, 4096)])).params 6 2 = 4096 by decide +kernel]
  refine firstRun_none 65536 0 0 (by decide) (by decide) fun m hm h e => ?_
  obtain ⟨i, hi, rfl⟩ : ∃ i < 16, m = 4096 * i + 4095 := ⟨m / 4096, by omega, by omega⟩
  have : ∀ i < 16, ((crowded.sqCfg (4096 * i + 4095)).inUse) = true := by decide +kernel
  have hu : ((given crowded 0x0501 (fields 20 [(1, 1, 3), (2, 1, 7), (3, 1, 5), (4, 2, 0xFFFF), (6, 2, 4096)])).sqCfg (4096 * i + 4095)).inUse = true := this i hi
  simp [hu] at h

/-- booted with the power unit given, every switched domain on. -/
def withPwr (p : Power) : State := { booted with pwr := { p with domOn := booted.pwr.domOn } }

/-- What the sensors may read: all well inside the limits. -/
def cool : SensorVals := { tDie := [400, 400, 400, 400, 400], tIn := 320, tOut := 400, flow := 4000, vIn := 7200, iIn := 1000, pDom := [40, 40] }

/-- booted at core cycle 1,000 with Tiller 191 given. -/
def onTiller (T : Tiller) : State := { booted with clk := { third := 3000, fabref := 156, core := 1000 }, tillers := [(191, T)] }

/-- A Tiller whose control core has come to instruction i, at index 1; s1 is 5, s2 is 0x80000000. -/
def reaching (i : Shoze) : Tiller :=
  { owner := .ctx, run := .running, img := { code := [{}, i] }, regs := [(1, 5#32), (2, 0x80000000#32)], streams := [(0, { pc := 1, on := true })] }

/-- A Tiller whose control core is held. -/
def heldBy (h : Hold) : Tiller := { reaching {} with streams := [(0, { pc := 1, on := true, hold := h })] }

/-- Context 9 with Tiller 191. -/
def inCtx (T : Tiller) : State := { (onTiller { T with ctx := some 9 }) with ctxs := [(9, { live := true, loaded := true, started := true, everStarted := true, tillers := [191] })] }

/-- An instruction whose one descriptor runs past the end of the scratchpad. -/
def astray (mn : Mnem) : Shoze := { mn := mn, ds := [{ base := 0x1FFFE0#21, fmt := 9#4, count := 64#24 }] }

/-- Tiller 191 come to it with every engine occupied. -/
def stalled (mn : Mnem) : State := onTiller { reaching (astray mn) with busy := (List.range 6).map fun e => (e, 2000) }

/-- The rows of 03 R78 that issue an instruction. -/
def issuing : List ((Nat → Nat → Instr) × Mnem) :=
  List.flatten [
  [(.nop, .nop), (.jmp, .jmp), (.beq, .beq), (.bne, .bne), (.blt, .blt), (.bge, .bge), (.bltu, .bltu), (.bgeu, .bgeu), (.call, .call), (.ret, .ret), (.stepEnd, .stepEnd), (.halt, .halt), (.fence, .fence), (.add, .add), (.sub, .sub), (.and, .and), (.or, .or), (.xor, .xor), (.shl, .shl), (.shr, .shr)],
  [(.sra, .sra), (.slt, .slt), (.sltu, .sltu), (.mul, .mul), (.mulhu, .mulhu), (.div, .div), (.divu, .divu), (.rem, .rem), (.remu, .remu), (.li, .li), (.lui, .lui), (.ldB, .ldB), (.ldH, .ldH), (.ldW, .ldW), (.stB, .stB), (.stH, .stH), (.stW, .stW), (.spld, .spld), (.spst, .spst), (.rdcyc, .rdcyc)],
  [(.rdtime, .rdtime), (.rdtile, .rdtile), (.seed, .seed), (.mm, .mm), (.mmBs, .mmBs), (.mmGs, .mmGs), (.mmBgs, .mmBgs), (.trMap, .trMap), (.trRed, .trRed), (.trCvt, .trCvt), (.trLdprog, .trLdprog), (.shPrune, .shPrune), (.shTmask, .shTmask), (.mvCopy, .mvCopy), (.mvMesh, .mvMesh), (.mvMrecv, .mvMrecv), (.mvGet, .mvGet), (.mvPut, .mvPut), (.mvSend, .mvSend), (.mvRecv, .mvRecv)],
  [(.cvInit, .cvInit), (.cvWb, .cvWb), (.cvWh, .cvWh), (.cvWw, .cvWw), (.cvRead, .cvRead), (.cvSave, .cvSave), (fun t e => .cvRestore t e none, .cvRestore), (.cvFeed, .cvFeed), (.signal, .signal), (.wait, .wait), (.aspush, .aspush)]]

theorem test_hazardsFaultTheTiller : issuing.all (fun r => (stalled r.2).mayIssue 191 0 &&
    (match ((stalled r.2).tl 191).findHazard 1000 (astray r.2) with
      | some h => answers (exec (r.1 191 0) (stalled r.2)) ((stalled r.2).hazard 191 (if r.2 = .mvMrecv then 4 else engineOf r.2) 1 h)
      | none => false)) = true := by decide +kernel

/-- A Tiller whose engines hold the entries given. -/
def running (es : List Entry) : Tiller := { reaching {} with checker := es }

/-- A group-sparse header at 0x2000: form 2, n 1, M 1, K 1, metadata at 0x4000, one tile. -/
def sparseHead : Memory :=
  Memory.write [] 0x2000 (fields 32 [(0, 1, 2), (1, 1, 1), (4, 4, 1), (8, 4, 1), (16, 4, 0x4000), (20, 4, 0xFFFFFFFF), (24, 4, 1)])

/-- A sparse product of one row and one column by that header. -/
def sparseInst (mn : Mnem) : Shoze :=
  { mn := mn, ds := [{ fmt := 9#4, count := 256#24, sparse := true, aux := 0x2000#21 }, { base := 0x6000#21, fmt := 9#4, count := 1#24 },
    { base := 0x8000#21, fmt := 10#4, count := 1#24 }] }

/-- The same, balanced. -/
def balancedInst (mn : Mnem) : Shoze := { sparseInst mn with ef := 1#2 }

/-- A block-sparse header of one tile at 0x2000, with or without groups. -/
def blockHead (form n : Nat) : Memory :=
  Memory.write [] 0x2000 (fields 32 [(0, 1, form), (1, 1, n), (4, 4, 1), (8, 4, 1), (12, 4, 0x4000), (16, 4, 0x5000), (20, 4, 0xFFFFFFFF), (24, 4, 1)])

/-- SH_PRUNE keeping one of eight of a row of 16. -/
def pruneInst : Shoze :=
  { mn := .shPrune, imm := 1#24, ds := [{ base := 0x6000#21, fmt := 9#4, count := 16#24 }, { fmt := 9#4, count := 256#24, sparse := true, aux := 0x2000#21 }] }

/-- SH_TMASK of the group-sparse header above. -/
def tmaskInst : Shoze :=
  { mn := .shTmask, ds := [{ fmt := 9#4, count := 256#24, sparse := true, aux := 0x2000#21 }, { base := 0xA000#21, fmt := 9#4, count := 256#24, sparse := true, aux := 0x3000#21 }] }

/-- Its destination header at 0x3000. -/
def tmaskHead : Memory := sparseHead.write 0x3000 (fields 32 [(12, 4, 0x10000), (16, 4, 0x11000), (20, 4, 0xFFFFFFFF)])

/-- A micro-program of one MOV at scratchpad 0. -/
def movProgram : Memory := Memory.write [] 0 (fields 36 [(0, 1, 1), (1, 1, 1), (2, 1, 1), (32, 4, 0x8000)])

/-- TR_LDPROG of it, in its completion cycle. -/
def ldprog : Entry := { index := 4, engine := 2, inst := { mn := .trLdprog, ds := [{ fmt := 1#4, count := 9#24 }] }, issue := 900, done := 1001 }

/-- MM with address-stream rows for A, from the second row on. -/
def streamed : Entry :=
  { index := 4, engine := 1, inst := { mn := .mm, ast := true, ds := [{ fmt := 9#4, count := 64#24, rowLen := 32#16 }, {}, {}] }, issue := 900, rows := [0], every := 8 }

/-- A mesh transfer of 32 bytes from Tiller 191 to Tiller 190 on channel 15. -/
def meshEntry : Entry := { engine := 4, inst := { mn := .mvMesh, imm := 0xFBE#24, ds := [{ fmt := 9#4, count := 32#24 }] }, async := true, issue := 900, phase := 232 }

/-- A claim of 32 bytes on channel 15. -/
def meshClaim : Entry := { engine := 6, inst := { mn := .mvMrecv, imm := 0xF00#24, ds := [{ fmt := 9#4, count := 32#24 }] }, async := true, issue := 800 }

/-- Tiller 191 with the entries es, Tiller 190 with the claims cs. -/
def meshed (es cs : List Entry) : State := { (onTiller (running es)) with tillers := [(190, running cs), (191, running es)] }

/-- Device address of byte 0 of Tiller 191's scratchpad. -/
def padAddr : Nat := padBase + 191 * 0x200000

/-- MV_GET or MV_PUT of one word at a device address. -/
def devEntry (mn : Mnem) (a : Nat) : Entry :=
  { engine := 4, inst := { mn := mn, ds := [{ base := 0x1000#21, fmt := 9#4, count := 32#24 }] }, async := true, issue := 900,
    sa := BitVec.ofNat 64 (a % 2 ^ 32), sb := BitVec.ofNat 64 (a / 2 ^ 32) }

/-- MV_SEND of 16 bytes, issued in cycle 900. -/
def sendEntry : Entry := { engine := 4, inst := { mn := .mvSend, ds := [{ fmt := 9#4, count := 48#24 }, { fmt := 9#4, count := 16#24 }] }, async := true, issue := 900 }

/-- MV_RECV. -/
def recvEntry : Entry := { engine := 4, inst := { mn := .mvRecv, ds := [{ fmt := 9#4, count := 4160#24 }] }, async := true, issue := 900 }

/-- A data packet of 16 bytes from a Tiller, VC 1, to port 3. -/
def tillerBytes : List Byte := mkHeader 0 1 0 0 0 0 0 0 0 16 [0x10#8, 0x03#8] ++ List.replicate 16 7#8

/-- An image of one Tiller, number 191, whose program is HALT, with its CRC left out. -/
def haltBytes : List Byte :=
  fields 200 [(0, 4, 0x5A534B4C), (4, 1, 2), (6, 2, 1), (8, 4, 200), (36, 16, 2 ^ 128 - 1), (128, 1, 191), (136, 4, 192), (140, 4, 8), (192, 8, 0xB0)]

/-- The image. -/
def haltImage : List Byte := patch haltBytes 12 (toLE 4 0x716CEF5A)

/-- booted with context 9 created and a command waiting to load an image into it. -/
def loadingNine (img : List Byte) : State := given { booted with ctxs := [(9, { live := true })] } 0x0202 (fields 28 [(0, 4, 9), (8, 8, 0x40), (16, 4, img.length)])

/-- A fold checked n bytes at a time against the values it should pass through. -/
def passes {α : Type} [DecidableEq α] (f : α → Byte → α) (n : Nat) : α → List Byte → List α → Bool
  | _, l, [] => l.isEmpty
  | r, l, v :: vs => decide ((l.take n).foldl f r = v) && passes f n v (l.drop n) vs

theorem passes_foldl {α : Type} [DecidableEq α] (f : α → Byte → α) (n : Nat) :
    ∀ (vs : List α) (r : α) (l : List Byte), passes f n r l vs = true → l.foldl f r = vs.getLastD r
  | [], r, l, h => by simp only [passes, List.isEmpty_iff] at h; simp [h]
  | v :: vs, r, l, h => by
    simp only [passes, Bool.and_eq_true, decide_eq_true_eq] at h
    rw [← List.take_append_drop n l, List.foldl_append, h.1, passes_foldl f n vs v _ h.2]
    cases vs <;> simp [List.getLast?_cons]

theorem haltBytes_crc : crc32c haltBytes = 0x716CEF5A#32 := by
  unfold crc32c
  rw [passes_foldl (crcByteR polyCrc32c) 31 [0x4235ACF9#32, 0x807D3BAC#32, 0xAC0FF69C#32, 0xE3648E0A#32, 0x3DCB5F3A#32, 0x828DA621#32, 0x8E9310A5#32] _ haltBytes (by decide +kernel)]
  decide

theorem haltImage_head : imageHeadOk haltImage = true := by
  unfold imageHeadOk
  rw [show patch haltImage 12 [0#8, 0#8, 0#8, 0#8] = haltBytes by decide +kernel, haltBytes_crc]
  decide +kernel

/-- What the loader reads in it. -/
def haltParsed : Image :=
  { level := 2, tillers := [{ num := 191, img := { code := [{ mn := .halt }], entries := [0, 0, 0, 0, 0, 0] } }], minima := [0, 0, 0, 0, 0], steering := List.replicate 16 255 }

theorem haltImage_parsed : parseImage false haltImage = some haltParsed := by
  unfold parseImage
  rw [haltImage_head]
  decide +kernel

theorem domainsWanted_none {s : State} {x : Nat} {b : List Byte} {I : Image} (h : parseImage (s.ctx x).diag b = some I)
    (h1 : (I.groups.filter fun g => !s.domOn g) = []) : s.domainsWanted x b = [] := by
  unfold State.domainsWanted
  rw [h]
  exact h1

theorem domainsWanted_some {s : State} {x : Nat} {b : List Byte} {I : Image} (h : parseImage (s.ctx x).diag b = some I)
    (h1 : (I.groups.filter fun g => !s.domOn g) ≠ []) : s.domainsWanted x b ≠ [] := by
  unfold State.domainsWanted
  rw [h]
  exact h1

theorem loadImage_ok {s s1 : State} {who : SbReq} {x : Nat} {b : List Byte} {sizes phases : List Nat} {I : Image} (h : parseImage (s.ctx x).diag b = some I)
    (hc : s.check1 I = true ∧ s.check2 I = true ∧ s.check3 I = true ∧ s.check4 I = true ∧ check5 I sizes = true ∧ s.check6 I phases = true) (h7 : s.check7 who x I sizes = .got () s1) :
    s.loadImage who x b sizes phases = .got () (s1.placeImage x I b phases) := by
  obtain ⟨h1, h2, h3, h4, h5, h6⟩ := hc
  unfold State.loadImage State.loadStatus
  rw [h]
  simp [h1, h2, h3, h4, h5, h6, h7]

theorem loadImage_stops {s : State} {who : SbReq} {x : Nat} {b : List Byte} {sizes phases : List Nat} {I : Image} {r : Take Unit}
    (h : parseImage (s.ctx x).diag b = some I) (hc : s.check1 I = true ∧ s.check2 I = true ∧ s.check3 I = true ∧ s.check4 I = true ∧ check5 I sizes = true ∧
      s.check6 I phases = true) (hr : r = .noFit ∨ ∃ w, r = .wait w) (h7 : s.check7 who x I sizes = r) : s.loadImage who x b sizes phases = r := by
  obtain ⟨h1, h2, h3, h4, h5, h6⟩ := hc
  unfold State.loadImage State.loadStatus
  rw [h]
  rcases hr with rfl | ⟨w, rfl⟩ <;> simp [h1, h2, h3, h4, h5, h6, h7]

/-- loadingNine haltImage with the power unit and the Seedbank given. -/
def haltOn (p : Power) (b : Seedbank) : State := { (loadingNine haltImage) with pwr := p, seed := b }

theorem haltOn_parsed (p : Power) (b : Seedbank) : parseImage (((haltOn p b).take 1).ctx 9).diag haltImage = some haltParsed := by
  rw [show (((haltOn p b).take 1).ctx 9).diag = false by rfl]; exact haltImage_parsed

/-- Every domain on but Tiller 191's. -/
def lacking : Power := { booted.pwr with domOn := (List.range 56).filterMap fun d => if d = domTiller 23 then none else some (d, true) }

/-- Every domain on but those of GDDR7, which policy keeps off. -/
def keptOff : Power := { booted.pwr with keepOff := 0xF000_0000_0000#64, domOn := (List.range 56).filterMap fun d => if 44 ≤ d ∧ d < 48 then none else some (d, true) }

/-- What CTX_LOAD of that image asks of a state, its context and its command. -/
def loadsNine (s : State) : Prop := s.carries 0x0202 1 (cmd 0x0202 (fields 28 [(0, 4, 9), (8, 8, 0x40), (16, 4, 200)])) ∧
  loadFieldsOk (cmd 0x0202 (fields 28 [(0, 4, 9), (8, 8, 0x40), (16, 4, 200)])) haltImage = true ∧ s.ctxOk 9 = true ∧ (s.ctx 9).loaded = false

theorem test_contextsAreCreatedAndLoaded_7 : ∃ (s : State) (v : Unit) (s2 : State),
    loadsNine s ∧ s.domainsWanted 9 haltImage = [] ∧ (s.take 1).loadImage { cmd := some 1 } 9 haltImage [3] [] = .got v s2 :=
  ⟨haltOn booted.pwr {}, (), _, by unfold loadsNine; decide +kernel, domainsWanted_none (I := haltParsed) (haltOn_parsed _ _) (by decide +kernel),
    loadImage_ok (I := haltParsed) (s1 := (gotOf () (((haltOn booted.pwr {}).take 1).check7 { cmd := some 1 } 9 haltParsed [3])).2) (haltOn_parsed _ _)
      (by decide +kernel) (by decide +kernel)⟩

theorem test_contextsAreCreatedAndLoaded_8 : ∃ (s : State) (v : Unit) (s2 : State),
    loadsNine s ∧ (s.take 1).loadImage { cmd := some 1 } 9 haltImage [3] [] = .got v s2 ∧ s.domainsWanted 9 haltImage ≠ [] :=
  ⟨haltOn lacking {}, (), _, by unfold loadsNine; decide +kernel,
    loadImage_ok (I := haltParsed) (s1 := (gotOf () (((haltOn lacking {}).take 1).check7 { cmd := some 1 } 9 haltParsed [3])).2) (haltOn_parsed _ _)
      (by decide +kernel) (by decide +kernel),
    domainsWanted_some (I := haltParsed) (haltOn_parsed _ _) (by decide +kernel)⟩

theorem test_contextsAreCreatedAndLoaded_10 : ∃ s : State, loadsNine s ∧ (s.take 1).loadImage { cmd := some 1 } 9 haltImage [3] [] = .noFit :=
  ⟨haltOn keptOff {}, by unfold loadsNine; decide +kernel,
    loadImage_stops (I := haltParsed) (haltOn_parsed _ _) (by decide +kernel) (.inl rfl) (by decide +kernel)⟩

theorem test_contextsAreCreatedAndLoaded_11 : ∃ (s : State) (w : Wait), loadsNine s ∧ (s.take 1).loadImage { cmd := some 1 } 9 haltImage [3] [] = .wait w :=
  ⟨rebuilding (haltOn booted.pwr {}), .list 8 none, by unfold loadsNine; decide +kernel,
    loadImage_stops (I := haltParsed) (haltOn_parsed _ _) (by decide +kernel) (.inr ⟨_, rfl⟩) (by decide +kernel)⟩


theorem test_contextsStartStopAndEnd_12 : [some 8, none].all (fun c =>
    let s := { (inCtx {}) with ctxs := [(9, { live := true, tillers := [191, 3], tear := some { step := 4, cmd := c } })] }
    decide (s.live = true ∧ (s.ctx 9).tear = some { step := 4, cmd := c } ∧ (∀ t ∈ (s.ctx 9).tillers, (s.tl t).sendQ = [] ∧ s.quiet t = true) ∧
      (s.ctx 9).tillers ≠ [])) = true := by decide +kernel

/-- booted with the store on Tiller 191 and a request there: operation op, chunk, and more payload. -/
def storing (p : Prefix) (pkt : Pkt) : State :=
  { booted with pfx := { p with on := true, tillers := [191], mask := 0x3FFFFFFFFF#38, ctx := 255 }, tillers := [(191, { owner := .store, run := .running, recvQ := [pkt] })] }

/-- A request packet to the store: operation, chunk and data after the 48 bytes; its key is 16 bytes of 0x21. -/
def storeRequest (op chunk : Nat) (data : List Byte) : Pkt :=
  { bytes := mkHeader 0 6 1 0 255 0 0 7 0 (48 + data.length) [0x10#8, 4#8] ++ fields 16 [(0, 1, op), (4, 2, chunk), (8, 4, 9)] ++
      List.replicate 16 0x21#8 ++ List.replicate 16 0#8 ++ data, inPort := 5 }

/-- The put those packets belong to. -/
def openPut : PPut := { pid := 3, tiller := 191, key := List.replicate 16 0x21#8, req := 9, hdr := (storeRequest 1 0 (List.replicate 2048 0#8)).bytes.take 48, addr := 0x10000 }

/-- The block of their key. -/
def storedBlock : PBlock := { key := List.replicate 16 0x21#8, version := 4, addr := 0x20000, stamp := 4 }

/-- booted with the first buffer of list L, of a pool, handed out to an owner. -/
def lent (L i o : Nat) : State := booted.handOut L i o none false

theorem plus_one_ne (c : BitVec 32) : c ≠ c + 1#32 := by
  intro h
  have := congrArg BitVec.toNat h
  rw [BitVec.toNat_add] at this
  simp at this
  omega

/-- A put complete but for its check, with the block_crc given. -/
def spoiledPut (c : BitVec 32) : PPut := { openPut with held := List.range 32, crc := c }

/-- The store with it, verifying. -/
def spoiled (c : BitVec 32) : State := { booted with pfx := { on := true, verify := true, puts := [spoiledPut c] } }

theorem pfx_words (s : State) (p : Prefix) : ∀ n a, ({ s with pfx := p }).memWords a n = s.memWords a n
  | 0, _ => rfl
  | n + 1, a => by simp only [State.memWords]; rw [pfx_words s p n]; rfl

theorem pfx_read (s : State) (p : Prefix) (a n : Nat) : ({ s with pfx := p }).memRead a n = s.memRead a n := by
  simp only [State.memRead, pfx_words]

theorem spoiled_read (c : BitVec 32) : (spoiled c).memRead 0x10000 (blockBytes false) = booted.memRead 0x10000 (blockBytes false) := pfx_read booted _ _ _

/-- What a put whose block_crc is not the block's meets. -/
theorem spoiled_meets (c : BitVec 32) (h : crc32c (booted.memRead 0x10000 (blockBytes false)) ≠ c) :
    (spoiled c).live = true ∧ (spoiled c).pfx.puts.find? (fun q => q.pid == 3) = some (spoiledPut c) ∧
    ((spoiledPut c).refused = false ∧ (spoiledPut c).waitDemote = false ∧ (spoiledPut c).held.length = blockChunks (spoiledPut c).big ∧
      (spoiled c).after (spoiledPut c).openedAt (usec (spoiled c).pfx.tmo) = false ∧ (spoiled c).pfx.verify = true) ∧
    crc32c ((spoiled c).memRead (spoiledPut c).addr (blockBytes (spoiledPut c).big)) ≠ (spoiledPut c).crc := by
  have ha : (spoiledPut c).addr = 0x10000 := rfl
  have hb : (spoiledPut c).big = false := rfl
  have hc : (spoiledPut c).crc = c := rfl
  rw [ha, hb, hc, spoiled_read]
  exact ⟨rfl, rfl, ⟨rfl, rfl, rfl, rfl, rfl⟩, h⟩

theorem test_putsGatherAndCommit_8 : ∃ (s : State) (pid : Nat) (q : PPut), s.live = true ∧ s.pfx.puts.find? (fun q => q.pid == pid) = some q ∧
    (q.refused = false ∧ q.waitDemote = false ∧ q.held.length = blockChunks q.big ∧ s.after q.openedAt (usec s.pfx.tmo) = false ∧ s.pfx.verify = true) ∧
    crc32c (s.memRead q.addr (blockBytes q.big)) ≠ q.crc :=
  ⟨spoiled _, 3, spoiledPut _, spoiled_meets _ (plus_one_ne _)⟩

/-- Slot 200 bound in context 9 with ranks 0 and 1 of FP32 as members through port 36, depth 4. -/
def boundSlot (b : Binding) : Slot :=
  { state := .bound, prevGen := some 5, laneTs := [191], members := [{ rank := 0, port := 36, route := padTo 16 [0x10#8, 36#8] }, { rank := 1, port := 36, route := padTo 16 [0x10#8, 36#8] }],
    bind := { b with ctx := 9, gen := 5, inFmt := 1, outFmt := 1, nmax := 64, depth := 4 } }

/-- The state with that slot, and packets waiting at its lane. -/
def slotted (S : Slot) (q : List Pkt) : State := { (inCtx { recvQ := q }) with slots := [(200, S)] }

/-- A packet of that slot. -/
def slotPacket (c : CPrefix) (data : List Byte) : Pkt :=
  { bytes := mkHeader 1 4 (c.chunk % 16) 0 9 200 0 0 0 (16 + data.length) [0x10#8, 37#8] ++ ({ c with slot := 200, gen := 5 } : CPrefix).bytes ++ data, inPort := 3 }

/-- The state once that packet has been taken from the lane's queue. -/
def takenOff (s : State) (p : Pkt) : State := (s.release p).modT 191 fun T => { T with recvQ := T.recvQ.tail }

/-- A reduction of two ranks. -/
def twoRanks : Binding := { op := opAllReduce, gsize := 2, nloc := 2, tmo := 1 }

/-- A post of rank 1 in step 3. -/
def postRecord (kind len : Nat) : List Byte := fields 48 [(0, 1, 200), (1, 1, kind), (2, 2, 1), (4, 4, 3), (16, 4, len), (24, 8, 0x4000), (32, 4, 64)]

/-- That post as it is kept. -/
def keptPost : Post := { cmd := 7, slot := 200, kind := 0, rank := 1, step := 3, outAddr := 0x4000, outLen := 64 }

/-- The state with that post kept and a packet at port 36. -/
def posted (p : Pkt) : State :=
  { (slotted (boundSlot twoRanks) []) with host := { posts := [keptPost] }, fab := { txPkt := [(36, some p)] } }

/-- booted with a running Tiller 191 of context 9 and Tiller 0 free. -/
def twinned : State := given (inCtx (reaching {})) 0x0A02 (fields 32 [(12, 4, 9), (16, 2, 191), (18, 2, 0), (20, 1, 255), (21, 1, 1), (22, 2, 1599), (24, 4, 60000)])

/-- The buffers that a shadow run takes, and the state then. -/
def twins : List Nat × State := gotOf [] ((twinned.take 1).takeMany { cmd := some 1 } 0x101 3 none 2)

/-- A COLL_BIND record: slot 200, one rank at port 36. -/
def bindRecord : List Byte :=
  fields 128 [(0, 1, 200), (1, 1, 1), (2, 1, 4), (3, 1, 1), (4, 2, 1), (6, 2, 1), (8, 1, 1), (9, 1, 1), (12, 1, 127), (13, 1, 4), (14, 1, 1), (16, 4, 64), (20, 4, 1000000), (24, 4, 9), (50, 1, 6)]

/-- Its member table. -/
def bindMembers : List Byte := fields 32 [(2, 1, 36), (8, 2, 0x2410)]

/-- What reserving its resources gives. -/
def reserved : Slot × State :=
  gotOf {} (((given (inCtx {}) 0x0301 bindRecord).take 1).reserveSlot { cmd := some 1 } 200 (parseBinding bindRecord) ((records bindMembers 0 32 1).map parseMember) [])

/-- The same with steps of 4 MB. -/
def bigRecord : List Byte := patch bindRecord 16 (toLE 4 1000000)

/-- A flit is good when its CRC-64 passes through the values given. -/
theorem flitGood_of {f : List Byte} (vs : List (BitVec 64)) (h : passes (crcByteN 0x42F0E1EBA9EA3693#64) 31 0#64 (f.take 248) vs = true)
    (hl : f.length = 256) (hc : (vs.getLastD 0#64).toNat = fieldAt f 248 8) : flitGood f = true := by
  unfold flitGood crc64
  rw [passes_foldl _ 31 vs 0#64 _ h, hc, hl]
  simp

/-- A data flit, sequence number 0, of zeros. -/
def flitData : List Byte := fields 256 [(248, 8, 0x0)]

theorem flitData_good : flitGood flitData = true :=
  flitGood_of [0x0#64, 0x0#64, 0x0#64, 0x0#64, 0x0#64, 0x0#64, 0x0#64, 0x0#64] (by decide +kernel) (by decide +kernel) (by decide +kernel)

/-- A control flit with ack_next 0xFFF. -/
def flitControl : List Byte := fields 256 [(0, 2, 0x1000), (2, 2, 0xFFF), (248, 8, 0xC51B1AA6A1B8DEE0)]

theorem flitControl_good : flitGood flitControl = true :=
  flitGood_of [0x3458F1ECDF9FDEC3#64, 0x18D0F3F15B19AC85#64, 0xAD61088D970B09F5#64, 0x9F5F94AA57242CEE#64, 0xD5BA4D1317FA00A5#64, 0x8E4FE8A223EBBF0D#64, 0xD292F0FFA94D6B34#64, 0xC51B1AA6A1B8DEE0#64] (by decide +kernel) (by decide +kernel) (by decide +kernel)

/-- A discovery flit with peer_seen. -/
def flitDiscovery : List Byte := fields 256 [(0, 2, 0x2000), (17, 1, 0x1), (248, 8, 0xA0D819E00AA8D022)]

theorem flitDiscovery_good : flitGood flitDiscovery = true :=
  flitGood_of [0x2F36064AB0CF0608#64, 0x453CE6483BA993E3#64, 0x520EA257F6CA01B5#64, 0x360FD9D64D441554#64, 0xC20A664D31AA5F74#64, 0xC96EC8F42C3BEF9F#64, 0xB3DED402E50B06D8#64, 0xA0D819E00AA8D022#64] (by decide +kernel) (by decide +kernel) (by decide +kernel)

/-- A discovery flit with a reserved byte set. -/
def flitOffer : List Byte := fields 256 [(0, 2, 0x2000), (30, 1, 0x1), (248, 8, 0x6BA158D8E4438B1D)]

theorem flitOffer_good : flitGood flitOffer = true :=
  flitGood_of [0x44AB84444C502D7E#64, 0xD3D04374D8C9BF77#64, 0xD90D5548CA61C32#64, 0xAEDC86EFB52F1573#64, 0x836B2492ADAF2D82#64, 0x8770C1ED8B323EF0#64, 0x73B7FE03E9FD0D7C#64, 0x6BA158D8E4438B1D#64] (by decide +kernel) (by decide +kernel) (by decide +kernel)

/-- A control flit with a reserved byte set. -/
def flitSpare : List Byte := fields 256 [(0, 2, 0x1000), (60, 1, 0x1), (248, 8, 0x562DF56ABFEF371F)]

theorem flitSpare_good : flitGood flitSpare = true :=
  flitGood_of [0xA255C222262816BF#64, 0xBCA8912C26FEC539#64, 0x26CE75B891C95CC5#64, 0xED4F898CA6F64AED#64, 0xB98452AFA5B01506#64, 0x252FA12D4AFC6055#64, 0x177B6567896B0C31#64, 0x562DF56ABFEF371F#64] (by decide +kernel) (by decide +kernel) (by decide +kernel)

/-- A flit of kind 15. -/
def flitOdd : List Byte := fields 256 [(0, 2, 0xF000), (248, 8, 0xD61B25812A760D1F)]

theorem flitOdd_good : flitGood flitOdd = true :=
  flitGood_of [0xB1D5FA6D9E0E553C#64, 0xE72DFAEFE1D09710#64, 0xB9366E462142FD11#64, 0xA0FB3A9F84295CD8#64, 0xCFB3B7C11C5FB49B#64, 0x41AD10DE80E61172#64, 0xCCF5EEFF45B6892A#64, 0xD61B25812A760D1F#64] (by decide +kernel) (by decide +kernel) (by decide +kernel)


/-- inCtx at 10 ms. -/
def later (T : Tiller) : State := { (inCtx T) with clk := { third := 30000000, fabref := 1562500, core := 10000000 } }

/-- A Tiller whose reset of the engines given began at the time given. -/
def resetting (es : List Nat) (from3 : Nat) (restart : Bool := false) : Tiller := { reset := some { engines := es, start := some from3, restart := restart } }

/-- A key set of one key and a quorum of one, without tags. -/
def keySet : List Byte := fields 260 [(0, 4, 0x4B514B4C), (4, 2, 1), (6, 1, 1), (7, 1, 1), (32, 32, 0x0102030405060708)]

/-- A firmware image in form: five code sections, and a signature by leaf 0 whose hashes are zeros. -/
def fwImage : List Byte :=
  fields 320 ([(0, 4, 0x57464B4C), (4, 2, 1), (6, 3, 0x030201), (13, 1, 0xA1), (16, 4, 63), (20, 4, 320), (24, 4, 3148)] ++
    (List.range 5).flatMap (fun q => [(64 + 16 * q, 1, q), (72 + 16 * q, 4, 256 + 8 * q), (76 + 16 * q, 4, 8)]) ++
    (List.range 7).map fun q => (144 + 16 * q, 1, 255)) ++
  (toBE 4 0 ++ toBE 4 3 ++ List.replicate 2176 0#8 ++ toBE 4 8 ++ List.replicate 640 0#8)

/-- The key that the image verifies under. -/
def bootKey : List Byte := lmsFirmware.keyFor (List.replicate 16 0#8) (fwImage.take 320) (fwImage.drop 320)

/-- booting, the image in slot A of store 1, on a part whose boot ROM holds the key that the image verifies under. -/
def booting (verified : Bool) : State :=
  { booted with
    dev := { booted.dev with state := .booting }
    part := { romKey := bootKey }
    fw := { verified := verified, flash := [(0, (FlashSlot.written 1 1 fwImage).committed)] } }

/-- booted with the key set in slot A of store 3. -/
def withKeys : State := { booted with fw := { verified := true, flash := [(4, (FlashSlot.written 3 1 keySet).committed)] } }

/-- A quorum record of one tag. -/
def quorumRecord (op action port : Nat) : List Byte :=
  let r := fields 32 [(0, 2, op), (2, 1, action), (3, 1, port), (4, 12, 0x373831343030304158_4B4C), (16, 8, 1), (24, 1, 1)]
  let r := r.take 4 ++ padTo 12 booted.part.serial ++ r.drop 16
  r ++ [0#8, 0#8, 0#8, 0#8] ++ hmac (keyAt keySet 0) (slice keySet 8 8 ++ r.take 24)

theorem fwImage_slotValid : (FlashSlot.written 1 1 fwImage).committed.valid 1 = true :=
  FlashSlot.written_valid 1 1 _ (by decide) (by decide) (by decide) (by rw [show fwImage.length = 3148 by decide +kernel]; decide)

theorem fwImage_sigOk : lmsFirmware.sigOk (fwImage.drop 320) = true := by decide +kernel

theorem bootKey_verifies : lmsFirmware.verifies bootKey (fwImage.take 320) (fwImage.drop 320) = true :=
  LmsKind.verifies_keyFor _ _ _ _ List.length_replicate (by decide +kernel) (by decide +kernel) fwImage_sigOk

theorem booting_key : (booting false).part.firmwareKey = bootKey :=
  Part.firmwareKey_of _ (LmsKind.keyFor_length _ _ _ _ List.length_replicate)

theorem fwImage_authOk : (booting false).imageAuthOk fwImage = true := by
  unfold State.imageAuthOk
  rw [show fieldAt fwImage 20 4 = 320 by decide +kernel, booting_key, bootKey_verifies, Bool.and_true]
  decide +kernel

theorem bootSlot_first : (booting false).bootSlot = some (0, 0) :=
  State.bootSlot_of _ 0 (FlashSlot.written 1 1 fwImage).committed (slotInForce_of _ 1 fwImage_slotValid (by decide +kernel)) rfl fwImage_slotValid
    (by decide +kernel) fwImage_authOk

theorem keySet_slotValid : (FlashSlot.written 3 1 keySet).committed.valid 3 = true :=
  FlashSlot.written_valid 3 1 _ (by decide) (by decide) (by decide) (by rw [show keySet.length = 260 by decide +kernel]; decide)

theorem withKeys_stored : storeContent withKeys.fw.flash 3 = keySet :=
  storeContent_of _ 3 (FlashSlot.written 3 1 keySet).committed rfl keySet_slotValid (by decide +kernel)

theorem withKeys_seq : withKeys.fw.quorumSeq = 0#64 := by decide +kernel

theorem quorum_ok {s : State} {op : Nat} {r : List Byte} (hf : s.fw = withKeys.fw) (hp : s.part = {})
    (h : op = 0x0105 ∧ r = quorumRecord 0x0105 0 255 ∨ op = 0x0105 ∧ r = quorumRecord 0x0105 1 255 ∨
      op = 0x0404 ∧ r = quorumRecord 0x0404 0 35 ∨ op = 0x0404 ∧ r = quorumRecord 0x0404 1 35) : s.quorumCheck op r = stOk := by
  have hs : s.stored 3 = keySet := by rw [State.stored, hf, withKeys_stored]
  obtain ⟨rfl, rfl⟩ | ⟨rfl, rfl⟩ | ⟨rfl, rfl⟩ | ⟨rfl, rfl⟩ := h <;> rw [State.quorumCheck, hs, hp, hf, withKeys_seq] <;> decide +kernel

theorem attest_takes {k : Cmd} {r secret : List Byte} {i : Nat} {p : Part} (n : Nat) (ha : fieldAt k.params 0 8 % 32 = 0) (hl : fieldAt k.params 8 4 = n)
    (hr : r.length = 256) (hn : 6496 ≤ n := by decide) : k.takes (r ++ hssSign secret i r ++ p.certificate).length := by
  refine ⟨.inr ha, ?_⟩
  simp only [List.length_append, hssSign_length, Part.certificate_length, hr]
  omega

/-! ### Ill-formed commands: each violates one check of WellFormed -/

theorem test_illFormed_0 :
    ([
      .ctxStopTimeout 256, .teardownEngineTimeout 192 0, .teardownEngineTimeout 0 6, .teardownWritesAcked 256, .cxlWriteAckTimeout 256 0, .cxlWriteAckTimeout 0 2,
      .seedbankRequest 192 {}, .seedbankRebuildDone 18, .ringEnable 256 0, .ringDisable 256 0, .descriptorFetch 256 (List.replicate 64 0) [], .descriptorFetch 0 (List.replicate 65 0) [],
      .interruptCoalesceExpiry 256, .deviceEventWrite 256, .nop 192 0, .nop 0 6, .jmp 192 0, .jmp 0 6,
      .beq 192 0, .beq 0 6, .bne 192 0, .bne 0 6, .blt 192 0, .blt 0 6,
      .bge 192 0, .bge 0 6, .bltu 192 0, .bltu 0 6, .bgeu 192 0, .bgeu 0 6,
      .call 192 0, .call 0 6, .ret 192 0, .ret 0 6, .stepEnd 192 0, .stepEnd 0 6,
      .stepEndRetire 192 0, .stepEndRetire 0 6, .halt 192 0, .halt 0 6, .haltRetire 192 0, .haltRetire 0 6,
      .fence 192 0, .fence 0 6, .fenceRetire 192 0, .fenceRetire 0 6, .add 192 0, .add 0 6,
      .sub 192 0, .sub 0 6, .and 192 0, .and 0 6, .or 192 0, .or 0 6,
      .xor 192 0, .xor 0 6, .shl 192 0, .shl 0 6, .shr 192 0, .shr 0 6] : List Instr).all (fun i => !i.wf) = true := by decide +kernel

theorem test_illFormed_1 :
    ([
      .sra 192 0, .sra 0 6, .slt 192 0, .slt 0 6, .sltu 192 0, .sltu 0 6,
      .mul 192 0, .mul 0 6, .mulhu 192 0, .mulhu 0 6, .div 192 0, .div 0 6,
      .divu 192 0, .divu 0 6, .rem 192 0, .rem 0 6, .remu 192 0, .remu 0 6,
      .li 192 0, .li 0 6, .lui 192 0, .lui 0 6, .ldB 192 0, .ldB 0 6,
      .ldH 192 0, .ldH 0 6, .ldW 192 0, .ldW 0 6, .stB 192 0, .stB 0 6,
      .stH 192 0, .stH 0 6, .stW 192 0, .stW 0 6, .spld 192 0, .spld 0 6,
      .spst 192 0, .spst 0 6, .rdcyc 192 0, .rdcyc 0 6, .rdtime 192 0, .rdtime 0 6,
      .rdtile 192 0, .rdtile 0 6, .seed 192 0, .seed 0 6, .mm 192 0, .mm 0 6,
      .mmBs 192 0, .mmBs 0 6, .mmGs 192 0, .mmGs 0 6, .mmBgs 192 0, .mmBgs 0 6,
      .sparseBandFault 192, .sparseMmComplete 192 none, .trMap 192 0, .trMap 0 6, .trRed 192 0, .trRed 0 6] : List Instr).all (fun i => !i.wf) = true := by decide +kernel

theorem test_illFormed_2 :
    ([
      .trCvt 192 0, .trCvt 0 6, .trLdprog 192 0, .trLdprog 0 6, .trLdprogCheck 192 none, .shPrune 192 0,
      .shPrune 0 6, .shTmask 192 0, .shTmask 0 6, .engineResultComplete 192 0 none, .astreamRowFetch 192 1, .astreamRowFetch 0 0,
      .astreamRowFetch 0 5, .mvCopy 192 0, .mvCopy 0 6, .mvMesh 192 0, .mvMesh 0 6, .meshSlotStart 192 0 none,
      .meshArrival 192 0, .meshTransferComplete 192 0, .mvMrecv 192 0, .mvMrecv 0 6, .mvGet 192 0, .mvGet 0 6,
      .mvGetComplete 192 0 false [], .mvPut 192 0, .mvPut 0 6, .mvPutComplete 192 0 false, .mvSend 192 0, .mvSend 0 6,
      .mvSendAdmit 192 none, .mvSendComplete 192, .mvRecv 192 0, .mvRecv 0 6, .receiveQueueArrival 192 none, .mvRecvComplete 192,
      .cvInit 192 0, .cvInit 0 6, .cvWb 192 0, .cvWb 0 6, .cvWh 192 0, .cvWh 0 6,
      .cvWw 192 0, .cvWw 0 6, .cvRead 192 0, .cvRead 0 6, .cvSave 192 0, .cvSave 0 6,
      .cvRestore 192 0 none, .cvRestore 0 6 none, .cvFeed 192 0, .cvFeed 0 6, .signal 192 0, .signal 0 6,
      .wait 192 0, .wait 0 6, .waitRetire 192 0, .waitRetire 0 6, .aspush 192 0, .aspush 0 6] : List Instr).all (fun i => !i.wf) = true := by decide +kernel

theorem test_illFormed_3 :
    ([
      .tillerWatchdogFire 192 0, .tillerWatchdogFire 0 6, .sampleComplete 192, .engineResetDone 192, .engineResetOverrun 192, .tillerResetDone 192 false,
      .tillerResetOverrun 192, .tillerRestart 192, .linkWatchdogFire 36, .linkEngineResetDone 36, .linkEngineResetOverrun 36, .portGroupResetDone 9,
      .portGroupResetOverrun 9, .flitSlotTransmit 36, .dataFlitReceive 36 (List.replicate 256 0), .dataFlitReceive 0 (List.replicate 257 0), .controlFlitReceive 36 (List.replicate 256 0), .controlFlitReceive 0 (List.replicate 257 0),
      .discoveryFlitReceive 36 (List.replicate 256 0), .discoveryFlitReceive 0 (List.replicate 257 0), .trainingBlockReceive 36 0 (List.replicate 8 0), .trainingBlockReceive 0 8 (List.replicate 8 0), .trainingBlockReceive 0 0 (List.replicate 9 0), .laneBlockLock 36 0,
      .laneBlockLock 0 8, .enterDiscovery 36, .enterActive 36, .replayTimerExpiry 36, .retryExhausted 36, .controlTimeout 36,
      .pauseExpiry 36, .pauseTimeout 36, .trainingTimeout 36, .retrainTimer 36, .laneLossOfSignal 36 0, .laneLossOfSignal 0 8,
      .sparingWindowEnd 36 (List.replicate 8 0), .sparingWindowEnd 0 (List.replicate 9 0), .laserFeedLow 9 0, .laserFeedLow 0 2, .laserFeedRecovered 9 0, .laserFeedRecovered 0 2,
      .oeCalibrationCycle 9 false [], .forwardingDecision 4, .schedulerSelect 38, .packetTransmitComplete 38 none, .contribReceive 192, .partialReceive 192,
      .resultReceive 192, .countReceive 192, .stepAbortReceive 192, .stepReplayReceive 192, .resultRequestReceive 192, .stepCommit 256,
      .stepTimeout 256 0, .put 192, .get 192 [], .delete 192, .probe 192, .cxlPortDown 2] : List Instr).all (fun i => !i.wf) = true := by decide +kernel

theorem test_illFormed_4 :
    ([
      .cxlPortUp 2 0, .scrubSlot 26 0, .domainIdleExpiry 56, .domainPowerOnDone 56, .domainPowerOffDone 56, .coldResetRelease 64,
      .cxlPerstRelease 2, .fwpWatchdogExpiry 5, .fwpTrap 5, .fwpMemoryUe 5 0, .fwpMemoryUe 0 49152, .fwpRestartDone 5,
      .loopLaneAligned 36 0, .loopLaneAligned 0 8, .loopLaneAlignmentLost 36 0, .loopLaneAlignmentLost 0 8, .i3cDynamicAddressAssign 128] : List Instr).all (fun i => !i.wf) = true := by decide +kernel

/-- Commands at the top of their ranges. -/
theorem test_wellFormed : ([.ctxStopTimeout 255, .nop 191 5, .cxlWriteAckTimeout 255 1, .trainingBlockReceive 35 7 (List.replicate 8 0), .schedulerSelect 37, .domainIdleExpiry 55] : List Instr).all (fun i => i.wf) = true := by decide +kernel

/-! ### Worked examples of the spec -/

/-- The check input of 03 R95. -/
def checkInput : List Byte := [0x31#8, 0x32#8, 0x33#8, 0x34#8, 0x35#8, 0x36#8, 0x37#8, 0x38#8, 0x39#8]

/-- The check values of 03 R95: the four CRCs of "123456789" and Fletcher-32 of "abcde". -/
theorem test_cvuCheckValues : ((cvuInit 0).feed 0 checkInput).value 0 = [0xE3069283#32] ∧ ((cvuInit 1).feed 0 checkInput).value 0 = [0xCBF43926#32] ∧
    ((cvuInit 2).feed 0 checkInput).value 0 = [0x29B1#32] ∧ ((cvuInit 3).feed 0 checkInput).value 0 = [0x0B497347#32, 0x6C40DF5F#32] ∧
    ((cvuInit 4).feed 0 [0x61#8, 0x62#8, 0x63#8, 0x64#8, 0x65#8]).value 0 = [0xF04FC729#32] := by decide +kernel

/-- SHA-256 of "abc" by the CVU (03 R95). -/
theorem test_cvuSha : ((cvuInit 5).feed 0 [0x61#8, 0x62#8, 0x63#8]).digest.take 4 = [0xBA#8, 0x78#8, 0x16#8, 0xBF#8] := by decide +kernel

/-- The LE2M1 block of largest magnitude 100 in file 02: scale 0x84, code 5, read back as 96. -/
theorem test_blockScale : chooseScale .le2m1 [.fin { neg := false, m := 100, e := 0 }] = 0x84 ∧
    toScaled .le2m1 0 0 0x84 (.fin { neg := false, m := 100, e := 0 }) = 5 ∧ widen32 .le2m1 0x84 5 = Fmt.fp32.round 0 0 (.fin { neg := false, m := 96, e := 0 }) := by decide +kernel

/-- Stochastic rounding of 1.03125 to LE4M3 with seed 1 in file 02, and with a draw of 0xC0000000. -/
theorem test_stochastic : xorshift 1#32 = 0x00042021#32 ∧ Fmt.le4m3.round 5 0x00042021 (.fin { neg := false, m := 33, e := -5 }) = 0x38 ∧
    Fmt.le4m3.round 5 0xC0000000 (.fin { neg := false, m := 33, e := -5 }) = 0x39 := by decide +kernel

/-- The saturating INT32 sums of file 02, in both orders. -/
theorem test_saturation : combine .int32 0 (combine .int32 0 2147483000 1000) (2 ^ 32 - 1000) = 2147482647 ∧
    combine .int32 0 (combine .int32 0 2147483000 (2 ^ 32 - 1000)) 1000 = 2147483000 := by decide +kernel

/-- The LB16 dot product of file 02 that gives +0. -/
theorem test_dotOrder : [Dy.mk false 16777216 0, Dy.mk false 1 0, Dy.mk false 1 0, Dy.mk true 16777216 0].foldl (fun a d => accFp32 a (.fin d)) none = some 0 := by
  decide +kernel

/-- The product of 32 x 256 by 256 x 64 of file 03: occupancy 520, latency 556. -/
theorem test_mmTiming : ({} : Tiller).timing 0 { mn := .mm, ds := [{ fmt := 4#4, count := 8192#24, rowLen := 256#16 }, { fmt := 4#4, count := 16384#24, rowLen := 64#16 }, {}] } = (520, 556) := by
  decide +kernel

/-- The mesh transfer from T(5,9) to T(5,2) of file 03: seven hops, 26 cycles. -/
theorem test_meshPath : meshPath 149 37 = [149, 133, 117, 101, 85, 69, 53, 37] ∧ meshHops 149 37 = 26 := by decide +kernel

/-- The group field of SH_PRUNE's example in file 04. -/
theorem test_groupField : fieldOf [1, 6] = 0x018A := by decide +kernel

/-- The limit of the balanced example of file 04: 47 tiles in 16 tile rows. -/
theorem test_balanceLimit : balanceLimit { form := 1, n := 0, resvOk := true, rows := 256, depth := 512, bitmap := 0, groups := 0, scale := 0, tiles := 47 } = 11 := by
  decide +kernel

/-- The micro-operations of the softmax example of file 04. -/
theorem test_microOps : microOp 0x001C8002 = { op := 2, stage := 0, dt := 0, a := 0x10, b := 0x1C, c := 0, rm := 0, resv := 0 } ∧
    microOp 0x0000004D = { op := 0xD, stage := 1, dt := 0, a := 0, b := 0, c := 0, rm := 0, resv := 0 } := by decide +kernel

/-- The rank tree of six ranks in file 05; a node is written as a bracket of 90 and 91 about its two halves. -/
theorem test_rankTree : treeHeight 6 = 3 ∧ nodeValue 6 (fun a b : List Nat => 90 :: a ++ b ++ [91]) (fun L x => if L = 0 && decide (x < 6) then some [x] else none) 3 0 =
    some [90, 90, 90, 0, 1, 91, 90, 2, 3, 91, 91, 90, 4, 5, 91, 91] := by decide +kernel

/-- The shaper of file 07: 10,000 MB/s refills 436,906 units a cycle, and an overfull one is left as it is. -/
theorem test_shaperRefill : refillTokens 0 10000 16384 = 436906 ∧ refillTokens (12000 * 65536) 5000 8192 = 12000 * 65536 ∧ refillTokens (7648 * 65536) 5000 8192 = 7648 * 65536 + 218453 := by
  decide +kernel

/-- BAR4_WINDOW.base 7 of file 01 ends at the last usable GDDR7 byte. -/
theorem test_bar4Window : ({ booted with dev := { booted.dev with bar4Window := 7#32 } }).bar4Addr 0xFFFFFFFFF = 0x10DFFFFFFF := by decide +kernel

/-- The heat of 4,000 mL/min of water warmed by 5.8 C in file 14; with readings in 1/16 C, 5.8125 C. -/
theorem test_heat : (({ sens := { flow := 4000, tIn := 832, tOut := 925 } } : Power).pThNow : Rat) = 4000 / 60 * (103 / 25) * (93 / 16) := by decide +kernel

/-- The firmware identity: part number and grade (10 R284). -/
theorem test_devId : booted.devId = 0x3600 := by decide +kernel

theorem test_stepRunsTheFrontCommand : ∃ s : State, ∃ c : Instr, ∃ rest : List Instr, s.pending = c :: rest :=
  ⟨{ booted with pending := [.warmResetT0, .hssTreeBuilt] }, .warmResetT0, [.hssTreeBuilt], by decide +kernel⟩

theorem test_idleStepPassesTime_1 : ∃ s : State, s.pending = [] ∧ s.timeOver = true :=
  ⟨{ booted with clk := { third := 3 * 2 ^ 64, fabref := 2 ^ 64 } }, by decide +kernel⟩

theorem test_idleStepPassesTime_2 : ∃ s : State, s.pending = [] ∧ s.timeOver = false :=
  ⟨booted, by decide +kernel⟩

theorem test_idleStepPassesTime_3 : ∃ s : State, s.pending = [] ∧ s.pwr.phase = .running :=
  ⟨booted, by decide +kernel⟩

theorem test_idleStepPassesTime_4 : ∃ s : State, s.pending = [] ∧ s.pwr.phase = .held :=
  ⟨{ booted with pwr := { phase := .held } }, by decide +kernel⟩

theorem test_idleStepPassesTime_5 : ∃ s : State, s.pending = [] ∧ (s.pwr.phase = .off ∨ s.pwr.phase = .converters) :=
  ⟨{ booted with pwr := { phase := .off } }, by decide +kernel⟩

theorem test_partIdentityIsReadAndNeverChanges_1 : ∃ s : State, ∃ c : Nat, ∃ k : Cmd, s.carries 0x0101 c k ∧ k.takes 64 :=
  ⟨given booted 0x0101 (fields 12 [(0, 8, 16384), (8, 4, 64)]), 1, cmd 0x0101 (fields 12 [(0, 8, 16384), (8, 4, 64)]), by decide +kernel⟩

theorem test_doorbellsMoveTheRing_1 : ∃ s : State, ∃ r v : Nat, r < 256 ∧ s.live = true ∧ s.dev.pcieUp = true ∧ (s.ring r).enabled = true ∧ (s.ring
    r).error = false ∧ (BitVec.ofNat 32 v - (s.ring r).cmdHead).toNat ≤ (s.ring r).nCmd ∧ answers (exec (.cmdTailWrite (0x40000 * r) 4 v) s) (s.modRing r
    fun R => { R with tailDb := BitVec.ofNat 32 v }) = true :=
  ⟨ringed, 0, 16, by decide +kernel⟩

theorem test_doorbellsMoveTheRing_2 : ∃ s : State, ∃ r v : Nat, r < 256 ∧ s.live = true ∧ s.dev.pcieUp = true ∧ (s.ring r).enabled = true ∧ (s.ring
    r).error = false ∧ (s.ring r).nCmd < (BitVec.ofNat 32 v - (s.ring r).cmdHead).toNat ∧ answers (exec (.cmdTailWrite (0x40000 * r) 4 v) s) (s.modRing r
    fun R => { R with error := true, cause := 1 }) = true :=
  ⟨ringed, 0, 17, by decide +kernel⟩

theorem test_doorbellsMoveTheRing_3 : ∃ s : State, ∃ r v : Nat, r < 256 ∧ s.live = true ∧ s.dev.pcieUp = true ∧ (s.ring r).enabled = true ∧ answers
    (exec (.cplHeadWrite (0x40000 * r + 8) 4 v) s) (s.modRing r fun R => { R with headDb := BitVec.ofNat 32 v }) = true :=
  ⟨ringed, 0, 3, by decide +kernel⟩

theorem test_doorbellsMoveTheRing_4 : ∃ s : State, ∃ r v : Nat, r < 256 ∧ s.live = true ∧ s.dev.pcieUp = true ∧ (s.ring r).enabled = false ∧ answers
    (exec (.cmdTailWrite (0x40000 * r) 4 v) s) (s) = true ∧ answers (exec (.cplHeadWrite (0x40000 * r + 8) 4 v) s) (s) = true :=
  ⟨booted, 0, 3, by decide +kernel⟩

theorem test_doorbellsMoveTheRing_5 : ∃ s : State, ∃ r v : Nat, ∃ off w, r < 256 ∧ s.live = true ∧ s.dev.pcieUp = true ∧ (w ≠ 4 ∨ off % 0x40000 ≠ 0) ∧
    answers (exec (.cmdTailWrite off w v) s) (s) = true :=
  ⟨ringed, 0, 3, 0, 8, by decide +kernel⟩

theorem test_doorbellsMoveTheRing_6 : ∃ s : State, ∃ r v : Nat, ∃ off w, r < 256 ∧ s.live = true ∧ s.dev.pcieUp = true ∧ (w ≠ 4 ∨ off % 0x40000 ≠ 8) ∧
    answers (exec (.cplHeadWrite off w v) s) (s) = true :=
  ⟨ringed, 0, 3, 8, 8, by decide +kernel⟩

theorem test_ringsAreEnabledAndDisabled_1 : ∃ s : State, ∃ r v : Nat, ∃ (inRange : Prop), inRange = (((BitVec.ofNat 32 v).extractLsb' 1 4).toNat ≤ 12
    ∧ ((BitVec.ofNat 32 v).extractLsb' 5 4).toNat ≤ 12) ∧ r < 256 ∧ s.live = true ∧ s.dev.pcieUp = true ∧ ¬ inRange ∧ answers (exec (.ringEnable r v) s)
    (s) = true ∧ answers (exec (.ringDisable r v) s) (s) = true :=
  ⟨booted, 0, 0x1B, _, rfl, by decide +kernel⟩

theorem test_ringsAreEnabledAndDisabled_2 : ∃ s : State, ∃ r v : Nat, ∃ (inRange : Prop), inRange = (((BitVec.ofNat 32 v).extractLsb' 1 4).toNat ≤ 12
    ∧ ((BitVec.ofNat 32 v).extractLsb' 5 4).toNat ≤ 12) ∧ r < 256 ∧ s.live = true ∧ s.dev.pcieUp = true ∧ inRange ∧ v % 2 = 1 ∧ (s.ring r).enabled = false
    ∧ (s.ring r).enable = false ∧ answers (exec (.ringEnable r v) s) (s.modRing r fun R =>
    { R with cfg := (BitVec.ofNat 32 v &&& 0xFF01FE01#32) ||| (BitVec.ofNat 32 v &&& 0x1FE#32), enabled := true, error := false, cause := 0, cmdHead := 0#32, cplTail := 0#32, tailDb := 0#32, headDb := 0#32, unsig := none })
    = true :=
  ⟨{ booted with host := { rings := [(255, { cmdHead := 9#32 })] } }, 255, 0xFF000199, _, rfl, by decide +kernel⟩

theorem test_ringsAreEnabledAndDisabled_3 : ∃ s : State, ∃ r v : Nat, ∃ (inRange : Prop), inRange = (((BitVec.ofNat 32 v).extractLsb' 1 4).toNat ≤ 12
    ∧ ((BitVec.ofNat 32 v).extractLsb' 5 4).toNat ≤ 12) ∧ r < 256 ∧ s.live = true ∧ s.dev.pcieUp = true ∧ inRange ∧ v % 2 = 0 ∧ (s.ring r).enabled = true
    :=
  ⟨ringed, 0, 0, _, rfl, by decide +kernel⟩

theorem test_descriptorsAreFetchedAndAccepted_1 : ∃ s : State, ∃ r : Nat, ∃ p : List Byte, ∃ (moved : State), moved = (s.modRing r fun R =>
    { R with cmdHead := R.cmdHead + 1#32 }) ∧ ∃ (rec : List Byte), rec = (if descIndirect d then p else Machine.slice d 12 (fieldAt d 8 4)) ∧ ∃ (d : List
    Byte), d = [] ∧ r < 256 ∧ s.mayFetch r = true ∧ answers (exec (.descriptorFetch r d p) s) (s.modRing r fun R => { R with error := true, cause := 2 })
    = true :=
  ⟨ringed, 0, [], _, rfl, _, rfl, _, rfl, by decide +kernel⟩

theorem test_descriptorsAreFetchedAndAccepted_2 : ∃ s : State, ∃ r : Nat, ∃ d p : List Byte, ∃ (moved : State), moved = (s.modRing r fun R =>
    { R with cmdHead := R.cmdHead + 1#32 }) ∧ ∃ (rec : List Byte), rec = (if descIndirect d then p else Machine.slice d 12 (fieldAt d 8 4)) ∧ (r < 256 ∧
    s.mayFetch r = true ∧ d.length = 64 ∧ fieldAt d 0 2 = 0x0302) ∧ 4096 ≤ s.postCount :=
  ⟨fullPosts 4096, 0, (fields 64 [(0, 2, 0x0302)]), [], _, rfl, _, rfl, by decide +kernel, fullPosts_count 4096⟩

theorem test_descriptorsAreFetchedAndAccepted_3 : ∃ s : State, ∃ r : Nat, ∃ d p : List Byte, ∃ (moved : State), moved = (s.modRing r fun R =>
    { R with cmdHead := R.cmdHead + 1#32 }) ∧ ∃ (rec : List Byte), rec = (if descIndirect d then p else Machine.slice d 12 (fieldAt d 8 4)) ∧ r < 256 ∧
    s.mayFetch r = true ∧ d.length = 64 ∧ (fieldAt d 0 2 = 0x0302 → s.postCount < 4096) ∧ s.dev.state ≠ .wedged ∧ descOk d = true ∧ (descIndirect d = true
    → p.length = fieldAt d 8 4) ∧ answers (exec (.descriptorFetch r d p) s) (moved.modHost fun h =>
    { h with nextId := h.nextId + 1, cmds := h.cmds ++ [s.fetched r d rec] }) = true :=
  ⟨ringed, 0, statusDesc, [], _, rfl, _, rfl, by decide +kernel⟩

theorem test_descriptorsAreFetchedAndAccepted_4 : ∃ s : State, ∃ r : Nat, ∃ d p : List Byte, ∃ (moved : State), moved = (s.modRing r fun R =>
    { R with cmdHead := R.cmdHead + 1#32 }) ∧ ∃ (rec : List Byte), rec = (if descIndirect d then p else Machine.slice d 12 (fieldAt d 8 4)) ∧ r < 256 ∧
    s.mayFetch r = true ∧ d.length = 64 ∧ (fieldAt d 0 2 = 0x0302 → s.postCount < 4096) ∧ (∀ k ∈ s.host.cmds, k.id < s.host.nextId) ∧ (s.dev.state =
    .wedged ∨ descOk d = false ∨ (descIndirect d = true ∧ p.length ≠ fieldAt d 8 4)) :=
  ⟨ringed, 0, fields 64 [(0, 2, 0x0102), (8, 4, 13)], [], _, rfl, _, rfl, by decide +kernel⟩

theorem test_completionRecordIsWritten_1 : ∃ s : State, ∃ d : Done, ∃ r : Nat, d.src = .ring r ∧ s.host.dones.find? (fun x => x.id == d.id) = some d ∧
    s.host.dones.find? (fun x => x.src == d.src) = some d ∧ s.live = true ∧ s.dev.pcieUp = true ∧ (∀ L, s.host.latched = some L → L.cmd ≠ d.id) ∧ (s.ring
    r).enabled = true ∧ (s.ring r).room = true :=
  ⟨{ ringed with host := { ringed.host with dones := [{ id := 4, opcode := 0x0102, tag := 7 }] } }, { id := 4, opcode := 0x0102, tag := 7 }, 0,
    by decide +kernel⟩

theorem test_completionRecordIsWritten_2 : ∃ s : State, ∃ d : Done, ∃ r : Nat, ∃ L, d.src = .ring r ∧ s.host.dones.find? (fun x => x.id == d.id) =
    some d ∧ s.host.dones.find? (fun x => x.src == d.src) = some d ∧ s.live = true ∧ s.dev.pcieUp = true ∧ s.host.latched = some L ∧ L.cmd = d.id :=
  ⟨{ ringed with host := { ringed.host with latched := some { cmd := 4, addr := 0x2000, phase := 1, tag := 9 }, dones := [{ id := 4, opcode := 0x0104, tag := 7 }] } },
    { id := 4, opcode := 0x0104, tag := 7 }, 0, { cmd := 4, addr := 0x2000, phase := 1, tag := 9 }, by decide +kernel⟩

theorem test_interruptsAreSignalled_1 : ∃ s : State, ∃ r st op tag : Nat, ∃ ev : Bool, ∃ words : List Nat, ∃ (s' : State), s' = s.putRecord r st op
    tag ev words ∧ (s.ring r).coalesce = 0 :=
  ⟨ringed, 0, 1, 0x102, 7, false, [], _, rfl, by decide +kernel⟩

theorem test_interruptsAreSignalled_2 : ∃ s : State, ∃ r st op tag : Nat, ∃ ev : Bool, ∃ words : List Nat, ∃ (s' : State), s' = s.putRecord r st op
    tag ev words ∧ (s.ring r).coalesce = 0 ∧ (SMap.get msixAt s.host.msix (4 * (s.ring r).vector + 3)).getLsbD 0 = false :=
  ⟨{ ringed with host := { ringed.host with msix := [(3, 0#32)] } }, 0, 1, 0x102, 7, false, [], _, rfl, by decide +kernel⟩

theorem test_interruptsAreSignalled_3 : ∃ s : State, ∃ r st op tag : Nat, ∃ ev : Bool, ∃ words : List Nat, ∃ (s' : State), s' = s.putRecord r st op
    tag ev words ∧ (s.ring r).coalesce = 0 ∧ (SMap.get msixAt s.host.msix (4 * (s.ring r).vector + 3)).getLsbD 0 = true :=
  ⟨ringed, 0, 1, 0x102, 7, false, [], _, rfl, by decide +kernel⟩

theorem test_interruptsAreSignalled_4 : ∃ s : State, ∃ r st op tag : Nat, ∃ ev : Bool, ∃ words : List Nat, ∃ (s' : State), s' = s.putRecord r st op
    tag ev words ∧ (s.ring r).coalesce ≠ 0 :=
  ⟨ringedWith (fun R => { R with unsig := some 0, cfg := 0x02000001#32 }), 0, 1, 0x102, 7, false, [], _, rfl, by decide +kernel⟩

theorem test_interruptsAreSignalled_5 : ∃ s : State, ∃ r t0 : Nat, r < 256 ∧ s.live = true ∧ (s.ring r).unsig = some t0 ∧ s.t3 < t0 + 3000 * (s.ring
    r).coalesce ∧ answers (exec (.interruptCoalesceExpiry r) s) (s) = true :=
  ⟨atNs (ringedWith fun R => { R with unsig := some 0, cfg := 0x02000001#32 }) 1999, 0, 0, by decide +kernel⟩

theorem test_interruptsAreSignalled_6 : ∃ s : State, ∃ r t0 : Nat, r < 256 ∧ s.live = true ∧ (s.ring r).unsig = some t0 ∧ t0 + 3000 * (s.ring
    r).coalesce ≤ s.t3 ∧ (SMap.get msixAt s.host.msix (4 * (s.ring r).vector + 3)).getLsbD 0 = false ∧ answers (exec (.interruptCoalesceExpiry r) s)
    ((s.modRing r fun R => { R with unsig := none }).modHost fun h =>
    { h with sent := SMap.set zeroAt (s.ring r).vector (SMap.get zeroAt h.sent (s.ring r).vector + 1) h.sent }) = true :=
  ⟨{ (atNs (ringedWith fun R => { R with unsig := some 0, cfg := 0x02000001#32 }) 2000) with host := { (ringedWith fun R => { R with unsig := some 0, cfg := 0x02000001#32 }).host with msix := [(3, 0#32)] } },
    0, 0, by decide +kernel⟩

theorem test_interruptsAreSignalled_7 : ∃ s : State, ∃ r t0 : Nat, r < 256 ∧ s.live = true ∧ (s.ring r).unsig = some t0 ∧ t0 + 3000 * (s.ring
    r).coalesce ≤ s.t3 ∧ (SMap.get msixAt s.host.msix (4 * (s.ring r).vector + 3)).getLsbD 0 = true ∧ answers (exec (.interruptCoalesceExpiry r) s)
    ((s.modRing r fun R => { R with unsig := none }).modHost fun h => { h with pba := SMap.set falseAt (s.ring r).vector true h.pba }) = true :=
  ⟨atNs (ringedWith fun R => { R with unsig := some 0, cfg := 0x02000001#32 }) 2000, 0, 0, by decide +kernel⟩

theorem test_deviceEventsAreWritten_1 : ∃ s : State, ∃ r : Nat, ∃ e, r < 256 ∧ s.live = true ∧ s.dev.pcieUp = true ∧ (s.ring r).enabled = true ∧
    (s.ring r).room = true ∧ s.host.events.find? (fun x => x.ring == r) = some e ∧ answers (exec (.deviceEventWrite r) s) ((s.modHost fun h =>
    { h with events := h.events.erase e }).putRecord r e.status e.code 0xFFFFFFFF true e.words) = true :=
  ⟨{ ringed with host := { ringed.host with events := [{ code := 6, words := [2] }] } }, 0, { code := 6, words := [2] }, by decide +kernel⟩

theorem test_deviceEventsAreWritten_2 : ∃ s : State, ∃ r : Nat, r < 256 ∧ s.live = true ∧ s.dev.pcieUp = true ∧ (s.ring r).enabled = true ∧ (s.ring
    r).room = true ∧ s.host.events.find? (fun x => x.ring == r) = none ∧ 0 < (s.ring r).evLost ∧ answers (exec (.deviceEventWrite r) s) ((s.modRing r fun
    R => { R with evLost := 0 }).putRecord r stOk 8 0xFFFFFFFF true [(s.ring r).evLost]) = true :=
  ⟨ringedWith (fun R => { R with evLost := 3 }), 0, by decide +kernel⟩

theorem test_registerWritesFollowTheMap_1 : ∃ s : State, ∃ off : Nat, ∃ w, s.linkUp = true ∧ off < 0x1000000 ∧ bar2Ok off w = false :=
  ⟨booted, 0x1001, 4, by decide +kernel⟩

theorem test_registerWritesFollowTheMap_2 : ∃ s : State, ∃ off v : Nat, s.linkUp = true ∧ off < 0x1000000 ∧ off % 4 = 0 ∧ answers (exec
    (.registerWrite off 4 v) s) ((s.writeWord off (BitVec.ofNat 32 v)).answer .accepted) = true :=
  ⟨booted, 0x100C, 0x155, by decide +kernel⟩

theorem test_registerWritesFollowTheMap_3 : ∃ s : State, ∃ off v : Nat, s.linkUp = true ∧ off < 0x1000000 ∧ off % 8 = 0 ∧ answers (exec
    (.registerWrite off 8 v) s) (((s.writeWord off (BitVec.ofNat 32 v)).writeWord (off + 4) (BitVec.ofNat 32 (v / 2 ^ 32))).answer .accepted) = true :=
  ⟨booted, 0x1020, 0x123456789000, by decide +kernel⟩

theorem test_registerWritesFollowTheMap_4 : ∃ s : State, ∃ off v : Nat, s.linkUp = true ∧ off < 0x1000000 ∧ answers (exec (.registerWrite 0x1030 4 v)
    s) (s.modDev fun d => { d with hrxHead := BitVec.ofNat 32 v, barOut := .accepted }) = true ∧ answers (exec (.registerWrite 0x1008 4 v) s) (s.modDev
    fun d => { d with bar4Window := BitVec.ofNat 32 v &&& 7#32, barOut := .accepted }) = true ∧ answers (exec (.registerWrite 0x100C 4 v) s) (s.modDev fun
    d => { d with eventCfg := BitVec.ofNat 32 v &&& 0x1FF#32, barOut := .accepted }) = true :=
  ⟨booted, 0xFFFFFC, 7, by decide +kernel⟩

theorem test_registerWritesFollowTheMap_5 : ∃ s : State, ∃ off v : Nat, s.linkUp = true ∧ off < 0x1000000 ∧ off < 0x1008 ∧ off % 4 = 0 ∧ answers (exec
    (.registerWrite off 4 v) s) (s.answer .accepted) = true :=
  ⟨booted, 0x1004, 7, by decide +kernel⟩

theorem test_bar4ReadsAndWritesMemory_1 : ∃ s : State, ∃ off len : Nat, ∃ data : List Byte, ∃ ecc : Option Nat, ∃ ce : List Nat, s.linkUp = true ∧ 0 <
    len ∧ off + len ≤ 0x1000000000 ∧ s.memThere (s.bar4Addr off) = true ∧ s.badAmong (wordsOf (s.bar4Addr off) len) ecc = none ∧ answers (exec (.bar4Read
    off len ecc ce) s) ((s.corrected (wordsOf (s.bar4Addr off) len) ce).answer (.data (s.memRead (s.bar4Addr off) len))) = true :=
  ⟨booted, 0x100, 16, [], none, [], by decide +kernel⟩

theorem test_bar4ReadsAndWritesMemory_2 : ∃ s : State, ∃ off len : Nat, ∃ ecc : Option Nat, ∃ ce : List Nat, ∃ w, s.linkUp = true ∧ 0 < len ∧ off +
    len ≤ 0x1000000000 ∧ s.memThere (s.bar4Addr off) = true ∧ s.badAmong (wordsOf (s.bar4Addr off) len) ecc = some w ∧ answers (exec (.bar4Read off len
    ecc ce) s) (((s.corrected (wordsOf (s.bar4Addr off) len) ce).bar4Ecc w).answer .completerAbort) = true :=
  ⟨{ booted with mem := { ue := [8] } }, 0x100, 16, none, [], 8, by decide +kernel⟩

theorem test_bar4ReadsAndWritesMemory_3 : ∃ s : State, ∃ off len : Nat, s.linkUp = true ∧ 0 < len ∧ off + len ≤ 0x1000000000 ∧ s.memThere (s.bar4Addr
    off) = false :=
  ⟨{ booted with dev := { booted.dev with bar4Window := 7#32 }, pwr := {} }, 0x100, 16, by decide +kernel⟩

theorem test_bar4ReadsAndWritesMemory_4 : ∃ s : State, ∃ off : Nat, ∃ data : List Byte, ∃ ecc : Option Nat, ∃ ce : List Nat, ∃ w, s.linkUp = true ∧
    off + data.length ≤ 0x1000000000 ∧ (s.bar4Addr off) / 32 = w ∧ (s.bar4Addr off + data.length - 1) / 32 = w ∧ 0 < data.length ∧ s.memThere (s.bar4Addr
    off) = true ∧ data.length = 32 ∧ answers (exec (.bar4Write off data ecc ce) s) ((s.memWrite (s.bar4Addr off) data).answer .accepted) = true :=
  ⟨booted, 0x100, (List.replicate 32 1#8), none, [], 8, by decide +kernel⟩

theorem test_bar4ReadsAndWritesMemory_5 : ∃ s : State, ∃ off : Nat, ∃ data : List Byte, ∃ ecc : Option Nat, ∃ ce : List Nat, ∃ w, s.linkUp = true ∧
    off + data.length ≤ 0x1000000000 ∧ (s.bar4Addr off) / 32 = w ∧ (s.bar4Addr off + data.length - 1) / 32 = w ∧ 0 < data.length ∧ s.memThere (s.bar4Addr
    off) = true ∧ data.length < 32 ∧ s.badAmong [w] ecc = none ∧ answers (exec (.bar4Write off data ecc ce) s) ((((s.corrected [w] ce).memWrite
    (s.bar4Addr off) data).healCe [w]).answer .accepted) = true :=
  ⟨booted, 0x11E, [1#8, 2#8], none, [], 8, by decide +kernel⟩

theorem test_bar4ReadsAndWritesMemory_6 : ∃ s : State, ∃ off : Nat, ∃ data : List Byte, ∃ ecc : Option Nat, ∃ ce : List Nat, s.linkUp = true ∧ off +
    data.length ≤ 0x1000000000 ∧ answers (exec (.bar4Write off data ecc ce) s) (((wordsOf (s.bar4Addr off) data.length).foldl (fun s w => s.bar4Word
    (s.bar4Addr off) data ecc ce w) s).answer .accepted) = true :=
  ⟨booted, 0x11E, [1#8, 2#8, 3#8, 4#8], some 8, [], by decide +kernel⟩

theorem test_deviceCommandsReport_1 : ∃ s : State, ∃ c : Nat, ∃ k : Cmd, ∃ (ver : List Byte), ver = (if s.dev.fwVer.getLsbD 31 then padTo 64 (toLE 3
    s.dev.fwVer.toNat ++ [0#8] ++ padTo 32 s.dev.fwDigest ++ padTo 3 s.dev.translator) else List.replicate 64 0#8) ∧ ∃ (status : List Byte), status = toLE
    4 s.devState ++ [0#8, 0#8, 0#8, 0#8] ++ ((List.range 36).map s.portRecord).flatten ∧ s.carries 0x0801 c k ∧ k.takes 64 ∧ answers (exec (.fwVersion c)
    s) (s.reported k [] ver) = true :=
  ⟨given { booted with dev := { booted.dev with fwVer := 0#32 } } 0x0801 (fields 12 [(0, 8, 16384), (8, 4, 64)]), 1, cmd 0x0801 (fields 12 [(0, 8,
    16384), (8, 4, 64)]), _, rfl, _, rfl, by decide +kernel⟩

theorem test_deviceCommandsReport_2 : ∃ s : State, ∃ c : Nat, ∃ k : Cmd, ∃ (ver : List Byte), ver = (if s.dev.fwVer.getLsbD 31 then padTo 64 (toLE 3
    s.dev.fwVer.toNat ++ [0#8] ++ padTo 32 s.dev.fwDigest ++ padTo 3 s.dev.translator) else List.replicate 64 0#8) ∧ ∃ (status : List Byte), status = toLE
    4 s.devState ++ [0#8, 0#8, 0#8, 0#8] ++ ((List.range 36).map s.portRecord).flatten ∧ s.carries 0x0102 c k ∧ k.takes 1160 ∧ answers (exec (.devStatus
    c) s) (s.reported k [] status) = true :=
  ⟨given booted 0x0102 (fields 12 [(0, 8, 16384), (8, 4, 1160)]), 1, cmd 0x0102 (fields 12 [(0, 8, 16384), (8, 4, 1160)]), _, rfl, _, rfl,
    by decide +kernel⟩

theorem test_deviceCommandsReport_3 : ∃ s : State, ∃ c : Nat, ∃ k : Cmd, ∃ (ver : List Byte), ver = (if s.dev.fwVer.getLsbD 31 then padTo 64 (toLE 3
    s.dev.fwVer.toNat ++ [0#8] ++ padTo 32 s.dev.fwDigest ++ padTo 3 s.dev.translator) else List.replicate 64 0#8) ∧ ∃ (status : List Byte), status = toLE
    4 s.devState ++ [0#8, 0#8, 0#8, 0#8] ++ ((List.range 36).map s.portRecord).flatten ∧ s.carries 0x0801 c k ∧ fieldAt k.params 8 4 < 64 ∧ (k.viaPort =
    true ∨ fieldAt k.params 0 8 % 32 = 0) ∧ answers (exec (.fwVersion c) s) ((s.take c).finish c stBadParam [0, 0, 0, 0, 0, 64]) = true :=
  ⟨given booted 0x0801 (fields 12 [(0, 8, 16384), (8, 4, 63)]), 1, cmd 0x0801 (fields 12 [(0, 8, 16384), (8, 4, 63)]), _, rfl, _, rfl,
    by decide +kernel⟩

theorem test_deviceCommandsReport_4 : ∃ s : State, ∃ c : Nat, ∃ k : Cmd, ∃ (ver : List Byte), ver = (if s.dev.fwVer.getLsbD 31 then padTo 64 (toLE 3
    s.dev.fwVer.toNat ++ [0#8] ++ padTo 32 s.dev.fwDigest ++ padTo 3 s.dev.translator) else List.replicate 64 0#8) ∧ ∃ (status : List Byte), status = toLE
    4 s.devState ++ [0#8, 0#8, 0#8, 0#8] ++ ((List.range 36).map s.portRecord).flatten ∧ s.carries 0x0102 c k ∧ fieldAt k.params 8 4 < 1160 ∧ (k.viaPort =
    true ∨ fieldAt k.params 0 8 % 32 = 0) ∧ answers (exec (.devStatus c) s) ((s.take c).finish c stBadParam [0, 0, 0, 0, 0, 1160]) = true :=
  ⟨given booted 0x0102 (fields 12 [(0, 8, 16384), (8, 4, 1159)]), 1, cmd 0x0102 (fields 12 [(0, 8, 16384), (8, 4, 1159)]), _, rfl, _, rfl,
    by decide +kernel⟩

theorem test_deviceCommandsReport_5 : ∃ s : State, ∃ c : Nat, ∃ k : Cmd, ∃ (ver : List Byte), ver = (if s.dev.fwVer.getLsbD 31 then padTo 64 (toLE 3
    s.dev.fwVer.toNat ++ [0#8] ++ padTo 32 s.dev.fwDigest ++ padTo 3 s.dev.translator) else List.replicate 64 0#8) ∧ ∃ (status : List Byte), status = toLE
    4 s.devState ++ [0#8, 0#8, 0#8, 0#8] ++ ((List.range 36).map s.portRecord).flatten ∧ k.viaPort = false ∧ fieldAt k.params 0 8 % 32 ≠ 0 ∧ s.carries
    0x0801 c k ∧ answers (exec (.fwVersion c) s) ((s.take c).finish c stBadParam) = true :=
  ⟨given booted 0x0801 (fields 12 [(0, 8, 16385), (8, 4, 64)]), 1, cmd 0x0801 (fields 12 [(0, 8, 16385), (8, 4, 64)]), _, rfl, _, rfl,
    by decide +kernel⟩

theorem test_deviceCommandsReport_6 : ∃ s : State, ∃ c : Nat, ∃ k : Cmd, ∃ (ver : List Byte), ver = (if s.dev.fwVer.getLsbD 31 then padTo 64 (toLE 3
    s.dev.fwVer.toNat ++ [0#8] ++ padTo 32 s.dev.fwDigest ++ padTo 3 s.dev.translator) else List.replicate 64 0#8) ∧ ∃ (status : List Byte), status = toLE
    4 s.devState ++ [0#8, 0#8, 0#8, 0#8] ++ ((List.range 36).map s.portRecord).flatten ∧ k.viaPort = false ∧ fieldAt k.params 0 8 % 32 ≠ 0 ∧ s.carries
    0x0102 c k ∧ answers (exec (.devStatus c) s) ((s.take c).finish c stBadParam) = true :=
  ⟨given booted 0x0102 (fields 12 [(0, 8, 16392), (8, 4, 1160)]), 1, cmd 0x0102 (fields 12 [(0, 8, 16392), (8, 4, 1160)]), _, rfl, _, rfl,
    by decide +kernel⟩

theorem test_devSetModeObeysItsLocks_1 : ∃ s : State, ∃ c : Nat, ∃ k : Cmd, ∃ (v : BitVec 32), v = BitVec.ofNat 32 (fieldAt k.params 0 4) ∧ s.carries
    0x0103 c k ∧ ((∃ x < 256, (s.ctx x).live = true) ∨ s.pfx.on = true ∨ s.dev.mode.getLsbD 31 = true ∨ v &&& 0x7FFFFFFC#32 ≠ 0#32) ∧ answers (exec
    (.devSetMode c) s) ((s.take c).finish c stBadParam) = true :=
  ⟨given booted 0x0103 (fields 4 [(0, 4, 4)]), 1, cmd 0x0103 (fields 4 [(0, 4, 4)]), _, rfl, by decide +kernel⟩

theorem test_devSetModeObeysItsLocks_2 : ∃ s : State, ∃ c : Nat, ∃ k : Cmd, ∃ (v : BitVec 32), v = BitVec.ofNat 32 (fieldAt k.params 0 4) ∧ s.carries
    0x0103 c k ∧ (∀ x < 256, (s.ctx x).live = false) ∧ s.pfx.on = false ∧ s.dev.mode.getLsbD 31 = false ∧ v &&& 0x7FFFFFFC#32 = 0#32 ∧ answers (exec
    (.devSetMode c) s) ((((s.take c).modDev fun d => { d with mode := v }).configured).finish c stOk) = true :=
  ⟨given booted 0x0103 (fields 4 [(0, 4, 2147483651)]), 1, cmd 0x0103 (fields 4 [(0, 4, 2147483651)]), _, rfl, by decide +kernel⟩

theorem test_finishedCommandsWaitForTheirRecord_1_almanacRead : ∃ s : State, ∃ c : Nat, ∃ k : Cmd, s.cmd? c = some k ∧ s.live = true ∧ k.opcode =
    (0x0703) ∧ s.ready k = true ∧ s.served (0x0703) = false ∧ answers (exec (Instr.almanacRead c) s) (s.finish c stRetry) = true :=
  ⟨given { booted with dev := { booted.dev with fwpUp := 0x0F#5 } } 0x0703 (fields 20 []), 1, cmd 0x0703 (fields 20 []), by decide +kernel⟩

theorem test_finishedCommandsWaitForTheirRecord_2 : ∃ s : State, ∃ c r : Nat, ∃ k : Cmd, s.cmd? c = some k ∧ k.src = .ring r :=
  ⟨given booted 0x0102 [], 1, 0, cmd 0x0102 [], by decide +kernel⟩

theorem test_packetsMoveThroughTheSwitch_1 : ∃ s : State, ∃ p rest r s1, s.live = true ∧ s.fab.drainPause = false ∧ s.host.admitQ = p :: rest ∧
    s.enter p.bytes 36 none = some (some r, s1) ∧ answers (exec .hostPacketAdmit s) ((s1.modHost fun h => { h with admitQ := rest }).enqueue r.2
    { r.1 with origin := p.origin }) = true :=
  ⟨{ booted with host := { admitQ := [somePacket] } }, somePacket, [], (entered { booted with host := { admitQ := [somePacket] } } somePacket.bytes 36
    none).1, (entered { booted with host := { admitQ := [somePacket] } } somePacket.bytes 36 none).2, by decide +kernel⟩

theorem test_packetsMoveThroughTheSwitch_2 : ∃ s : State, ∃ p rest s1, s.live = true ∧ s.fab.drainPause = false ∧ s.host.admitQ = p :: rest ∧ s.enter
    p.bytes 36 none = some (none, s1) ∧ answers (exec .hostPacketAdmit s) (s1.modHost fun h => { h with admitQ := rest }) = true :=
  ⟨fullSlot, cellPacket, [], fullSlot.windowDrop 255, by decide +kernel⟩

theorem test_packetsMoveThroughTheSwitch_3 : ∃ s : State, ∃ p rest, s.live = true ∧ s.fab.drainPause = false ∧ s.host.admitQ = p :: rest ∧ s.enter
    p.bytes 36 none = none ∧ answers (exec .hostPacketAdmit s) (s) = true :=
  ⟨{ (withFab { slices := (List.range 4).map fun i => (i, { holding := true }) }) with host := { admitQ := [somePacket] } }, somePacket, [],
    by decide +kernel⟩

theorem test_packetsMoveThroughTheSwitch_4 : ∃ s : State, ∃ i p rest, s.live = true ∧ s.fab.drainPause = false ∧ i < 4 ∧ (s.slice i).dq = p :: rest ∧
    s.inTurn i = true ∧ p.rxCyc ≤ s.clk.fab ∧ answers (exec (.forwardingDecision i) s) ((((s.takeTurn i).modSlice i fun S =>
    { S with dq := rest }).easeSlice i).decidePkt i p) = true :=
  ⟨withFab { slices := [(2, { dq := [somePacket] })] }, 2, somePacket, [], by decide +kernel⟩

theorem test_packetsMoveThroughTheSwitch_5 : ∃ s : State, ∃ i p rest, s.live = true ∧ s.fab.drainPause = false ∧ i < 4 ∧ (s.slice i).dq = p :: rest ∧
    s.clk.fab < p.rxCyc ∧ answers (exec (.forwardingDecision i) s) (s) = true :=
  ⟨withFab { slices := [(2, { dq := [{ somePacket with rxCyc := 9 }] })] }, 2, { somePacket with rxCyc := 9 }, [], by decide +kernel⟩

theorem test_packetsMoveThroughTheSwitch_6 : ∃ s : State, ∃ p, s.live = true ∧ s.fab.drainPause = false ∧ p < 38 ∧ SMap.get noneAt s.fab.txPkt p =
    none ∧ s.portUp p = true ∧ s.inTurn 4 = true ∧ answers (exec (.schedulerSelect p) s) ((s.takeTurn 4).selectPort p) = true :=
  ⟨{ (withFab { txPkt := [] }) with ports := [(35, { link := { state := .active } })] }, 35, by decide +kernel⟩

theorem test_packetsMoveThroughTheSwitch_7 : ∃ s : State, ∃ p k, ∃ idle, idle = (s.modFab fun b => { b with txPkt := SMap.set noneAt p none b.txPkt })
    ∧ s.live = true ∧ s.fab.drainPause = false ∧ p < 38 ∧ SMap.get noneAt s.fab.txPkt p = some k ∧ s.mayHandOver p k = true ∧ answers (exec
    (.packetTransmitComplete p none) s) ((idle.handOver p k).samplePeak p k.vc) = true :=
  ⟨withFab { txPkt := [(36, some somePacket)] }, 36, somePacket, _, rfl, by decide +kernel⟩

theorem test_packetsMoveThroughTheSwitch_8 : ∃ s : State, ∃ p k w, ∃ idle, idle = (s.modFab fun b =>
    { b with txPkt := SMap.set noneAt p none b.txPkt }) ∧ s.live = true ∧ s.fab.drainPause = false ∧ p < 38 ∧ SMap.get noneAt s.fab.txPkt p = some k ∧
    s.mayHandOver p k = true ∧ answers (exec (.packetTransmitComplete p (some w)) s) ((if 2 ≤ w then (idle.dropPkt k p dropEcc).deliveryLost k p dropEcc
    else idle.dropPkt k p dropEcc).samplePeak p k.vc) = true :=
  ⟨withFab { txPkt := [(36, some somePacket)] }, 36, somePacket, 2, _, rfl, by decide +kernel⟩

theorem test_decisionChecksAreMadeInOrder_1 : ∃ s : State, ∃ i : Nat, ∃ p : Pkt, ∃ (aimed : Bool), aimed = (p.hopPort == 37 && decide (p.kind < 2)) ∧
    p.headerOk = false :=
  ⟨booted, 0, { bytes := [], inPort := 3 }, _, rfl, by decide +kernel⟩

theorem test_decisionChecksAreMadeInOrder_2 : ∃ s : State, ∃ i : Nat, ∃ p : Pkt, ∃ (aimed : Bool), aimed = (p.hopPort == 37 && decide (p.kind < 2)) ∧
    p.headerOk = true ∧ p.hopCount ≤ p.hopPtr :=
  ⟨booted, 0, { bytes := mkHeader 0 1 0 0 0 0 0 0 0 16 [0x11#8, 0x24#8] ++ List.replicate 16 7#8, inPort := 3, cells := [1, 0, 0, 0] }, _, rfl,
    by decide +kernel⟩

theorem test_decisionChecksAreMadeInOrder_3 : ∃ s : State, ∃ i : Nat, ∃ p : Pkt, ∃ (aimed : Bool), aimed = (p.hopPort == 37 && decide (p.kind < 2)) ∧
    p.headerOk = true ∧ p.hopPtr < p.hopCount ∧ p.hopOk = false :=
  ⟨booted, 0, { bytes := mkHeader 0 1 0 0 0 0 0 0 0 16 [0x10#8, 0x26#8] ++ List.replicate 16 7#8, inPort := 3, cells := [1, 0, 0, 0] }, _, rfl,
    by decide +kernel⟩

theorem test_decisionChecksAreMadeInOrder_4 : ∃ s : State, ∃ i : Nat, ∃ p : Pkt, ∃ (aimed : Bool), aimed = (p.hopPort == 37 && decide (p.kind < 2)) ∧
    p.headerOk = true ∧ p.hopPtr < p.hopCount ∧ p.hopOk = true ∧ p.hopPort < 36 ∧ p.phase ≠ 0 ∧ p.rankLast ≤ (s.port p.hopPort).rank :=
  ⟨{ booted with ports := [(5, { rank := 3 })] }, 0, { bytes := mkHeader 0 57 0 0 0 0 0 0 0 16 [0x10#8, 5#8] ++ List.replicate 16 7#8 }, _, rfl,
    by decide +kernel⟩

theorem test_decisionChecksAreMadeInOrder_5 : ∃ s : State, ∃ i : Nat, ∃ p : Pkt, ∃ (aimed : Bool), aimed = (p.hopPort == 37 && decide (p.kind < 2)) ∧
    p.headerOk = true ∧ p.hopPtr < p.hopCount ∧ p.hopOk = true ∧ aimed = true ∧ s.steered p = none :=
  ⟨booted, 0, { bytes := mkHeader 0 1 0 0 9 0 0 0 0 16 [0x10#8, 0x25#8] ++ List.replicate 16 7#8, inPort := 3 }, _, rfl, by decide +kernel⟩

theorem test_decisionChecksAreMadeInOrder_6 : ∃ s : State, ∃ i : Nat, ∃ p : Pkt, ∃ (aimed : Bool), aimed = (p.hopPort == 37 && decide (p.kind < 2)) ∧
    p.headerOk = true ∧ p.hopPtr < p.hopCount ∧ p.hopOk = true ∧ aimed = true ∧ s.steered p ≠ none ∧ p.epoch ≠ (s.epoch p.ctx).toNat :=
  ⟨{ booted with fab := { steer := [(steerCtx 9 0, some 191)] } }, 0,
    { bytes := mkHeader 0 1 0 3 9 0 0 0 0 16 [0x10#8, 0x25#8] ++ List.replicate 16 7#8, inPort := 3 }, _, rfl, by decide +kernel⟩

theorem test_decisionChecksAreMadeInOrder_7 : ∃ s : State, ∃ i : Nat, ∃ p : Pkt, ∃ sc phase last, ∃ (aimed : Bool), aimed = (p.hopPort == 37 && decide
    (p.kind < 2)) ∧ ∃ p', p' = { (p.pass sc phase last) with outPort := p.hopPort, outSc := sc, steer := 0 } ∧ p.headerOk = true ∧ p.hopPtr < p.hopCount ∧
    p.hopOk = true ∧ p.hopPort < 36 ∧ rankRule (s.port p.hopPort).rank p.phase p.rankLast = some (sc, phase, last) ∧ (s.port p.hopPort).link.state ≠
    .active :=
  ⟨booted, 0, { bytes := mkHeader 0 1 0 0 0 0 0 0 0 16 [0x10#8, 0x05#8] ++ List.replicate 16 7#8, inPort := 3, cells := [1, 0, 0, 0] }, 1, 1, 0, _,
    rfl, _, rfl, by decide +kernel⟩

theorem test_decisionChecksAreMadeInOrder_8 : ∃ s : State, ∃ i : Nat, ∃ p : Pkt, ∃ sc phase last q, ∃ (aimed : Bool), aimed = (p.hopPort == 37 &&
    decide (p.kind < 2)) ∧ ∃ p', p' = { (p.pass sc phase last) with outPort := p.hopPort, outSc := sc, steer := 0 } ∧ p.headerOk = true ∧ p.hopPtr <
    p.hopCount ∧ p.hopOk = true ∧ p.hopPort < 36 ∧ rankRule (s.port p.hopPort).rank p.phase p.rankLast = some (sc, phase, last) ∧ (s.port
    p.hopPort).link.state = .active ∧ s.classify p' p.hopPort = some q :=
  ⟨{ booted with ports := [(5, { link := { state := .active } })] }, 0,
    { bytes := mkHeader 0 1 0 0 0 0 0 0 0 16 [0x10#8, 0x05#8] ++ List.replicate 16 7#8, inPort := 3, cells := [1, 0, 0, 0] }, 1, 1, 0, 41, _, rfl, _, rfl,
    by decide +kernel⟩

theorem test_decisionChecksAreMadeInOrder_9 : ∃ s : State, ∃ i : Nat, ∃ p : Pkt, ∃ t q, ∃ (aimed : Bool), aimed = (p.hopPort == 37 && decide (p.kind <
    2)) ∧ ∃ p', p' = { (p.pass 0 p.phase p.rankLast) with outPort := 37, outSc := 0, steer := t } ∧ p.headerOk = true ∧ p.hopPtr < p.hopCount ∧ p.hopOk =
    true ∧ aimed = true ∧ s.steered p = some t ∧ p.epoch = (s.epoch p.ctx).toNat ∧ s.classify p' 37 = some q :=
  ⟨{ booted with fab := { steer := [(steerCtx 9 0, some 191)] } }, 0,
    { bytes := mkHeader 0 1 0 0 9 0 0 0 0 16 [0x10#8, 0x25#8] ++ List.replicate 16 7#8, inPort := 3 }, 191, 297, _, rfl, _, rfl, by decide +kernel⟩

theorem test_firmwarePacketsAreServed_1 : ∃ s : State, ∃ p rest, s.live = true ∧ s.fwpUp fwpCmd = true ∧ takeKind 2 s.fab.mailbox = some (p, rest) ∧
    s.dev.mgmtCfg.getLsbD p.inPort = false ∧ answers (exec .mgmtRequest s) ((s.modFab fun b => { b with mailbox := rest }).count (ctrDrop p.inPort
    dropHdrErr) 1) = true :=
  ⟨{ (withFab { mailbox := [firmwarePacket 3 [], firmwarePacket 2 []] }) with dev := { booted.dev with mgmtCfg := 0#64 } }, firmwarePacket 2 [],
    [firmwarePacket 3 []], by decide +kernel⟩

theorem test_firmwarePacketsAreServed_2 : ∃ s : State, ∃ p rest, s.live = true ∧ s.fwpUp fwpCmd = true ∧ takeKind 2 s.fab.mailbox = some (p, rest) ∧
    s.dev.mgmtCfg.getLsbD p.inPort = true ∧ p.payload.headD 0#8 = 1#8 ∧ answers (exec .mgmtRequest s) ((s.modFab fun b =>
    { b with mailbox := rest }).accept (.mgmt (p.bytes.take 48) (fieldAt p.payload 4 4)) ((p.payload.drop 16).take 64) (some (slice p.payload 80 (fieldAt
    ((p.payload.drop 16).take 64) 8 4))) (mgmtOk p.payload)) = true :=
  ⟨withFab { mailbox := [firmwarePacket 2 (1#8 :: List.replicate 79 0#8)] }, firmwarePacket 2 (1#8 :: List.replicate 79 0#8), [], by decide +kernel⟩

theorem test_firmwarePacketsAreServed_3 : ∃ s : State, ∃ p rest, s.live = true ∧ s.fwpUp fwpCmd = true ∧ takeKind 2 s.fab.mailbox = some (p, rest) ∧
    s.dev.mgmtCfg.getLsbD p.inPort = true ∧ p.payload.headD 0#8 ≠ 1#8 ∧ answers (exec .mgmtRequest s) (s.modFab fun b => { b with mailbox := rest }) =
    true :=
  ⟨withFab { mailbox := [firmwarePacket 2 (List.replicate 80 0#8)] }, firmwarePacket 2 (List.replicate 80 0#8), [], by decide +kernel⟩

theorem test_firmwarePacketsAreServed_4 : ∃ s : State, ∃ p rest, s.live = true ∧ s.fwpUp fwpCmd = true ∧ takeKind 3 s.fab.mailbox = some (p, rest) ∧
    answers (exec .noticeReceive s) ((s.modFab fun b => { b with mailbox := rest }).devEvent 4 stOk [fieldAt p.payload 0 1, fieldAt p.payload 1 1, fieldAt
    p.payload 2 1, fieldAt p.payload 24 2, fieldAt p.payload 28 4, p.ctx]) = true :=
  ⟨{ (withFab { mailbox := [firmwarePacket 3 [1#8, 2#8]] }) with dev := { booted.dev with eventCfg := 0x100#32 } }, firmwarePacket 3 [1#8, 2#8], [],
    by decide +kernel⟩

theorem test_firmwarePacketsAreServed_5 : ∃ s : State, ∃ n rest, s.live = true ∧ s.fab.notices = n :: rest ∧ (n.route.headD 0#8).toNat / 16 ≠ 0 ∧
    answers (exec .noticeQueueSend s) ((s.modFab fun b => { b with notices := rest }).sendOn36
    { bytes := mkHeader 3 n.vc 0 0 0 0 0 0 n.tag n.payload.length n.route ++ n.payload }) = true :=
  ⟨withFab { notices := [{ payload := [1#8], route := [0x10#8, 4#8] }] }, { payload := [1#8], route := [0x10#8, 4#8] }, [], by decide +kernel⟩

theorem test_firmwarePacketsAreServed_6 : ∃ s : State, ∃ n rest, s.live = true ∧ s.fab.notices = n :: rest ∧ (n.route.headD 0#8).toNat / 16 = 0 ∧
    answers (exec .noticeQueueSend s) ((s.modFab fun b => { b with notices := rest }).almQueue
    { type := 0x0E, detail := detail [n.payload.headD 0#8, n.payload.getD 1 0#8, 0#8, 0#8] }) = true :=
  ⟨withFab { notices := [{ payload := [1#8] }] }, { payload := [1#8] }, [], by decide +kernel⟩

theorem test_gleanerPassesRun_1 : ∃ s : State, s.live = true ∧ s.dev.gleanerCfg.getLsbD 14 = true ∧ s.fab.gleaning = false ∧ s.fab.gleanNext ≤ s.now ∧
    answers (exec .gleanerPassStart s) (s.modFab fun b =>
    { b with gleaning := true, gleanNext := s.now + s.gleanPeriod, stranded := b.stranded.map fun x => (x.1, x.2 + 1) }) = true :=
  ⟨atNs (withFab { stranded := [(somePacket, 0)] }) 10000003, by decide +kernel⟩

theorem test_gleanerPassesRun_2 : ∃ s : State, s.live = true ∧ s.now < s.fab.gleanNext ∧ answers (exec .gleanerPassStart s) (s) = true :=
  ⟨withFab { gleanNext := 1 }, by decide +kernel⟩

theorem test_gleanerPassesRun_3 : ∃ s : State, ∃ s1, s1 = ((s.modFab fun b =>
    { b with gleaning := false, stranded := b.stranded.filter fun x => decide (x.2 < 2) }).count ctrGleanPasses 1) ∧ s.live = true ∧ s.fab.gleaning = true
    ∧ answers (exec .gleanerPassEnd s) ((s.fab.stranded.filter fun x => decide (2 ≤ x.2)).foldl (fun s x => s.glean x.1) (if s.fab.gleanNext ≤ s.now then
    s1.count ctrGleanLag 1 else s1)) = true :=
  ⟨withFab { gleaning := true, stranded := [(somePacket, 2)] }, _, rfl, by decide +kernel⟩

theorem test_telemetryIsReadAndWindowed_1 : ∃ s : State, ∃ c : Nat, ∃ k : Cmd, ∃ l : List Nat, s.carries 0x0701 c k ∧ fieldAt k.params 13 1 = 0 ∧
    (s.take c).rollWindow.telBlock (fieldAt k.params 12 1) (fieldAt k.params 14 2) = some l ∧ k.takes (8 + 8 * l.length) ∧ answers (exec (.telRead c) s)
    (s.rollWindow.reported k [] (toLE 8 s.now ++ (l.map (toLE 8)).flatten)) = true :=
  ⟨given booted 0x0701 (fields 16 [(0, 8, 16384), (8, 4, 400), (12, 1, 5)]), 1, cmd 0x0701 (fields 16 [(0, 8, 16384), (8, 4, 400), (12, 1, 5)]),
    List.replicate 8 0, by decide +kernel⟩

theorem test_telemetryIsReadAndWindowed_2 : ∃ s : State, ∃ c : Nat, ∃ k : Cmd, s.carries 0x0702 c k ∧ (1 ≤ fieldAt k.params 0 4 ∧ fieldAt k.params 0 4
    ≤ 1000000) ∧ answers (exec (.telWindow c) s) (((s.take c).rollWindow.modDev fun d => { d with telNext := fieldAt k.params 0 4 }).finish c stOk) = true
    :=
  ⟨given booted 0x0702 (fields 4 [(0, 4, 1000000)]), 1, cmd 0x0702 (fields 4 [(0, 4, 1000000)]), by decide +kernel⟩

theorem test_telemetryIsReadAndWindowed_3 : ∃ s : State, ∃ c : Nat, ∃ k : Cmd, s.carries 0x0702 c k ∧ (fieldAt k.params 0 4 = 0 ∨ 1000000 < fieldAt
    k.params 0 4) ∧ answers (exec (.telWindow c) s) ((s.take c).finish c stBadParam) = true :=
  ⟨given booted 0x0702 (fields 4 [(0, 4, 1000001)]), 1, cmd 0x0702 (fields 4 [(0, 4, 1000001)]), by decide +kernel⟩

theorem test_telemetryIsReadAndWindowed_4 : ∃ s : State, s.live = true ∧ s.now < s.dev.telEnd ∧ answers (exec .telemetryWindowBoundary s) (s) = true :=
  ⟨booted, by decide +kernel⟩

theorem test_telemetryIsReadAndWindowed_5 : ∃ s : State, s.live = true ∧ s.dev.telEnd ≤ s.now ∧ answers (exec .telemetryWindowBoundary s)
    ({ s with dev := { s.dev with telLen := s.dev.telNext, telEnd := (s.now / (s.dev.telNext * 1000) + 1) * (s.dev.telNext * 1000) }, fab := { s.fab with qPeak := [], winDrops := [], noticed := [] }, pwr := { s.pwr with winPth := if s.pwr.winN = 0 then 0 else s.pwr.winSum / (s.pwr.winN : Rat), winSum := 0, winN := 0 } })
    = true :=
  ⟨atNs { booted with pwr := { booted.pwr with winSum := 900, winN := 3 } } 1000000, by decide +kernel⟩

theorem test_telemetryIsReadAndWindowed_6 : ∃ s : State, ∃ p v : Nat, s.live = true ∧ s.dev.telEnd ≤ s.now :=
  ⟨atNs { booted with fab := { qPeak := [(287, 40)] } } 1000000, 35, 7, by decide +kernel⟩

theorem test_routeTableIsWrittenAndRead_1 : ∃ s : State, ∃ c : Nat, ∃ k : Cmd, s.carries 0x0401 c k ∧ fieldAt k.params 1 1 ≠ 0 ∧ k.params.length = 4 +
    16 * fieldAt k.params 1 1 ∧ fieldAt k.params 2 2 = 0 ∧ fieldAt k.params 0 1 + fieldAt k.params 1 1 ≤ 256 ∧ (∃ i < fieldAt k.params 1 1, ∃ b ∈ slice
    k.params (5 + 16 * i) 15, b.getLsbD 7 = true) ∧ answers (exec (.routeWrite c) s) ((s.take c).finish c stBadParam) = true :=
  ⟨given booted 0x0401 (fields 20 [(0, 1, 255), (1, 1, 1), (4, 2, 800), (19, 1, 128)]), 1, cmd 0x0401 (fields 20 [(0, 1, 255), (1, 1, 1), (4, 2, 800),
    (19, 1, 128)]), by decide +kernel⟩

theorem test_routeTableIsWrittenAndRead_2 : ∃ s : State, ∃ c : Nat, ∃ k : Cmd, s.carries 0x0401 c k ∧ fieldAt k.params 1 1 ≠ 0 ∧ k.params.length = 4 +
    16 * fieldAt k.params 1 1 ∧ fieldAt k.params 2 2 = 0 ∧ fieldAt k.params 0 1 + fieldAt k.params 1 1 ≤ 256 ∧ routeBad (fieldAt k.params 1 1) k.params =
    false :=
  ⟨given booted 0x0401 (fields 20 [(0, 1, 255), (1, 1, 1), (4, 2, 800)]), 1, cmd 0x0401 (fields 20 [(0, 1, 255), (1, 1, 1), (4, 2, 800)]),
    by decide +kernel⟩

theorem test_routeTableIsWrittenAndRead_3 : ∃ s : State, ∃ c : Nat, ∃ k : Cmd, s.carries 0x0402 c k ∧ fieldAt k.params 13 1 ≠ 0 ∧ fieldAt k.params 14
    2 = 0 ∧ fieldAt k.params 12 1 + fieldAt k.params 13 1 ≤ 256 ∧ k.takes (16 * fieldAt k.params 13 1) ∧ answers (exec (.routeRead c) s) (s.reported k []
    ((List.range (fieldAt k.params 13 1)).map fun i => padTo 16 (SMap.get nilAt s.fab.routes (fieldAt k.params 12 1 + i))).flatten) = true :=
  ⟨given booted 0x0402 (fields 16 [(0, 8, 16384), (8, 4, 32), (12, 1, 254), (13, 1, 2)]), 1, cmd 0x0402 (fields 16 [(0, 8, 16384), (8, 4, 32), (12, 1,
    254), (13, 1, 2)]), by decide +kernel⟩

theorem test_portCommandsTakeEffect_1 : ∃ s : State, ∃ c : Nat, ∃ k : Cmd, ∃ (p : Nat), p = fieldAt k.params 0 1 ∧ ∃ (s1 : State), s1 = (s.take
    c).writePort k.params ∧ s.carries 0x0403 c k ∧ (s.take c).portCfgBad k.params = true ∧ answers (exec (.portConfig c) s) ((s.take c).finish c
    stBadParam) = true :=
  ⟨given booted 0x0403 (fields 12 [(0, 1, 38)]), 1, cmd 0x0403 (fields 12 [(0, 1, 38)]), _, rfl, _, rfl, by decide +kernel⟩

theorem test_portCommandsTakeEffect_2 : ∃ s : State, ∃ c : Nat, ∃ k : Cmd, ∃ (p : Nat), p = fieldAt k.params 0 1 ∧ ∃ (s1 : State), s1 = (s.take
    c).writePort k.params ∧ s.carries 0x0403 c k ∧ (s.take c).portCfgBad k.params = false ∧ s1.reservationsOk p = false ∧ answers (exec (.portConfig c) s)
    ((s.take c).finish c stBadParam) = true :=
  ⟨given (withFab { policer := [(287, { cfg := 1#128 })] }) 0x0403 (fields 12 [(0, 1, 35), (1, 1, 7), (2, 1, 9), (4, 1, 224), (5, 1, 1), (6, 1, 0),
    (8, 1, 255)]), 1, cmd 0x0403 (fields 12 [(0, 1, 35), (1, 1, 7), (2, 1, 9), (4, 1, 224), (5, 1, 1), (6, 1, 0), (8, 1, 255)]), _, rfl, _, rfl,
    by decide +kernel⟩

theorem test_portCommandsTakeEffect_3 : ∃ s : State, ∃ c : Nat, ∃ k : Cmd, ∃ (p : Nat), p = fieldAt k.params 0 1 ∧ ∃ (s1 : State), s1 = (s.take
    c).writePort k.params ∧ s.carries 0x0403 c k ∧ (s.take c).portCfgBad k.params = false ∧ s1.reservationsOk p = true ∧ s1.admissionOk p = false ∧
    answers (exec (.portConfig c) s) ((s.take c).finish c stNoFit) = true :=
  ⟨given (withFab { policer := [(287, { cfg := 0x0005_0000_0000_0001_0000_0000_0000_0001#128 })] }) 0x0403 (fields 12 [(0, 1, 35), (8, 1, 255)]), 1,
    cmd 0x0403 (fields 12 [(0, 1, 35), (8, 1, 255)]), _, rfl, _, rfl, by decide +kernel⟩

theorem test_portCommandsTakeEffect_4 : ∃ s : State, ∃ c : Nat, ∃ k : Cmd, ∃ (p : Nat), p = fieldAt k.params 0 1 ∧ ∃ (s1 : State), s1 = (s.take
    c).writePort k.params ∧ s.carries 0x0403 c k ∧ (s.take c).portCfgBad k.params = false ∧ s1.reservationsOk p = true ∧ s1.admissionOk p = true ∧ answers
    (exec (.portConfig c) s) (s1.configured.finish c stOk) = true :=
  ⟨given booted 0x0403 (fields 12 [(0, 1, 35), (1, 1, 7), (2, 1, 9), (4, 1, 224), (5, 1, 1), (6, 1, 0), (8, 1, 255)]), 1, cmd 0x0403 (fields 12 [(0,
    1, 35), (1, 1, 7), (2, 1, 9), (4, 1, 224), (5, 1, 1), (6, 1, 0), (8, 1, 255)]), _, rfl, _, rfl, by decide +kernel⟩

theorem test_portCommandsTakeEffect_5 : ∃ s : State, ∃ c : Nat, ∃ k : Cmd, ∃ (p : Nat), p = fieldAt k.params 0 1 ∧ ∃ (mode : Nat), mode = fieldAt
    k.params 1 1 ∧ ∃ (pattern : Nat), pattern = fieldAt k.params 2 1 ∧ s.carries 0x0405 c k ∧ (36 ≤ p ∨ loopPattern mode pattern = false ∨ fieldAt
    k.params 3 1 ≠ 0 ∨ (s.port p).link.state = .isolated ∨ (s.port p).link.heldPower = true) ∧ answers (exec (.portLoop c) s) ((s.take c).finish c
    stBadParam) = true :=
  ⟨given booted 0x0405 (fields 4 [(0, 1, 36)]), 1, cmd 0x0405 (fields 4 [(0, 1, 36)]), _, rfl, _, rfl, _, rfl, by decide +kernel⟩

theorem test_portCommandsTakeEffect_6 : ∃ s : State, ∃ c : Nat, ∃ k : Cmd, ∃ (p : Nat), p = fieldAt k.params 0 1 ∧ ∃ (mode : Nat), mode = fieldAt
    k.params 1 1 ∧ ∃ (pattern : Nat), pattern = fieldAt k.params 2 1 ∧ s.carries 0x0405 c k ∧ p < 36 ∧ loopPattern mode pattern = true ∧ fieldAt k.params
    3 1 = 0 ∧ (s.port p).link.state ≠ .isolated ∧ (s.port p).link.heldPower = false ∧ mode ≠ 0 ∧ answers (exec (.portLoop c) s) (((s.take c).enterLoop p
    mode pattern).finish c stOk) = true :=
  ⟨given (withLink 35 { heldPower := false }) 0x0405 (fields 4 [(0, 1, 35), (1, 1, 2), (2, 1, 1)]), 1, cmd 0x0405 (fields 4 [(0, 1, 35), (1, 1, 2),
    (2, 1, 1)]), _, rfl, _, rfl, _, rfl, by decide +kernel⟩

theorem test_portCommandsTakeEffect_7 : ∃ s : State, ∃ c : Nat, ∃ k : Cmd, ∃ (p : Nat), p = fieldAt k.params 0 1 ∧ ∃ (mode : Nat), mode = fieldAt
    k.params 1 1 ∧ ∃ (pattern : Nat), pattern = fieldAt k.params 2 1 ∧ s.carries 0x0405 c k ∧ p < 36 ∧ loopPattern mode pattern = true ∧ fieldAt k.params
    3 1 = 0 ∧ (s.port p).link.state ≠ .isolated ∧ (s.port p).link.heldPower = false ∧ mode = 0 ∧ (s.port p).link.state = .loop ∧ answers (exec (.portLoop
    c) s) (((s.take c).rejoin p).finish c stOk) = true :=
  ⟨given (withLink 35 { heldPower := false, state := .loop, loop := 2 }) 0x0405 (fields 4 [(0, 1, 35)]), 1, cmd 0x0405 (fields 4 [(0, 1, 35)]), _,
    rfl, _, rfl, _, rfl, by decide +kernel⟩

theorem test_portCommandsTakeEffect_8 : ∃ s : State, ∃ c : Nat, ∃ k : Cmd, ∃ (p : Nat), p = fieldAt k.params 0 1 ∧ ∃ (mode : Nat), mode = fieldAt
    k.params 1 1 ∧ ∃ (pattern : Nat), pattern = fieldAt k.params 2 1 ∧ s.carries 0x0405 c k ∧ p < 36 ∧ loopPattern mode pattern = true ∧ fieldAt k.params
    3 1 = 0 ∧ (s.port p).link.state ≠ .isolated ∧ (s.port p).link.heldPower = false ∧ mode = 0 ∧ (s.port p).link.state ≠ .loop ∧ answers (exec (.portLoop
    c) s) ((s.take c).finish c stOk) = true :=
  ⟨given (withLink 35 { heldPower := false }) 0x0405 (fields 4 [(0, 1, 35)]), 1, cmd 0x0405 (fields 4 [(0, 1, 35)]), _, rfl, _, rfl, _, rfl,
    by decide +kernel⟩

theorem test_queueConfigWritesWhatItNames_1 : ∃ s : State, ∃ c : Nat, ∃ k : Cmd, ∃ s1, s1 = (s.take c).setQueues (fieldAt k.params 4 2) (fieldAt
    k.params 6 2) (fun _ => { port := fieldAt k.params 1 1, vc := fieldAt k.params 2 1, inUse := true, weight := fieldAt k.params 3 1, owner := 1 }) ∧
    (s.carries 0x0501 c k ∧ fieldAt k.params 0 1 = 0 ∧ fieldAt k.params 1 1 < 38 ∧ fieldAt k.params 2 1 ≤ 7 ∧ fieldAt k.params 3 1 ≠ 0 ∧ 1 ≤ fieldAt
    k.params 6 2 ∧ fieldAt k.params 4 2 + fieldAt k.params 6 2 ≤ 65536 ∧ fieldAt k.params 4 2 ≠ 0xFFFF ∧ fieldAt k.params 6 2 ≤ 4096 ∧ fieldAt k.params 8
    1 = 0 ∧ allZero (k.params.drop 9) = true ∧ (∀ p ∈ fieldAt k.params 1 1 :: (List.range (fieldAt k.params 6 2)).map (fun i => (s.sqCfg (fieldAt k.params
    4 2 + i)).port), s1.reservationsOk p = true ∧ s1.admissionOk p = true)) ∧ ((∀ i < fieldAt k.params 6 2, (s.sqCfg (fieldAt k.params 4 2 + i)).inUse =
    false ∧ s.queueHolds (fieldAt k.params 4 2 + i) = false ∧ s.mapped (fieldAt k.params 4 2 + i) = false) ∨ (∀ i < fieldAt k.params 6 2, ∃ w, s.sqCfg
    (fieldAt k.params 4 2 + i) = { port := fieldAt k.params 1 1, vc := fieldAt k.params 2 1, inUse := true, weight := w, owner := 1 })) :=
  ⟨given booted 0x0501 (fields 20 [(0, 1, 0), (1, 1, 37), (2, 1, 7), (3, 1, 5), (4, 2, 65533), (6, 2, 2)]), 1, cmd 0x0501 (fields 20 [(0, 1, 0), (1,
    1, 37), (2, 1, 7), (3, 1, 5), (4, 2, 65533), (6, 2, 2)]), _, rfl, by decide +kernel, Or.inl (by decide +kernel)⟩

theorem test_queueConfigWritesWhatItNames_3 : ∃ s : State, ∃ c : Nat, ∃ k : Cmd, s.carries 0x0501 c k ∧ fieldAt k.params 0 1 = 0 ∧ fieldAt k.params 1
    1 < 38 ∧ 1 ≤ fieldAt k.params 6 2 ∧ fieldAt k.params 4 2 + fieldAt k.params 6 2 ≤ 65536 ∧ fieldAt k.params 4 2 ≠ 0xFFFF ∧ fieldAt k.params 6 2 ≤ 4096
    ∧ fieldAt k.params 8 1 = 1 ∧ allZero (k.params.drop 9) = true ∧ (∀ i < fieldAt k.params 6 2, (s.sqCfg (fieldAt k.params 4 2 + i)).inUse = true ∧
    (s.sqCfg (fieldAt k.params 4 2 + i)).owner = 1 ∧ s.queueHolds (fieldAt k.params 4 2 + i) = false ∧ s.mapped (fieldAt k.params 4 2 + i) = false) ∧
    answers (exec (.queueConfigSqCfg c) s) (((s.take c).setQueues (fieldAt k.params 4 2) (fieldAt k.params 6 2) fun _ => {}).configured.finish c stOk
    [fieldAt k.params 4 2]) = true :=
  ⟨given (withFab
    { sqCfg := [(65534, { port := 37, vc := 7, inUse := true, owner := 1 }), (65535, { port := 37, vc := 7, inUse := true, owner := 1 })] }) 0x0501
    (fields 20 [(0, 1, 0), (1, 1, 37), (4, 2, 65534), (6, 2, 2), (8, 1, 1)]), 1, cmd 0x0501 (fields 20 [(0, 1, 0), (1, 1, 37), (4, 2, 65534), (6, 2, 2),
    (8, 1, 1)]), by decide +kernel⟩

theorem test_queueConfigWritesWhatItNames_4 : ∃ s : State, ∃ c : Nat, ∃ k : Cmd, s.carries 0x0501 c k ∧ fieldAt k.params 0 1 = 1 ∧ fieldAt k.params 1
    1 < 38 ∧ fieldAt k.params 2 1 ≤ 7 ∧ fieldAt k.params 3 1 = 0 ∧ fieldAt k.params 6 1 ≤ 12 ∧ allZero (k.params.drop 7) = true ∧ fieldAt k.params 4 2 + 2
    ^ fieldAt k.params 6 1 ≤ 65536 ∧ (∀ i < 2 ^ fieldAt k.params 6 1, (s.sqCfg (fieldAt k.params 4 2 + i)).inUse = true ∧ (s.sqCfg (fieldAt k.params 4 2 +
    i)).port = fieldAt k.params 1 1 ∧ (s.sqCfg (fieldAt k.params 4 2 + i)).vc = fieldAt k.params 2 1 ∧ (s.sqCfg (fieldAt k.params 4 2 + i)).owner ≠ 3) ∧
    answers (exec (.queueConfigSqMap c) s) (((s.take c).modFab fun b =>
    { b with sqMap := SMap.set sqMapAt (8 * fieldAt k.params 1 1 + fieldAt k.params 2 1) (fieldAt k.params 4 2, fieldAt k.params 6 1) b.sqMap }).configured.finish
    c stOk) = true :=
  ⟨given (withFab
    { sqCfg := [(65534, { port := 37, vc := 7, inUse := true, owner := 1 }), (65535, { port := 37, vc := 7, inUse := true, owner := 1 })] }) 0x0501
    (fields 20 [(0, 1, 1), (1, 1, 37), (2, 1, 7), (4, 2, 65534), (6, 1, 1)]), 1, cmd 0x0501 (fields 20 [(0, 1, 1), (1, 1, 37), (2, 1, 7), (4, 2, 65534),
    (6, 1, 1)]), by decide +kernel⟩

theorem test_queueConfigWritesWhatItNames_5 : ∃ s : State, ∃ c : Nat, ∃ k : Cmd, ∃ s1, s1 = (s.take c).modPort (fieldAt k.params 1 1) (fun P =>
    { P with wdrr := (List.range 7).map fun v => fieldAt k.params (4 + 2 * v) 2 }) ∧ s.carries 0x0501 c k ∧ fieldAt k.params 0 1 = 2 ∧ fieldAt k.params 1
    1 < 38 ∧ fieldAt k.params 2 2 = 0 ∧ fieldAt k.params 18 2 = 0 ∧ (∀ v < 7, 1 ≤ fieldAt k.params (4 + 2 * v) 2 ∧ fieldAt k.params (4 + 2 * v) 2 ≤ 1023)
    ∧ s1.reservationsOk (fieldAt k.params 1 1) = true ∧ s1.admissionOk (fieldAt k.params 1 1) = true ∧ answers (exec (.queueConfigPortWdrr c) s)
    (s1.configured.finish c stOk) = true :=
  ⟨given booted 0x0501 (fields 20 [(0, 1, 2), (1, 1, 37), (4, 2, 1023), (6, 2, 1023), (8, 2, 1023), (10, 2, 1023), (12, 2, 1023), (14, 2, 1023), (16,
    2, 1023)]), 1, cmd 0x0501 (fields 20 [(0, 1, 2), (1, 1, 37), (4, 2, 1023), (6, 2, 1023), (8, 2, 1023), (10, 2, 1023), (12, 2, 1023), (14, 2, 1023),
    (16, 2, 1023)]), _, rfl, by decide +kernel⟩

theorem test_queueConfigWritesWhatItNames_6 : ∃ s : State, ∃ c : Nat, ∃ k : Cmd, ∃ m, m = SMap.set bufCfgAt (16 * fieldAt k.params 1 1 + fieldAt
    k.params 2 1) (fieldAt k.params 4 4, fieldAt k.params 8 4) s.fab.bufCfg ∧ s.carries 0x0501 c k ∧ fieldAt k.params 0 1 = 3 ∧ fieldAt k.params 1 1 < 38
    ∧ fieldAt k.params 2 1 ≤ 15 ∧ fieldAt k.params 3 1 = 0 ∧ allZero (k.params.drop 12) = true ∧ 17 ≤ fieldAt k.params 4 4 ∧ fieldAt k.params 4 4 ≤
    fieldAt k.params 8 4 ∧ fieldAt k.params 8 4 ≤ 786432 ∧ sumMinima m + s.slotCells ≤ s.poweredCells ∧ answers (exec (.queueConfigBufClass c) s)
    (((s.take c).modFab fun b => { b with bufCfg := m }).configured.finish c stOk) = true :=
  ⟨given booted 0x0501 (fields 20 [(0, 1, 3), (1, 1, 37), (2, 1, 15), (4, 4, 17), (8, 4, 786432)]), 1, cmd 0x0501 (fields 20 [(0, 1, 3), (1, 1, 37),
    (2, 1, 15), (4, 4, 17), (8, 4, 786432)]), _, rfl, by decide +kernel⟩

theorem test_shapersPolicersAndProfilesAreWritten_1 : ∃ s : State, ∃ c : Nat, ∃ k : Cmd, ∃ v, v = BitVec.ofNat 64 (fieldAt k.params 4 8) ∧ ∃ p, p =
    s.shaperPort (fieldAt k.params 0 1) (fieldAt k.params 2 2) ∧ ∃ s1, s1 = (s.take c).modStrShaper (fieldAt k.params 2 2) (·.write v) ∧ s.carries 0x0502
    c k ∧ fieldAt k.params 1 1 = 0 ∧ v.getLsbD 23 = false ∧ v >>> 49 = 0#64 ∧ (v.getLsbD 48 = true → v.extractLsb' 0 23 ≠ 0#23) ∧ s1.reservationsOk p =
    true ∧ s1.admissionOk p = true ∧ fieldAt k.params 0 1 = 0 ∧ answers (exec (.shaperConfig c) s) (s1.configured.finish c stOk) = true :=
  ⟨given booted 0x0502 (fields 12 [(0, 1, 0), (2, 2, 65535), (4, 8, 281475245146117)]), 1, cmd 0x0502 (fields 12 [(0, 1, 0), (2, 2, 65535), (4, 8,
    281475245146117)]), _, rfl, _, rfl, _, rfl, by decide +kernel⟩

theorem test_shapersPolicersAndProfilesAreWritten_2 : ∃ s : State, ∃ c : Nat, ∃ k : Cmd, ∃ v, v = BitVec.ofNat 64 (fieldAt k.params 4 8) ∧ ∃ p, p =
    s.shaperPort (fieldAt k.params 0 1) (fieldAt k.params 2 2) ∧ ∃ s1, s1 = (s.take c).modSvcShaper (fieldAt k.params 2 2) (·.write v) ∧ s.carries 0x0502
    c k ∧ fieldAt k.params 1 1 = 0 ∧ v.getLsbD 23 = false ∧ v >>> 49 = 0#64 ∧ (v.getLsbD 48 = true → v.extractLsb' 0 23 ≠ 0#23) ∧ s1.reservationsOk p =
    true ∧ s1.admissionOk p = true ∧ fieldAt k.params 0 1 = 1 ∧ fieldAt k.params 2 2 < 304 ∧ (fieldAt k.params 2 2 % 8 = 0 → v.getLsbD 48 = true) ∧
    answers (exec (.shaperConfig c) s) (s1.configured.finish c stOk) = true :=
  ⟨given booted 0x0502 (fields 12 [(0, 1, 1), (2, 2, 303), (4, 8, 281475245146117)]), 1, cmd 0x0502 (fields 12 [(0, 1, 1), (2, 2, 303), (4, 8,
    281475245146117)]), _, rfl, _, rfl, _, rfl, by decide +kernel⟩

theorem test_shapersPolicersAndProfilesAreWritten_3 : ∃ s : State, ∃ c : Nat, ∃ k : Cmd, ∃ v, v = BitVec.ofNat 64 (fieldAt k.params 4 8) ∧ ∃ p, p =
    s.shaperPort (fieldAt k.params 0 1) (fieldAt k.params 2 2) ∧ ∃ s1, s1 = (s.take c).modPortShaper (fieldAt k.params 2 2) (·.write v) ∧ s.carries 0x0502
    c k ∧ fieldAt k.params 1 1 = 0 ∧ v.getLsbD 23 = false ∧ v >>> 49 = 0#64 ∧ (v.getLsbD 48 = true → v.extractLsb' 0 23 ≠ 0#23) ∧ s1.reservationsOk p =
    true ∧ s1.admissionOk p = true ∧ fieldAt k.params 0 1 = 2 ∧ fieldAt k.params 2 2 < 38 ∧ answers (exec (.shaperConfig c) s) (s1.configured.finish c
    stOk) = true :=
  ⟨given booted 0x0502 (fields 12 [(0, 1, 2), (2, 2, 37), (4, 8, 281475245146117)]), 1, cmd 0x0502 (fields 12 [(0, 1, 2), (2, 2, 37), (4, 8,
    281475245146117)]), _, rfl, _, rfl, _, rfl, by decide +kernel⟩

theorem test_shapersPolicersAndProfilesAreWritten_4 : ∃ s : State, ∃ c : Nat, ∃ k : Cmd, ∃ s1, s1 = (s.take c).modPolicer (fieldAt k.params 0 2)
    (·.write (BitVec.ofNat 128 (fieldAt k.params 4 16))) ∧ s.carries 0x0503 c k ∧ fieldAt k.params 2 2 = 0 ∧ policerOk (BitVec.ofNat 128 (fieldAt k.params
    4 16)) = true ∧ s1.reservationsOk (s.sqCfg (fieldAt k.params 0 2)).port = true ∧ s1.admissionOk (s.sqCfg (fieldAt k.params 0 2)).port = true ∧ answers
    (exec (.policerConfig c) s) (s1.configured.finish c stOk) = true :=
  ⟨given booted 0x0503 (fields 20 [(0, 2, 65535), (4, 16, 0)]), 1, cmd 0x0503 (fields 20 [(0, 2, 65535), (4, 16, 0)]), _, rfl, by decide +kernel⟩

theorem test_shapersPolicersAndProfilesAreWritten_5 : ∃ s : State, ∃ c : Nat, ∃ k : Cmd, s.carries 0x0504 c k ∧ fieldAt k.params 0 1 = 0 ∧ 1 ≤ fieldAt
    k.params 1 1 ∧ fieldAt k.params 1 1 ≤ 15 ∧ fieldAt k.params 2 2 = 0 ∧ (∀ i < 3, redOk (BitVec.ofNat 64 (fieldAt k.params (4 + 8 * i) 8)) = true) :=
  ⟨given booted 0x0504 (fields 28 [(0, 1, 0), (1, 1, 15), (4, 8, 0), (12, 8, 562949962858501), (20, 8, 0)]), 1, cmd 0x0504 (fields 28 [(0, 1, 0), (1,
    1, 15), (4, 8, 0), (12, 8, 562949962858501), (20, 8, 0)]), by decide +kernel⟩

theorem test_shapersPolicersAndProfilesAreWritten_6 : ∃ s : State, ∃ c : Nat, ∃ k : Cmd, s.carries 0x0504 c k ∧ fieldAt k.params 0 1 = 1 ∧ fieldAt
    k.params 1 1 < 38 ∧ fieldAt k.params 2 2 = 0 ∧ allZero (k.params.drop 12) = true ∧ (BitVec.ofNat 64 (fieldAt k.params 4 8)).extractLsb' 0 4 = 0#4 ∧
    (BitVec.ofNat 64 (fieldAt k.params 4 8)).extractLsb' 56 4 = 0#4 ∧ answers (exec (.wredProfilePortVcRed c) s) (((s.take c).modPort (fieldAt k.params 1
    1) fun P => { P with vcRed := BitVec.ofNat 64 (fieldAt k.params 4 8) }).configured.finish c stOk) = true :=
  ⟨given booted 0x0504 (fields 28 [(0, 1, 1), (1, 1, 37), (4, 8, 16)]), 1, cmd 0x0504 (fields 28 [(0, 1, 1), (1, 1, 37), (4, 8, 16)]),
    by decide +kernel⟩

theorem test_memoryTierEventsTakeEffect_1 : ∃ s : State, ∃ k : Nat, s.live = true ∧ k < 2 ∧ answers (exec (.cxlPortDown k) s) (s.cxlDown k) = true :=
  ⟨booted, 1, by decide +kernel⟩

theorem test_memoryTierEventsTakeEffect_2 : ∃ s : State, ∃ k : Nat, ∃ x r, s.live = true ∧ k < 2 ∧ x < 256 ∧ (s.ctx x).tear = some r ∧ r.step = 4 ∧
    r.since + 30000000 ≤ s.t3 ∧ answers (exec (.cxlWriteAckTimeout x k) s) (s.cxlDown k) = true :=
  ⟨atNs { booted with ctxs := [(255, { live := true, tear := some { step := 4 } })] } 10000000, 1, 255, { step := 4 }, by decide +kernel⟩

theorem test_memoryTierEventsTakeEffect_3 : ∃ s : State, ∃ k : Nat, ∃ x r, s.live = true ∧ k < 2 ∧ x < 256 ∧ (s.ctx x).tear = some r ∧ s.t3 < r.since
    + 30000000 ∧ answers (exec (.cxlWriteAckTimeout x k) s) (s) = true :=
  ⟨atNs { booted with ctxs := [(255, { live := true, tear := some { step := 4 } })] } 9999999, 1, 255, { step := 4 }, by decide +kernel⟩

theorem test_memoryTierEventsTakeEffect_4 : ∃ s : State, ∃ k : Nat, s.live = true ∧ k < 2 ∧ (s.cxl k).up = false ∧ (s.cxl k).heldDown = false ∧ (s.cxl
    k).refOk = true ∧ (s.cxl k).perstN = true ∧ s.domOn (domCxl k) = true :=
  ⟨{ booted with mem := { cxl := [(1, { perstN := true })] } }, 1, by decide +kernel⟩

theorem test_memoryTierEventsTakeEffect_5 : ∃ s : State, ∃ k : Nat, ∃ cap, s.live = true ∧ k < 2 ∧ 0 < cap ∧ (s.cxl k).up = false ∧ (s.cxl k).heldDown
    = false ∧ (s.cxl k).refOk = true ∧ (s.cxl k).perstN = true ∧ s.domOn (domCxl k) = true ∧ ((s.cxl k).lastCap = none ∨ (s.cxl k).lastCap = some (min cap
    cxlMax)) ∧ answers (exec (.cxlPortUp k cap) s) (((s.modCxl k fun x =>
    { x with up := true, cap := min cap cxlMax, lastCap := some (min cap cxlMax) }).modList (16 + k) fun l =>
    { l with drained := true, rebuilding := true }).passFromNow (24 + k)) = true :=
  ⟨{ booted with mem := { cxl := [(1, { perstN := true })] } }, 1, 2 ^ 50, by decide +kernel⟩

theorem test_memoryTierEventsTakeEffect_6 : ∃ s : State, ∃ k : Nat, ∃ cap u, s.live = true ∧ k < 2 ∧ 0 < cap ∧ (s.cxl k).up = false ∧ (s.cxl
    k).heldDown = false ∧ (s.cxl k).refOk = true ∧ (s.cxl k).perstN = true ∧ s.domOn (domCxl k) = true ∧ (s.cxl k).lastCap = some u ∧ u ≠ min cap cxlMax ∧
    answers (exec (.cxlPortUp k cap) s) (s.modCxl k fun x => { x with heldDown := true }) = true :=
  ⟨{ booted with mem := { cxl := [(0, { perstN := true, lastCap := some 64 })] } }, 0, 128, 64, by decide +kernel⟩

theorem test_memoryTierEventsTakeEffect_7 : ∃ s : State, ∃ k : Nat, ∃ m w rest, s.live = true ∧ k < 2 ∧ m < 26 ∧ s.scrubs m = true ∧ (s.ctrl m).back =
    w :: rest :=
  ⟨{ booted with mem := { ctrls := [(23, { back := [3, 4] })] } }, 0, 23, 3, [4], by decide +kernel⟩

theorem test_memoryTierEventsTakeEffect_8 : ∃ s : State, ∃ k : Nat, ∃ m, s.live = true ∧ k < 2 ∧ m < 26 ∧ s.scrubs m = true ∧ (s.ctrl m).back = [] :=
  ⟨booted, 0, 0, by decide +kernel⟩

theorem test_emergencyBegins_1 : ∃ s : State, s.live = true ∧ s.pwr.due &&& ~~~ s.pwr.causes ≠ 0#5 ∧ s.pwr.due.getLsbD 4 = true ∧ s.pwr.causes.getLsbD
    4 = false :=
  ⟨withPwr { due := 0x10#5 }, by decide +kernel⟩

theorem test_emergencyBegins_2 : ∃ s : State, ∃ m, m = s.pwr.causes ||| s.pwr.due ∧ ∃ p, p =
    { s.pwr with causes := m, rungAt := if s.pwr.causes = 0#5 then s.t3 else s.pwr.rungAt, warmW := 0 } ∧ s.live = true ∧ s.pwr.due &&& ~~~ s.pwr.causes ≠
    0#5 ∧ (s.pwr.causes ||| s.pwr.due).getLsbD 4 = false ∧ s.pwr.rung = 0 ∧ answers (exec .emergencyBegin s)
    (({ s with pwr := { p with emMask := m, rung := 1, emRung := 1, emStart := s.t3, emTj := s.pwr.sens.hottest (s.pwr.sens.tDie.headD 0), emVin := s.pwr.sens.vIn }, dev := { s.dev with emergency := true } }).devEvent
    5 stOk [1, m.toNat]) = true :=
  ⟨withPwr { due := 0x03#5 }, _, rfl, _, rfl, by decide +kernel⟩

theorem test_emergencyBegins_3 : ∃ s : State, ∃ m, m = s.pwr.causes ||| s.pwr.due ∧ ∃ p, p =
    { s.pwr with causes := m, rungAt := if s.pwr.causes = 0#5 then s.t3 else s.pwr.rungAt, warmW := 0 } ∧ s.live = true ∧ s.pwr.due &&& ~~~ s.pwr.causes ≠
    0#5 ∧ (s.pwr.causes ||| s.pwr.due).getLsbD 4 = false ∧ s.pwr.rung ≠ 0 ∧ answers (exec .emergencyBegin s)
    ({ s with pwr := { p with emMask := s.pwr.emMask ||| m } }) = true :=
  ⟨withPwr { due := 0x03#5, causes := 0x01#5, rung := 2 }, _, rfl, _, rfl, by decide +kernel⟩

theorem test_ladderClimbsAndDescends_1 : ∃ s : State, s.live = true ∧ s.pwr.causes ≠ 0#5 ∧ s.pwr.rung < 4 ∧ s.pwr.rungAt + 300000 ≤ s.t3 ∧ answers
    (exec .ladderClimb s) (s.modPwr fun p => { p with rung := p.rung + 1, emRung := max p.emRung (p.rung + 1), rungAt := p.rungAt + 300000 }) = true :=
  ⟨atNs (withPwr { causes := 1#5, rung := 3 }) 100000, by decide +kernel⟩

theorem test_ladderClimbsAndDescends_2 : ∃ s : State, (s.live = true ∧ s.pwr.causes ≠ 0#5 ∧ s.pwr.causes.getLsbD 4 = false ∧ answers (exec
    .emergencyClear s) (s.modPwr fun p => { p with causes := 0#5, rungAt := s.t3 }) = true) ∧ (∃ t, s.pwr.insideSince = some t ∧ t + 30000000 ≤ s.t3) :=
  ⟨atNs (withPwr { causes := 1#5, rung := 3, insideSince := some 0 }) 10000000, by decide +kernel, ⟨_, rfl, by decide +kernel⟩⟩

theorem test_ladderClimbsAndDescends_3 : ∃ s : State, s.live = true ∧ s.pwr.causes = 0#5 ∧ 1 < s.pwr.rung ∧ s.pwr.rungAt + 30000000 ≤ s.t3 ∧ answers
    (exec .ladderDescend s) (s.modPwr fun p => { p with rung := p.rung - 1, rungAt := p.rungAt + 30000000 }) = true :=
  ⟨atNs (withPwr { rung := 2 }) 10000000, by decide +kernel⟩

theorem test_ladderClimbsAndDescends_4 : ∃ s : State, s.live = true ∧ s.pwr.causes = 0#5 ∧ s.pwr.rung = 1 ∧ s.pwr.rungAt + 30000000 ≤ s.t3 ∧ answers
    (exec .ladderDescend s)
    (({ s with pwr := { s.pwr with rung := 0, rungAt := s.pwr.rungAt + 30000000, setAToPe := true }, dev := { s.dev with emergency := false } }.almQueue
    s.emergencyRec).devEvent 5 stOk [0, 0]) = true :=
  ⟨atNs (withPwr { rung := 1 }) 10000000, by decide +kernel⟩

theorem test_comparatorsSample : ∃ s : State, s.pwr.alive = true ∧ s.pwr.nextSample ≤ s.aonNs :=
  ⟨booted, by decide +kernel⟩

theorem test_mulchTicksAndIntegrates_1 : ∃ s : State, s.live = true ∧ s.fwpUp fwpPwr = true ∧ s.pwr.nextTick ≤ s.now :=
  ⟨booted, by decide +kernel⟩

theorem test_mulchTicksAndIntegrates_2 : ∃ s : State, ∃ v : SensorVals, s.live = true ∧ s.pwr.nextInt ≤ s.now ∧ answers (exec (.energyIntegration v)
    s) ((s.rollWindow.sense v).modPwr fun p =>
    { p with heat := p.heat + p.pThNow, elec := p.elec + p.pENow, warmE := p.warmE + p.warmW, winSum := p.winSum + p.pThNow, winN := p.winN + 1, nextInt := (s.now / 1000000 + 1) * 1000000 })
    = true :=
  ⟨booted, cool, by decide +kernel⟩

theorem test_coreClockChangesApply_1 : ∃ s : State, ∃ m, s.live = true ∧ s.pwr.clkReq = some m ∧ s.pwr.clkStep = none ∧ s.clkHeld = false ∧ answers
    (exec .coreClkChangeApply s) (s.modPwr fun p => { p with clkReq := none, clkStep := some (m, s.t3) }) = true :=
  ⟨withPwr { clkReq := some 900 }, 900, by decide +kernel⟩

theorem test_coreClockChangesApply_2 : ∃ s : State, ∃ m t, s.live = true ∧ s.pwr.clkStep = some (m, t) ∧ s.clkHeld = false ∧ answers (exec
    .coreClkStepDone s) ({ s with pwr := { s.pwr with clkStep := none }, clk := { s.clk with coreMHz := m } }) = true :=
  ⟨withPwr { clkStep := some (850, 0) }, 850, 0, by decide +kernel⟩

theorem test_coreClockChangesApply_3 : ∃ s : State, s.live = true ∧ s.clkHeld = true ∧ answers (exec .coreClkChangeApply s) (s) = true ∧ answers (exec
    .coreClkStepDone s) (s) = true :=
  ⟨{ (withPwr { clkReq := some 900 }) with ctxs := [(0, { live := true, started := true, tillers := [191] })], tillers := [(191, { owner := .ctx, run := .running })] },
    by decide +kernel⟩

theorem test_powerCommandsTakeEffect_1 : ∃ s : State, ∃ c : Nat, ∃ k : Cmd, ∃ (cfg : Nat), cfg = fieldAt k.params 0 8 ∧ ∃ (keep : Nat), keep = fieldAt
    k.params 8 8 ∧ ∃ (f : Nat), f = fieldAt k.params 0 2 ∧ ∃ (off : List Nat), off = (List.range 56).filter (fun d => keep / 2 ^ d % 2 == 1 && s.domOn d)
    ∧ ∃ (again : List Nat), again = (List.range 56).filter (fun d => keep / 2 ^ d % 2 == 0 && s.pwr.keepOff.getLsbD d) ∧ s.carries 0x0901 c k ∧ mulchOk
    cfg = true ∧ keep < 2 ^ 56 ∧ (∀ d < 56, keep / 2 ^ d % 2 = 1 → s.domLive d = false) ∧ answers (exec (.pwrPolicy c) s) (((off.foldl State.beginOff
    ((s.take c).modPwr fun p => { p with mulchCfg := BitVec.ofNat 64 cfg, keepOff := BitVec.ofNat 64 keep })).requestDomains again).finish c stOk) = true
    :=
  ⟨given booted 0x0901 (fields 16 [(0, 8, 0x046A000012C9600A)]), 1, cmd 0x0901 (fields 16 [(0, 8, 0x046A000012C9600A)]), _, rfl, _, rfl, _, rfl, _,
    rfl, _, rfl, by decide +kernel⟩

theorem test_powerCommandsTakeEffect_2 : ∃ s : State, ∃ c : Nat, ∃ k : Cmd, ∃ (cfg : Nat), cfg = fieldAt k.params 0 8 ∧ ∃ (keep : Nat), keep = fieldAt
    k.params 8 8 ∧ ∃ (f : Nat), f = fieldAt k.params 0 2 ∧ ∃ (off : List Nat), off = (List.range 56).filter (fun d => keep / 2 ^ d % 2 == 1 && s.domOn d)
    ∧ ∃ (again : List Nat), again = (List.range 56).filter (fun d => keep / 2 ^ d % 2 == 0 && s.pwr.keepOff.getLsbD d) ∧ s.carries 0x0901 c k ∧ (mulchOk
    cfg = false ∨ 2 ^ 56 ≤ keep ∨ (∃ d < 56, keep / 2 ^ d % 2 = 1 ∧ s.domLive d = true)) ∧ answers (exec (.pwrPolicy c) s) ((s.take c).finish c
    stBadParam) = true :=
  ⟨given booted 0x0901 (fields 16 [(0, 8, 0x046A000012C9600A), (8, 8, 2 ^ 56)]), 1, cmd 0x0901 (fields 16 [(0, 8, 0x046A000012C9600A), (8, 8, 2 ^
    56)]), _, rfl, _, rfl, _, rfl, _, rfl, _, rfl, by decide +kernel⟩

theorem test_powerCommandsTakeEffect_3 : ∃ s : State, ∃ c : Nat, ∃ k : Cmd, ∃ (cfg : Nat), cfg = fieldAt k.params 0 8 ∧ ∃ (keep : Nat), keep = fieldAt
    k.params 8 8 ∧ ∃ (f : Nat), f = fieldAt k.params 0 2 ∧ ∃ (off : List Nat), off = (List.range 56).filter (fun d => keep / 2 ^ d % 2 == 1 && s.domOn d)
    ∧ ∃ (again : List Nat), again = (List.range 56).filter (fun d => keep / 2 ^ d % 2 == 0 && s.pwr.keepOff.getLsbD d) ∧ s.carries 0x0902 c k ∧ (f = 0 ∨
    (100 ≤ f ∧ f ≤ 2400)) ∧ fieldAt k.params 2 2 = 0 ∧ answers (exec (.pwrFloor c) s) (((s.take c).modPwr fun p => { p with floorW := f }).finish c stOk
    [s.warmAvail.floor.toNat]) = true :=
  ⟨given booted 0x0902 (fields 4 [(0, 2, 100)]), 1, cmd 0x0902 (fields 4 [(0, 2, 100)]), _, rfl, _, rfl, _, rfl, _, rfl, _, rfl, by decide +kernel⟩

theorem test_powerCommandsTakeEffect_4 : ∃ s : State, ∃ c : Nat, ∃ k : Cmd, ∃ (cfg : Nat), cfg = fieldAt k.params 0 8 ∧ ∃ (keep : Nat), keep = fieldAt
    k.params 8 8 ∧ ∃ (f : Nat), f = fieldAt k.params 0 2 ∧ ∃ (off : List Nat), off = (List.range 56).filter (fun d => keep / 2 ^ d % 2 == 1 && s.domOn d)
    ∧ ∃ (again : List Nat), again = (List.range 56).filter (fun d => keep / 2 ^ d % 2 == 0 && s.pwr.keepOff.getLsbD d) ∧ s.carries 0x0902 c k ∧ ((0 < f ∧
    f < 100) ∨ 2400 < f ∨ fieldAt k.params 2 2 ≠ 0) ∧ answers (exec (.pwrFloor c) s) ((s.take c).finish c stBadParam) = true :=
  ⟨given booted 0x0902 (fields 4 [(0, 2, 99)]), 1, cmd 0x0902 (fields 4 [(0, 2, 99)]), _, rfl, _, rfl, _, rfl, _, rfl, _, rfl, by decide +kernel⟩

theorem test_powerCommandsTakeEffect_5 : ∃ s : State, ∃ c : Nat, ∃ k : Cmd, ∃ (cfg : Nat), cfg = fieldAt k.params 0 8 ∧ ∃ (keep : Nat), keep = fieldAt
    k.params 8 8 ∧ ∃ (f : Nat), f = fieldAt k.params 0 2 ∧ ∃ (off : List Nat), off = (List.range 56).filter (fun d => keep / 2 ^ d % 2 == 1 && s.domOn d)
    ∧ ∃ (again : List Nat), again = (List.range 56).filter (fun d => keep / 2 ^ d % 2 == 0 && s.pwr.keepOff.getLsbD d) ∧ s.carries 0x0903 c k ∧ k.takes
    (s.take c).rollWindow.heatReport.length :=
  ⟨given booted 0x0903 (fields 12 [(0, 8, 16384), (8, 4, 80)]), 1, cmd 0x0903 (fields 12 [(0, 8, 16384), (8, 4, 80)]), _, rfl, _, rfl, _, rfl, _, rfl,
    _, rfl, by decide +kernel⟩

theorem test_domainsTurnOnAndOff_1 : ∃ s : State, ∃ d : Nat, ∃ s1, s1 = ((domPorts d).foldl State.freePower (s.modPwr fun p =>
    { p with domOn := SMap.set falseAt d true p.domOn, domReq := SMap.set domReqAt d none p.domReq, domIdle := SMap.set zeroAt d s.t3 p.domIdle })) ∧
    s.live = true ∧ d < 56 ∧ s.domWanted d = true ∧ s.domBehind d = false ∧ (d < 42 ∨ 48 ≤ d) ∧ answers (exec (.domainPowerOnDone d) s) (s1) = true :=
  ⟨{ booted with pwr := { domReq := [(55, some 5)] } }, 55, _, rfl, by decide +kernel⟩

theorem test_domainsTurnOnAndOff_2 : ∃ s : State, ∃ d : Nat, ∃ s1, s1 = ((domPorts d).foldl State.freePower (s.modPwr fun p =>
    { p with domOn := SMap.set falseAt d true p.domOn, domReq := SMap.set domReqAt d none p.domReq, domIdle := SMap.set zeroAt d s.t3 p.domIdle })) ∧
    s.live = true ∧ d < 56 ∧ s.domWanted d = true ∧ s.domBehind d = false ∧ (d = 42 ∨ d = 43) ∧ answers (exec (.domainPowerOnDone d) s) (s1.modCxl (d -
    42) fun x => { x with clearAt := s.now }) = true :=
  ⟨{ booted with pwr := { domReq := [(43, some 5)] } }, 43, _, rfl, by decide +kernel⟩

theorem test_domainsTurnOnAndOff_3 : ∃ s : State, ∃ d : Nat, ∃ s1, s1 = ((domPorts d).foldl State.freePower (s.modPwr fun p =>
    { p with domOn := SMap.set falseAt d true p.domOn, domReq := SMap.set domReqAt d none p.domReq, domIdle := SMap.set zeroAt d s.t3 p.domIdle })) ∧
    s.live = true ∧ d < 56 ∧ s.domWanted d = true ∧ s.domBehind d = false ∧ 44 ≤ d ∧ d < 48 ∧ answers (exec (.domainPowerOnDone d) s) ([0, 1, 2, 3].foldl
    (fun s k => s.sbServe (4 * k + (d - 44))) ((List.range 6).foldl (fun s j => s.passFromNow (6 * (d - 44) + j)) s1)) = true :=
  ⟨{ booted with pwr := { domReq := [(47, some 5)] } }, 47, _, rfl, by decide +kernel⟩

theorem test_domainsTurnOnAndOff_4 : ∃ s : State, ∃ d : Nat, s.live = true ∧ d < 56 ∧ answers (exec (.domainPowerOffDone d) s) (s.modPwr fun p =>
    { p with domOff := SMap.set noneAt d none p.domOff }) = true :=
  ⟨withPwr { domOff := [(0, some 0)] }, 0, by decide +kernel⟩

theorem test_domainsTurnOnAndOff_5 : ∃ s : State, ∃ d : Nat, s.live = true ∧ d < 56 ∧ s.pwr.mulchCfg.getLsbD 40 = true ∧ s.fwpUp fwpPwr = true ∧
    s.domOn d = true ∧ s.domLive d = false ∧ SMap.get zeroAt s.pwr.domIdle d + 3003000000 ≤ s.t3 ∧ answers (exec (.domainIdleExpiry d) s) (s.beginOff d) =
    true :=
  ⟨atNs (withPwr { mulchCfg := 0x046A0100_12C9600A#64 }) 1001000000, 55, by decide +kernel⟩

theorem test_powerUpAndDown_1 : ∃ s : State, ∃ a b, s.pwr.phase = .off ∧ 5700 ≤ a ∧ 5700 ≤ b ∧ answers (exec (.inputPowerUp [a, b]) s)
    ({ s with pwr := { s.pwr with phase := .converters } }) = true :=
  ⟨{ State.reset with pwr := { phase := .off } }, 5700, 5700, by decide +kernel⟩

theorem test_powerUpAndDown_2 : ∃ s : State, s.pwr.phase = .converters ∧ answers (exec .vaonInRegulation s)
    ({ s with clk := {}, pwr := { s.pwr with phase := .held, readySince := some 0, pwrOk := false, modRstN := false } }) = true :=
  ⟨{ State.reset with pwr := { phase := .converters } }, by decide +kernel⟩

theorem test_powerUpAndDown_3 : ∃ s : State, s.pwr.phase ≠ .off :=
  ⟨booted, by decide +kernel⟩

theorem test_powerUpAndDown_4 : ∃ s : State, ∃ t, s.pwr.phase = .held ∧ s.pwr.readySince = some t ∧ t + 30000000 ≤ s.t3 :=
  ⟨atNs { State.reset with pwr := { phase := .held, readySince := some 0 } } 10000000, 0, by decide +kernel⟩

theorem test_pinsResetTheModule_1 : ∃ s : State, s.live = true :=
  ⟨booted, by decide +kernel⟩

theorem test_pinsResetTheModule_2 : ∃ s : State, ∃ w g, s.live = true ∧ answers (exec (.perstNDeassert w g) s) (s.modDev fun d =>
    { d with perstN := true, pcieWidth := w, pcieGen := g, pcieUp := decide (w = 16 ∧ 4 ≤ g ∧ g ≤ 6) }) = true :=
  ⟨booted, 16, 5, by decide +kernel⟩

theorem test_pinsResetTheModule_3 : ∃ s : State, ∃ k, s.live = true ∧ k < 2 ∧ s.domOn (domCxl k) = true ∧ (s.cxl k).refOk = true ∧ (s.cxl k).clearAt +
    1000000 ≤ s.now ∧ answers (exec (.cxlPerstRelease k) s) (s.modCxl k fun x => { x with perstN := true }) = true :=
  ⟨atNs booted 1000000, 1, by decide +kernel⟩

theorem test_managementPortAnswers_1 : ∃ s : State, s.pwr.alive = true ∧ s.dev.mgNext ≤ s.aonNs :=
  ⟨booted, by decide +kernel⟩

theorem test_managementPortAnswers_2 : ∃ s : State, s.pwr.alive = true :=
  ⟨{ booted with dev := { booted.dev with mgBlock := List.replicate 64 1#8 } }, by decide +kernel⟩

theorem test_managementPortAnswers_3 : ∃ s : State, ∃ cmd, s.pwr.alive = true ∧ cmd ≠ 0 :=
  ⟨booted, 1, by decide +kernel⟩

theorem test_managementPortAnswers_4 : ∃ s : State, ∃ addr, s.pwr.alive = true ∧ addr < 128 ∧ s.dev.mgProto ≠ some false ∧ answers (exec
    (.i3cDynamicAddressAssign addr) s) (s.modDev fun d => { d with mgProto := some true, mgAddr := addr }) = true :=
  ⟨booted, 127, by decide +kernel⟩

theorem test_managementPortAnswers_5 : ∃ s : State, ∃ inst, s.pwr.alive = true ∧ answers (exec (.tapInstruction inst) s) (s.modDev fun d =>
    { d with tapInst := inst }) = true :=
  ⟨booted, .bypass, by decide +kernel⟩

theorem test_oneCycleArithmeticWritesItsRegister_add : ∃ s : State, ∃ t e : Nat, ∃ i : Shoze, s.issues t e (.add) i :=
  ⟨onTiller (reaching { mn := .add, sa := 1#5, sb := 2#5, sd := 3#5 }), 191, 0, { mn := .add, sa := 1#5, sb := 2#5, sd := 3#5 }, by decide +kernel⟩

theorem test_oneCycleArithmeticWritesItsRegister_sub : ∃ s : State, ∃ t e : Nat, ∃ i : Shoze, s.issues t e (.sub) i :=
  ⟨onTiller (reaching { mn := .sub, sa := 1#5, sb := 2#5, sd := 3#5 }), 191, 0, { mn := .sub, sa := 1#5, sb := 2#5, sd := 3#5 }, by decide +kernel⟩

theorem test_oneCycleArithmeticWritesItsRegister_and : ∃ s : State, ∃ t e : Nat, ∃ i : Shoze, s.issues t e (.and) i :=
  ⟨onTiller (reaching { mn := .and, sa := 1#5, sb := 2#5, sd := 3#5 }), 191, 0, { mn := .and, sa := 1#5, sb := 2#5, sd := 3#5 }, by decide +kernel⟩

theorem test_oneCycleArithmeticWritesItsRegister_or : ∃ s : State, ∃ t e : Nat, ∃ i : Shoze, s.issues t e (.or) i :=
  ⟨onTiller (reaching { mn := .or, sa := 1#5, sb := 2#5, sd := 3#5 }), 191, 0, { mn := .or, sa := 1#5, sb := 2#5, sd := 3#5 }, by decide +kernel⟩

theorem test_oneCycleArithmeticWritesItsRegister_xor : ∃ s : State, ∃ t e : Nat, ∃ i : Shoze, s.issues t e (.xor) i :=
  ⟨onTiller (reaching { mn := .xor, sa := 1#5, sb := 2#5, sd := 3#5 }), 191, 0, { mn := .xor, sa := 1#5, sb := 2#5, sd := 3#5 }, by decide +kernel⟩

theorem test_oneCycleArithmeticWritesItsRegister_shl : ∃ s : State, ∃ t e : Nat, ∃ i : Shoze, s.issues t e (.shl) i :=
  ⟨onTiller (reaching { mn := .shl, sa := 1#5, sb := 2#5, sd := 3#5 }), 191, 0, { mn := .shl, sa := 1#5, sb := 2#5, sd := 3#5 }, by decide +kernel⟩

theorem test_oneCycleArithmeticWritesItsRegister_shr : ∃ s : State, ∃ t e : Nat, ∃ i : Shoze, s.issues t e (.shr) i :=
  ⟨onTiller (reaching { mn := .shr, sa := 1#5, sb := 2#5, sd := 3#5 }), 191, 0, { mn := .shr, sa := 1#5, sb := 2#5, sd := 3#5 }, by decide +kernel⟩

theorem test_oneCycleArithmeticWritesItsRegister_sra : ∃ s : State, ∃ t e : Nat, ∃ i : Shoze, s.issues t e (.sra) i :=
  ⟨onTiller (reaching { mn := .sra, sa := 1#5, sb := 2#5, sd := 3#5 }), 191, 0, { mn := .sra, sa := 1#5, sb := 2#5, sd := 3#5 }, by decide +kernel⟩

theorem test_oneCycleArithmeticWritesItsRegister_slt : ∃ s : State, ∃ t e : Nat, ∃ i : Shoze, s.issues t e (.slt) i :=
  ⟨onTiller (reaching { mn := .slt, sa := 1#5, sb := 2#5, sd := 3#5 }), 191, 0, { mn := .slt, sa := 1#5, sb := 2#5, sd := 3#5 }, by decide +kernel⟩

theorem test_oneCycleArithmeticWritesItsRegister_sltu : ∃ s : State, ∃ t e : Nat, ∃ i : Shoze, s.issues t e (.sltu) i :=
  ⟨onTiller (reaching { mn := .sltu, sa := 1#5, sb := 2#5, sd := 3#5 }), 191, 0, { mn := .sltu, sa := 1#5, sb := 2#5, sd := 3#5 }, by decide +kernel⟩

theorem test_constantsAndCountersAreRead_1 : ∃ s : State, ∃ t e : Nat, ∃ i : Shoze, s.issues t e .li i :=
  ⟨onTiller (reaching { mn := .li, sd := 31#5, imm := 0xFFFFFF#24 }), 191, 0, { mn := .li, sd := 31#5, imm := 0xFFFFFF#24 }, by decide +kernel⟩

theorem test_constantsAndCountersAreRead_2 : ∃ s : State, ∃ t e : Nat, ∃ i : Shoze, s.issues t e .lui i :=
  ⟨onTiller (reaching { mn := .lui, sd := 31#5, imm := 0xFFFFFF#24 }), 191, 0, { mn := .lui, sd := 31#5, imm := 0xFFFFFF#24 }, by decide +kernel⟩

theorem test_constantsAndCountersAreRead_3 : ∃ s : State, ∃ t e : Nat, ∃ i : Shoze, s.issues t e .rdcyc i :=
  ⟨onTiller (reaching { mn := .rdcyc, sd := 31#5, imm := 0xFFFFFF#24 }), 191, 0, { mn := .rdcyc, sd := 31#5, imm := 0xFFFFFF#24 }, by decide +kernel⟩

theorem test_constantsAndCountersAreRead_4 : ∃ s : State, ∃ t e : Nat, ∃ i : Shoze, s.issues t e .rdtile i :=
  ⟨onTiller (reaching { mn := .rdtile, sd := 31#5, imm := 0xFFFFFF#24 }), 191, 0, { mn := .rdtile, sd := 31#5, imm := 0xFFFFFF#24 }, by decide +kernel⟩

theorem test_longArithmeticIsIssued_1_mul : ∃ s : State, ∃ t e : Nat, ∃ i : Shoze, s.issues t e (.mul) i ∧ i.ast = false ∧ i.sd = 0#5 ∧ i.ds = [] :=
  ⟨onTiller (reaching { mn := .mul, sa := 1#5, sb := 2#5 }), 191, 0, { mn := .mul, sa := 1#5, sb := 2#5 }, by decide +kernel⟩

theorem test_longArithmeticIsIssued_2_mul : ∃ s : State, ∃ t e : Nat, ∃ i : Shoze, s.issues t e (.mul) i ∧ i.ast = false ∧ i.sd ≠ 0#5 :=
  ⟨onTiller (reaching { mn := .mul, sa := 1#5, sb := 2#5, sd := 3#5 }), 191, 0, { mn := .mul, sa := 1#5, sb := 2#5, sd := 3#5 }, by decide +kernel⟩

theorem test_longArithmeticIsIssued_2_mulhu : ∃ s : State, ∃ t e : Nat, ∃ i : Shoze, s.issues t e (.mulhu) i ∧ i.ast = false ∧ i.sd ≠ 0#5 :=
  ⟨onTiller (reaching { mn := .mulhu, sa := 1#5, sb := 2#5, sd := 3#5 }), 191, 0, { mn := .mulhu, sa := 1#5, sb := 2#5, sd := 3#5 }, by decide +kernel⟩

theorem test_longArithmeticIsIssued_2_div : ∃ s : State, ∃ t e : Nat, ∃ i : Shoze, s.issues t e (.div) i ∧ i.ast = false ∧ i.sd ≠ 0#5 :=
  ⟨onTiller (reaching { mn := .div, sa := 1#5, sb := 2#5, sd := 3#5 }), 191, 0, { mn := .div, sa := 1#5, sb := 2#5, sd := 3#5 }, by decide +kernel⟩

theorem test_longArithmeticIsIssued_2_divu : ∃ s : State, ∃ t e : Nat, ∃ i : Shoze, s.issues t e (.divu) i ∧ i.ast = false ∧ i.sd ≠ 0#5 :=
  ⟨onTiller (reaching { mn := .divu, sa := 1#5, sb := 2#5, sd := 3#5 }), 191, 0, { mn := .divu, sa := 1#5, sb := 2#5, sd := 3#5 }, by decide +kernel⟩

theorem test_longArithmeticIsIssued_2_rem : ∃ s : State, ∃ t e : Nat, ∃ i : Shoze, s.issues t e (.rem) i ∧ i.ast = false ∧ i.sd ≠ 0#5 :=
  ⟨onTiller (reaching { mn := .rem, sa := 1#5, sb := 2#5, sd := 3#5 }), 191, 0, { mn := .rem, sa := 1#5, sb := 2#5, sd := 3#5 }, by decide +kernel⟩

theorem test_longArithmeticIsIssued_2_remu : ∃ s : State, ∃ t e : Nat, ∃ i : Shoze, s.issues t e (.remu) i ∧ i.ast = false ∧ i.sd ≠ 0#5 :=
  ⟨onTiller (reaching { mn := .remu, sa := 1#5, sb := 2#5, sd := 3#5 }), 191, 0, { mn := .remu, sa := 1#5, sb := 2#5, sd := 3#5 }, by decide +kernel⟩

theorem test_dataMemoryIsLoadedAndStored_1_stB : ∃ s : State, ∃ t e : Nat, ∃ i : Shoze, s.issues t e (.stB) i :=
  ⟨onTiller (reaching { mn := .stB, sb := 2#5, imm := 65535#24 }), 191, 0, { mn := .stB, sb := 2#5, imm := 65535#24 }, by decide +kernel⟩

theorem test_dataMemoryIsLoadedAndStored_1_stH : ∃ s : State, ∃ t e : Nat, ∃ i : Shoze, s.issues t e (.stH) i :=
  ⟨onTiller (reaching { mn := .stH, sb := 2#5, imm := 65534#24 }), 191, 0, { mn := .stH, sb := 2#5, imm := 65534#24 }, by decide +kernel⟩

theorem test_dataMemoryIsLoadedAndStored_1_stW : ∃ s : State, ∃ t e : Nat, ∃ i : Shoze, s.issues t e (.stW) i :=
  ⟨onTiller (reaching { mn := .stW, sb := 2#5, imm := 65532#24 }), 191, 0, { mn := .stW, sb := 2#5, imm := 65532#24 }, by decide +kernel⟩

theorem test_dataMemoryIsLoadedAndStored_2_ldB : ∃ s : State, ∃ t e : Nat, ∃ i : Shoze, s.issues t e (.ldB) i ∧ i.ast = false ∧ i.sd = 0#5 ∧ i.ds = []
    :=
  ⟨onTiller (reaching { mn := .ldB, sb := 2#5, imm := 65535#24 }), 191, 0, { mn := .ldB, sb := 2#5, imm := 65535#24 }, by decide +kernel⟩

theorem test_dataMemoryIsLoadedAndStored_3_ldB : ∃ s : State, ∃ t e : Nat, ∃ i : Shoze, s.issues t e (.ldB) i ∧ i.ast = false ∧ i.sd ≠ 0#5 :=
  ⟨onTiller (reaching { mn := .ldB, sd := 4#5, imm := 65535#24 }), 191, 0, { mn := .ldB, sd := 4#5, imm := 65535#24 }, by decide +kernel⟩

theorem test_dataMemoryIsLoadedAndStored_3_ldH : ∃ s : State, ∃ t e : Nat, ∃ i : Shoze, s.issues t e (.ldH) i ∧ i.ast = false ∧ i.sd ≠ 0#5 :=
  ⟨onTiller (reaching { mn := .ldH, sd := 4#5, imm := 65534#24 }), 191, 0, { mn := .ldH, sd := 4#5, imm := 65534#24 }, by decide +kernel⟩

theorem test_dataMemoryIsLoadedAndStored_3_ldW : ∃ s : State, ∃ t e : Nat, ∃ i : Shoze, s.issues t e (.ldW) i ∧ i.ast = false ∧ i.sd ≠ 0#5 :=
  ⟨onTiller (reaching { mn := .ldW, sd := 4#5, imm := 65532#24 }), 191, 0, { mn := .ldW, sd := 4#5, imm := 65532#24 }, by decide +kernel⟩

theorem test_scratchpadWordsTimeAndSeed_1 : ∃ s : State, ∃ t e : Nat, ∃ i : Shoze, s.issues t e .spld i ∧ i.ast = false :=
  ⟨onTiller (reaching { mn := .spld, sd := 4#5, imm := 0x1FFFFC#24 }), 191, 0, { mn := .spld, sd := 4#5, imm := 0x1FFFFC#24 }, by decide +kernel⟩

theorem test_scratchpadWordsTimeAndSeed_2 : ∃ s : State, ∃ t e : Nat, ∃ i : Shoze, s.issues t e .spst i ∧ i.ast = false :=
  ⟨onTiller (reaching { mn := .spst, sb := 2#5, imm := 0x1000#24 }), 191, 0, { mn := .spst, sb := 2#5, imm := 0x1000#24 }, by decide +kernel⟩

theorem test_scratchpadWordsTimeAndSeed_3 : ∃ s : State, ∃ t e : Nat, ∃ i : Shoze, s.issues t e .rdtime i ∧ i.ast = false ∧ i.sd = 0#5 ∧ i.ds = [] :=
  ⟨onTiller (reaching { mn := .rdtime }), 191, 0, { mn := .rdtime }, by decide +kernel⟩

theorem test_scratchpadWordsTimeAndSeed_4 : ∃ s : State, ∃ t e : Nat, ∃ i : Shoze, s.issues t e .rdtime i ∧ i.ast = false ∧ i.sd ≠ 0#5 :=
  ⟨onTiller (reaching { mn := .rdtime, sd := 4#5 }), 191, 0, { mn := .rdtime, sd := 4#5 }, by decide +kernel⟩

theorem test_scratchpadWordsTimeAndSeed_5 : ∃ s : State, ∃ t e : Nat, ∃ i : Shoze, s.issues t e .seed i :=
  ⟨onTiller (reaching { mn := .seed }), 191, 0, { mn := .seed }, by decide +kernel⟩

theorem test_controlFlowMovesTheStream_1_beq : ∃ s : State, ∃ t e : Nat, ∃ i : Shoze, s.issues t e (.beq) i :=
  ⟨onTiller (reaching { mn := .beq, sa := 1#5, sb := 2#5, imm := 0xFFFFFF#24 }), 191, 0, { mn := .beq, sa := 1#5, sb := 2#5, imm := 0xFFFFFF#24 },
    by decide +kernel⟩

theorem test_controlFlowMovesTheStream_1_bne : ∃ s : State, ∃ t e : Nat, ∃ i : Shoze, s.issues t e (.bne) i :=
  ⟨onTiller (reaching { mn := .bne, sa := 1#5, sb := 2#5, imm := 0xFFFFFF#24 }), 191, 0, { mn := .bne, sa := 1#5, sb := 2#5, imm := 0xFFFFFF#24 },
    by decide +kernel⟩

theorem test_controlFlowMovesTheStream_1_blt : ∃ s : State, ∃ t e : Nat, ∃ i : Shoze, s.issues t e (.blt) i :=
  ⟨onTiller (reaching { mn := .blt, sa := 1#5, sb := 2#5, imm := 0xFFFFFF#24 }), 191, 0, { mn := .blt, sa := 1#5, sb := 2#5, imm := 0xFFFFFF#24 },
    by decide +kernel⟩

theorem test_controlFlowMovesTheStream_1_bge : ∃ s : State, ∃ t e : Nat, ∃ i : Shoze, s.issues t e (.bge) i :=
  ⟨onTiller (reaching { mn := .bge, sa := 1#5, sb := 2#5, imm := 0xFFFFFF#24 }), 191, 0, { mn := .bge, sa := 1#5, sb := 2#5, imm := 0xFFFFFF#24 },
    by decide +kernel⟩

theorem test_controlFlowMovesTheStream_1_bltu : ∃ s : State, ∃ t e : Nat, ∃ i : Shoze, s.issues t e (.bltu) i :=
  ⟨onTiller (reaching { mn := .bltu, sa := 1#5, sb := 2#5, imm := 0xFFFFFF#24 }), 191, 0, { mn := .bltu, sa := 1#5, sb := 2#5, imm := 0xFFFFFF#24 },
    by decide +kernel⟩

theorem test_controlFlowMovesTheStream_1_bgeu : ∃ s : State, ∃ t e : Nat, ∃ i : Shoze, s.issues t e (.bgeu) i :=
  ⟨onTiller (reaching { mn := .bgeu, sa := 1#5, sb := 2#5, imm := 0xFFFFFF#24 }), 191, 0, { mn := .bgeu, sa := 1#5, sb := 2#5, imm := 0xFFFFFF#24 },
    by decide +kernel⟩

theorem test_controlFlowMovesTheStream_2 : ∃ s : State, ∃ t e : Nat, ∃ i : Shoze, s.issues t e .nop i :=
  ⟨onTiller (reaching { mn := .nop }), 191, 0, { mn := .nop }, by decide +kernel⟩

theorem test_controlFlowMovesTheStream_3 : ∃ s : State, ∃ t e : Nat, ∃ i : Shoze, s.issues t e .jmp i :=
  ⟨onTiller (reaching { mn := .jmp, imm := 0xFFFFFF#24 }), 191, 0, { mn := .jmp, imm := 0xFFFFFF#24 }, by decide +kernel⟩

theorem test_controlFlowMovesTheStream_4 : ∃ s : State, ∃ t e : Nat, ∃ i : Shoze, s.issues t e .call i :=
  ⟨onTiller { reaching { mn := .call, imm := 0xFFFFFF#24 } with rstack := List.replicate 15 3 }, 191, 0, { mn := .call, imm := 0xFFFFFF#24 },
    by decide +kernel⟩

theorem test_controlFlowMovesTheStream_5 : ∃ s : State, ∃ t e : Nat, ∃ i : Shoze, ∃ j rest, s.issues t e .ret i ∧ (s.tl t).rstack = j :: rest :=
  ⟨onTiller { reaching { mn := .ret } with rstack := [0, 1] }, 191, 0, { mn := .ret }, 0, [1], by decide +kernel⟩

theorem test_holdsAndRetirements_1 : ∃ s : State, ∃ t e : Nat, ∃ i : Shoze, s.issues t e .stepEnd i ∧ answers (exec (.stepEnd t e) s) (s.holdStream t
    e .stepEnd) = true :=
  ⟨onTiller (reaching { mn := .stepEnd }), 191, 0, { mn := .stepEnd }, by decide +kernel⟩

theorem test_holdsAndRetirements_2 : ∃ s : State, ∃ t e : Nat, ∃ i : Shoze, s.issues t e .fence i ∧ answers (exec (.fence t e) s) (s.holdStream t e
    .fence) = true :=
  ⟨onTiller (reaching { mn := .fence }), 191, 0, { mn := .fence }, by decide +kernel⟩

theorem test_holdsAndRetirements_3 : ∃ s : State, ∃ t e : Nat, ∃ i : Shoze, s.issues t e .halt i ∧ answers (exec (.halt t e) s) (s.holdStream t e
    .halt) = true :=
  ⟨onTiller (reaching { mn := .halt }), 191, 0, { mn := .halt }, by decide +kernel⟩

theorem test_holdsAndRetirements_4 : ∃ s : State, ∃ t e : Nat, ∃ i : Shoze, s.issues t e .wait i ∧ (s.tl t).winsWait e i.sem.toNat s.clk.core = false
    ∧ answers (exec (.wait t e) s) (s.holdStream t e (.wait i.sem.toNat)) = true :=
  ⟨onTiller (reaching { mn := .wait, sem := 15#4 }), 191, 0, { mn := .wait, sem := 15#4 }, by decide +kernel⟩

theorem test_holdsAndRetirements_5 : ∃ s : State, ∃ t e : Nat, t < 192 ∧ e < 6 ∧ s.holding t e .fence = true ∧ (s.tl t).idle s.clk.core = true :=
  ⟨onTiller (heldBy .fence), 191, 0, by decide +kernel⟩

theorem test_holdsAndRetirements_6 : ∃ s : State, ∃ t e : Nat, t < 192 ∧ e < 6 ∧ s.holding t e .stepEnd = true ∧ (s.tl t).idle s.clk.core = true ∧
    (s.tl t).stopReq = false ∧ (s.dev.mode.getLsbD 0 = false ∨ (s.pwr.clkReq = none ∧ s.pwr.clkStep = none)) :=
  ⟨onTiller (heldBy .stepEnd), 191, 0, by decide +kernel⟩

theorem test_holdsAndRetirements_7 : ∃ s : State, ∃ t e : Nat, s.live = true ∧ t < 192 ∧ e < 6 ∧ (s.tl t).idle s.clk.core = false ∧ answers (exec
    (.stepEndRetire t e) s) (s) = true ∧ answers (exec (.fenceRetire t e) s) (s) = true ∧ answers (exec (.haltRetire t e) s) (s) = true :=
  ⟨onTiller { heldBy .fence with busy := [(4, 2000)] }, 191, 0, by decide +kernel⟩

theorem test_holdsAndRetirements_8 : ∃ s : State, ∃ t e : Nat, t < 192 ∧ e < 6 ∧ s.holding t e .stepEnd = true ∧ (s.tl t).stopReq = false ∧
    s.dev.mode.getLsbD 0 = true ∧ (s.pwr.clkReq ≠ none ∨ s.pwr.clkStep ≠ none) ∧ answers (exec (.stepEndRetire t e) s) (s) = true :=
  ⟨{ (onTiller (heldBy .stepEnd)) with pwr := { booted.pwr with clkReq := some 900 } }, 191, 0, by decide +kernel⟩

theorem test_holdsAndRetirements_9 : ∃ s : State, ∃ t e : Nat, ∃ x, t < 192 ∧ e < 6 ∧ s.holding t e .stepEnd = true ∧ (s.tl t).idle s.clk.core = true
    ∧ (s.tl t).stopReq = true ∧ (s.tl t).ctx = some x ∧ answers (exec (.stepEndRetire t e) s) ((s.modT t fun T =>
    { T with run := .stopped, stopReq := false }).stopCheck x) = true :=
  ⟨inCtx { heldBy .stepEnd with stopReq := true }, 191, 0, 9, by decide +kernel⟩

theorem test_holdsAndRetirements_10 : ∃ s : State, ∃ t e : Nat, t < 192 ∧ e < 6 ∧ s.holding t e .stepEnd = true ∧ (s.tl t).idle s.clk.core = true ∧
    (s.tl t).stopReq = true ∧ (s.tl t).ctx = none ∧ answers (exec (.stepEndRetire t e) s) (s.modT t fun T => { T with run := .stopped, stopReq := false })
    = true :=
  ⟨onTiller { heldBy .stepEnd with stopReq := true }, 191, 0, by decide +kernel⟩

theorem test_holdsAndRetirements_11 : ∃ s : State, ∃ t e : Nat, ∃ x, t < 192 ∧ e < 6 ∧ s.holding t e .halt = true ∧ (s.tl t).idle s.clk.core = true ∧
    ((s.tl t).haltStream e (s.harrow t)).run = .halted ∧ (s.tl t).ctx = some x ∧ answers (exec (.haltRetire t e) s) (((s.modT t fun T => T.haltStream e
    (s.harrow t)).shadowStep t).ctxHalts x) = true :=
  ⟨inCtx (heldBy .halt), 191, 0, 9, by decide +kernel⟩

theorem test_holdsAndRetirements_12 : ∃ s : State, ∃ t e : Nat, t < 192 ∧ e < 6 ∧ s.holding t e .halt = true ∧ (s.tl t).idle s.clk.core = true ∧
    ((s.tl t).haltStream e (s.harrow t)).run = .halted ∧ (s.tl t).ctx = none ∧ answers (exec (.haltRetire t e) s) ((s.modT t fun T => T.haltStream e
    (s.harrow t)).shadowStep t) = true :=
  ⟨onTiller (heldBy .halt), 191, 0, by decide +kernel⟩

theorem test_holdsAndRetirements_13 : ∃ s : State, ∃ t e : Nat, t < 192 ∧ e < 6 ∧ s.holding t e .halt = true ∧ (s.tl t).idle s.clk.core = true ∧
    ((s.tl t).haltStream e (s.harrow t)).run ≠ .halted ∧ answers (exec (.haltRetire t e) s) (s.modT t fun T => T.haltStream e (s.harrow t)) = true :=
  ⟨onTiller { heldBy .halt with streams := [(0, { pc := 1, on := true, hold := .halt }), (2, { on := true })] }, 191, 0, by decide +kernel⟩

theorem test_semaphoresAndAddressStreams_1 : ∃ s : State, ∃ t e : Nat, ∃ i : Shoze, s.issues t e .signal i ∧ (s.tl t).semTotal i.sem.toNat < 255 :=
  ⟨onTiller { reaching { mn := .signal, sem := 15#4 } with sems := [(15, 254)] }, 191, 0, { mn := .signal, sem := 15#4 }, by decide +kernel⟩

theorem test_semaphoresAndAddressStreams_2 : ∃ s : State, ∃ t e : Nat, ∃ i : Shoze, s.issues t e .signal i ∧ 255 ≤ (s.tl t).semTotal i.sem.toNat ∧
    answers (exec (.signal t e) s) (s.hazard t (streamEngine (s.tl t) e) ((s.tl t).stream e).pc { cause := 11 }) = true :=
  ⟨onTiller { reaching { mn := .signal, sem := 15#4 } with sems := [(15, 255)] }, 191, 0, { mn := .signal, sem := 15#4 }, by decide +kernel⟩

theorem test_semaphoresAndAddressStreams_3 : ∃ s : State, ∃ t e : Nat, ∃ i : Shoze, s.issues t e .wait i ∧ (s.tl t).winsWait e i.sem.toNat s.clk.core
    = true ∧ answers (exec (.wait t e) s) (s.modT t fun T => T.retireWait e i.sem.toNat s.clk.core s.t3) = true :=
  ⟨onTiller { reaching { mn := .wait, sem := 15#4 } with sems := [(15, 1)] }, 191, 0, { mn := .wait, sem := 15#4 }, by decide +kernel⟩

theorem test_semaphoresAndAddressStreams_4 : ∃ s : State, ∃ t e : Nat, ∃ k, t < 192 ∧ e < 6 ∧ s.holding t e (.wait k) = true ∧ (s.tl t).winsWait e k
    s.clk.core = true ∧ answers (exec (.waitRetire t e) s) (s.modT t fun T => T.retireWait e k s.clk.core s.t3) = true :=
  ⟨onTiller { heldBy (.wait 3) with sems := [(3, 1)] }, 191, 0, 3, by decide +kernel⟩

theorem test_semaphoresAndAddressStreams_5 : ∃ s : State, ∃ t e : Nat, ∃ i : Shoze, s.issues t e .aspush i ∧ (SMap.get nilAt (s.tl t).fifos
    (i.imm.toNat % 8)).length < 64 :=
  ⟨onTiller { reaching { mn := .aspush, sa := 1#5, imm := 4#24 } with fifos := [(4, List.replicate 63 0#32)] }, 191, 0,
    { mn := .aspush, sa := 1#5, imm := 4#24 }, by decide +kernel⟩

theorem test_hazardsFaultTheTiller_2_cvRestore : ∃ s : State, ∃ t e : Nat, ∃ i : Shoze, ∃ ecc : Option Nat, ∃ h, ∃ (pc : Nat), pc = ((s.tl t).stream
    e).pc ∧ s.meets t e (.cvRestore) i h ∧ answers (exec (.cvRestore t e ecc) s) (s.hazard t 5 pc h) = true :=
  ⟨stalled .cvRestore, 191, 0, astray .cvRestore, none, (((stalled .cvRestore).tl 191).findHazard 1000 (astray .cvRestore)).getD { cause := 0 }, _,
    rfl, by decide +kernel⟩

theorem test_hazardsFaultTheTiller_3_nop : ∃ s : State, ∃ t e : Nat, ∃ (pc : Nat), pc = ((s.tl t).stream e).pc ∧ t < 192 ∧ e < 6 ∧ s.mayIssue t e =
    true ∧ (s.tl t).img.code[pc]? = none ∧ answers (exec (.nop t e) s) (s.hazard t (streamEngine (s.tl t) e) pc { cause := 6 }) = true :=
  ⟨onTiller { reaching {} with streams := [(0, { pc := 2, on := true })] }, 191, 0, _, rfl, by decide +kernel⟩

theorem test_hazardsFaultTheTiller_4_nop : ∃ s : State, ∃ t e : Nat, ∃ i : Shoze, ∃ (pc : Nat), pc = ((s.tl t).stream e).pc ∧ t < 192 ∧ e < 6 ∧
    s.mayIssue t e = true ∧ (s.tl t).img.code[pc]? = some i ∧ i.mn = (.nop) ∧ pc ∈ (s.tl t).imUe ∧ answers (exec (.nop t e) s) (s.eccFetch t pc) = true :=
  ⟨onTiller { reaching {} with imUe := [1] }, 191, 0, {}, _, rfl, by decide +kernel⟩

theorem test_hazardsFaultTheTiller_5_mm : ∃ s : State, ∃ t e : Nat, ∃ i : Shoze, ∃ (pc : Nat), pc = ((s.tl t).stream e).pc ∧ t < 192 ∧ e < 6 ∧
    s.mayIssue t e = true ∧ (s.tl t).img.code[pc]? = some i ∧ i.mn = (.mm) ∧ pc ∉ (s.tl t).imUe ∧ engineOf (.mm) = 1 ∧ s.harrow t = false ∧ answers (exec
    (.mm t e) s) (s.harrowAbsent t pc) = true :=
  ⟨{ (onTiller (reaching { mn := .mm })) with part := { fuse := 0#192 } }, 191, 0, { mn := .mm }, _, rfl, by decide +kernel⟩

theorem test_engineInstructionsAreIssued_mm : ∃ s : State, ∃ t e : Nat, ∃ i : Shoze, s.issues t e (.mm) i ∧ i.ds ≠ [] :=
  ⟨onTiller (reaching
    { mn := .mm, ds := [{ fmt := 9#4, count := 32#24 }, { base := 0x1000#21, fmt := 9#4, count := 32#24 }, { base := 0x2000#21, fmt := 10#4, count := 1#24 }], sd := 4#5 }),
    191, 0,
    { mn := .mm, ds := [{ fmt := 9#4, count := 32#24 }, { base := 0x1000#21, fmt := 9#4, count := 32#24 }, { base := 0x2000#21, fmt := 10#4, count := 1#24 }], sd := 4#5 },
    by decide +kernel⟩

theorem test_engineInstructionsAreIssued_trRed : ∃ s : State, ∃ t e : Nat, ∃ i : Shoze, s.issues t e (.trRed) i ∧ i.ds ≠ [] :=
  ⟨onTiller (reaching { mn := .trRed, ds := [{ fmt := 1#4, count := 32#24 }, { base := 0x2000#21, fmt := 1#4, count := 32#24 }], sd := 4#5 }), 191, 0,
    { mn := .trRed, ds := [{ fmt := 1#4, count := 32#24 }, { base := 0x2000#21, fmt := 1#4, count := 32#24 }], sd := 4#5 }, by decide +kernel⟩

theorem test_engineInstructionsAreIssued_trCvt : ∃ s : State, ∃ t e : Nat, ∃ i : Shoze, s.issues t e (.trCvt) i ∧ i.ds ≠ [] :=
  ⟨onTiller (reaching { mn := .trCvt, ds := [{ fmt := 1#4, count := 32#24 }, { base := 0x2000#21, fmt := 1#4, count := 32#24 }], sd := 4#5 }), 191, 0,
    { mn := .trCvt, ds := [{ fmt := 1#4, count := 32#24 }, { base := 0x2000#21, fmt := 1#4, count := 32#24 }], sd := 4#5 }, by decide +kernel⟩

theorem test_engineInstructionsAreIssued_trLdprog : ∃ s : State, ∃ t e : Nat, ∃ i : Shoze, s.issues t e (.trLdprog) i ∧ i.ds ≠ [] :=
  ⟨onTiller (reaching { mn := .trLdprog, ds := [{ base := 0x1000#21, fmt := 9#4, count := 32#24 }], sd := 4#5 }), 191, 0,
    { mn := .trLdprog, ds := [{ base := 0x1000#21, fmt := 9#4, count := 32#24 }], sd := 4#5 }, by decide +kernel⟩

theorem test_engineInstructionsAreIssued_mvCopy : ∃ s : State, ∃ t e : Nat, ∃ i : Shoze, s.issues t e (.mvCopy) i ∧ i.ds ≠ [] :=
  ⟨onTiller (reaching { mn := .mvCopy, ds := [{ fmt := 1#4, count := 32#24 }, { base := 0x2000#21, fmt := 1#4, count := 32#24 }], sd := 4#5 }), 191,
    0, { mn := .mvCopy, ds := [{ fmt := 1#4, count := 32#24 }, { base := 0x2000#21, fmt := 1#4, count := 32#24 }], sd := 4#5 }, by decide +kernel⟩

theorem test_engineInstructionsAreIssued_mvGet : ∃ s : State, ∃ t e : Nat, ∃ i : Shoze, s.issues t e (.mvGet) i ∧ i.ds ≠ [] :=
  ⟨onTiller (reaching { mn := .mvGet, ds := [{ base := 0x1000#21, fmt := 9#4, count := 32#24 }], sd := 4#5 }), 191, 0,
    { mn := .mvGet, ds := [{ base := 0x1000#21, fmt := 9#4, count := 32#24 }], sd := 4#5 }, by decide +kernel⟩

theorem test_engineInstructionsAreIssued_mvRecv : ∃ s : State, ∃ t e : Nat, ∃ i : Shoze, s.issues t e (.mvRecv) i ∧ i.ds ≠ [] :=
  ⟨onTiller (reaching { mn := .mvRecv, ds := [{ fmt := 9#4, count := 4160#24 }], sd := 4#5 }), 191, 0,
    { mn := .mvRecv, ds := [{ fmt := 9#4, count := 4160#24 }], sd := 4#5 }, by decide +kernel⟩

theorem test_checkedInstructionsAreIssued_1 : ∃ s : State, ∃ t e : Nat, ∃ i : Shoze, s.issues t e .trMap i ∧ mapMismatch (s.tl t) ((s.tl t).stream
    e).pc i = false ∧ answers (exec (.trMap t e) s) (s.engine t e i fun x => { x with prog := SMap.get progAt (s.tl t).progs (progIndex i) }) = true :=
  ⟨onTiller
    { reaching { mn := .trMap, ds := [{ fmt := 1#4, count := 32#24 }, { base := 0x2000#21, fmt := 1#4, count := 32#24 }] } with progs := [(0, { stages := 1, ii := 1, ops := [0x8000#32] })] },
    191, 0, { mn := .trMap, ds := [{ fmt := 1#4, count := 32#24 }, { base := 0x2000#21, fmt := 1#4, count := 32#24 }] }, by decide +kernel⟩

theorem test_checkedInstructionsAreIssued_2 : ∃ s : State, ∃ t e : Nat, ∃ i : Shoze, s.issues t e .trMap i ∧ mapMismatch (s.tl t) ((s.tl t).stream
    e).pc i = true ∧ answers (exec (.trMap t e) s) (s.fmtViolation t 2 ((s.tl t).stream e).pc { reason := 7 }) = true :=
  ⟨onTiller
    { reaching { mn := .trMap, ds := [{ fmt := 1#4, count := 32#24 }, { base := 0x2000#21, fmt := 1#4, count := 32#24 }] } with progs := [(0, { stages := 1, ii := 1, ops := [0x8800#32] })] },
    191, 0, { mn := .trMap, ds := [{ fmt := 1#4, count := 32#24 }, { base := 0x2000#21, fmt := 1#4, count := 32#24 }] }, by decide +kernel⟩

theorem test_checkedInstructionsAreIssued_3_mmBs : ∃ s : State, ∃ t e : Nat, ∃ i : Shoze, s.issues t e (.mmBs) i ∧ (s.tl t).sparseHeader ((s.tl
    t).resolve i) = none ∧ answers (exec (.mmBs t e) s) (s.engine t e i fun x =>
    { x with headSrcs := natFeet (spHdr ((((s.tl t).resolve i).desc 0).header (s.tl t).sp)).feet }) = true :=
  ⟨onTiller { reaching (balancedInst .mmBs) with sp := blockHead 1 0 }, 191, 0, (balancedInst .mmBs), by decide +kernel⟩

theorem test_checkedInstructionsAreIssued_3_mmGs : ∃ s : State, ∃ t e : Nat, ∃ i : Shoze, s.issues t e (.mmGs) i ∧ (s.tl t).sparseHeader ((s.tl
    t).resolve i) = none ∧ answers (exec (.mmGs t e) s) (s.engine t e i fun x =>
    { x with headSrcs := natFeet (spHdr ((((s.tl t).resolve i).desc 0).header (s.tl t).sp)).feet }) = true :=
  ⟨onTiller { reaching (sparseInst .mmGs) with sp := sparseHead }, 191, 0, (sparseInst .mmGs), by decide +kernel⟩

theorem test_checkedInstructionsAreIssued_3_mmBgs : ∃ s : State, ∃ t e : Nat, ∃ i : Shoze, s.issues t e (.mmBgs) i ∧ (s.tl t).sparseHeader ((s.tl
    t).resolve i) = none ∧ answers (exec (.mmBgs t e) s) (s.engine t e i fun x =>
    { x with headSrcs := natFeet (spHdr ((((s.tl t).resolve i).desc 0).header (s.tl t).sp)).feet }) = true :=
  ⟨onTiller { reaching (balancedInst .mmBgs) with sp := blockHead 3 1 }, 191, 0, (balancedInst .mmBgs), by decide +kernel⟩

theorem test_checkedInstructionsAreIssued_4_mmBs : ∃ s : State, ∃ t e : Nat, ∃ i : Shoze, ∃ o, ∃ d, d = ((s.tl t).resolve i).desc 0 ∧ s.issues t e
    (.mmBs) i ∧ (s.tl t).sparseHeader ((s.tl t).resolve i) = some o ∧ answers (exec (.mmBs t e) s) (s.fmtViolation t 1 ((s.tl t).stream e).pc
    { reason := 5, form := fieldAt (d.header (s.tl t).sp) 0 1, addr := d.aux.toNat + o }) = true :=
  ⟨onTiller { reaching (sparseInst .mmBs) with sp := sparseHead }, 191, 0, (sparseInst .mmBs), (((onTiller
    { reaching (sparseInst .mmBs) with sp := sparseHead }).tl 191).sparseHeader (sparseInst .mmBs)).getD 0, _, rfl, by decide +kernel⟩

theorem test_checkedInstructionsAreIssued_4_mmGs : ∃ s : State, ∃ t e : Nat, ∃ i : Shoze, ∃ o, ∃ d, d = ((s.tl t).resolve i).desc 0 ∧ s.issues t e
    (.mmGs) i ∧ (s.tl t).sparseHeader ((s.tl t).resolve i) = some o ∧ answers (exec (.mmGs t e) s) (s.fmtViolation t 1 ((s.tl t).stream e).pc
    { reason := 5, form := fieldAt (d.header (s.tl t).sp) 0 1, addr := d.aux.toNat + o }) = true :=
  ⟨onTiller (reaching (sparseInst .mmGs)), 191, 0, (sparseInst .mmGs), 0, _, rfl, by decide +kernel⟩

theorem test_checkedInstructionsAreIssued_4_mmBgs : ∃ s : State, ∃ t e : Nat, ∃ i : Shoze, ∃ o, ∃ d, d = ((s.tl t).resolve i).desc 0 ∧ s.issues t e
    (.mmBgs) i ∧ (s.tl t).sparseHeader ((s.tl t).resolve i) = some o ∧ answers (exec (.mmBgs t e) s) (s.fmtViolation t 1 ((s.tl t).stream e).pc
    { reason := 5, form := fieldAt (d.header (s.tl t).sp) 0 1, addr := d.aux.toNat + o }) = true :=
  ⟨onTiller { reaching (sparseInst .mmBgs) with sp := sparseHead }, 191, 0, (sparseInst .mmBgs), (((onTiller
    { reaching (sparseInst .mmBgs) with sp := sparseHead }).tl 191).sparseHeader (sparseInst .mmBgs)).getD 0, _, rfl, by decide +kernel⟩

theorem test_checkedInstructionsAreIssued_5_shPrune : ∃ s : State, ∃ t e : Nat, ∃ i : Shoze, s.issues t e (.shPrune) i ∧ shearsHeader ((s.tl
    t).resolve i) (s.tl t).sp = none ∧ answers (exec (.shPrune t e) s) (s.engine t e i fun x =>
    { x with headSrcs := natFeet (shearsFeet ((s.tl t).resolve i) (s.tl t).sp).1, headDsts := natFeet (shearsFeet ((s.tl t).resolve i) (s.tl t).sp).2 }) =
    true :=
  ⟨onTiller { reaching pruneInst with sp := sparseHead }, 191, 0, pruneInst, by decide +kernel⟩

theorem test_checkedInstructionsAreIssued_5_shTmask : ∃ s : State, ∃ t e : Nat, ∃ i : Shoze, s.issues t e (.shTmask) i ∧ shearsHeader ((s.tl
    t).resolve i) (s.tl t).sp = none ∧ answers (exec (.shTmask t e) s) (s.engine t e i fun x =>
    { x with headSrcs := natFeet (shearsFeet ((s.tl t).resolve i) (s.tl t).sp).1, headDsts := natFeet (shearsFeet ((s.tl t).resolve i) (s.tl t).sp).2 }) =
    true :=
  ⟨onTiller { reaching tmaskInst with sp := tmaskHead }, 191, 0, tmaskInst, by decide +kernel⟩

theorem test_checkedInstructionsAreIssued_6_shPrune : ∃ s : State, ∃ t e : Nat, ∃ i : Shoze, ∃ p, s.issues t e (.shPrune) i ∧ shearsHeader ((s.tl
    t).resolve i) (s.tl t).sp = some p ∧ answers (exec (.shPrune t e) s) (s.fmtViolation t 3 ((s.tl t).stream e).pc
    { reason := 5, form := p.2, addr := p.1 }) = true :=
  ⟨onTiller (reaching pruneInst), 191, 0, pruneInst, ((shearsHeader ((({} : Tiller).resolve pruneInst)) []).getD (0, 0)), by decide +kernel⟩

theorem test_checkedInstructionsAreIssued_6_shTmask : ∃ s : State, ∃ t e : Nat, ∃ i : Shoze, ∃ p, s.issues t e (.shTmask) i ∧ shearsHeader ((s.tl
    t).resolve i) (s.tl t).sp = some p ∧ answers (exec (.shTmask t e) s) (s.fmtViolation t 3 ((s.tl t).stream e).pc
    { reason := 5, form := p.2, addr := p.1 }) = true :=
  ⟨onTiller (reaching tmaskInst), 191, 0, tmaskInst, ((shearsHeader ((({} : Tiller).resolve tmaskInst)) []).getD (0, 0)), by decide +kernel⟩

theorem test_checkedInstructionsAreIssued_7 : ∃ s : State, ∃ t e : Nat, ∃ i : Shoze, s.issues t e .mvMrecv i ∧ answers (exec (.mvMrecv t e) s)
    (s.engine t e i fun x => { x with engine := 6 }) = true :=
  ⟨onTiller (reaching { mn := .mvMrecv, imm := 0xF00#24, ds := [{ base := 0x1000#21, fmt := 9#4, count := 32#24 }] }), 191, 0,
    { mn := .mvMrecv, imm := 0xF00#24, ds := [{ base := 0x1000#21, fmt := 9#4, count := 32#24 }] }, by decide +kernel⟩

theorem test_checkedInstructionsAreIssued_8 : ∃ s : State, ∃ t e : Nat, ∃ i : Shoze, s.issues t e .mvMesh i ∧ answers (exec (.mvMesh t e) s)
    ((s.engine t e i fun x => { x with phase := (((s.tl t).img.phases.find? fun p => p.1 == ((s.tl t).stream e).pc).map (·.2)).getD 0 }).recordOut t
    ((((s.tl t).resolve i).desc 0).rowBytes (s.tl t).sp [])) = true :=
  ⟨onTiller (reaching { mn := .mvMesh, imm := 0xFBE#24, ds := [{ base := 0x1000#21, fmt := 9#4, count := 32#24 }] }), 191, 0,
    { mn := .mvMesh, imm := 0xFBE#24, ds := [{ base := 0x1000#21, fmt := 9#4, count := 32#24 }] }, by decide +kernel⟩

theorem test_checkedInstructionsAreIssued_9 : ∃ s : State, ∃ t e : Nat, ∃ i : Shoze, s.issues t e .mvPut i ∧ answers (exec (.mvPut t e) s) ((s.engine
    t e i id).recordOut t (if i.ast then [] else (((s.tl t).resolve i).desc 0).rowBytes (s.tl t).sp [])) = true :=
  ⟨onTiller (reaching { mn := .mvPut, ds := [{ base := 0x1000#21, fmt := 9#4, count := 32#24 }] }), 191, 0,
    { mn := .mvPut, ds := [{ base := 0x1000#21, fmt := 9#4, count := 32#24 }] }, by decide +kernel⟩

theorem test_checkedInstructionsAreIssued_10 : ∃ s : State, ∃ t e : Nat, ∃ i : Shoze, ∃ b, b = ((s.tl t).resolve i).sendPacket (s.tl t).sp [] ∧
    s.issues t e .mvSend i ∧ answers (exec (.mvSend t e) s) (((s.engine t e i fun x => { x with data := b }).modT t fun T =>
    { T with sendQ := T.sendQ ++ [{ bytes := b, issue := some s.clk.core }] }).recordOut t b) = true :=
  ⟨onTiller (reaching { mn := .mvSend, ds := [{ fmt := 9#4, count := 48#24 }, { base := 0x1000#21, fmt := 9#4, count := 16#24 }] }), 191, 0,
    { mn := .mvSend, ds := [{ fmt := 9#4, count := 48#24 }, { base := 0x1000#21, fmt := 9#4, count := 16#24 }] }, _, rfl, by decide +kernel⟩

theorem test_checkValueUnitRuns_1 : ∃ s : State, ∃ t e : Nat, ∃ i : Shoze, s.issues t e .cvInit i ∧ answers (exec (.cvInit t e) s) ((s.launch t e i []
    id).modT t fun T => T.setCvu fun _ => cvuInit (i.imm.toNat % 8)) = true :=
  ⟨onTiller (reaching { mn := .cvInit, imm := 5#24 }), 191, 0, { mn := .cvInit, imm := 5#24 }, by decide +kernel⟩

theorem test_checkValueUnitRuns_2_cvWb : ∃ s : State, ∃ t e : Nat, ∃ i : Shoze, s.issues t e (.cvWb) i ∧ answers (exec (.cvWb t e) s) ((s.launch t e i
    [] id).modT t fun T => T.setCvu fun c => c.feed s.clk.core (toLE (1) (s.ra t i).toNat)) = true :=
  ⟨onTiller { reaching { mn := .cvWb, sa := 2#5 } with cvu := cvuInit 0 }, 191, 0, { mn := .cvWb, sa := 2#5 }, by decide +kernel⟩

theorem test_checkValueUnitRuns_2_cvWh : ∃ s : State, ∃ t e : Nat, ∃ i : Shoze, s.issues t e (.cvWh) i ∧ answers (exec (.cvWh t e) s) ((s.launch t e i
    [] id).modT t fun T => T.setCvu fun c => c.feed s.clk.core (toLE (2) (s.ra t i).toNat)) = true :=
  ⟨onTiller { reaching { mn := .cvWh, sa := 2#5 } with cvu := cvuInit 0 }, 191, 0, { mn := .cvWh, sa := 2#5 }, by decide +kernel⟩

theorem test_checkValueUnitRuns_2_cvWw : ∃ s : State, ∃ t e : Nat, ∃ i : Shoze, s.issues t e (.cvWw) i ∧ answers (exec (.cvWw t e) s) ((s.launch t e i
    [] id).modT t fun T => T.setCvu fun c => c.feed s.clk.core (toLE (4) (s.ra t i).toNat)) = true :=
  ⟨onTiller { reaching { mn := .cvWw, sa := 2#5 } with cvu := cvuInit 0 }, 191, 0, { mn := .cvWw, sa := 2#5 }, by decide +kernel⟩

theorem test_checkValueUnitRuns_3 : ∃ s : State, ∃ t e : Nat, ∃ i : Shoze, s.issues t e .cvFeed i ∧ answers (exec (.cvFeed t e) s) ((s.launch t e i []
    id).modT t fun T => T.setCvu fun c => c.feedSlow s.clk.core ((((s.tl t).resolve i).desc 0).packedBytes (s.tl t).sp)) = true :=
  ⟨onTiller { reaching { mn := .cvFeed, ds := [{ base := 0x1000#21, fmt := 9#4, count := 32#24 }] } with cvu := cvuInit 1 }, 191, 0,
    { mn := .cvFeed, ds := [{ base := 0x1000#21, fmt := 9#4, count := 32#24 }] }, by decide +kernel⟩

theorem test_checkValueUnitRuns_4 : ∃ s : State, ∃ t e : Nat, ∃ i : Shoze, s.issues t e .cvRead i ∧ (s.tl t).cvu.sha = true ∧ answers (exec (.cvRead t
    e) s) ((s.launch t e i [] id).modT t fun T => { T with dmem := T.dmem.write (s.ra t i).toNat (s.tl t).cvu.digest }) = true :=
  ⟨onTiller { reaching { mn := .cvRead, sd := 4#5 } with cvu := cvuInit 5 }, 191, 0, { mn := .cvRead, sd := 4#5 }, by decide +kernel⟩

theorem test_checkValueUnitRuns_5 : ∃ s : State, ∃ t e : Nat, ∃ i : Shoze, ∃ s1, s1 = s.launch t e i ((s.tl t).cvu.value s.freeNat) id ∧ s.issues t e
    .cvRead i ∧ (s.tl t).cvu.sha = false :=
  ⟨onTiller { reaching { mn := .cvRead, sd := 4#5 } with cvu := cvuInit 3 }, 191, 0, { mn := .cvRead, sd := 4#5 }, _, rfl, by decide +kernel⟩

theorem test_checkValueUnitRuns_6 : ∃ s : State, ∃ t e : Nat, ∃ i : Shoze, ∃ s1, s1 = ((s.launch t e i [] id).modT t fun T =>
    { T with dmem := T.dmem.write (s.ra t i).toNat ((s.tl t).cvu.image s.freeNat), dmUe := T.dmUe.filter fun w => !(wordsOf (s.ra t i).toNat 128).contains w })
    ∧ s.issues t e .cvSave i :=
  ⟨onTiller { reaching { mn := .cvSave } with cvu := cvuInit 5 }, 191, 0, { mn := .cvSave }, _, rfl, by decide +kernel⟩

theorem test_checkValueUnitRuns_7 : ∃ s : State, ∃ t e : Nat, ∃ i : Shoze, ∃ ecc w, ∃ bad, bad = (wordsOf (s.ra t i).toNat 128).find? (fun w => ecc ==
    some w || (s.tl t).dmUe.contains w) ∧ s.issues t e .cvRestore i ∧ bad = some w ∧ answers (exec (.cvRestore t e ecc) s) (s.eccCore t ((s.tl t).stream
    e).pc w) = true :=
  ⟨onTiller { reaching { mn := .cvRestore } with dmUe := [0] }, 191, 0, { mn := .cvRestore }, none, 0, _, rfl, by decide +kernel⟩

theorem test_checkValueUnitRuns_8 : ∃ s : State, ∃ t e : Nat, ∃ i : Shoze, ∃ ecc c, ∃ bad, bad = (wordsOf (s.ra t i).toNat 128).find? (fun w => ecc ==
    some w || (s.tl t).dmUe.contains w) ∧ s.issues t e .cvRestore i ∧ bad = none ∧ cvuOf ((s.tl t).dmem.read (s.ra t i).toNat 128) = some c ∧ answers
    (exec (.cvRestore t e ecc) s) ((s.launch t e i [] id).modT t fun T => T.setCvu fun _ => c) = true :=
  ⟨onTiller { reaching { mn := .cvRestore } with cvu := {} }, 191, 0, { mn := .cvRestore }, none, (cvuOf (List.replicate 128 0#8)).getD {}, _, rfl,
    by decide +kernel⟩

theorem test_checkValueUnitRuns_9 : ∃ s : State, ∃ t e : Nat, ∃ i : Shoze, ∃ ecc, ∃ bad, bad = (wordsOf (s.ra t i).toNat 128).find? (fun w => ecc ==
    some w || (s.tl t).dmUe.contains w) ∧ s.issues t e .cvRestore i ∧ bad = none ∧ cvuOf ((s.tl t).dmem.read (s.ra t i).toNat 128) = none ∧ answers (exec
    (.cvRestore t e ecc) s) (s.hazard t 5 ((s.tl t).stream e).pc
    { cause := 6, range := some (((s.ra t i).toNat / 32 : Nat), ((s.ra t i).toNat / 32 : Nat)) }) = true :=
  ⟨onTiller { reaching { mn := .cvRestore } with dmem := [(0, 6#8)] }, 191, 0, { mn := .cvRestore }, none, _, rfl, by decide +kernel⟩

theorem test_engineResultsLand_1 : ∃ s : State, ∃ t k : Nat, ∃ x : Entry, ∃ ecc, ∃ s1, s1 = (s.dropEntry t x).modT t (fun T =>
    { (T.result x) with engProg := SMap.set zeroAt x.engine s.t3 T.engProg }) ∧ t < 192 ∧ s.live = true ∧ (s.tl t).checker[k]? = some x ∧ x.async = false
    ∧ (s.tl t).mayComplete x.engine = true ∧ x.done ≤ s.clk.core ∧ (x.inst.ast = false ∨ astRows x.inst ≤ x.rows.length) ∧ (x.inst.mn ≠ .trLdprog ∨
    x.finished = true) ∧ x.badLoad (s.tl t).dmUe ecc = none ∧ x.badWord (s.tl t).spUe ecc = none ∧ (x.engine ≠ 3 ∨ shearsFault x.inst (s.tl t).sp = none)
    ∧ (x.inst.ast = false ∨ SMap.get nilAt (s.tl t).fifos x.engine = []) ∧ answers (exec (.engineResultComplete t k ecc) s) (s1) = true :=
  ⟨onTiller (running
    [{ engine := 2, inst := { mn := .trCvt, ds := [{ fmt := 1#4, count := 32#24 }, { base := 0x2000#21, fmt := 1#4, count := 32#24 }] }, issue := 990, done := 1000, srcs := [(0, 3)], dsts := [(256, 259)] }]),
    191, 0,
    { engine := 2, inst := { mn := .trCvt, ds := [{ fmt := 1#4, count := 32#24 }, { base := 0x2000#21, fmt := 1#4, count := 32#24 }] }, issue := 990, done := 1000, srcs := [(0, 3)], dsts := [(256, 259)] },
    none, _, rfl, by decide +kernel⟩

theorem test_engineResultsLand_2 : ∃ s : State, ∃ t k : Nat, ∃ x : Entry, ∃ ecc, ∃ s1, s1 = (s.dropEntry t x).modT t (fun T =>
    { (T.result x) with engProg := SMap.set zeroAt x.engine s.t3 T.engProg }) ∧ t < 192 ∧ s.live = true ∧ (s.tl t).checker[k]? = some x ∧ x.async = false
    ∧ (s.tl t).mayComplete x.engine = true ∧ x.done ≤ s.clk.core ∧ (x.inst.ast = false ∨ astRows x.inst ≤ x.rows.length) ∧ (x.inst.mn ≠ .trLdprog ∨
    x.finished = true) ∧ x.badLoad (s.tl t).dmUe ecc = none ∧ x.badWord (s.tl t).spUe ecc = none ∧ (x.engine ≠ 3 ∨ shearsFault x.inst (s.tl t).sp = none)
    ∧ x.inst.ast = true ∧ SMap.get nilAt (s.tl t).fifos x.engine ≠ [] ∧ answers (exec (.engineResultComplete t k ecc) s) (s1.hazard t x.engine x.index
    { cause := 10 }) = true :=
  ⟨onTiller
    { running [{ engine := 2, inst := { mn := .trCvt, ast := true, ds := [{ fmt := 1#4, count := 32#24 }, { base := 0x2000#21, fmt := 1#4, count := 32#24 }] }, issue := 990, done := 1000, srcs := [(0, 3)], dsts := [(256, 259)], rows := [0] }] with fifos := [(2, [5#32])] },
    191, 0,
    { engine := 2, inst := { mn := .trCvt, ast := true, ds := [{ fmt := 1#4, count := 32#24 }, { base := 0x2000#21, fmt := 1#4, count := 32#24 }] }, issue := 990, done := 1000, srcs := [(0, 3)], dsts := [(256, 259)], rows := [0] },
    none, _, rfl, by decide +kernel⟩

theorem test_engineResultsLand_3 : ∃ s : State, ∃ t k : Nat, ∃ x : Entry, ∃ ecc w, t < 192 ∧ s.live = true ∧ (s.tl t).checker[k]? = some x ∧ x.async =
    false ∧ (s.tl t).mayComplete x.engine = true ∧ x.done ≤ s.clk.core ∧ (x.inst.ast = false ∨ astRows x.inst ≤ x.rows.length) ∧ (x.inst.mn ≠ .trLdprog ∨
    x.finished = true) ∧ x.badLoad (s.tl t).dmUe ecc = some w ∧ answers (exec (.engineResultComplete t k ecc) s) ((s.dropEntry t x).eccCore t x.index w) =
    true :=
  ⟨onTiller { running [{ engine := 0, inst := { mn := .ldW, sd := 31#5 }, issue := 990, done := 1000, rows := [32] }] with dmUe := [1] }, 191, 0,
    { engine := 0, inst := { mn := .ldW, sd := 31#5 }, issue := 990, done := 1000, rows := [32] }, none, 1, by decide +kernel⟩

theorem test_engineResultsLand_4 : ∃ s : State, ∃ t k : Nat, ∃ x : Entry, ∃ ecc w, t < 192 ∧ s.live = true ∧ (s.tl t).checker[k]? = some x ∧ x.async =
    false ∧ (s.tl t).mayComplete x.engine = true ∧ x.done ≤ s.clk.core ∧ (x.inst.ast = false ∨ astRows x.inst ≤ x.rows.length) ∧ (x.inst.mn ≠ .trLdprog ∨
    x.finished = true) ∧ x.badLoad (s.tl t).dmUe ecc = none ∧ x.badWord (s.tl t).spUe ecc = some w ∧ answers (exec (.engineResultComplete t k ecc) s)
    ((s.dropEntry t x).eccOperand t x.engine x.index w) = true :=
  ⟨onTiller
    { running [{ engine := 2, inst := { mn := .trCvt, ds := [{ fmt := 1#4, count := 32#24 }, { base := 0x2000#21, fmt := 1#4, count := 32#24 }] }, issue := 990, done := 1000, srcs := [(0, 3)], dsts := [(256, 259)] }] with spUe := [3] },
    191, 0,
    { engine := 2, inst := { mn := .trCvt, ds := [{ fmt := 1#4, count := 32#24 }, { base := 0x2000#21, fmt := 1#4, count := 32#24 }] }, issue := 990, done := 1000, srcs := [(0, 3)], dsts := [(256, 259)] },
    none, 3, by decide +kernel⟩

theorem test_engineResultsLand_5 : ∃ s : State, ∃ t k : Nat, ∃ x : Entry, ∃ ecc v, t < 192 ∧ s.live = true ∧ (s.tl t).checker[k]? = some x ∧ x.async =
    false ∧ (s.tl t).mayComplete x.engine = true ∧ x.done ≤ s.clk.core ∧ (x.inst.ast = false ∨ astRows x.inst ≤ x.rows.length) ∧ (x.inst.mn ≠ .trLdprog ∨
    x.finished = true) ∧ x.badLoad (s.tl t).dmUe ecc = none ∧ x.badWord (s.tl t).spUe ecc = none ∧ x.engine = 3 ∧ shearsFault x.inst (s.tl t).sp = some v
    ∧ answers (exec (.engineResultComplete t k ecc) s) ((s.dropEntry t x).fmtViolation t 3 x.index { v with written := 0 }) = true :=
  ⟨onTiller { running [{ engine := 3, inst := tmaskInst, issue := 990, done := 1000 }] with sp := tmaskHead.write 0x4000 [0xFF#8] }, 191, 0,
    { engine := 3, inst := tmaskInst, issue := 990, done := 1000 }, none, (shearsFault tmaskInst (tmaskHead.write 0x4000 [0xFF#8])).getD { reason := 0 },
    by decide +kernel⟩

theorem test_engineResultsLand_6 : ∃ s : State, ∃ t k : Nat, ∃ x : Entry, ∃ d v, t < 192 ∧ s.live = true ∧ (s.tl t).checker[k]? = some x ∧ x.async =
    false ∧ (s.tl t).mayComplete x.engine = true ∧ x.done ≤ s.clk.core ∧ (x.inst.ast = false ∨ astRows x.inst ≤ x.rows.length) ∧ (x.inst.mn ≠ .trLdprog ∨
    x.finished = true) ∧ x.inst.mn = .mul ∧ x.inst.ast = false ∧ x.badWord (s.tl t).spUe none = none ∧ x.engine = 0 ∧ x.regs = [d] ∧ x.inst.sd.toNat = d ∧
    x.vals = [v] ∧ 0 < d :=
  ⟨onTiller (running [{ engine := 0, inst := { mn := .mul, sd := 31#5 }, issue := 990, done := 1000, regs := [31], vals := [9#32] }]), 191, 0,
    { engine := 0, inst := { mn := .mul, sd := 31#5 }, issue := 990, done := 1000, regs := [31], vals := [9#32] }, 31, 9#32, by decide +kernel⟩

theorem test_engineResultsLand_7 : ∃ s : State, ∃ t k : Nat, ∃ x : Entry, ∃ a v, t < 192 ∧ s.live = true ∧ (s.tl t).checker[k]? = some x ∧ x.async =
    false ∧ (s.tl t).mayComplete x.engine = true ∧ x.done ≤ s.clk.core ∧ (x.inst.ast = false ∨ astRows x.inst ≤ x.rows.length) ∧ (x.inst.mn ≠ .trLdprog ∨
    x.finished = true) ∧ x.inst.mn = .spst ∧ x.inst.ast = false ∧ x.badWord (s.tl t).spUe none = none ∧ x.engine = 0 ∧ x.rows = [a] ∧ x.vals = [v] :=
  ⟨onTiller (running [{ engine := 0, inst := { mn := .spst, sd := 31#5 }, issue := 990, done := 1000, rows := [0x1FFFF0], vals := [9#32] }]), 191, 0,
    { engine := 0, inst := { mn := .spst, sd := 31#5 }, issue := 990, done := 1000, rows := [0x1FFFF0], vals := [9#32] }, 0x1FFFF0, 9#32,
    by decide +kernel⟩

theorem test_engineEventsTakeEffect_1 : ∃ s : State, ∃ t : Nat, ∃ x : Entry, ∃ ecc, t < 192 ∧ s.live = true ∧ (s.tl t).sparse? = some x ∧ (s.tl
    t).mayComplete 1 = true ∧ s.sparseFault t x = none ∧ s.sparseEnd t x ≤ s.clk.core ∧ x.badWord (s.tl t).spUe ecc = none ∧ answers (exec
    (.sparseMmComplete t ecc) s) ((s.modT t fun T =>
    { T.healed x with sp := runSparse x (T.copyOf x.index) T.sp (x.inst.desc 2).rows, engProg := SMap.set zeroAt 1 s.t3 T.engProg }).finishAsync t x) =
    true :=
  ⟨onTiller { running [{ engine := 1, inst := sparseInst .mmGs, async := true, issue := 0 }] with sp := sparseHead }, 191,
    { engine := 1, inst := sparseInst .mmGs, async := true, issue := 0 }, none, by decide +kernel⟩

theorem test_engineEventsTakeEffect_2 : ∃ s : State, ∃ t : Nat, ∃ x : Entry, ∃ ecc w, t < 192 ∧ s.live = true ∧ (s.tl t).sparse? = some x ∧ (s.tl
    t).mayComplete 1 = true ∧ s.sparseFault t x = none ∧ s.sparseEnd t x ≤ s.clk.core ∧ x.badWord (s.tl t).spUe ecc = some w ∧ answers (exec
    (.sparseMmComplete t ecc) s) ((s.dropEntry t x).eccOperand t 1 x.index w) = true :=
  ⟨onTiller { running [{ engine := 1, inst := sparseInst .mmGs, async := true, issue := 0, srcs := [(0x300, 0x300)] }] with sp := sparseHead }, 191,
    { engine := 1, inst := sparseInst .mmGs, async := true, issue := 0, srcs := [(0x300, 0x300)] }, some 0x300, 0x300, by decide +kernel⟩

theorem test_engineEventsTakeEffect_3 : ∃ s : State, ∃ t : Nat, ∃ x : Entry, ∃ c v, t < 192 ∧ s.live = true ∧ (s.tl t).sparse? = some x ∧ (s.tl
    t).mayComplete 1 = true ∧ s.sparseFault t x = some (c, v) ∧ c ≤ s.clk.core ∧ answers (exec (.sparseBandFault t) s) ((s.modT t fun T =>
    { T with sp := runSparse x (T.copyOf x.index) T.sp v.written, checker := T.checker.filter fun y => y != x }).fmtViolation t 1 x.index v) = true :=
  ⟨onTiller { running [{ engine := 1, inst := sparseInst .mmGs, async := true, issue := 0 }] with sp := sparseHead.write 0x4000 [0xFF#8] }, 191,
    { engine := 1, inst := sparseInst .mmGs, async := true, issue := 0 }, (((onTiller
    { running [{ engine := 1, inst := sparseInst .mmGs, async := true, issue := 0 }] with sp := sparseHead.write 0x4000 [0xFF#8] }).sparseFault 191
    { engine := 1, inst := sparseInst .mmGs, async := true, issue := 0 }).getD (0, { reason := 0 })).1, (((onTiller
    { running [{ engine := 1, inst := sparseInst .mmGs, async := true, issue := 0 }] with sp := sparseHead.write 0x4000 [0xFF#8] }).sparseFault 191
    { engine := 1, inst := sparseInst .mmGs, async := true, issue := 0 }).getD (0, { reason := 0 })).2, by decide +kernel⟩

theorem test_engineEventsTakeEffect_4 : ∃ s : State, ∃ t : Nat, ∃ x : Entry, ∃ ecc w, t < 192 ∧ s.live = true ∧ (s.tl t).ldprog? s.clk.core = some x ∧
    x.badWord (s.tl t).spUe ecc = some w ∧ answers (exec (.trLdprogCheck t ecc) s) ((s.dropEntry t x).eccOperand t 2 x.index w) = true :=
  ⟨onTiller { running [{ ldprog with srcs := [(0, 1)] }] with sp := movProgram, spUe := [1] }, 191, { ldprog with srcs := [(0, 1)] }, none, 1,
    by decide +kernel⟩

theorem test_engineEventsTakeEffect_5 : ∃ s : State, ∃ t : Nat, ∃ x : Entry, ∃ ecc, ∃ b, b = (((x.inst.desc 0).rowBytes (s.tl t).sp (x.rowsOf 0)).take
    (4 * (x.inst.desc 0).count.toNat)) ∧ t < 192 ∧ s.live = true ∧ (s.tl t).ldprog? s.clk.core = some x ∧ x.badWord (s.tl t).spUe ecc = none ∧ progFault b
    (s.dev.mode.getLsbD 0 && (s.tl t).img.seed.isNone) = none ∧ answers (exec (.trLdprogCheck t ecc) s) (s.modT t fun T =>
    { T with checker := T.checker.map (fun y => if y = x then { y with finished := true } else y), progs := SMap.set progAt (progIndex x.inst) (progOf b) T.progs })
    = true :=
  ⟨onTiller { running [ldprog] with sp := movProgram }, 191, ldprog, none, _, rfl, by decide +kernel⟩

theorem test_engineEventsTakeEffect_6 : ∃ s : State, ∃ t : Nat, ∃ x : Entry, ∃ ecc o, ∃ b, b = (((x.inst.desc 0).rowBytes (s.tl t).sp (x.rowsOf
    0)).take (4 * (x.inst.desc 0).count.toNat)) ∧ t < 192 ∧ s.live = true ∧ (s.tl t).ldprog? s.clk.core = some x ∧ x.badWord (s.tl t).spUe ecc = none ∧
    progFault b (s.dev.mode.getLsbD 0 && (s.tl t).img.seed.isNone) = some o ∧ answers (exec (.trLdprogCheck t ecc) s) ((s.modT t fun T =>
    { T with checker := T.checker.map fun y => if y = x then { y with finished := true } else y }).fmtViolation t 2 x.index
    { reason := 6, addr := (x.inst.desc 0).rowStart (x.rowsOf 0) 0 + o }) = true :=
  ⟨onTiller (running [ldprog]), 191, ldprog, none, 0, _, rfl, by decide +kernel⟩

theorem test_engineEventsTakeEffect_7 : ∃ s : State, ∃ t : Nat, ∃ x : Entry, ∃ e, t < 192 ∧ s.live = true ∧ 1 ≤ e ∧ e ≤ 4 ∧ (s.tl t).feeding e = some
    x ∧ (s.tl t).mayComplete e = true ∧ x.issue + x.rows.length * x.every ≤ s.clk.core ∧ SMap.get nilAt (s.tl t).fifos e = [] ∧ answers (exec
    (.astreamRowFetch t e) s) ((s.dropEntry t x).hazard t e x.index { cause := 8 }) = true :=
  ⟨onTiller (running [streamed]), 191, streamed, 1, by decide +kernel⟩

theorem test_engineEventsTakeEffect_8 : ∃ s : State, ∃ t : Nat, ∃ x : Entry, ∃ e a rest, ∃ s1, s1 = s.modT t (fun T =>
    { T with fifos := SMap.set nilAt e rest T.fifos }) ∧ t < 192 ∧ s.live = true ∧ 1 ≤ e ∧ e ≤ 4 ∧ (s.tl t).feeding e = some x ∧ (s.tl t).mayComplete e =
    true ∧ x.issue + x.rows.length * x.every ≤ s.clk.core ∧ SMap.get nilAt (s.tl t).fifos e = a :: rest ∧ (s.tl t).rowHazard s.clk.core x a.toNat = none ∧
    answers (exec (.astreamRowFetch t e) s) (s1.setEntry t x (x.takeRow a.toNat)) = true :=
  ⟨onTiller { running [streamed] with fifos := [(1, [0x1000#32, 0x2000#32])] }, 191, streamed, 1, 0x1000#32, [0x2000#32], _, rfl, by decide +kernel⟩

theorem test_engineEventsTakeEffect_9 : ∃ s : State, ∃ t : Nat, ∃ x : Entry, ∃ e a rest h, ∃ s1, s1 = s.modT t (fun T =>
    { T with fifos := SMap.set nilAt e rest T.fifos }) ∧ t < 192 ∧ s.live = true ∧ 1 ≤ e ∧ e ≤ 4 ∧ (s.tl t).feeding e = some x ∧ (s.tl t).mayComplete e =
    true ∧ x.issue + x.rows.length * x.every ≤ s.clk.core ∧ SMap.get nilAt (s.tl t).fifos e = a :: rest ∧ (s.tl t).rowHazard s.clk.core x a.toNat = some h
    ∧ answers (exec (.astreamRowFetch t e) s) ((s1.dropEntry t x).hazard t e x.index h) = true :=
  ⟨onTiller { running [streamed] with fifos := [(1, [0x1FFFE1#32])] }, 191, streamed, 1, 0x1FFFE1#32, [], (((onTiller
    { running [streamed] with fifos := [(1, [0x1FFFE1#32])] }).tl 191).rowHazard 1000 streamed 0x1FFFE1).getD { cause := 0 }, _, rfl, by decide +kernel⟩

theorem test_meshTransfersRun_1 : ∃ s : State, ∃ t k : Nat, ∃ x : Entry, ∃ ecc, t < 192 ∧ s.live = true ∧ s.moverEntry t k .mvMesh = some x ∧
    s.isShadow t = false ∧ x.started = none ∧ x.issue < s.clk.core ∧ s.clk.core % 256 = x.phase ∧ x.badWord (s.tl t).spUe ecc = none ∧ answers (exec
    (.meshSlotStart t k ecc) s) ((s.setEntry t x { x with started := some s.clk.core }).moverProgress t) = true :=
  ⟨meshed [meshEntry] [], 191, 0, meshEntry, none, by decide +kernel⟩

theorem test_meshTransfersRun_2 : ∃ s : State, ∃ t k : Nat, ∃ x : Entry, ∃ ecc w, t < 192 ∧ s.live = true ∧ s.moverEntry t k .mvMesh = some x ∧
    s.isShadow t = false ∧ x.started = none ∧ x.issue < s.clk.core ∧ s.clk.core % 256 = x.phase ∧ x.badWord (s.tl t).spUe ecc = some w ∧ answers (exec
    (.meshSlotStart t k ecc) s) ((s.dropEntry t x).eccOperand t 4 x.index w) = true :=
  ⟨meshed [{ meshEntry with srcs := [(0, 0)] }] [], 191, 0, { meshEntry with srcs := [(0, 0)] }, some 0, 0, by decide +kernel⟩

theorem test_meshTransfersRun_3 : ∃ s : State, ∃ t k : Nat, ∃ x : Entry, ∃ c y, t < 192 ∧ s.live = true ∧ s.moverEntry t k .mvMesh = some x ∧
    s.isShadow t = false ∧ x.started = some c ∧ x.arrived = false ∧ c + meshHops t (meshDest x.inst) + 2 ≤ s.clk.core ∧ (s.tl (meshDest x.inst)).openClaim
    (meshChannel x.inst) = some y ∧ meshBytes y.inst ≠ meshBytes x.inst ∧ answers (exec (.meshArrival t k) s) ((s.setEntry t x
    { x with arrived := true }).hazard (meshDest x.inst) 6 y.index
    { cause := 12, range := y.dsts.head?.map toInt2, otherEngine := 6, otherIndex := y.index }) = true :=
  ⟨meshed [{ meshEntry with started := some 900 }]
    [{ meshClaim with inst := { mn := .mvMrecv, imm := 0xF00#24, ds := [{ fmt := 9#4, count := 64#24 }] } }], 191, 0,
    { meshEntry with started := some 900 }, 900, { meshClaim with inst := { mn := .mvMrecv, imm := 0xF00#24, ds := [{ fmt := 9#4, count := 64#24 }] } },
    by decide +kernel⟩

theorem test_meshTransfersRun_4 : ∃ s : State, ∃ t k : Nat, ∃ x : Entry, ∃ c y, t < 192 ∧ s.live = true ∧ s.moverEntry t k .mvMesh = some x ∧
    s.isShadow t = false ∧ x.started = some c ∧ x.arrived = false ∧ c + meshHops t (meshDest x.inst) + 2 ≤ s.clk.core ∧ (s.tl (meshDest x.inst)).openClaim
    (meshChannel x.inst) = some y ∧ meshBytes y.inst = meshBytes x.inst ∧ answers (exec (.meshArrival t k) s) ((s.setEntry t x
    { x with arrived := true, admitted := true }).modT (meshDest x.inst) fun T =>
    { T with checker := T.checker.map fun z => if z = y then { z with arrived := true, peer := some (t, x.issue) } else z }) = true :=
  ⟨meshed [{ meshEntry with started := some 900 }] [meshClaim], 191, 0, { meshEntry with started := some 900 }, 900, meshClaim, by decide +kernel⟩

theorem test_meshTransfersRun_5 : ∃ s : State, ∃ t k : Nat, ∃ x : Entry, ∃ c, (t < 192 ∧ s.live = true ∧ s.moverEntry t k .mvMesh = some x ∧
    s.isShadow t = false ∧ x.started = some c ∧ x.arrived = false ∧ c + meshHops t (meshDest x.inst) + 2 ≤ s.clk.core ∧ (s.tl (meshDest x.inst)).openClaim
    (meshChannel x.inst) = none ∧ answers (exec (.meshArrival t k) s) ((s.setEntry t x { x with arrived := true }).hazard (meshDest x.inst) 6 0xFFFFFFFF
    { cause := 12 }) = true) ∧ (∀ n, (s.tl (meshDest x.inst)).ctx = some n → (s.ctx n).tear = none) :=
  ⟨meshed [{ meshEntry with started := some 900 }] [], 191, 0, { meshEntry with started := some 900 }, 900, by decide +kernel, fun n h => absurd (a :=
    (none : Option Nat) = some n) h (by simp)⟩

theorem test_meshTransfersRun_6 : ∃ s : State, ∃ t k : Nat, ∃ x : Entry, ∃ c y, t < 192 ∧ s.live = true ∧ s.moverEntry t k .mvMesh = some x ∧
    s.isShadow t = false ∧ x.started = some c ∧ x.arrived = true ∧ x.admitted = true ∧ meshEnd t x c ≤ s.clk.core ∧ (((s.moverProgress t).finishAsync t
    x).tl (meshDest x.inst)).checker.find? (fun z => z.inst.mn = .mvMrecv && z.peer == some (t, x.issue) && !z.finished) = some y ∧ answers (exec
    (.meshTransferComplete t k) s) (((((s.moverProgress t).finishAsync t x).modT (meshDest x.inst) fun T => T.putWords (y.inst.desc 0) [] (x.words (s.tl
    t))).recordIn (meshDest x.inst) (x.words (s.tl t))).finishAsync (meshDest x.inst) y) = true :=
  ⟨meshed [{ meshEntry with started := some 900, arrived := true, admitted := true }] [{ meshClaim with arrived := true, peer := some (191, 900) }],
    191, 0, { meshEntry with started := some 900, arrived := true, admitted := true }, 900, { meshClaim with arrived := true, peer := some (191, 900) },
    by decide +kernel⟩

theorem test_getAndPutComplete_1 : ∃ s : State, ∃ t k : Nat, ∃ x : Entry, ∃ ce, ∃ n, n = 32 * (x.inst.desc 0).words ∧ ∃ b, b = s.devRead x.devAddr
    (x.inst.desc 0).words ∧ t < 192 ∧ s.live = true ∧ s.isShadow t = false ∧ s.moverEntry t k .mvGet = some x ∧ s.accessOk t x.devAddr (x.inst.desc
    0).words = true ∧ s.devUe x.devAddr n = none ∧ answers (exec (.mvGetComplete t k false ce) s) ((((((s.devCorrected x.devAddr n ce).modT t fun T =>
    T.putWords (x.inst.desc 0) (x.rowsOf 0) b).recordIn t b).moverProgress t).finishAsync t x).astLeft t x) = true :=
  ⟨inCtx (running [devEntry .mvGet padAddr]), 191, 0, devEntry .mvGet padAddr, [], _, rfl, _, rfl, by decide +kernel⟩

theorem test_getAndPutComplete_2 : ∃ s : State, ∃ t k : Nat, ∃ x : Entry, ∃ ce w, ∃ n, n = 32 * (x.inst.desc 0).words ∧ ∃ b, b = s.devRead x.devAddr
    (x.inst.desc 0).words ∧ t < 192 ∧ s.live = true ∧ s.isShadow t = false ∧ s.moverEntry t k .mvGet = some x ∧ s.accessOk t x.devAddr (x.inst.desc
    0).words = true ∧ s.devUe x.devAddr n = some w ∧ answers (exec (.mvGetComplete t k false ce) s) ((s.countUe w).moverFault t x faultEcc w) = true :=
  ⟨inCtx { running [devEntry .mvGet padAddr] with spUe := [0] }, 191, 0, devEntry .mvGet padAddr, [], padAddr, _, rfl, _, rfl, by decide +kernel⟩

theorem test_getAndPutComplete_3 : ∃ s : State, ∃ t k : Nat, ∃ x : Entry, ∃ ce, ∃ n, n = 32 * (x.inst.desc 0).words ∧ ∃ b, b = s.devRead x.devAddr
    (x.inst.desc 0).words ∧ t < 192 ∧ s.live = true ∧ s.isShadow t = false ∧ s.moverEntry t k .mvGet = some x ∧ s.accessOk t x.devAddr (x.inst.desc
    0).words = true ∧ answers (exec (.mvGetComplete t k true ce) s) ((s.countUe x.devAddr).moverFault t x faultEcc x.devAddr) = true :=
  ⟨inCtx (running [devEntry .mvGet padAddr]), 191, 0, devEntry .mvGet padAddr, [], _, rfl, _, rfl, by decide +kernel⟩

theorem test_getAndPutComplete_4 : ∃ s : State, ∃ t k : Nat, ∃ x : Entry, ∃ ce ecc, ∃ n, n = 32 * (x.inst.desc 0).words ∧ ∃ b, b = s.devRead x.devAddr
    (x.inst.desc 0).words ∧ t < 192 ∧ s.live = true ∧ s.isShadow t = false ∧ s.moverEntry t k .mvGet = some x ∧ s.accessOk t x.devAddr (x.inst.desc
    0).words = false ∧ answers (exec (.mvGetComplete t k ecc ce) s) (s.moverFault t x faultNotPresent x.devAddr) = true :=
  ⟨inCtx (running [devEntry .mvGet 0]), 191, 0, devEntry .mvGet 0, [], false, _, rfl, _, rfl, by decide +kernel⟩

theorem test_getAndPutComplete_5 : ∃ s : State, ∃ t k : Nat, ∃ x : Entry, ∃ ecc, ∃ bad, bad = x.badWord (s.tl t).spUe (if ecc then x.srcs.head?.map
    (·.1) else none) ∧ t < 192 ∧ s.live = true ∧ s.isShadow t = false ∧ s.moverEntry t k .mvPut = some x ∧ bad = none ∧ s.accessOk t x.devAddr
    (x.inst.desc 0).words = true ∧ answers (exec (.mvPutComplete t k ecc) s) (((((s.recordOut t (if x.inst.ast then x.words (s.tl t) else [])).devWrite
    x.devAddr (x.words (s.tl t))).moverProgress t).finishAsync t x).astLeft t x) = true :=
  ⟨inCtx (running [devEntry .mvPut padAddr]), 191, 0, devEntry .mvPut padAddr, false, _, rfl, by decide +kernel⟩

theorem test_getAndPutComplete_6 : ∃ s : State, ∃ t k : Nat, ∃ x : Entry, ∃ ecc w, ∃ bad, bad = x.badWord (s.tl t).spUe (if ecc then x.srcs.head?.map
    (·.1) else none) ∧ t < 192 ∧ s.live = true ∧ s.isShadow t = false ∧ s.moverEntry t k .mvPut = some x ∧ bad = some w ∧ answers (exec (.mvPutComplete t
    k ecc) s) ((s.dropEntry t x).eccOperand t 4 x.index w) = true :=
  ⟨inCtx { running [{ devEntry .mvPut padAddr with srcs := [(128, 128)] }] with spUe := [128] }, 191, 0,
    { devEntry .mvPut padAddr with srcs := [(128, 128)] }, false, 128, _, rfl, by decide +kernel⟩

theorem test_getAndPutComplete_7 : ∃ s : State, ∃ t k : Nat, ∃ x : Entry, ∃ ecc, ∃ bad, bad = x.badWord (s.tl t).spUe (if ecc then x.srcs.head?.map
    (·.1) else none) ∧ t < 192 ∧ s.live = true ∧ s.isShadow t = false ∧ s.moverEntry t k .mvPut = some x ∧ bad = none ∧ s.accessOk t x.devAddr
    (x.inst.desc 0).words = false ∧ answers (exec (.mvPutComplete t k ecc) s) (s.moverFault t x faultNotPresent x.devAddr) = true :=
  ⟨inCtx (running [devEntry .mvPut 0]), 191, 0, devEntry .mvPut 0, false, _, rfl, by decide +kernel⟩

theorem test_tillersSendAndReceive_1 : ∃ s : State, ∃ t : Nat, ∃ q p i s1 ecc, t < 192 ∧ s.live = true ∧ s.isShadow t = false ∧ (s.tl t).sendQ.head? =
    some q ∧ (s.tl t).mayComplete 4 = true ∧ q.issue = none ∧ s.enter q.bytes 37 (some t) = some (some (p, i), s1) ∧ answers (exec (.mvSendAdmit t ecc) s)
    ((s1.popSend t).enqueue i p) = true :=
  ⟨onTiller { reaching {} with sendQ := [{ bytes := tillerBytes }] }, 191, { bytes := tillerBytes }, (entered (onTiller
    { reaching {} with sendQ := [{ bytes := tillerBytes }] }) tillerBytes 37 (some 191)).1.1, (entered (onTiller
    { reaching {} with sendQ := [{ bytes := tillerBytes }] }) tillerBytes 37 (some 191)).1.2, (entered (onTiller
    { reaching {} with sendQ := [{ bytes := tillerBytes }] }) tillerBytes 37 (some 191)).2, none, by decide +kernel⟩

theorem test_tillersSendAndReceive_2 : ∃ s : State, ∃ t : Nat, ∃ q c x ecc r s1, t < 192 ∧ s.live = true ∧ s.isShadow t = false ∧ (s.tl t).sendQ.head?
    = some q ∧ (s.tl t).mayComplete 4 = true ∧ q.issue = some c ∧ (s.tl t).sendEntry c = some x ∧ x.allFed = true ∧ x.badWord (s.tl t).spUe ecc = none ∧
    s.enter (if x.inst.ast then x.inst.sendPacket (s.tl t).sp x.rows else q.bytes) 37 (some t) = some (r, s1) ∧ answers (exec (.mvSendAdmit t ecc) s)
    (((s1.popSend t).setEntry t x { x with admitted := true, pkt := r.map (·.1) }).moverProgress t) = true :=
  ⟨onTiller { running [sendEntry] with sendQ := [{ bytes := tillerBytes, issue := some 900 }] }, 191, { bytes := tillerBytes, issue := some 900 },
    900, sendEntry, none, some (entered (onTiller { running [sendEntry] with sendQ := [{ bytes := tillerBytes, issue := some 900 }] }) tillerBytes 37
    (some 191)).1, (entered (onTiller { running [sendEntry] with sendQ := [{ bytes := tillerBytes, issue := some 900 }] }) tillerBytes 37 (some 191)).2,
    by decide +kernel⟩

theorem test_tillersSendAndReceive_3 : ∃ s : State, ∃ t : Nat, ∃ q c x ecc w, t < 192 ∧ s.live = true ∧ s.isShadow t = false ∧ (s.tl t).sendQ.head? =
    some q ∧ (s.tl t).mayComplete 4 = true ∧ q.issue = some c ∧ (s.tl t).sendEntry c = some x ∧ x.allFed = true ∧ x.badWord (s.tl t).spUe ecc = some w ∧
    answers (exec (.mvSendAdmit t ecc) s) (((s.popSend t).dropEntry t x).eccOperand t 4 x.index w) = true :=
  ⟨onTiller { running [{ sendEntry with srcs := [(0, 0)] }] with sendQ := [{ bytes := tillerBytes, issue := some 900 }] }, 191,
    { bytes := tillerBytes, issue := some 900 }, 900, { sendEntry with srcs := [(0, 0)] }, some 0, 0, by decide +kernel⟩

theorem test_tillersSendAndReceive_4 : ∃ s : State, ∃ t : Nat, ∃ x p i, t < 192 ∧ s.live = true ∧ s.isShadow t = false ∧ (s.tl t).checker.find? (fun x
    => x.inst.mn = .mvSend && x.admitted && !x.finished) = some x ∧ (s.tl t).mayComplete 4 = true ∧ x.pkt = some p ∧ s.sliceFor 37 t = some i ∧ answers
    (exec (.mvSendComplete t) s) (((((s.enqueue i p).moverProgress t).finishAsync t x).exemptEnds t).astLeft t x) = true :=
  ⟨onTiller (running [{ sendEntry with admitted := true, pkt := some somePacket }]), 191, { sendEntry with admitted := true, pkt := some somePacket },
    somePacket, 3, by decide +kernel⟩

theorem test_tillersSendAndReceive_5 : ∃ s : State, ∃ t : Nat, ∃ q, ∃ s1, s1 = s.modFab (fun b => { b with transit := b.transit.erase q }) ∧ t < 192 ∧
    s.live = true ∧ s.isShadow t = false ∧ s.fab.transit.find? (fun q => q.1 == t) = some q ∧ (s.tl t).recvQ.length < recvMax :=
  ⟨{ (onTiller (reaching {})) with fab := { transit := [(191, somePacket)] } }, 191, (191, somePacket), _, rfl, by decide +kernel⟩

theorem test_tillersSendAndReceive_6 : ∃ s : State, ∃ t : Nat, ∃ q w, ∃ s1, s1 = s.modFab (fun b => { b with transit := b.transit.erase q }) ∧ t < 192
    ∧ s.live = true ∧ s.isShadow t = false ∧ s.fab.transit.find? (fun q => q.1 == t) = some q ∧ (s.tl t).recvQ.length < recvMax ∧ w < 2 ∧ answers (exec
    (.receiveQueueArrival t (some w)) s) (s1.dropPkt q.2 37 dropEcc) = true :=
  ⟨{ (onTiller (reaching {})) with fab := { transit := [(191, somePacket)] } }, 191, (191, somePacket), 1, _, rfl, by decide +kernel⟩

theorem test_tillersSendAndReceive_7 : ∃ s : State, ∃ t : Nat, ∃ q w, ∃ s1, s1 = s.modFab (fun b => { b with transit := b.transit.erase q }) ∧ t < 192
    ∧ s.live = true ∧ s.isShadow t = false ∧ s.fab.transit.find? (fun q => q.1 == t) = some q ∧ (s.tl t).recvQ.length < recvMax ∧ 2 ≤ w :=
  ⟨{ (onTiller (reaching {})) with fab := { transit := [(191, somePacket)] } }, 191, (191, somePacket), 2, _, rfl, by decide +kernel⟩

theorem test_tillersSendAndReceive_8 : ∃ s : State, ∃ t : Nat, ∃ x p rest, t < 192 ∧ s.live = true ∧ s.isShadow t = false ∧ (s.tl t).recvClaim = some
    x ∧ (s.tl t).mayComplete 4 = true ∧ (s.tl t).recvQ = p :: rest ∧ (p.kind = 1 → p.origin ≠ 0) :=
  ⟨onTiller { running [recvEntry] with recvQ := [{ somePacket with bytes := tillerBytes }] }, 191, recvEntry,
    { somePacket with bytes := tillerBytes }, [], by decide +kernel⟩

theorem test_contextsAreCreatedAndLoaded_1 : ∃ s : State, ∃ c : Nat, ∃ k : Cmd, ∃ x, s.carries 0x0201 c k ∧ fieldAt k.params 0 1 ≤ 1 ∧ fieldAt
    k.params 2 2 = 0 ∧ s.freeCtx = some x ∧ answers (exec (.ctxCreate c) s) (((s.take c).modCtx x fun _ =>
    { live := true, ring := fieldAt k.params 1 1, diag := fieldAt k.params 0 1 == 1 }).finish c stOk [x, (s.epoch x).toNat]) = true :=
  ⟨given { booted with ctxs := [(0, { live := true })] } 0x0201 (fields 4 [(0, 1, 1), (1, 1, 255)]), 1, cmd 0x0201 (fields 4 [(0, 1, 1), (1, 1,
    255)]), 1, by decide +kernel⟩

theorem test_contextsAreCreatedAndLoaded_2 : ∃ s : State, ∃ c : Nat, ∃ k : Cmd, s.carries 0x0201 c k ∧ fieldAt k.params 0 1 ≤ 1 ∧ fieldAt k.params 2 2
    = 0 ∧ s.freeCtx = none ∧ answers (exec (.ctxCreate c) s) ((s.take c).finish c stNoFit) = true :=
  ⟨given { booted with ctxs := (List.range 256).map fun i => (i, ({ live := true } : Ctx)) } 0x0201 (fields 4 []), 1, cmd 0x0201 (fields 4 []),
    by decide +kernel⟩

theorem test_contextsAreCreatedAndLoaded_3 : ∃ s : State, ∃ c : Nat, ∃ k : Cmd, s.carries 0x0201 c k ∧ (1 < fieldAt k.params 0 1 ∨ fieldAt k.params 2
    2 ≠ 0) ∧ answers (exec (.ctxCreate c) s) ((s.take c).finish c stBadParam) = true :=
  ⟨given booted 0x0201 (fields 4 [(0, 1, 2)]), 1, cmd 0x0201 (fields 4 [(0, 1, 2)]), by decide +kernel⟩

theorem test_contextsAreCreatedAndLoaded_4 : ∃ s : State, ∃ c : Nat, ∃ k : Cmd, ∃ x img sizes phases, ∃ s1, s1 = s.take c ∧ s.carries 0x0202 c k ∧
    fieldAt k.params 0 4 = x ∧ loadFieldsOk k img = false ∧ answers (exec (.ctxLoad c img sizes phases) s) (s1.finish c stBadParam) = true :=
  ⟨given { booted with ctxs := [(9, { live := true })] } 0x0202 (fields 28 [(0, 4, 9), (8, 8, 0x40)]), 1, cmd 0x0202 (fields 28 [(0, 4, 9), (8, 8,
    0x40)]), 9, [1#8], [3], [], _, rfl, by decide +kernel⟩

theorem test_contextsAreCreatedAndLoaded_5 : ∃ s : State, ∃ c : Nat, ∃ k : Cmd, ∃ x img sizes phases, ∃ s1, s1 = s.take c ∧ s.carries 0x0202 c k ∧
    fieldAt k.params 0 4 = x ∧ loadFieldsOk k img = true ∧ s.ctxOk x = false ∧ answers (exec (.ctxLoad c img sizes phases) s) (s1.finish c stContextGone)
    = true :=
  ⟨given booted 0x0202 (fields 28 [(0, 4, 9), (8, 8, 0x40)]), 1, cmd 0x0202 (fields 28 [(0, 4, 9), (8, 8, 0x40)]), 9, [], [3], [], _, rfl,
    by decide +kernel⟩

theorem test_contextsAreCreatedAndLoaded_6 : ∃ s : State, ∃ c : Nat, ∃ k : Cmd, ∃ x img sizes phases, ∃ s1, s1 = s.take c ∧ s.carries 0x0202 c k ∧
    fieldAt k.params 0 4 = x ∧ loadFieldsOk k img = true ∧ s.ctxOk x = true ∧ (s.ctx x).loaded = true ∧ answers (exec (.ctxLoad c img sizes phases) s)
    (s1.finish c stBadParam) = true :=
  ⟨given { booted with ctxs := [(9, { live := true, loaded := true })] } 0x0202 (fields 28 [(0, 4, 9), (8, 8, 0x40)]), 1, cmd 0x0202 (fields 28 [(0,
    4, 9), (8, 8, 0x40)]), 9, [], [3], [], _, rfl, by decide +kernel⟩

theorem test_contextsAreCreatedAndLoaded_9 : ∃ s : State, ∃ c : Nat, ∃ k : Cmd, ∃ x img sizes phases, ∃ s1, s1 = s.take c ∧ s.carries 0x0202 c k ∧
    fieldAt k.params 0 4 = x ∧ loadFieldsOk k img = true ∧ s.ctxOk x = true ∧ (s.ctx x).loaded = false ∧ s1.loadImage { cmd := some c } x img sizes phases
    = .empty ∧ answers (exec (.ctxLoad c img sizes phases) s) ((s1.finish c (s1.loadStatus x img sizes phases)).leaveQueue { cmd := some c }) = true :=
  ⟨given { booted with ctxs := [(9, { live := true })] } 0x0202 (fields 28 [(0, 4, 9), (8, 8, 0x40)]), 1, cmd 0x0202 (fields 28 [(0, 4, 9), (8, 8,
    0x40)]), 9, [], [3], [], _, rfl, by decide +kernel⟩

theorem test_contextsStartStopAndEnd_1 : ∃ s : State, ∃ c x : Nat, ∃ k : Cmd, s.carries 0x0203 c k ∧ fieldAt k.params 0 4 = x ∧ s.clk.core % 256 = 0 ∧
    s.ctxOk x = true ∧ (s.ctx x).loaded = true ∧ (s.ctx x).started = false :=
  ⟨given { (inCtx {}) with ctxs := [(9, { live := true, loaded := true, tillers := [191] })], clk := { core := 1024 } } 0x0203 (fields 8 [(0, 4, 9)]),
    1, 9, cmd 0x0203 (fields 8 [(0, 4, 9)]), by decide +kernel⟩

theorem test_contextsStartStopAndEnd_2 : ∃ s : State, ∃ c x : Nat, ∃ k : Cmd, s.carries 0x0203 c k ∧ fieldAt k.params 0 4 = x ∧ s.clk.core % 256 = 0 ∧
    s.ctxOk x = true ∧ ((s.ctx x).loaded = false ∨ (s.ctx x).started = true) ∧ answers (exec (.ctxStart c) s) ((s.take c).finish c stBadParam) = true :=
  ⟨given { (inCtx {}) with clk := { core := 1024 } } 0x0203 (fields 8 [(0, 4, 9)]), 1, 9, cmd 0x0203 (fields 8 [(0, 4, 9)]), by decide +kernel⟩

theorem test_contextsStartStopAndEnd_3 : ∃ s : State, ∃ c x : Nat, ∃ k : Cmd, s.carries 0x0203 c k ∧ fieldAt k.params 0 4 = x ∧ s.clk.core % 256 = 0 ∧
    s.ctxOk x = false ∧ answers (exec (.ctxStart c) s) ((s.take c).finish c stContextGone) = true :=
  ⟨given { booted with clk := { core := 1024 } } 0x0203 (fields 8 [(0, 4, 9)]), 1, 9, cmd 0x0203 (fields 8 [(0, 4, 9)]), by decide +kernel⟩

theorem test_contextsStartStopAndEnd_4 : ∃ s : State, ∃ c x : Nat, ∃ k : Cmd, ∃ ms, ms = fieldAt k.params 4 4 ∧ s.carries 0x0204 c k ∧ fieldAt
    k.params 0 4 = x ∧ ms ≤ 60000 ∧ s.ctxOk x = true ∧ (s.ctx x).everStarted = true ∧ answers (exec (.ctxStop c) s) (((s.ctx x).tillers.foldl (fun s t =>
    s.modT t fun T => { T with stopReq := T.run == .running }) ((s.take c).modCtx x fun C =>
    { C with stops := C.stops ++ [(c, s.t3 + msec (if ms = 0 then 1000 else ms))] })).stopCheck x) = true :=
  ⟨given (inCtx (heldBy .fence)) 0x0204 (fields 8 [(0, 4, 9), (4, 4, 60000)]), 1, 9, cmd 0x0204 (fields 8 [(0, 4, 9), (4, 4, 60000)]), _, rfl,
    by decide +kernel⟩

theorem test_contextsStartStopAndEnd_5 : ∃ s : State, ∃ c x : Nat, ∃ k : Cmd, ∃ ms, ms = fieldAt k.params 4 4 ∧ s.carries 0x0204 c k ∧ fieldAt
    k.params 0 4 = x ∧ 60000 < ms ∧ answers (exec (.ctxStop c) s) ((s.take c).finish c stBadParam) = true :=
  ⟨given (inCtx (heldBy .fence)) 0x0204 (fields 8 [(0, 4, 9), (4, 4, 60001)]), 1, 9, cmd 0x0204 (fields 8 [(0, 4, 9), (4, 4, 60001)]), _, rfl,
    by decide +kernel⟩

theorem test_contextsStartStopAndEnd_6 : ∃ s : State, ∃ c x : Nat, ∃ k : Cmd, ∃ ms, ms = fieldAt k.params 4 4 ∧ s.carries 0x0204 c k ∧ fieldAt
    k.params 0 4 = x ∧ ms ≤ 60000 ∧ s.ctxOk x = false ∧ answers (exec (.ctxStop c) s) ((s.take c).finish c stContextGone) = true :=
  ⟨given booted 0x0204 (fields 8 [(0, 4, 9)]), 1, 9, cmd 0x0204 (fields 8 [(0, 4, 9)]), _, rfl, by decide +kernel⟩

theorem test_contextsStartStopAndEnd_7 : ∃ s : State, ∃ c x : Nat, ∃ k : Cmd, ∃ ms, ms = fieldAt k.params 4 4 ∧ s.carries 0x0204 c k ∧ fieldAt
    k.params 0 4 = x ∧ ms ≤ 60000 ∧ s.ctxOk x = true ∧ (s.ctx x).everStarted = false ∧ answers (exec (.ctxStop c) s) ((s.take c).finish c stBadParam) =
    true :=
  ⟨given { booted with ctxs := [(9, { live := true, loaded := true })] } 0x0204 (fields 8 [(0, 4, 9)]), 1, 9, cmd 0x0204 (fields 8 [(0, 4, 9)]), _,
    rfl, by decide +kernel⟩

theorem test_contextsStartStopAndEnd_8 : ∃ s : State, ∃ x : Nat, ∃ late, late = (s.ctx x).stops.filter (fun p => decide (p.2 ≤ s.t3)) ∧ ∃ run, run =
    (s.ctx x).tillers.filter (fun t => (s.tl t).run = .running) ∧ x < 256 ∧ s.live = true ∧ late ≠ [] ∧ answers (exec (.ctxStopTimeout x) s) (((late.foldl
    (fun s p => s.finish p.1 stTimeout [run.length]) (run.foldl State.stopTiller s)).modCtx x fun C =>
    { C with stops := C.stops.filter fun p => !late.contains p, started := false }).stopCheck x) = true :=
  ⟨{ (inCtx (heldBy .fence)) with ctxs := [(9, { live := true, tillers := [191], stops := [(4, 3000), (5, 3001)] })] }, 9, _, rfl, _, rfl,
    by decide +kernel⟩

theorem test_contextsStartStopAndEnd_9 : ∃ s : State, ∃ c x : Nat, ∃ k : Cmd, s.carries 0x0205 c k ∧ fieldAt k.params 0 4 = x ∧ s.ctxOk x = true ∧
    answers (exec (.ctxTeardown c) s) ((s.take c).tearBegin x (some c)) = true :=
  ⟨given (inCtx (heldBy .fence)) 0x0205 (fields 8 [(0, 4, 9)]), 1, 9, cmd 0x0205 (fields 8 [(0, 4, 9)]), by decide +kernel⟩

theorem test_contextsStartStopAndEnd_10 : ∃ s : State, ∃ c x : Nat, ∃ k : Cmd, s.carries 0x0205 c k ∧ fieldAt k.params 0 4 = x ∧ s.ctxOk x = false ∧
    answers (exec (.ctxTeardown c) s) ((s.take c).finish c stContextGone) = true :=
  ⟨given booted 0x0205 (fields 8 [(0, 4, 9)]), 1, 9, cmd 0x0205 (fields 8 [(0, 4, 9)]), by decide +kernel⟩

theorem test_contextsStartStopAndEnd_11 : ∃ s : State, ∃ x : Nat, ∃ t e r, t < 192 ∧ e < 6 ∧ s.live = true ∧ (s.tl t).ctx = some x ∧ (s.ctx x).tear =
    some r ∧ r.step = 1 ∧ s.after r.since (usec 100) = true ∧ (s.tl t).reset = none ∧ (s.tl t).working s.clk.core e = true ∧ answers (exec
    (.teardownEngineTimeout t e) s) ((s.discardSteps t).beginReset t [e] 0 none) = true :=
  ⟨{ (inCtx { heldBy .fence with busy := [(4, 200000)] }) with clk := { third := 300000, core := 100000 }, ctxs := [(9, { live := true, tillers := [191], tear := some {} })] },
    9, 191, 4, {}, by decide +kernel⟩

theorem test_seedbankServes_1 : ∃ s : State, ∃ c : Nat, ∃ k : Cmd, ∃ p, ∃ (q : SbReq), q =
    { cmd := some c, owner := fieldAt k.params 0 2, pool := p, list := fieldAt k.params 3 1, zero := fieldAt k.params 4 1 == 1 } ∧ s.carries 0x0602 c k ∧
    allocPool (fieldAt k.params 2 1) (fieldAt k.params 8 8) = some p ∧ listExists p (fieldAt k.params 3 1) = true ∧ (fieldAt k.params 0 2 ≤ 255 ∨ fieldAt
    k.params 0 2 = 0x101) ∧ fieldAt k.params 4 1 ≤ 1 ∧ fieldAt k.params 5 3 = 0 ∧ answers (exec (.bufAlloc c) s) ((s.take c).sbAsk q) = true :=
  ⟨given booted 0x0602 (fields 16 [(0, 2, 257), (2, 1, 255), (3, 1, 15), (8, 8, 65536)]), 1, cmd 0x0602 (fields 16 [(0, 2, 257), (2, 1, 255), (3, 1,
    15), (8, 8, 65536)]), 1, _, rfl, by decide +kernel⟩

theorem test_seedbankServes_2 : ∃ s : State, ∃ c : Nat, ∃ k : Cmd, s.carries 0x0602 c k ∧ allocPool (fieldAt k.params 2 1) (fieldAt k.params 8 8) =
    none ∧ answers (exec (.bufAlloc c) s) ((s.take c).finish c stBadParam) = true :=
  ⟨given booted 0x0602 (fields 16 [(0, 2, 257), (2, 1, 255), (3, 1, 15), (8, 8, 2 ^ 40)]), 1, cmd 0x0602 (fields 16 [(0, 2, 257), (2, 1, 255), (3, 1,
    15), (8, 8, 2 ^ 40)]), by decide +kernel⟩

theorem test_seedbankServes_3 : ∃ s : State, ∃ q : SbReq, ∃ (L : Nat), L = s.chooseList q.pool q.list ∧ q.owner < 0x100 ∧ s.ctxOk q.owner = false :=
  ⟨booted, { owner := 3 }, _, rfl, by decide +kernel⟩

theorem test_seedbankServes_4 : ∃ s : State, ∃ q : SbReq, ∃ l b, ∃ (L : Nat), L = s.chooseList q.pool q.list ∧ (q.owner < 0x100 → s.ctxOk q.owner =
    true) ∧ s.mustWait { q with mark := true } L = some (.list l b) :=
  ⟨{ booted with seed := { lists := [(0, { rebuilding := true })] } }, { owner := 0x101, list := 0 }, 0, none, _, rfl, by decide +kernel⟩

theorem test_seedbankServes_5 : ∃ s : State, ∃ q : SbReq, ∃ d, ∃ (L : Nat), L = s.chooseList q.pool q.list ∧ (q.owner < 0x100 → s.ctxOk q.owner =
    true) ∧ s.mustWait { q with mark := true } L = some (.domain d) :=
  ⟨{ booted with pwr := {} }, { owner := 0x101, list := 3 }, 47, _, rfl, by decide +kernel⟩

theorem test_seedbankServes_6 : ∃ s : State, ∃ q : SbReq, ∃ (L : Nat), L = s.chooseList q.pool q.list ∧ (q.owner < 0x100 → s.ctxOk q.owner = true) ∧
    s.mustWait { q with mark := true } L = none ∧ (s.mayTake q.owner q.pool = false ∨ s.listFree L = 0 ∨ s.listHead L = none) :=
  ⟨booted, { owner := 0x101, pool := 4, list := 0 }, _, rfl, by decide +kernel⟩

theorem test_seedbankServes_7 : ∃ s : State, ∃ q : SbReq, ∃ i, ∃ (L : Nat), L = s.chooseList q.pool q.list ∧ (q.owner < 0x100 → s.ctxOk q.owner =
    true) ∧ s.mustWait { q with mark := true } L = none ∧ s.mayTake q.owner q.pool = true ∧ 0 < s.listFree L ∧ s.listHead L = some i ∧ s.headerOk L i =
    true :=
  ⟨booted, { owner := 0x101, list := 0 }, 0, _, rfl, by decide +kernel⟩

theorem test_seedbankServes_8 : ∃ s : State, ∃ q : SbReq, ∃ i, ∃ (L : Nat), L = s.chooseList q.pool q.list ∧ (q.owner < 0x100 → s.ctxOk q.owner =
    true) ∧ s.mustWait { q with mark := true } L = none ∧ s.mayTake q.owner q.pool = true ∧ 0 < s.listFree L ∧ s.listHead L = some i ∧ s.headerOk L i =
    false :=
  ⟨{ booted with mem := { ue := [booted.bufAddr 0 0 / 32] } }, { owner := 0x101, list := 0 }, 0, _, rfl, by decide +kernel⟩

theorem test_seedbankServes_9 : ∃ s : State, ∃ c : Nat, ∃ k : Cmd, ∃ L i : Nat, s.carries 0x0603 c k ∧ fieldAt k.params 2 6 = 0 ∧ (fieldAt k.params 0
    2 < 0x100 → s.ctxOk (fieldAt k.params 0 2) = true) ∧ s.bufferOf (fieldAt k.params 8 8) = some (L, i) ∧ s.bufAddr L i = fieldAt k.params 8 8 ∧
    (s.sbEntry L i).alloc = true ∧ (s.sbEntry L i).quar = false ∧ (s.sbEntry L i).owner = fieldAt k.params 0 2 ∧ (s.sbEntry L i).slot = none ∧ answers
    (exec (.bufFree c) s) (((s.take c).giveBack L i).finish c stOk) = true :=
  ⟨given (lent 12 0 0x101) 0x0603 (fields 16 [(0, 2, 0x101), (8, 8, 0)]), 1, cmd 0x0603 (fields 16 [(0, 2, 0x101), (8, 8, 0)]), 12, 0,
    by decide +kernel⟩

theorem test_seedbankServes_10 : ∃ s : State, ∃ c : Nat, ∃ k : Cmd, ∃ L i : Nat, s.carries 0x0603 c k ∧ fieldAt k.params 2 6 = 0 ∧ (fieldAt k.params 0
    2 < 0x100 → s.ctxOk (fieldAt k.params 0 2) = true) ∧ s.bufferOf (fieldAt k.params 8 8) = some (L, i) ∧ s.bufAddr L i = fieldAt k.params 8 8 ∧
    ((s.sbEntry L i).alloc = false ∨ (s.sbEntry L i).quar = true) ∧ answers (exec (.bufFree c) s) ((s.take c).finish c stDoubleFree) = true :=
  ⟨given booted 0x0603 (fields 16 [(0, 2, 0x101), (8, 8, 0x438000000)]), 1, cmd 0x0603 (fields 16 [(0, 2, 0x101), (8, 8, 0x438000000)]), 13, 0,
    by decide +kernel⟩

theorem test_seedbankServes_11 : ∃ s : State, ∃ t : Nat, ∃ r : SbAsk, t < 192 ∧ s.live = true ∧ s.pfx.on = true ∧ s.pfx.tillers.contains t = true ∧
    r.free = false ∧ r.pool ≤ 4 ∧ listExists r.pool r.list = true ∧ answers (exec (.seedbankRequest t r) s) (s.sbAsk
    { tiller := t, owner := r.owner, pool := r.pool, list := r.list }) = true :=
  ⟨storing {} {}, 191, { pool := 1, owner := 0x100 }, by decide +kernel⟩

theorem test_seedbankServes_12 : ∃ s : State, ∃ t : Nat, ∃ r : SbAsk, t < 192 ∧ s.live = true ∧ s.pfx.on = true ∧ s.pfx.tillers.contains t = true ∧
    r.free = true ∧ (s.sbFree r.owner r.addr).1 ≠ stDoubleFree ∧ answers (exec (.seedbankRequest t r) s) ((s.sbFree r.owner r.addr).2) = true :=
  ⟨{ (storing {} {}) with seed := (lent 12 0 0x100).seed }, 191, { free := true, owner := 0x100 }, by decide +kernel⟩

theorem test_seedbankServes_13 : ∃ s : State, ∃ t : Nat, ∃ r : SbAsk, t < 192 ∧ s.live = true ∧ s.pfx.on = true ∧ s.pfx.tillers.contains t = true ∧
    r.free = true ∧ (s.sbFree r.owner r.addr).1 = stDoubleFree ∧ answers (exec (.seedbankRequest t r) s) (s.almQueue
    { type := 0x0B, ctx := s.pfx.ctx, unit := t, detail := memDetail 7 0xFF noneField r.addr }) = true :=
  ⟨storing {} {}, 191, { free := true, owner := 0x100 }, by decide +kernel⟩

theorem test_seedbankServes_14 : ∃ s : State, ∃ L : Nat, L < 18 ∧ s.live = true ∧ (s.sbList L).rebuilding = true ∧ answers (exec (.seedbankRebuildDone
    L) s) (((s.modList L fun l => { l with drained := false }).rebuildList L).sbServe L) = true :=
  ⟨{ booted with seed := { lists := [(15, { rebuilding := true })] } }, 15, by decide +kernel⟩

theorem test_seedbankServes_15 : ∃ s : State, ∃ L : Nat, L < 18 ∧ s.live = true ∧ (s.sbList L).rebuilding = false ∧ answers (exec
    (.seedbankRebuildDone L) s) (s.sbServe L) = true :=
  ⟨booted, 15, by decide +kernel⟩

theorem test_seedbankServes_16 : ∃ s : State, ∃ c : Nat, ∃ k : Cmd, ∃ (s1 : State), s1 = (s.take c).setMinima 0x101 ((List.range 5).map fun i =>
    fieldAt k.params (4 + 4 * i) 4) ∧ s.carries 0x0601 c k ∧ fieldAt k.params 0 4 = 1 ∧ allZero (k.params.drop 24) = true ∧ answers (exec
    (.poolConfigMinima c) s) (if s1.minimaFit then s1.finish c stOk else (s.take c).finish c stNoFit) = true :=
  ⟨given booted 0x0601 (fields 100 [(0, 4, 1), (4, 4, 1000)]), 1, cmd 0x0601 (fields 100 [(0, 4, 1), (4, 4, 1000)]), _, rfl, by decide +kernel⟩

theorem test_seedbankServes_17 : ∃ s : State, ∃ c : Nat, ∃ k : Cmd, ∃ (s1 : State), s1 = (s.take c).layPools (poolCounts k.params) ∧ s.carries 0x0601
    c k ∧ fieldAt k.params 0 4 = 0 ∧ (∀ p ∈ s.seed.entries, p.1 / 2 ^ 22 < 16 → p.2.alloc = false ∧ p.2.quar = false) ∧ countsFit (poolCounts k.params) =
    true ∧ answers (exec (.poolConfigCounts c) s) (if (poolCounts k.params).foldl (· + ·) 0 + 122880 ≤ 4194304 ∧ s1.minimaFit = true then s1.finish c stOk
    else (s.take c).finish c stNoFit) = true :=
  ⟨given booted 0x0601 (fields 100 [(0, 4, 0), (4, 4, 4071424)]), 1, cmd 0x0601 (fields 100 [(0, 4, 0), (4, 4, 4071424)]), _, rfl, by decide +kernel⟩

theorem test_seedbankServes_18 : ∃ s : State, ∃ c : Nat, ∃ k : Cmd, ∃ (s1 : State), s1 = (s.take c).layPools (poolCounts k.params) ∧ s.carries 0x0601
    c k ∧ fieldAt k.params 0 4 = 0 ∧ countsFit (poolCounts k.params) = false ∧ answers (exec (.poolConfigCounts c) s) ((s.take c).finish c stBadParam) =
    true :=
  ⟨given booted 0x0601 (fields 100 [(0, 4, 0), (4, 4, 4423681)]), 1, cmd 0x0601 (fields 100 [(0, 4, 0), (4, 4, 4423681)]), _, rfl, by decide +kernel⟩

theorem test_putsGatherAndCommit_1 : ∃ s : State, ∃ t p rest q, ∃ r, r = preqOf p ∧ s.live = true ∧ t < 192 ∧ s.pfx.on = true ∧ s.pfx.tillers.contains
    t = true ∧ (s.tl t).reset = none ∧ (s.tl t).recvQ = p :: rest ∧ s.pfxRequestOk p = true ∧ r.op = 1 ∧ s.pfx.puts.find? (fun q => q.takes t p r) = some
    q ∧ q.refused = false ∧ q.waitDemote = false ∧ q.held.contains r.chunk = false :=
  ⟨storing { puts := [openPut] } (storeRequest 1 31 (List.replicate 2048 5#8)), 191, storeRequest 1 31 (List.replicate 2048 5#8), [], openPut, _, rfl,
    by decide +kernel⟩

theorem test_putsGatherAndCommit_2 : ∃ s : State, ∃ t p rest q, ∃ r, r = preqOf p ∧ s.live = true ∧ t < 192 ∧ s.pfx.on = true ∧ s.pfx.tillers.contains
    t = true ∧ (s.tl t).reset = none ∧ (s.tl t).recvQ = p :: rest ∧ s.pfxRequestOk p = true ∧ r.op = 1 ∧ s.pfx.puts.find? (fun q => q.takes t p r) = some
    q ∧ q.refused = false ∧ q.waitDemote = false ∧ q.held.contains r.chunk = true ∧ answers (exec (.put t) s) ((s.takeHead t p).pfxCount 11) = true :=
  ⟨storing { puts := [{ openPut with held := [31] }] } (storeRequest 1 31 (List.replicate 2048 5#8)), 191, storeRequest 1 31 (List.replicate 2048
    5#8), [], { openPut with held := [31] }, _, rfl, by decide +kernel⟩

theorem test_putsGatherAndCommit_3 : ∃ s : State, ∃ t p rest s1 a, ∃ r, r = preqOf p ∧ ∃ (q : PPut), q =
    { pid := s1.pfx.nextPut, tiller := t, key := r.key, big := r.big, crc := r.crc, req := r.req, hdr := p.bytes.take 48, openedAt := s.t3 } ∧ ∃ (q1 :
    PPut), q1 = { q with addr := a } ∧ s.live = true ∧ t < 192 ∧ s.pfx.on = true ∧ s.pfx.tillers.contains t = true ∧ (s.tl t).reset = none ∧ (s.tl
    t).recvQ = p :: rest ∧ s.pfxRequestOk p = true ∧ r.op = 1 ∧ s.pfx.puts.find? (fun q => q.takes t p r) = none ∧ s.gddrRoom { tiller := t } r.big =
    (.now a, s1) :=
  ⟨(storing { lim64 := 1 } (storeRequest 1 31 (List.replicate 2048 5#8))), 191, storeRequest 1 31 (List.replicate 2048 5#8), [], (State.gddrRoom
    ((storing { lim64 := 1 } (storeRequest 1 31 (List.replicate 2048 5#8)))) { tiller := 191 } false).2, 0x300000000, _, rfl, _, rfl, _, rfl,
    by decide +kernel⟩

theorem test_putsGatherAndCommit_4 : ∃ s : State, ∃ t p rest s1 a, ∃ r, r = preqOf p ∧ ∃ (q : PPut), q =
    { pid := s1.pfx.nextPut, tiller := t, key := r.key, big := r.big, crc := r.crc, req := r.req, hdr := p.bytes.take 48, openedAt := s.t3 } ∧ s.live =
    true ∧ t < 192 ∧ s.pfx.on = true ∧ s.pfx.tillers.contains t = true ∧ (s.tl t).reset = none ∧ (s.tl t).recvQ = p :: rest ∧ s.pfxRequestOk p = true ∧
    r.op = 1 ∧ s.pfx.puts.find? (fun q => q.takes t p r) = none ∧ s.gddrRoom { tiller := t } r.big = (.later a, s1) :=
  ⟨{ (storing { slabs := 1, blocks := [storedBlock] } (storeRequest 1 31 (List.replicate 2048 5#8))) with mem := { cxl := [(0, { up := true, cap := 0x40000000000, lastCap := some 0x40000000000 })] } },
    191, storeRequest 1 31 (List.replicate 2048 5#8), [], (State.gddrRoom
    ({ (storing { slabs := 1, blocks := [storedBlock] } (storeRequest 1 31 (List.replicate 2048 5#8))) with mem := { cxl := [(0, { up := true, cap := 0x40000000000, lastCap := some 0x40000000000 })] } })
    { tiller := 191 } false).2, 0x20000, _, rfl, _, rfl, by decide +kernel⟩

theorem test_putsGatherAndCommit_5 : ∃ s : State, ∃ t p rest s1, ∃ r, r = preqOf p ∧ ∃ (q : PPut), q =
    { pid := s1.pfx.nextPut, tiller := t, key := r.key, big := r.big, crc := r.crc, req := r.req, hdr := p.bytes.take 48, openedAt := s.t3 } ∧ ∃ (q1 :
    PPut), q1 = { q with refused := true, held := [r.chunk] } ∧ s.live = true ∧ t < 192 ∧ s.pfx.on = true ∧ s.pfx.tillers.contains t = true ∧ (s.tl
    t).reset = none ∧ (s.tl t).recvQ = p :: rest ∧ s.pfxRequestOk p = true ∧ r.op = 1 ∧ s.pfx.puts.find? (fun q => q.takes t p r) = none ∧ s.gddrRoom
    { tiller := t } r.big = (.no, s1) :=
  ⟨(storing {} (storeRequest 1 31 (List.replicate 2048 5#8))), 191, storeRequest 1 31 (List.replicate 2048 5#8), [], (State.gddrRoom ((storing {}
    (storeRequest 1 31 (List.replicate 2048 5#8)))) { tiller := 191 } false).2, _, rfl, _, rfl, _, rfl, by decide +kernel⟩

theorem test_putsGatherAndCommit_6 : ∃ s : State, ∃ t p rest s1 w, ∃ r, r = preqOf p ∧ ∃ (q : PPut), q =
    { pid := s1.pfx.nextPut, tiller := t, key := r.key, big := r.big, crc := r.crc, req := r.req, hdr := p.bytes.take 48, openedAt := s.t3 } ∧ s.live =
    true ∧ t < 192 ∧ s.pfx.on = true ∧ s.pfx.tillers.contains t = true ∧ (s.tl t).reset = none ∧ (s.tl t).recvQ = p :: rest ∧ s.pfxRequestOk p = true ∧
    r.op = 1 ∧ s.pfx.puts.find? (fun q => q.takes t p r) = none ∧ s.gddrRoom { tiller := t } r.big = (.wait w, s1) :=
  ⟨(rebuilding (storing { lim64 := 1 } (storeRequest 1 31 (List.replicate 2048 5#8)))), 191, storeRequest 1 31 (List.replicate 2048 5#8), [],
    (State.gddrRoom ((rebuilding (storing { lim64 := 1 } (storeRequest 1 31 (List.replicate 2048 5#8))))) { tiller := 191 } false).2, .list 4 none, _,
    rfl, _, rfl, by decide +kernel⟩

theorem test_putsGatherAndCommit_7 : ∃ s : State, ∃ pid q, ∃ v, v = (s.pfx.seq + 1) % 2 ^ 64 ∧ s.live = true ∧ s.pfx.puts.find? (fun q => q.pid ==
    pid) = some q ∧ q.refused = false ∧ q.waitDemote = false ∧ q.held.length = blockChunks q.big ∧ s.after q.openedAt (usec s.pfx.tmo) = false ∧
    (s.pfx.verify = false ∨ crc32c (s.memRead q.addr (blockBytes q.big)) = q.crc) ∧ answers (exec (.putCommit pid) s) (((((s.dropPut pid).modPfx fun p =>
    { p with seq := v }).enterBlock { key := q.key, big := q.big, version := v, crc := q.crc, addr := q.addr, stamp := v }).putReply q stOk v).pfxCount 0)
    = true :=
  ⟨{ booted with pfx := { on := true, puts := [{ openPut with held := List.range 32 }] } }, 3, { openPut with held := List.range 32 }, _, rfl,
    by decide +kernel⟩

theorem test_putsGatherAndCommit_9 : ∃ s : State, ∃ pid q, s.live = true ∧ s.pfx.puts.find? (fun q => q.pid == pid) = some q ∧ q.refused = false ∧
    q.waitDemote = false ∧ s.after q.openedAt (usec s.pfx.tmo) = true :=
  ⟨atNs { booted with pfx := { on := true, tmo := 1, puts := [openPut] } } 1000, 3, openPut, by decide +kernel⟩

theorem test_storeRequestsAreAnswered_1 : ∃ s : State, ∃ t : Nat, ∃ p : Pkt, ∃ rest : List Pkt, ∃ ce, s.live = true ∧ t < 192 ∧ s.pfx.on = true ∧
    s.pfx.tillers.contains t = true ∧ (s.tl t).reset = none ∧ (s.tl t).recvQ = p :: rest ∧ s.pfxRequestOk p = false ∧ answers (exec (.put t) s)
    ((s.takeHead t p).pfxCount 12) = true ∧ answers (exec (.get t ce) s) ((s.takeHead t p).pfxCount 12) = true ∧ answers (exec (.delete t) s) ((s.takeHead
    t p).pfxCount 12) = true ∧ answers (exec (.probe t) s) ((s.takeHead t p).pfxCount 12) = true :=
  ⟨storing {} {}, 191, {}, [], [], by decide +kernel⟩

theorem test_storeRequestsAreAnswered_2 : ∃ s : State, ∃ t : Nat, ∃ p : Pkt, ∃ rest : List Pkt, s.live = true ∧ t < 192 ∧ s.pfx.on = true ∧
    s.pfx.tillers.contains t = true ∧ (s.tl t).reset = none ∧ (s.tl t).recvQ = p :: rest ∧ s.pfxRequestOk p = true ∧ (preqOf p).op = 2 ∧ (s.block? (preqOf
    p).key).filter (fun b => b.big == (preqOf p).big) = none :=
  ⟨storing { blocks := [] } (storeRequest 2 0 []), 191, storeRequest 2 0 [], [], by decide +kernel⟩

theorem test_storeRequestsAreAnswered_3 : ∃ s : State, ∃ t : Nat, ∃ p : Pkt, ∃ rest : List Pkt, ∃ b, ∃ v, v = (s.pfx.seq + 1) % 2 ^ 64 ∧ ∃ b', b' =
    { b with stamp := v, promote := b.promote || (b.cxl && s.pfx.promote) } ∧ s.live = true ∧ t < 192 ∧ s.pfx.on = true ∧ s.pfx.tillers.contains t = true
    ∧ (s.tl t).reset = none ∧ (s.tl t).recvQ = p :: rest ∧ s.pfxRequestOk p = true ∧ (preqOf p).op = 2 ∧ (s.block? (preqOf p).key).filter (fun b => b.big
    == (preqOf p).big) = some b :=
  ⟨storing { blocks := [storedBlock] } (storeRequest 2 0 []), 191, storeRequest 2 0 [], [], storedBlock, _, rfl, _, rfl, by decide +kernel⟩

theorem test_storeRequestsAreAnswered_4 : ∃ s : State, ∃ t : Nat, ∃ p : Pkt, ∃ rest : List Pkt, s.live = true ∧ t < 192 ∧ s.pfx.on = true ∧
    s.pfx.tillers.contains t = true ∧ (s.tl t).reset = none ∧ (s.tl t).recvQ = p :: rest ∧ s.pfxRequestOk p = true ∧ (preqOf p).op = 3 ∧ (s.block? (preqOf
    p).key).filter (fun b => b.big == (preqOf p).big) = none :=
  ⟨storing { blocks := [] } (storeRequest 3 0 []), 191, storeRequest 3 0 [], [], by decide +kernel⟩

theorem test_storeRequestsAreAnswered_5 : ∃ s : State, ∃ t : Nat, ∃ p : Pkt, ∃ rest : List Pkt, ∃ b, s.live = true ∧ t < 192 ∧ s.pfx.on = true ∧
    s.pfx.tillers.contains t = true ∧ (s.tl t).reset = none ∧ (s.tl t).recvQ = p :: rest ∧ s.pfxRequestOk p = true ∧ (preqOf p).op = 3 ∧ (s.block? (preqOf
    p).key).filter (fun b => b.big == (preqOf p).big) = some b ∧ answers (exec (.delete t) s) (((s.takeHead t p).pfxSend t (pfxReply p.bytes 0x83 stOk
    (preqOf p) false 0 b.crc.toNat b.version [])).removeBlock b) = true :=
  ⟨storing { blocks := [storedBlock] } (storeRequest 3 0 []), 191, storeRequest 3 0 [], [], storedBlock, by decide +kernel⟩

theorem test_storeRequestsAreAnswered_6 : ∃ s : State, ∃ t : Nat, ∃ p : Pkt, ∃ rest : List Pkt, s.live = true ∧ t < 192 ∧ s.pfx.on = true ∧
    s.pfx.tillers.contains t = true ∧ (s.tl t).reset = none ∧ (s.tl t).recvQ = p :: rest ∧ s.pfxRequestOk p = true ∧ (preqOf p).op = 4 ∧ s.block? (preqOf
    p).key = none :=
  ⟨storing { blocks := [] } (storeRequest 4 0 []), 191, storeRequest 4 0 [], [], by decide +kernel⟩

theorem test_storeRequestsAreAnswered_7 : ∃ s : State, ∃ t : Nat, ∃ p : Pkt, ∃ rest : List Pkt, ∃ b, s.live = true ∧ t < 192 ∧ s.pfx.on = true ∧
    s.pfx.tillers.contains t = true ∧ (s.tl t).reset = none ∧ (s.tl t).recvQ = p :: rest ∧ s.pfxRequestOk p = true ∧ (preqOf p).op = 4 ∧ s.block? (preqOf
    p).key = some b ∧ answers (exec (.probe t) s) ((s.takeHead t p).pfxSend t (pfxReply p.bytes 0x84 stOk { preqOf p with big := b.big } false 0
    b.crc.toNat b.version [])) = true :=
  ⟨storing { blocks := [storedBlock] } (storeRequest 4 0 []), 191, storeRequest 4 0 [], [], storedBlock, by decide +kernel⟩

theorem test_storeMovesAndIsConfigured_1 : ∃ s : State, ∃ key : List Byte, ∃ b : PBlock, ∃ slot, ∃ s1, s1 = s.noteRead b.addr (blockBytes b.big) ∧
    s.live = true ∧ s.block? key = some b ∧ s.reading b = false ∧ b.copying = some slot ∧ b.cxl = false ∧ s1.knownUe b.addr (blockBytes b.big) = none :=
  ⟨{ booted with pfx := { on := true, blocks := [{ storedBlock with copying := some 0x80000000000 }] } }, storedBlock.key,
    { storedBlock with copying := some 0x80000000000 }, 0x80000000000, _, rfl, by decide +kernel⟩

theorem test_storeMovesAndIsConfigured_2 : ∃ s : State, ∃ key : List Byte, ∃ b : PBlock, ∃ slot, ∃ s1, s1 = s.noteRead b.addr (blockBytes b.big) ∧
    s.live = true ∧ s.block? key = some b ∧ s.reading b = false ∧ b.copying = some slot ∧ b.cxl = false ∧ s1.knownUe b.addr (blockBytes b.big) ≠ none :=
  ⟨{ booted with pfx := { on := true, blocks := [{ storedBlock with copying := some 0x80000000000 }] }, mem := { ue := [0x1000] } }, storedBlock.key,
    { storedBlock with copying := some 0x80000000000 }, 0x80000000000, _, rfl, by decide +kernel⟩

theorem test_storeMovesAndIsConfigured_3 : ∃ s : State, ∃ key : List Byte, ∃ b : PBlock, ∃ a s1, ∃ s0, s0 = s.modBlock key (fun x =>
    { x with copying := some b.addr }) ∧ s.live = true ∧ s.block? key = some b ∧ s.reading b = false ∧ b.cxl = true ∧ b.promote = true ∧ b.copying = none
    ∧ s0.gddrRoom { tiller := 192 } b.big = (.now a, s1) :=
  ⟨{ booted with pfx := { on := true, lim64 := 1, blocks := [{ storedBlock with cxl := true, promote := true, addr := 0x80000000000 }] } },
    storedBlock.key, { storedBlock with cxl := true, promote := true, addr := 0x80000000000 }, 0x300000000, (State.gddrRoom (State.modBlock
    ({ booted with pfx := { on := true, lim64 := 1, blocks := [{ storedBlock with cxl := true, promote := true, addr := 0x80000000000 }] } })
    storedBlock.key fun x => { x with copying := some 0x80000000000 }) { tiller := 192 } false).2, _, rfl, by decide +kernel⟩

theorem test_storeMovesAndIsConfigured_4 : ∃ s : State, ∃ key : List Byte, ∃ b : PBlock, ∃ a s1, ∃ s0, s0 = s.modBlock key (fun x =>
    { x with copying := some b.addr }) ∧ s.live = true ∧ s.block? key = some b ∧ s.reading b = false ∧ b.cxl = true ∧ b.promote = true ∧ b.copying = none
    ∧ s0.gddrRoom { tiller := 192 } b.big = (.later a, s1) :=
  ⟨{ booted with pfx := { on := true, slabs := 1, blocks := [{ storedBlock with cxl := true, promote := true, addr := 0x80000000000 }, { storedBlock with key := [1#8] }] }, mem := { cxl := [(0, { up := true, cap := 0x40000000000, lastCap := some 0x40000000000 })] } },
    storedBlock.key, { storedBlock with cxl := true, promote := true, addr := 0x80000000000 }, 0x20000, (State.gddrRoom (State.modBlock
    ({ booted with pfx := { on := true, slabs := 1, blocks := [{ storedBlock with cxl := true, promote := true, addr := 0x80000000000 }, { storedBlock with key := [1#8] }] }, mem := { cxl := [(0, { up := true, cap := 0x40000000000, lastCap := some 0x40000000000 })] } })
    storedBlock.key fun x => { x with copying := some 0x80000000000 }) { tiller := 192 } false).2, _, rfl, by decide +kernel⟩

theorem test_storeMovesAndIsConfigured_5 : ∃ s : State, ∃ key : List Byte, ∃ b : PBlock, ∃ s1, ∃ s0, s0 = s.modBlock key (fun x =>
    { x with copying := some b.addr }) ∧ s.live = true ∧ s.block? key = some b ∧ s.reading b = false ∧ b.cxl = true ∧ b.promote = true ∧ b.copying = none
    ∧ s0.gddrRoom { tiller := 192 } b.big = (.no, s1) :=
  ⟨{ booted with pfx := { on := true, blocks := [{ storedBlock with cxl := true, promote := true, addr := 0x80000000000 }] } }, storedBlock.key,
    { storedBlock with cxl := true, promote := true, addr := 0x80000000000 }, (State.gddrRoom (State.modBlock
    ({ booted with pfx := { on := true, blocks := [{ storedBlock with cxl := true, promote := true, addr := 0x80000000000 }] } }) storedBlock.key fun x =>
    { x with copying := some 0x80000000000 }) { tiller := 192 } false).2, _, rfl, by decide +kernel⟩

theorem test_storeMovesAndIsConfigured_6 : ∃ s : State, ∃ c : Nat, ∃ k : Cmd, s.carries 0x0604 c k ∧ prefixRecordOk k.params = false ∧ answers (exec
    (.prefixConfig c) s) ((s.take c).finish c stBadParam) = true :=
  ⟨given booted 0x0604 (fields 40 [(0, 1, 1)]), 1, cmd 0x0604 (fields 40 [(0, 1, 1)]), by decide +kernel⟩

theorem test_storeMovesAndIsConfigured_7 : ∃ s : State, ∃ c : Nat, ∃ k : Cmd, ∃ x, ∃ n, n = fieldAt k.params 1 1 ∧ ∃ ts, ts = s.storeTillers n ∧ ∃ s1,
    s1 = (s.take c).setMinima 0x100 (prefixMinima k.params) ∧ ∃ s2, s2 = (s1.modPfx fun p => p.configured k.params).enableStore x ts ∧ s.carries 0x0604 c
    k ∧ prefixRecordOk k.params = true ∧ fieldAt k.params 0 1 % 2 = 1 ∧ s.pfx.on = false ∧ ts.length = n ∧ (∀ t ∈ ts, s.domOn (domTiller (t / 8)) = true)
    ∧ s.freeCtx = some x ∧ s1.minimaFit = true ∧ answers (exec (.prefixConfig c) s) (s2.finish c stOk [s2.pfx.ctx, (s2.epoch s2.pfx.ctx).toNat]) = true :=
  ⟨given booted 0x0604 (fields 40 [(0, 1, 7), (1, 1, 16), (28, 4, 1000000)]), 1, cmd 0x0604 (fields 40 [(0, 1, 7), (1, 1, 16), (28, 4, 1000000)]), 0,
    _, rfl, _, rfl, _, rfl, _, rfl, by decide +kernel⟩

theorem test_storeMovesAndIsConfigured_8 : ∃ s : State, ∃ c : Nat, ∃ k : Cmd, ∃ n, n = fieldAt k.params 1 1 ∧ ∃ ts, ts = s.storeTillers n ∧ s.carries
    0x0604 c k ∧ prefixRecordOk k.params = true ∧ fieldAt k.params 0 1 % 2 = 1 ∧ s.pfx.on = false ∧ ts.length = n ∧ (∀ t ∈ ts, s.domOn (domTiller (t / 8))
    = true) ∧ (s.freeCtx = none ∨ ((s.take c).setMinima 0x100 (prefixMinima k.params)).minimaFit = false) ∧ answers (exec (.prefixConfig c) s) ((s.take
    c).finish c stNoFit) = true :=
  ⟨given booted 0x0604 (fields 40 [(0, 1, 7), (1, 1, 16), (16, 4, 2 ^ 31), (28, 4, 1000000)]), 1, cmd 0x0604 (fields 40 [(0, 1, 7), (1, 1, 16), (16,
    4, 2 ^ 31), (28, 4, 1000000)]), _, rfl, _, rfl, by decide +kernel⟩

theorem test_storeMovesAndIsConfigured_9 : ∃ s : State, ∃ c : Nat, ∃ k : Cmd, ∃ n, n = fieldAt k.params 1 1 ∧ ∃ ts, ts = s.storeTillers n ∧ s.carries
    0x0604 c k ∧ prefixRecordOk k.params = true ∧ fieldAt k.params 0 1 % 2 = 1 ∧ s.pfx.on = false ∧ ts.length ≠ n ∧ answers (exec (.prefixConfig c) s)
    ((s.take c).finish c stNoFit) = true :=
  ⟨given { booted with tillers := (List.range 192).map fun t => (t, { owner := .ctx }) } 0x0604 (fields 40 [(0, 1, 7), (1, 1, 16), (28, 4, 1000000)]),
    1, cmd 0x0604 (fields 40 [(0, 1, 7), (1, 1, 16), (28, 4, 1000000)]), _, rfl, _, rfl, by decide +kernel⟩

theorem test_storeMovesAndIsConfigured_10 : ∃ s : State, ∃ c : Nat, ∃ k : Cmd, ∃ n, n = fieldAt k.params 1 1 ∧ ∃ ts, ts = s.storeTillers n ∧ ∃ l, l =
    (dedup (ts.map fun t => domTiller (t / 8))).filter (fun d => !s.domOn d) ∧ s.carries 0x0604 c k ∧ prefixRecordOk k.params = true ∧ fieldAt k.params 0
    1 % 2 = 1 ∧ s.pfx.on = false ∧ ts.length = n ∧ l ≠ [] ∧ answers (exec (.prefixConfig c) s) (s.requestDomains l) = true :=
  ⟨given { booted with pwr := {} } 0x0604 (fields 40 [(0, 1, 7), (1, 1, 16), (28, 4, 1000000)]), 1, cmd 0x0604 (fields 40 [(0, 1, 7), (1, 1, 16), (28,
    4, 1000000)]), _, rfl, _, rfl, _, rfl, by decide +kernel⟩

theorem test_storeMovesAndIsConfigured_11 : ∃ s : State, ∃ c : Nat, ∃ k : Cmd, ∃ s1, s1 = (s.take c).disableStore.modPfx (fun p => p.configured
    k.params) ∧ s.carries 0x0604 c k ∧ prefixRecordOk k.params = true ∧ fieldAt k.params 0 1 % 2 = 0 ∧ s.pfx.on = true ∧ answers (exec (.prefixConfig c)
    s) (s1.finish c stOk [s1.pfx.ctx, (s1.epoch s1.pfx.ctx).toNat]) = true :=
  ⟨given (storing {} {}) 0x0604 (fields 40 []), 1, cmd 0x0604 (fields 40 []), _, rfl, by decide +kernel⟩

theorem test_storeMovesAndIsConfigured_12 : ∃ s : State, ∃ c : Nat, ∃ k : Cmd, ∃ s1, s1 = (((s.take c).setMinima 0x100 (prefixMinima k.params)).modPfx
    fun p => p.configured k.params).holdLimits ∧ s.carries 0x0604 c k ∧ prefixRecordOk k.params = true ∧ fieldAt k.params 0 1 % 2 = 1 ∧ s.pfx.on = true ∧
    fieldAt k.params 1 1 = s.pfx.tillers.length ∧ ((s.take c).setMinima 0x100 (prefixMinima k.params)).minimaFit = true ∧ answers (exec (.prefixConfig c)
    s) (s1.finish c stOk [s1.pfx.ctx, (s1.epoch s1.pfx.ctx).toNat]) = true :=
  ⟨given (storing {} {}) 0x0604 (fields 40 [(0, 1, 7), (1, 1, 1), (28, 4, 1000)]), 1, cmd 0x0604 (fields 40 [(0, 1, 7), (1, 1, 1), (28, 4, 1000)]), _,
    rfl, by decide +kernel⟩

theorem test_almanacIsReadAndWritten_1 : ∃ s : State, ∃ c : Nat, ∃ k : Cmd, ∃ (low : Nat), low = ((s.alm.recs.head?).map (·.seq)).getD (s.take
    c).freeNat ∧ ∃ (l : List ARec), l = (s.alm.recs.filter fun r => decide (fieldAt k.params 12 4 ≤ r.seq)).take (fieldAt k.params 16 4) ∧ s.carries
    0x0703 c k ∧ 1 ≤ fieldAt k.params 16 4 ∧ fieldAt k.params 16 4 ≤ 4096 ∧ k.takes (l.map fun r => r.bytes ++ r.payload).flatten.length :=
  ⟨given { booted with alm := { recs := [{ fault := 1 }], nextSeq := 1 } } 0x0703 (fields 20 [(0, 8, 16384), (8, 4, 2048), (16, 4, 4096)]), 1, cmd
    0x0703 (fields 20 [(0, 8, 16384), (8, 4, 2048), (16, 4, 4096)]), _, rfl, _, rfl, by decide +kernel⟩

theorem test_almanacIsReadAndWritten_2 : ∃ s : State, ∃ c : Nat, ∃ k : Cmd, s.carries 0x0703 c k ∧ (fieldAt k.params 16 4 = 0 ∨ 4096 < fieldAt
    k.params 16 4) ∧ answers (exec (.almanacRead c) s) ((s.take c).finish c stBadParam) = true :=
  ⟨given booted 0x0703 (fields 20 [(0, 8, 16384), (8, 4, 2048), (16, 4, 4097)]), 1, cmd 0x0703 (fields 20 [(0, 8, 16384), (8, 4, 2048), (16, 4,
    4097)]), by decide +kernel⟩

theorem test_almanacIsReadAndWritten_3 : ∃ s : State, ∃ r : ARec, ∃ rest : List ARec, s.live = true ∧ s.fwpUp fwpLog = true ∧ s.alm.waiting = r ::
    rest ∧ answers (exec .almanacRecordWrite s) (s.modAlm fun a => { (a.write r) with waiting := rest }) = true :=
  ⟨{ booted with alm := { waiting := [{ fault := 1 }] } }, { fault := 1 }, [], by decide +kernel⟩

theorem test_postsAreSentAndAnswered_1 : ∃ s : State, ∃ c : Nat, ∃ k : Cmd, ∃ data : List Byte, ∃ d, d = (if fieldAt k.params 1 1 = 2 then [] else
    data) ∧ ∃ s1, s1 = (if (s.take c).postOk k d then ((s.take c).modHost fun h => { h with posts := h.posts ++ [k.post] }).sendPost k.post d else (s.take
    c).finish k.id stBadParam) ∧ s.carries 0x0302 c k ∧ fieldAt k.params 1 1 = 0 ∧ answers (exec (.collPostContrib c data) s) (s1) = true :=
  ⟨given (slotted (boundSlot twoRanks) []) 0x0302 (postRecord 0 4), 1, cmd 0x0302 (postRecord 0 4), [1#8, 2#8, 3#8, 4#8], _, rfl, _, rfl,
    by decide +kernel⟩

theorem test_postsAreSentAndAnswered_2 : ∃ s : State, ∃ c : Nat, ∃ k : Cmd, ∃ data : List Byte, ∃ d, d = (if fieldAt k.params 1 1 = 2 then [] else
    data) ∧ ∃ s1, s1 = (if (s.take c).postOk k d then ((s.take c).modHost fun h => { h with posts := h.posts ++ [k.post] }).sendPost k.post d else (s.take
    c).finish k.id stBadParam) ∧ s.carries 0x0302 c k ∧ fieldAt k.params 1 1 = 1 ∧ answers (exec (.collPostCounts c data) s) (s1) = true :=
  ⟨given (slotted (boundSlot twoRanks) []) 0x0302 (postRecord 1 4), 1, cmd 0x0302 (postRecord 1 4), [1#8, 2#8, 3#8, 4#8], _, rfl, _, rfl,
    by decide +kernel⟩

theorem test_postsAreSentAndAnswered_3 : ∃ s : State, ∃ c : Nat, ∃ k : Cmd, ∃ data : List Byte, ∃ d, d = (if fieldAt k.params 1 1 = 2 then [] else
    data) ∧ ∃ s1, s1 = (if (s.take c).postOk k d then ((s.take c).modHost fun h => { h with posts := h.posts ++ [k.post] }).sendPost k.post d else (s.take
    c).finish k.id stBadParam) ∧ s.carries 0x0302 c k ∧ fieldAt k.params 1 1 = 2 ∧ answers (exec (.collPostResultRequest c) s) (s1) = true :=
  ⟨given (slotted (boundSlot twoRanks) []) 0x0302 (postRecord 2 0), 1, cmd 0x0302 (postRecord 2 0), [], _, rfl, _, rfl, by decide +kernel⟩

theorem test_postsAreSentAndAnswered_4 : ∃ s : State, ∃ c : Nat, ∃ k : Cmd, ∃ data : List Byte, s.carries 0x0302 c k ∧ 2 < fieldAt k.params 1 1 ∧
    answers (exec (.collPostContrib c data) s) ((s.take c).finish k.id stBadParam) = true :=
  ⟨given (slotted (boundSlot twoRanks) []) 0x0302 (postRecord 3 5), 1, cmd 0x0302 (postRecord 3 5), [1#8, 2#8, 3#8, 4#8], by decide +kernel⟩

theorem test_postsAreSentAndAnswered_5 : ∃ s : State, ∃ p : Pkt, ∃ ps : List Post, s.live = true ∧ s.postHead = some (p, ps) ∧ ((readPrefix
    p.payload).kind ≠ kReplay ∨ replayed ps = []) ∧ answers (exec (.postPacketArrival none) s) ((s.clear36 p).takePostPacket ps p) = true :=
  ⟨posted (slotPacket { kind := kResult, rank := 1, step := 3, flags := 1 } [1#8, 2#8, 3#8, 4#8]), slotPacket
    { kind := kResult, rank := 1, step := 3, flags := 1 } [1#8, 2#8, 3#8, 4#8], [keptPost], by decide +kernel⟩

theorem test_postsAreSentAndAnswered_6 : ∃ s : State, ∃ p : Pkt, ∃ ps : List Post, ∃ w, s.live = true ∧ s.postHead = some (p, ps) ∧ answers (exec
    (.postPacketArrival (some w)) s) ((s.dropPkt p 36 dropEcc).modFab fun b => { b with txPkt := SMap.set noneAt 36 none b.txPkt }) = true :=
  ⟨posted (slotPacket { kind := kResult, rank := 1, step := 3, flags := 1 } [1#8, 2#8, 3#8, 4#8]), slotPacket
    { kind := kResult, rank := 1, step := 3, flags := 1 } [1#8, 2#8, 3#8, 4#8], [keptPost], 1, by decide +kernel⟩

theorem test_postsAreSentAndAnswered_7 : ∃ s : State, ∃ p : Pkt, ∃ ps : List Post, ∃ c q data, ∃ s1, s1 = (if (readPrefix p.payload).gen = (s.slot
    q.slot).bind.gen then s.sendPost q data else s) ∧ s.live = true ∧ s.postHead = some (p, ps) ∧ (readPrefix p.payload).kind = kReplay ∧ (replayed
    ps).find? (fun q => q.cmd == c) = some q ∧ (∀ q ∈ replayed ps, q.cmd ≤ c) ∧ answers (exec (.postStepReplay c data) s) (s1.clear36 p) = true :=
  ⟨posted (slotPacket { kind := kReplay, rank := 1, step := 3 } []), slotPacket { kind := kReplay, rank := 1, step := 3 } [], [keptPost], 7, keptPost,
    [1#8, 2#8, 3#8, 4#8], _, rfl, by decide +kernel⟩

theorem test_postsAreSentAndAnswered_8 : ∃ s : State, ∃ p : Pkt, ∃ ps : List Post, ∃ c q data, ∃ s1, s1 = (if (readPrefix p.payload).gen = (s.slot
    q.slot).bind.gen then s.sendPost q data else s) ∧ s.live = true ∧ s.postHead = some (p, ps) ∧ (readPrefix p.payload).kind = kReplay ∧ (replayed
    ps).find? (fun q => q.cmd == c) = some q ∧ (∃ q ∈ replayed ps, c < q.cmd) :=
  ⟨{ (posted (slotPacket { kind := kReplay, rank := 1, step := 3 } [])) with host := { posts := [keptPost, { keptPost with cmd := 8, kind := 1 }] } },
    slotPacket { kind := kReplay, rank := 1, step := 3 } [], [keptPost, { keptPost with cmd := 8, kind := 1 }], 7, keptPost, [1#8, 2#8, 3#8, 4#8], _, rfl,
    by decide +kernel⟩

theorem test_shadowRunsRepeatAStep_1 : ∃ s : State, ∃ c : Nat, ∃ k : Cmd, ∃ (a : Nat), a = fieldAt k.params 16 2 ∧ ∃ (b : Nat), b = fieldAt k.params
    18 2 ∧ s.carries 0x0A02 c k ∧ a < 192 ∧ b < 192 ∧ fieldAt k.params 20 1 ≠ 0 ∧ fieldAt k.params 21 1 ≤ 1 ∧ (BitVec.ofNat 16 (fieldAt k.params 22
    2)).toInt < 1600 ∧ fieldAt k.params 24 4 ≠ 0 ∧ fieldAt k.params 24 4 ≤ 60000 ∧ allZero (k.params.drop 28) = true ∧ s.ctxOk (fieldAt k.params 12 4) =
    true ∧ (s.tl a).ctx = some (fieldAt k.params 12 4) ∧ (s.tl a).mode = 0 ∧ (s.tl a).run = .running ∧ s.harrow b = false ∧ usesHarrow (s.tl a).img.code =
    true ∧ answers (exec (.diagShadowRun c) s) ((s.take c).finish c stNotPresent) = true :=
  ⟨{ twinned with part := { fuse := 0#192 }, tillers := [(191, { reaching {} with ctx := some 9, img := { code := [{}, { mn := .mm }] } })] }, 1, cmd
    0x0A02 (fields 32 [(12, 4, 9), (16, 2, 191), (18, 2, 0), (20, 1, 255), (21, 1, 1), (22, 2, 1599), (24, 4, 60000)]), _, rfl, _, rfl, by decide +kernel⟩

theorem test_shadowRunsRepeatAStep_2 : ∃ s : State, ∃ c : Nat, ∃ k : Cmd, ∃ (a : Nat), a = fieldAt k.params 16 2 ∧ ∃ (b : Nat), b = fieldAt k.params
    18 2 ∧ s.carries 0x0A02 c k ∧ a < 192 ∧ b < 192 ∧ fieldAt k.params 20 1 ≠ 0 ∧ fieldAt k.params 21 1 ≤ 1 ∧ (BitVec.ofNat 16 (fieldAt k.params 22
    2)).toInt < 1600 ∧ fieldAt k.params 24 4 ≠ 0 ∧ fieldAt k.params 24 4 ≤ 60000 ∧ allZero (k.params.drop 28) = true ∧ s.ctxOk (fieldAt k.params 12 4) =
    true ∧ (s.tl a).ctx = some (fieldAt k.params 12 4) ∧ (s.tl a).mode = 0 ∧ (s.tl a).run = .running ∧ (s.harrow b = true ∨ usesHarrow (s.tl a).img.code =
    false) ∧ (s.tillerFree b = false ∨ s.domOn (domTiller (b / 8)) = false ∨ s.shadow ≠ none) ∧ answers (exec (.diagShadowRun c) s) ((s.take c).finish c
    stNoFit) = true :=
  ⟨{ twinned with shadow := some {} }, 1, cmd 0x0A02 (fields 32 [(12, 4, 9), (16, 2, 191), (18, 2, 0), (20, 1, 255), (21, 1, 1), (22, 2, 1599), (24,
    4, 60000)]), _, rfl, _, rfl, by decide +kernel⟩

theorem test_shadowRunsRepeatAStep_3 : ∃ s : State, ∃ c : Nat, ∃ k : Cmd, ∃ (a : Nat), a = fieldAt k.params 16 2 ∧ ∃ (b : Nat), b = fieldAt k.params
    18 2 ∧ s.carries 0x0A02 c k ∧ a < 192 ∧ b < 192 ∧ fieldAt k.params 20 1 ≠ 0 ∧ fieldAt k.params 21 1 ≤ 1 ∧ (BitVec.ofNat 16 (fieldAt k.params 22
    2)).toInt < 1600 ∧ fieldAt k.params 24 4 ≠ 0 ∧ fieldAt k.params 24 4 ≤ 60000 ∧ allZero (k.params.drop 28) = true ∧ s.ctxOk (fieldAt k.params 12 4) =
    true ∧ (s.tl a).ctx = some (fieldAt k.params 12 4) ∧ (s.tl a).mode = 0 ∧ (s.tl a).run = .running ∧ (s.harrow b = true ∨ usesHarrow (s.tl a).img.code =
    false) ∧ s.tillerFree b = true ∧ s.domOn (domTiller (b / 8)) = true ∧ s.shadow = none ∧ (s.take c).takeMany { cmd := some c } 0x101 3 none 2 = .empty
    ∧ answers (exec (.diagShadowRun c) s) (((s.take c).finish c stPoolEmpty).leaveQueue { cmd := some c }) = true :=
  ⟨{ twinned with seed := { counts := (List.range 4).map fun d => (12 + d, 0) } }, 1, cmd 0x0A02 (fields 32 [(12, 4, 9), (16, 2, 191), (18, 2, 0),
    (20, 1, 255), (21, 1, 1), (22, 2, 1599), (24, 4, 60000)]), _, rfl, _, rfl, by decide +kernel⟩

theorem test_shadowRunsRepeatAStep_4 : ∃ s : State, ∃ c : Nat, ∃ k : Cmd, ∃ w, ∃ (a : Nat), a = fieldAt k.params 16 2 ∧ ∃ (b : Nat), b = fieldAt
    k.params 18 2 ∧ s.carries 0x0A02 c k ∧ a < 192 ∧ b < 192 ∧ fieldAt k.params 20 1 ≠ 0 ∧ fieldAt k.params 21 1 ≤ 1 ∧ (BitVec.ofNat 16 (fieldAt k.params
    22 2)).toInt < 1600 ∧ fieldAt k.params 24 4 ≠ 0 ∧ fieldAt k.params 24 4 ≤ 60000 ∧ allZero (k.params.drop 28) = true ∧ s.ctxOk (fieldAt k.params 12 4)
    = true ∧ (s.tl a).ctx = some (fieldAt k.params 12 4) ∧ (s.tl a).mode = 0 ∧ (s.tl a).run = .running ∧ (s.harrow b = true ∨ usesHarrow (s.tl a).img.code
    = false) ∧ s.tillerFree b = true ∧ s.domOn (domTiller (b / 8)) = true ∧ s.shadow = none ∧ (s.take c).takeMany { cmd := some c } 0x101 3 none 2 = .wait
    w ∧ answers (exec (.diagShadowRun c) s) (s.await { cmd := some c } w) = true :=
  ⟨rebuilding twinned, 1, cmd 0x0A02 (fields 32 [(12, 4, 9), (16, 2, 191), (18, 2, 0), (20, 1, 255), (21, 1, 1), (22, 2, 1599), (24, 4, 60000)]),
    .list 12 none, _, rfl, _, rfl, by decide +kernel⟩

theorem test_shadowRunsRepeatAStep_5 : ∃ s : State, ∃ c : Nat, ∃ k : Cmd, ∃ bufs s1, ∃ (a : Nat), a = fieldAt k.params 16 2 ∧ ∃ (b : Nat), b = fieldAt
    k.params 18 2 ∧ s.carries 0x0A02 c k ∧ a < 192 ∧ b < 192 ∧ fieldAt k.params 20 1 ≠ 0 ∧ fieldAt k.params 21 1 ≤ 1 ∧ (BitVec.ofNat 16 (fieldAt k.params
    22 2)).toInt < 1600 ∧ fieldAt k.params 24 4 ≠ 0 ∧ fieldAt k.params 24 4 ≤ 60000 ∧ allZero (k.params.drop 28) = true ∧ s.ctxOk (fieldAt k.params 12 4)
    = true ∧ (s.tl a).ctx = some (fieldAt k.params 12 4) ∧ (s.tl a).mode = 0 ∧ (s.tl a).run = .running ∧ (s.harrow b = true ∨ usesHarrow (s.tl a).img.code
    = false) ∧ s.tillerFree b = true ∧ s.domOn (domTiller (b / 8)) = true ∧ s.shadow = none ∧ (s.take c).takeMany { cmd := some c } 0x101 3 none 2 = .got
    bufs s1 :=
  ⟨twinned, 1, cmd 0x0A02 (fields 32 [(12, 4, 9), (16, 2, 191), (18, 2, 0), (20, 1, 255), (21, 1, 1), (22, 2, 1599), (24, 4, 60000)]), twins.1,
    twins.2, _, rfl, _, rfl, by decide +kernel⟩

theorem test_shadowRunsRepeatAStep_6 : ∃ s : State, ∃ h : Shadow, s.live = true ∧ s.shadow = some h ∧ h.stage < 2 ∧ h.deadline ≤ s.t3 ∧ answers (exec
    .shadowRunTimeout s) (s.endShadow stTimeout) = true :=
  ⟨atNs { booted with shadow := some { cmd := 4, stage := 1, deadline := 3000 } } 1000, { cmd := 4, stage := 1, deadline := 3000 }, by decide +kernel⟩

theorem test_shadowRunsRepeatAStep_7 : ∃ s : State, ∃ h : Shadow, s.live = true ∧ s.shadow = some h ∧ h.stage = 2 ∧ (s.tl h.dst).run = .faulted ∧
    answers (exec .shadowRepeatStart s) (s.endRepeat false) = true :=
  ⟨{ booted with tillers := [(3, { run := .faulted })], shadow := some { stage := 2, dst := 3 } }, { stage := 2, dst := 3 }, by decide +kernel⟩

theorem test_shadowRunsRepeatAStep_8 : ∃ s : State, ∃ h : Shadow, ∃ T : Tiller, s.live = true ∧ s.shadow = some h ∧ h.stage = 2 ∧ (s.tl h.dst).run ≠
    .running ∧ (s.tl h.dst).run ≠ .faulted ∧ h.snap = some T ∧ s.holdOver h = true :=
  ⟨atNs { booted with shadow := some { stage := 2, dst := 3, snap := some (reaching {}), hold := true, holdAt := 0 } } 10000000000,
    { stage := 2, dst := 3, snap := some (reaching {}), hold := true, holdAt := 0 }, reaching {}, by decide +kernel⟩

theorem test_slotsAreBoundAndUnbound_1 : ∃ s : State, ∃ c l : Nat, ∃ k : Cmd, ∃ m n o : List Byte, ∃ T, T = k.tables m n o ∧ ∃ b, b = parseBinding
    k.params ∧ ∃ s0, s0 = s.take c ∧ s.carries 0x0301 c k ∧ fieldAt k.params 0 1 = l ∧ fieldAt k.params 1 1 ≠ 0 ∧ s0.bindOk l k.params T.1 T.2.1 T.2.2 =
    false ∧ answers (exec (.collBind c m n o) s) (s0.finish c stBadParam) = true :=
  ⟨given (inCtx {}) 0x0301 bindRecord, 1, 200, cmd 0x0301 bindRecord, [], [], [], _, rfl, _, rfl, _, rfl, by decide +kernel⟩

theorem test_slotsAreBoundAndUnbound_2 : ∃ s : State, ∃ c l : Nat, ∃ k : Cmd, ∃ m n o : List Byte, ∃ T, T = k.tables m n o ∧ ∃ b, b = parseBinding
    k.params ∧ ∃ s0, s0 = s.take c ∧ s.carries 0x0301 c k ∧ fieldAt k.params 0 1 = l ∧ fieldAt k.params 1 1 ≠ 0 ∧ s0.bindOk l k.params T.1 T.2.1 T.2.2 =
    true ∧ (s.ctxOk b.ctx = false ∨ (s.ctx b.ctx).loaded = false) ∧ answers (exec (.collBind c m n o) s) (s0.finish c stContextGone) = true :=
  ⟨given booted 0x0301 bindRecord, 1, 200, cmd 0x0301 bindRecord, bindMembers, [], [], _, rfl, _, rfl, _, rfl, by decide +kernel⟩

theorem test_slotsAreBoundAndUnbound_3 : ∃ s : State, ∃ c l : Nat, ∃ k : Cmd, ∃ m n o : List Byte, ∃ T, T = k.tables m n o ∧ ∃ b, b = parseBinding
    k.params ∧ ∃ s0, s0 = s.take c ∧ s.carries 0x0301 c k ∧ fieldAt k.params 0 1 = l ∧ fieldAt k.params 1 1 ≠ 0 ∧ s0.bindOk l k.params T.1 T.2.1 T.2.2 =
    true ∧ s.ctxOk b.ctx = true ∧ (s.ctx b.ctx).loaded = true ∧ (s.slot l).state ≠ .free ∧ answers (exec (.collBind c m n o) s) (s0.finish c stNoFit) =
    true :=
  ⟨given { (inCtx {}) with slots := [(200, { state := .bound })] } 0x0301 bindRecord, 1, 200, cmd 0x0301 bindRecord, bindMembers, [], [], _, rfl, _,
    rfl, _, rfl, by decide +kernel⟩

theorem test_slotsAreBoundAndUnbound_4 : ∃ s : State, ∃ c l : Nat, ∃ k : Cmd, ∃ m n o : List Byte, ∃ S s1, ∃ T, T = k.tables m n o ∧ ∃ b, b =
    parseBinding k.params ∧ ∃ s0, s0 = s.take c ∧ ∃ r, r = s0.reserveSlot { cmd := some c } l b ((records T.1 0 32 b.nloc).map parseMember) ((records
    T.2.1 0 32 b.nnbr).map parseNbr) ∧ s.carries 0x0301 c k ∧ fieldAt k.params 0 1 = l ∧ fieldAt k.params 1 1 ≠ 0 ∧ s0.bindOk l k.params T.1 T.2.1 T.2.2 =
    true ∧ s.ctxOk b.ctx = true ∧ (s.ctx b.ctx).loaded = true ∧ (s.slot l).state = .free ∧ r = .got S s1 ∧ answers (exec (.collBind c m n o) s)
    ((((s1.modSlot l fun _ => S.withOps T.2.2).steerLanes l S.laneTs).finish c stOk [S.cells, S.bufBytes, bit !S.bufs.isEmpty, b.gen]).leaveQueue
    { cmd := some c }) = true :=
  ⟨given (inCtx {}) 0x0301 bindRecord, 1, 200, cmd 0x0301 bindRecord, bindMembers, [], [], reserved.1, reserved.2, _, rfl, _, rfl, _, rfl, _, rfl,
    by decide +kernel⟩

theorem test_slotsAreBoundAndUnbound_5 : ∃ s : State, ∃ c l : Nat, ∃ k : Cmd, ∃ m n o : List Byte, ∃ w, ∃ T, T = k.tables m n o ∧ ∃ b, b =
    parseBinding k.params ∧ ∃ s0, s0 = s.take c ∧ ∃ r, r = s0.reserveSlot { cmd := some c } l b ((records T.1 0 32 b.nloc).map parseMember) ((records
    T.2.1 0 32 b.nnbr).map parseNbr) ∧ s.carries 0x0301 c k ∧ fieldAt k.params 0 1 = l ∧ fieldAt k.params 1 1 ≠ 0 ∧ s0.bindOk l k.params T.1 T.2.1 T.2.2 =
    true ∧ s.ctxOk b.ctx = true ∧ (s.ctx b.ctx).loaded = true ∧ (s.slot l).state = .free ∧ r = .wait w ∧ answers (exec (.collBind c m n o) s) (s.await
    { cmd := some c } w) = true :=
  ⟨given (rebuilding (inCtx {})) 0x0301 bigRecord, 1, 200, cmd 0x0301 bigRecord, bindMembers, [], [], .list 12 none, _, rfl, _, rfl, _, rfl, _, rfl,
    by decide +kernel⟩

theorem test_slotsAreBoundAndUnbound_6 : ∃ s : State, ∃ c l : Nat, ∃ k : Cmd, ∃ m n o : List Byte, ∃ T, T = k.tables m n o ∧ ∃ b, b = parseBinding
    k.params ∧ ∃ s0, s0 = s.take c ∧ ∃ r, r = s0.reserveSlot { cmd := some c } l b ((records T.1 0 32 b.nloc).map parseMember) ((records T.2.1 0 32
    b.nnbr).map parseNbr) ∧ s.carries 0x0301 c k ∧ fieldAt k.params 0 1 = l ∧ fieldAt k.params 1 1 ≠ 0 ∧ s0.bindOk l k.params T.1 T.2.1 T.2.2 = true ∧
    s.ctxOk b.ctx = true ∧ (s.ctx b.ctx).loaded = true ∧ (s.slot l).state = .free ∧ (r = .noFit ∨ r = .empty) ∧ answers (exec (.collBind c m n o) s)
    ((s0.finish c stNoFit).leaveQueue { cmd := some c }) = true :=
  ⟨given { (inCtx {}) with pwr := {} } 0x0301 bindRecord, 1, 200, cmd 0x0301 bindRecord, bindMembers, [], [], _, rfl, _, rfl, _, rfl, _, rfl,
    by decide +kernel⟩

theorem test_slotsAreBoundAndUnbound_7 : ∃ s : State, ∃ c l : Nat, ∃ k : Cmd, ∃ S, S = s.slot l ∧ s.carries 0x0301 c k ∧ fieldAt k.params 0 1 = l ∧
    fieldAt k.params 1 1 = 0 ∧ S.state ≠ .free ∧ fieldAt k.params 51 1 = 0 ∧ allZero (slice k.params 80 48) = true ∧ fieldAt k.params 28 4 < 32 ∧ (S.bufs
    = [] ∨ (s.take c).writesOpen S.bind.ctx = false) ∧ answers (exec (.collUnbind c) s) (((S.bufs.mergeSort (· ≤ ·)).foldl State.giveAddr ((s.take
    c).unbind l)).finish c stOk) = true :=
  ⟨given (slotted (boundSlot twoRanks) []) 0x0301 (fields 128 [(0, 1, 200)]), 1, 200, cmd 0x0301 (fields 128 [(0, 1, 200)]), _, rfl, by decide +kernel⟩

theorem test_slotsAreBoundAndUnbound_8 : ∃ s : State, ∃ c l : Nat, ∃ k : Cmd, ∃ S, S = s.slot l ∧ s.carries 0x0301 c k ∧ fieldAt k.params 0 1 = l ∧
    fieldAt k.params 1 1 = 0 ∧ S.state ≠ .free ∧ fieldAt k.params 51 1 = 0 ∧ allZero (slice k.params 80 48) = true ∧ fieldAt k.params 28 4 < 32 ∧ S.bufs ≠
    [] ∧ (s.take c).writesOpen S.bind.ctx = true ∧ answers (exec (.collUnbind c) s) (s) = true :=
  ⟨given { (inCtx (running [devEntry .mvPut 0])) with slots := [(200, { boundSlot twoRanks with bufs := [0x438000000] })] } 0x0301 (fields 128 [(0, 1,
    200)]), 1, 200, cmd 0x0301 (fields 128 [(0, 1, 200)]), _, rfl, by decide +kernel⟩

theorem test_slotsAreBoundAndUnbound_9 : ∃ s : State, ∃ c l : Nat, ∃ k : Cmd, ∃ S, S = s.slot l ∧ s.carries 0x0301 c k ∧ fieldAt k.params 0 1 = l ∧
    fieldAt k.params 1 1 = 0 ∧ (S.state = .free ∨ fieldAt k.params 51 1 ≠ 0 ∨ allZero (slice k.params 80 48) = false ∨ 32 ≤ fieldAt k.params 28 4) ∧
    answers (exec (.collUnbind c) s) ((s.take c).finish c stBadParam) = true :=
  ⟨given booted 0x0301 (fields 128 [(0, 1, 200)]), 1, 200, cmd 0x0301 (fields 128 [(0, 1, 200)]), _, rfl, by decide +kernel⟩

theorem test_slotsAreQueriedAndSubstituted_1 : ∃ s : State, ∃ c : Nat, ∃ k : Cmd, ∃ S, S = s.slot (fieldAt k.params 12 1) ∧ ∃ data, data = toLE 4
    S.state.code ++ ([S.proto, S.window, S.dup, S.gateDrop, S.capDrop].map fun v => toLE 8 v.toNat).flatten ++ padTo 128 S.bind.raw ++ (S.members.map fun
    m => toLE 4 m.timesLast ++ [0#8, 0#8, 0#8, 0#8] ++ toLE 8 m.lateness).flatten ++ (S.nbrs.map fun m => toLE 4 m.timesLast ++ [0#8, 0#8, 0#8, 0#8] ++
    toLE 8 m.lateness).flatten ++ S.strag.flatten ∧ s.carries 0x0303 c k ∧ allZero (k.params.drop 13) = true ∧ S.state ≠ .free ∧ k.takes data.length ∧
    answers (exec (.collQuery c) s) (s.reported k [S.strag.length] data) = true :=
  ⟨given (slotted (boundSlot twoRanks) []) 0x0303 (fields 16 [(0, 8, 16384), (8, 4, 4096), (12, 1, 200)]), 1, cmd 0x0303 (fields 16 [(0, 8, 16384),
    (8, 4, 4096), (12, 1, 200)]), _, rfl, _, rfl, by decide +kernel⟩

theorem test_slotsAreQueriedAndSubstituted_2 : ∃ s : State, ∃ c : Nat, ∃ k : Cmd, ∃ S, S = s.slot (fieldAt k.params 12 1) ∧ s.carries 0x0303 c k ∧
    (allZero (k.params.drop 13) = false ∨ S.state = .free) ∧ answers (exec (.collQuery c) s) ((s.take c).finish c stBadParam) = true :=
  ⟨given booted 0x0303 (fields 16 [(12, 1, 200)]), 1, cmd 0x0303 (fields 16 [(12, 1, 200)]), _, rfl, by decide +kernel⟩

theorem test_slotsAreQueriedAndSubstituted_3 : ∃ s : State, ∃ c : Nat, ∃ k : Cmd, ∃ now q s1, ∃ l, l = fieldAt k.params 0 1 ∧ ∃ S, S = s.slot l ∧ ∃ r,
    r = fieldAt k.params 2 2 ∧ ∃ e, e = slice k.params 4 32 ∧ ∃ m, m = parseMember e ∧ s.carries 0x0304 c k ∧ fieldAt k.params 1 1 = bit now ∧ S.state =
    .bound ∧ S.isLocal r = true ∧ m.rank = r ∧ memberEntryOk S.bind e = true ∧ s.routeUp m.route = true ∧ (if S.queues.any (fun q => q.1 == fieldAt
    m.route 1 1 % 64) then some ([], s.take c) else (s.take c).takeSlotQueues l S.bind [fieldAt m.route 1 1 % 64]) = some (q, s1) ∧ answers (exec
    (.collSubstitute c) s) ((((if now then s1.abortSteps l stRetry S.uncommitted none else s1).modSlot l fun S' =>
    { S' with queues := S'.queues ++ q, members := S'.members.map fun x => if x.rank = r then { m with since := S.effStep now, old := x.entry :: x.old } else x }).finish
    c stOk [S.effStep now])) = true :=
  ⟨given { (slotted { boundSlot twoRanks with queues := [(36, 7)] } []) with ctxs := [(9, { live := true, loaded := true, tillers := [191] })] }
    0x0304 (fields 36 [(0, 1, 200), (2, 2, 1), (4, 2, 1), (6, 1, 36), (12, 2, 0x2410)]), 1, cmd 0x0304 (fields 36 [(0, 1, 200), (2, 2, 1), (4, 2, 1), (6,
    1, 36), (12, 2, 0x2410)]), false, [], (given
    { (slotted { boundSlot twoRanks with queues := [(36, 7)] } []) with ctxs := [(9, { live := true, loaded := true, tillers := [191] })] } 0x0304 (fields
    36 [(0, 1, 200), (2, 2, 1), (4, 2, 1), (6, 1, 36), (12, 2, 0x2410)])).take 1, _, rfl, _, rfl, _, rfl, _, rfl, _, rfl, by decide +kernel⟩

theorem test_slotsAreQueriedAndSubstituted_4 : ∃ s : State, ∃ c : Nat, ∃ k : Cmd, ∃ now, ∃ l, l = fieldAt k.params 0 1 ∧ ∃ S, S = s.slot l ∧ ∃ r, r =
    fieldAt k.params 2 2 ∧ ∃ e, e = slice k.params 4 32 ∧ ∃ m, m = parseMember e ∧ s.carries 0x0304 c k ∧ fieldAt k.params 1 1 = bit now ∧ S.state =
    .bound ∧ S.isLocal r = true ∧ m.rank = r ∧ memberEntryOk S.bind e = true ∧ s.routeUp m.route = false ∧ answers (exec (.collSubstitute c) s) ((s.take
    c).finish c stNoFit) = true :=
  ⟨given { (slotted { boundSlot twoRanks with queues := [(36, 7)] } []) with ctxs := [(9, { live := true, loaded := true, tillers := [191] })] }
    0x0304 (fields 36 [(0, 1, 200), (2, 2, 1), (4, 2, 1), (6, 1, 36), (12, 2, 0x0510)]), 1, cmd 0x0304 (fields 36 [(0, 1, 200), (2, 2, 1), (4, 2, 1), (6,
    1, 36), (12, 2, 0x0510)]), false, _, rfl, _, rfl, _, rfl, _, rfl, _, rfl, by decide +kernel⟩

theorem test_slotsAreQueriedAndSubstituted_5 : ∃ s : State, ∃ c : Nat, ∃ k : Cmd, ∃ now, ∃ l, l = fieldAt k.params 0 1 ∧ ∃ S, S = s.slot l ∧ ∃ r, r =
    fieldAt k.params 2 2 ∧ ∃ e, e = slice k.params 4 32 ∧ ∃ m, m = parseMember e ∧ s.carries 0x0304 c k ∧ fieldAt k.params 1 1 = bit now ∧ (S.state ≠
    .bound ∨ S.isLocal r = false ∨ m.rank ≠ r ∨ memberEntryOk S.bind e = false) ∧ answers (exec (.collSubstitute c) s) ((s.take c).finish c stBadParam) =
    true :=
  ⟨given booted 0x0304 (fields 36 [(0, 1, 200), (2, 2, 1), (4, 2, 1), (6, 1, 36), (12, 2, 0x2410)]), 1, cmd 0x0304 (fields 36 [(0, 1, 200), (2, 2, 1),
    (4, 2, 1), (6, 1, 36), (12, 2, 0x2410)]), false, _, rfl, _, rfl, _, rfl, _, rfl, _, rfl, by decide +kernel⟩

theorem test_collectivePacketsAreTakenOnce_1 : ∃ s : State, ∃ t : Nat, ∃ p : Pkt, ∃ why : Nat, ∃ s1, s1 = ((s.release p).modT t fun T =>
    { T with recvQ := T.recvQ.tail }).collDrop p.slotNo why ∧ t < 192 ∧ s.live = true ∧ s.dev.state ≠ .wedged ∧ s.collHead t = some p ∧ s.refuses p
    (readPrefix p.payload) = some why ∧ (readPrefix p.payload).kind = kContrib ∧ answers (exec (.contribReceive t) s) (s1) = true :=
  ⟨slotted { boundSlot twoRanks with state := .faulted } [slotPacket { kind := kContrib, rank := 1, step := 3 } []], 191, slotPacket
    { kind := kContrib, rank := 1, step := 3 } [], 1, _, rfl, by decide +kernel⟩

theorem test_collectivePacketsAreTakenOnce_2 : ∃ s : State, ∃ t : Nat, ∃ p : Pkt, ∃ why : Nat, ∃ s1, s1 = ((s.release p).modT t fun T =>
    { T with recvQ := T.recvQ.tail }).collDrop p.slotNo why ∧ t < 192 ∧ s.live = true ∧ s.dev.state ≠ .wedged ∧ s.collHead t = some p ∧ s.refuses p
    (readPrefix p.payload) = some why ∧ (readPrefix p.payload).kind = kCount ∧ answers (exec (.countReceive t) s) (s1) = true :=
  ⟨slotted { boundSlot twoRanks with state := .faulted } [slotPacket { kind := kCount, rank := 1, step := 3 } []], 191, slotPacket
    { kind := kCount, rank := 1, step := 3 } [], 1, _, rfl, by decide +kernel⟩

theorem test_collectivePacketsAreTakenOnce_3 : ∃ s : State, ∃ t : Nat, ∃ p : Pkt, ∃ why : Nat, ∃ s1, s1 = ((s.release p).modT t fun T =>
    { T with recvQ := T.recvQ.tail }).collDrop p.slotNo why ∧ t < 192 ∧ s.live = true ∧ s.dev.state ≠ .wedged ∧ s.collHead t = some p ∧ s.refuses p
    (readPrefix p.payload) = some why ∧ (readPrefix p.payload).kind = kPartial ∧ answers (exec (.partialReceive t) s) (s1) = true :=
  ⟨slotted { boundSlot twoRanks with state := .faulted } [slotPacket { kind := kPartial, rank := 1, step := 3 } []], 191, slotPacket
    { kind := kPartial, rank := 1, step := 3 } [], 1, _, rfl, by decide +kernel⟩

theorem test_collectivePacketsAreTakenOnce_4 : ∃ s : State, ∃ t : Nat, ∃ p : Pkt, ∃ why : Nat, ∃ s1, s1 = ((s.release p).modT t fun T =>
    { T with recvQ := T.recvQ.tail }).collDrop p.slotNo why ∧ t < 192 ∧ s.live = true ∧ s.dev.state ≠ .wedged ∧ s.collHead t = some p ∧ s.refuses p
    (readPrefix p.payload) = some why ∧ (readPrefix p.payload).kind = kResult ∧ answers (exec (.resultReceive t) s) (s1) = true :=
  ⟨slotted { boundSlot twoRanks with state := .faulted } [slotPacket { kind := kResult, rank := 1, step := 3 } []], 191, slotPacket
    { kind := kResult, rank := 1, step := 3 } [], 1, _, rfl, by decide +kernel⟩

theorem test_collectivePacketsAreTakenOnce_5 : ∃ s : State, ∃ t : Nat, ∃ p : Pkt, ∃ why : Nat, ∃ s1, s1 = ((s.release p).modT t fun T =>
    { T with recvQ := T.recvQ.tail }).collDrop p.slotNo why ∧ t < 192 ∧ s.live = true ∧ s.dev.state ≠ .wedged ∧ s.collHead t = some p ∧ s.refuses p
    (readPrefix p.payload) = some why ∧ (readPrefix p.payload).kind = kAbort ∧ answers (exec (.stepAbortReceive t) s) (s1) = true :=
  ⟨slotted { boundSlot twoRanks with state := .faulted } [slotPacket { kind := kAbort, rank := 1, step := 3 } []], 191, slotPacket
    { kind := kAbort, rank := 1, step := 3 } [], 1, _, rfl, by decide +kernel⟩

theorem test_collectivePacketsAreTakenOnce_6 : ∃ s : State, ∃ t : Nat, ∃ p : Pkt, ∃ why : Nat, ∃ s1, s1 = ((s.release p).modT t fun T =>
    { T with recvQ := T.recvQ.tail }).collDrop p.slotNo why ∧ t < 192 ∧ s.live = true ∧ s.dev.state ≠ .wedged ∧ s.collHead t = some p ∧ s.refuses p
    (readPrefix p.payload) = some why ∧ (readPrefix p.payload).kind = kReplay ∧ answers (exec (.stepReplayReceive t) s) (s1) = true :=
  ⟨slotted { boundSlot twoRanks with state := .faulted } [slotPacket { kind := kReplay, rank := 1, step := 3 } []], 191, slotPacket
    { kind := kReplay, rank := 1, step := 3 } [], 1, _, rfl, by decide +kernel⟩

theorem test_collectivePacketsAreTakenOnce_7 : ∃ s : State, ∃ t : Nat, ∃ p : Pkt, ∃ why : Nat, ∃ s1, s1 = ((s.release p).modT t fun T =>
    { T with recvQ := T.recvQ.tail }).collDrop p.slotNo why ∧ t < 192 ∧ s.live = true ∧ s.dev.state ≠ .wedged ∧ s.collHead t = some p ∧ s.refuses p
    (readPrefix p.payload) = some why ∧ (readPrefix p.payload).kind = kRequest ∧ answers (exec (.resultRequestReceive t) s) (s1) = true :=
  ⟨slotted { boundSlot twoRanks with state := .faulted } [slotPacket { kind := kRequest, rank := 1, step := 3 } []], 191, slotPacket
    { kind := kRequest, rank := 1, step := 3 } [], 1, _, rfl, by decide +kernel⟩

theorem test_collectivePacketsAreTakenOnce_8 : ∃ s : State, ∃ t : Nat, t < 192 ∧ s.dev.state = .wedged ∧ answers (exec (.contribReceive t) s) (s) =
    true ∧ answers (exec (.countReceive t) s) (s) = true ∧ answers (exec (.partialReceive t) s) (s) = true ∧ answers (exec (.resultReceive t) s) (s) =
    true ∧ answers (exec (.stepAbortReceive t) s) (s) = true ∧ answers (exec (.stepReplayReceive t) s) (s) = true ∧ answers (exec (.resultRequestReceive
    t) s) (s) = true :=
  ⟨{ booted with dev := { booted.dev with state := .wedged } }, 191, by decide +kernel⟩

theorem test_collectivePacketsAreTakenOnce_9 : ∃ s : State, ∃ l : Nat, ∃ p : Pkt, ∃ c : CPrefix, ∃ i : Option Nat, ∃ ok : Bool, (ok = false ∨ (s.slot
    l).bind.chunkOk (s.stepOf l c.step) p c = false) :=
  ⟨slotted { boundSlot twoRanks with prevGen := some 5 } [slotPacket { kind := kContrib, rank := 1, step := 3, flags := 1 } [1#8, 2#8, 3#8, 4#8]],
    200, slotPacket { kind := kContrib, rank := 1, step := 3, flags := 1 } [1#8, 2#8, 3#8, 4#8], readPrefix (slotPacket
    { kind := kContrib, rank := 1, step := 3, flags := 1 } [1#8, 2#8, 3#8, 4#8]).payload, none, false, by decide +kernel⟩

theorem test_collectivePacketsAreTakenOnce_10 : ∃ s : State, ∃ l : Nat, ∃ p : Pkt, ∃ c : CPrefix, ∃ i : Option Nat, ∃ (ok : Bool), ok = true ∧ (s.slot
    l).bind.chunkOk (s.stepOf l c.step) p c = true ∧ (s.stepOf l c.step).holds c = true :=
  ⟨slotted { boundSlot twoRanks with prevGen := some 5, steps := [{ num := 3, streams := [{ rank := 1, chunks := [(0, 0, [])] }] }] } [slotPacket
    { kind := kContrib, rank := 1, step := 3, flags := 1 } [1#8, 2#8, 3#8, 4#8]], 200, slotPacket { kind := kContrib, rank := 1, step := 3, flags := 1 }
    [1#8, 2#8, 3#8, 4#8], readPrefix (slotPacket { kind := kContrib, rank := 1, step := 3, flags := 1 } [1#8, 2#8, 3#8, 4#8]).payload, none, _, rfl,
    by decide +kernel⟩

theorem test_collectivePacketsAreTakenOnce_11 : ∃ s : State, ∃ l : Nat, ∃ p : Pkt, ∃ c : CPrefix, ∃ i : Option Nat, ∃ (ok : Bool), ok = true ∧ (s.slot
    l).bind.chunkOk (s.stepOf l c.step) p c = true ∧ (s.stepOf l c.step).holds c = false :=
  ⟨slotted { boundSlot twoRanks with prevGen := some 5 } [slotPacket { kind := kContrib, rank := 1, step := 3, flags := 1 } [1#8, 2#8, 3#8, 4#8]],
    200, slotPacket { kind := kContrib, rank := 1, step := 3, flags := 1 } [1#8, 2#8, 3#8, 4#8], readPrefix (slotPacket
    { kind := kContrib, rank := 1, step := 3, flags := 1 } [1#8, 2#8, 3#8, 4#8]).payload, none, _, rfl, by decide +kernel⟩

theorem test_collectivePacketsAreTakenOnce_12 : ∃ s s1 : State, ∃ t l : Nat, ∃ p : Pkt, ∃ c : CPrefix, ∃ S, S = s1.slot l ∧ ∃ i, i = S.senderOf c ∧ ∃
    d, d = (s1.contribOk l p c && S.bind.chunkOk (s1.stepOf l c.step) p c && !(s1.stepOf l c.step).holds c && s1.tooMuch l c (collData p c)) ∧ s.accepts t
    l p c s1 ∧ c.kind = kContrib ∧ d = false :=
  ⟨slotted (boundSlot twoRanks) [slotPacket { kind := kContrib, rank := 1, step := 3, flags := 1 } [1#8, 2#8, 3#8, 4#8]], takenOff (slotted (boundSlot
    twoRanks) [slotPacket { kind := kContrib, rank := 1, step := 3, flags := 1 } [1#8, 2#8, 3#8, 4#8]]) (slotPacket
    { kind := kContrib, rank := 1, step := 3, flags := 1 } [1#8, 2#8, 3#8, 4#8]), 191, 200, slotPacket
    { kind := kContrib, rank := 1, step := 3, flags := 1 } [1#8, 2#8, 3#8, 4#8], readPrefix (slotPacket
    { kind := kContrib, rank := 1, step := 3, flags := 1 } [1#8, 2#8, 3#8, 4#8]).payload, _, rfl, _, rfl, _, rfl, by decide +kernel⟩

theorem test_collectivePacketsAreTakenOnce_13 : ∃ s s1 : State, ∃ t l : Nat, ∃ p : Pkt, ∃ c : CPrefix, ∃ S, S = s1.slot l ∧ ∃ i, i = S.senderOf c ∧ ∃
    d, d = (s1.contribOk l p c && S.bind.chunkOk (s1.stepOf l c.step) p c && !(s1.stepOf l c.step).holds c && s1.tooMuch l c (collData p c)) ∧ s.accepts t
    l p c s1 ∧ c.kind = kContrib ∧ d = true :=
  ⟨slotted { boundSlot twoRanks with steps := [{ num := 3, streams := [{ rank := 1, chunks := [(0, 0, List.replicate 256 1#8)] }] }] } [slotPacket
    { kind := kContrib, rank := 1, step := 3, flags := 1, chunk := 1 } [1#8, 2#8, 3#8, 4#8]], takenOff (slotted
    { boundSlot twoRanks with steps := [{ num := 3, streams := [{ rank := 1, chunks := [(0, 0, List.replicate 256 1#8)] }] }] } [slotPacket
    { kind := kContrib, rank := 1, step := 3, flags := 1, chunk := 1 } [1#8, 2#8, 3#8, 4#8]]) (slotPacket
    { kind := kContrib, rank := 1, step := 3, flags := 1, chunk := 1 } [1#8, 2#8, 3#8, 4#8]), 191, 200, slotPacket
    { kind := kContrib, rank := 1, step := 3, flags := 1, chunk := 1 } [1#8, 2#8, 3#8, 4#8], readPrefix (slotPacket
    { kind := kContrib, rank := 1, step := 3, flags := 1, chunk := 1 } [1#8, 2#8, 3#8, 4#8]).payload, _, rfl, _, rfl, _, rfl, by decide +kernel⟩

theorem test_collectivePacketsAreTakenOnce_14 : ∃ s s1 : State, ∃ t l : Nat, ∃ p : Pkt, ∃ c : CPrefix, ∃ S, S = s1.slot l ∧ ∃ i, i = S.senderOf c ∧
    s.accepts t l p c s1 ∧ c.kind = kCount ∧ S.isLocal c.rank = true ∧ S.bind.xtopo = 2 ∧ S.bind.counts = true ∧ S.bind.memberCounts = false ∧ S.nbrOnPort
    p ≠ none :=
  ⟨slotted { boundSlot { op := opFilter, xtopo := 2, gsize := 2, nloc := 2 } with nbrs := [{ role := 3 }] } [slotPacket
    { kind := kCount, rank := 1, step := 3, flags := 1 } [1#8, 2#8, 3#8, 4#8]], takenOff (slotted
    { boundSlot { op := opFilter, xtopo := 2, gsize := 2, nloc := 2 } with nbrs := [{ role := 3 }] } [slotPacket
    { kind := kCount, rank := 1, step := 3, flags := 1 } [1#8, 2#8, 3#8, 4#8]]) (slotPacket { kind := kCount, rank := 1, step := 3, flags := 1 } [1#8,
    2#8, 3#8, 4#8]), 191, 200, slotPacket { kind := kCount, rank := 1, step := 3, flags := 1 } [1#8, 2#8, 3#8, 4#8], readPrefix (slotPacket
    { kind := kCount, rank := 1, step := 3, flags := 1 } [1#8, 2#8, 3#8, 4#8]).payload, _, rfl, _, rfl, by decide +kernel⟩

theorem test_collectivePacketsAreTakenOnce_15 : ∃ s s1 : State, ∃ t l : Nat, ∃ p : Pkt, ∃ c : CPrefix, ∃ S, S = s1.slot l ∧ ∃ i, i = S.senderOf c ∧
    s.accepts t l p c s1 ∧ c.kind = kCount ∧ S.isLocal c.rank = true ∧ S.bind.op = opDispatch ∧ (S.bind.xtopo ≠ 2 ∨ S.bind.memberCounts = true) :=
  ⟨slotted (boundSlot { op := opDispatch, p0 := 1, p1 := 1, gsize := 2, nloc := 2 }) [slotPacket { kind := kCount, rank := 1, step := 3, flags := 1 }
    [1#8, 2#8, 3#8, 4#8]], takenOff (slotted (boundSlot { op := opDispatch, p0 := 1, p1 := 1, gsize := 2, nloc := 2 }) [slotPacket
    { kind := kCount, rank := 1, step := 3, flags := 1 } [1#8, 2#8, 3#8, 4#8]]) (slotPacket { kind := kCount, rank := 1, step := 3, flags := 1 } [1#8,
    2#8, 3#8, 4#8]), 191, 200, slotPacket { kind := kCount, rank := 1, step := 3, flags := 1 } [1#8, 2#8, 3#8, 4#8], readPrefix (slotPacket
    { kind := kCount, rank := 1, step := 3, flags := 1 } [1#8, 2#8, 3#8, 4#8]).payload, _, rfl, _, rfl, by decide +kernel⟩

theorem test_collectivePacketsAreTakenOnce_16 : ∃ s s1 : State, ∃ t l : Nat, ∃ p : Pkt, ∃ c : CPrefix, ∃ S, S = s1.slot l ∧ ∃ i, i = S.senderOf c ∧ ∃
    s2, s2 = s1.admitPacket l p c i (S.bind.counts && i.isSome && decide (c.rank < S.bind.gsize) && !S.fromMember p) ∧ s.accepts t l p c s1 ∧ c.kind =
    kCount ∧ S.isLocal c.rank = false ∧ (s1.stepOf l c.step).holds c = false ∧ (s2.stepOf l c.step).holds c = true :=
  ⟨slotted
    { boundSlot { op := opSort, xtopo := 1, gsize := 2, nloc := 1 } with members := [{ rank := 0, port := 36 }], nbrs := [{ role := 2, lo := 1, hi := 1 }] }
    [slotPacket { kind := kCount, rank := 1, step := 3 } [1#8, 2#8, 3#8, 4#8]], takenOff (slotted
    { boundSlot { op := opSort, xtopo := 1, gsize := 2, nloc := 1 } with members := [{ rank := 0, port := 36 }], nbrs := [{ role := 2, lo := 1, hi := 1 }] }
    [slotPacket { kind := kCount, rank := 1, step := 3 } [1#8, 2#8, 3#8, 4#8]]) (slotPacket { kind := kCount, rank := 1, step := 3 } [1#8, 2#8, 3#8,
    4#8]), 191, 200, slotPacket { kind := kCount, rank := 1, step := 3 } [1#8, 2#8, 3#8, 4#8], readPrefix (slotPacket
    { kind := kCount, rank := 1, step := 3 } [1#8, 2#8, 3#8, 4#8]).payload, _, rfl, _, rfl, _, rfl, by decide +kernel⟩

theorem test_collectivePacketsAreTakenOnce_17 : ∃ s s1 : State, ∃ t l : Nat, ∃ p : Pkt, ∃ c : CPrefix, ∃ S, S = s1.slot l ∧ ∃ i, i = S.senderOf c ∧ ∃
    s2, s2 = s1.admitPacket l p c i (S.bind.counts && i.isSome && decide (c.rank < S.bind.gsize) && !S.fromMember p) ∧ s.accepts t l p c s1 ∧ c.kind =
    kCount ∧ S.isLocal c.rank = false ∧ (s1.stepOf l c.step).holds c = false ∧ (s2.stepOf l c.step).holds c = false :=
  ⟨slotted { boundSlot { op := opDispatch, p0 := 1, p1 := 1, xtopo := 1, gsize := 3, nloc := 2 } with nbrs := [{ role := 2, lo := 2, hi := 1 }] }
    [slotPacket { kind := kCount, rank := 2, step := 3, flags := 1 } [1#8, 2#8, 3#8, 4#8]], takenOff (slotted
    { boundSlot { op := opDispatch, p0 := 1, p1 := 1, xtopo := 1, gsize := 3, nloc := 2 } with nbrs := [{ role := 2, lo := 2, hi := 1 }] } [slotPacket
    { kind := kCount, rank := 2, step := 3, flags := 1 } [1#8, 2#8, 3#8, 4#8]]) (slotPacket { kind := kCount, rank := 2, step := 3, flags := 1 } [1#8,
    2#8, 3#8, 4#8]), 191, 200, slotPacket { kind := kCount, rank := 2, step := 3, flags := 1 } [1#8, 2#8, 3#8, 4#8], readPrefix (slotPacket
    { kind := kCount, rank := 2, step := 3, flags := 1 } [1#8, 2#8, 3#8, 4#8]).payload, _, rfl, _, rfl, _, rfl, by decide +kernel⟩

theorem test_collectivePacketsAreTakenOnce_18 : ∃ s s1 : State, ∃ t l : Nat, ∃ p : Pkt, ∃ c : CPrefix, ∃ S, S = s1.slot l ∧ ∃ i, i = S.senderOf c ∧
    s.accepts t l p c s1 ∧ c.kind = kPartial ∧ S.bind.reducing = false :=
  ⟨slotted { boundSlot { op := opAllGather, xtopo := 1, gsize := 3, nloc := 2 } with nbrs := [{ role := 2, lo := 2, hi := 2 }] } [slotPacket
    { kind := kPartial, rank := 1, step := 3, flags := 8, tag := 2 } (List.replicate 32 1#8)], takenOff (slotted
    { boundSlot { op := opAllGather, xtopo := 1, gsize := 3, nloc := 2 } with nbrs := [{ role := 2, lo := 2, hi := 2 }] } [slotPacket
    { kind := kPartial, rank := 1, step := 3, flags := 8, tag := 2 } (List.replicate 32 1#8)]) (slotPacket
    { kind := kPartial, rank := 1, step := 3, flags := 8, tag := 2 } (List.replicate 32 1#8)), 191, 200, slotPacket
    { kind := kPartial, rank := 1, step := 3, flags := 8, tag := 2 } (List.replicate 32 1#8), readPrefix (slotPacket
    { kind := kPartial, rank := 1, step := 3, flags := 8, tag := 2 } (List.replicate 32 1#8)).payload, _, rfl, _, rfl, by decide +kernel⟩

theorem test_collectivePacketsAreTakenOnce_19 : ∃ s s1 : State, ∃ t l : Nat, ∃ p : Pkt, ∃ c : CPrefix, ∃ S, S = s1.slot l ∧ ∃ i, i = S.senderOf c ∧
    s.accepts t l p c s1 ∧ c.kind = kPartial ∧ S.bind.reducing = true ∧ s1.arrivalOrder = true :=
  ⟨{ (slotted { boundSlot { op := opAllReduce, xtopo := 1, gsize := 3, nloc := 2 } with nbrs := [{ role := 2, lo := 2, hi := 2 }] } [slotPacket { kind := kPartial, rank := 1, step := 3, flags := 9, tag := 2 } [1#8, 2#8, 3#8, 4#8]]) with dev := { booted.dev with mode := 0#32 } },
    takenOff
    ({ (slotted { boundSlot { op := opAllReduce, xtopo := 1, gsize := 3, nloc := 2 } with nbrs := [{ role := 2, lo := 2, hi := 2 }] } [slotPacket { kind := kPartial, rank := 1, step := 3, flags := 9, tag := 2 } [1#8, 2#8, 3#8, 4#8]]) with dev := { booted.dev with mode := 0#32 } })
    (slotPacket { kind := kPartial, rank := 1, step := 3, flags := 9, tag := 2 } [1#8, 2#8, 3#8, 4#8]), 191, 200, slotPacket
    { kind := kPartial, rank := 1, step := 3, flags := 9, tag := 2 } [1#8, 2#8, 3#8, 4#8], readPrefix (slotPacket
    { kind := kPartial, rank := 1, step := 3, flags := 9, tag := 2 } [1#8, 2#8, 3#8, 4#8]).payload, _, rfl, _, rfl, by decide +kernel⟩

theorem test_collectivePacketsAreTakenOnce_20 : ∃ s s1 : State, ∃ t l : Nat, ∃ p : Pkt, ∃ c : CPrefix, ∃ S, S = s1.slot l ∧ ∃ i, i = S.senderOf c ∧
    s.accepts t l p c s1 ∧ c.kind = kResult :=
  ⟨slotted { boundSlot { op := opAllGather, xtopo := 1, gsize := 3, nloc := 2 } with nbrs := [{ role := 1 }] } [slotPacket
    { kind := kResult, rank := 1, step := 3 } (List.replicate 32 1#8)], takenOff (slotted
    { boundSlot { op := opAllGather, xtopo := 1, gsize := 3, nloc := 2 } with nbrs := [{ role := 1 }] } [slotPacket
    { kind := kResult, rank := 1, step := 3 } (List.replicate 32 1#8)]) (slotPacket { kind := kResult, rank := 1, step := 3 } (List.replicate 32 1#8)),
    191, 200, slotPacket { kind := kResult, rank := 1, step := 3 } (List.replicate 32 1#8), readPrefix (slotPacket
    { kind := kResult, rank := 1, step := 3 } (List.replicate 32 1#8)).payload, _, rfl, _, rfl, by decide +kernel⟩

theorem test_collectivePacketsAreTakenOnce_21 : ∃ s : State, ∃ t : Nat, ∃ p : Pkt, ∃ (c : CPrefix), c = readPrefix p.payload ∧ ∃ (l : Nat), l =
    p.slotNo ∧ ∃ s1, s1 = (s.release p).modT t (fun T => { T with recvQ := T.recvQ.tail }) ∧ t < 192 ∧ s.live = true ∧ s.dev.state ≠ .wedged ∧ s.collHead
    t = some p ∧ s.refuses p c = none ∧ (s.slot l).bind.user = true ∧ c.kind = kContrib ∧ (s1.slot l).fromReplaced p c = true :=
  ⟨slotted
    { boundSlot { op := 0x80, gsize := 2, nloc := 2 } with prevGen := some 5, members := [{ rank := 1, port := 36, since := 2, old := [{ port := 3 }] }] }
    [slotPacket { kind := kContrib, rank := 1, step := 3, flags := 1 } [1#8, 2#8, 3#8, 4#8]], 191, slotPacket
    { kind := kContrib, rank := 1, step := 3, flags := 1 } [1#8, 2#8, 3#8, 4#8], _, rfl, _, rfl, _, rfl, by decide +kernel⟩

theorem test_collectivePacketsAreTakenOnce_22 : ∃ s : State, ∃ t : Nat, ∃ p : Pkt, ∃ (c : CPrefix), c = readPrefix p.payload ∧ ∃ (l : Nat), l =
    p.slotNo ∧ ∃ s1, s1 = (s.release p).modT t (fun T => { T with recvQ := T.recvQ.tail }) ∧ t < 192 ∧ s.live = true ∧ s.dev.state ≠ .wedged ∧ s.collHead
    t = some p ∧ s.refuses p c = none ∧ (s.slot l).bind.user = true ∧ c.kind = kContrib ∧ (s1.slot l).fromReplaced p c = false ∧ (s1.stepOf l
    c.step).holds c = true :=
  ⟨slotted
    { boundSlot { op := 0x80, gsize := 2, nloc := 2 } with prevGen := some 5, steps := [{ num := 3, streams := [{ rank := 1, chunks := [(0, 0, [])] }] }] }
    [slotPacket { kind := kContrib, rank := 1, step := 3, flags := 1 } [1#8, 2#8, 3#8, 4#8]], 191, slotPacket
    { kind := kContrib, rank := 1, step := 3, flags := 1 } [1#8, 2#8, 3#8, 4#8], _, rfl, _, rfl, _, rfl, by decide +kernel⟩

theorem test_collectivePacketsAreTakenOnce_23 : ∃ s : State, ∃ t : Nat, ∃ p : Pkt, ∃ (c : CPrefix), c = readPrefix p.payload ∧ ∃ (l : Nat), l =
    p.slotNo ∧ ∃ s1, s1 = (s.release p).modT t (fun T => { T with recvQ := T.recvQ.tail }) ∧ t < 192 ∧ s.live = true ∧ s.dev.state ≠ .wedged ∧ s.collHead
    t = some p ∧ s.refuses p c = none ∧ (s.slot l).bind.user = true ∧ c.kind = kContrib ∧ (s1.slot l).fromReplaced p c = false ∧ (s1.stepOf l
    c.step).holds c = false :=
  ⟨slotted { boundSlot { op := 0x80, gsize := 2, nloc := 2 } with prevGen := some 5 } [slotPacket
    { kind := kContrib, rank := 1, step := 3, flags := 1 } [1#8, 2#8, 3#8, 4#8]], 191, slotPacket { kind := kContrib, rank := 1, step := 3, flags := 1 }
    [1#8, 2#8, 3#8, 4#8], _, rfl, _, rfl, _, rfl, by decide +kernel⟩

theorem test_repairPacketsAreAnswered_1 : ∃ s s1 : State, ∃ t l : Nat, ∃ p : Pkt, ∃ c : CPrefix, ∃ i, ∃ (S : Slot), S = s1.slot l ∧ ∃ later, later =
    (if c.status = stTimeout then S.uncommitted.filter fun n => decide (c.step < n) else []) ∧ s.accepts t l p c s1 ∧ c.kind = kAbort ∧ S.nbrOnPort p =
    some i :=
  ⟨slotted { boundSlot twoRanks with nbrs := [{ role := 1, route := [0x10#8, 3#8] }], steps := [{ num := 3 }] } [slotPacket
    { kind := kAbort, rank := 1, step := 3, status := stTimeout } []], takenOff (slotted
    { boundSlot twoRanks with nbrs := [{ role := 1, route := [0x10#8, 3#8] }], steps := [{ num := 3 }] } [slotPacket
    { kind := kAbort, rank := 1, step := 3, status := stTimeout } []]) (slotPacket { kind := kAbort, rank := 1, step := 3, status := stTimeout } []), 191,
    200, slotPacket { kind := kAbort, rank := 1, step := 3, status := stTimeout } [], readPrefix (slotPacket
    { kind := kAbort, rank := 1, step := 3, status := stTimeout } []).payload, 0, _, rfl, _, rfl, by decide +kernel⟩

theorem test_repairPacketsAreAnswered_2 : ∃ s s1 : State, ∃ t l : Nat, ∃ p : Pkt, ∃ c : CPrefix, ∃ (S : Slot), S = s1.slot l ∧ s.accepts t l p c s1 ∧
    c.kind = kAbort ∧ S.nbrOnPort p = none :=
  ⟨slotted (boundSlot twoRanks) [slotPacket { kind := kAbort, rank := 1, step := 3 } []], takenOff (slotted (boundSlot twoRanks) [slotPacket
    { kind := kAbort, rank := 1, step := 3 } []]) (slotPacket { kind := kAbort, rank := 1, step := 3 } []), 191, 200, slotPacket
    { kind := kAbort, rank := 1, step := 3 } [], readPrefix (slotPacket { kind := kAbort, rank := 1, step := 3 } []).payload, _, rfl, by decide +kernel⟩

theorem test_repairPacketsAreAnswered_3 : ∃ s s1 : State, ∃ t l : Nat, ∃ p : Pkt, ∃ c : CPrefix, ∃ i, ∃ (S : Slot), S = s1.slot l ∧ s.accepts t l p c
    s1 ∧ c.kind = kReplay ∧ S.nbrOnPort p = some i :=
  ⟨slotted { boundSlot twoRanks with nbrs := [{ role := 1, route := [0x10#8, 3#8] }] } [slotPacket { kind := kReplay, rank := 1, step := 3 } []],
    takenOff (slotted { boundSlot twoRanks with nbrs := [{ role := 1, route := [0x10#8, 3#8] }] } [slotPacket { kind := kReplay, rank := 1, step := 3 }
    []]) (slotPacket { kind := kReplay, rank := 1, step := 3 } []), 191, 200, slotPacket { kind := kReplay, rank := 1, step := 3 } [], readPrefix
    (slotPacket { kind := kReplay, rank := 1, step := 3 } []).payload, 0, _, rfl, by decide +kernel⟩

theorem test_repairPacketsAreAnswered_4 : ∃ s s1 : State, ∃ t l : Nat, ∃ p : Pkt, ∃ c : CPrefix, ∃ (S : Slot), S = s1.slot l ∧ s.accepts t l p c s1 ∧
    c.kind = kReplay ∧ S.nbrOnPort p = none :=
  ⟨slotted (boundSlot twoRanks) [slotPacket { kind := kReplay, rank := 1, step := 3 } []], takenOff (slotted (boundSlot twoRanks) [slotPacket
    { kind := kReplay, rank := 1, step := 3 } []]) (slotPacket { kind := kReplay, rank := 1, step := 3 } []), 191, 200, slotPacket
    { kind := kReplay, rank := 1, step := 3 } [], readPrefix (slotPacket { kind := kReplay, rank := 1, step := 3 } []).payload, _, rfl, by decide +kernel⟩

theorem test_repairPacketsAreAnswered_5 : ∃ s s1 : State, ∃ t l : Nat, ∃ p : Pkt, ∃ c : CPrefix, ∃ (S : Slot), S = s1.slot l ∧ s.accepts t l p c s1 ∧
    c.kind = kRequest ∧ S.memberOk p c = false :=
  ⟨slotted { boundSlot twoRanks with members := [{ rank := 1, port := 36, since := 2, old := [{ port := 3 }] }] } [slotPacket
    { kind := kRequest, rank := 1, step := 3 } []], takenOff (slotted
    { boundSlot twoRanks with members := [{ rank := 1, port := 36, since := 2, old := [{ port := 3 }] }] } [slotPacket
    { kind := kRequest, rank := 1, step := 3 } []]) (slotPacket { kind := kRequest, rank := 1, step := 3 } []), 191, 200, slotPacket
    { kind := kRequest, rank := 1, step := 3 } [], readPrefix (slotPacket { kind := kRequest, rank := 1, step := 3 } []).payload, _, rfl,
    by decide +kernel⟩

theorem test_repairPacketsAreAnswered_6 : ∃ s s1 : State, ∃ t l : Nat, ∃ p : Pkt, ∃ c : CPrefix, ∃ (S : Slot), S = s1.slot l ∧ s.accepts t l p c s1 ∧
    c.kind = kRequest ∧ S.memberOk p c = true ∧ (S.sLow ≤ c.step ∨ S.ring.any (fun x => x.num == c.step) = true) :=
  ⟨slotted (boundSlot twoRanks) [slotPacket { kind := kRequest, rank := 1, step := 3 } []], takenOff (slotted (boundSlot twoRanks) [slotPacket
    { kind := kRequest, rank := 1, step := 3 } []]) (slotPacket { kind := kRequest, rank := 1, step := 3 } []), 191, 200, slotPacket
    { kind := kRequest, rank := 1, step := 3 } [], readPrefix (slotPacket { kind := kRequest, rank := 1, step := 3 } []).payload, _, rfl,
    by decide +kernel⟩

theorem test_repairPacketsAreAnswered_7 : ∃ s s1 : State, ∃ t l : Nat, ∃ p : Pkt, ∃ c : CPrefix, ∃ q, ∃ (S : Slot), S = s1.slot l ∧ s.accepts t l p c
    s1 ∧ c.kind = kRequest ∧ S.memberOk p c = true ∧ c.step < S.sLow ∧ S.ring.any (fun x => x.num == c.step) = false ∧ S.kept.find? (fun k => k.num ==
    c.step && !k.lost) = some q :=
  ⟨slotted { boundSlot twoRanks with sLow := 4, kept := [{ num := 3, outs := [(1, [{}])] }] } [slotPacket { kind := kRequest, rank := 1, step := 3 }
    []], takenOff (slotted { boundSlot twoRanks with sLow := 4, kept := [{ num := 3, outs := [(1, [{}])] }] } [slotPacket
    { kind := kRequest, rank := 1, step := 3 } []]) (slotPacket { kind := kRequest, rank := 1, step := 3 } []), 191, 200, slotPacket
    { kind := kRequest, rank := 1, step := 3 } [], readPrefix (slotPacket { kind := kRequest, rank := 1, step := 3 } []).payload,
    { num := 3, outs := [(1, [{}])] }, _, rfl, by decide +kernel⟩

theorem test_repairPacketsAreAnswered_8 : ∃ s s1 : State, ∃ t l : Nat, ∃ p : Pkt, ∃ c : CPrefix, ∃ (S : Slot), S = s1.slot l ∧ s.accepts t l p c s1 ∧
    c.kind = kRequest ∧ S.memberOk p c = true ∧ c.step < S.sLow ∧ S.ring.any (fun x => x.num == c.step) = false ∧ S.kept.find? (fun k => k.num == c.step
    && !k.lost) = none :=
  ⟨slotted { boundSlot twoRanks with sLow := 4, kept := [{ num := 3, lost := true }] } [slotPacket { kind := kRequest, rank := 1, step := 3 } []],
    takenOff (slotted { boundSlot twoRanks with sLow := 4, kept := [{ num := 3, lost := true }] } [slotPacket { kind := kRequest, rank := 1, step := 3 }
    []]) (slotPacket { kind := kRequest, rank := 1, step := 3 } []), 191, 200, slotPacket { kind := kRequest, rank := 1, step := 3 } [], readPrefix
    (slotPacket { kind := kRequest, rank := 1, step := 3 } []).payload, _, rfl, by decide +kernel⟩

theorem test_stepsCommitInOrderOrTimeOut_1 : ∃ s : State, ∃ l : Nat, ∃ st : StepSt, ∃ (S : Slot), S = s.slot l ∧ l < 256 ∧ s.live = true ∧ S.state =
    .bound ∧ s.dev.state ≠ .wedged ∧ S.steps.find? (fun x => x.num == S.sLow) = some st ∧ S.replayQ = [] ∧ s.stepReady l st = true ∧ S.bind.user = false ∧
    s.stepLate l st = false :=
  ⟨slotted
    { boundSlot twoRanks with steps := [{ num := 0, start := 3000, streams := [{ rank := 0, chunks := [(0, 0, [1#8, 2#8, 3#8, 4#8])], ends := [0] }, { rank := 1, chunks := [(0, 1, [0#8, 0#8, 0#8, 0#8])], ends := [0] }] }] }
    [], 200,
    { num := 0, start := 3000, streams := [{ rank := 0, chunks := [(0, 0, [1#8, 2#8, 3#8, 4#8])], ends := [0] }, { rank := 1, chunks := [(0, 1, [0#8, 0#8, 0#8, 0#8])], ends := [0] }] },
    _, rfl, by decide +kernel⟩

theorem test_stepsCommitInOrderOrTimeOut_2 : ∃ s : State, ∃ l : Nat, ∃ st : StepSt, ∃ (S : Slot), S = s.slot l ∧ l < 256 ∧ s.live = true ∧ S.state =
    .bound ∧ s.dev.state ≠ .wedged ∧ S.steps.find? (fun x => x.num == S.sLow) = some st ∧ S.replayQ = [] ∧ s.stepReady l st = true ∧ S.bind.user = true :=
  ⟨slotted
    { boundSlot { op := 0x80, gsize := 2, nloc := 2 } with steps := [{ num := 0, start := 3000, streams := [{ rank := 0, chunks := [(0, 0, [1#8, 2#8, 3#8, 4#8])], ends := [0] }, { rank := 1, chunks := [(0, 1, [0#8, 0#8, 0#8, 0#8])], ends := [0] }] }] }
    [], 200,
    { num := 0, start := 3000, streams := [{ rank := 0, chunks := [(0, 0, [1#8, 2#8, 3#8, 4#8])], ends := [0] }, { rank := 1, chunks := [(0, 1, [0#8, 0#8, 0#8, 0#8])], ends := [0] }] },
    _, rfl, by decide +kernel⟩

theorem test_stepsCommitInOrderOrTimeOut_3 : ∃ s : State, ∃ l : Nat, ∃ st : StepSt, ∃ n, ∃ (S : Slot), S = s.slot l ∧ l < 256 ∧ s.live = true ∧
    S.state = .bound ∧ s.dev.state ≠ .wedged ∧ S.bind.user = false ∧ S.steps.find? (fun x => x.num == n) = some st ∧ s.stepLate l st = true :=
  ⟨{ (slotted { boundSlot twoRanks with steps := [{ num := 0, start := 3000, streams := [{ rank := 0, chunks := [(0, 0, [1#8, 2#8, 3#8, 4#8])], ends := [0] }, { rank := 1, chunks := [(0, 1, [0#8, 0#8, 0#8, 0#8])], ends := [0] }] }, { num := 1, start := 3000 }] } []) with clk := { third := 6000, fabref := 312, core := 2000 } },
    200, { num := 0, start := 3000, streams := [{ rank := 0, chunks := [(0, 0, [1#8, 2#8, 3#8, 4#8])], ends := [0] }, { rank := 1, chunks := [(0, 1, [0#8, 0#8, 0#8, 0#8])], ends := [0] }] },
    0, _, rfl, by decide +kernel⟩

theorem test_linksTrainAndComeUp_1 : ∃ s : State, ∃ p : Nat, ∃ (L : Link), L = (s.port p).link ∧ p < 36 ∧ s.live = true ∧ L.state = .down ∧ (s.port
    p).isHeld = false ∧ s.fwLink = true ∧ s.after L.since (msec 1) = true ∧ SMap.get noneAt s.fab.groupReset (p / 4) = none ∧ answers (exec (.retrainTimer
    p) s) (s.modLink p fun L => { L.fresh s.t3 .laneLock with lockAt := s.t3, laneBad := badLanes s.fw.eqTable s.dev.boardId.toNat p }) = true :=
  ⟨atNs (withLink 35 { heldPower := false }) 1000000, 35, _, rfl, by decide +kernel⟩

theorem test_linksTrainAndComeUp_2 : ∃ s : State, ∃ p : Nat, ∃ (L : Link), L = (s.port p).link ∧ p < 36 ∧ s.live = true ∧ (L.state = .laneLock ∨
    L.state = .deskew) ∧ answers (exec (.flitSlotTransmit p) s) (s.modLink p fun L => L.trainSlot s.t3) = true :=
  ⟨withLink 35 { state := .deskew }, 35, _, rfl, by decide +kernel⟩

theorem test_linksTrainAndComeUp_3 : ∃ s : State, ∃ p : Nat, ∃ lane, ∃ (L : Link), L = (s.port p).link ∧ p < 36 ∧ s.live = true ∧ lane < 8 ∧ (L.state
    = .laneLock ∨ L.state = .deskew) ∧ L.laneBad.getLsbD lane = false ∧ L.locked.getLsbD lane = false ∧ answers (exec (.laneBlockLock p lane) s)
    (s.modLink p fun L => { L with locked := L.locked ||| laneBit lane }) = true :=
  ⟨withLink 35 { state := .laneLock }, 35, 7, _, rfl, by decide +kernel⟩

theorem test_linksTrainAndComeUp_4 : ∃ s : State, ∃ p : Nat, ∃ lane b, ∃ (L : Link), L = (s.port p).link ∧ p < 36 ∧ s.live = true ∧ lane < 8 ∧
    (L.state = .laneLock ∨ L.state = .deskew) ∧ L.locked.getLsbD lane = true ∧ b.length ≠ 9 ∧ b.headD 0#8 = 0x2D#8 ∧ s.fwLink = true ∧ answers (exec
    (.trainingBlockReceive p lane b) s) (s.modLink p fun L =>
    { L.align lane (fieldAt b 4 2) with state := .deskew, peerLocked := b.getD 2 0#8, trainRx := if b.getD 2 0#8 = L.peerLocked then L.trainRx + 1 else 1 })
    = true :=
  ⟨withLink 35 { state := .deskew, locked := 0xFF#8 }, 35, 7, [0x2D#8, 0#8, 0x3F#8], _, rfl, by decide +kernel⟩

theorem test_linksTrainAndComeUp_5 : ∃ s : State, ∃ p : Nat, ∃ lane b d s1, ∃ (L : Link), L = (s.port p).link ∧ p < 36 ∧ s.live = true ∧ lane < 8 ∧
    b.length = 9 ∧ s.blockIn p lane b = (d, s1) ∧ (L.state = .laneLock ∨ L.state = .deskew) ∧ L.locked.getLsbD lane = true ∧ d.headD 0#8 = 0x2D#8 ∧
    s.fwLink = true ∧ answers (exec (.trainingBlockReceive p lane b) s) (s1.modLink p fun L =>
    { L.align lane (fieldAt d 4 2) with state := .deskew, peerLocked := d.getD 2 0#8, trainRx := if d.getD 2 0#8 = L.peerLocked then L.trainRx + 1 else 1 })
    = true :=
  ⟨withLink 35 { state := .deskew, locked := 0xFF#8 }, 35, 7, [1#8, 0x2D#8, 0#8, 0x3F#8, 0#8, 0#8, 0#8, 0#8, 0#8], (State.blockIn (withLink 35
    { state := .deskew, locked := 0xFF#8 }) 35 7 [1#8, 0x2D#8, 0#8, 0x3F#8, 0#8, 0#8, 0#8, 0#8, 0#8]).1, (State.blockIn (withLink 35
    { state := .deskew, locked := 0xFF#8 }) 35 7 [1#8, 0x2D#8, 0#8, 0x3F#8, 0#8, 0#8, 0#8, 0#8, 0#8]).2, _, rfl, by decide +kernel⟩

theorem test_linksTrainAndComeUp_6 : ∃ s : State, ∃ p : Nat, ∃ (L : Link), L = (s.port p).link ∧ p < 36 ∧ s.live = true ∧ L.state = .deskew ∧ 256 ≤
    L.trainRx ∧ 256 ≤ L.trainTx ∧ 6 ≤ laneCount L.peerLocked ∧ 6 ≤ laneCount L.rxLocked ∧ s.fwLink = true ∧ answers (exec (.enterDiscovery p) s)
    (s.modLink p fun L =>
    { L with state := .discovery, txMap := L.peerLocked, nextMap := L.peerLocked, rxMap := L.rxLocked, slot := 0, since := s.t3, peerSeen := false, seenSeen := false, sent16 := 0 })
    = true :=
  ⟨withLink 35 { state := .deskew, locked := 0x3F#8, inLine := 0x3F#8, peerLocked := 0xFC#8, trainRx := 256, trainTx := 256 }, 35, _, rfl,
    by decide +kernel⟩

theorem test_linksTrainAndComeUp_7 : ∃ s : State, ∃ p : Nat, ∃ (L : Link), L = (s.port p).link ∧ p < 36 ∧ s.live = true ∧ L.state = .discovery :=
  ⟨withLink 35 { state := .discovery, peerSeen := true, seenSeen := true }, 35, _, rfl, by decide +kernel⟩

theorem test_linksTrainAndComeUp_8 : ∃ s : State, ∃ p : Nat, ∃ f, ∃ (L : Link), L = (s.port p).link ∧ (p < 36 ∧ s.live = true ∧ L.state = .discovery ∧
    L.resetAt = none ∧ flitKind f = 2 ∧ discoveryOk f = true) ∧ flitGood f = true :=
  ⟨withLink 35 { state := .discovery }, 35, flitDiscovery, _, rfl, by decide +kernel, flitDiscovery_good⟩

theorem test_linksTrainAndComeUp_9 : ∃ s : State, ∃ p : Nat, ∃ f, ∃ (L : Link), L = (s.port p).link ∧ (p < 36 ∧ s.live = true ∧ L.state = .discovery ∧
    L.resetAt = none ∧ flitKind f = 2 ∧ discoveryOk f = false) ∧ flitGood f = true :=
  ⟨withLink 35 { state := .discovery }, 35, flitOffer, _, rfl, by decide +kernel, flitOffer_good⟩

theorem test_linksTrainAndComeUp_10 : ∃ s : State, ∃ p : Nat, ∃ f, ∃ (L : Link), L = (s.port p).link ∧ (p < 36 ∧ s.live = true ∧ L.state = .discovery
    ∧ L.resetAt = none ∧ flitKind f = 1 ∧ controlOk f = false) ∧ flitGood f = true :=
  ⟨withLink 35 { state := .discovery }, 35, flitSpare, _, rfl, by decide +kernel, flitSpare_good⟩

theorem test_linksTrainAndComeUp_11 : ∃ s : State, ∃ p : Nat, ∃ (L : Link), L = (s.port p).link ∧ p < 36 ∧ s.live = true ∧ L.state = .discovery ∧
    L.seenSeen = true ∧ 16 ≤ L.sent16 ∧ s.fwLink = true :=
  ⟨withLink 35 { state := .discovery, seenSeen := true, sent16 := 16 }, 35, _, rfl, by decide +kernel⟩

theorem test_linksTrainAndComeUp_12 : ∃ s : State, ∃ p : Nat, ∃ (L : Link), L = (s.port p).link ∧ p < 36 ∧ s.live = true ∧ (L.state = .laneLock ∨
    L.state = .deskew ∨ L.state = .discovery) ∧ s.after L.lockAt (msec 20) = true ∧ 6 ≤ laneCount L.rxLocked ∧ (L.state = .laneLock ∨ 6 ≤ laneCount
    L.peerLocked) ∧ answers (exec (.trainingTimeout p) s) ((s.countLink p cTrainFail 1).modLink p fun L => L.fresh s.t3 .down) = true :=
  ⟨atNs (withLink 35 { state := .discovery, locked := 0x3F#8, inLine := 0x3F#8, peerLocked := 0xFC#8 }) 20000000, 35, _, rfl, by decide +kernel⟩

theorem test_linksGoDown_2 : ∃ s : State, ∃ p reason : Nat, ∃ st : LinkState, ∃ q, q ≠ p :=
  ⟨booted, 3, 2, .down, 4, by decide +kernel⟩

theorem test_linksGoDown_3 : ∃ s : State, ∃ p : Nat, ∃ lane, ∃ (L : Link), L = (s.port p).link ∧ p < 36 ∧ s.live = true ∧ lane < 8 ∧ (L.state =
    .active ∨ L.state = .discovery) ∧ L.rxMap.getLsbD lane = true ∧ answers (exec (.laneLossOfSignal p lane) s) (s.linkDown p 2 .down) = true :=
  ⟨withLink 35 { state := .active, rxMap := 0x80#8 }, 35, 7, _, rfl, by decide +kernel⟩

theorem test_linksGoDown_4 : ∃ s : State, ∃ p : Nat, ∃ lane, ∃ (L : Link), L = (s.port p).link ∧ p < 36 ∧ s.live = true ∧ lane < 8 ∧ (L.state =
    .laneLock ∨ L.state = .deskew) ∧ answers (exec (.laneLossOfSignal p lane) s) (s.modLink p fun L =>
    { L with locked := L.locked &&& ~~~ laneBit lane, inLine := L.inLine &&& ~~~ laneBit lane, laneCtr := SMap.set noneAt lane none L.laneCtr, trainTx := 0 })
    = true :=
  ⟨withLink 35 { state := .deskew, locked := 0xFF#8 }, 35, 7, _, rfl, by decide +kernel⟩

theorem test_linksGoDown_5 : ∃ s : State, ∃ p : Nat, ∃ (L : Link), L = (s.port p).link ∧ p < 36 ∧ s.live = true ∧ L.state = .active ∧ 8 ≤ L.naks ∧
    answers (exec (.retryExhausted p) s) (s.linkDown p 3 .down) = true :=
  ⟨withLink 35 { state := .active, naks := 8 }, 35, _, rfl, by decide +kernel⟩

theorem test_linksGoDown_6 : ∃ s : State, ∃ p : Nat, ∃ (L : Link), L = (s.port p).link ∧ p < 36 ∧ s.live = true ∧ L.state = .active ∧ s.after
    L.lastCtl (usec 10) = true ∧ answers (exec (.controlTimeout p) s) (s.linkDown p 4 .down) = true :=
  ⟨atNs (withLink 35 { state := .active }) 10000, 35, _, rfl, by decide +kernel⟩

theorem test_linksGoDown_7 : ∃ s : State, ∃ p : Nat, ∃ f, ∃ (L : Link), L = (s.port p).link ∧ (p < 36 ∧ s.live = true ∧ L.state = .active ∧ L.resetAt
    = none ∧ 2 < flitKind f) ∧ flitGood f = true :=
  ⟨withLink 35 { state := .active }, 35, flitOdd, _, rfl, by decide +kernel, flitOdd_good⟩

theorem test_linksGoDown_8 : ∃ s : State, ∃ p : Nat, ∃ t, ∃ (L : Link), L = (s.port p).link ∧ p < 36 ∧ s.live = true ∧ L.state = .active ∧ L.pausedAt
    = some t ∧ s.after t (msec 1) = true ∧ t + msec 1 ≤ L.pauseEnd ∧ answers (exec (.pauseTimeout p) s) (s.linkDown p 6 .down) = true :=
  ⟨atNs (withLink 35 { state := .active, pausedAt := some 0, pauseEnd := 3000000 }) 1000000, 35, 0, _, rfl, by decide +kernel⟩

theorem test_linksGoDown_9 : ∃ s : State, ∃ p : Nat, ∃ lane b, ∃ (L : Link), L = (s.port p).link ∧ p < 36 ∧ s.live = true ∧ lane < 8 ∧ L.state =
    .active ∧ b.length ≠ 9 ∧ answers (exec (.trainingBlockReceive p lane b) s) (s.linkDown p 0xB .down) = true :=
  ⟨withLink 35 { state := .active }, 35, 7, [], _, rfl, by decide +kernel⟩

theorem test_linksGoDown_10 : ∃ s : State, ∃ p : Nat, ∃ f, ∃ (L : Link), L = (s.port p).link ∧ (p < 36 ∧ s.live = true ∧ L.state = .active ∧ L.resetAt
    = none ∧ flitKind f = 2) ∧ flitGood f = true :=
  ⟨withLink 35 { state := .active }, 35, flitDiscovery, _, rfl, by decide +kernel, flitDiscovery_good⟩

theorem test_linksGoDown_11 : ∃ s : State, ∃ p : Nat, ∃ (L : Link), L = (s.port p).link ∧ p < 36 ∧ s.live = true ∧ (L.state = .laneLock ∨ L.state =
    .deskew ∨ L.state = .discovery) ∧ s.after L.lockAt (msec 20) = true ∧ (laneCount L.rxLocked < 6 ∨ (L.state ≠ .laneLock ∧ laneCount L.peerLocked < 6))
    ∧ answers (exec (.trainingTimeout p) s) ((s.countLink p cTrainFail 1).linkDown p 8 .down) = true :=
  ⟨atNs (withLink 35 { state := .laneLock, locked := 0x1F#8 }) 20000000, 35, _, rfl, by decide +kernel⟩

theorem test_flitsMoveOnALink_1 : ∃ s : State, ∃ p : Nat, ∃ bytes : List Byte, bytes.length ≠ 288 :=
  ⟨booted, 35, [], by decide +kernel⟩

theorem test_flitsMoveOnALink_2 : ∃ s : State, ∃ p : Nat, ∃ f rest, ∃ (L : Link), L = (s.port p).link ∧ p < 36 ∧ s.live = true ∧ (L.state = .active ∨
    L.flitLoop = true) ∧ L.sendsData s.t3 (L.flitLoop || !L.txBuf.isEmpty) = true ∧ L.resend = f :: rest ∧ answers (exec (.flitSlotTransmit p) s)
    ((((s.countLink p cFlitsTx 1).countLink p cReplay 1).modLink p fun L =>
    { L with lastFlit := f.2, resend := rest, slot := L.slot + 1, slotAt := s.t3 }).stripeOut p L.txMap L.slot) = true :=
  ⟨withLink 35 { state := .active, slot := 1023, resend := [(5#12, [1#8]), (6#12, [2#8])] }, 35, (5#12, [1#8]), [(6#12, [2#8])], _, rfl,
    by decide +kernel⟩

theorem test_flitsMoveOnALink_3 : ∃ s : State, ∃ p : Nat, ∃ (L : Link), L = (s.port p).link ∧ ∃ f, f = dataFlit L.seq (L.txBuf.take 246) ∧ p < 36 ∧
    s.live = true ∧ (L.state = .active ∨ L.flitLoop = true) ∧ L.state = .active ∧ L.sendsData s.t3 (!L.txBuf.isEmpty) = true ∧ L.resend = [] :=
  ⟨withLink 35 { state := .active, slot := 1, txBuf := [1#8], retry := List.replicate 2047 (0#12, []) }, 35, _, rfl, _, rfl, by decide +kernel⟩

theorem test_flitsMoveOnALink_4 : ∃ s : State, ∃ p : Nat, ∃ (L : Link), L = (s.port p).link ∧ p < 36 ∧ s.live = true ∧ (L.state = .active ∨ L.flitLoop
    = true) ∧ L.sendsData s.t3 (L.flitLoop || !L.txBuf.isEmpty) = false :=
  ⟨withLink 35 { state := .active, slot := 1024, txBuf := [1#8] }, 35, _, rfl, by decide +kernel⟩

theorem test_flitsMoveOnALink_5 : ∃ s s1 : State, ∃ p : Nat, ∃ b f : List Byte, ∃ (L : Link), L = (s1.port p).link ∧ (p < 36 ∧ s.live = true ∧
    s.flitIn p b = (f, s1) ∧ L.state = .active ∧ L.resetAt = none ∧ flitKind f = 0 ∧ BitVec.ofNat 12 (fieldAt f 0 2) = L.expect) ∧ flitGood f = true :=
  ⟨withLink 35 { state := .active }, withLink 35 { state := .active }, 35, flitData, flitData, _, rfl, by decide +kernel, flitData_good⟩

theorem test_flitsMoveOnALink_6 : ∃ s s1 : State, ∃ p : Nat, ∃ b f : List Byte, ∃ (L : Link), L = (s1.port p).link ∧ (p < 36 ∧ s.live = true ∧
    s.flitIn p b = (f, s1) ∧ L.state = .active ∧ L.resetAt = none ∧ flitKind f = 0 ∧ BitVec.ofNat 12 (fieldAt f 0 2) ≠ L.expect) ∧ flitGood f = true :=
  ⟨withLink 35 { state := .active, expect := 1 }, withLink 35 { state := .active, expect := 1 }, 35, flitData, flitData, _, rfl, by decide +kernel,
    flitData_good⟩

theorem test_flitsMoveOnALink_7 : ∃ s s1 : State, ∃ p : Nat, ∃ b f : List Byte, ∃ (L : Link), L = (s1.port p).link ∧ ∃ s2, s2 = (if L.awaiting then
    s1.countLink p cCrcErr 1 else (s1.countLink p cCrcErr 1).askResend p).slotIn p ∧ p < 36 ∧ s.live = true ∧ s.flitIn p b = (f, s1) ∧ L.state = .active ∧
    L.resetAt = none ∧ flitGood f = false :=
  ⟨withLink 35 { state := .active }, withLink 35 { state := .active }, 35, [], [], _, rfl, _, rfl, by decide +kernel⟩

theorem test_flitsMoveOnALink_8 : ∃ s s1 : State, ∃ p : Nat, ∃ b f : List Byte, ∃ (L : Link), L = (s1.port p).link ∧ (p < 36 ∧ s.live = true ∧
    s.flitIn p b = (f, s1) ∧ L.state = .active ∧ L.resetAt = none ∧ flitKind f = 1 ∧ (controlOk f = false ∨ releaseTo (BitVec.ofNat 12 (fieldAt f 2 2))
    L.retry L.seq = none)) ∧ flitGood f = true :=
  ⟨withLink 35 { state := .active }, withLink 35 { state := .active }, 35, flitSpare, flitSpare, _, rfl, by decide +kernel, flitSpare_good⟩

theorem test_flitsMoveOnALink_9 : ∃ s s1 : State, ∃ p : Nat, ∃ b f : List Byte, ∃ kept, ∃ (L : Link), L = (s1.port p).link ∧ (p < 36 ∧ s.live = true ∧
    s.flitIn p b = (f, s1) ∧ L.state = .active ∧ L.resetAt = none ∧ flitKind f = 1 ∧ controlOk f = true ∧ releaseTo (BitVec.ofNat 12 (fieldAt f 2 2))
    L.retry L.seq = some kept) ∧ flitGood f = true :=
  ⟨withLink 35 { state := .active, retry := [(0xFFE#12, []), (0xFFF#12, [])] }, withLink 35
    { state := .active, retry := [(0xFFE#12, []), (0xFFF#12, [])] }, 35, flitControl, flitControl, [(0xFFF#12, [])], _, rfl, by decide +kernel,
    flitControl_good⟩

theorem test_flitsMoveOnALink_10 : ∃ s : State, ∃ p : Nat, ∃ (L : Link), L = (s.port p).link ∧ p < 36 ∧ s.live = true ∧ (L.state = .active ∨
    L.flitLoop = true) ∧ L.awaiting = true ∧ s.after L.replayAt (usec 4) = true ∧ answers (exec (.replayTimerExpiry p) s) (s.modLink p fun L =>
    { L with nakPend := true, awaiting := true, replayAt := s.t3, naks := L.naks + 1 }) = true :=
  ⟨atNs (withLink 35 { state := .active, awaiting := true }) 4000, 35, _, rfl, by decide +kernel⟩

theorem test_flitsMoveOnALink_11 : ∃ s : State, ∃ p : Nat, ∃ (L : Link), L = (s.port p).link ∧ p < 36 ∧ s.live = true ∧ L.pausedAt.isSome = true ∧
    L.pauseEnd ≤ s.t3 ∧ answers (exec (.pauseExpiry p) s) (s.modLink p fun L => { L with pausedAt := none }) = true :=
  ⟨atNs (withLink 35 { state := .active, pausedAt := some 0, pauseEnd := 3000 }) 1000, 35, _, rfl, by decide +kernel⟩

theorem test_lanesAndLasersAreWatched_1 : ∃ s : State, ∃ p, s.live = true ∧ p < 36 ∧ (s.port p).link.winEnd ≤ s.now :=
  ⟨atNs booted 1000000000, 35, by decide +kernel⟩

theorem test_lanesAndLasersAreWatched_2 : ∃ s : State, ∃ p lane, s.live = true ∧ p < 36 ∧ lane < 8 ∧ (s.port p).link.checks = true ∧ (s.port
    p).link.laneBad.getLsbD lane = false ∧ answers (exec (.loopLaneAligned p lane) s) (s.modLink p fun L =>
    { L with aligned := L.aligned ||| laneBit lane, lost := L.lost &&& ~~~ laneBit lane }) = true :=
  ⟨withLink 35 { state := .loop, loop := 2, pattern := 1 }, 35, 7, by decide +kernel⟩

theorem test_lanesAndLasersAreWatched_3 : ∃ s : State, ∃ p lane, s.live = true ∧ p < 36 ∧ lane < 8 ∧ (s.port p).link.checks = true ∧ (s.port
    p).link.aligned.getLsbD lane = true ∧ answers (exec (.loopLaneAlignmentLost p lane) s) (s.modLink p fun L =>
    { L with aligned := L.aligned &&& ~~~ laneBit lane, lost := L.lost ||| laneBit lane }) = true :=
  ⟨withLink 35 { state := .loop, loop := 2, pattern := 1, aligned := 0xFF#8 }, 35, 7, by decide +kernel⟩

theorem test_lanesAndLasersAreWatched_4 : ∃ s : State, ∃ o, ∃ late : Bool, ∃ power : (List Int), s.live = true ∧ o < 9 :=
  ⟨booted, 8, true, [], by decide +kernel⟩

theorem test_lanesAndLasersAreWatched_5 : ∃ s : State, ∃ o f, s.live = true ∧ o < 9 ∧ f < 2 ∧ (s.oe o).feedLow.getLsbD f = false :=
  ⟨booted, 8, 1, by decide +kernel⟩

theorem test_lanesAndLasersAreWatched_6 : ∃ s : State, ∃ o f, s.live = true ∧ o < 9 ∧ f < 2 ∧ (s.oe o).feedLow.getLsbD f = true :=
  ⟨{ booted with oes := [(8, { feedLow := 3#2 })] }, 8, 1, by decide +kernel⟩

theorem test_linkEnginesAreReset_1 : ∃ s : State, ∃ p, ∃ L, L = (s.port p).link ∧ s.live = true ∧ p < 36 ∧ L.state = .active ∧ L.resetAt = none ∧
    s.after L.slotAt (usec s.linkLimit) = true :=
  ⟨atNs (withLink 35 { state := .active }) 10000000, 35, _, rfl, by decide +kernel⟩

theorem test_linkEnginesAreReset_2 : ∃ s : State, ∃ p t, ∃ L, L = (s.port p).link ∧ s.live = true ∧ p < 36 ∧ L.resetAt = some t ∧ s.after t (usec 8) =
    false ∧ answers (exec (.linkEngineResetDone p) s) (((s.almQueue (linkResetRec p L (s.nsSince t) false)).modLink p fun L =>
    { L with resetAt := none, cmds := [], nakPend := true, awaiting := true, replayAt := s.t3, naks := L.naks + 1, slotAt := s.t3 }).finishAll L.cmds stOk
    [s.nextSeq, noneField]) = true :=
  ⟨atNs (withLink 35 { state := .active, resetAt := some 0 }) 7000, 35, 0, _, rfl, by decide +kernel⟩

theorem test_linkEnginesAreReset_3 : ∃ s : State, ∃ p t, s.live = true ∧ p < 36 ∧ (s.port p).link.resetAt = some t ∧ s.after t (usec 8) = true :=
  ⟨atNs (withLink 35 { state := .active, resetAt := some 0 }) 8000, 35, 0, by decide +kernel⟩

theorem test_linkEnginesAreReset_4 : ∃ s : State, ∃ g t, s.live = true ∧ g < 9 ∧ SMap.get noneAt s.fab.groupReset g = some t ∧ s.after t (msec 1) =
    false ∧ answers (exec (.portGroupResetDone g) s) ((((s.almQueue (s.groupResetRec g (s.nsSince t))).modFab fun b =>
    { b with groupReset := SMap.set noneAt g none b.groupReset }).clearGroupCmds g).finishAll (s.groupCmds g) stOk [s.nextSeq, noneField]) = true :=
  ⟨{ (atNs booted 999000) with fab := { groupReset := [(8, some 0)] } }, 8, 0, by decide +kernel⟩

theorem test_linkEnginesAreReset_5 : ∃ s : State, ∃ g t, s.live = true ∧ g < 9 ∧ SMap.get noneAt s.fab.groupReset g = some t ∧ s.after t (msec 1) =
    true :=
  ⟨{ (atNs booted 1000000) with fab := { groupReset := [(8, some 0)] } }, 8, 0, by decide +kernel⟩

theorem test_tillersAreResetAndRestarted_1 : ∃ s : State, ∃ t : Nat, t < 192 ∧ s.live = true ∧ s.dev.wdogCfg.getLsbD 24 = true ∧ s.watched t 0 = true
    ∧ s.after ((s.tl t).lastProgress 0 + (s.tl t).skipped 0) (usec (s.dev.wdogCfg.toNat % 65536)) = true :=
  ⟨later (reaching { mn := .nop }), 191, by decide +kernel⟩

theorem test_tillersAreResetAndRestarted_2 : ∃ s : State, ∃ t : Nat, ∃ e, t < 192 ∧ s.live = true ∧ 0 < e ∧ e < 6 ∧ s.dev.wdogCfg.getLsbD 24 = true ∧
    s.watched t e = true ∧ s.after ((s.tl t).lastProgress e + (s.tl t).skipped e) (usec (s.dev.wdogCfg.toNat % 65536)) = true :=
  ⟨later { running [] with busy := [(5, 20000000)] }, 191, 5, by decide +kernel⟩

theorem test_tillersAreResetAndRestarted_3 : ∃ s : State, ∃ t e cause d : Nat, t < 192 ∧ s.live = true :=
  ⟨booted, 191, 7, 3, 0, by decide +kernel⟩

theorem test_tillersAreResetAndRestarted_4 : ∃ s : State, ∃ t : Nat, ∃ r, t < 192 ∧ s.live = true ∧ (s.tl t).reset = some r ∧ r.sample = true :=
  ⟨later { reset := some { sample := true, cause := 3 } }, 191, { sample := true, cause := 3 }, by decide +kernel⟩

theorem test_tillersAreResetAndRestarted_5 : ∃ s : State, ∃ t : Nat, ∃ r t0, t < 192 ∧ s.live = true ∧ (s.tl t).reset = some r ∧ r.start = some t0 ∧
    r.engines ≠ [] ∧ r.engines.contains 7 = false ∧ s.after t0 (usec 100) = true :=
  ⟨later (resetting [4] 29700000), 191, { engines := [4], start := some 29700000, restart := false }, 29700000, by decide +kernel⟩

theorem test_tillersAreResetAndRestarted_6 : ∃ s : State, ∃ t : Nat, ∃ r t0, t < 192 ∧ s.live = true ∧ (s.tl t).reset = some r ∧ r.start = some t0 ∧
    r.engines ≠ [] ∧ r.engines.contains 7 = false ∧ s.after t0 (usec 100) = false ∧ s.serves t = true ∧ s.tearing t = false :=
  ⟨{ (later (resetting [4] 29700001)) with slots := [(200, boundSlot {})] }, 191, { engines := [4], start := some 29700001, restart := false },
    29700001, by decide +kernel⟩

theorem test_tillersAreResetAndRestarted_7 : ∃ s : State, ∃ t : Nat, ∃ r t0, t < 192 ∧ s.live = true ∧ (s.tl t).reset = some r ∧ r.start = some t0 ∧
    r.engines.contains 7 = true ∧ s.after t0 (msec 1) = true :=
  ⟨later (resetting [7] 27000000), 191, { engines := [7], start := some 27000000, restart := false }, 27000000, by decide +kernel⟩

theorem test_tillersAreResetAndRestarted_8 : ∃ s : State, ∃ t n m : Nat, t < 192 ∧ s.live = true :=
  ⟨booted, 191, 0, 3, by decide +kernel⟩

theorem test_tillersAreResetAndRestarted_9 : ∃ s : State, ∃ t : Nat, ∃ r t0, t < 192 ∧ s.live = true ∧ (s.tl t).reset = some r ∧ r.start = some t0 ∧
    r.engines.contains 7 = true ∧ s.after t0 (msec 1) = false ∧ r.restart = true ∧ s.serves t = false ∧ s.tearing t = false :=
  ⟨later (resetting [7] 27000001 true), 191, { engines := [7], start := some 27000001, restart := true }, 27000001, by decide +kernel⟩

theorem test_tillersAreResetAndRestarted_10 : ∃ s : State, ∃ t : Nat, ∃ r t0, t < 192 ∧ s.live = true ∧ (s.tl t).reset = some r ∧ r.start = some t0 ∧
    r.engines.contains 7 = true ∧ s.after t0 (msec 1) = false :=
  ⟨later (resetting [7] 27000001), 191, { engines := [7], start := some 27000001, restart := false }, 27000001, by decide +kernel⟩

theorem test_tillersAreResetAndRestarted_11 : ∃ s : State, ∃ t : Nat, ∃ r, t < 192 ∧ s.live = true ∧ (s.tl t).reset = some r ∧ r.engines = [] ∧
    r.restart = true ∧ s.clk.core % 256 = 0 ∧ s.dev.state ≠ .wedged :=
  ⟨{ (inCtx { reset := some { restart := true, cmds := [4] } }) with clk := { core := 256 } }, 191, { restart := true, cmds := [4] },
    by decide +kernel⟩

theorem test_tillersAreResetAndRestarted_12 : ∃ s : State, ∃ t : Nat, ∃ r, t < 192 ∧ s.live = true ∧ (s.tl t).reset = some r ∧ r.engines = [] ∧
    r.restart = true ∧ s.clk.core % 256 = 0 ∧ s.dev.state = .wedged :=
  ⟨{ (inCtx { reset := some { restart := true, cmds := [4] } }) with clk := { core := 256 }, dev := { booted.dev with state := .wedged } }, 191,
    { restart := true, cmds := [4] }, by decide +kernel⟩

theorem test_resetAndDiagnosticCommands_1 : ∃ s : State, ∃ c : Nat, ∃ k : Cmd, ∃ u, u = fieldAt k.params 0 2 ∧ ∃ e, e = fieldAt k.params 2 1 ∧ ∃ f, f
    = fieldAt k.params 3 1 ∧ ∃ x, x = fieldAt k.params 4 4 ∧ s.carries 0x0A04 c k ∧ u < 192 ∧ e < 8 ∧ e ≠ 6 ∧ f ≤ 3 ∧ (f % 2 = 0 ∨ e = 7) ∧ s.ctxOk x =
    false ∧ answers (exec (.engineReset c) s) ((s.take c).finish c stContextGone) = true :=
  ⟨given booted 0x0A04 (fields 8 [(0, 2, 191), (2, 1, 7), (3, 1, 3), (4, 4, 8)]), 1, cmd 0x0A04 (fields 8 [(0, 2, 191), (2, 1, 7), (3, 1, 3), (4, 4,
    8)]), _, rfl, _, rfl, _, rfl, _, rfl, by decide +kernel⟩

theorem test_resetAndDiagnosticCommands_2 : ∃ s : State, ∃ c : Nat, ∃ k : Cmd, ∃ u, u = fieldAt k.params 0 2 ∧ ∃ e, e = fieldAt k.params 2 1 ∧ ∃ f, f
    = fieldAt k.params 3 1 ∧ ∃ x, x = fieldAt k.params 4 4 ∧ s.carries 0x0A04 c k ∧ u < 192 ∧ e < 8 ∧ e ≠ 6 ∧ f ≤ 3 ∧ (f % 2 = 0 ∨ e = 7) ∧ s.ctxOk x =
    true ∧ (s.ctx x).tillers.contains u = false ∧ answers (exec (.engineReset c) s) ((s.take c).finish c stBadParam) = true :=
  ⟨given (inCtx {}) 0x0A04 (fields 8 [(0, 2, 190), (2, 1, 7), (3, 1, 3), (4, 4, 9)]), 1, cmd 0x0A04 (fields 8 [(0, 2, 190), (2, 1, 7), (3, 1, 3), (4,
    4, 9)]), _, rfl, _, rfl, _, rfl, _, rfl, by decide +kernel⟩

theorem test_resetAndDiagnosticCommands_3 : ∃ s : State, ∃ c : Nat, ∃ k : Cmd, ∃ u, u = fieldAt k.params 0 2 ∧ ∃ e, e = fieldAt k.params 2 1 ∧ ∃ f, f
    = fieldAt k.params 3 1 ∧ ∃ x, x = fieldAt k.params 4 4 ∧ s.carries 0x0A04 c k ∧ u < 192 ∧ e < 8 ∧ e ≠ 6 ∧ f ≤ 3 ∧ (f % 2 = 0 ∨ e = 7) ∧ s.ctxOk x =
    true ∧ (s.ctx x).tillers.contains u = true ∧ e = 1 ∧ s.harrow u = false ∧ answers (exec (.engineReset c) s) ((s.take c).finish c stNotPresent) = true
    :=
  ⟨given { (inCtx {}) with part := { fuse := 0#192 } } 0x0A04 (fields 8 [(0, 2, 191), (2, 1, 1), (3, 1, 2), (4, 4, 9)]), 1, cmd 0x0A04 (fields 8 [(0,
    2, 191), (2, 1, 1), (3, 1, 2), (4, 4, 9)]), _, rfl, _, rfl, _, rfl, _, rfl, by decide +kernel⟩

theorem test_resetAndDiagnosticCommands_4 : ∃ s : State, ∃ c : Nat, ∃ k : Cmd, ∃ r, ∃ u, u = fieldAt k.params 0 2 ∧ ∃ e, e = fieldAt k.params 2 1 ∧ ∃
    f, f = fieldAt k.params 3 1 ∧ ∃ x, x = fieldAt k.params 4 4 ∧ s.carries 0x0A04 c k ∧ u < 192 ∧ e < 8 ∧ e ≠ 6 ∧ f ≤ 3 ∧ (f % 2 = 0 ∨ e = 7) ∧ s.ctxOk x
    = true ∧ (s.ctx x).tillers.contains u = true ∧ (e ≠ 1 ∨ s.harrow u = true) ∧ (s.tl u).reset = some r ∧ answers (exec (.engineReset c) s) ((s.take
    c).modT u fun T => { T with reset := some { r with cmds := r.cmds ++ [c] } }) = true :=
  ⟨given (inCtx (resetting [4] 0)) 0x0A04 (fields 8 [(0, 2, 191), (2, 1, 7), (3, 1, 3), (4, 4, 9)]), 1, cmd 0x0A04 (fields 8 [(0, 2, 191), (2, 1, 7),
    (3, 1, 3), (4, 4, 9)]), { engines := [4], start := some 0, restart := false }, _, rfl, _, rfl, _, rfl, _, rfl, by decide +kernel⟩

theorem test_resetAndDiagnosticCommands_5 : ∃ s : State, ∃ c : Nat, ∃ k : Cmd, ∃ u, u = fieldAt k.params 0 2 ∧ ∃ e, e = fieldAt k.params 2 1 ∧ ∃ f, f
    = fieldAt k.params 3 1 ∧ ∃ x, x = fieldAt k.params 4 4 ∧ s.carries 0x0A04 c k ∧ u < 192 ∧ e < 8 ∧ e ≠ 6 ∧ f ≤ 3 ∧ (f % 2 = 0 ∨ e = 7) ∧ s.ctxOk x =
    true ∧ (s.ctx x).tillers.contains u = true ∧ (e ≠ 1 ∨ s.harrow u = true) ∧ (s.tl u).reset = none ∧ answers (exec (.engineReset c) s) (((s.take
    c).haltForReset u).modT u fun T =>
    { T with reset := some { engines := [e], sample := decide (f < 2), start := if f < 2 then none else some s.t3, restart := f % 2 == 1, cmds := [c] } })
    = true :=
  ⟨given (inCtx (heldBy .fence)) 0x0A04 (fields 8 [(0, 2, 191), (2, 1, 7), (3, 1, 3), (4, 4, 9)]), 1, cmd 0x0A04 (fields 8 [(0, 2, 191), (2, 1, 7),
    (3, 1, 3), (4, 4, 9)]), _, rfl, _, rfl, _, rfl, _, rfl, by decide +kernel⟩

theorem test_resetAndDiagnosticCommands_6 : ∃ s : State, ∃ c : Nat, ∃ k : Cmd, ∃ u, u = fieldAt k.params 0 2 ∧ ∃ e, e = fieldAt k.params 2 1 ∧ ∃ f, f
    = fieldAt k.params 3 1 ∧ ∃ x, x = fieldAt k.params 4 4 ∧ ∃ j, j = ((s.port u).link.resetAt.isSome || (SMap.get noneAt s.fab.groupReset (u /
    4)).isSome) ∧ s.carries 0x0A04 c k ∧ u < 36 ∧ e = 8 ∧ x = 0 ∧ (f = 0 ∨ f = 2) ∧ answers (exec (.engineReset c) s) (if j then (s.take c).modLink u fun
    L => { L with cmds := L.cmds ++ [c] } else ((s.take c).resetLink u 0).modLink u fun L => { L with cmds := [c] }) = true :=
  ⟨given booted 0x0A04 (fields 8 [(0, 2, 35), (2, 1, 8), (3, 1, 2), (4, 4, 0)]), 1, cmd 0x0A04 (fields 8 [(0, 2, 35), (2, 1, 8), (3, 1, 2), (4, 4,
    0)]), _, rfl, _, rfl, _, rfl, _, rfl, _, rfl, by decide +kernel⟩

theorem test_resetAndDiagnosticCommands_6b : ∃ s : State, ∃ c : Nat, ∃ k : Cmd, ∃ u, u = fieldAt k.params 0 2 ∧ ∃ e, e = fieldAt k.params 2 1 ∧ ∃ f, f
    = fieldAt k.params 3 1 ∧ ∃ x, x = fieldAt k.params 4 4 ∧ ∃ j, j = ((s.port u).link.resetAt.isSome || (SMap.get noneAt s.fab.groupReset (u /
    4)).isSome) ∧ s.carries 0x0A04 c k ∧ u < 36 ∧ e = 8 ∧ x = 0 ∧ (f = 0 ∨ f = 2) ∧ answers (exec (.engineReset c) s) (if j then (s.take c).modLink u fun
    L => { L with cmds := L.cmds ++ [c] } else ((s.take c).resetLink u 0).modLink u fun L => { L with cmds := [c] }) = true :=
  ⟨given (withLink 35 { state := .active, resetAt := some 0 }) 0x0A04 (fields 8 [(0, 2, 35), (2, 1, 8), (3, 1, 0), (4, 4, 0)]), 1, cmd 0x0A04 (fields
    8 [(0, 2, 35), (2, 1, 8), (3, 1, 0), (4, 4, 0)]), _, rfl, _, rfl, _, rfl, _, rfl, _, rfl, by decide +kernel⟩

theorem test_resetAndDiagnosticCommands_7 : ∃ s : State, ∃ c : Nat, ∃ k : Cmd, ∃ u, u = fieldAt k.params 0 2 ∧ ∃ e, e = fieldAt k.params 2 1 ∧ ∃ f, f
    = fieldAt k.params 3 1 ∧ ∃ x, x = fieldAt k.params 4 4 ∧ s.carries 0x0A04 c k ∧ (e = 6 ∨ 8 < e ∨ 3 < f ∨ (f % 2 = 1 ∧ e ≠ 7)) ∧ answers (exec
    (.engineReset c) s) ((s.take c).finish c stBadParam) = true :=
  ⟨given (inCtx {}) 0x0A04 (fields 8 [(0, 2, 191), (2, 1, 6), (3, 1, 0), (4, 4, 9)]), 1, cmd 0x0A04 (fields 8 [(0, 2, 191), (2, 1, 6), (3, 1, 0), (4,
    4, 9)]), _, rfl, _, rfl, _, rfl, _, rfl, by decide +kernel⟩

theorem test_resetAndDiagnosticCommands_7b : ∃ s : State, ∃ c : Nat, ∃ k : Cmd, ∃ u, u = fieldAt k.params 0 2 ∧ ∃ e, e = fieldAt k.params 2 1 ∧ ∃ f, f
    = fieldAt k.params 3 1 ∧ ∃ x, x = fieldAt k.params 4 4 ∧ s.carries 0x0A04 c k ∧ (e = 6 ∨ 8 < e ∨ 3 < f ∨ (f % 2 = 1 ∧ e ≠ 7)) ∧ answers (exec
    (.engineReset c) s) ((s.take c).finish c stBadParam) = true :=
  ⟨given (inCtx {}) 0x0A04 (fields 8 [(0, 2, 191), (2, 1, 9), (3, 1, 0), (4, 4, 9)]), 1, cmd 0x0A04 (fields 8 [(0, 2, 191), (2, 1, 9), (3, 1, 0), (4,
    4, 9)]), _, rfl, _, rfl, _, rfl, _, rfl, by decide +kernel⟩

theorem test_resetAndDiagnosticCommands_7c : ∃ s : State, ∃ c : Nat, ∃ k : Cmd, ∃ u, u = fieldAt k.params 0 2 ∧ ∃ e, e = fieldAt k.params 2 1 ∧ ∃ f, f
    = fieldAt k.params 3 1 ∧ ∃ x, x = fieldAt k.params 4 4 ∧ s.carries 0x0A04 c k ∧ (e = 6 ∨ 8 < e ∨ 3 < f ∨ (f % 2 = 1 ∧ e ≠ 7)) ∧ answers (exec
    (.engineReset c) s) ((s.take c).finish c stBadParam) = true :=
  ⟨given (inCtx {}) 0x0A04 (fields 8 [(0, 2, 191), (2, 1, 7), (3, 1, 4), (4, 4, 9)]), 1, cmd 0x0A04 (fields 8 [(0, 2, 191), (2, 1, 7), (3, 1, 4), (4,
    4, 9)]), _, rfl, _, rfl, _, rfl, _, rfl, by decide +kernel⟩

theorem test_resetAndDiagnosticCommands_7d : ∃ s : State, ∃ c : Nat, ∃ k : Cmd, ∃ u, u = fieldAt k.params 0 2 ∧ ∃ e, e = fieldAt k.params 2 1 ∧ ∃ f, f
    = fieldAt k.params 3 1 ∧ ∃ x, x = fieldAt k.params 4 4 ∧ s.carries 0x0A04 c k ∧ (e = 6 ∨ 8 < e ∨ 3 < f ∨ (f % 2 = 1 ∧ e ≠ 7)) ∧ answers (exec
    (.engineReset c) s) ((s.take c).finish c stBadParam) = true :=
  ⟨given (inCtx {}) 0x0A04 (fields 8 [(0, 2, 191), (2, 1, 5), (3, 1, 1), (4, 4, 9)]), 1, cmd 0x0A04 (fields 8 [(0, 2, 191), (2, 1, 5), (3, 1, 1), (4,
    4, 9)]), _, rfl, _, rfl, _, rfl, _, rfl, by decide +kernel⟩

theorem test_resetAndDiagnosticCommands_8 : ∃ s : State, ∃ c : Nat, ∃ k : Cmd, ∃ t, t = fieldAt k.params 16 2 ∧ ∃ f, f = fieldAt k.params 18 1 ∧ ∃ a,
    a = fieldAt k.params 20 4 ∧ ∃ n, n = fieldAt k.params 24 4 ∧ s.carries 0x0A03 c k ∧ t < 192 ∧ f ≤ 1 ∧ fieldAt k.params 19 1 = 0 ∧ a % 32 = 0 ∧ n % 32
    = 0 ∧ n ≠ 0 ∧ a + n ≤ 0x200000 ∧ s.ctxOk (fieldAt k.params 12 4) = false ∧ answers (exec (.diagScratchSample c) s) ((s.take c).finish c stContextGone)
    = true :=
  ⟨given booted 0x0A03 (fields 28 [(0, 8, 16384), (8, 4, 4096), (12, 4, 8), (16, 2, 191), (20, 4, 2097120), (24, 4, 32)]), 1, cmd 0x0A03 (fields 28
    [(0, 8, 16384), (8, 4, 4096), (12, 4, 8), (16, 2, 191), (20, 4, 2097120), (24, 4, 32)]), _, rfl, _, rfl, _, rfl, _, rfl, by decide +kernel⟩

theorem test_resetAndDiagnosticCommands_9 : ∃ s : State, ∃ c : Nat, ∃ k : Cmd, ∃ t, t = fieldAt k.params 16 2 ∧ ∃ f, f = fieldAt k.params 18 1 ∧ ∃ a,
    a = fieldAt k.params 20 4 ∧ ∃ n, n = fieldAt k.params 24 4 ∧ s.carries 0x0A03 c k ∧ t < 192 ∧ f ≤ 1 ∧ fieldAt k.params 19 1 = 0 ∧ a % 32 = 0 ∧ n % 32
    = 0 ∧ n ≠ 0 ∧ a + n ≤ 0x200000 ∧ s.ctxOk (fieldAt k.params 12 4) = true ∧ (s.ctx (fieldAt k.params 12 4)).tillers.contains t = true ∧ (s.tl t).run =
    .running ∧ (s.ctx (fieldAt k.params 12 4)).started = true ∧ answers (exec (.diagScratchSample c) s) ((s.take c).finish c stBadParam) = true :=
  ⟨given (inCtx { run := .running }) 0x0A03 (fields 28 [(0, 8, 16384), (8, 4, 4096), (12, 4, 9), (16, 2, 191), (20, 4, 2097120), (24, 4, 32)]), 1, cmd
    0x0A03 (fields 28 [(0, 8, 16384), (8, 4, 4096), (12, 4, 9), (16, 2, 191), (20, 4, 2097120), (24, 4, 32)]), _, rfl, _, rfl, _, rfl, _, rfl,
    by decide +kernel⟩

theorem test_resetAndDiagnosticCommands_10 : ∃ s : State, ∃ c : Nat, ∃ k : Cmd, ∃ m : Memory, ∃ t, t = fieldAt k.params 16 2 ∧ ∃ f, f = fieldAt
    k.params 18 1 ∧ ∃ a, a = fieldAt k.params 20 4 ∧ ∃ n, n = fieldAt k.params 24 4 ∧ ∃ bad, bad = (s.tl t).spUe.filter (fun w => decide (a ≤ 32 * w) &&
    decide (32 * w < a + n)) ∧ ∃ data, data = m.read a n ++ (if f = 1 then (s.take c).sampleState t else []) ∧ s.carries 0x0A03 c k ∧ t < 192 ∧ f ≤ 1 ∧
    fieldAt k.params 19 1 = 0 ∧ a % 32 = 0 ∧ n % 32 = 0 ∧ n ≠ 0 ∧ a + n ≤ 0x200000 ∧ s.ctxOk (fieldAt k.params 12 4) = true ∧ (s.ctx (fieldAt k.params 12
    4)).tillers.contains t = true ∧ ((s.tl t).run ≠ .running ∨ (s.ctx (fieldAt k.params 12 4)).started = false) ∧ m = bad.foldl (fun (m : Memory) w =>
    m.clear (32 * w) 32) (s.tl t).sp ∧ k.takes data.length ∧ answers (exec (.diagScratchSample c) s) ((s.reported k [bad.length] data).drawn) = true :=
  ⟨given (inCtx {}) 0x0A03 (fields 28 [(0, 8, 16384), (8, 4, 4096), (12, 4, 9), (16, 2, 191), (20, 4, 2097120), (24, 4, 32)]), 1, cmd 0x0A03 (fields
    28 [(0, 8, 16384), (8, 4, 4096), (12, 4, 9), (16, 2, 191), (20, 4, 2097120), (24, 4, 32)]), [], _, rfl, _, rfl, _, rfl, _, rfl, _, rfl, _, rfl,
    by decide +kernel⟩

theorem test_resetAndDiagnosticCommands_11 : ∃ s : State, ∃ c : Nat, ∃ k : Cmd, ∃ res, ∃ named, named = maskTillers (slice k.params 12 24) ∧ s.carries
    0x0A01 c k ∧ fieldAt k.params 36 1 ≤ 1 ∧ allZero (k.params.drop 37) = true ∧ named.all s.testable = true ∧ (∀ t ∈ named, s.domOn (domTiller (t / 8)) =
    true) ∧ k.takes (4 * named.length) ∧ (∀ i < named.length, s.harrow (named.getD i 0) = true ∧ fieldAt res (2 * i) 1 % 64 = 0 ∧ (fieldAt k.params 36 1 =
    0 ∨ fieldAt res (2 * i + 1) 1 % 2 = 0)) ∧ answers (exec (.diagSelftest c res) s) (s.reported k [] (List.replicate named.length [63#8, 0#8, 0#8,
    0#8]).flatten) = true :=
  ⟨given booted 0x0A01 (fields 40 [(0, 8, 16384), (8, 4, 8), (12, 24, 3138550867693340381917894711603833208051177722232017256449)]), 1, cmd 0x0A01
    (fields 40 [(0, 8, 16384), (8, 4, 8), (12, 24, 3138550867693340381917894711603833208051177722232017256449)]), List.replicate 4 0#8, _, rfl,
    by decide +kernel⟩

theorem test_resetAndDiagnosticCommands_12 : ∃ s : State, ∃ c : Nat, ∃ k : Cmd, ∃ res, ∃ named, named = maskTillers (slice k.params 12 24) ∧ s.carries
    0x0A01 c k ∧ fieldAt k.params 36 1 ≤ 1 ∧ allZero (k.params.drop 37) = true ∧ named.all s.testable = false ∧ answers (exec (.diagSelftest c res) s)
    ((s.take c).finish c stNoFit) = true :=
  ⟨given (inCtx {}) 0x0A01 (fields 40 [(0, 8, 16384), (8, 4, 8), (12, 24, 3138550867693340381917894711603833208051177722232017256449)]), 1, cmd 0x0A01
    (fields 40 [(0, 8, 16384), (8, 4, 8), (12, 24, 3138550867693340381917894711603833208051177722232017256449)]), List.replicate 4 0#8, _, rfl,
    by decide +kernel⟩

theorem test_resetAndDiagnosticCommands_13 : ∃ s : State, ∃ c : Nat, ∃ k : Cmd, ∃ res, ∃ named, named = maskTillers (slice k.params 12 24) ∧ ∃ l, l =
    (dedup (named.map fun t => domTiller (t / 8))).filter (fun d => !s.domOn d) ∧ s.carries 0x0A01 c k ∧ fieldAt k.params 36 1 ≤ 1 ∧ allZero
    (k.params.drop 37) = true ∧ named.all s.testable = true ∧ l ≠ [] ∧ answers (exec (.diagSelftest c res) s) (s.requestDomains l) = true :=
  ⟨given { booted with pwr := {} } 0x0A01 (fields 40 [(0, 8, 16384), (8, 4, 8), (12, 24,
    3138550867693340381917894711603833208051177722232017256449)]), 1, cmd 0x0A01 (fields 40 [(0, 8, 16384), (8, 4, 8), (12, 24,
    3138550867693340381917894711603833208051177722232017256449)]), List.replicate 4 0#8, _, rfl, _, rfl, by decide +kernel⟩

theorem test_warmResetRuns_1 : ∃ s : State, ∃ c : Nat, ∃ k : Cmd, ∃ s1, s1 = (((s.take c).modDev fun d =>
    { d with warm := some { cmd := c, accepted := s.t3 } }).modHost fun h => { h with latched := (s.take c).latchFor k }) ∧ ∃ s2, s2 =
    (s1.host.cmds.filter fun x => !x.taken).foldl (fun s x => s.finish x.id stRetry) s1 ∧ s.carries 0x0104 c k ∧ s.fw.act = none ∧ s.dev.warm = none ∧
    answers (exec (.devWarmReset c) s) ((s2.host.posts.foldl (fun s p => s.finish p.cmd stContextGone) s2).modHost fun h => { h with posts := [] }) = true
    :=
  ⟨given booted 0x0104 [], 1, cmd 0x0104 [], _, rfl, _, rfl, by decide +kernel⟩

theorem test_warmResetRuns_2 : ∃ s : State, ∃ c : Nat, ∃ k : Cmd, s.carries 0x0104 c k ∧ (s.fw.act.isSome = true ∨ s.dev.warm.isSome = true) ∧ answers
    (exec (.devWarmReset c) s) ((s.take c).finish c stRetry) = true :=
  ⟨given { booted with fw := { verified := true, act := some (2, false) } } 0x0104 [], 1, cmd 0x0104 [], by decide +kernel⟩

theorem test_warmResetRuns_2b : ∃ s : State, ∃ c : Nat, ∃ k : Cmd, s.carries 0x0104 c k ∧ (s.fw.act.isSome = true ∨ s.dev.warm.isSome = true) ∧
    answers (exec (.devWarmReset c) s) ((s.take c).finish c stRetry) = true :=
  ⟨given { booted with dev := { booted.dev with warm := some {} } } 0x0104 [], 1, cmd 0x0104 [], by decide +kernel⟩

theorem test_warmResetRuns_3 : ∃ s : State, ∃ w : Warm, s.live = true ∧ s.dev.warm = some w ∧ w.t0 = none ∧ s.recordsOut w = true ∧ s.dev.state ≠
    .wedged :=
  ⟨atNs ({ booted with dev := { booted.dev with warm := some { cmd := 3 }, state := booted.dev.state } }) 10000000, { cmd := 3 }, by decide +kernel⟩

theorem test_warmResetRuns_4 : ∃ s : State, ∃ w : Warm, s.live = true ∧ s.dev.warm = some w ∧ w.t0 = none ∧ s.recordsOut w = true ∧ s.dev.state =
    .wedged :=
  ⟨atNs ({ booted with dev := { booted.dev with warm := some { cmd := 3 }, state := .wedged } }) 10000000, { cmd := 3 }, by decide +kernel⟩

theorem test_warmResetRuns_5 : ∃ s : State, ∃ w : Warm, ∃ t0, s.live = true ∧ s.dev.warm = some w ∧ w.t0 = some t0 ∧ w.resumed = false :=
  ⟨{ booted with dev := { booted.dev with warm := some { cmd := 3, t0 := some 0 }, state := booted.dev.state } }, { cmd := 3, t0 := some 0 }, 0,
    by decide +kernel⟩

theorem test_warmResetRuns_6 : ∃ s : State, ∃ w : Warm, ∃ t0, s.live = true ∧ s.dev.warm = some w ∧ w.t0 = some t0 ∧ w.resumed = true ∧ s.dev.state ≠
    .wedged ∧ s.dev.fwpUp = 0x1F#5 :=
  ⟨{ booted with dev := { booted.dev with warm := some { cmd := 3, t0 := some 0, resumed := true }, state := booted.dev.state } },
    { cmd := 3, t0 := some 0, resumed := true }, 0, by decide +kernel⟩

theorem test_warmResetRuns_7 : ∃ s : State, ∃ w : Warm, ∃ t0, s.live = true ∧ s.dev.warm = some w ∧ w.t0 = some t0 ∧ w.resumed = true ∧ s.dev.state =
    .wedged :=
  ⟨{ booted with dev := { booted.dev with warm := some { cmd := 3, t0 := some 0, resumed := true }, state := .wedged } },
    { cmd := 3, t0 := some 0, resumed := true }, 0, by decide +kernel⟩

theorem test_firmwareBootsStagesAndRestarts_1 : ∃ s : State, ∃ c : Nat, ∃ k : Cmd, ∃ obj : List Byte, ∃ (s0 : State), s0 = s.take c ∧ ∃ (store : Nat),
    store = fieldAt k.params 12 1 ∧ ∃ s1, s1 = (if fitsStore store obj then s0.setFlash store (s0.targetSlot store) (FlashSlot.written store (s0.nextGen
    store) obj) else s0) ∧ ∃ g, g = (if s0.objectStatus store obj = stOk then some (s0.targetSlot store) else none) ∧ s.carries 0x0802 c k ∧ 1 ≤ store ∧
    store ≤ 3 ∧ k.viaPort = false ∧ fieldAt k.params 13 3 = 0 ∧ obj.length = fieldAt k.params 8 4 ∧ (s.dev.state ≠ .noFirmware ∨ store = 1) :=
  ⟨given booted 0x0802 (fields 16 [(0, 8, 16384), (8, 4, 260), (12, 1, 3)]), 1, cmd 0x0802 (fields 16 [(0, 8, 16384), (8, 4, 260), (12, 1, 3)]),
    keySet, _, rfl, _, rfl, _, rfl, _, rfl, by decide +kernel⟩

theorem test_firmwareBootsStagesAndRestarts_2 : ∃ s : State, ∃ c : Nat, ∃ k : Cmd, ∃ obj : List Byte, ∃ (s0 : State), s0 = s.take c ∧ ∃ (store : Nat),
    store = fieldAt k.params 12 1 ∧ s.carries 0x0802 c k ∧ (store = 0 ∨ 3 < store ∨ k.viaPort = true ∨ fieldAt k.params 13 3 ≠ 0 ∨ obj.length ≠ fieldAt
    k.params 8 4) ∧ answers (exec (.fwStage c obj) s) (s0.finish c stBadParam) = true :=
  ⟨given booted 0x0802 (fields 16 [(0, 8, 16384), (8, 4, 260), (12, 1, 4)]), 1, cmd 0x0802 (fields 16 [(0, 8, 16384), (8, 4, 260), (12, 1, 4)]),
    keySet, _, rfl, _, rfl, by decide +kernel⟩

theorem test_firmwareBootsStagesAndRestarts_2b : ∃ s : State, ∃ c : Nat, ∃ k : Cmd, ∃ obj : List Byte, ∃ (s0 : State), s0 = s.take c ∧ ∃ (store :
    Nat), store = fieldAt k.params 12 1 ∧ s.carries 0x0802 c k ∧ (store = 0 ∨ 3 < store ∨ k.viaPort = true ∨ fieldAt k.params 13 3 ≠ 0 ∨ obj.length ≠
    fieldAt k.params 8 4) ∧ answers (exec (.fwStage c obj) s) (s0.finish c stBadParam) = true :=
  ⟨given booted 0x0802 (fields 16 [(0, 8, 16384), (8, 4, 261), (12, 1, 3)]), 1, cmd 0x0802 (fields 16 [(0, 8, 16384), (8, 4, 261), (12, 1, 3)]),
    keySet, _, rfl, _, rfl, by decide +kernel⟩

theorem test_firmwareBootsStagesAndRestarts_3 : ∃ s : State, ∃ c : Nat, ∃ k : Cmd, ∃ (s0 : State), s0 = s.take c ∧ ∃ (store : Nat), store = fieldAt
    k.params 0 1 ∧ s.carries 0x0803 c k ∧ 1 ≤ store ∧ store ≤ 3 ∧ fieldAt k.params 1 1 ≤ 1 ∧ (fieldAt k.params 1 1 = 0 ∨ store = 1) ∧ fieldAt k.params 2 2
    = 0 ∧ (s.dev.state ≠ .noFirmware ∨ store = 1) ∧ SMap.get noneAt s.fw.staged store = none :=
  ⟨given { booted with fw := { verified := true } } 0x0803 (fields 4 [(0, 1, 3)]), 1, cmd 0x0803 (fields 4 [(0, 1, 3)]), _, rfl, _, rfl,
    by decide +kernel⟩

theorem test_firmwareBootsStagesAndRestarts_4 : ∃ s : State, ∃ c i : Nat, ∃ k : Cmd, ∃ (s0 : State), s0 = s.take c ∧ ∃ (store : Nat), store = fieldAt
    k.params 0 1 ∧ s.carries 0x0803 c k ∧ 1 ≤ store ∧ store ≤ 3 ∧ fieldAt k.params 1 1 ≤ 1 ∧ (fieldAt k.params 1 1 = 0 ∨ store = 1) ∧ fieldAt k.params 2 2
    = 0 ∧ (s.dev.state ≠ .noFirmware ∨ store = 1) ∧ SMap.get noneAt s.fw.staged store = some i ∧ s.dev.emergency = true :=
  ⟨given
    { booted with dev := { booted.dev with emergency := true }, fw := { verified := true, staged := [(3, some 1)], flash := [(5, FlashSlot.written 3 1 [])] } }
    0x0803 (fields 4 [(0, 1, 3)]), 1, 1, cmd 0x0803 (fields 4 [(0, 1, 3)]), _, rfl, _, rfl, by decide +kernel⟩

theorem test_firmwareBootsStagesAndRestarts_5 : ∃ s : State, ∃ c i : Nat, ∃ k : Cmd, ∃ (s0 : State), s0 = s.take c ∧ ∃ (store : Nat), store = fieldAt
    k.params 0 1 ∧ ∃ s1, s1 = (s0.setFlash store i (s0.flashSlot store i).committed).modFw (fun w =>
    { w with staged := SMap.set noneAt store none w.staged }) ∧ s.carries 0x0803 c k ∧ 1 ≤ store ∧ store ≤ 3 ∧ fieldAt k.params 1 1 ≤ 1 ∧ (fieldAt
    k.params 1 1 = 0 ∨ store = 1) ∧ fieldAt k.params 2 2 = 0 ∧ (s.dev.state ≠ .noFirmware ∨ store = 1) ∧ SMap.get noneAt s.fw.staged store = some i ∧
    s.dev.emergency = false ∧ (s0.flashSlot store i).good store = true ∧ store ≠ 1 :=
  ⟨given { booted with fw := { verified := true, staged := [(3, some 1)], flash := [(5, FlashSlot.written 3 1 [])] } } 0x0803 (fields 4 [(0, 1, 3)]),
    1, 1, cmd 0x0803 (fields 4 [(0, 1, 3)]), _, rfl, _, rfl, _, rfl, by decide +kernel⟩

theorem test_firmwareBootsStagesAndRestarts_6 : ∃ s : State, ∃ c i : Nat, ∃ k : Cmd, ∃ (s0 : State), s0 = s.take c ∧ ∃ (store : Nat), store = fieldAt
    k.params 0 1 ∧ ∃ s1, s1 = (s0.setFlash store i (s0.flashSlot store i).committed).modFw (fun w =>
    { w with staged := SMap.set noneAt store none w.staged }) ∧ s.carries 0x0803 c k ∧ 1 ≤ store ∧ store ≤ 3 ∧ fieldAt k.params 1 1 ≤ 1 ∧ (fieldAt
    k.params 1 1 = 0 ∨ store = 1) ∧ fieldAt k.params 2 2 = 0 ∧ (s.dev.state ≠ .noFirmware ∨ store = 1) ∧ SMap.get noneAt s.fw.staged store = some i ∧
    s.dev.emergency = false ∧ (s0.flashSlot store i).good store = true ∧ store = 1 :=
  ⟨given { booted with fw := { verified := true, staged := [(1, some 1)], flash := [(1, FlashSlot.written 1 1 [])] } } 0x0803 (fields 4 [(0, 1, 1)]),
    1, 1, cmd 0x0803 (fields 4 [(0, 1, 1)]), _, rfl, _, rfl, _, rfl, by decide +kernel⟩

theorem test_firmwareBootsStagesAndRestarts_7 : ∃ s : State, s.live = true ∧ s.dev.state = .booting ∧ s.dev.warm = none ∧ s.fw.verified = false ∧
    s.bootSlot = none ∧ s.fw.act = none ∧ answers (exec .bootImageVerified s) (s.modDev fun d => { d with state := .noFirmware }) = true :=
  ⟨{ booted with dev := { booted.dev with state := .booting }, fw := {} }, by decide +kernel⟩

theorem test_firmwareBootsStagesAndRestarts_8 : ∃ s : State, ∃ a, s.live = true ∧ s.dev.state = .booting ∧ s.dev.warm = none ∧ s.fw.verified = false ∧
    s.bootSlot = none ∧ s.fw.act = some a :=
  ⟨{ booted with dev := { booted.dev with state := .booting }, fw := { act := some (7, false) } }, (7, false), by decide +kernel⟩

theorem test_firmwareBootsStagesAndRestarts_9 : ∃ s : State, ∃ i kind, ∃ b, b = (s.flashSlot 1 i).content ∧ (s.live = true ∧ s.dev.state = .booting ∧
    s.dev.warm = none ∧ s.fw.verified = false) ∧ s.bootSlot = some (i, kind) :=
  ⟨booting false, 0, 0, _, rfl, by decide +kernel, bootSlot_first⟩

theorem test_firmwareBootsStagesAndRestarts_10 : ∃ s : State, ∃ s1, s1 = ((s.modDev fun d =>
    { d with state := if s.fw.isoDev then .isolated else .ready, fwVer := d.fwVer ||| 0x80000000#32 }).modFw fun w =>
    { w with bootStep := 7, act := none }) ∧ s.live = true ∧ s.dev.state = .booting ∧ s.dev.warm = none ∧ s.fw.verified = true ∧ s.dev.fwpUp = 0x1F#5 ∧
    s.fw.act = none :=
  ⟨{ (booting true) with dev := { (booting true).dev with fwpUp := 0x1F#5 }, fw := { verified := true } }, _, rfl, by decide +kernel⟩

theorem test_firmwareBootsStagesAndRestarts_11 : ∃ s : State, ∃ c burn, ∃ s1, s1 = ((s.modDev fun d =>
    { d with state := if s.fw.isoDev then .isolated else .ready, fwVer := d.fwVer ||| 0x80000000#32 }).modFw fun w =>
    { w with bootStep := 7, act := none }) ∧ s.live = true ∧ s.dev.state = .booting ∧ s.dev.warm = none ∧ s.fw.verified = true ∧ s.dev.fwpUp = 0x1F#5 ∧
    s.fw.act = some (c, burn) ∧ s.fw.bootKind = 1 :=
  ⟨{ (booting true) with dev := { (booting true).dev with fwpUp := 0x1F#5 }, fw := { verified := true, act := some (7, true), bootKind := 1 } }, 7,
    true, _, rfl, by decide +kernel⟩

theorem test_firmwareBootsStagesAndRestarts_12 : ∃ s : State, ∃ c burn, ∃ s1, s1 = ((s.modDev fun d =>
    { d with state := if s.fw.isoDev then .isolated else .ready, fwVer := d.fwVer ||| 0x80000000#32 }).modFw fun w =>
    { w with bootStep := 7, act := none }) ∧ s.live = true ∧ s.dev.state = .booting ∧ s.dev.warm = none ∧ s.fw.verified = true ∧ s.dev.fwpUp = 0x1F#5 ∧
    s.fw.act = some (c, burn) ∧ s.fw.bootKind ≠ 1 :=
  ⟨{ (booting true) with dev := { (booting true).dev with fwpUp := 0x1F#5 }, fw := { verified := true, act := some (7, true), svRun := 63 } }, 7,
    true, _, rfl, by decide +kernel⟩

theorem test_firmwareBootsStagesAndRestarts_13 : ∃ s : State, ∃ q : Nat, q < 5 ∧ s.live = true ∧ s.fwpRuns q = true :=
  ⟨booted, 4, by decide +kernel⟩

theorem test_firmwareBootsStagesAndRestarts_14 : ∃ s : State, ∃ q : Nat, ∃ w, w < 49152 ∧ q < 5 ∧ s.live = true ∧ s.fwpRuns q = true :=
  ⟨booted, 4, 49151, by decide +kernel⟩

theorem test_firmwareBootsStagesAndRestarts_15 : ∃ s : State, ∃ q : Nat, q < 5 ∧ s.live = true ∧ (s.proc q).restarting = true ∧ (q = 0 ∨ s.fwpUp
    fwpSec = true) ∧ sectionSums (s.stored 1) q = (s.proc q).sums :=
  ⟨{ booted with fw := { verified := true, procs := [(0, { restarting := true })] } }, 0, by decide +kernel⟩

theorem test_firmwareBootsStagesAndRestarts_16 : ∃ s : State, ∃ q : Nat, q < 5 ∧ s.live = true ∧ (s.proc q).restarting = true ∧ (q = 0 ∨ s.fwpUp
    fwpSec = true) ∧ sectionSums (s.stored 1) q ≠ (s.proc q).sums :=
  ⟨{ booted with fw := { verified := true, procs := [(0, { restarting := true, sums := [[]] })] } }, 0, by decide +kernel⟩

theorem test_attestationUsesEachKeyOnce_1 : ∃ s : State, ∃ c : Nat, ∃ k : Cmd, ∃ (i : Nat), i = s.fw.hssIdx ∧ ∃ (rep : List Byte), rep = (s.take
    c).report (slice k.params 12 32) i ∧ ∃ (data : List Byte), data = rep ++ hssSign (padTo 32 s.part.secret) i rep ++ s.part.certificate ∧ ∃ (s1 :
    State), s1 = s.modFw (fun w =>
    { w with hssIdx := i + 1, flash := if w.nextResv ≤ i then writeStore w.flash 5 (toLE 8 (w.nextResv + 16384)) else w.flash, treeReady := if i % hssTree = 0 then false else w.treeReady })
    ∧ (s.carries 0x0804 c k ∧ i < hssTotal ∧ (i % hssTree ≠ 0 ∨ i = 0 ∨ s.fw.treeReady = true)) ∧ k.takes data.length :=
  ⟨given { booted with fw := { verified := true } } 0x0804 (fields 44 [(0, 8, 16384), (8, 4, 8192), (12, 32, 7)]), 1, cmd 0x0804 (fields 44 [(0, 8,
    16384), (8, 4, 8192), (12, 32, 7)]), _, rfl, _, rfl, _, rfl, _, rfl, by decide +kernel, attest_takes 8192 (by decide +kernel) (by decide +kernel)
    (padTo_length _ _)⟩

theorem test_attestationUsesEachKeyOnce_2 : ∃ s : State, ∃ c : Nat, ∃ k : Cmd, ∃ (i : Nat), i = s.fw.hssIdx ∧ ∃ (rep : List Byte), rep = (s.take
    c).report (slice k.params 12 32) i ∧ ∃ (data : List Byte), data = rep ++ hssSign (padTo 32 s.part.secret) i rep ++ s.part.certificate ∧ (s.carries
    0x0804 c k ∧ i < hssTotal ∧ (i % hssTree ≠ 0 ∨ i = 0 ∨ s.fw.treeReady = true)) ∧ ¬ k.takes data.length :=
  ⟨given { booted with fw := { verified := true } } 0x0804 (fields 44 [(0, 8, 16385), (8, 4, 8192), (12, 32, 7)]), 1, cmd 0x0804 (fields 44 [(0, 8,
    16385), (8, 4, 8192), (12, 32, 7)]), _, rfl, _, rfl, _, rfl, by decide +kernel, fun h => absurd h.1 (by decide +kernel)⟩

theorem test_attestationUsesEachKeyOnce_3 : ∃ s : State, ∃ c : Nat, ∃ k : Cmd, ∃ (i : Nat), i = s.fw.hssIdx ∧ s.carries 0x0804 c k ∧ i < hssTotal ∧ i
    % hssTree = 0 ∧ i ≠ 0 ∧ s.fw.treeReady = false ∧ answers (exec (.attest c) s) ((s.take c).finish c stRetry) = true :=
  ⟨given { booted with fw := { verified := true, hssIdx := 32768, treeReady := false } } 0x0804 (fields 44 [(0, 8, 16384), (8, 4, 8192), (12, 32,
    7)]), 1, cmd 0x0804 (fields 44 [(0, 8, 16384), (8, 4, 8192), (12, 32, 7)]), _, rfl, by decide +kernel⟩

theorem test_attestationUsesEachKeyOnce_4 : ∃ s : State, ∃ c : Nat, ∃ k : Cmd, ∃ (i : Nat), i = s.fw.hssIdx ∧ s.carries 0x0804 c k ∧ hssTotal ≤ i ∧
    answers (exec (.attest c) s) ((s.take c).finish c stNoFit) = true :=
  ⟨given { booted with fw := { verified := true, hssIdx := hssTotal } } 0x0804 (fields 44 [(0, 8, 16384), (8, 4, 8192), (12, 32, 7)]), 1, cmd 0x0804
    (fields 44 [(0, 8, 16384), (8, 4, 8192), (12, 32, 7)]), _, rfl, by decide +kernel⟩

theorem test_attestationUsesEachKeyOnce_5 : ∃ s : State, s.live = true ∧ s.fwpUp fwpSec = true ∧ (hssTree / 2 ≤ s.fw.hssIdx % hssTree ∨ s.fw.hssIdx %
    hssTree = 0 ∧ s.fw.hssIdx ≠ 0) ∧ answers (exec .hssTreeBuilt s) (s.modFw fun w => { w with treeReady := true }) = true :=
  ⟨{ booted with fw := { verified := true, hssIdx := 16384 } }, by decide +kernel⟩

theorem test_quorumCommandsIsolateAndRestore_1_devIsolate : ∃ s : State, ∃ c : Nat, ∃ k : Cmd, (s.carries (0x0105) c k ∧ (fieldAt k.params 2 1 == 1) =
    (false) ∧ k.viaPort = false) ∧ (s.take c).quorumCheck (0x0105) k.params = stOk :=
  ⟨given withKeys 0x0105 (quorumRecord 0x0105 0 255), 1, cmd 0x0105 (quorumRecord 0x0105 0 255), by decide +kernel, quorum_ok rfl rfl (by simp [cmd])⟩

theorem test_quorumCommandsIsolateAndRestore_1_devRestore : ∃ s : State, ∃ c : Nat, ∃ k : Cmd, (s.carries (0x0105) c k ∧ (fieldAt k.params 2 1 == 1) =
    (true) ∧ k.viaPort = false) ∧ (s.take c).quorumCheck (0x0105) k.params = stOk :=
  ⟨given withKeys 0x0105 (quorumRecord 0x0105 1 255), 1, cmd 0x0105 (quorumRecord 0x0105 1 255), by decide +kernel, quorum_ok rfl rfl (by simp [cmd])⟩

theorem test_quorumCommandsIsolateAndRestore_1_portIsolate : ∃ s : State, ∃ c : Nat, ∃ k : Cmd, (s.carries (0x0404) c k ∧ (fieldAt k.params 2 1 == 1)
    = (false) ∧ k.viaPort = false) ∧ (s.take c).quorumCheck (0x0404) k.params = stOk :=
  ⟨given withKeys 0x0404 (quorumRecord 0x0404 0 35), 1, cmd 0x0404 (quorumRecord 0x0404 0 35), by decide +kernel, quorum_ok rfl rfl (by simp [cmd])⟩

theorem test_quorumCommandsIsolateAndRestore_1_portRestore : ∃ s : State, ∃ c : Nat, ∃ k : Cmd, (s.carries (0x0404) c k ∧ (fieldAt k.params 2 1 == 1)
    = (true) ∧ k.viaPort = false) ∧ (s.take c).quorumCheck (0x0404) k.params = stOk :=
  ⟨given withKeys 0x0404 (quorumRecord 0x0404 1 35), 1, cmd 0x0404 (quorumRecord 0x0404 1 35), by decide +kernel, quorum_ok rfl rfl (by simp [cmd])⟩

theorem test_quorumCommandsIsolateAndRestore_2_devRestore : ∃ s : State, ∃ c : Nat, ∃ k : Cmd, s.carries (0x0105) c k ∧ (fieldAt k.params 2 1 == 1) =
    (true) ∧ (s.take c).quorumCheck (0x0105) k.params ≠ stOk ∧ answers (exec (.devRestore c) s) ((s.take c).finish c ((s.take c).quorumCheck (0x0105)
    k.params)) = true :=
  ⟨given booted 0x0105 (quorumRecord 0x0105 1 255), 1, cmd 0x0105 (quorumRecord 0x0105 1 255), by decide +kernel⟩

theorem test_quorumCommandsIsolateAndRestore_2_portIsolate : ∃ s : State, ∃ c : Nat, ∃ k : Cmd, s.carries (0x0404) c k ∧ (fieldAt k.params 2 1 == 1) =
    (false) ∧ (s.take c).quorumCheck (0x0404) k.params ≠ stOk ∧ answers (exec (.portIsolate c) s) ((s.take c).finish c ((s.take c).quorumCheck (0x0404)
    k.params)) = true :=
  ⟨given booted 0x0404 (quorumRecord 0x0404 0 35), 1, cmd 0x0404 (quorumRecord 0x0404 0 35), by decide +kernel⟩

theorem test_quorumCommandsIsolateAndRestore_3_devIsolate : ∃ s : State, ∃ c : Nat, ∃ k : Cmd, ∃ hdr seq, (s.carries (0x0105) c k ∧ (fieldAt k.params
    2 1 == 1) = (false) ∧ k.src = .mgmt hdr seq) ∧ (s.take c).quorumCheck (0x0105) k.params = stOk :=
  ⟨given withKeys 0x0105 (quorumRecord 0x0105 0 255) (.mgmt [] 3), 1, cmd 0x0105 (quorumRecord 0x0105 0 255) (.mgmt [] 3), [], 3, by decide +kernel,
    quorum_ok rfl rfl (by simp [cmd])⟩

theorem test_quorumCommandsIsolateAndRestore_3_portRestore : ∃ s : State, ∃ c : Nat, ∃ k : Cmd, ∃ hdr seq, (s.carries (0x0404) c k ∧ (fieldAt k.params
    2 1 == 1) = (true) ∧ k.src = .mgmt hdr seq) ∧ (s.take c).quorumCheck (0x0404) k.params = stOk :=
  ⟨given withKeys 0x0404 (quorumRecord 0x0404 1 35) (.mgmt [] 3), 1, cmd 0x0404 (quorumRecord 0x0404 1 35) (.mgmt [] 3), [], 3, by decide +kernel,
    quorum_ok rfl rfl (by simp [cmd])⟩

theorem test_quorumCommandsIsolateAndRestore_4 : ∃ s : State, ∃ i : IsoPend, s.live = true ∧ s.dev.isoPend = some i ∧ (i.left = true ∨ s.after i.since
    (usec 100) = true) ∧ answers (exec .isolationApply s) (s.applyPending) = true :=
  ⟨{ booted with dev := { booted.dev with isoPend := some { cmd := 3, action := 1, port := 35, left := true } } },
    { cmd := 3, action := 1, port := 35, left := true }, by decide +kernel⟩

theorem test_shozeDecodesWhatItEncodes : ∃ i : Shoze, ∃ rest : List Byte, i.ds.length ≤ 4 :=
  ⟨{ mn := .mmBgs, rm := 7, sa := 31, sb := 31, sd := 31, sem := 15, ast := true, dyn := true, disj := true, ef := 3, imm := 0xFFFFFF, ds := List.replicate 4 {} },
    [1#8], by decide +kernel⟩

theorem test_shozeEncodesWhatItDecodes : ∃ b rest : List Byte, ∃ i : Shoze, decodeShoze b = some (i, rest) :=
  ⟨encodeShoze { mn := .aspush, imm := 0xFFFFFF#24 } ++ [1#8], [1#8], { mn := .aspush, imm := 0xFFFFFF#24 }, by decide +kernel⟩

end Sys2Proof.Tests
end

section

/-! What `Sound` says of the outcome of a row, and the operations that only rows use. -/

namespace Sys2Proof.Machine

/-- Where an outcome goes on, it goes on to a sound state. -/
def NextSound (s0 : State) (o : Host.Outcome State Fault Refusal) : Prop := ∀ r, o = .next r → Sound s0 r

theorem NextSound.next {s0 s : State} (h : Sound s0 s) : NextSound s0 (.next s) := fun _ hr => by cases hr; exact h

theorem NextSound.refused {s0 : State} {e : Refusal} : NextSound s0 (.refused e) := fun _ hr => by cases hr

theorem NextSound.ite {s0 : State} {a b : Host.Outcome State Fault Refusal} {c : Prop} [Decidable c] (ha : NextSound s0 a) (hb : NextSound s0 b) :
    NextSound s0 (if c then a else b) := by
  split
  · exact ha
  · exact hb

/-- A command's row is sound when its body keeps what is sound. -/
theorem runCmd_body_sound {s0 s : State} {op c : Nat} {body : Cmd → State → State} (hK : Sound s0 s)
    (h : ∀ k x, Sound s0 x → Sound s0 (body k x)) : NextSound s0 (runCmd op c s body) :=
  runCmd_sound hK fun k => h k _ (State.take_sound c hK)

theorem runSub_body_sound {s0 s : State} {op c : Nat} {mine : Cmd → Bool} {body : Cmd → State → State} (hK : Sound s0 s)
    (h : ∀ k x, Sound s0 x → Sound s0 (body k x)) : NextSound s0 (runSub op c mine s body) :=
  runSub_sound hK fun k => h k _ (State.take_sound c hK)

/-! ### Operations that only rows use -/

section
variable {s0 s : State} (hK : Sound s0 s)
include hK
open State

theorem State.takeTurn_sound (k : Nat) : Sound s0 (s.takeTurn k) := modFab_sound _ hK

theorem State.configured_sound : Sound s0 s.configured := takeTurn_sound hK 5

theorem State.stripeOut_sound (p : Nat) (map : BitVec 8) (slot : Nat) : Sound s0 (s.stripeOut p map slot) := modLink_sound _ _ hK

theorem State.flitSlot_sound (p : Nat) : Sound s0 (s.flitSlot p) :=
  stripeOut_sound (.ite (sendControl_sound _ hK)
    (.ite (sendData_sound _ (modLink_sound _ _ (freeBytes_sound _ hK))) (sendData_sound _ hK))) _ _ _

theorem State.syncErr_sound (p lane : Nat) : Sound s0 (s.syncErr p lane) := modLink_sound _ _ (countLink_sound _ _ _ hK)

theorem State.blockIn_sound (p lane : Nat) (b : List Byte) : Sound s0 (s.blockIn p lane b).2 :=
  .ite (syncErr_sound (modLink_sound _ _ hK) _ _) (modLink_sound _ _ hK)

theorem State.slotIn_sound (p : Nat) : Sound s0 (s.slotIn p) := modLink_sound _ _ hK

theorem State.devCorrected_sound (a n : Nat) (found : List Nat) : Sound s0 (s.devCorrected a n found) :=
  .ite hK (corrected_sound _ _ hK)

theorem State.passFromNow_sound (m : Nat) : Sound s0 (s.passFromNow m) := modCtrl_sound _ _ hK

theorem State.cxlRefused_sound (k : Nat) : Sound s0 (s.cxlRefused k) := .ite (drawn_sound (almQueue_sound _ hK)) hK

theorem State.leaveQueue_sound (who : SbReq) : Sound s0 (s.leaveQueue who) :=
  .foldl (modSeed_sound _ hK) fun _ _ h => sbServe_sound _ h

theorem State.await_sound (who : SbReq) (w : Wait) : Sound s0 (s.await who w) := by
  cases w with
  | domain d => exact requestDomains_sound _ hK
  | list L bad =>
    have h : Sound s0 (match bad with
        | some i => (s.quarantine L i).modList L fun l => { l with rebuilding := true }
        | none => s) := by
      cases bad with
      | none => exact hK
      | some i => exact modList_sound _ _ (quarantine_sound _ _ hK)
    exact .ite h (modSeed_sound _ h)

theorem State.flitIn_sound (p : Nat) (bytes : List Byte) : Sound s0 (s.flitIn p bytes).2 := by
  have hl (l : List Nat) (g : Nat → Nat) (w : Nat → List Byte) (a : List Byte × State) (ha : Sound s0 a.2) :
      Sound s0 (l.foldl (fun a b => ((a.1 ++ (a.2.blockIn p (g b) (w b)).1 : List Byte), (a.2.blockIn p (g b) (w b)).2)) a).2 := by
    induction l generalizing a with
    | nil => exact ha
    | cons b t ih => exact ih _ (blockIn_sound ha _ _ _)
  unfold State.flitIn
  split
  · exact hl _ _ _ _ hK
  · exact hK

theorem onFlit_sound {p : Nat} {bytes : List Byte} {act : List Byte → State → State}
    (h : ∀ f x, Sound s0 x → Sound s0 (act f x)) : NextSound s0 (onFlit p bytes s act) := by
  have hf := flitIn_sound hK p bytes
  exact onUnit_sound hK (.ite (slotIn_sound (.ite (h _ _ hf) (rxBad_sound _ hf)) _) (slotIn_sound hf _))

end
end Sys2Proof.Machine

end

section

/-! Updates of the power state, the flash stores, the shadow run and CORE_CLK that keep what no operation changes. -/

namespace Sys2Proof.Machine

/-- A branch may use what its condition says. -/
theorem Sound.iteOf {s0 a b : State} {c : Prop} [Decidable c] (ha : c → Sound s0 a) (hb : ¬ c → Sound s0 b) : Sound s0 (if c then a else b) := by
  split
  · exact ha ‹_›
  · exact hb ‹_›

theorem Take.Sound.got {α : Type} {s0 s : State} {t : Take α} {v : α} (h : t.Sound s0) (e : t = .got v s) : Machine.Sound s0 s := by
  subst e; exact h

/-! ### Flash stores and the isolation store -/

/-- A store reads the same when the same of its slots are valid and those that are valid are the same. -/
theorem storeContent_congr {m m' : SMap FlashSlot} {k : Nat} (hv : ∀ j, (flashSlotOf m' k j).valid k = (flashSlotOf m k j).valid k)
    (he : ∀ j, (flashSlotOf m k j).valid k = true → flashSlotOf m' k j = flashSlotOf m k j) : storeContent m' k = storeContent m k := by
  have hi : slotInForce m' k = slotInForce m k := by
    unfold slotInForce
    simp only [hv]
    by_cases h0 : (flashSlotOf m k 0).valid k = true <;> by_cases h1 : (flashSlotOf m k 1).valid k = true
    · rw [he 0 h0, he 1 h1]
    all_goals simp [h0, h1]
  have valid_of_inForce : ∀ j, slotInForce m k = some j → (flashSlotOf m k j).valid k = true := by
    intro j hj
    unfold slotInForce at hj
    by_cases h0 : (flashSlotOf m k 0).valid k = true <;> by_cases h1 : (flashSlotOf m k 1).valid k = true <;>
      simp only [h0, h1, Bool.and_self, Bool.and_false, Bool.false_and, if_true, Bool.false_eq_true, if_false, Option.some.injEq, reduceCtorEq] at hj
    · subst hj; split <;> assumption
    · subst hj; exact h0
    · subst hj; exact h1
  unfold storeContent
  rw [hi]
  cases hs : slotInForce m k with
  | none => rfl
  | some j => simp only [he j (valid_of_inForce j hs)]

theorem FlashSlot.store_of_good {f : FlashSlot} {k : Nat} (h : f.good k = true) : fieldAt f.header 4 4 = k := by
  simp only [FlashSlot.good, Bool.and_eq_true, beq_iff_eq] at h
  obtain ⟨⟨⟨⟨⟨⟨-, hk⟩, -⟩, -⟩, -⟩, -⟩, -⟩ := h
  exact hk

/-- A slot whose header names another store is not valid for this one. -/
theorem FlashSlot.not_valid_of_store {f : FlashSlot} {k : Nat} (h : fieldAt f.header 4 4 ≠ k) : f.valid k = false := by
  rw [Bool.eq_false_iff]
  intro hv
  exact h (FlashSlot.store_of_good (Bool.and_eq_true_iff.1 hv).1)

theorem FlashSlot.committed_store {f : FlashSlot} {k : Nat} (h : f.good k = true) : fieldAt f.committed.header 4 4 = fieldAt f.header 4 4 := by
  have hl : f.header.length = 64 := by
    simp only [FlashSlot.good, Bool.and_eq_true, beq_iff_eq] at h
    obtain ⟨⟨⟨⟨⟨⟨⟨hl, -⟩, -⟩, -⟩, -⟩, -⟩, -⟩, -⟩ := h
    exact hl
  unfold fieldAt FlashSlot.committed
  dsimp only
  rw [List.drop_append_of_le_length (by simp [hl]), List.take_append_of_le_length (by simp [hl]), List.drop_take, List.take_take]
  rfl

section
variable {s0 s : State} (hK : Sound s0 s)
include hK
open State

theorem State.modFw_flash_sound {f : Firmware → Firmware} (hf : ∀ w, storeContent (f w).flash 4 = storeContent w.flash 4) :
    Sound s0 (s.modFw f) := by
  refine modFw_sound hK ?_
  simp only [Firmware.quorumSeq, Firmware.isoPorts, Firmware.isoDev, hf, and_self]

theorem State.modPwr_each_sound {f : Power → Power} (hf : ∀ p, (f p).clkReq = p.clkReq ∧ (f p).clkStep = p.clkStep ∧ (f p).mulchCfg = p.mulchCfg) :
    Sound s0 (s.modPwr f) := modPwr_sound hK (hf _)

theorem State.setFlash_image_sound {store i : Nat} (f : FlashSlot) (hs : store ≤ 3) (hi : i ≤ 1) : Sound s0 (s.setFlash store i f) :=
  setFlash_sound _ _ _ (by omega) (by omega) hK

/-- Committing a slot that is good for another store leaves the isolation store, whatever slot it is. -/
theorem State.setFlash_committed_sound {store i : Nat} (hs : store ≤ 3) (hg : (s.flashSlot store i).good store = true) :
    Sound s0 (s.setFlash store i (s.flashSlot store i).committed) := by
  have hne : fieldAt (s.flashSlot store i).header 4 4 ≠ 4 := by rw [FlashSlot.store_of_good hg]; omega
  have hc : (s.flashSlot store i).committed.valid 4 = false := FlashSlot.not_valid_of_store (by rw [FlashSlot.committed_store hg]; exact hne)
  have hold : (s.flashSlot store i).valid 4 = false := FlashSlot.not_valid_of_store hne
  have hslot (j : Nat) : flashSlotOf (putSlot s.fw.flash store i (s.flashSlot store i).committed) 4 j =
      if 2 * (4 - 1) + j = 2 * (store - 1) + i then (s.flashSlot store i).committed else flashSlotOf s.fw.flash 4 j := SMap.get_set _ _ _ _ _
  have hsame (j : Nat) (h : 2 * (4 - 1) + j = 2 * (store - 1) + i) : flashSlotOf s.fw.flash 4 j = s.flashSlot store i := by
    show SMap.get _ _ _ = SMap.get _ _ _
    rw [h]
  have h4 : storeContent (putSlot s.fw.flash store i (s.flashSlot store i).committed) 4 = storeContent s.fw.flash 4 := by
    refine storeContent_congr (fun j => ?_) fun j hv => ?_
    · rw [hslot]
      split
      · next h => rw [hsame j h, hc, hold]
      · rfl
    · rw [hslot, if_neg]
      intro h
      rw [hsame j h, hold] at hv
      exact absurd hv (by decide)
  refine modFw_sound hK ?_
  simp only [Firmware.quorumSeq, Firmware.isoPorts, Firmware.isoDev, h4, and_self]

/-- A shadow run begins without a captured Tiller. -/
theorem State.withShadow_sound {x : Shadow} (hx : x.snap = none) : Sound s0 { s with shadow := some x } :=
  hK.mk' rfl rfl rfl id fun ⟨hh, hm, ht, _⟩ => ⟨hh, hm, ht, fun y T hy hT => by cases hy; rw [hx] at hT; cases hT⟩

/-- CORE_CLK as it is at power-up is at an operating point. -/
theorem State.withClk_sound : Sound s0 { s with clk := {} } := by
  refine hK.mk' rfl rfl rfl (fun h => ?_) id
  simp only [State.clockWf, Bool.and_eq_true] at h ⊢
  obtain ⟨⟨⟨⟨-, hr⟩, hs⟩, hl⟩, hu⟩ := h
  exact ⟨⟨⟨⟨by decide, hr⟩, hs⟩, hl⟩, hu⟩

end

theorem writeTarget_le_one (m : SMap FlashSlot) (store : Nat) : (writeTarget m store).1 ≤ 1 := by
  unfold writeTarget
  split
  · exact Nat.sub_le _ _
  · exact Nat.zero_le _

end Sys2Proof.Machine

end

section

/-! Every row but a quorum command keeps what no operation changes: a lemma for each row, then one over the whole instruction set. -/

namespace Sys2Proof.Machine
section
variable {s0 s : State} (hK : Sound s0 s)
include hK
open State

/-! ### Rows of Machine/Host -/

theorem execCompletionRecordWrite_sound (c : Nat) : NextSound s0 (execCompletionRecordWrite c s) := by
  refine .next ?_
  split
  · exact hK
  · next d _ =>
    have hd : Sound s0 (s.modHost fun h => { h with dones := h.dones.filter fun x => x.id != c }) := modHost_sound hK fun h => h
    split
    · refine .ite ?_ hK
      split
      · exact modHost_sound (msix_sound _ (writeHost_sound _ _ hd)) fun h => h
      · exact .ite (settleRing_sound _ (putRecord_sound _ _ _ _ _ _ hd)) hK
    · exact hK

theorem execInterruptCoalesceExpiry_sound (r : Nat) : NextSound s0 (execInterruptCoalesceExpiry r s) := by
  refine onUnit_sound hK ?_
  split
  · exact .ite (msix_sound _ (modRing_sound _ _ hK)) hK
  · exact hK

theorem execDeviceEventWrite_sound (r : Nat) : NextSound s0 (execDeviceEventWrite r s) := by
  refine onUnit_sound hK (.ite ?_ hK)
  split
  · exact putRecord_sound _ _ _ _ _ _ (modHost_sound hK fun h => h)
  · exact .ite (putRecord_sound _ _ _ _ _ _ (modRing_sound _ _ hK)) hK

theorem execRegisterWrite_sound (off width v : Nat) : NextSound s0 (execRegisterWrite off width v s) :=
  onEvent_sound hK (.ite (answer_sound _ (.ite (writeWord_sound _ _ (writeWord_sound _ _ hK)) (writeWord_sound _ _ hK))) (answer_sound _ hK))

theorem execBar2BadAccess_sound (off width : Nat) (_write : Bool) : NextSound s0 (execBar2BadAccess off width _write s) :=
  onEvent_sound hK (answer_sound _ hK)

theorem execRingEnable_sound (r v : Nat) : NextSound s0 (execRingEnable r v s) :=
  onUnit_sound hK (.ite (writeRingCfg_sound _ _ hK) hK)

theorem execRingDisable_sound (r v : Nat) : NextSound s0 (execRingDisable r v s) :=
  onUnit_sound hK (.ite (writeRingCfg_sound _ _ hK) hK)

theorem execCmdTailWrite_sound (off width v : Nat) : NextSound s0 (execCmdTailWrite off width v s) := by
  refine onEvent_sound hK ?_
  split
  · exact hK
  · exact .ite (.ite (modRing_sound _ _ hK) (modRing_sound _ _ hK)) hK

theorem execCplHeadWrite_sound (off width v : Nat) : NextSound s0 (execCplHeadWrite off width v s) := by
  refine onEvent_sound hK ?_
  split
  · exact hK
  · exact .ite (modRing_sound _ _ hK) hK

theorem execDescriptorFetch_sound (r : Nat) (desc params : List Byte) : NextSound s0 (execDescriptorFetch r desc params s) :=
  onUnit_sound hK (.ite (.ite (modRing_sound _ _ hK) (.ite hK (accept_sound _ _ _ _ (modRing_sound _ _ hK)))) hK)

theorem execBar4Read_sound (off len : Nat) (ecc : Option Nat) (ce : List Nat) : NextSound s0 (execBar4Read off len ecc ce s) := by
  refine onEvent_sound hK (.ite (answer_sound _ (freeBytes_sound _ hK)) ?_)
  dsimp only
  split
  · exact answer_sound _ (bar4Ecc_sound _ (corrected_sound _ _ hK))
  · exact answer_sound _ (corrected_sound _ _ hK)

theorem execBar4Write_sound (off : Nat) (data : List Byte) (ecc : Option Nat) (ce : List Nat) : NextSound s0 (execBar4Write off data ecc ce s) :=
  onEvent_sound hK (answer_sound _ (.foldl hK fun _ _ h => bar4Word_sound _ _ _ _ _ h))

theorem execDevIdentify_sound (c : Nat) : NextSound s0 (execDevIdentify c s) :=
  runCmd_body_sound hK fun _ _ h => finishData_sound _ _ _ h

theorem execFwVersion_sound (c : Nat) : NextSound s0 (execFwVersion c s) :=
  runCmd_body_sound hK fun _ _ h => finishData_sound _ _ _ h

theorem execDevStatus_sound (c : Nat) : NextSound s0 (execDevStatus c s) :=
  runCmd_body_sound hK fun _ _ h => finishData_sound _ _ _ h

theorem execDevSetMode_sound (c : Nat) : NextSound s0 (execDevSetMode c s) :=
  runCmd_body_sound hK fun _ _ h => .ite (finish_sound _ _ _ _ h) (finish_sound _ _ _ _ (configured_sound (modDev_sound _ h)))

/-! ### Rows of Machine/Fabric -/

theorem execNoticeQueueSend_sound : NextSound s0 (execNoticeQueueSend s) := by
  refine onEvent_sound hK ?_
  split
  · exact hK
  · exact .ite (almQueue_sound _ (modFab_sound _ hK)) (sendOn36_sound _ (modFab_sound _ hK))

theorem execForwardingDecision_sound (i : Nat) : NextSound s0 (execForwardingDecision i s) := by
  refine onUnit_sound hK ?_
  split
  · exact hK
  · exact .ite hK (decidePkt_sound _ _ (easeSlice_sound _ (modSlice_sound _ _ (takeTurn_sound hK _))))

theorem execHostPacketAdmit_sound : NextSound s0 (execHostPacketAdmit s) := by
  refine onEvent_sound hK ?_
  split
  · exact hK
  · split
    · exact hK
    · next he =>
      have hs := enter_sound _ _ _ hK _ he
      split
      · exact modHost_sound hs fun h => h
      · exact enqueue_sound _ _ (modHost_sound hs fun h => h)

theorem execSchedulerSelect_sound (p : Nat) : NextSound s0 (execSchedulerSelect p s) :=
  onUnit_sound hK (.ite (selectPort_sound _ (takeTurn_sound hK _)) hK)

/-! ### Rows of Machine/Link -/

theorem execFlitSlotTransmit_sound (p : Nat) : NextSound s0 (execFlitSlotTransmit p s) := by
  refine onUnit_sound hK ?_
  dsimp only
  split
  · exact flitSlot_sound hK _
  · exact .ite (flitSlot_sound hK _) hK
  · exact stripeOut_sound (modLink_sound _ _ hK) _ _ _
  · exact modLink_sound _ _ hK
  · exact modLink_sound _ _ hK
  · exact hK

theorem execDataFlitReceive_sound (p : Nat) (flit : List Byte) : NextSound s0 (execDataFlitReceive p flit s) :=
  onFlit_sound hK fun _ _ h => .ite (.ite h (rxData_sound _ _ h)) (.ite (linkDown_sound _ _ _ h) h)

theorem execControlFlitReceive_sound (p : Nat) (flit : List Byte) : NextSound s0 (execControlFlitReceive p flit s) :=
  onFlit_sound hK fun _ _ h => .ite h (.ite (rxControl_sound _ _ h) (.ite h (linkDown_sound _ _ _ h)))

theorem execDiscoveryFlitReceive_sound (p : Nat) (flit : List Byte) : NextSound s0 (execDiscoveryFlitReceive p flit s) :=
  onFlit_sound hK fun _ _ h => .ite (rxDiscovery_sound _ _ h) h

theorem execTrainingBlockReceive_sound (p lane : Nat) (block : List Byte) : NextSound s0 (execTrainingBlockReceive p lane block s) := by
  have hin : Sound s0 (if block.length = 9 then s.blockIn p lane block else (block, s)).2 := by
    split
    · exact blockIn_sound hK _ _ _
    · exact hK
  exact onUnit_sound hK (.ite (linkDown_sound _ _ _ hin) (.ite (modLink_sound _ _ hin) hin))

theorem execLaneBlockLock_sound (p lane : Nat) : NextSound s0 (execLaneBlockLock p lane s) :=
  onUnit_sound hK (.ite (modLink_sound _ _ hK) hK)

theorem execEnterDiscovery_sound (p : Nat) : NextSound s0 (execEnterDiscovery p s) :=
  onUnit_sound hK (.ite (modLink_sound _ _ hK) hK)

theorem execEnterActive_sound (p : Nat) : NextSound s0 (execEnterActive p s) :=
  onUnit_sound hK (.ite (devEvent_sound _ _ _ (grantAll_sound _ (modLink_sound _ _ hK))) hK)

theorem execTrainingTimeout_sound (p : Nat) : NextSound s0 (execTrainingTimeout p s) :=
  onUnit_sound hK (.ite (.ite (linkDown_sound _ _ _ (countLink_sound _ _ _ hK)) (modLink_sound _ _ (countLink_sound _ _ _ hK))) hK)

theorem execRetrainTimer_sound (p : Nat) : NextSound s0 (execRetrainTimer p s) :=
  onUnit_sound hK (.ite (modLink_sound _ _ hK) hK)

theorem execLaneLossOfSignal_sound (p lane : Nat) : NextSound s0 (execLaneLossOfSignal p lane s) :=
  onUnit_sound hK (.ite (.ite (linkDown_sound _ _ _ hK) hK) (.ite (modLink_sound _ _ hK) hK))

theorem execReplayTimerExpiry_sound (p : Nat) : NextSound s0 (execReplayTimerExpiry p s) :=
  onUnit_sound hK (.ite (askResend_sound _ hK) hK)

theorem execRetryExhausted_sound (p : Nat) : NextSound s0 (execRetryExhausted p s) :=
  onUnit_sound hK (.ite (linkDown_sound _ _ _ hK) hK)

theorem execControlTimeout_sound (p : Nat) : NextSound s0 (execControlTimeout p s) :=
  onUnit_sound hK (.ite (linkDown_sound _ _ _ hK) hK)

theorem execPauseExpiry_sound (p : Nat) : NextSound s0 (execPauseExpiry p s) :=
  onUnit_sound hK (.ite (modLink_sound _ _ hK) hK)

theorem execPauseTimeout_sound (p : Nat) : NextSound s0 (execPauseTimeout p s) := by
  refine onUnit_sound hK ?_
  split
  · exact .ite (linkDown_sound _ _ _ hK) hK
  · exact hK

theorem execSparingWindowEnd_sound (p : Nat) (errs : List Nat) : NextSound s0 (execSparingWindowEnd p errs s) :=
  onUnit_sound hK (.ite (modLink_sound _ _ (.foldl hK fun _ _ h => countLink_sound _ _ _ h)) hK)

theorem execLaserFeedLow_sound (o f : Nat) : NextSound s0 (execLaserFeedLow o f s) :=
  onUnit_sound hK (.ite hK (.foldl (modOe_sound _ _ hK) fun _ _ h => hold_sound _ _ _ (modLink_sound _ _ h)))

theorem execLaserFeedRecovered_sound (o f : Nat) : NextSound s0 (execLaserFeedRecovered o f s) :=
  onUnit_sound hK (.ite hK (.foldl (modOe_sound _ _ hK) fun _ _ h => unhold_sound _ (modLink_sound _ _ h)))

theorem execOeCalibrationCycle_sound (o : Nat) (overrun : Bool) (power : List Int) : NextSound s0 (execOeCalibrationCycle o overrun power s) :=
  onUnit_sound hK (modOe_sound _ _ (.ite (count_sound _ _ hK) hK))

theorem execLoopLaneAligned_sound (p lane : Nat) : NextSound s0 (execLoopLaneAligned p lane s) :=
  onUnit_sound hK (.ite (modLink_sound _ _ hK) hK)

theorem execLoopLaneAlignmentLost_sound (p lane : Nat) : NextSound s0 (execLoopLaneAlignmentLost p lane s) :=
  onUnit_sound hK (.ite (modLink_sound _ _ hK) hK)

theorem execLinkWatchdogFire_sound (p : Nat) : NextSound s0 (execLinkWatchdogFire p s) :=
  onUnit_sound hK (.ite (resetLink_sound _ _ (almQueue_sound _ hK)) hK)

theorem execLinkEngineResetDone_sound (p : Nat) : NextSound s0 (execLinkEngineResetDone p s) := by
  refine onUnit_sound hK ?_
  dsimp only
  split
  · exact hK
  · exact .ite hK (finishAll_sound _ _ _ (modLink_sound _ _ (almQueue_sound _ hK)))

theorem execLinkEngineResetOverrun_sound (p : Nat) : NextSound s0 (execLinkEngineResetOverrun p s) := by
  refine onUnit_sound hK ?_
  dsimp only
  split
  · exact hK
  · exact .ite (modFab_sound _ (.foldl (almQueue_sound _ hK) fun _ _ h => modLink_sound _ _ (.ite h (linkDown_sound _ _ _ h)))) hK

theorem execPortGroupResetDone_sound (g : Nat) : NextSound s0 (execPortGroupResetDone g s) := by
  refine onUnit_sound hK ?_
  split
  · exact hK
  · exact .ite hK (finishAll_sound _ _ _ (clearGroupCmds_sound _ (modFab_sound _ (almQueue_sound _ hK))))

theorem execPortGroupResetOverrun_sound (g : Nat) : NextSound s0 (execPortGroupResetOverrun g s) := by
  refine onUnit_sound hK ?_
  split
  · exact hK
  · exact .ite (finishAll_sound _ _ _ (wedge_sound _ _ (clearGroupCmds_sound _ (modFab_sound _ (almQueue_sound _ hK))))) hK

/-! ### Rows of Machine/Ports -/

theorem execPacketTransmitComplete_sound (p : Nat) (ecc : Option Nat) : NextSound s0 (execPacketTransmitComplete p ecc s) := by
  refine onUnit_sound hK ?_
  split
  · exact hK
  · refine .ite (samplePeak_sound _ _ ?_) hK
    split
    · exact .ite (deliveryLost_sound _ _ _ (dropPkt_sound _ _ _ (modFab_sound _ hK))) (dropPkt_sound _ _ _ (modFab_sound _ hK))
    · exact handOver_sound _ _ (modFab_sound _ hK)

theorem execGleanerPassStart_sound : NextSound s0 (execGleanerPassStart s) :=
  onEvent_sound hK (modFab_sound _ hK)

theorem execGleanerPassEnd_sound : NextSound s0 (execGleanerPassEnd s) :=
  onEvent_sound hK (.foldl (.ite (count_sound _ _ (count_sound _ _ (modFab_sound _ hK))) (count_sound _ _ (modFab_sound _ hK)))
      fun _ _ h => glean_sound _ h)

theorem execMgmtRequest_sound : NextSound s0 (execMgmtRequest s) := by
  refine onEvent_sound hK ?_
  split
  · exact hK
  · exact .ite (count_sound _ _ (modFab_sound _ hK)) (.ite (accept_sound _ _ _ _ (modFab_sound _ hK)) (modFab_sound _ hK))

theorem execNoticeReceive_sound : NextSound s0 (execNoticeReceive s) := by
  refine onEvent_sound hK ?_
  split
  · exact hK
  · exact devEvent_sound _ _ _ (modFab_sound _ hK)

theorem execTelRead_sound (c : Nat) : NextSound s0 (execTelRead c s) := by
  refine runCmd_body_sound hK fun _ _ h => ?_
  split
  · exact finish_sound _ _ _ _ h
  · exact finishData_sound _ _ _ (rollWindow_sound h)

theorem execTelWindow_sound (c : Nat) : NextSound s0 (execTelWindow c s) :=
  runCmd_body_sound hK fun _ _ h => .ite (finish_sound _ _ _ _ (modDev_sound _ (rollWindow_sound h))) (finish_sound _ _ _ _ h)

theorem execTelemetryWindowBoundary_sound : NextSound s0 (execTelemetryWindowBoundary s) :=
  onEvent_sound hK (rollWindow_sound hK)

theorem execRouteWrite_sound (c : Nat) : NextSound s0 (execRouteWrite c s) :=
  runCmd_body_sound hK fun _ _ h => .ite (finish_sound _ _ _ _ h) (finish_sound _ _ _ _ (.foldl h fun _ _ h1 => modFab_sound _ h1))

theorem execRouteRead_sound (c : Nat) : NextSound s0 (execRouteRead c s) :=
  runCmd_body_sound hK fun _ _ h => .ite (finish_sound _ _ _ _ h) (finishData_sound _ _ _ h)

theorem execPortConfig_sound (c : Nat) : NextSound s0 (execPortConfig c s) :=
  runCmd_body_sound hK fun _ _ h => .ite (finish_sound _ _ _ _ h) (admitTo_sound _ _ _ h (writePort_sound _ h))

theorem execPortLoop_sound (c : Nat) : NextSound s0 (execPortLoop c s) :=
  runCmd_body_sound hK fun _ _ h => .ite (finish_sound _ _ _ _ h) (.ite (finish_sound _ _ _ _ (.ite (rejoin_sound _ h) h))
      (finish_sound _ _ _ _ (enterLoop_sound _ _ _ h)))

theorem execQueueConfigSqCfg_sound (c : Nat) : NextSound s0 (execQueueConfigSqCfg c s) := by
  refine runSub_body_sound hK fun _ _ h => .ite (finish_sound _ _ _ _ h) ?_
  split
  · exact finish_sound _ _ _ _ h
  · exact .ite (finish_sound _ _ _ _ h) (.ite (finish_sound _ _ _ _ (configured_sound (setQueues_sound _ _ _ h)))
        (admitTo_sound _ _ _ h (setQueues_sound _ _ _ h)))

theorem execQueueConfigSqMap_sound (c : Nat) : NextSound s0 (execQueueConfigSqMap c s) :=
  runSub_body_sound hK fun _ _ h => .ite (finish_sound _ _ _ _ h) (finish_sound _ _ _ _ (configured_sound (modFab_sound _ h)))

theorem execQueueConfigPortWdrr_sound (c : Nat) : NextSound s0 (execQueueConfigPortWdrr c s) :=
  runSub_body_sound hK fun _ _ h => .ite (finish_sound _ _ _ _ h) (admitTo_sound _ _ _ h (modPort_sound _ _ h))

theorem execQueueConfigBufClass_sound (c : Nat) : NextSound s0 (execQueueConfigBufClass c s) :=
  runSub_body_sound hK fun _ _ h => .ite (finish_sound _ _ _ _ h) (.ite (finish_sound _ _ _ _ h)
      (finish_sound _ _ _ _ (configured_sound (modFab_sound _ h))))

theorem execShaperConfig_sound (c : Nat) : NextSound s0 (execShaperConfig c s) :=
  runCmd_body_sound hK fun _ _ h => .ite (finish_sound _ _ _ _ h) (admitTo_sound _ _ _ h
      (.ite (modStrShaper_sound _ _ h) (.ite (modSvcShaper_sound _ _ h) (modPortShaper_sound _ _ h))))

theorem execPolicerConfig_sound (c : Nat) : NextSound s0 (execPolicerConfig c s) :=
  runCmd_body_sound hK fun _ _ h => .ite (finish_sound _ _ _ _ h) (admitTo_sound _ _ _ h (modPolicer_sound _ _ h))

theorem execWredProfileProfile_sound (c : Nat) : NextSound s0 (execWredProfileProfile c s) :=
  runSub_body_sound hK fun _ _ h => .ite (finish_sound _ _ _ _ h) (finish_sound _ _ _ _ (configured_sound (.foldl h fun _ _ h1 => modFab_sound _ h1)))

theorem execWredProfilePortVcRed_sound (c : Nat) : NextSound s0 (execWredProfilePortVcRed c s) :=
  runSub_body_sound hK fun _ _ h => .ite (finish_sound _ _ _ _ h) (finish_sound _ _ _ _ (configured_sound (modPort_sound _ _ h)))

/-! ### Rows of Machine/Trellis -/

theorem execTrMap_sound (t e : Nat) : NextSound s0 (execTrMap t e s) :=
  issueRow_sound hK fun _ => .ite (fmtViolation_sound _ _ _ _ hK) (engine_sound _ _ _ _ hK)

theorem execTrLdprogCheck_sound (t : Nat) (ecc : Option Nat) : NextSound s0 (execTrLdprogCheck t ecc s) := by
  refine onUnit_sound hK ?_
  split
  · exact hK
  · dsimp only
    split
    · exact eccOperand_sound _ _ _ _ (dropEntry_sound _ _ hK)
    · split
      · exact fmtViolation_sound _ _ _ _ (modT_sound hK fun _ h => h)
      · exact modT_sound hK fun _ h => h

/-! ### Rows of Machine/Harrow -/

theorem execSparseBandFault_sound (t : Nat) : NextSound s0 (execSparseBandFault t s) := by
  refine onUnit_sound hK ?_
  split
  · exact hK
  · split
    · exact hK
    · exact .ite (fmtViolation_sound _ _ _ _ (modT_sound hK fun _ h =>
        Tiller.memWf_congr (Tiller.withSp_memWf h (wf_runSparse _ _ _)) rfl rfl)) hK

theorem execSparseMmComplete_sound (t : Nat) (ecc : Option Nat) : NextSound s0 (execSparseMmComplete t ecc s) := by
  refine onUnit_sound hK ?_
  split
  · exact hK
  · refine .ite ?_ hK
    split
    · exact eccOperand_sound _ _ _ _ (modT_sound hK fun _ h => h)
    · exact finishAsync_sound _ _ (modT_sound hK fun T h =>
        Tiller.memWf_congr (Tiller.withSp_memWf (Tiller.healed_memWf _ h) fun _ => wf_runSparse _ _ _ ((Tiller.memWf_iff T).1 h).2) rfl rfl)

/-! ### Rows of Machine/Mover -/

theorem execMeshSlotStart_sound (t k : Nat) (ecc : Option Nat) : NextSound s0 (execMeshSlotStart t k ecc s) := by
  refine onUnit_sound hK ?_
  split
  · exact hK
  · refine .ite ?_ hK
    split
    · exact eccOperand_sound _ _ _ _ (dropEntry_sound _ _ hK)
    · exact moverProgress_sound _ (setEntry_sound _ _ _ hK)

theorem execMeshArrival_sound (t k : Nat) : NextSound s0 (execMeshArrival t k s) := by
  refine onUnit_sound hK ?_
  split
  · exact hK
  · split
    · exact hK
    · refine .ite (.ite (setEntry_sound _ _ _ hK) ?_) hK
      split
      · exact .ite (modT_sound (setEntry_sound _ _ _ hK) fun _ h => h) (hazard_sound _ _ _ _ (setEntry_sound _ _ _ hK))
      · exact .ite (setEntry_sound _ _ _ hK) (hazard_sound _ _ _ _ (setEntry_sound _ _ _ hK))

theorem execMeshTransferComplete_sound (t k : Nat) : NextSound s0 (execMeshTransferComplete t k s) := by
  refine onUnit_sound hK ?_
  split
  · split
    · exact hK
    · refine .ite (.ite ?_ (finishAsync_sound _ _ (moverProgress_sound _ hK))) hK
      split
      · exact finishAsync_sound _ _ (moverProgress_sound _ hK)
      · exact finishAsync_sound _ _ (recordIn_sound _ _ (modT_sound (finishAsync_sound _ _ (moverProgress_sound _ hK))
            fun _ h => Tiller.putWords_memWf _ _ _ h))
  · split
    · exact .ite (finishAsync_sound _ _ (modT_sound (serveIn_sound _ hK) fun _ h => Tiller.putWords_memWf _ _ _ h)) hK
    · exact hK

theorem execMvGetComplete_sound (t k : Nat) (ecc : Bool) (ce : List Nat) : NextSound s0 (execMvGetComplete t k ecc ce s) := by
  refine onUnit_sound hK ?_
  split
  · exact hK
  · refine .ite (astLeft_sound _ _ (finishAsync_sound _ _ (modT_sound (serveIn_sound _ hK) fun _ h => Tiller.putWords_memWf _ _ _ h)))
        (.ite (moverFault_sound _ _ _ _ hK) ?_)
    split
    · exact moverFault_sound _ _ _ _ (countUe_sound _ hK)
    · exact astLeft_sound _ _ (finishAsync_sound _ _ (moverProgress_sound _ (recordIn_sound _ _
          (modT_sound (devCorrected_sound hK _ _ _) fun _ h => Tiller.putWords_memWf _ _ _ h))))

theorem execMvPutComplete_sound (t k : Nat) (ecc : Bool) : NextSound s0 (execMvPutComplete t k ecc s) := by
  refine onUnit_sound hK ?_
  split
  · exact hK
  · refine .ite (astLeft_sound _ _ (finishAsync_sound _ _ (recordOut_sound _ _ hK))) ?_
    split
    · exact eccOperand_sound _ _ _ _ (dropEntry_sound _ _ hK)
    · exact .ite (moverFault_sound _ _ _ _ hK) (astLeft_sound _ _ (finishAsync_sound _ _
          (moverProgress_sound _ (devWrite_sound _ _ (recordOut_sound _ _ hK)))))

theorem execMvSendAdmit_sound (t : Nat) (ecc : Option Nat) : NextSound s0 (execMvSendAdmit t ecc s) := by
  refine onUnit_sound hK ?_
  split
  · exact hK
  · refine .ite hK ?_
    split
    · split
      · exact hK
      · next he => exact popSend_sound _ (enter_sound _ _ _ hK _ he)
      · next he => exact enqueue_sound _ _ (popSend_sound _ (enter_sound _ _ _ hK _ he))
    · split
      · exact popSend_sound _ hK
      · refine .ite hK (.ite (setEntry_sound _ _ _ (popSend_sound _ hK)) ?_)
        split
        · exact eccOperand_sound _ _ _ _ (dropEntry_sound _ _ (popSend_sound _ hK))
        · split
          · exact hK
          · next he => exact moverProgress_sound _ (setEntry_sound _ _ _ (popSend_sound _ (enter_sound _ _ _ hK _ he)))

theorem execMvSendComplete_sound (t : Nat) : NextSound s0 (execMvSendComplete t s) := by
  refine onUnit_sound hK ?_
  split
  · exact hK
  · refine .ite hK (astLeft_sound _ _ (exemptEnds_sound _ (finishAsync_sound _ _ (moverProgress_sound _ ?_))))
    split
    · split
      · exact enqueue_sound _ _ hK
      · exact hK
    · exact hK

theorem execReceiveQueueArrival_sound (t : Nat) (ecc : Option Nat) : NextSound s0 (execReceiveQueueArrival t ecc s) := by
  refine onUnit_sound hK ?_
  split
  · exact hK
  · refine .ite hK ?_
    dsimp only
    split
    · exact .ite (deliveryLost_sound _ _ _ (dropPkt_sound _ _ _ (modFab_sound _ hK))) (dropPkt_sound _ _ _ (modFab_sound _ hK))
    · exact modT_sound (modFab_sound _ hK) fun _ h => h

theorem execMvRecvComplete_sound (t : Nat) : NextSound s0 (execMvRecvComplete t s) := by
  refine onUnit_sound hK ?_
  split
  · exact hK
  · refine .ite hK (.ite (astLeft_sound _ _ (exemptEnds_sound _ (finishAsync_sound _ _
        (drawn_sound (modT_sound (serveIn_sound _ hK) fun _ h => Tiller.putWords_memWf _ _ _ h))))) ?_)
    split
    · exact hK
    · exact .ite hK (astLeft_sound _ _ (exemptEnds_sound _ (finishAsync_sound _ _
          (moverProgress_sound _ (drawn_sound (recordIn_sound _ _ (modT_sound (release_sound _ hK) fun _ h => Tiller.putWords_memWf _ _ _ h)))))))

/-! ### Rows of Machine/Scalar -/

theorem execFenceRetire_sound (t e : Nat) : NextSound s0 (execFenceRetire t e s) :=
  onUnit_sound hK (.ite (modT_sound hK fun _ h => h) hK)

theorem execSignal_sound (t e : Nat) : NextSound s0 (execSignal t e s) :=
  issueRow_sound hK fun _ => .ite (retire_sound _ _ (signalSem_sound _ _ _ _ hK) fun _ h => h) (hazard_sound _ _ _ _ hK)

theorem execWait_sound (t e : Nat) : NextSound s0 (execWait t e s) :=
  issueRow_sound hK fun _ => .ite (modT_sound hK fun _ h => Tiller.retireWait_memWf _ _ _ _ h) (holdStream_sound _ _ _ hK)

theorem execWaitRetire_sound (t e : Nat) : NextSound s0 (execWaitRetire t e s) := by
  refine onUnit_sound hK ?_
  split
  · exact .ite (modT_sound hK fun _ h => Tiller.retireWait_memWf _ _ _ _ h) hK
  · exact hK

theorem execAspush_sound (t e : Nat) : NextSound s0 (execAspush t e s) :=
  issueRow_sound hK fun _ => .ite (hazard_sound _ _ _ _ hK) (retire_sound _ _ hK fun _ h => h)

/-! ### Rows of Machine/Complete -/

theorem execEngineResultComplete_sound (t k : Nat) (ecc : Option Nat) : NextSound s0 (execEngineResultComplete t k ecc s) := by
  refine onUnit_sound hK ?_
  split
  · exact hK
  · exact .ite (completeEntry_sound _ _ _ hK) hK

theorem execAstreamRowFetch_sound (t e : Nat) : NextSound s0 (execAstreamRowFetch t e s) := by
  refine onUnit_sound hK ?_
  split
  · exact hK
  · refine .ite ?_ hK
    split
    · exact hazard_sound _ _ _ _ (dropEntry_sound _ _ hK)
    · dsimp only
      split
      · exact hazard_sound _ _ _ _ (dropEntry_sound _ _ (modT_sound hK fun _ h => h))
      · exact setEntry_sound _ _ _ (modT_sound hK fun _ h => h)

/-! ### Rows of Machine/Collectives -/

theorem execContribReceive_sound (t : Nat) : NextSound s0 (execContribReceive t s) :=
  onReceive_sound hK fun _ _ _ _ h => .ite (abortSteps_sound _ _ _ _ (takeIn_sound _ _ _ _ h)) (admitPacket_sound _ _ _ _ _ h)

theorem execCountReceive_sound (t : Nat) : NextSound s0 (execCountReceive t s) :=
  onReceive_sound hK fun _ _ _ _ h => .ite (.ite (dupDrop_sound _ h) (.ite (admitPacket_sound _ _ _ _ _ h)
      (.foldl (admitPacket_sound _ _ _ _ _ h) fun _ _ h1 => slotSend_sound _ _ _ _ h1)))
      (.ite (.foldl (admitPacket_sound _ _ _ _ _ h) fun _ _ h1 => slotSend_sound _ _ _ _ h1) (admitPacket_sound _ _ _ _ _ h))

theorem execResultRequestReceive_sound (t : Nat) : NextSound s0 (execResultRequestReceive t s) := by
  refine onReceive_sound hK fun _ _ _ _ h => .ite (protoDrop_sound _ h) (.ite h ?_)
  split
  · exact slotSendAll_sound _ _ _ h
  · exact releaseAll_sound _ _ _ _ h

theorem execPartialReceive_sound (t : Nat) : NextSound s0 (execPartialReceive t s) :=
  onReceive_sound hK fun _ _ _ _ h => admitPacket_sound _ _ _ _ _ h

theorem execResultReceive_sound (t : Nat) : NextSound s0 (execResultReceive t s) :=
  onReceive_sound hK fun _ _ _ _ h => ringFlow_sound _ _ (admitPacket_sound _ _ _ _ _ h)

theorem execStepAbortReceive_sound (t : Nat) : NextSound s0 (execStepAbortReceive t s) := by
  refine onReceive_sound hK fun _ _ _ _ h => ?_
  dsimp only
  split
  · exact protoDrop_sound _ h
  · exact abortSteps_sound _ _ _ _ h

theorem execStepReplayReceive_sound (t : Nat) : NextSound s0 (execStepReplayReceive t s) := by
  refine onReceive_sound hK fun _ _ _ _ h => ?_
  split
  · exact protoDrop_sound _ h
  · exact resendTo_sound _ _ _ h

theorem execStepCommit_sound (l : Nat) : NextSound s0 (execStepCommit l s) := by
  refine onUnit_sound hK ?_
  dsimp only
  split
  · exact hK
  · exact .ite hK (.ite hK (.ite hK (.ite (abortSteps_sound _ _ _ _ hK) (commitStep_sound _ _ hK))))

theorem execStepTimeout_sound (l n : Nat) : NextSound s0 (execStepTimeout l n s) := by
  refine onUnit_sound hK ?_
  dsimp only
  split
  · exact hK
  · exact .ite hK (abortSteps_sound _ _ _ _ hK)

/-! ### Rows of Machine/Bindings -/

theorem execCollBind_sound (c : Nat) (members nbrs ops : List Byte) : NextSound s0 (execCollBind c members nbrs ops s) := by
  unfold execCollBind
  extract_lets who
  refine runSub_body_sound hK fun _ _ h => .ite (finish_sound _ _ _ _ h) (.ite (finish_sound _ _ _ _ h) (.ite (finish_sound _ _ _ _ h) ?_))
  split
  · exact await_sound hK _ _
  · next hr =>
    exact leaveQueue_sound (finish_sound _ _ _ _ (steerLanes_sound _ _ (modSlot_sound _ _ ((reserveSlot_sound _ _ _ _ _ h).got hr)))) _
  · exact leaveQueue_sound (finish_sound _ _ _ _ h) _

theorem execCollUnbind_sound (c : Nat) : NextSound s0 (execCollUnbind c s) :=
  runSub_body_sound hK fun _ _ h => .ite (finish_sound _ _ _ _ h) (.ite hK (finish_sound _ _ _ _
      (.foldl (unbind_sound _ h) fun _ _ h1 => giveAddr_sound _ h1)))

theorem execCollQuery_sound (c : Nat) : NextSound s0 (execCollQuery c s) :=
  runCmd_body_sound hK fun _ _ h => .ite (finish_sound _ _ _ _ h) (finishData_sound _ _ _ h)

theorem execCollSubstitute_sound (c : Nat) : NextSound s0 (execCollSubstitute c s) := by
  refine runCmd_body_sound hK fun _ _ h => .ite (finish_sound _ _ _ _ h) (.ite (finish_sound _ _ _ _ h) ?_)
  dsimp only
  split
  · exact finish_sound _ _ _ _ h
  · next q s1 hq =>
    have hs : Sound s0 s1 := by
      split at hq
      · cases hq; exact h
      · exact takeSlotQueues_sound _ _ _ h _ hq
    exact finish_sound _ _ _ _ (modSlot_sound _ _ (.ite (abortSteps_sound _ _ _ _ hs) hs))

/-! ### Rows of Machine/Posts -/

theorem execCollPostContrib_sound (c : Nat) (data : List Byte) : NextSound s0 (execCollPostContrib c data s) :=
  runSub_body_sound hK fun _ _ h => startPost_sound _ _ h

theorem execCollPostCounts_sound (c : Nat) (data : List Byte) : NextSound s0 (execCollPostCounts c data s) :=
  runSub_body_sound hK fun _ _ h => startPost_sound _ _ h

theorem execCollPostResultRequest_sound (c : Nat) : NextSound s0 (execCollPostResultRequest c s) :=
  runSub_body_sound hK fun _ _ h => startPost_sound _ _ h

theorem execPostPacketArrival_sound (ecc : Option Nat) : NextSound s0 (execPostPacketArrival ecc s) := by
  refine onEvent_sound hK ?_
  split
  · exact hK
  · exact .ite (modFab_sound _ (dropPkt_sound _ _ _ hK)) (.ite hK (takePostPacket_sound _ _ (clear36_sound _ hK)))

theorem execPostStepReplay_sound (c : Nat) (data : List Byte) : NextSound s0 (execPostStepReplay c data s) := by
  refine onEvent_sound hK ?_
  split
  · exact hK
  · refine .ite hK ?_
    split
    · exact hK
    · exact .ite (.ite (sendPost_sound _ _ hK) hK) (clear36_sound _ (.ite (sendPost_sound _ _ hK) hK))

/-! ### Rows of Machine/Shadow -/

theorem execDiagShadowRun_sound (c : Nat) : NextSound s0 (execDiagShadowRun c s) := by
  unfold execDiagShadowRun
  extract_lets who
  refine runCmd_body_sound hK fun k _ h => .ite (finish_sound _ _ _ _ h) (.ite (finish_sound _ _ _ _ h) (.ite (finish_sound _ _ _ _ h)
    (.ite (finish_sound _ _ _ _ h) (.ite (finish_sound _ _ _ _ h) ?_))))
  split
  · exact leaveQueue_sound (finish_sound _ _ _ _ h) _
  · exact leaveQueue_sound (finish_sound _ _ _ _ h) _
  · exact await_sound hK _ _
  · next s1 hm =>
    have ht : Sound s0 (s1.modT (fieldAt k.params 18 2) fun T => { T with owner := .shadow }) :=
      modT_sound ((takeMany_sound _ _ _ _ _ h).got hm) fun _ h => h
    refine leaveQueue_sound (withShadow_sound ht ?_) who
    rfl

/-- The repeat starts from the Tiller that the shadow run captured. -/
theorem execShadowRepeatStart_sound : NextSound s0 (execShadowRepeatStart s) := by
  refine onEvent_sound hK ?_
  split
  · exact hK
  · next x hx =>
    refine .ite hK (.ite (endRepeat_sound _ hK) ?_)
    split
    · exact hK
    · next T hT =>
      refine .ite (modShadow_sound (hK.mk' rfl rfl rfl id fun ⟨hh, hm, ht, hsn⟩ => ⟨hh, hm, fun u => ?_, hsn⟩) fun _ _ => rfl) hK
      rw [State.modT_tl']
      split
      · exact Tiller.memWf_congr (hsn x T hx hT) rfl rfl
      · exact ht u

theorem execShadowRunTimeout_sound : NextSound s0 (execShadowRunTimeout s) := by
  refine onEvent_sound hK ?_
  split
  · exact hK
  · exact .ite (endShadow_sound _ hK) hK

/-! ### Rows of Machine/Firmware -/

theorem execFwStage_sound (c : Nat) (obj : List Byte) : NextSound s0 (execFwStage c obj s) := by
  refine runCmd_body_sound hK fun k x h => .iteOf (fun _ => finish_sound _ _ _ _ h) fun hs => .ite (finish_sound _ _ _ _ h) ?_
  have h3 : fieldAt k.params 12 1 ≤ 3 := by
    simp only [Bool.or_eq_true, decide_eq_true_eq, not_or] at hs
    omega
  exact finish_sound _ _ _ _ (modFw_flash_sound (.ite (setFlash_image_sound h _ h3 (writeTarget_le_one _ _)) h) fun _ => rfl)

theorem execFwpWatchdogExpiry_sound (q : Nat) : NextSound s0 (execFwpWatchdogExpiry q s) :=
  onUnit_sound hK (.ite (fwpRestart_sound _ _ hK) hK)

theorem execFwpTrap_sound (q : Nat) : NextSound s0 (execFwpTrap q s) :=
  onUnit_sound hK (.ite (fwpRestart_sound _ _ hK) hK)

theorem execFwpMemoryUe_sound (q w : Nat) : NextSound s0 (execFwpMemoryUe q w s) :=
  onUnit_sound hK (.ite (fwpRestart_sound _ _ (modProc_sound _ _ (drawn_sound (almQueue_sound _ hK)))) hK)

theorem execFwpRestartDone_sound (q : Nat) : NextSound s0 (execFwpRestartDone q s) :=
  onUnit_sound hK (.ite hK (.ite (wedge_sound _ _ (modProc_sound _ _ hK)) (devEvent_sound _ _ _
      (almQueue_sound _ (fwpStart_sound _ (modProc_sound _ _ hK))))))

theorem execFwActivate_sound (c : Nat) : NextSound s0 (execFwActivate c s) := by
  refine runCmd_body_sound hK fun k x h => .iteOf (fun _ => finish_sound _ _ _ _ h) fun hs => .ite (finish_sound _ _ _ _ h) ?_
  have h3 : fieldAt k.params 0 1 ≤ 3 := by
    simp only [Bool.or_eq_true, decide_eq_true_eq, not_or] at hs
    omega
  split
  · exact finish_sound _ _ _ _ h
  · refine .ite (finish_sound _ _ _ _ h) (.iteOf (fun _ => finish_sound _ _ _ _ (modFw_flash_sound h fun _ => rfl)) fun hg => ?_)
    have hc := modFw_flash_sound (setFlash_committed_sound h h3 (by simpa using hg))
      (f := fun w => { w with staged := SMap.set noneAt (fieldAt k.params 0 1) none w.staged }) fun _ => rfl
    exact .ite (modFw_flash_sound (rebootAt2_sound hc) fun _ => rfl) (finish_sound _ _ _ _ hc)

theorem execBootImageVerified_sound : NextSound s0 (execBootImageVerified s) := by
  refine onEvent_sound hK ?_
  split
  · split
    · exact finish_sound _ _ _ _ (modFw_flash_sound (modDev_sound _ hK) fun _ => rfl)
    · exact modDev_sound _ hK
  · exact .foldl (almQueue_sound _ (modFw_flash_sound (modDev_sound _ (.foldl hK fun _ _ h => modProc_sound _ _ h)) fun _ => rfl))
      fun _ _ h => fwpStart_sound _ h

theorem execDeviceReady_sound : NextSound s0 (execDeviceReady s) := by
  refine onEvent_sound hK ?_
  have h1 : Sound s0 ((s.modDev fun d => { d with
      state := if s.fw.isoDev then .isolated else .ready, fwVer := d.fwVer ||| 0x80000000#32 }).modFw fun w => { w with bootStep := 7 }) :=
    modFw_flash_sound (modDev_sound _ hK) fun _ => rfl
  dsimp only
  split
  · exact h1
  · have h2 := modFw_flash_sound h1 (f := fun w => { w with act := none }) fun _ => rfl
    exact .ite (finish_sound _ _ _ _ h2) (finish_sound _ _ _ _ (h2.mk' rfl rfl rfl id id))

theorem execAttest_sound (c : Nat) : NextSound s0 (execAttest c s) := by
  refine runCmd_body_sound hK fun _ _ h => .ite (finish_sound _ _ _ _ h) (.ite (finish_sound _ _ _ _ h)
    (.ite (finishData_sound _ _ _ h) (finishData_sound _ _ _ (modFw_flash_sound h fun w => ?_))))
  dsimp only
  split
  · exact storeContent_putSlot (by omega) (by omega)
  · rfl

theorem execHssTreeBuilt_sound : NextSound s0 (execHssTreeBuilt s) :=
  onEvent_sound hK (modFw_flash_sound hK fun _ => rfl)

theorem execIsolationApply_sound : NextSound s0 (execIsolationApply s) :=
  onEvent_sound hK (applyPending_sound hK)

/-! ### Rows of Machine/Context -/

theorem execCtxCreate_sound (c : Nat) : NextSound s0 (execCtxCreate c s) := by
  refine runCmd_body_sound hK fun _ _ h => .ite (finish_sound _ _ _ _ h) ?_
  split
  · exact finish_sound _ _ _ _ h
  · exact finish_sound _ _ _ _ (modCtx_sound _ _ h)

theorem execCtxLoad_sound (c : Nat) (img : List Byte) (sizes phases : List Nat) : NextSound s0 (execCtxLoad c img sizes phases s) := by
  unfold execCtxLoad
  extract_lets who
  refine runCmd_body_sound hK fun _ _ h => .ite (finish_sound _ _ _ _ h) (.ite (finish_sound _ _ _ _ h) (.ite (finish_sound _ _ _ _ h) ?_))
  split
  · next hl =>
    have hs := (loadImage_sound _ _ _ _ _ h).got hl
    exact .ite (leaveQueue_sound (finish_sound _ _ _ _ hs) _) (requestDomains_sound _ hK)
  · exact leaveQueue_sound (finish_sound _ _ _ _ h) _
  · exact leaveQueue_sound (finish_sound _ _ _ _ h) _
  · exact await_sound (requestDomains_sound _ hK) _ _

theorem execCtxStart_sound (c : Nat) : NextSound s0 (execCtxStart c s) :=
  .ite (.next hK) (runCmd_body_sound hK fun _ _ h =>
    .ite (finish_sound _ _ _ _ h) (.ite (finish_sound _ _ _ _ h) (finish_sound _ _ _ _ (startAll_sound _ h))))

theorem execCtxStop_sound (c : Nat) : NextSound s0 (execCtxStop c s) :=
  runCmd_body_sound hK fun _ _ h => .ite (finish_sound _ _ _ _ h) (.ite (finish_sound _ _ _ _ h)
      (.ite (finish_sound _ _ _ _ h) (stopCheck_sound _ (.foldl (modCtx_sound _ _ h) fun _ _ h1 => modT_sound h1 fun _ h => h))))

theorem execCtxStopTimeout_sound (x : Nat) : NextSound s0 (execCtxStopTimeout x s) :=
  onUnit_sound hK (.ite hK (stopCheck_sound _ (modCtx_sound _ _ (.foldl (.foldl hK fun _ _ h => stopTiller_sound _ h)
      fun _ _ h => finish_sound _ _ _ _ h))))

theorem execStepEndRetire_sound (t e : Nat) : NextSound s0 (execStepEndRetire t e s) := by
  refine onUnit_sound hK (.ite hK (.ite ?_ (.ite hK (shadowStep_sound _ (modT_sound hK fun _ h => h)))))
  dsimp only
  split
  · exact stopCheck_sound _ (modT_sound hK fun _ h => h)
  · exact modT_sound hK fun _ h => h

theorem execHaltRetire_sound (t e : Nat) : NextSound s0 (execHaltRetire t e s) := by
  refine onUnit_sound hK (.ite hK (.ite ?_ (modT_sound hK fun _ h => Tiller.haltStream_memWf _ _ h)))
  dsimp only
  split
  · exact ctxHalts_sound _ (shadowStep_sound _ (modT_sound hK fun _ h => Tiller.haltStream_memWf _ _ h))
  · exact shadowStep_sound _ (modT_sound hK fun _ h => Tiller.haltStream_memWf _ _ h)

theorem execCtxTeardown_sound (c : Nat) : NextSound s0 (execCtxTeardown c s) :=
  runCmd_body_sound hK fun _ _ h => .ite (tearBegin_sound _ _ h) (finish_sound _ _ _ _ h)

theorem execTeardownEngineTimeout_sound (t e : Nat) : NextSound s0 (execTeardownEngineTimeout t e s) := by
  refine onUnit_sound hK ?_
  split
  · exact hK
  · split
    · exact .ite (beginReset_sound _ _ _ _ (discardSteps_sound _ hK)) hK
    · exact hK

theorem execTeardownWritesAcked_sound (x : Nat) : NextSound s0 (execTeardownWritesAcked x s) := by
  refine onUnit_sound hK ?_
  split
  · exact hK
  · refine .ite ?_ hK
    dsimp only
    split
    · exact finish_sound _ _ _ _ (tearRelease_sound _ hK)
    · exact tearRelease_sound _ hK

/-! ### Rows of Machine/Prefix -/

theorem execPut_sound (t : Nat) : NextSound s0 (execPut t s) := by
  refine onUnit_sound hK (pfxRow_sound _ _ _ hK fun _ _ => ?_)
  split
  · dsimp only
    split
    · exact leaveQueue_sound (putChunk_sound _ _ _ (takeHead_sound _ _ (modPfx_sound _ (gddrRoom_sound _ _ hK)))) _
    · exact leaveQueue_sound (modPfx_sound _ (gddrRoom_sound _ _ hK)) _
    · exact leaveQueue_sound (pfxCount_sound _ (putReply_sound _ _ _ (takeHead_sound _ _ (modPfx_sound _ (gddrRoom_sound _ _ hK))))) _
    · exact await_sound hK _ _
  · exact .ite (.ite (dropPut_sound _ (takeHead_sound _ _ hK)) (modPut_sound _ _ (takeHead_sound _ _ hK)))
        (.ite hK (.ite (pfxCount_sound _ (takeHead_sound _ _ hK)) (putChunk_sound _ _ _ (takeHead_sound _ _ hK))))

theorem execPutCommit_sound (pid : Nat) : NextSound s0 (execPutCommit pid s) := by
  refine onEvent_sound hK ?_
  split
  · exact hK
  · exact .ite hK (.ite (putReply_sound _ _ _ (giveAddr_sound _ (dropPut_sound _ hK)))
        (pfxCount_sound _ (putReply_sound _ _ _ (enterBlock_sound _ (modPfx_sound _ (dropPut_sound _ hK))))))

theorem execPutTimeout_sound (pid : Nat) : NextSound s0 (execPutTimeout pid s) := by
  refine onEvent_sound hK ?_
  split
  · exact hK
  · refine .ite hK (.ite (dropPut_sound _ hK) (pfxCount_sound _ (putReply_sound _ _ _ (.ite ?_ (giveAddr_sound _ (dropPut_sound _ hK))))))
    split
    · exact takeHead_sound _ _ (dropPut_sound _ hK)
    · exact dropPut_sound _ hK

theorem execGet_sound (t : Nat) (ce : List Nat) : NextSound s0 (execGet t ce s) := by
  refine onUnit_sound hK (pfxRow_sound _ _ _ hK fun _ _ => ?_)
  dsimp only
  split
  · exact pfxCount_sound _ (missReply_sound _ _ _ _ _ (takeHead_sound _ _ hK))
  · exact pfxCount_sound _ (sendBlock_sound _ _ _ _ _ (modPfx_sound _ (modBlock_sound _ _ (takeHead_sound _ _ hK))))

theorem execDelete_sound (t : Nat) : NextSound s0 (execDelete t s) := by
  refine onUnit_sound hK (pfxRow_sound _ _ _ hK fun _ _ => ?_)
  dsimp only
  split
  · exact missReply_sound _ _ _ _ _ (takeHead_sound _ _ hK)
  · exact removeBlock_sound _ (pfxSend_sound _ _ (takeHead_sound _ _ hK))

theorem execProbe_sound (t : Nat) : NextSound s0 (execProbe t s) := by
  refine onUnit_sound hK (pfxRow_sound _ _ _ hK fun _ _ => ?_)
  dsimp only
  split
  · exact missReply_sound _ _ _ _ _ (takeHead_sound _ _ hK)
  · exact pfxSend_sound _ _ (takeHead_sound _ _ hK)

theorem execPrefixDemoteDone_sound (key : List Byte) : NextSound s0 (execPrefixDemoteDone key s) := by
  refine onEvent_sound hK ?_
  split
  · exact hK
  · split
    · exact hK
    · exact .ite hK (.ite (pfxCount_sound _ (removeBlock_sound _ (noteRead_sound _ _ hK)))
          (freeStorage_sound _ (pfxCount_sound _ (modBlock_sound _ _ (copyBlock_sound _ _ _ (noteRead_sound _ _ hK))))))

theorem execPrefixPromote_sound (key : List Byte) : NextSound s0 (execPrefixPromote key s) := by
  refine onEvent_sound hK ?_
  split
  · exact hK
  · refine .ite hK ?_
    split
    · exact .ite hK (promoteTo_sound _ _ hK)
    · dsimp only
      split
      · exact leaveQueue_sound (promoteTo_sound _ _ (gddrRoom_sound _ _ (modBlock_sound _ _ hK))) _
      · exact leaveQueue_sound (modBlock_sound _ _ (gddrRoom_sound _ _ (modBlock_sound _ _ hK))) _
      · exact await_sound hK _ _
      · exact modBlock_sound _ _ (leaveQueue_sound hK _)

theorem execPrefixConfig_sound (c : Nat) : NextSound s0 (execPrefixConfig c s) := by
  unfold execPrefixConfig
  extract_lets needs
  split
  · exact .next hK
  · refine .ite (.next (requestDomains_sound _ hK)) (runCmd_body_sound hK fun _ x h => .ite (finish_sound _ _ _ _ h) (.ite
      (.ite (finish_sound _ _ _ _ (modPfx_sound _ (disableStore_sound h))) (drawn_sound (finish_sound _ _ _ _ (modPfx_sound _ h))))
      (.ite (.ite (finish_sound _ _ _ _ h) (.ite (finish_sound _ _ _ _ h)
        (finish_sound _ _ _ _ (holdLimits_sound (modPfx_sound _ (setMinima_sound _ _ h)))))) ?_)))
    split
    · exact finish_sound _ _ _ _ h
    · exact .ite (finish_sound _ _ _ _ h) (finish_sound _ _ _ _ (enableStore_sound _ _ (modPfx_sound _ (setMinima_sound _ _ h))))

/-! ### Rows of Machine/Seedbank -/

theorem execPoolConfigCounts_sound (c : Nat) : NextSound s0 (execPoolConfigCounts c s) :=
  runSub_body_sound hK fun _ _ h => .ite (finish_sound _ _ _ _ h) (.ite (finish_sound _ _ _ _ h)
      (.ite (finish_sound _ _ _ _ h) (.ite (finish_sound _ _ _ _ (layPools_sound _ h)) (finish_sound _ _ _ _ h))))

theorem execPoolConfigMinima_sound (c : Nat) : NextSound s0 (execPoolConfigMinima c s) :=
  runSub_body_sound hK fun _ _ h => .ite (finish_sound _ _ _ _ h) (.ite (finish_sound _ _ _ _ (setMinima_sound _ _ h)) (finish_sound _ _ _ _ h))

theorem execBufAlloc_sound (c : Nat) : NextSound s0 (execBufAlloc c s) := by
  refine runCmd_body_sound hK fun _ _ h => ?_
  dsimp only
  split
  · exact finish_sound _ _ _ _ h
  · exact .ite (finish_sound _ _ _ _ h) (sbAsk_sound _ h)

theorem execBufFree_sound (c : Nat) : NextSound s0 (execBufFree c s) :=
  runCmd_body_sound hK fun _ _ h => .ite (finish_sound _ _ _ _ h) (finish_sound _ _ _ _ (sbFree_sound _ _ h))

theorem execSeedbankRequest_sound (t : Nat) (r : SbAsk) : NextSound s0 (execSeedbankRequest t r s) :=
  onUnit_sound hK (.ite hK (.ite (.ite (almQueue_sound _ hK) (sbFree_sound _ _ hK)) (.ite hK (sbAsk_sound _ hK))))

theorem execSeedbankRebuildDone_sound (L : Nat) : NextSound s0 (execSeedbankRebuildDone L s) :=
  onUnit_sound hK (.ite (sbServe_sound _ (rebuildList_sound _ (modList_sound _ _ hK))) (sbServe_sound _ hK))

/-! ### Rows of Machine/Tiers -/

theorem execCxlPortDown_sound (k : Nat) : NextSound s0 (execCxlPortDown k s) :=
  onUnit_sound hK (cxlDown_sound _ hK)

theorem execCxlWriteAckTimeout_sound (x k : Nat) : NextSound s0 (execCxlWriteAckTimeout x k s) := by
  refine onUnit_sound hK ?_
  split
  · exact .ite (cxlDown_sound _ hK) hK
  · exact hK

theorem execCxlPortUp_sound (k cap : Nat) : NextSound s0 (execCxlPortUp k cap s) :=
  onUnit_sound hK (.ite hK (.ite (cxlRefused_sound hK _) (.ite (modCxl_sound _ _ hK)
      (passFromNow_sound (modList_sound _ _ (modCxl_sound _ _ hK)) _))))

theorem execScrubSlot_sound (m ecc : Nat) : NextSound s0 (execScrubSlot m ecc s) := by
  refine onUnit_sound hK (.ite hK ?_)
  split
  · exact modCtrl_sound _ _ (healCe_sound _ hK)
  · exact scrubStep_sound _ (scrubLine_sound _ _ hK)

/-! ### Rows of Machine/Cvu -/

theorem execCvRead_sound (t e : Nat) : NextSound s0 (execCvRead t e s) :=
  issueRow_sound hK fun _ => .ite (modT_sound (launch_sound _ _ _ _ _ hK) fun _ h => Tiller.withDmem_memWf h (Memory.wf_write _ _ _))
      (.ite (drawn_sound (launch_sound _ _ _ _ _ hK)) (launch_sound _ _ _ _ _ hK))

theorem execCvSave_sound (t e : Nat) : NextSound s0 (execCvSave t e s) := by
  refine issueRow_sound hK fun i => ?_
  extract_lets T a s'
  have h' : Sound s0 s' := modT_sound (launch_sound _ _ _ _ _ hK) fun _ h => Tiller.withDmem_memWf h (Memory.wf_write _ _ _)
  exact .ite (drawn_sound h') h'

theorem execCvRestore_sound (t e : Nat) (ecc : Option Nat) : NextSound s0 (execCvRestore t e ecc s) := by
  refine issueRow_sound hK fun _ => ?_
  dsimp only
  split
  · exact eccCore_sound _ _ _ hK
  · split
    · exact hazard_sound _ _ _ _ hK
    · exact cvu_sound _ _ _ _ hK

/-! ### Rows of Machine/Watch -/

theorem execTillerWatchdogFire_sound (t e : Nat) : NextSound s0 (execTillerWatchdogFire t e s) :=
  onUnit_sound hK (.ite (.ite (faultReset_sound _ _ _ _ hK) (drawn_sound (faultReset_sound _ _ _ _ hK))) hK)

theorem execSampleComplete_sound (t : Nat) : NextSound s0 (execSampleComplete t s) := by
  refine onUnit_sound hK ?_
  split
  · exact hK
  · exact .ite hK (drawn_sound (modT_sound (almHw_sound _ hK) fun _ h => h))

theorem execEngineResetDone_sound (t : Nat) : NextSound s0 (execEngineResetDone t s) := by
  refine onUnit_sound hK ?_
  split
  · exact hK
  · split
    · exact hK
    · refine .ite hK ?_
      extract_lets es s1 s2 s3 r'
      have h1 : Sound s0 s1 := .foldl hK fun _ _ h => resetEngine_sound _ _ h
      have h2 : Sound s0 s2 := .foldl h1 fun _ _ h => almQueue_sound _ h
      have h3 : Sound s0 s3 := faultNotice_sound _ _ _ h2
      exact .ite (modT_sound h3 fun _ h => h) (sendReplays_sound _ (endReset_sound _ _ _ h3))

theorem execEngineResetOverrun_sound (t : Nat) : NextSound s0 (execEngineResetOverrun t s) := by
  refine onUnit_sound hK ?_
  split
  · exact hK
  · split
    · exact hK
    · exact .ite hK (modT_sound (.foldl hK fun _ _ h => almQueue_sound _ h) fun _ h => h)

theorem execTillerResetDone_sound (t : Nat) (eccBad : Bool) : NextSound s0 (execTillerResetDone t eccBad s) := by
  refine onUnit_sound hK ?_
  split
  · exact hK
  · split
    · exact hK
    · refine .ite hK ?_
      extract_lets again s1 seq s2 r' s3
      have h2 : Sound s0 s2 := faultNotice_sound _ _ _ (almQueue_sound _ (dropStoreWork_sound _ (resetTiller_sound _ _ hK)))
      have h3 : Sound s0 s3 := by
        dsimp only [s3]
        split
        · exact ctxEvent_sound _ _ _ _ h2
        · exact h2
      exact .ite (finishAll_sound _ _ _ (modT_sound h3 fun _ h => h)) (sendReplays_sound _ (endReset_sound _ _ _ h2))

theorem execTillerResetOverrun_sound (t : Nat) : NextSound s0 (execTillerResetOverrun t s) := by
  refine onUnit_sound hK ?_
  split
  · exact hK
  · split
    · exact hK
    · exact .ite hK (finishAll_sound _ _ _ (wedge_sound _ _ (modT_sound (almQueue_sound _ hK) fun _ h => h)))

theorem execTillerRestart_sound (t : Nat) : NextSound s0 (execTillerRestart t s) := by
  refine onUnit_sound hK ?_
  split
  · exact hK
  · exact .ite hK (.ite (finishAll_sound _ _ _ (modT_sound hK fun _ h => h))
        (finishAll_sound _ _ _ (modT_sound (startTiller_sound _ hK) fun _ h => h)))

theorem execEngineReset_sound (c : Nat) : NextSound s0 (execEngineReset c s) := by
  refine runCmd_body_sound hK fun _ _ h => .ite (finish_sound _ _ _ _ h) (.ite
      (.ite (modLink_sound _ _ h) (modLink_sound _ _ (resetLink_sound _ _ h)))
      (.ite (finish_sound _ _ _ _ h) (.ite (finish_sound _ _ _ _ h) (.ite (finish_sound _ _ _ _ h) ?_))))
  split
  · exact modT_sound h fun _ h => h
  · exact modT_sound (haltForReset_sound _ h) fun _ h => h

theorem execDiagScratchSample_sound (c : Nat) : NextSound s0 (execDiagScratchSample c s) :=
  runCmd_body_sound hK fun _ _ h => .ite (finish_sound _ _ _ _ h) (.ite (finish_sound _ _ _ _ h)
      (.ite (finish_sound _ _ _ _ h) (drawn_sound (finishData_sound _ _ _ h))))

theorem execDiagSelftest_sound (c : Nat) (results : List Byte) : NextSound s0 (execDiagSelftest c results s) := by
  unfold execDiagSelftest
  extract_lets named proper off
  split
  · exact .next hK
  · exact .ite (.next (requestDomains_sound _ hK)) (runCmd_body_sound hK fun _ _ h => .ite (finish_sound _ _ _ _ h)
      (.ite (finish_sound _ _ _ _ h) (finishData_sound _ _ _ (.foldl h fun _ _ h1 => almQueue_sound _ h1))))

/-! ### Rows of Machine/Warm -/

theorem execDevWarmReset_sound (c : Nat) : NextSound s0 (execDevWarmReset c s) :=
  runCmd_body_sound hK fun _ _ h => .ite (finish_sound _ _ _ _ h) (modHost_sound
      (.foldl (.foldl (modHost_sound (modDev_sound _ h) fun h => h) fun _ _ h1 => finish_sound _ _ _ _ h1) fun _ _ h1 => finish_sound _ _ _ _ h1)
      fun h => h)

theorem execWarmResetT0_sound : NextSound s0 (execWarmResetT0 s) := by
  refine onEvent_sound hK ?_
  split
  · exact hK
  · have h0 : Sound s0 (s.modHost fun h => { h with dones := [] }) := modHost_sound hK fun h => h
    exact .ite hK (.ite (finish_sound _ _ _ _ (modHost_sound (modDev_sound _ h0) fun h => h)) (.foldl
      (modPwr_each_sound (modFab_sound _ (tearAll_sound (dropAll_sound (pauseAll_sound _ (resetRw_sound (modDev_sound _ h0))))))
        fun _ => ⟨rfl, rfl, rfl⟩) fun _ _ h => .ite h (fwpRestart_sound _ _ h)))

theorem execWarmResetForwardingResume_sound : NextSound s0 (execWarmResetForwardingResume s) := by
  refine onEvent_sound hK ?_
  split
  · exact hK
  · exact .ite hK (faultNotice_sound _ _ _ (pauseAll_sound _ (modFab_sound _ (modDev_sound _ hK))))

theorem execWarmResetDone_sound : NextSound s0 (execWarmResetDone s) := by
  refine onEvent_sound hK ?_
  split
  · exact hK
  · split
    · exact hK
    · exact .ite (finish_sound _ _ _ _ (modDev_sound _ hK)) (.ite hK (finish_sound _ _ _ _
          (almQueue_sound _ (releaseBuffers_sound (modDev_sound _ hK)))))

/-! ### Rows of Machine/Power -/

theorem execDomainPowerOnDone_sound (d : Nat) : NextSound s0 (execDomainPowerOnDone d s) := by
  refine onUnit_sound hK (.ite ?_ hK)
  extract_lets s1 s2
  have h1 : Sound s0 s1 := modPwr_each_sound hK fun _ => ⟨rfl, rfl, rfl⟩
  have h2 : Sound s0 s2 := .foldl h1 fun _ _ h => freePower_sound _ h
  exact .ite (modCxl_sound _ _ h2) (.ite (.foldl (.foldl h2 fun _ _ h => passFromNow_sound h _) fun _ _ h => sbServe_sound _ h) h2)

theorem execDomainPowerOffDone_sound (d : Nat) : NextSound s0 (execDomainPowerOffDone d s) :=
  .ite .refused (onEvent_sound hK (modPwr_sound hK ⟨rfl, rfl, rfl⟩))

theorem execDomainIdleExpiry_sound (d : Nat) : NextSound s0 (execDomainIdleExpiry d s) :=
  onUnit_sound hK (.ite (beginOff_sound _ hK) hK)

/-- The change that waits is the one that begins. -/
theorem execCoreClkChangeApply_sound : NextSound s0 (execCoreClkChangeApply s) := by
  refine onEvent_sound hK ?_
  split
  · exact hK
  · next m hm =>
    refine .ite hK (hK.mk' rfl rfl rfl (fun h => ?_) id)
    simp only [State.clockWf, hm, Option.all_some, Bool.and_eq_true] at h ⊢
    obtain ⟨⟨⟨⟨hc, hr⟩, -⟩, hl⟩, hu⟩ := h
    exact ⟨⟨⟨⟨hc, rfl⟩, hr⟩, hl⟩, hu⟩

/-- The change in progress is the frequency that is reached. -/
theorem execCoreClkStepDone_sound : NextSound s0 (execCoreClkStepDone s) := by
  refine onEvent_sound hK ?_
  split
  · exact hK
  · next m a hm =>
    refine .ite hK (hK.mk' rfl rfl rfl (fun h => ?_) id)
    simp only [State.clockWf, hm, Option.all_some, Bool.and_eq_true] at h ⊢
    obtain ⟨⟨⟨⟨-, hr⟩, hs⟩, hl⟩, hu⟩ := h
    exact ⟨⟨⟨⟨hs, hr⟩, rfl⟩, hl⟩, hu⟩

theorem execMulchTick_sound (v : SensorVals) : NextSound s0 (execMulchTick v s) := by
  refine onEvent_sound hK ?_
  extract_lets s1 k w p1 s2 s3
  have h2 : Sound s0 s2 := modPwr_each_sound (tickClk_sound _ (sense_sound _ hK)) fun _ => ⟨rfl, rfl, rfl⟩
  have h3 : Sound s0 s3 := noteLive_sound (judgeHold_sound h2)
  exact .ite (drawn_sound h3) h3

theorem execEnergyIntegration_sound (v : SensorVals) : NextSound s0 (execEnergyIntegration v s) :=
  onEvent_sound hK (modPwr_each_sound (sense_sound _ (rollWindow_sound hK)) fun _ => ⟨rfl, rfl, rfl⟩)

theorem execHeatReport_sound (c : Nat) : NextSound s0 (execHeatReport c s) :=
  runCmd_body_sound hK fun _ _ h => drawn_sound (finishData_sound _ _ _ (rollWindow_sound h))

theorem execPwrPolicy_sound (c : Nat) : NextSound s0 (execPwrPolicy c s) := by
  refine runCmd_body_sound hK fun k x h => .iteOf (fun _ => finish_sound _ _ _ _ h) fun hok => finish_sound _ _ _ _ (requestDomains_sound _
    (.foldl (h.mk' rfl rfl rfl (fun hw => ?_) id) fun _ _ h => beginOff_sound _ h))
  have hcfg : (BitVec.ofNat 64 (fieldAt k.params 0 8)).toNat = fieldAt k.params 0 8 :=
    (BitVec.toNat_ofNat ..).trans (Nat.mod_eq_of_lt (fieldAt_lt k.params 0 8))
  simp only [mulchOk, Bool.or_eq_true, Bool.not_eq_true', Bool.and_eq_false_iff, not_or, Bool.not_eq_false, decide_eq_true_eq] at hok
  obtain ⟨⟨⟨⟨⟨-, hlo⟩, hhi⟩, -⟩, -⟩, -⟩ := hok
  simp only [State.clockWf, Power.minStep, Power.cfg, modPwr_clk, modPwr_pwr, hcfg, Bool.and_eq_true, decide_eq_true_eq] at hw ⊢
  exact ⟨⟨hw.1.1, hlo⟩, hhi⟩

theorem execPwrFloor_sound (c : Nat) : NextSound s0 (execPwrFloor c s) :=
  runCmd_body_sound hK fun _ _ h => .ite (finish_sound _ _ _ _ h) (finish_sound _ _ _ _ (modPwr_each_sound h fun _ => ⟨rfl, rfl, rfl⟩))

theorem execEmergencySample_sound (v : SensorVals) : NextSound s0 (execEmergencySample v s) :=
  onEvent_sound hK (modPwr_each_sound (sense_sound _ hK) fun _ => ⟨rfl, rfl, rfl⟩)

theorem execEmergencyBegin_sound : NextSound s0 (execEmergencyBegin s) := by
  refine onEvent_sound hK ?_
  extract_lets m fresh s1 s2
  have h1 : Sound s0 s1 := modPwr_each_sound hK fun _ => ⟨rfl, rfl, rfl⟩
  have h2 : Sound s0 s2 := .ite (devEvent_sound _ _ _ (modDev_sound _ h1)) h1
  exact .ite (.ite (allOff_sound h2) (wedge_sound _ _ (allOff_sound h2))) h2

theorem execEmergencyClear_sound : NextSound s0 (execEmergencyClear s) :=
  onEvent_sound hK (modPwr_each_sound hK fun _ => ⟨rfl, rfl, rfl⟩)

theorem execLadderClimb_sound : NextSound s0 (execLadderClimb s) :=
  onEvent_sound hK (modPwr_each_sound hK fun _ => ⟨rfl, rfl, rfl⟩)

theorem execLadderDescend_sound : NextSound s0 (execLadderDescend s) := by
  refine onEvent_sound hK ?_
  extract_lets s1
  have h1 : Sound s0 s1 := modPwr_each_sound hK fun _ => ⟨rfl, rfl, rfl⟩
  have h2 : Sound s0 ((s1.modDev fun d => { d with emergency := false }).modPwr fun p => { p with setAToPe := true }) :=
    modPwr_each_sound (modDev_sound _ h1) fun _ => ⟨rfl, rfl, rfl⟩
  exact .ite (devEvent_sound _ _ _ (almQueue_sound _ h2)) h1

/-! ### Rows of Machine/Pins -/

theorem execInputPowerUp_sound (volts : List Nat) : NextSound s0 (execInputPowerUp volts s) :=
  onEvent_sound hK (modPwr_each_sound hK fun _ => ⟨rfl, rfl, rfl⟩)

theorem execVaonInRegulation_sound : NextSound s0 (execVaonInRegulation s) :=
  onEvent_sound hK (modPwr_sound (withClk_sound hK) ⟨rfl, rfl, rfl⟩)

theorem execPowerDown_sound : NextSound s0 (execPowerDown s) :=
  onEvent_sound hK (modPwr_each_sound (unpowered_sound _ hK) fun _ => ⟨rfl, rfl, rfl⟩)

theorem execColdResetRequest_sound : NextSound s0 (execColdResetRequest s) :=
  onEvent_sound hK (modPwr_each_sound (waitReady_sound _ (.ite (coldReset_sound hK) hK)) fun _ => ⟨rfl, rfl, rfl⟩)

theorem execColdResetRelease_sound (board : Nat) : NextSound s0 (execColdResetRelease board s) :=
  onEvent_sound hK (modDev_sound _ (withClk_sound (modPwr_sound hK ⟨rfl, rfl, rfl⟩)))

theorem execFabrefLoss_sound : NextSound s0 (execFabrefLoss s) :=
  onEvent_sound hK (modDev_sound _ (waitReady_sound _ (.ite (coldReset_sound hK) hK)))

theorem execPerstNAssert_sound : NextSound s0 (execPerstNAssert s) :=
  onEvent_sound hK (perst_sound hK)

theorem execPerstNDeassert_sound (width gen : Nat) : NextSound s0 (execPerstNDeassert width gen s) :=
  onEvent_sound hK (modDev_sound _ hK)

theorem execHostRefclkLoss_sound : NextSound s0 (execHostRefclkLoss s) :=
  onEvent_sound hK (modDev_sound _ hK)

theorem execCxlPerstRelease_sound (k : Nat) : NextSound s0 (execCxlPerstRelease k s) :=
  onUnit_sound hK (.ite (modCxl_sound _ _ hK) hK)

theorem execMgmtBlockRefresh_sound : NextSound s0 (execMgmtBlockRefresh s) :=
  onEvent_sound hK (drawn_sound (modDev_sound _ hK))

theorem execMgmtStatusRead_sound (cmd len : Nat) : NextSound s0 (execMgmtStatusRead cmd len s) :=
  onEvent_sound hK (modDev_sound _ (freeBytes_sound _ (drawn_sound (modDev_sound _ hK))))

theorem execI3cDynamicAddressAssign_sound (addr : Nat) : NextSound s0 (execI3cDynamicAddressAssign addr s) :=
  onEvent_sound hK (modDev_sound _ hK)

theorem execTapInstruction_sound (inst : TapInst) : NextSound s0 (execTapInstruction inst s) :=
  onEvent_sound hK (modDev_sound _ hK)

/-! ### Rows of Machine/Almanac -/

theorem execAlmanacRead_sound (c : Nat) : NextSound s0 (execAlmanacRead c s) :=
  runCmd_body_sound hK fun _ _ h => .ite (finish_sound _ _ _ _ h) (drawn_sound (finishData_sound _ _ _ h))

theorem execAlmanacRecordWrite_sound : NextSound s0 (execAlmanacRecordWrite s) := by
  refine onEvent_sound hK ?_
  split
  · exact hK
  · exact modAlm_sound _ hK

/-- Whatever is commanded, but a quorum command, leaves what no operation changes. -/
theorem exec_sound (c : Instr) (hq : quorumRow c = false) : NextSound s0 (exec c s) := by
  cases c with
  | devIdentify c => exact execDevIdentify_sound hK c
  | devStatus c => exact execDevStatus_sound hK c
  | devSetMode c => exact execDevSetMode_sound hK c
  | devWarmReset c => exact execDevWarmReset_sound hK c
  | warmResetT0 => exact execWarmResetT0_sound hK
  | warmResetForwardingResume => exact execWarmResetForwardingResume_sound hK
  | warmResetDone => exact execWarmResetDone_sound hK
  | devIsolate _ => cases hq
  | devRestore _ => cases hq
  | portIsolate _ => cases hq
  | portRestore _ => cases hq
  | isolationApply => exact execIsolationApply_sound hK
  | ctxCreate c => exact execCtxCreate_sound hK c
  | ctxLoad c img sizes phases => exact execCtxLoad_sound hK c img sizes phases
  | ctxStart c => exact execCtxStart_sound hK c
  | ctxStop c => exact execCtxStop_sound hK c
  | ctxStopTimeout x => exact execCtxStopTimeout_sound hK x
  | ctxTeardown c => exact execCtxTeardown_sound hK c
  | teardownEngineTimeout t e => exact execTeardownEngineTimeout_sound hK t e
  | teardownWritesAcked x => exact execTeardownWritesAcked_sound hK x
  | cxlWriteAckTimeout x k => exact execCxlWriteAckTimeout_sound hK x k
  | collBind c members nbrs ops => exact execCollBind_sound hK c members nbrs ops
  | collUnbind c => exact execCollUnbind_sound hK c
  | collPostContrib c data => exact execCollPostContrib_sound hK c data
  | collPostCounts c data => exact execCollPostCounts_sound hK c data
  | collPostResultRequest c => exact execCollPostResultRequest_sound hK c
  | postPacketArrival ecc => exact execPostPacketArrival_sound hK ecc
  | collQuery c => exact execCollQuery_sound hK c
  | collSubstitute c => exact execCollSubstitute_sound hK c
  | routeWrite c => exact execRouteWrite_sound hK c
  | routeRead c => exact execRouteRead_sound hK c
  | portConfig c => exact execPortConfig_sound hK c
  | portLoop c => exact execPortLoop_sound hK c
  | queueConfigSqCfg c => exact execQueueConfigSqCfg_sound hK c
  | queueConfigSqMap c => exact execQueueConfigSqMap_sound hK c
  | queueConfigPortWdrr c => exact execQueueConfigPortWdrr_sound hK c
  | queueConfigBufClass c => exact execQueueConfigBufClass_sound hK c
  | shaperConfig c => exact execShaperConfig_sound hK c
  | policerConfig c => exact execPolicerConfig_sound hK c
  | wredProfileProfile c => exact execWredProfileProfile_sound hK c
  | wredProfilePortVcRed c => exact execWredProfilePortVcRed_sound hK c
  | poolConfigCounts c => exact execPoolConfigCounts_sound hK c
  | poolConfigMinima c => exact execPoolConfigMinima_sound hK c
  | bufAlloc c => exact execBufAlloc_sound hK c
  | bufFree c => exact execBufFree_sound hK c
  | seedbankRequest t r => exact execSeedbankRequest_sound hK t r
  | seedbankRebuildDone l => exact execSeedbankRebuildDone_sound hK l
  | prefixConfig c => exact execPrefixConfig_sound hK c
  | telRead c => exact execTelRead_sound hK c
  | telWindow c => exact execTelWindow_sound hK c
  | almanacRead c => exact execAlmanacRead_sound hK c
  | fwVersion c => exact execFwVersion_sound hK c
  | fwStage c obj => exact execFwStage_sound hK c obj
  | fwActivate c => exact execFwActivate_sound hK c
  | attest c => exact execAttest_sound hK c
  | hssTreeBuilt => exact execHssTreeBuilt_sound hK
  | pwrPolicy c => exact execPwrPolicy_sound hK c
  | pwrFloor c => exact execPwrFloor_sound hK c
  | heatReport c => exact execHeatReport_sound hK c
  | diagSelftest c results => exact execDiagSelftest_sound hK c results
  | diagShadowRun c => exact execDiagShadowRun_sound hK c
  | shadowRepeatStart => exact execShadowRepeatStart_sound hK
  | shadowRunTimeout => exact execShadowRunTimeout_sound hK
  | diagScratchSample c => exact execDiagScratchSample_sound hK c
  | engineReset c => exact execEngineReset_sound hK c
  | cmdTailWrite off width v => exact execCmdTailWrite_sound hK off width v
  | cplHeadWrite off width v => exact execCplHeadWrite_sound hK off width v
  | ringEnable r v => exact execRingEnable_sound hK r v
  | ringDisable r v => exact execRingDisable_sound hK r v
  | descriptorFetch r desc params => exact execDescriptorFetch_sound hK r desc params
  | completionRecordWrite c => exact execCompletionRecordWrite_sound hK c
  | interruptCoalesceExpiry r => exact execInterruptCoalesceExpiry_sound hK r
  | deviceEventWrite r => exact execDeviceEventWrite_sound hK r
  | registerWrite off width v => exact execRegisterWrite_sound hK off width v
  | bar2BadAccess off width write => exact execBar2BadAccess_sound hK off width write
  | bar4Read off len ecc ce => exact execBar4Read_sound hK off len ecc ce
  | bar4Write off data ecc ce => exact execBar4Write_sound hK off data ecc ce
  | nop _ _ => exact issueRow_sound hK fun _ => retire_sound _ _ hK fun _ h => h
  | jmp _ _ => exact issueRow_sound hK fun _ => modT_sound hK fun _ h => h
  | beq _ _ => exact issueRow_sound hK fun _ => branch_sound _ _ _ _ hK
  | bne _ _ => exact issueRow_sound hK fun _ => branch_sound _ _ _ _ hK
  | blt _ _ => exact issueRow_sound hK fun _ => branch_sound _ _ _ _ hK
  | bge _ _ => exact issueRow_sound hK fun _ => branch_sound _ _ _ _ hK
  | bltu _ _ => exact issueRow_sound hK fun _ => branch_sound _ _ _ _ hK
  | bgeu _ _ => exact issueRow_sound hK fun _ => branch_sound _ _ _ _ hK
  | call _ _ => exact issueRow_sound hK fun _ => modT_sound hK fun _ h => h
  | ret _ _ => exact issueRow_sound hK fun _ => modT_sound hK fun _ h => h
  | stepEnd _ _ => exact issueRow_sound hK fun _ => holdStream_sound _ _ _ hK
  | stepEndRetire t e => exact execStepEndRetire_sound hK t e
  | halt _ _ => exact issueRow_sound hK fun _ => holdStream_sound _ _ _ hK
  | haltRetire t e => exact execHaltRetire_sound hK t e
  | fence _ _ => exact issueRow_sound hK fun _ => holdStream_sound _ _ _ hK
  | fenceRetire t e => exact execFenceRetire_sound hK t e
  | add _ _ => exact issueRow_sound hK fun _ => alu_sound _ _ _ _ hK
  | sub _ _ => exact issueRow_sound hK fun _ => alu_sound _ _ _ _ hK
  | and _ _ => exact issueRow_sound hK fun _ => alu_sound _ _ _ _ hK
  | or _ _ => exact issueRow_sound hK fun _ => alu_sound _ _ _ _ hK
  | xor _ _ => exact issueRow_sound hK fun _ => alu_sound _ _ _ _ hK
  | shl _ _ => exact issueRow_sound hK fun _ => alu_sound _ _ _ _ hK
  | shr _ _ => exact issueRow_sound hK fun _ => alu_sound _ _ _ _ hK
  | sra _ _ => exact issueRow_sound hK fun _ => alu_sound _ _ _ _ hK
  | slt _ _ => exact issueRow_sound hK fun _ => alu_sound _ _ _ _ hK
  | sltu _ _ => exact issueRow_sound hK fun _ => alu_sound _ _ _ _ hK
  | mul _ _ => exact issueRow_sound hK fun _ => aluLate_sound _ _ _ _ hK
  | mulhu _ _ => exact issueRow_sound hK fun _ => aluLate_sound _ _ _ _ hK
  | div _ _ => exact issueRow_sound hK fun _ => aluLate_sound _ _ _ _ hK
  | divu _ _ => exact issueRow_sound hK fun _ => aluLate_sound _ _ _ _ hK
  | rem _ _ => exact issueRow_sound hK fun _ => aluLate_sound _ _ _ _ hK
  | remu _ _ => exact issueRow_sound hK fun _ => aluLate_sound _ _ _ _ hK
  | li _ _ => exact issueRow_sound hK fun _ => retire_sound _ _ hK fun _ h => Tiller.setReg_memWf _ _ h
  | lui _ _ => exact issueRow_sound hK fun _ => retire_sound _ _ hK fun _ h => Tiller.setReg_memWf _ _ h
  | ldB _ _ => exact issueRow_sound hK fun _ => loadD_sound _ _ _ _ hK
  | ldH _ _ => exact issueRow_sound hK fun _ => loadD_sound _ _ _ _ hK
  | ldW _ _ => exact issueRow_sound hK fun _ => loadD_sound _ _ _ _ hK
  | stB _ _ => exact issueRow_sound hK fun _ => storeD_sound _ _ _ _ hK
  | stH _ _ => exact issueRow_sound hK fun _ => storeD_sound _ _ _ _ hK
  | stW _ _ => exact issueRow_sound hK fun _ => storeD_sound _ _ _ _ hK
  | spld _ _ => exact issueRow_sound hK fun _ => launch_sound _ _ _ _ _ hK
  | spst _ _ => exact issueRow_sound hK fun _ => launch_sound _ _ _ _ _ hK
  | rdcyc _ _ => exact issueRow_sound hK fun _ => retire_sound _ _ hK fun _ h => Tiller.setReg_memWf _ _ h
  | rdtime _ _ => exact issueRow_sound hK fun _ => launch_sound _ _ _ _ _ hK
  | rdtile _ _ => exact issueRow_sound hK fun _ => retire_sound _ _ hK fun _ h => Tiller.setReg_memWf _ _ h
  | seed _ _ => exact issueRow_sound hK fun _ => retire_sound _ _ hK fun _ h => h
  | mm _ _ => exact issueRow_sound hK fun _ => engine_sound _ _ _ _ hK
  | mmBs _ _ => exact issueRow_sound hK fun _ => issueSparse_sound _ _ _ hK
  | mmGs _ _ => exact issueRow_sound hK fun _ => issueSparse_sound _ _ _ hK
  | mmBgs _ _ => exact issueRow_sound hK fun _ => issueSparse_sound _ _ _ hK
  | sparseBandFault t => exact execSparseBandFault_sound hK t
  | sparseMmComplete t ecc => exact execSparseMmComplete_sound hK t ecc
  | trMap t e => exact execTrMap_sound hK t e
  | trRed _ _ => exact issueRow_sound hK fun _ => engine_sound _ _ _ _ hK
  | trCvt _ _ => exact issueRow_sound hK fun _ => engine_sound _ _ _ _ hK
  | trLdprog _ _ => exact issueRow_sound hK fun _ => engine_sound _ _ _ _ hK
  | trLdprogCheck t ecc => exact execTrLdprogCheck_sound hK t ecc
  | shPrune _ _ => exact issueRow_sound hK fun _ => issueShears_sound _ _ _ hK
  | shTmask _ _ => exact issueRow_sound hK fun _ => issueShears_sound _ _ _ hK
  | engineResultComplete t k ecc => exact execEngineResultComplete_sound hK t k ecc
  | astreamRowFetch t e => exact execAstreamRowFetch_sound hK t e
  | mvCopy _ _ => exact issueRow_sound hK fun _ => engine_sound _ _ _ _ hK
  | mvMesh _ _ => exact issueRow_sound hK fun _ => recordOut_sound _ _ (engine_sound _ _ _ _ hK)
  | meshSlotStart t k ecc => exact execMeshSlotStart_sound hK t k ecc
  | meshArrival t k => exact execMeshArrival_sound hK t k
  | meshTransferComplete t k => exact execMeshTransferComplete_sound hK t k
  | mvMrecv _ _ => exact issueRow_sound hK fun _ => engine_sound _ _ _ _ hK
  | mvGet _ _ => exact issueRow_sound hK fun _ => engine_sound _ _ _ _ hK
  | mvGetComplete t k ecc ce => exact execMvGetComplete_sound hK t k ecc ce
  | mvPut _ _ => exact issueRow_sound hK fun _ => recordOut_sound _ _ (engine_sound _ _ _ _ hK)
  | mvPutComplete t k ecc => exact execMvPutComplete_sound hK t k ecc
  | mvSend _ _ => exact issueRow_sound hK fun _ => recordOut_sound _ _ (modT_sound (engine_sound _ _ _ _ hK) fun _ h => h)
  | mvSendAdmit t ecc => exact execMvSendAdmit_sound hK t ecc
  | mvSendComplete t => exact execMvSendComplete_sound hK t
  | mvRecv _ _ => exact issueRow_sound hK fun _ => engine_sound _ _ _ _ hK
  | receiveQueueArrival t ecc => exact execReceiveQueueArrival_sound hK t ecc
  | mvRecvComplete t => exact execMvRecvComplete_sound hK t
  | cvInit _ _ => exact issueRow_sound hK fun _ => cvu_sound _ _ _ _ hK
  | cvWb _ _ => exact issueRow_sound hK fun _ => cvFeedReg_sound _ _ _ _ hK
  | cvWh _ _ => exact issueRow_sound hK fun _ => cvFeedReg_sound _ _ _ _ hK
  | cvWw _ _ => exact issueRow_sound hK fun _ => cvFeedReg_sound _ _ _ _ hK
  | cvRead t e => exact execCvRead_sound hK t e
  | cvSave t e => exact execCvSave_sound hK t e
  | cvRestore t e ecc => exact execCvRestore_sound hK t e ecc
  | cvFeed _ _ => exact issueRow_sound hK fun _ => cvu_sound _ _ _ _ hK
  | signal t e => exact execSignal_sound hK t e
  | wait t e => exact execWait_sound hK t e
  | waitRetire t e => exact execWaitRetire_sound hK t e
  | aspush t e => exact execAspush_sound hK t e
  | coreClkChangeApply => exact execCoreClkChangeApply_sound hK
  | coreClkStepDone => exact execCoreClkStepDone_sound hK
  | tillerWatchdogFire t e => exact execTillerWatchdogFire_sound hK t e
  | sampleComplete t => exact execSampleComplete_sound hK t
  | engineResetDone t => exact execEngineResetDone_sound hK t
  | engineResetOverrun t => exact execEngineResetOverrun_sound hK t
  | tillerResetDone t eccBad => exact execTillerResetDone_sound hK t eccBad
  | tillerResetOverrun t => exact execTillerResetOverrun_sound hK t
  | tillerRestart t => exact execTillerRestart_sound hK t
  | linkWatchdogFire p => exact execLinkWatchdogFire_sound hK p
  | linkEngineResetDone p => exact execLinkEngineResetDone_sound hK p
  | linkEngineResetOverrun p => exact execLinkEngineResetOverrun_sound hK p
  | portGroupResetDone g => exact execPortGroupResetDone_sound hK g
  | portGroupResetOverrun g => exact execPortGroupResetOverrun_sound hK g
  | flitSlotTransmit p => exact execFlitSlotTransmit_sound hK p
  | dataFlitReceive p flit => exact execDataFlitReceive_sound hK p flit
  | controlFlitReceive p flit => exact execControlFlitReceive_sound hK p flit
  | discoveryFlitReceive p flit => exact execDiscoveryFlitReceive_sound hK p flit
  | trainingBlockReceive p lane block => exact execTrainingBlockReceive_sound hK p lane block
  | laneBlockLock p lane => exact execLaneBlockLock_sound hK p lane
  | enterDiscovery p => exact execEnterDiscovery_sound hK p
  | enterActive p => exact execEnterActive_sound hK p
  | replayTimerExpiry p => exact execReplayTimerExpiry_sound hK p
  | retryExhausted p => exact execRetryExhausted_sound hK p
  | controlTimeout p => exact execControlTimeout_sound hK p
  | pauseExpiry p => exact execPauseExpiry_sound hK p
  | pauseTimeout p => exact execPauseTimeout_sound hK p
  | trainingTimeout p => exact execTrainingTimeout_sound hK p
  | retrainTimer p => exact execRetrainTimer_sound hK p
  | laneLossOfSignal p lane => exact execLaneLossOfSignal_sound hK p lane
  | sparingWindowEnd p errs => exact execSparingWindowEnd_sound hK p errs
  | laserFeedLow o f => exact execLaserFeedLow_sound hK o f
  | laserFeedRecovered o f => exact execLaserFeedRecovered_sound hK o f
  | oeCalibrationCycle o overrun power => exact execOeCalibrationCycle_sound hK o overrun power
  | hostPacketAdmit => exact execHostPacketAdmit_sound hK
  | forwardingDecision fs => exact execForwardingDecision_sound hK fs
  | schedulerSelect p => exact execSchedulerSelect_sound hK p
  | packetTransmitComplete p ecc => exact execPacketTransmitComplete_sound hK p ecc
  | mgmtRequest => exact execMgmtRequest_sound hK
  | noticeReceive => exact execNoticeReceive_sound hK
  | noticeQueueSend => exact execNoticeQueueSend_sound hK
  | contribReceive t => exact execContribReceive_sound hK t
  | partialReceive t => exact execPartialReceive_sound hK t
  | resultReceive t => exact execResultReceive_sound hK t
  | countReceive t => exact execCountReceive_sound hK t
  | stepAbortReceive t => exact execStepAbortReceive_sound hK t
  | stepReplayReceive t => exact execStepReplayReceive_sound hK t
  | resultRequestReceive t => exact execResultRequestReceive_sound hK t
  | stepCommit l => exact execStepCommit_sound hK l
  | stepTimeout l n => exact execStepTimeout_sound hK l n
  | put t => exact execPut_sound hK t
  | putCommit k => exact execPutCommit_sound hK k
  | putTimeout k => exact execPutTimeout_sound hK k
  | get t ce => exact execGet_sound hK t ce
  | prefixPromote b => exact execPrefixPromote_sound hK b
  | prefixDemoteDone b => exact execPrefixDemoteDone_sound hK b
  | delete t => exact execDelete_sound hK t
  | probe t => exact execProbe_sound hK t
  | cxlPortDown k => exact execCxlPortDown_sound hK k
  | cxlPortUp k cap => exact execCxlPortUp_sound hK k cap
  | scrubSlot m ecc => exact execScrubSlot_sound hK m ecc
  | gleanerPassStart => exact execGleanerPassStart_sound hK
  | gleanerPassEnd => exact execGleanerPassEnd_sound hK
  | telemetryWindowBoundary => exact execTelemetryWindowBoundary_sound hK
  | almanacRecordWrite => exact execAlmanacRecordWrite_sound hK
  | mulchTick v => exact execMulchTick_sound hK v
  | energyIntegration v => exact execEnergyIntegration_sound hK v
  | emergencySample v => exact execEmergencySample_sound hK v
  | emergencyBegin => exact execEmergencyBegin_sound hK
  | emergencyClear => exact execEmergencyClear_sound hK
  | ladderClimb => exact execLadderClimb_sound hK
  | ladderDescend => exact execLadderDescend_sound hK
  | domainIdleExpiry d => exact execDomainIdleExpiry_sound hK d
  | domainPowerOnDone d => exact execDomainPowerOnDone_sound hK d
  | domainPowerOffDone d => exact execDomainPowerOffDone_sound hK d
  | inputPowerUp volts => exact execInputPowerUp_sound hK volts
  | vaonInRegulation => exact execVaonInRegulation_sound hK
  | powerDown => exact execPowerDown_sound hK
  | coldResetRequest => exact execColdResetRequest_sound hK
  | coldResetRelease board => exact execColdResetRelease_sound hK board
  | fabrefLoss => exact execFabrefLoss_sound hK
  | perstNAssert => exact execPerstNAssert_sound hK
  | perstNDeassert width gen => exact execPerstNDeassert_sound hK width gen
  | hostRefclkLoss => exact execHostRefclkLoss_sound hK
  | cxlPerstRelease k => exact execCxlPerstRelease_sound hK k
  | bootImageVerified => exact execBootImageVerified_sound hK
  | deviceReady => exact execDeviceReady_sound hK
  | fwpWatchdogExpiry q => exact execFwpWatchdogExpiry_sound hK q
  | fwpTrap q => exact execFwpTrap_sound hK q
  | fwpMemoryUe q w => exact execFwpMemoryUe_sound hK q w
  | fwpRestartDone q => exact execFwpRestartDone_sound hK q
  | mgmtStatusRead cmd len => exact execMgmtStatusRead_sound hK cmd len
  | mgmtBlockRefresh => exact execMgmtBlockRefresh_sound hK
  | tapInstruction inst => exact execTapInstruction_sound hK inst
  | loopLaneAligned p lane => exact execLoopLaneAligned_sound hK p lane
  | loopLaneAlignmentLost p lane => exact execLoopLaneAlignmentLost_sound hK p lane
  | i3cDynamicAddressAssign addr => exact execI3cDynamicAddressAssign_sound hK addr
  | postStepReplay c data => exact execPostStepReplay_sound hK c data

end
end Sys2Proof.Machine

end

section

/-! The identity of the part (00 R3): what a quorum command keeps, every step, and the registers of the identity block. -/

namespace Sys2Proof.Machine

/-! ### What a quorum command keeps -/

/-- What every command keeps, a quorum command among them: the queue behind it, the identity of the part, an operating point and canonical memories. -/
def KeptByAll (s0 s : State) : Prop :=
  s.pending = s0.pending ∧ s.part.identity = s0.part.identity ∧ (s0.clockWf = true → s.clockWf = true) ∧ (s0.memWf → s.memWf)

theorem Sound.keptByAll {s0 s : State} (h : Sound s0 s) : KeptByAll s0 s := by
  obtain ⟨hp, hi, -, hc, hm⟩ := h
  exact ⟨hp, hi, hc, hm⟩

theorem KeptByAll.trans {s0 s s' : State} (h : KeptByAll s0 s) (h' : KeptByAll s s') : KeptByAll s0 s' := by
  obtain ⟨hp, hi, hc, hm⟩ := h
  obtain ⟨hp', hi', hc', hm'⟩ := h'
  exact ⟨hp'.trans hp, hi'.trans hi, hc' ∘ hc, hm' ∘ hm⟩

/-- What a command's row can leave: the state as it was, what its body makes of it, or an answer of RETRY. -/
theorem runCmd_cases {op c : Nat} {s r : State} {body : Cmd → State → State} (h : runCmd op c s body = .next r) :
    r = s ∨ (∃ k, r = body k (s.take c)) ∨ r = s.finish c stRetry := by
  unfold runCmd at h
  repeat' split at h
  all_goals cases h
  · exact .inl rfl
  · exact .inr (.inl ⟨_, rfl⟩)
  · exact .inr (.inr rfl)
  · exact .inl rfl

theorem runSub_cases {op c : Nat} {mine : Cmd → Bool} {s r : State} {body : Cmd → State → State} (h : runSub op c mine s body = .next r) :
    r = s ∨ (∃ k, r = body k (s.take c)) ∨ r = s.finish c stRetry := by
  unfold runSub at h
  split at h
  · cases h; exact .inl rfl
  · split at h
    · exact runCmd_cases h
    · cases h; exact .inl rfl

/-- A quorum command changes the isolation store, and by it nothing that every command keeps. -/
theorem State.quorumCmd_keptByAll (s : State) (op : Nat) (k : Cmd) : KeptByAll s (s.quorumCmd op k) := by
  unfold State.quorumCmd
  extract_lets st s1
  have hs1 : KeptByAll s s1 := (State.applyPending_sound (.refl s)).keptByAll.trans ⟨rfl, rfl, id, id⟩
  split
  · exact (State.finish_sound _ _ _ _ (.refl s)).keptByAll
  · split
    · exact hs1.trans (State.finish_sound _ _ _ _ (State.modDev_sound _ (.refl s1))).keptByAll
    · exact hs1.trans (State.finish_sound _ _ _ _ (State.applyIsolation_sound _ (.refl s1))).keptByAll

theorem exec_of_quorumRow {i : Instr} (hq : quorumRow i = true) (s : State) :
    ∃ op c mine, exec i s = runSub op c mine s fun k s => s.quorumCmd op k := by
  unfold quorumRow at hq
  split at hq
  · exact ⟨_, _, _, rfl⟩
  · exact ⟨_, _, _, rfl⟩
  · exact ⟨_, _, _, rfl⟩
  · exact ⟨_, _, _, rfl⟩
  · cases hq

theorem runSub_quorumCmd_keptByAll {op c : Nat} {mine : Cmd → Bool} {s r : State}
    (h : runSub op c mine s (fun k s => s.quorumCmd op k) = .next r) : KeptByAll s r := by
  obtain rfl | ⟨k, rfl⟩ | rfl := runSub_cases h
  · exact (Sound.refl r).keptByAll
  · exact (State.take_sound c (.refl s)).keptByAll.trans (State.quorumCmd_keptByAll _ op k)
  · exact (State.finish_sound _ _ _ _ (.refl s)).keptByAll

/-! ### Every command and every step -/

theorem exec_keptByAll {i : Instr} {s s' : State} (h : exec i s = .next s') : KeptByAll s s' := by
  cases hq : quorumRow i with
  | false => exact (exec_sound (.refl s) i hq s' h).keptByAll
  | true =>
    obtain ⟨op, c, mine, he⟩ := exec_of_quorumRow hq s
    exact runSub_quorumCmd_keptByAll (he ▸ h)

/-- With no command that waits, a step is a tick of the time base. -/
theorem step_of_no_pending {s s' : State} (hp : s.pending = []) (h : step s = .next s') : s' = s.tick := by
  unfold step at h
  rw [hp] at h
  dsimp only at h
  split at h <;> cases h
  rfl

theorem step_of_pending {s s' : State} {c : Instr} {rest : List Instr} (hp : s.pending = c :: rest) (h : step s = .next s') :
    exec c { s with pending := rest } = .next s' := by
  unfold step at h
  rwa [hp] at h

theorem step_keeps_identity {s s' : State} (h : step s = .next s') : s'.part.identity = s.part.identity := by
  cases hp : s.pending with
  | nil =>
    obtain ⟨-, hi, -⟩ := State.tick_sound (.refl s)
    exact step_of_no_pending hp h ▸ hi
  | cons c rest =>
    obtain ⟨-, hi, -⟩ := exec_keptByAll (step_of_pending hp h)
    exact hi

/-! ### The registers of the identity block (10 R284) -/

theorem State.regWord_serial (s : State) {i : Nat} (hi : i < 3) : s.regWord (0x10 + 4 * i) = fieldAt s.part.serial (4 * i) 4 := by
  unfold State.regWord State.identityWord
  rw [if_pos (by omega), if_neg (by omega), if_neg (by omega), if_pos (by simp; omega), Nat.add_sub_cancel_left]

theorem State.regWord_fuse (s : State) {i : Nat} (hi : i < 6) : s.regWord (0x20 + 4 * i) = wordOf s.part.fuse.toNat i := by
  unfold State.regWord State.identityWord
  rw [if_pos (by omega), if_neg (by omega), if_neg (by omega), if_neg (by simp; omega), if_pos (by simp; omega), Nat.add_sub_cancel_left,
    Nat.mul_div_cancel_left i (by decide)]

/-- Settles O5: no row, no quorum command and no tick of the time base writes the part's identity. -/
theorem partIdentityIsReadAndNeverChanges : Obligations.PartIdentityIsReadAndNeverChanges := by
  unfold Obligations.PartIdentityIsReadAndNeverChanges
  refine ⟨fun s c k h ht => ?_, fun s => ⟨rfl, fun i hi => s.regWord_serial hi, fun i hi => s.regWord_fuse hi⟩, fun s s' => step_keeps_identity⟩
  show ∃ s', execDevIdentify c s = .next s' ∧ _
  rw [execDevIdentify, runCmd_next h]
  exact ⟨_, rfl, State.finishData_reported h [s.devId] (by rwa [padTo_length])⟩

end Sys2Proof.Machine

end

section

/-! The route table and the ports (06 R181; 07 R217, R218; 09 R275): how each row completes. -/

namespace Sys2Proof.Machine

/-! ### The route table (06 R181) -/

/-- The route table with n entries of a record written, from an entry on. -/
def routesWritten (first : Nat) (params : List Byte) (n : Nat) (m : SMap (List Byte)) : SMap (List Byte) :=
  (List.range n).foldl (fun m i => SMap.set nilAt (first + i) (routeEntry (slice params (4 + 16 * i) 16)) m) m

theorem routesWritten_succ (first : Nat) (params : List Byte) (n : Nat) (m : SMap (List Byte)) :
    routesWritten first params (n + 1) m =
      SMap.set nilAt (first + n) (routeEntry (slice params (4 + 16 * n) 16)) (routesWritten first params n m) := by
  simp [routesWritten, List.range_succ]

theorem get_routesWritten (first : Nat) (params : List Byte) (n : Nat) (m : SMap (List Byte)) (e : Nat) :
    SMap.get nilAt (routesWritten first params n m) e =
      if first ≤ e ∧ e < first + n then routeEntry (slice params (4 + 16 * (e - first)) 16) else SMap.get nilAt m e := by
  induction n with
  | zero => rw [if_neg (by omega)]; rfl
  | succ n ih =>
    rw [routesWritten_succ, SMap.get_set, ih]
    by_cases he : e = first + n
    · rw [if_pos he, if_pos (by omega), he, Nat.add_sub_cancel_left]
    · rw [if_neg he]
      by_cases hin : first ≤ e ∧ e < first + n
      · rw [if_pos hin, if_pos (by omega)]
      · rw [if_neg hin, if_neg (by omega)]

/-- The writes of ROUTE_WRITE, one entry after the other, are one write of the route table. -/
theorem foldl_routes (s : State) (first : Nat) (params : List Byte) (n : Nat) :
    (List.range n).foldl (fun s i => s.modFab fun b =>
        { b with routes := SMap.set nilAt (first + i) (routeEntry (slice params (4 + 16 * i) 16)) b.routes }) s =
      s.modFab fun b => { b with routes := routesWritten first params n s.fab.routes } := by
  induction n with
  | zero => rfl
  | succ n ih => rw [List.range_succ, List.foldl_append, ih, routesWritten_succ]; rfl

/-- A hop byte with bit 7 set makes the record bad. -/
theorem routeBad_iff {n : Nat} {params : List Byte} :
    routeBad n params = true ↔ ∃ i < n, ∃ b ∈ slice params (5 + 16 * i) 15, b.getLsbD 7 = true := by
  have ho (i : Nat) : 4 + 16 * i + 1 = 5 + 16 * i := by omega
  simp only [routeBad, List.any_eq_true, List.mem_range, ho]

theorem flatten_padTo_length (l : List Nat) (n : Nat) (f : Nat → List Byte) : (l.map fun i => padTo n (f i)).flatten.length = n * l.length := by
  induction l with
  | nil => rfl
  | cons a t ih => rw [List.map_cons, List.flatten_cons, List.length_append, padTo_length, ih, List.length_cons, Nat.mul_succ, Nat.add_comm]

section
variable {s : State} {c : Nat} {k : Cmd}

theorem routeWrite_badParam (h : s.carries 0x0401 c k) (hb : routeBad (fieldAt k.params 1 1) k.params = true) :
    exec (.routeWrite c) s = .next ((s.take c).finish c stBadParam) := by
  show execRouteWrite c s = _
  rw [execRouteWrite, runCmd_next h]
  simp [hb]

theorem routeWrite_ok (h : s.carries 0x0401 c k) (hn : fieldAt k.params 1 1 ≠ 0) (hl : k.params.length = 4 + 16 * fieldAt k.params 1 1)
    (hz : fieldAt k.params 2 2 = 0) (hr : fieldAt k.params 0 1 + fieldAt k.params 1 1 ≤ 256)
    (hb : routeBad (fieldAt k.params 1 1) k.params = false) :
    exec (.routeWrite c) s = .next (((s.take c).modFab fun b =>
      { b with routes := routesWritten (fieldAt k.params 0 1) k.params (fieldAt k.params 1 1) s.fab.routes }).finish c stOk) := by
  show execRouteWrite c s = _
  rw [execRouteWrite, runCmd_next h]
  dsimp only
  rw [if_neg (by simp [hn, hl, hz, hb]; omega), foldl_routes]
  rfl

theorem routeRead_ok (h : s.carries 0x0402 c k) (hn : fieldAt k.params 13 1 ≠ 0) (hz : fieldAt k.params 14 2 = 0)
    (hr : fieldAt k.params 12 1 + fieldAt k.params 13 1 ≤ 256) (ht : k.takes (16 * fieldAt k.params 13 1)) :
    exec (.routeRead c) s = .next (s.reported k []
      ((List.range (fieldAt k.params 13 1)).map fun i => padTo 16 (SMap.get nilAt s.fab.routes (fieldAt k.params 12 1 + i))).flatten) := by
  show execRouteRead c s = _
  rw [execRouteRead, runCmd_next h]
  dsimp only
  rw [if_neg (by simp [hn, hz]; omega), State.finishData_reported h]
  · rfl
  · rwa [flatten_padTo_length, List.length_range]

/-! ### PORT_CONFIG (07 R217, R218) -/

theorem portConfig_badParam (h : s.carries 0x0403 c k) (hb : (s.take c).portCfgBad k.params = true) :
    exec (.portConfig c) s = .next ((s.take c).finish c stBadParam) := by
  show execPortConfig c s = _
  rw [execPortConfig, runCmd_next h]
  rw [if_pos hb]

/-- A record in range is admitted or not for its port. -/
theorem portConfig_admitTo (h : s.carries 0x0403 c k) (hb : (s.take c).portCfgBad k.params = false) :
    exec (.portConfig c) s = .next ((s.take c).admitTo ((s.take c).writePort k.params) c [fieldAt k.params 0 1] []) := by
  show execPortConfig c s = _
  rw [execPortConfig, runCmd_next h]
  rw [if_neg (by simp [hb])]

theorem State.admitTo_of_not_reservationsOk {s s' : State} {c p : Nat} {words : List Nat} (hr : s'.reservationsOk p = false) :
    s.admitTo s' c [p] words = s.finish c stBadParam := by
  simp [State.admitTo, hr]

theorem State.admitTo_of_not_admissionOk {s s' : State} {c p : Nat} {words : List Nat} (hr : s'.reservationsOk p = true)
    (ha : s'.admissionOk p = false) : s.admitTo s' c [p] words = s.finish c stNoFit := by
  simp [State.admitTo, hr, ha]

theorem State.admitTo_of_ok {s s' : State} {c p : Nat} {words : List Nat} (hr : s'.reservationsOk p = true) (ha : s'.admissionOk p = true) :
    s.admitTo s' c [p] words = s'.configured.finish c stOk words := by
  simp [State.admitTo, hr, ha]

/-! ### PORT_LOOP (09 R275, R276) -/

/-- PORT_LOOP refuses a record for a port. -/
def State.loopBad (s : State) (q : List Byte) : Prop :=
  36 ≤ fieldAt q 0 1 ∨ loopPattern (fieldAt q 1 1) (fieldAt q 2 1) = false ∨ fieldAt q 3 1 ≠ 0 ∨
    (s.port (fieldAt q 0 1)).link.state = .isolated ∨ (s.port (fieldAt q 0 1)).link.heldPower = true

theorem portLoop_badParam (h : s.carries 0x0405 c k) (hb : s.loopBad k.params) :
    exec (.portLoop c) s = .next ((s.take c).finish c stBadParam) := by
  show execPortLoop c s = _
  rw [execPortLoop, runCmd_next h]
  dsimp only
  rw [if_pos]
  simp only [Bool.or_eq_true, decide_eq_true_eq, Bool.not_eq_true', or_assoc]
  exact hb

theorem portLoop_next (h : s.carries 0x0405 c k) (hb : ¬ s.loopBad k.params) :
    exec (.portLoop c) s = .next (
      if fieldAt k.params 1 1 = 0 then
        (if (s.port (fieldAt k.params 0 1)).link.state = .loop then (s.take c).rejoin (fieldAt k.params 0 1) else s.take c).finish c stOk
      else ((s.take c).enterLoop (fieldAt k.params 0 1) (fieldAt k.params 1 1) (fieldAt k.params 2 1)).finish c stOk) := by
  show execPortLoop c s = _
  rw [execPortLoop, runCmd_next h]
  dsimp only
  rw [if_neg]
  · rfl
  · simp only [Bool.or_eq_true, decide_eq_true_eq, Bool.not_eq_true', or_assoc]
    exact hb

end

/-! ### The obligation -/

/-- Settles O19: each row completes as its own conditions say, and the writes of ROUTE_WRITE are one write of the table. -/
theorem routesAndPortsAreConfigured : Obligations.RoutesAndPortsAreConfigured := by
  unfold Obligations.RoutesAndPortsAreConfigured
  refine ⟨⟨fun s c k h hn hl hz hr => ⟨fun hb => routeWrite_badParam h (routeBad_iff.2 hb), fun hb => ?_⟩,
    fun s c k h hn hz hr ht => routeRead_ok h hn hz hr ht⟩, ?_, ?_⟩
  · exact ⟨_, routeWrite_ok h hn hl hz hr hb, fun e => get_routesWritten _ _ _ _ e⟩
  · rintro s c _ k _ h rfl rfl
    refine ⟨portConfig_badParam h, fun hb => ?_⟩
    rw [portConfig_admitTo h hb]
    exact ⟨fun hr => by rw [State.admitTo_of_not_reservationsOk hr], fun hr ha => by rw [State.admitTo_of_not_admissionOk hr ha],
      fun hr ha => by rw [State.admitTo_of_ok hr ha]⟩
  · rintro s c _ _ _ k h rfl rfl rfl
    refine ⟨portLoop_badParam h, fun hp hm hz hi hw => ?_⟩
    have hb : ¬ s.loopBad k.params := by simp [State.loopBad, hp, hm, hz, hi, hw]
    rw [portLoop_next h hb]
    exact ⟨fun h0 => by rw [if_neg h0], fun h0 hl => by rw [if_pos h0, if_pos hl], fun h0 hl => by rw [if_pos h0, if_neg hl]⟩

end Sys2Proof.Machine

end

section

/-! The issue of an engine instruction (03 R82 to R89; 02 R53): the entry that joins the checker, and what each row issues or faults with. -/

namespace Sys2Proof.Machine

/-! ### The launch of an instruction that holds a claim -/

/-- Occupying an engine changes nothing else of the Tiller. -/
theorem Tiller.occupy_eq (T : Tiller) (core : Nat) (i : Shoze) : T.occupy core i = { T with busy := (T.occupy core i).busy } := by
  unfold Tiller.occupy
  dsimp only
  split <;> rfl

/-- The Mover's external and mesh queues take an instruction without being occupied (03 R83). -/
theorem Tiller.get_occupy_busy (T : Tiller) (core : Nat) (i : Shoze) :
    SMap.get zeroAt (T.occupy core i).busy (engineOf i.mn) =
      if isAsync i.mn && engineOf i.mn = 4 then SMap.get zeroAt T.busy (engineOf i.mn) else core + (T.timing core i).1 := by
  unfold Tiller.occupy
  dsimp only
  split
  · rfl
  · simp

theorem Tiller.needsEntry_of_ds_ne_nil {T : Tiller} {core : Nat} {i : Shoze} (h : i.ds ≠ []) : T.needsEntry core i = true := by
  simp [Tiller.needsEntry, h]

/-- The Tiller of an instruction that is launched. -/
theorem State.launch_tl (s : State) (t e : Nat) (i : Shoze) (vals : List Word) (upd : Entry → Entry) :
    (s.launch t e i vals upd).tl t =
      ({ s.tl t with
          busy := ((s.tl t).occupy s.clk.core i).busy,
          checker := if (s.tl t).needsEntry s.clk.core i then
            (s.tl t).checker ++ [upd ((s.tl t).entryOf s.clk.core ((s.tl t).stream e).pc i vals)] else (s.tl t).checker,
          engProg := (s.tl t).progAtIssue (engineOf i.mn) s.clk.core s.t3 } : Tiller).goto e s.clk.core s.t3
        (((s.tl t).stream e).pc + 1) 1 := by
  rw [State.launch, State.modT_tl', if_pos rfl, Tiller.occupy_eq]
  rfl

/-- An instruction that holds a claim has joined the checker, and occupies its engine unless it is queued at the Mover (03 R82, R83, R89). -/
theorem launch_launched_of_needsEntry (s : State) (t e : Nat) (i : Shoze) (vals : List Word) (upd : Entry → Entry)
    (hn : (s.tl t).needsEntry s.clk.core i = true) :
    launched t e (engineOf i.mn)
      (if isAsync i.mn && engineOf i.mn = 4 then SMap.get zeroAt (s.tl t).busy (engineOf i.mn)
        else s.clk.core + ((s.tl t).timing s.clk.core i).1)
      [upd ((s.tl t).entryOf s.clk.core ((s.tl t).stream e).pc i vals)] s (s.launch t e i vals upd) := by
  refine ⟨onlyTiller_modT _ _ _, ?checker, ?busy, ?stream, ?frame⟩
  all_goals rw [State.launch_tl, if_pos hn]
  case checker => rfl
  case busy => exact Tiller.get_occupy_busy _ _ _
  case stream => exact ⟨by rw [Tiller.goto_stream, if_pos rfl]; rfl, fun x hx => by rw [Tiller.goto_stream, if_neg hx]; rfl⟩
  case frame => rfl

/-! ### Rows that only issue -/

section
variable {s : State} {t e : Nat} {i : Shoze} {mn : Mnem}

/-- A row that issues its instruction unchanged: the entry claims what the instruction reads and writes, and the generator advances by its
draws (03 R82, R89; 02 R53). -/
theorem engineRow_issued {r : Instr} (hr : exec r s = issueRow t e mn s fun i => s.engine t e i id) (h : s.issues t e mn i)
    (hd : i.ds ≠ []) :
    ∃ s1 x, exec r s = .next (s1.modT t fun T => { T with gen := advance T.gen ((s.tl t).draws i) }) ∧
      launched t e (engineOf mn) (if isAsync mn && engineOf mn = 4 then SMap.get zeroAt (s.tl t).busy (engineOf mn)
        else s.clk.core + ((s.tl t).timing s.clk.core i).1) [x] s s1 ∧
      x.srcs = natFeet ((s.tl t).reads i) ∧ x.dsts = natFeet ((s.tl t).writes i) ∧ x.async = isAsync mn ∧ x.inst = (s.tl t).resolve i ∧
      x.issue = s.clk.core ∧ x.finished = false ∧ s.clk.core + ((s.tl t).timing s.clk.core i).2 ≤ x.done := by
  have hx := issueRow_next h fun i => s.engine t e i id
  obtain ⟨-, -, -, rfl, -⟩ := h
  exact ⟨s.launch t e i [] id, (s.tl t).entryOf s.clk.core ((s.tl t).stream e).pc i [], hr.trans hx,
    launch_launched_of_needsEntry s t e i [] id (Tiller.needsEntry_of_ds_ne_nil hd), rfl, rfl, rfl, rfl, rfl, rfl, Nat.le_max_left _ _⟩

/-! ### Rows that check what they issue -/

/-- A TR_MAP that fits its program keeps it (04 R125, R127). -/
theorem trMap_fits (h : s.issues t e .trMap i) (hm : mapMismatch (s.tl t) ((s.tl t).stream e).pc i = false) :
    exec (.trMap t e) s = .next (s.engine t e i fun x => { x with prog := SMap.get progAt (s.tl t).progs (progIndex i) }) := by
  show execTrMap t e s = _
  rw [execTrMap, issueRow_next h, if_neg (by simp [hm])]

theorem trMap_mismatch (h : s.issues t e .trMap i) (hm : mapMismatch (s.tl t) ((s.tl t).stream e).pc i = true) :
    exec (.trMap t e) s = .next (s.fmtViolation t 2 ((s.tl t).stream e).pc { reason := 7 }) := by
  show execTrMap t e s = _
  rw [execTrMap, issueRow_next h, if_pos hm]

/-- A sparse form whose header is good is issued with the ranges it names (04 R101, R110). -/
theorem State.issueSparse_of_good (hg : (s.tl t).sparseHeader ((s.tl t).resolve i) = none) :
    s.issueSparse t e i = s.engine t e i fun x => { x with
      headSrcs := natFeet (spHdr ((((s.tl t).resolve i).desc 0).header (s.tl t).sp)).feet } := by
  simp only [State.issueSparse, hg]

theorem State.issueSparse_of_bad {o : Nat} (hb : (s.tl t).sparseHeader ((s.tl t).resolve i) = some o) :
    s.issueSparse t e i = s.fmtViolation t 1 ((s.tl t).stream e).pc
      { reason := 5, form := fieldAt ((((s.tl t).resolve i).desc 0).header (s.tl t).sp) 0 1,
        addr := (((s.tl t).resolve i).desc 0).aux.toNat + o } := by
  simp only [State.issueSparse, hb]

/-- A Shears instruction whose headers are good is issued with the ranges they name (04 R111). -/
theorem State.issueShears_of_good (hg : shearsHeader ((s.tl t).resolve i) (s.tl t).sp = none) :
    s.issueShears t e i = s.engine t e i fun x => { x with
      headSrcs := natFeet (shearsFeet ((s.tl t).resolve i) (s.tl t).sp).1,
      headDsts := natFeet (shearsFeet ((s.tl t).resolve i) (s.tl t).sp).2 } := by
  simp only [State.issueShears, hg]

theorem State.issueShears_of_bad {p : Nat × Nat} (hb : shearsHeader ((s.tl t).resolve i) (s.tl t).sp = some p) :
    s.issueShears t e i = s.fmtViolation t 3 ((s.tl t).stream e).pc { reason := 5, form := p.2, addr := p.1 } := by
  simp only [State.issueShears, hb]

end

/-! ### Which rows share a form -/

theorem exec_plainEngineRow {row : (Nat → Nat → Instr) × Mnem} (hr : row ∈ [(Instr.mm, Mnem.mm), (.trRed, .trRed), (.trCvt, .trCvt),
      (.trLdprog, .trLdprog), (.mvCopy, .mvCopy), (.mvGet, .mvGet), (.mvRecv, .mvRecv)]) (s : State) (t e : Nat) :
    exec (row.1 t e) s = issueRow t e row.2 s fun i => s.engine t e i id := by
  simp only [List.mem_cons, List.not_mem_nil, or_false] at hr
  rcases hr with rfl | rfl | rfl | rfl | rfl | rfl | rfl <;> rfl

theorem exec_sparseRow {row : (Nat → Nat → Instr) × Mnem} (hr : row ∈ [(Instr.mmBs, Mnem.mmBs), (.mmGs, .mmGs), (.mmBgs, .mmBgs)])
    (s : State) (t e : Nat) : exec (row.1 t e) s = issueRow t e row.2 s (s.issueSparse t e) := by
  simp only [List.mem_cons, List.not_mem_nil, or_false] at hr
  rcases hr with rfl | rfl | rfl <;> rfl

theorem exec_shearsRow {row : (Nat → Nat → Instr) × Mnem} (hr : row ∈ [(Instr.shPrune, Mnem.shPrune), (.shTmask, .shTmask)])
    (s : State) (t e : Nat) : exec (row.1 t e) s = issueRow t e row.2 s (s.issueShears t e) := by
  simp only [List.mem_cons, List.not_mem_nil, or_false] at hr
  rcases hr with rfl | rfl <;> rfl

/-! ### The obligation -/

/-- Settles O36: a row that issues does what its body says, and an entry with descriptors always holds a claim. -/
theorem engineInstructionsAreIssued : Obligations.EngineInstructionsAreIssued := by
  unfold Obligations.EngineInstructionsAreIssued
  refine ⟨fun row hr s t e i h hd => engineRow_issued (exec_plainEngineRow hr s t e) h hd, fun s t e i =>
    ⟨trMap_fits, trMap_mismatch, fun row hr h => ?sparse, fun row hr h => ?shears, fun h => ?mrecv, fun h => ?mesh, fun h => ?put, ?send⟩⟩
  case sparse =>
    rw [exec_sparseRow hr, issueRow_next h]
    exact ⟨fun hg => by rw [State.issueSparse_of_good hg], fun o d hb hd => by rw [State.issueSparse_of_bad hb, hd]⟩
  case shears =>
    rw [exec_shearsRow hr, issueRow_next h]
    exact ⟨fun hg => by rw [State.issueShears_of_good hg], fun p hb => by rw [State.issueShears_of_bad hb]⟩
  case mrecv => exact issueRow_next h _
  case mesh => exact issueRow_next h _
  case put => exact issueRow_next h _
  case send =>
    rintro h b rfl
    exact issueRow_next h _

end Sys2Proof.Machine

end

section

/-! The encoding of Shoze (03 R73, R74, R78): an instruction decodes from some bytes exactly when they begin with its own bytes. -/

namespace Sys2Proof.Machine

/-! ### Fields of a word -/

/-- A field of a field is a field. -/
theorem extractLsb'_extractLsb' {k s n a m : Nat} (v : BitVec k) (h : a + m ≤ n) :
    (v.extractLsb' s n).extractLsb' a m = v.extractLsb' (s + a) m := by
  apply BitVec.eq_of_getElem_eq
  intro i hi
  rw [BitVec.getElem_extractLsb', BitVec.getElem_extractLsb', BitVec.getLsbD_extractLsb', decide_eq_true (by omega), Bool.true_and, Nat.add_assoc]

/-- Fields side by side are the bits of a word from s on when each is the bits of its own place. -/
theorem append_eq_extractLsb'_iff {k n m s : Nat} {x : BitVec n} {y : BitVec m} {v : BitVec k} :
    x ++ y = v.extractLsb' s (n + m) ↔ x = v.extractLsb' (s + m) n ∧ y = v.extractLsb' s m := by
  constructor
  · intro h
    have hx : (x ++ y).extractLsb' m n = x := BitVec.extractLsb'_append_eq_left
    have hy : (x ++ y).extractLsb' 0 m = y := BitVec.extractLsb'_append_eq_right
    rw [h, extractLsb'_extractLsb' v (by omega)] at hx hy
    exact ⟨hx.symm, hy.symm⟩
  · rintro ⟨rfl, rfl⟩
    exact BitVec.extractLsb'_append_extractLsb'_eq_extractLsb' rfl

theorem ofBool_eq_extractLsb'_iff {k s : Nat} {b : Bool} {v : BitVec k} : BitVec.ofBool b = v.extractLsb' s 1 ↔ b = v.getLsbD s := by
  rw [BitVec.getLsbD_eq_extractLsb']
  generalize v.extractLsb' s 1 = y
  revert b y
  decide

/-- Bytes hold a word exactly when they are its bytes. -/
theorem ofNat_leNat_eq_iff {n w : Nat} (hw : 256 ^ n = 2 ^ w) {l : List Byte} (hl : l.length = n) (v : BitVec w) :
    BitVec.ofNat w (leNat l) = v ↔ l = toLE n v.toNat := by
  constructor
  · rintro rfl
    rw [BitVec.toNat_ofNat, ← hw, ← hl, Nat.mod_eq_of_lt (leNat_lt l), toLE_leNat]
  · rintro rfl
    rw [leNat_toLE, hw, Nat.mod_eq_of_lt v.isLt, BitVec.ofNat_toNat, BitVec.setWidth_eq]

/-! ### Class and operation code (03 R78) -/

theorem opCode_getElem_classMnems : ∀ (c : Fin 8) (o : Fin (classMnems c).length), opCode (classMnems c)[o] = (c.val, o.val) := by
  decide

theorem decodeMnem_eq_some_iff {c o : Nat} {mn : Mnem} : decodeMnem c o = some mn ↔ opCode mn = (c, o) := by
  constructor
  · intro h
    obtain ⟨ho, rfl⟩ := List.getElem?_eq_some_iff.1 h
    have hc : c < 8 := by
      refine Nat.lt_of_not_le fun hge => ?_
      obtain ⟨k, rfl⟩ := Nat.exists_eq_add_of_le' hge
      exact Nat.not_lt_zero _ ho
    exact opCode_getElem_classMnems ⟨c, hc⟩ ⟨o, ho⟩
  · intro h
    obtain ⟨rfl, rfl⟩ := Prod.mk.inj h
    cases mn <;> rfl

/-- A class has four bits and an operation code six. -/
theorem opCode_lt (mn : Mnem) : (opCode mn).1 < 2 ^ 4 ∧ (opCode mn).2 < 2 ^ 6 := by cases mn <;> decide

/-! ### Descriptors (03 R74) -/

/-- The bits of a descriptor: each field in its place, and 0 in the reserved ones. -/
theorem descBits_eq_iff {d : Desc} {v : BitVec 128} :
    descBits d = v ↔
      (v.extractLsb' 21 3 = 0#3 ∧ v.getLsbD 31 = false ∧ v.extractLsb' 56 8 = 0#8 ∧ v.extractLsb' 117 11 = 0#11) ∧
      d = { base := v.extractLsb' 0 21, fmt := v.extractLsb' 24 4, scale := v.getLsbD 28, mask := v.getLsbD 29, sparse := v.getLsbD 30,
            count := v.extractLsb' 32 24, rowLen := v.extractLsb' 64 16, stride := v.extractLsb' 80 16, aux := v.extractLsb' 96 21 } := by
  have hbits : descBits d = v ↔ descBits d = v.extractLsb' 0 128 := by rw [BitVec.extractLsb'_eq_self]
  rw [hbits, descBits]
  refine append_eq_extractLsb'_iff.trans ?_
  simp only [append_eq_extractLsb'_iff]
  cases d
  simp only [Nat.reduceAdd, show 0#1 = BitVec.ofBool false from rfl, ofBool_eq_extractLsb'_iff, Desc.mk.injEq, eq_comm (a := v.getLsbD 31),
    eq_comm (b := 0#3), eq_comm (b := 0#8), eq_comm (b := 0#11)]
  exact Iff.of_eq (by ac_rfl)

/-- A descriptor is decoded from its own bits, and from no other. -/
theorem decodeDesc_eq_some_iff {v : BitVec 128} {d : Desc} : decodeDesc v = some d ↔ descBits d = v := by
  rw [descBits_eq_iff, decodeDesc, Option.ite_none_right_eq_some, Option.some.injEq, eq_comm (b := d)]
  simp [and_assoc]

/-- The bytes of a descriptor. -/
def descBytes (d : Desc) : List Byte := toLE 16 (descBits d).toNat

@[simp] theorem descBytes_length (d : Desc) : (descBytes d).length = 16 := toLE_length _ _

theorem decodeDesc_ofNat_eq_some_iff {b : List Byte} (hb : b.length = 16) {d : Desc} :
    decodeDesc (BitVec.ofNat 128 (leNat b)) = some d ↔ b = descBytes d := by
  rw [decodeDesc_eq_some_iff, eq_comm, ofNat_leNat_eq_iff rfl hb, descBytes]

/-- What one more descriptor takes. -/
theorem decodeDescs_succ_eq_some_iff {n : Nat} {b rest : List Byte} {l : List Desc} :
    decodeDescs (n + 1) b = some (l, rest) ↔ 16 ≤ b.length ∧ ∃ d ds, decodeDesc (BitVec.ofNat 128 (leNat (b.take 16))) = some d ∧
      decodeDescs n (b.drop 16) = some (ds, rest) ∧ l = d :: ds := by
  rw [decodeDescs]
  by_cases hb : b.length < 16
  · simp [hb, Nat.not_le_of_lt hb]
  · rw [if_neg hb]
    cases decodeDesc (BitVec.ofNat 128 (leNat (b.take 16))) <;> cases decodeDescs n (b.drop 16) <;> simp [Nat.le_of_not_lt hb, Prod.ext_iff]
    grind

/-- n descriptors are decoded from some bytes exactly when these begin with theirs. -/
theorem decodeDescs_eq_some_iff {n : Nat} {b rest : List Byte} {ds : List Desc} :
    decodeDescs n b = some (ds, rest) ↔ ds.length = n ∧ b = (ds.map descBytes).flatten ++ rest := by
  induction n generalizing b ds with
  | zero => cases ds <;> simp [decodeDescs]
  | succ n ih =>
    rw [decodeDescs_succ_eq_some_iff]
    constructor
    · rintro ⟨hb, d, ds, hd, hds, rfl⟩
      rw [decodeDesc_ofNat_eq_some_iff (by simp [hb])] at hd
      obtain ⟨rfl, hrest⟩ := ih.1 hds
      exact ⟨rfl, by rw [← List.take_append_drop 16 b, hd, hrest]; simp⟩
    · rintro ⟨hl, rfl⟩
      obtain ⟨d, ds, rfl⟩ := List.exists_cons_of_length_eq_add_one hl
      refine ⟨by simp, d, ds, ?_, ih.2 ⟨Nat.succ.inj hl, ?_⟩, rfl⟩
      · rw [decodeDesc_ofNat_eq_some_iff (by simp)]
        simp
      · simp

/-! ### Word 0 (03 R73) -/

/-- The instruction of a mnemonic and some descriptors whose other fields stand in a word. -/
def shozeOf (w : BitVec 64) (mn : Mnem) (ds : List Desc) : Shoze :=
  { mn := mn, rm := w.extractLsb' 10 3, sa := w.extractLsb' 16 5, sb := w.extractLsb' 21 5, sd := w.extractLsb' 26 5,
    sem := w.extractLsb' 31 4, ast := w.getLsbD 35, dyn := w.getLsbD 36, disj := w.getLsbD 37, ef := w.extractLsb' 38 2,
    imm := w.extractLsb' 40 24, ds := ds }

@[simp] theorem shozeOf_ds (w : BitVec 64) (mn : Mnem) (ds : List Desc) : (shozeOf w mn ds).ds = ds := rfl

theorem ofNat_eq_iff_of_lt {n a : Nat} {x : BitVec n} (h : a < 2 ^ n) : BitVec.ofNat n a = x ↔ a = x.toNat := by
  rw [← BitVec.toNat_inj, BitVec.toNat_ofNat, Nat.mod_eq_of_lt h]

/-- The bits of word 0: each field in its place. -/
theorem wordBits_eq_iff {i : Shoze} (hi : i.ds.length < 2 ^ 3) {w : BitVec 64} :
    wordBits i = w ↔ opCode i.mn = ((w.extractLsb' 0 4).toNat, (w.extractLsb' 4 6).toNat) ∧ i.ds.length = (w.extractLsb' 13 3).toNat ∧
      i = shozeOf w i.mn i.ds := by
  have hbits : wordBits i = w ↔ wordBits i = w.extractLsb' 0 64 := by rw [BitVec.extractLsb'_eq_self]
  obtain ⟨hc, ho⟩ := opCode_lt i.mn
  rw [hbits, wordBits]
  refine append_eq_extractLsb'_iff.trans ?_
  simp only [append_eq_extractLsb'_iff]
  cases i
  simp only [Nat.reduceAdd, ofBool_eq_extractLsb'_iff, ofNat_eq_iff_of_lt hi, ofNat_eq_iff_of_lt hc, ofNat_eq_iff_of_lt ho, shozeOf,
    Shoze.mk.injEq, Prod.ext_iff, true_and, and_true]
  exact Iff.of_eq (by ac_rfl)

/-! ### Instructions -/

theorem encodeShoze_eq (i : Shoze) : encodeShoze i = toLE 8 (wordBits i).toNat ++ (i.ds.map descBytes).flatten := rfl

/-- What an instruction takes: word 0 with a listed operation and at most four descriptors, and these descriptors. -/
theorem decodeShoze_eq_some_iff_word {b rest : List Byte} {i : Shoze} {w : BitVec 64} (hw : w = BitVec.ofNat 64 (leNat (b.take 8))) :
    decodeShoze b = some (i, rest) ↔ 8 ≤ b.length ∧ (w.extractLsb' 13 3).toNat ≤ 4 ∧ ∃ mn ds,
      decodeMnem (w.extractLsb' 0 4).toNat (w.extractLsb' 4 6).toNat = some mn ∧
      decodeDescs (w.extractLsb' 13 3).toNat (b.drop 8) = some (ds, rest) ∧ i = shozeOf w mn ds := by
  rw [decodeShoze, ← hw]
  dsimp only
  generalize (w.extractLsb' 13 3).toNat = nd
  by_cases hb : b.length < 8
  · simp [hb, Nat.not_le_of_lt hb]
  · by_cases hn : 4 < nd
    · simp [hn, Nat.not_le_of_lt hn]
    · rw [if_neg hb, if_neg hn]
      cases decodeMnem (w.extractLsb' 0 4).toNat (w.extractLsb' 4 6).toNat <;> cases decodeDescs nd (b.drop 8) <;>
        simp [Nat.le_of_not_lt hb, Nat.le_of_not_lt hn, shozeOf, Prod.ext_iff]
      grind

/-- An instruction is decoded from some bytes exactly when it has at most four descriptors and they begin with its own bytes. -/
theorem decodeShoze_eq_some_iff {b rest : List Byte} {i : Shoze} :
    decodeShoze b = some (i, rest) ↔ i.ds.length ≤ 4 ∧ b = encodeShoze i ++ rest := by
  rw [decodeShoze_eq_some_iff_word rfl, encodeShoze_eq, List.append_assoc]
  constructor
  · rintro ⟨hb, hn, mn, ds, hop, hds, rfl⟩
    obtain ⟨hl, hrest⟩ := decodeDescs_eq_some_iff.1 hds
    refine ⟨Nat.le_trans (Nat.le_of_eq hl) hn, ?_⟩
    have hword := (wordBits_eq_iff (i := shozeOf _ mn ds) (by rw [shozeOf_ds]; omega)).2 ⟨decodeMnem_eq_some_iff.1 hop, hl, rfl⟩
    rw [eq_comm, ofNat_leNat_eq_iff (n := 8) rfl (by simp [hb])] at hword
    rw [← hword, shozeOf_ds, ← hrest, List.take_append_drop]
  · rintro ⟨hn, rfl⟩
    have hword : wordBits i = BitVec.ofNat 64 (leNat ((toLE 8 (wordBits i).toNat ++ ((i.ds.map descBytes).flatten ++ rest)).take 8)) := by
      rw [eq_comm, ofNat_leNat_eq_iff (n := 8) rfl (by simp)]
      simp
    obtain ⟨hop, hl, hi⟩ := (wordBits_eq_iff (by omega)).1 hword
    exact ⟨by simp, by omega, i.mn, i.ds, decodeMnem_eq_some_iff.2 hop, decodeDescs_eq_some_iff.2 ⟨hl, by simp⟩, hi⟩

/-! ### The obligations -/

/-- Settles O59: both directions are the rule that an instruction decodes from some bytes exactly when they begin with its own. -/
theorem shozeRoundTrips : Obligations.ShozeRoundTrips := by
  unfold Obligations.ShozeRoundTrips
  exact ⟨fun i rest hn => decodeShoze_eq_some_iff.2 ⟨hn, rfl⟩, fun b rest i h => (decodeShoze_eq_some_iff.1 h).2⟩

/-- Settles O60: the words are the closed terms that the decoder answers. -/
theorem shozeWordsDecode : Obligations.ShozeWordsDecode := by
  unfold Obligations.ShozeWordsDecode
  decide

end Sys2Proof.Machine
end

section

/-! The control core (03 R71, R78, R83): one-cycle register operations, loads and stores of data memory, and the instructions that move a
stream. -/

namespace Sys2Proof.Machine

/-! ### Changes of one Tiller -/

/-- A change of a Tiller depends on what it makes of that Tiller only. -/
theorem State.modT_congr {s : State} {t : Nat} {f g : Tiller → Tiller} (h : f (s.tl t) = g (s.tl t)) : s.modT t f = s.modT t g := by
  rw [State.modT, State.modT, h]

/-- A stream has gone on when the streams are those of a Tiller that has. -/
theorem wentOn_of_streams {e core t3 pc n : Nat} {T T' : Tiller} (h : T'.streams = (T.goto e core t3 pc n).streams) :
    wentOn e pc (core + n) t3 T T' := by
  have hstream (x : Nat) : T'.stream x = (T.goto e core t3 pc n).stream x := by rw [Tiller.stream, h, Tiller.stream]
  exact ⟨by rw [hstream, Tiller.goto_stream, if_pos rfl], fun x hx => by rw [hstream, Tiller.goto_stream, if_neg hx]⟩

section
variable {s : State} {t e : Nat} {i : Shoze} {mn : Mnem}

/-! ### One-cycle register operations (03 R78) -/

/-- A row that does a one-cycle register operation writes its register. -/
theorem aluRow_wrote {r : Instr} {f : Word → Word → Word} (hr : exec r s = issueRow t e mn s (s.alu t e f)) (h : s.issues t e mn i) :
    ∃ s', exec r s = .next s' ∧ wrote t e i.sd.toNat (f (s.ra t i) (s.rb t i)) s s' :=
  ⟨_, hr.trans (issueRow_next h _), retire_wrote s t e i.sd _ (fun T => f (T.reg i.sa.toNat) (T.reg i.sb.toNat)) rfl⟩

theorem boolWord_slt (a b : Word) : boolWord (a.slt b) = if a.toInt < b.toInt then 1#32 else 0#32 := by
  simp [boolWord, BitVec.slt]

theorem boolWord_ult (a b : Word) : boolWord (a.ult b) = if a.toNat < b.toNat then 1#32 else 0#32 := by
  simp [boolWord, BitVec.ult]

/-! ### Data memory (03 R71, R77) -/

/-- A byte after the low bytes of a word are written. -/
theorem Memory.byte_write_toLE (m : Memory) (a n v b : Nat) :
    (m.write a (toLE n v)).byte b = if a ≤ b ∧ b < a + n then BitVec.ofNat 8 (v / 256 ^ (b - a)) else m.byte b := by
  rw [Memory.byte_write, toLE_length]
  split
  · next h => rw [List.getD_eq_getElem?_getD, toLE_getElem? _ _ _ (by omega), Option.getD_some]
  · rfl

theorem State.storeD_tl (s : State) (t e n : Nat) (i : Shoze) :
    (s.storeD t e n i).tl t = { (s.tl t).goto e s.clk.core s.t3 (((s.tl t).stream e).pc + 1) 1 with
      dmem := (s.tl t).dmem.write ((s.tl t).effAddr i) (toLE n (s.rb t i).toNat) } := by
  rw [State.storeD, State.retire, State.modT_tl', if_pos rfl]
  rfl

/-- A row that stores n bytes writes these and no others. -/
theorem storeRow_stored {r : Instr} {n : Nat} (hr : exec r s = issueRow t e mn s (s.storeD t e n)) (h : s.issues t e mn i) :
    ∃ s', exec r s = .next s' ∧ onlyTiller t s s' ∧
      s'.tl t = { s.tl t with dmem := (s'.tl t).dmem, streams := (s'.tl t).streams } ∧
      wentOn e (((s.tl t).stream e).pc + 1) (s.clk.core + 1) s.t3 (s.tl t) (s'.tl t) ∧
      ∀ a, (s'.tl t).dmem.byte a = if (s.tl t).effAddr i ≤ a ∧ a < (s.tl t).effAddr i + n then
        BitVec.ofNat 8 ((s.rb t i).toNat / 256 ^ (a - (s.tl t).effAddr i)) else (s.tl t).dmem.byte a := by
  refine ⟨s.storeD t e n i, hr.trans (issueRow_next h _), by rw [State.storeD]; exact onlyTiller_modT _ _ _, ?_⟩
  rw [State.storeD_tl]
  exact ⟨rfl, wentOn_of_streams rfl, fun a => Memory.byte_write_toLE _ _ _ _ a⟩

/-- The loads of data memory. -/
def isLoadD (mn : Mnem) : Prop := mn = .ldB ∨ mn = .ldH ∨ mn = .ldW

/-- What the tables say of a load of data memory: a control core's instruction of one cycle that writes s[sd] after two (03 R78, R83). -/
theorem isLoadD.tables {mn : Mnem} (hm : isLoadD mn) (T : Tiller) (core : Nat) {i : Shoze} (hi : i.mn = mn) :
    isAsync i.mn = false ∧ engineOf i.mn = 0 ∧ T.timing core i = (1, 2) ∧ T.regsWritten i = [i.sd.toNat] ∧ i.mn ≠ .spld ∧ i.mn ≠ .spst := by
  subst hi
  unfold Tiller.timing Tiller.regsWritten
  rcases hm with h | h | h <;> simp [h, isAsync, engineOf]

/-- A load of s0 without descriptors claims nothing, and one of another register claims it. -/
theorem isLoadD.needsEntry_iff {mn : Mnem} (hm : isLoadD mn) {T : Tiller} {core : Nat} {i : Shoze} (hi : i.mn = mn) :
    T.needsEntry core i = true ↔ i.ds ≠ [] ∨ i.sd ≠ 0#5 := by
  obtain ⟨ha, -, ht, hw, hld, hst⟩ := hm.tables T core hi
  simp [Tiller.needsEntry, ha, ht, hw, hld, hst, ← BitVec.toNat_inj]

theorem loadRow_launched {r : Instr} {n : Nat} (hm : isLoadD mn) (hr : exec r s = issueRow t e mn s (s.loadD t e n)) (h : s.issues t e mn i)
    (hast : i.ast = false) :
    (i.sd = 0#5 → i.ds = [] → ∃ s', exec r s = .next s' ∧ launched t e 0 (s.clk.core + 1) [] s s') ∧
    (i.sd ≠ 0#5 → ∃ s' x, exec r s = .next s' ∧ launched t e 0 (s.clk.core + 1) [x] s s' ∧ x.regs = [i.sd.toNat] ∧ x.done = s.clk.core + 2 ∧
      x.vals = [BitVec.ofNat 32 (leNat ((List.range n).map fun j => (s.tl t).dmem.byte ((s.tl t).effAddr i + j)))]) := by
  have hx := hr.trans (issueRow_next h _)
  obtain ⟨-, -, -, hi, -⟩ := h
  obtain ⟨ha, he, ht, hw, -⟩ := hm.tables (s.tl t) s.clk.core hi
  have hl := launch_launched s t e i [(s.tl t).dmemWord ((s.tl t).effAddr i) n] (fun x => { x with rows := [(s.tl t).effAddr i] }) ha
  rw [he, ht] at hl
  constructor
  · intro h0 hds
    rw [if_neg (by simp [hm.needsEntry_iff hi, h0, hds])] at hl
    exact ⟨_, hx, hl⟩
  · intro h0
    rw [if_pos ((hm.needsEntry_iff hi).2 (.inr h0))] at hl
    refine ⟨_, _, hx, hl, ?_, ?_, ?_⟩
    · have h0' : i.sd.toNat ≠ 0 := by simpa [← BitVec.toNat_inj] using h0
      simp [Tiller.entryOf, hw, h0']
    · simp [Tiller.entryOf, ht, astRows, hast]
    · simp [Tiller.entryOf, Tiller.dmemWord, Memory.read_eq]

/-! ### Jumps and branches (03 R78, R83) -/

theorem State.branch_of_true {c : Word → Word → Bool} (hc : c (s.ra t i) (s.rb t i) = true) :
    s.branch t e c i = s.modT t fun T => T.goto e s.clk.core s.t3 (jumpTo ((s.tl t).stream e).pc i) 3 := State.modT_congr (if_pos hc)

theorem State.branch_of_false {c : Word → Word → Bool} (hc : c (s.ra t i) (s.rb t i) = false) :
    s.branch t e c i = s.modT t fun T => T.goto e s.clk.core s.t3 (((s.tl t).stream e).pc + 1) 1 :=
  State.modT_congr (if_neg (Bool.eq_false_iff.1 hc))

/-- A row that branches on a comparison goes where it says. -/
theorem branchRow_branched {r : Instr} {c : Word → Word → Bool} (hr : exec r s = issueRow t e mn s (s.branch t e c)) (h : s.issues t e mn i) :
    ∃ s', exec r s = .next s' ∧
      (c (s.ra t i) (s.rb t i) = true → branched t e (((((s.tl t).stream e).pc : Int) + i.imm.toInt).toNat) 3 s s') ∧
      (c (s.ra t i) (s.rb t i) = false → branched t e (((s.tl t).stream e).pc + 1) 1 s s') :=
  ⟨s.branch t e c i, hr.trans (issueRow_next h _), fun hc => by rw [State.branch_of_true hc]; exact goto_branched _ _ _ _ _,
    fun hc => by rw [State.branch_of_false hc]; exact goto_branched _ _ _ _ _⟩

theorem not_slt_eq_decide (a b : Word) : (!a.slt b) = decide (b.toInt ≤ a.toInt) := by
  rw [BitVec.slt, ← decide_not, decide_eq_decide, Int.not_lt]

theorem not_ult_eq_decide (a b : Word) : (!a.ult b) = decide (b.toNat ≤ a.toNat) := by
  rw [BitVec.ult, ← decide_not, decide_eq_decide, Nat.not_lt]

/-- A row that jumps and leaves a return stack goes where it says with that stack. -/
theorem rstackRow_wentOn {r : Instr} {pc n : Nat} {l : List Nat} (hr : exec r s = .next (s.modT t fun T =>
      { T.goto e s.clk.core s.t3 pc n with rstack := l })) :
    ∃ s', exec r s = .next s' ∧ onlyTiller t s s' ∧ s'.tl t = { s.tl t with rstack := l, streams := (s'.tl t).streams } ∧
      wentOn e pc (s.clk.core + n) s.t3 (s.tl t) (s'.tl t) := by
  refine ⟨_, hr, onlyTiller_modT _ _ _, ?_⟩
  rw [State.modT_tl', if_pos rfl]
  exact ⟨rfl, wentOn_of_streams rfl⟩

end

/-! ### The obligations -/

/-- Settles O29: every row is a register operation with the function of the table. -/
theorem oneCycleArithmeticWritesItsRegister : Obligations.OneCycleArithmeticWritesItsRegister := by
  unfold Obligations.OneCycleArithmeticWritesItsRegister
  intro row hrow s t e i h
  refine aluRow_wrote ?_ h
  simp only [List.mem_cons, List.not_mem_nil, or_false] at hrow
  rcases hrow with rfl | rfl | rfl | rfl | rfl | rfl | rfl | rfl | rfl | rfl
  iterate 8 · rfl
  · simp only [← boolWord_slt]
    rfl
  · simp only [← boolWord_ult]
    rfl

/-- Settles O32: each row is a store or a load of its width. -/
theorem dataMemoryIsLoadedAndStored : Obligations.DataMemoryIsLoadedAndStored := by
  unfold Obligations.DataMemoryIsLoadedAndStored
  constructor <;> intro row hrow s t e i h <;> simp only [List.mem_cons, List.not_mem_nil, or_false] at hrow
  · rcases hrow with rfl | rfl | rfl <;> exact storeRow_stored rfl h
  · rcases hrow with rfl | rfl | rfl
    · exact loadRow_launched (.inl rfl) rfl h
    · exact loadRow_launched (.inr (.inl rfl)) rfl h
    · exact loadRow_launched (.inr (.inr rfl)) rfl h

/-- Settles O33: a branch goes where its comparison says, and CALL and RET change the return stack beside the stream. -/
theorem controlFlowMovesTheStream : Obligations.ControlFlowMovesTheStream := by
  unfold Obligations.ControlFlowMovesTheStream
  refine ⟨fun row hrow s t e i h => branchRow_branched ?branch h,
    fun s t e i => ⟨fun h => ?nop, fun h => ?jmp, fun h => ?call, fun j rest h hr => ?ret⟩⟩
  case branch =>
    simp only [List.mem_cons, List.not_mem_nil, or_false] at hrow
    rcases hrow with rfl | rfl | rfl | rfl | rfl | rfl
    iterate 3 · rfl
    · simp only [← not_slt_eq_decide]
      rfl
    · rfl
    · simp only [← not_ult_eq_decide]
      rfl
  case nop => exact ⟨_, issueRow_next h _, goto_branched _ _ _ _ _⟩
  case jmp => exact ⟨_, issueRow_next h _, goto_branched _ _ _ _ _⟩
  case call => exact rstackRow_wentOn (issueRow_next h _)
  case ret =>
    refine rstackRow_wentOn ((issueRow_next h _).trans ?_)
    congr 1
    exact State.modT_congr (by simp [hr])

end Sys2Proof.Machine

end

section

/-! Holds, semaphores and address streams (03 R78, R85, R86, R88; 12 R335). -/

namespace Sys2Proof.Machine

/-! ### Changes of one Tiller -/

theorem onlyTiller.trans {t : Nat} {s s1 s2 : State} (h1 : onlyTiller t s s1) (h2 : onlyTiller t s1 s2) : onlyTiller t s s2 := by
  obtain ⟨e1, u1⟩ := h1
  obtain ⟨e2, u2⟩ := h2
  exact ⟨by rw [e2, e1], fun u hu => (u2 u hu).trans (u1 u hu)⟩

section
variable {s : State} {t e : Nat} {i : Shoze}

/-! ### Held streams -/

theorem State.live_of_holding {h : Hold} (hh : s.holding t e h = true) : s.live = true := by
  simp only [State.holding, Bool.and_eq_true] at hh
  obtain ⟨⟨⟨⟨hl, -⟩, -⟩, -⟩, -⟩ := hh
  exact hl

theorem State.hold_of_holding {h : Hold} (hh : s.holding t e h = true) : ((s.tl t).stream e).hold = h := by
  simp only [State.holding, Bool.and_eq_true, decide_eq_true_eq] at hh
  obtain ⟨⟨-, hh⟩, -⟩ := hh
  exact hh

/-- A row of a held stream, on a Tiller and a stream that the module has, is its body. -/
theorem onHeld_next {s' : State} {h : Hold} (ht : t < 192) (he : e < 6) (hh : s.holding t e h = true) :
    onUnit (t < 192 && e < 6) s s' = .next s' := onUnit_next (by simp [ht, he]) (State.live_of_holding hh)

/-- T with a held stream gone on to its next instruction. -/
def Tiller.unhold (T : Tiller) (e core t3 : Nat) : Tiller :=
  (T.goto e core t3 ((T.stream e).pc + 1) 1).modStream e fun S => { S with hold := .none }

theorem Tiller.unhold_eq (T : Tiller) (e core t3 : Nat) : T.unhold e core t3 = { T with streams := (T.unhold e core t3).streams } := rfl

theorem Tiller.unhold_stream (T : Tiller) (e core t3 : Nat) :
    (T.unhold e core t3).stream e = { T.stream e with hold := .none, pc := (T.stream e).pc + 1, next := core + 1, prog := t3 } := by
  simp [Tiller.unhold]

/-! ### FENCE and STEP_END -/

theorem fenceRetire_idle (ht : t < 192) (he : e < 6) (hh : s.holding t e .fence = true) (hi : (s.tl t).idle s.clk.core = true) :
    exec (.fenceRetire t e) s = .next (s.modT t fun T => T.unhold e s.clk.core s.t3) := by
  show execFenceRetire t e s = _
  rw [execFenceRetire, onHeld_next ht he hh, if_pos (by simp [hh, hi])]
  rfl

/-- While an engine works, no held stream retires. -/
theorem retire_of_not_idle (hl : s.live = true) (ht : t < 192) (he : e < 6) (hi : (s.tl t).idle s.clk.core = false) :
    exec (.stepEndRetire t e) s = .next s ∧ exec (.fenceRetire t e) s = .next s ∧ exec (.haltRetire t e) s = .next s := by
  have hu (s' : State) : onUnit (t < 192 && e < 6) s s' = .next s' := onUnit_next (by simp [ht, he]) hl
  refine ⟨?_, ?_, ?_⟩
  · exact (hu _).trans (by simp [hi])
  · exact (hu _).trans (by simp [hi])
  · exact (hu _).trans (by simp [hi])

/-- A held STEP_END of an idle Tiller: a stop comes first, a waiting CORE_CLK change holds it, and else its program step is counted. -/
theorem stepEndRetire_idle (ht : t < 192) (he : e < 6) (hh : s.holding t e .stepEnd = true) (hi : (s.tl t).idle s.clk.core = true) :
    exec (.stepEndRetire t e) s = .next (
      if (s.tl t).stopReq then
        (s.tl t).ctx.elim (s.modT t fun T => { T with run := .stopped, stopReq := false })
          (s.modT t fun T => { T with run := .stopped, stopReq := false }).stopCheck
      else if s.dev.mode.getLsbD 0 && (s.pwr.clkReq.isSome || s.pwr.clkStep.isSome) then s
      else (s.modT t fun T => { T.unhold e s.clk.core s.t3 with stepNo := T.stepNo + 1 }).shadowStep t) := by
  show execStepEndRetire t e s = _
  rw [execStepEndRetire, onHeld_next ht he hh]
  simp only [hh, hi, Bool.and_self, Bool.not_true, Bool.false_eq_true, if_false]
  cases (s.tl t).ctx <;> rfl

/-- A CORE_CLK change that waits holds a STEP_END of a deterministic module (12 R335). -/
theorem stepEndRetire_clkChange (ht : t < 192) (he : e < 6) (hh : s.holding t e .stepEnd = true) (hs : (s.tl t).stopReq = false)
    (hd : s.dev.mode.getLsbD 0 = true) (hc : s.pwr.clkReq ≠ none ∨ s.pwr.clkStep ≠ none) : exec (.stepEndRetire t e) s = .next s := by
  cases hi : (s.tl t).idle s.clk.core with
  | false => exact (retire_of_not_idle (State.live_of_holding hh) ht he hi).1
  | true =>
    have hw : (s.pwr.clkReq.isSome || s.pwr.clkStep.isSome) = true := by simpa [Option.isSome_iff_ne_none] using hc
    rw [stepEndRetire_idle ht he hh hi, if_neg (by simp [hs]), if_pos (by rw [hd, hw]; rfl)]

theorem stepEndRetire_step (ht : t < 192) (he : e < 6) (hh : s.holding t e .stepEnd = true) (hi : (s.tl t).idle s.clk.core = true)
    (hs : (s.tl t).stopReq = false) (hc : s.dev.mode.getLsbD 0 = false ∨ (s.pwr.clkReq = none ∧ s.pwr.clkStep = none)) :
    exec (.stepEndRetire t e) s = .next ((s.modT t fun T => { T.unhold e s.clk.core s.t3 with stepNo := T.stepNo + 1 }).shadowStep t) := by
  have hw : ¬ (s.dev.mode.getLsbD 0 && (s.pwr.clkReq.isSome || s.pwr.clkStep.isSome)) = true := by
    rcases hc with h | ⟨h1, h2⟩
    · simp only [h, Bool.false_and, Bool.false_eq_true, not_false_eq_true]
    · simp [h1, h2]
  rw [stepEndRetire_idle ht he hh hi, if_neg (by simp [hs]), if_neg hw]

/-! ### HALT -/

/-- A held HALT of an idle Tiller halts its stream; once every stream has halted, the shadow run and the context learn of it. -/
theorem haltRetire_idle (ht : t < 192) (he : e < 6) (hh : s.holding t e .halt = true) (hi : (s.tl t).idle s.clk.core = true) :
    exec (.haltRetire t e) s = .next (
      if ((s.tl t).haltStream e (s.harrow t)).run = .halted then
        (s.tl t).ctx.elim ((s.modT t fun T => T.haltStream e (s.harrow t)).shadowStep t)
          ((s.modT t fun T => T.haltStream e (s.harrow t)).shadowStep t).ctxHalts
      else s.modT t fun T => T.haltStream e (s.harrow t)) := by
  show execHaltRetire t e s = _
  rw [execHaltRetire, onHeld_next ht he hh]
  simp only [hh, hi, Bool.and_self, Bool.not_true, Bool.false_eq_true, if_false, State.modT_tl', if_true]
  cases (s.tl t).ctx <;> rfl

/-! ### Semaphores (03 R86) -/

/-- A SIGNAL counts its semaphore up, and its stream goes on. -/
theorem signal_counts (h : s.issues t e .signal i) (hk : (s.tl t).semTotal i.sem.toNat < 255) :
    ∃ s', exec (.signal t e) s = .next s' ∧ onlyTiller t s s' ∧
      s'.tl t = { s.tl t with semInc := (s.tl t).semInc ++ [(i.sem.toNat, s.clk.core)], streams := (s'.tl t).streams } ∧
      wentOn e (((s.tl t).stream e).pc + 1) (s.clk.core + 1) s.t3 (s.tl t) (s'.tl t) := by
  have hx : exec (.signal t e) s = .next ((s.modT t fun T => { T with semInc := T.semInc ++ [(i.sem.toNat, s.clk.core)] }).retire t e id) := by
    show execSignal t e s = _
    rw [execSignal, issueRow_next h, if_pos hk, State.signalSem, if_pos hk]
  refine ⟨_, hx, (onlyTiller_modT _ _ _).trans (onlyTiller_modT _ _ _), ?_⟩
  simp only [State.retire, State.modT_tl', if_true]
  exact ⟨rfl, wentOn_of_streams rfl⟩

theorem signal_overflow (h : s.issues t e .signal i) (hk : 255 ≤ (s.tl t).semTotal i.sem.toNat) :
    exec (.signal t e) s = .next (s.hazard t (streamEngine (s.tl t) e) ((s.tl t).stream e).pc { cause := 11 }) := by
  show execSignal t e s = _
  rw [execSignal, issueRow_next h, if_neg (Nat.not_lt.2 hk)]

theorem wait_holds (h : s.issues t e .wait i) (hw : (s.tl t).winsWait e i.sem.toNat s.clk.core = false) :
    exec (.wait t e) s = .next (s.holdStream t e (.wait i.sem.toNat)) := by
  show execWait t e s = _
  rw [execWait, issueRow_next h]
  simp only [hw, Bool.false_eq_true, if_false]

theorem wait_retires (h : s.issues t e .wait i) (hw : (s.tl t).winsWait e i.sem.toNat s.clk.core = true) :
    exec (.wait t e) s = .next (s.modT t fun T => T.retireWait e i.sem.toNat s.clk.core s.t3) := by
  show execWait t e s = _
  rw [execWait, issueRow_next h]
  simp only [hw, if_true]

theorem waitRetire_retires {k : Nat} (ht : t < 192) (he : e < 6) (hh : s.holding t e (.wait k) = true)
    (hw : (s.tl t).winsWait e k s.clk.core = true) :
    exec (.waitRetire t e) s = .next (s.modT t fun T => T.retireWait e k s.clk.core s.t3) := by
  show execWaitRetire t e s = _
  rw [execWaitRetire, onHeld_next ht he hh]
  simp only [State.hold_of_holding hh, hh, hw, Bool.and_self, if_true]

/-! ### Address streams (03 R88) -/

/-- An ASPUSH appends its scalar to a FIFO with room, and its stream goes on. -/
theorem aspush_pushes (h : s.issues t e .aspush i) (hq : (SMap.get nilAt (s.tl t).fifos (i.imm.toNat % 8)).length < 64) :
    ∃ s', exec (.aspush t e) s = .next s' ∧ onlyTiller t s s' ∧
      s'.tl t = { s.tl t with fifos := (s'.tl t).fifos, streams := (s'.tl t).streams } ∧
      (∀ k, SMap.get nilAt (s'.tl t).fifos k = if k = i.imm.toNat % 8 then SMap.get nilAt (s.tl t).fifos k ++ [s.ra t i]
        else SMap.get nilAt (s.tl t).fifos k) ∧
      wentOn e (((s.tl t).stream e).pc + 1) (s.clk.core + 1) s.t3 (s.tl t) (s'.tl t) := by
  have hx : exec (.aspush t e) s = .next (s.retire t e fun T => { T with
      fifos := SMap.set nilAt (i.imm.toNat % 8) (SMap.get nilAt (s.tl t).fifos (i.imm.toNat % 8) ++ [T.reg i.sa.toNat]) T.fifos }) := by
    show execAspush t e s = _
    rw [execAspush, issueRow_next h]
    exact congrArg _ (if_neg (Nat.not_le.2 hq))
  refine ⟨_, hx, onlyTiller_modT _ _ _, ?_⟩
  simp only [State.retire, State.modT_tl', if_true]
  refine ⟨rfl, fun k => ?_, wentOn_of_streams rfl⟩
  rw [SMap.get_set]
  split
  · next hk => rw [hk]; rfl
  · rfl

end

/-! ### The obligation -/

/-- Settles O34: each row issues, holds or retires as the state says. -/
theorem holdsSemaphoresAndStreams : Obligations.HoldsSemaphoresAndStreams := by
  unfold Obligations.HoldsSemaphoresAndStreams
  refine ⟨fun s t e i => ⟨fun h => issueRow_next h _, fun h => issueRow_next h _, fun h => issueRow_next h _, wait_holds,
    fun ht he hh hi => ?fence, fun ht he hh hi hs hc => ?step, retire_of_not_idle, stepEndRetire_clkChange,
    fun ht he hh hi hs x hx => ?stop, fun ht he hh hi hs hx => ?stopNone, fun ht he hh hi hr x hx => ?halt, fun ht he hh hi hr hx => ?haltNone,
    fun ht he hh hi hr => ?haltStream⟩,
    fun s t e i => ⟨signal_counts, signal_overflow, wait_retires, fun k => waitRetire_retires, aspush_pushes⟩⟩
  case fence =>
    refine ⟨_, fenceRetire_idle ht he hh hi, onlyTiller_modT _ _ _, ?_⟩
    rw [State.modT_tl', if_pos rfl]
    exact ⟨Tiller.unhold_eq _ _ _ _, Tiller.unhold_stream _ _ _ _⟩
  case step =>
    refine ⟨_, stepEndRetire_step ht he hh hi hs hc, onlyTiller_modT _ _ _, ?_⟩
    rw [State.modT_tl', if_pos rfl]
    exact ⟨rfl, Tiller.unhold_stream _ _ _ _⟩
  case stop => rw [stepEndRetire_idle ht he hh hi, if_pos hs, hx, Option.elim_some]
  case stopNone => rw [stepEndRetire_idle ht he hh hi, if_pos hs, hx, Option.elim_none]
  case halt => rw [haltRetire_idle ht he hh hi, if_pos hr, hx, Option.elim_some]
  case haltNone => rw [haltRetire_idle ht he hh hi, if_pos hr, hx, Option.elim_none]
  case haltStream => rw [haltRetire_idle ht he hh hi, if_neg hr]

end Sys2Proof.Machine

end

section

/-! Collective slots (05 R134 to R139, R174, R175; 08 R240, R242): how COLL_BIND, COLL_QUERY and COLL_SUBSTITUTE complete. -/

namespace Sys2Proof.Machine

section
variable {s : State} {c l : Nat} {k : Cmd}

/-! ### COLL_BIND (05 R137; 08 R242) -/

/-- How a COLL_BIND of slot l, which began in s0 and is in s with its checks passed, ends by what it could reserve. -/
def State.endBind (s s0 : State) (c l gen : Nat) (ops : List Byte) : Take Slot → State
  | .got S s1 => (((s1.modSlot l fun _ => S.withOps ops).steerLanes l S.laneTs).finish c stOk
      [S.cells, S.bufBytes, bit !S.bufs.isEmpty, gen]).leaveQueue { cmd := some c }
  | .wait w => s0.await { cmd := some c } w
  | .noFit => (s.finish c stNoFit).leaveQueue { cmd := some c }
  | .empty => (s.finish c stNoFit).leaveQueue { cmd := some c }

/-- A bind makes its checks in the order of R137 and then reserves. -/
theorem collBind_next {m n o : List Byte} {T : List Byte × List Byte × List Byte} {b : Binding} {s0 : State} (h : s.carries 0x0301 c k)
    (hl : fieldAt k.params 0 1 = l) (hop : fieldAt k.params 1 1 ≠ 0) (hT : T = k.tables m n o) (hb : b = parseBinding k.params)
    (hs0 : s0 = s.take c) :
    exec (.collBind c m n o) s = .next (
      if s0.bindOk l k.params T.1 T.2.1 T.2.2 = false then s0.finish c stBadParam
      else if s.ctxOk b.ctx = false ∨ (s.ctx b.ctx).loaded = false then s0.finish c stContextGone
      else if (s.slot l).state ≠ .free then s0.finish c stNoFit
      else s0.endBind s c l b.gen T.2.2 (s0.reserveSlot { cmd := some c } l b ((records T.1 0 32 b.nloc).map parseMember)
        ((records T.2.1 0 32 b.nnbr).map parseNbr))) := by
  subst hl hT hb hs0
  show execCollBind c m n o s = _
  rw [execCollBind, runSub_next h]
  · have hctx (x : Nat) : (s.take c).ctxOk x = s.ctxOk x := rfl
    simp only [Bool.not_eq_true', Bool.and_eq_false_iff, hctx, State.take_ctx', State.take_slot']
    generalize (s.take c).reserveSlot _ _ _ _ _ = r
    cases r <;> rfl
  · exact bne_iff_ne.2 hop

/-! ### COLL_BIND with op 0 (05 R139; 08 R240) -/

/-- An unbind of slot S by record q is out of order. -/
def Slot.unbindBad (S : Slot) (q : List Byte) : Prop :=
  S.state = .free ∨ fieldAt q 51 1 ≠ 0 ∨ allZero (slice q 80 48) = false ∨ 32 ≤ fieldAt q 28 4


section
variable {S : Slot} (h : s.carries 0x0301 c k) (hl : fieldAt k.params 0 1 = l) (hop : fieldAt k.params 1 1 = 0) (hS : S = s.slot l)
include h hl hop hS

theorem collUnbind_badParam (hb : S.unbindBad k.params) : exec (.collUnbind c) s = .next ((s.take c).finish c stBadParam) := by
  subst hl hS
  show execCollUnbind c s = _
  rw [execCollUnbind, runSub_next h]
  · dsimp only
    rw [if_pos]
    simp only [Bool.or_eq_true, decide_eq_true_eq, Bool.not_eq_true', or_assoc]
    exact hb
  · exact beq_iff_eq.2 hop

/-- An unbind in order waits while the slot has step buffers and its context has memory writes open, and else frees the slot. -/
theorem collUnbind_next (hb : ¬ S.unbindBad k.params) :
    exec (.collUnbind c) s = .next (
      if S.bufs ≠ [] ∧ (s.take c).writesOpen S.bind.ctx = true then s
      else ((S.bufs.mergeSort (· ≤ ·)).foldl State.giveAddr ((s.take c).unbind l)).finish c stOk) := by
  subst hl hS
  show execCollUnbind c s = _
  rw [execCollUnbind, runSub_next h]
  · dsimp only
    rw [if_neg]
    · simp only [Bool.and_eq_true, Bool.not_eq_true', List.isEmpty_eq_false_iff, State.take_slot']
    · simp only [Bool.or_eq_true, decide_eq_true_eq, Bool.not_eq_true', or_assoc]
      exact hb
  · exact beq_iff_eq.2 hop

end

/-! ### COLL_QUERY (05 R174; 10 R296) -/

theorem collQuery_badParam (h : s.carries 0x0303 c k)
    (hb : allZero (k.params.drop 13) = false ∨ (s.slot (fieldAt k.params 12 1)).state = .free) :
    exec (.collQuery c) s = .next ((s.take c).finish c stBadParam) := by
  show execCollQuery c s = _
  rw [execCollQuery, runCmd_next h]
  dsimp only
  rw [if_pos]
  simp only [Bool.or_eq_true, decide_eq_true_eq, Bool.not_eq_true']
  exact hb

theorem collQuery_reported {S : Slot} {data : List Byte} (h : s.carries 0x0303 c k) (hS : S = s.slot (fieldAt k.params 12 1))
    (hz : allZero (k.params.drop 13) = true) (hf : S.state ≠ .free)
    (hd : data = toLE 4 S.state.code ++ ([S.proto, S.window, S.dup, S.gateDrop, S.capDrop].map fun v => toLE 8 v.toNat).flatten ++
      padTo 128 S.bind.raw ++ (S.members.map fun m => toLE 4 m.timesLast ++ [0#8, 0#8, 0#8, 0#8] ++ toLE 8 m.lateness).flatten ++
      (S.nbrs.map fun m => toLE 4 m.timesLast ++ [0#8, 0#8, 0#8, 0#8] ++ toLE 8 m.lateness).flatten ++ S.strag.flatten)
    (ht : k.takes data.length) : exec (.collQuery c) s = .next (s.reported k [S.strag.length] data) := by
  subst hS hd
  show execCollQuery c s = _
  rw [execCollQuery, runCmd_next h]
  dsimp only
  rw [if_neg (by simp [hz, hf])]
  exact congrArg _ (State.finishData_reported h _ ht)

/-! ### COLL_SUBSTITUTE (05 R175) -/

theorem bit_beq_one (b : Bool) : (bit b == 1) = b := by cases b <;> rfl

theorem bit_le_one (b : Bool) : bit b ≤ 1 := by cases b <;> decide

/-- A substitution of rank r of slot S by the entry e of member m is out of order. -/
def Slot.substituteBad (S : Slot) (r : Nat) (m : Member) (e : List Byte) : Prop :=
  S.state ≠ .bound ∨ S.isLocal r = false ∨ m.rank ≠ r ∨ memberEntryOk S.bind e = false

section
variable {S : Slot} {r : Nat} {m : Member} {e : List Byte} {now : Bool} (h : s.carries 0x0304 c k) (hl : l = fieldAt k.params 0 1)
  (hS : S = s.slot l) (hnow : fieldAt k.params 1 1 = bit now) (hr : r = fieldAt k.params 2 2) (he : e = slice k.params 4 32)
  (hm : m = parseMember e)
include h hl hS hnow hr he hm

omit hnow in
theorem collSubstitute_badParam (hb : S.substituteBad r m e) : exec (.collSubstitute c) s = .next ((s.take c).finish c stBadParam) := by
  subst hm he hr hS hl
  show execCollSubstitute c s = _
  rw [execCollSubstitute, runCmd_next h]
  dsimp only
  rw [if_pos]
  simp only [Bool.or_eq_true, decide_eq_true_eq, Bool.not_eq_true', or_assoc]
  exact .inr hb

/-- A substitution in order needs a route that is up and a stream queue for the port that it leaves by. -/
theorem collSubstitute_next (hb : ¬ S.substituteBad r m e) :
    exec (.collSubstitute c) s = .next (
      if s.routeUp m.route = false then (s.take c).finish c stNoFit
      else (if S.queues.any (fun q => q.1 == fieldAt m.route 1 1 % 64) then some ([], s.take c)
          else (s.take c).takeSlotQueues l S.bind [fieldAt m.route 1 1 % 64]).elim ((s.take c).finish c stNoFit) fun x =>
        ((if now then x.2.abortSteps l stRetry S.uncommitted none else x.2).modSlot l fun S' => { S' with
          queues := S'.queues ++ x.1
          members := S'.members.map fun y => if y.rank = r then { m with since := S.effStep now, old := y.entry :: y.old } else y }).finish c
            stOk [S.effStep now]) := by
  subst hm he hr hS hl
  show execCollSubstitute c s = _
  rw [execCollSubstitute, runCmd_next h]
  have hup (r : List Byte) : (s.take c).routeUp r = s.routeUp r := rfl
  dsimp only
  rw [State.take_slot', hnow, bit_beq_one, if_neg]
  · generalize (ite (α := Option (List (Nat × Nat) × State)) (List.any _ _ = true) _ _) = x
    simp only [Bool.not_eq_true', hup]
    cases x <;> rfl
  · simp only [Bool.or_eq_true, decide_eq_true_eq, Bool.not_eq_true', or_assoc, Nat.not_lt.2 (bit_le_one now), false_or]
    exact hb

end
end

/-! ### The obligation -/

/-- Settles O48: each command completes as its checks, in their order, and its reservations say. -/
theorem slotsAreBoundQueriedAndSubstituted : Obligations.SlotsAreBoundQueriedAndSubstituted := by
  unfold Obligations.SlotsAreBoundQueriedAndSubstituted
  refine ⟨fun s c l k m n o h hl => ⟨fun T b s0 hop hT hb hs0 => ?bind, fun S hop hS => ?unbind⟩,
    fun s c k => ⟨fun S h hS => ?query, fun l S r m e now h hl hS hnow hr he hm => ?substitute⟩⟩
  case bind =>
    rw [collBind_next h hl hop hT hb hs0]
    refine ⟨fun hbad => by rw [if_pos hbad], fun hok => ?_⟩
    rw [if_neg (by simp [hok])]
    refine ⟨fun hgone => by rw [if_pos hgone], fun hctx hloaded => ?_⟩
    rw [if_neg (by simp [hctx, hloaded])]
    refine ⟨fun hused => by rw [if_pos hused], fun hfree r hr => ?_⟩
    rw [if_neg (by simp [hfree]), ← hr]
    exact ⟨fun S s1 hgot => by rw [hgot]; rfl, fun w hwait => by rw [hwait]; rfl, fun hno => by rcases hno with rfl | rfl <;> rfl⟩
  case unbind =>
    refine ⟨fun hused hz51 hz80 hflags => ?_, collUnbind_badParam h hl hop hS⟩
    rw [collUnbind_next h hl hop hS (by simp [Slot.unbindBad, hused, hz51, hz80, hflags])]
    exact ⟨fun hdone => by rw [if_neg fun ⟨hbufs, hopen⟩ => hdone.elim hbufs fun hshut => by simp [hshut] at hopen],
      fun hbufs hopen => by rw [if_pos ⟨hbufs, hopen⟩]⟩
  case query =>
    refine ⟨fun data hz hused hd ht => collQuery_reported h hS hz hused hd ht, fun hbad => collQuery_badParam h ?_⟩
    rwa [← hS]
  case substitute =>
    refine ⟨fun hbound hlocal hrank hentry => ?_, collSubstitute_badParam h hl hS hr he hm⟩
    rw [collSubstitute_next h hl hS hnow hr he hm (by simp [Slot.substituteBad, hbound, hlocal, hrank, hentry])]
    exact ⟨fun hup q s1 hq => by rw [if_neg (by simp [hup]), hq]; rfl, fun hdown => by rw [if_pos hdown]⟩

end Sys2Proof.Machine

end

section

/-! The rows that receive collective packets (05 R140 to R144, R157, R158, R171, R176, R403): drops, and what each kind that passes its checks
does. -/

namespace Sys2Proof.Machine

/-! ### Taking a packet out of its queue -/

@[simp] theorem State.release_slot' (s : State) (p : Pkt) (u : Nat) : (s.release p).slot u = s.slot u := by
  unfold State.release
  split <;> rfl

@[simp] theorem State.release_t3' (s : State) (p : Pkt) : (s.release p).t3 = s.t3 := by
  unfold State.release
  split <;> rfl

/-- A step is found by its slot, and an empty one begins now. -/
theorem State.stepOf_congr {s s' : State} {l : Nat} (hs : s'.slot l = s.slot l) (ht : s'.t3 = s.t3) (n : Nat) : s'.stepOf l n = s.stepOf l n := by
  rw [State.stepOf, State.stepOf, hs, ht]

section
variable {s : State} {t : Nat} {p : Pkt} {kinds : Nat → Bool} {act : Nat → Pkt → CPrefix → State → State}

/-- A packet that fails the checks is dropped and counted under the reason (05 R143). -/
theorem onReceive_refused {why : Nat} (ht : t < 192) (hl : s.live = true) (hw : s.dev.state ≠ .wedged) (hp : s.collHead t = some p)
    (hr : s.refuses p (readPrefix p.payload) = some why) (hk : kinds (readPrefix p.payload).kind = true) :
    onReceive t s kinds act =
      .next (((s.release p).modT t fun T => { T with recvQ := T.recvQ.tail }).collDrop p.slotNo why) := by
  rw [onReceive, onUnit_next (decide_eq_true ht) hl]
  simp only [hp, hr, hk, hw, Bool.not_true, Bool.false_or, decide_false, Bool.false_eq_true, if_false]

/-- A WEDGED device receives nothing (05 R176). -/
theorem onReceive_wedged (ht : t < 192) (hw : s.dev.state = .wedged) : onReceive t s kinds act = .next s := by
  unfold onReceive onUnit
  cases s.collHead t <;> simp [ht, hw]

end

/-- The rows that receive packets, each taking a kind of its own: what holds of every such row holds of each of them. -/
theorem exec_receiveRows (s : State) (t : Nat) {P : Nat → Host.Outcome State Fault Refusal → Prop}
    (h : ∀ kinds act k, kinds k = true → P k (onReceive t s kinds act)) :
    P kContrib (exec (.contribReceive t) s) ∧ P kCount (exec (.countReceive t) s) ∧ P kPartial (exec (.partialReceive t) s) ∧
    P kResult (exec (.resultReceive t) s) ∧ P kAbort (exec (.stepAbortReceive t) s) ∧ P kReplay (exec (.stepReplayReceive t) s) ∧
    P kRequest (exec (.resultRequestReceive t) s) := by
  show P kContrib (execContribReceive t s) ∧ P kCount (execCountReceive t s) ∧ P kPartial (execPartialReceive t s) ∧
    P kResult (execResultReceive t s) ∧ P kAbort (execStepAbortReceive t s) ∧ P kReplay (execStepReplayReceive t s) ∧
    P kRequest (execResultRequestReceive t s)
  exact ⟨h _ _ _ rfl, h _ _ _ rfl, h _ _ _ rfl, h _ _ _ rfl, h _ _ _ rfl, h _ _ _ rfl, h _ _ _ rfl⟩

/-- A contribution for a user operator goes to its program, but for one of a member replaced or one already held (05 R171). -/
theorem contribReceive_user {s s1 : State} {t l : Nat} {p : Pkt} {c : CPrefix} (ht : t < 192) (hl : s.live = true) (hw : s.dev.state ≠ .wedged)
    (hp : s.collHead t = some p) (hc : c = readPrefix p.payload) (hslot : l = p.slotNo) (hr : s.refuses p c = none)
    (hu : (s.slot l).bind.user = true) (hk : c.kind = kContrib) (hs1 : s1 = (s.release p).modT t fun T => { T with recvQ := T.recvQ.tail }) :
    exec (.contribReceive t) s = .next (
      if (s1.slot l).fromReplaced p c = true then s1.protoDrop l
      else if (s1.stepOf l c.step).holds c = true then s1.dupDrop l
      else (s.modT t fun T => { T with recvQ := { p with origin := 1 } :: T.recvQ.tail }).takeIn l p c none) := by
  have hS : s1.slot l = s.slot l := by rw [hs1, State.modT_slot', State.release_slot']
  have hstep : s1.stepOf l c.step = s.stepOf l c.step := State.stepOf_congr hS (by rw [hs1, State.modT_t3', State.release_t3']) _
  have hlisted : (s.slot l).userListed p c = true := by rw [Slot.userListed, hk]; rfl
  rw [hS, hstep]
  show execContribReceive t s = _
  rw [execContribReceive, onReceive, onUnit_next (decide_eq_true ht) hl]
  subst hc hslot hs1
  simp only [hp, hr, hk, hw, hu, hlisted, beq_self_eq_true, Bool.true_or, Bool.not_true, Bool.false_or, decide_false, Bool.false_eq_true,
    if_false, if_true]

/-! ### Joining a step (05 R143) -/

section
variable {s : State} {l : Nat} {p : Pkt} {c : CPrefix} {i : Option Nat} {ok : Bool}

theorem State.admitPacket_of_bad (h : ok = false ∨ (s.slot l).bind.chunkOk (s.stepOf l c.step) p c = false) :
    s.admitPacket l p c i ok = s.protoDrop l := by
  rw [State.admitPacket, if_pos (by simpa using h)]

theorem State.admitPacket_of_ok (hok : ok = true) (hc : (s.slot l).bind.chunkOk (s.stepOf l c.step) p c = true) :
    s.admitPacket l p c i ok = if (s.stepOf l c.step).holds c then s.dupDrop l else (s.takeIn l p c i).progress l c.step := by
  rw [State.admitPacket, if_neg (by simp [hok, hc])]

end

/-! ### What each kind does -/

section
variable {s s1 : State} {t l : Nat} {p : Pkt} {c : CPrefix} (h : s.accepts t l p c s1)
include h

/-- A contribution joins its step, or aborts it with BAD_PARAM where it grows beyond n_max (05 R156). -/
theorem contribReceive_next (hk : c.kind = kContrib) :
    exec (.contribReceive t) s = .next (
      if s1.contribOk l p c && (s1.slot l).bind.chunkOk (s1.stepOf l c.step) p c && !(s1.stepOf l c.step).holds c &&
          s1.tooMuch l c (collData p c) then
        (s1.takeIn l p c none).abortSteps l stBadParam [c.step] none
      else s1.admitPacket l p c none (s1.contribOk l p c)) := by
  show execContribReceive t s = _
  rw [execContribReceive, onReceive_next h (by rw [hk]; rfl)]
  simp only [hk, beq_self_eq_true, Bool.true_and]

/-- A count of a local rank that comes back round a ring is a duplicate (05 R143). -/
theorem countReceive_localRound (hk : c.kind = kCount) (hl : (s1.slot l).isLocal c.rank = true) (hx : (s1.slot l).bind.xtopo = 2)
    (hc : (s1.slot l).bind.counts = true) (hm : (s1.slot l).bind.memberCounts = false) (hn : (s1.slot l).nbrOnPort p ≠ none) :
    exec (.countReceive t) s = .next (s1.dupDrop l) := by
  show execCountReceive t s = _
  rw [execCountReceive, onReceive_next h (by rw [hk]; rfl)]
  dsimp only
  rw [if_pos hl, if_pos (by simp [hx, hc, hm, Option.isSome_iff_ne_none, hn])]

/-- The count of a member for OP_MOE_DISPATCH joins its step and is not passed on as it is (05 R158). -/
theorem countReceive_dispatch (hk : c.kind = kCount) (hl : (s1.slot l).isLocal c.rank = true) (ho : (s1.slot l).bind.op = opDispatch)
    (hx : (s1.slot l).bind.xtopo ≠ 2 ∨ (s1.slot l).bind.memberCounts = true) :
    exec (.countReceive t) s = .next (s1.admitPacket l p c none ((s1.slot l).bind.memberCounts && (s1.slot l).memberOk p c)) := by
  have hround : ((s1.slot l).bind.xtopo = 2 && (s1.slot l).bind.counts && !(s1.slot l).bind.memberCounts && ((s1.slot l).nbrOnPort p).isSome) =
      false := by
    rcases hx with h2 | hm
    · simp [h2]
    · simp [hm]
  show execCountReceive t s = _
  rw [execCountReceive, onReceive_next h (by rw [hk]; rfl)]
  dsimp only
  rw [if_pos hl, if_neg (by simp [hround]), if_pos (by simp [ho])]

/-- A count of another device's rank that joins its step goes on to the other neighbours (05 R157). -/
theorem countReceive_remote {i : Option Nat} {s2 : State} (hi : i = (s1.slot l).senderOf c) (hk : c.kind = kCount)
    (hl : (s1.slot l).isLocal c.rank = false) (hn : (s1.stepOf l c.step).holds c = false)
    (hs2 : s2 = s1.admitPacket l p c i
      ((s1.slot l).bind.counts && i.isSome && decide (c.rank < (s1.slot l).bind.gsize) && !(s1.slot l).fromMember p)) :
    exec (.countReceive t) s = .next (
      if (s2.stepOf l c.step).holds c then ((s1.slot l).countTargets.filter fun j => some j != i).foldl
        (fun s j => s.slotSend l (4096 + j) { c with slot := 0, gen := 0 } (collData p c)) s2
      else s2) := by
  subst hs2 hi
  show execCountReceive t s = _
  rw [execCountReceive, onReceive_next h (by rw [hk]; rfl)]
  simp only [hl, hn, Bool.not_false, Bool.true_and, Bool.false_eq_true, if_false]

theorem partialReceive_next (hk : c.kind = kPartial) :
    exec (.partialReceive t) s = .next (s1.admitPacket l p c ((s1.slot l).senderOf c)
      ((s1.slot l).bind.xtopo != 0 && ((s1.slot l).senderOf c).isSome &&
        (if (s1.slot l).bind.reducing then
          (if s1.arrivalOrder then c.tag == nodeTag 15 0
           else decide ((tagNode c.tag).1 ≤ treeHeight (s1.slot l).bind.gsize) &&
            decide ((tagNode c.tag).2 * 2 ^ (tagNode c.tag).1 < (s1.slot l).bind.gsize))
         else decide (c.tag < (s1.slot l).bind.gsize)) &&
        !(s1.slot l).fromMember p && ((s1.slot l).bind.scaled || !c.flags.testBit 0 || c.flags.testBit 2 == s1.lineageOn l))) := by
  show execPartialReceive t s = _
  rw [execPartialReceive, onReceive_next h (by rw [hk]; rfl)]

theorem resultReceive_next (hk : c.kind = kResult) :
    exec (.resultReceive t) s = .next ((s1.admitPacket l p c ((s1.slot l).senderOf c)
      ((s1.slot l).bind.xtopo != 0 && ((s1.slot l).senderOf c).isSome && !s1.computes l && !(s1.slot l).fromMember p &&
        ((s1.slot l).bind.xtopo == 1 || (decide (c.seg < (s1.slot l).bind.ringSize) && c.seg != (s1.slot l).bind.ringPos)))).ringFlow l
          c.step) := by
  show execResultReceive t s = _
  rw [execResultReceive, onReceive_next h (by rw [hk]; rfl)]

end

/-! ### The obligation -/

/-- Settles O49: a row drops the packet that its checks refuse, and else does what its kind does. -/
theorem collectivePacketsAreTakenOnce : Obligations.CollectivePacketsAreTakenOnce := by
  unfold Obligations.CollectivePacketsAreTakenOnce
  refine ⟨fun s t p why ht hl hw hp hr s1 hs1 => ?refused, fun s t ht hw => ?wedged, fun s l p c i ok => ⟨State.admitPacket_of_bad, ?joins⟩,
    fun s s1 t l p c h S i hS hi => ?taken, fun s t l p c ht hl hw hp hc hslot hr hu hk s1 hs1 => ?user⟩
  case refused =>
    exact exec_receiveRows s t (P := fun k o => (readPrefix p.payload).kind = k → o = .next s1) fun kinds act k hkinds hk =>
      hs1 ▸ onReceive_refused ht hl hw hp hr (hk ▸ hkinds)
  case wedged => exact exec_receiveRows s t (P := fun _ o => o = .next s) fun kinds act k _ => onReceive_wedged ht hw
  case joins =>
    intro hok hc
    rw [State.admitPacket_of_ok hok hc]
    exact ⟨fun hheld => by rw [if_pos hheld], fun hnew => by rw [if_neg (by simp [hnew])]⟩
  case taken =>
    subst hS hi
    refine ⟨fun hk d hd => ?contrib, fun hk hl => ⟨countReceive_localRound h hk hl, countReceive_dispatch h hk hl⟩,
      fun s2 hk hl hn hs2 => ?remote, fun hk hred => ?leaf, fun hk hred ha => ?node, resultReceive_next h⟩
    case contrib =>
      rw [contribReceive_next h hk, ← hd]
      exact ⟨fun hfits => by rw [if_neg (by simp [hfits])], fun hgrows => by rw [if_pos hgrows]⟩
    case remote =>
      rw [countReceive_remote h rfl hk hl hn hs2]
      exact ⟨fun hjoined => by rw [if_pos hjoined], fun hnot => by rw [if_neg (by simp [hnot])]⟩
    case leaf => rw [partialReceive_next h hk, if_neg (by simp [hred])]
    case node => rw [partialReceive_next h hk, if_pos hred, if_pos ha]
  case user =>
    rw [contribReceive_user ht hl hw hp hc hslot hr hu hk hs1]
    exact ⟨fun hrep => by rw [if_pos hrep], fun hrep hheld => by rw [if_neg (by simp [hrep]), if_pos hheld],
      fun hrep hnew => by rw [if_neg (by simp [hrep]), if_neg (by simp [hnew])]⟩

end Sys2Proof.Machine

end

section

/-! Commit, timeout and repair of steps (05 R144, R152 to R155, R176). -/

namespace Sys2Proof.Machine

/-! ### Commit and timeout (05 R152, R155) -/

section
variable {s : State} {l : Nat} {st : StepSt} {S : Slot} (hl : l < 256) (hv : s.live = true) (hS : S = s.slot l) (hb : S.state = .bound)
  (hw : s.dev.state ≠ .wedged)
include hl hv hS hb hw

/-- The lowest uncommitted step, once it is ready and nothing waits to be replayed, commits in time, but for one whose outputs do not fit; the
steps of a user operator have neither limit (05 R171). -/
theorem stepCommit_next (hf : S.steps.find? (fun x => x.num == S.sLow) = some st) (hq : S.replayQ = []) (hr : s.stepReady l st = true) :
    exec (.stepCommit l) s = .next (
      if S.bind.user = true then s.commitStep l st
      else if s.stepLate l st = true then s
      else if s.outputsBad l st = true then s.abortSteps l stBadParam [st.num] none
      else s.commitStep l st) := by
  subst hS
  show execStepCommit l s = _
  rw [execStepCommit, onUnit_next (decide_eq_true hl) hv]
  simp only [hf, hq, hr, hb, hw, List.isEmpty_nil, ne_eq, not_true_eq_false, decide_false, Bool.not_true, Bool.or_false, Bool.false_eq_true, if_false]
  cases (s.slot l).bind.user <;> simp

theorem stepTimeout_late {n : Nat} (hu : S.bind.user = false) (hf : S.steps.find? (fun x => x.num == n) = some st)
    (hlate : s.stepLate l st = true) :
    exec (.stepTimeout l n) s = .next (s.abortSteps l stTimeout (S.uncommitted.filter fun k => decide (n ≤ k)) none) := by
  subst hS
  show execStepTimeout l n s = _
  rw [execStepTimeout, onUnit_next (decide_eq_true hl) hv]
  simp only [hf, hb, hu, hlate, hw, ne_eq, not_true_eq_false, decide_false, Bool.not_true, Bool.or_self, Bool.false_eq_true, if_false]

end

/-! ### Aborts, replays and requests (05 R144, R153 to R155) -/

section
variable {s s1 : State} {t l : Nat} {p : Pkt} {c : CPrefix} {S : Slot} (h : s.accepts t l p c s1) (hS : S = s1.slot l)
include h hS

/-- An abort of a neighbour aborts its step here unless it already has been, and after a timeout every later one. -/
theorem stepAbortReceive_next {later : List Nat} (hk : c.kind = kAbort)
    (hlater : later = if c.status = stTimeout then S.uncommitted.filter fun n => decide (c.step < n) else []) :
    exec (.stepAbortReceive t) s = .next ((S.nbrOnPort p).elim (s1.protoDrop l) fun i =>
      s1.abortSteps l c.status (if S.aborted.contains c.step then later else c.step :: later) (some (4096 + i))) := by
  subst hS hlater
  show execStepAbortReceive t s = _
  rw [execStepAbortReceive, onReceive_next h (by rw [hk]; rfl)]
  dsimp only
  cases (s1.slot l).nbrOnPort p <;> rfl

theorem stepReplayReceive_next (hk : c.kind = kReplay) :
    exec (.stepReplayReceive t) s = .next ((S.nbrOnPort p).elim (s1.protoDrop l) (s1.resendTo l c.step)) := by
  subst hS
  show execStepReplayReceive t s = _
  rw [execStepReplayReceive, onReceive_next h (by rw [hk]; rfl)]
  cases (s1.slot l).nbrOnPort p <;> rfl

/-- A request of a member is answered with the kept results of a committed step, or with DELIVERY_LOST, and not at all before the step's
result is there. -/
theorem resultRequestReceive_next (hk : c.kind = kRequest) :
    exec (.resultRequestReceive t) s = .next (
      if S.memberOk p c = false then s1.protoDrop l
      else if S.sLow ≤ c.step ∨ S.ring.any (fun x => x.num == c.step) = true then s1
      else (S.kept.find? fun k => k.num == c.step && !k.lost).elim
        (s1.slotSendAll l { kind := kAbort, status := stDeliveryLost, step := c.step } [c.rank]) fun q =>
          s1.releaseAll l c.step false ((q.outs.filter fun o => o.1 == c.rank).map fun o => (o.1, o.1, o.2))) := by
  subst hS
  show execResultRequestReceive t s = _
  rw [execResultRequestReceive, onReceive_next h (by rw [hk]; rfl)]
  simp only [Bool.not_eq_true', Bool.or_eq_true, decide_eq_true_eq]
  cases (s1.slot l).kept.find? _ <;> rfl

end

/-! ### The obligation -/

/-- Settles O50: each row does what the state of its step, and who sent its packet, says. -/
theorem stepsCommitTimeOutAndAreRepaired : Obligations.StepsCommitTimeOutAndAreRepaired := by
  unfold Obligations.StepsCommitTimeOutAndAreRepaired
  refine ⟨fun s l st S hl hv hS hb hw => ⟨fun hf hq hr => ?commit, fun n => stepTimeout_late hl hv hS hb hw⟩,
    fun s s1 t l p c S h hS => ⟨fun i later hk hi hlater => ?abort, fun hk hi => ?strangeAbort, fun i hk hi => ?replay, fun hk hi => ?strangeReplay,
      fun hk hm => ?replaced, fun hk hm hearly => ?early, fun hk hm hstep hring => ?answer⟩⟩
  case commit =>
    rw [stepCommit_next hl hv hS hb hw hf hq hr]
    exact ⟨fun hu hlate => by rw [if_neg (by simp [hu]), if_neg (by simp [hlate])], fun hu => by rw [if_pos hu]⟩
  case abort => rw [stepAbortReceive_next h hS hk hlater, hi, Option.elim_some]
  case strangeAbort => rw [stepAbortReceive_next h hS hk rfl, hi, Option.elim_none]
  case replay => rw [stepReplayReceive_next h hS hk, hi, Option.elim_some]
  case strangeReplay => rw [stepReplayReceive_next h hS hk, hi, Option.elim_none]
  case replaced => rw [resultRequestReceive_next h hS hk, if_pos hm]
  case early => rw [resultRequestReceive_next h hS hk, if_neg (by simp [hm]), if_pos hearly]
  case answer =>
    rw [resultRequestReceive_next h hS hk, if_neg (by simp [hm]), if_neg (by simp [hring, hstep])]
    exact ⟨fun q hq => by rw [hq, Option.elim_some], fun hgone => by rw [hgone, Option.elim_none]⟩

end Sys2Proof.Machine

end

section

/-! The Gleaner, telemetry windows and the Almanac (06 R200, R201; 07 R223; 10 R296; 13 R367, R370). -/

namespace Sys2Proof.Machine

/-- An event that nothing calls for leaves the state as it is (log 2). -/
theorem onEvent_idle {due : Bool} {s s' : State} (h : due = false) : onEvent due s s' = .next s := by simp [onEvent, h]

/-! ### The Gleaner (06 R201) -/

section
variable {s : State}

theorem gleanerPassStart_due (hl : s.live = true) (he : s.dev.gleanerCfg.getLsbD 14 = true) (hg : s.fab.gleaning = false)
    (hn : s.fab.gleanNext ≤ s.now) :
    exec .gleanerPassStart s =
      .next (s.modFab fun b => { b with gleaning := true, gleanNext := s.now + s.gleanPeriod, stranded := b.stranded.map fun x => (x.1, x.2 + 1) }) :=
  onEvent_next (by simp [hl, he, hg, hn])

theorem gleanerPassStart_early (hn : s.now < s.fab.gleanNext) : exec .gleanerPassStart s = .next s :=
  onEvent_idle (by simp [hn])

theorem gleanerPassEnd_running {s1 : State} (hl : s.live = true) (hg : s.fab.gleaning = true)
    (hs1 : s1 = (s.modFab fun b => { b with gleaning := false, stranded := b.stranded.filter fun x => decide (x.2 < 2) }).count ctrGleanPasses 1) :
    exec .gleanerPassEnd s = .next ((s.fab.stranded.filter fun x => decide (2 ≤ x.2)).foldl (fun s x => s.glean x.1)
      (if s.fab.gleanNext ≤ s.now then s1.count ctrGleanLag 1 else s1)) :=
  hs1 ▸ onEvent_next (by simp [hl, hg])

end

/-! ### The telemetry window (07 R223) -/

section
variable {s : State}

theorem State.rollWindow_within (h : s.now < s.dev.telEnd) : s.rollWindow = s := by rw [State.rollWindow, if_pos h]

theorem State.rollWindow_over (h : s.dev.telEnd ≤ s.now) : s.rollWindow = { s with
    dev := { s.dev with telLen := s.dev.telNext, telEnd := (s.now / (s.dev.telNext * 1000) + 1) * (s.dev.telNext * 1000) }
    fab := { s.fab with qPeak := [], winDrops := [], noticed := [] }
    pwr := { s.pwr with winPth := if s.pwr.winN = 0 then 0 else s.pwr.winSum / (s.pwr.winN : Rat), winSum := 0, winN := 0 } } := by
  rw [State.rollWindow, if_neg (Nat.not_lt.2 h)]
  rfl

/-- A new window leaves the packets queued where they are. -/
theorem State.qDepth_rollWindow (s : State) (p v : Nat) : s.rollWindow.qDepth p v = s.qDepth p v := by
  rcases Nat.lt_or_ge s.now s.dev.telEnd with h | h
  · rw [State.rollWindow_within h]
  · rw [State.rollWindow_over h]; rfl

theorem State.rollWindow_take (s : State) (c : Nat) : (s.take c).rollWindow = s.rollWindow.take c := by
  rcases Nat.lt_or_ge s.now s.dev.telEnd with h | h
  · rw [State.rollWindow_within h, State.rollWindow_within (s := s.take c) h]
  · rw [State.rollWindow_over h, State.rollWindow_over (s := s.take c) h]; rfl

/-- A command may be carried out in a new window as in the one before. -/
theorem State.rollWindow_carries {op c : Nat} {k : Cmd} (h : s.carries op c k) : s.rollWindow.carries op c k := by
  rcases Nat.lt_or_ge s.now s.dev.telEnd with hw | hw
  · rwa [State.rollWindow_within hw]
  · rw [State.rollWindow_over hw]; exact h

/-- The first sample of a window whose predecessor is over is its peak. -/
theorem State.qPeak_samplePeak_of_over (h : s.dev.telEnd ≤ s.now) (p v : Nat) :
    SMap.get zeroAt (s.samplePeak p v).fab.qPeak (8 * p + v) = s.qDepth p v := by
  have hempty : s.rollWindow.fab.qPeak = [] := by rw [State.rollWindow_over h]
  simp [State.samplePeak, hempty, State.qDepth_rollWindow, zeroAt]

theorem telemetryWindowBoundary_next (hl : s.live = true) : exec .telemetryWindowBoundary s = .next s.rollWindow := onEvent_next hl

/-! ### TEL_READ and TEL_WINDOW (07 R223; 10 R296) -/

theorem flatten_toLE_length (n : Nat) (l : List Nat) : (l.map (toLE n)).flatten.length = n * l.length := by
  induction l with
  | nil => rfl
  | cons a t ih => rw [List.map_cons, List.flatten_cons, List.length_append, toLE_length, ih, List.length_cons, Nat.mul_succ, Nat.add_comm]

variable {c : Nat} {k : Cmd}

theorem telRead_reported {l : List Nat} (h : s.carries 0x0701 c k) (hz : fieldAt k.params 13 1 = 0)
    (hb : (s.take c).rollWindow.telBlock (fieldAt k.params 12 1) (fieldAt k.params 14 2) = some l) (ht : k.takes (8 + 8 * l.length)) :
    exec (.telRead c) s = .next (s.rollWindow.reported k [] (toLE 8 s.now ++ (l.map (toLE 8)).flatten)) := by
  show execTelRead c s = _
  rw [execTelRead, runCmd_next h, if_pos hz, hb, State.rollWindow_take]
  have hfits : k.takes (toLE 8 s.now ++ (l.map (toLE 8)).flatten).length := by
    rwa [List.length_append, toLE_length, flatten_toLE_length]
  exact congrArg _ (State.finishData_reported (State.rollWindow_carries h) [] hfits)

/-- TEL_WINDOW takes a length of 1 to 1,000,000 µs. -/
theorem telWindow_next (h : s.carries 0x0702 c k) :
    exec (.telWindow c) s = .next (
      if 1 ≤ fieldAt k.params 0 4 ∧ fieldAt k.params 0 4 ≤ 1000000 then
        ((s.take c).rollWindow.modDev fun d => { d with telNext := fieldAt k.params 0 4 }).finish c stOk
      else (s.take c).finish c stBadParam) := by
  show execTelWindow c s = _
  rw [execTelWindow, runCmd_next h]
  simp only [Bool.and_eq_true, decide_eq_true_eq]

/-! ### The Almanac (13 R367, R370) -/

theorem almanacRead_badParam (h : s.carries 0x0703 c k) (hn : fieldAt k.params 16 4 = 0 ∨ 4096 < fieldAt k.params 16 4) :
    exec (.almanacRead c) s = .next ((s.take c).finish c stBadParam) := by
  show execAlmanacRead c s = _
  rw [execAlmanacRead, runCmd_next h]
  dsimp only
  rw [if_pos (by simpa using hn)]

/-- The records asked for are reported beside the lowest sequence held, which is free while no record is (log 51). -/
theorem almanacRead_reported {l : List ARec} {low : Nat} (h : s.carries 0x0703 c k) (hlo : 1 ≤ fieldAt k.params 16 4)
    (hhi : fieldAt k.params 16 4 ≤ 4096) (hlow : low = ((s.alm.recs.head?).map (·.seq)).getD (s.take c).freeNat)
    (hl : l = (s.alm.recs.filter fun r => decide (fieldAt k.params 12 4 ≤ r.seq)).take (fieldAt k.params 16 4))
    (ht : k.takes (l.map fun r => r.bytes ++ r.payload).flatten.length) :
    exec (.almanacRead c) s = .next (s.reported k [l.length, low, s.alm.nextSeq, s.alm.lost] (l.map fun r => r.bytes ++ r.payload).flatten).drawn := by
  subst hl
  show execAlmanacRead c s = _
  rw [execAlmanacRead, runCmd_next h]
  dsimp only
  rw [if_neg (by simp; omega), ← State.finishData_reported h _ ht, hlow, State.take_alm]
  cases s.alm.recs <;> rfl

theorem almanacRecordWrite_waiting {r : ARec} {rest : List ARec} (hl : s.live = true) (hf : s.fwpUp fwpLog = true)
    (hw : s.alm.waiting = r :: rest) :
    exec .almanacRecordWrite s = .next (s.modAlm fun a => { (a.write r) with waiting := rest }) := by
  show execAlmanacRecordWrite s = _
  rw [execAlmanacRecordWrite, onEvent_next (by simp [hl, hf]), hw]

end

/-! ### The obligation -/

/-- Settles O18: the events act once their time has come, and a window that is over gives way to the next before it is read or set. -/
theorem countersAndRecordsAreKept : Obligations.CountersAndRecordsAreKept := by
  unfold Obligations.CountersAndRecordsAreKept
  refine ⟨fun s hl => ⟨gleanerPassStart_due hl, gleanerPassStart_early, fun hg s1 => gleanerPassEnd_running hl hg⟩,
    ⟨fun s c k l => telRead_reported, fun s c k h => ?window, fun s hl => ?boundary⟩,
    fun s c k l low h => ⟨almanacRead_reported h, almanacRead_badParam h⟩, fun s r rest => almanacRecordWrite_waiting⟩
  case window =>
    rw [telWindow_next h]
    exact ⟨fun hin => by rw [if_pos hin], fun hout => by rw [if_neg (by omega)]⟩
  case boundary =>
    rw [telemetryWindowBoundary_next hl]
    exact ⟨fun hin => by rw [State.rollWindow_within hin], fun hover => by rw [State.rollWindow_over hover], State.qPeak_samplePeak_of_over⟩

end Sys2Proof.Machine

end

section

/-! Queues, shapers, policers and early-drop profiles (06 R192, R199; 07 R206 to R209, R212 to R218): how each record in range completes. -/

namespace Sys2Proof.Machine

/-! ### Admission (07 R217, R218) -/

theorem mem_of_mem_dedup {l : List Nat} {a : Nat} : a ∈ dedup l → a ∈ l := by
  suffices hacc : ∀ acc : List Nat, a ∈ l.foldl (fun r x => if r.contains x then r else r ++ [x]) acc → a ∈ acc ∨ a ∈ l from
    fun ha => (hacc [] ha).resolve_left List.not_mem_nil
  induction l with
  | nil => exact fun acc ha => .inl ha
  | cons x t ih =>
    intro acc ha
    rw [List.foldl_cons] at ha
    rcases ih _ ha with hin | hin
    · split at hin
      · exact .inl hin
      · rcases List.mem_append.1 hin with hacc | hx
        · exact .inl hacc
        · exact .inr (List.mem_cons.2 (.inl (List.mem_singleton.1 hx)))
    · exact .inr (List.mem_cons_of_mem _ hin)

/-- A change that leaves the reservations and the admission of every port concerned in order is made. -/
theorem State.admitTo_of_all {s s' : State} {c : Nat} {ports words : List Nat}
    (h : ∀ p ∈ ports, s'.reservationsOk p = true ∧ s'.admissionOk p = true) : s.admitTo s' c ports words = s'.configured.finish c stOk words := by
  have hr : ports.all s'.reservationsOk = true := List.all_eq_true.2 fun p hp => (h p hp).1
  have ha : ports.all s'.admissionOk = true := List.all_eq_true.2 fun p hp => (h p hp).2
  simp [State.admitTo, hr, ha]

/-! ### SQ_CFG (07 R206, R208) -/

/-- An SQ_CFG record keeps its ranges: VC and weight count where it binds, and a release names its queues. -/
structure SqRecordOk (q : List Byte) : Prop where
  sub : fieldAt q 0 1 = 0
  port : fieldAt q 1 1 < 38
  least : 1 ≤ fieldAt q 6 2
  most : fieldAt q 6 2 ≤ 4096
  mode : fieldAt q 8 1 ≤ 1
  zero : allZero (q.drop 9) = true
  bind : fieldAt q 8 1 = 0 → fieldAt q 2 1 ≤ 7 ∧ fieldAt q 3 1 ≠ 0
  release : fieldAt q 8 1 = 1 → fieldAt q 4 2 ≠ 0xFFFF

/-- Queue i would be released, or bound otherwise than it is, by an SQ_CFG record. -/
def State.queueMoves (s : State) (q : List Byte) (i : Nat) : Prop :=
  fieldAt q 8 1 = 1 ∨ (s.sqCfg i).port ≠ fieldAt q 1 1 ∨ (s.sqCfg i).vc ≠ fieldAt q 2 1 ∨ (s.sqCfg i).inUse = false

/-- The queues that an SQ_CFG record names may be configured: all are free or all are of owner 1, and none that would move holds packets or
is mapped. -/
structure State.QueuesOk (s : State) (q : List Byte) : Prop where
  within : fieldAt q 4 2 + fieldAt q 6 2 ≤ 65536
  owned : (∀ i < fieldAt q 6 2, (s.sqCfg (fieldAt q 4 2 + i)).inUse = false) ∨
    ∀ i < fieldAt q 6 2, (s.sqCfg (fieldAt q 4 2 + i)).inUse = true ∧ (s.sqCfg (fieldAt q 4 2 + i)).owner = 1
  still : ∀ i < fieldAt q 6 2, s.queueMoves q (fieldAt q 4 2 + i) →
    s.queueHolds (fieldAt q 4 2 + i) = false ∧ s.mapped (fieldAt q 4 2 + i) = false

section
variable {s : State} {q : List Byte} (hw : fieldAt q 4 2 + fieldAt q 6 2 ≤ 65536)
include hw

theorem State.QueuesOk.of_free (hq : ∀ i < fieldAt q 6 2, (s.sqCfg (fieldAt q 4 2 + i)).inUse = false ∧
      s.queueHolds (fieldAt q 4 2 + i) = false ∧ s.mapped (fieldAt q 4 2 + i) = false) : s.QueuesOk q :=
  ⟨hw, .inl fun i hi => (hq i hi).1, fun i hi _ => (hq i hi).2⟩

theorem State.QueuesOk.of_empty (hq : ∀ i < fieldAt q 6 2, (s.sqCfg (fieldAt q 4 2 + i)).inUse = true ∧
      (s.sqCfg (fieldAt q 4 2 + i)).owner = 1 ∧ s.queueHolds (fieldAt q 4 2 + i) = false ∧ s.mapped (fieldAt q 4 2 + i) = false) :
    s.QueuesOk q :=
  ⟨hw, .inr fun i hi => have ⟨huse, howner, _⟩ := hq i hi; ⟨huse, howner⟩, fun i hi _ => have ⟨_, _, hstill⟩ := hq i hi; hstill⟩

/-- Queues bound as the record says, whatever their weights, do not move. -/
theorem State.QueuesOk.of_bound (h0 : fieldAt q 8 1 = 0) (hq : ∀ i < fieldAt q 6 2, ∃ w, s.sqCfg (fieldAt q 4 2 + i) =
      { port := fieldAt q 1 1, vc := fieldAt q 2 1, inUse := true, weight := w, owner := 1 }) : s.QueuesOk q := by
  refine ⟨hw, .inr fun i hi => ?owned, fun i hi hmoves => ?still⟩
  case owned =>
    obtain ⟨w, hcfg⟩ := hq i hi
    rw [hcfg]
    exact ⟨rfl, rfl⟩
  case still =>
    obtain ⟨w, hcfg⟩ := hq i hi
    simp [State.queueMoves, hcfg, h0] at hmoves

end

section
variable {s : State} {c : Nat} {k : Cmd} (h : s.carries 0x0501 c k)
include h

/-- With the choice left to the device, a run of free queues that is nowhere to be found does not fit. -/
theorem queueConfigSqCfg_noFit (hr : SqRecordOk k.params) (hb : fieldAt k.params 4 2 = 0xFFFF)
    (hf : firstRun (fun i => !(s.sqCfg i).inUse && !s.queueHolds i) (fieldAt k.params 6 2) 65536 0 0 = none) :
    exec (.queueConfigSqCfg c) s = .next ((s.take c).finish c stNoFit) := by
  obtain ⟨hsub, hport, hleast, hmost, hmode, hzero, hbind, hrel⟩ := hr
  have h0 : fieldAt k.params 8 1 = 0 := by omega
  obtain ⟨hvc, hw⟩ := hbind h0
  show execQueueConfigSqCfg c s = _
  rw [execQueueConfigSqCfg, runSub_next h (by simp [hsub])]
  dsimp only
  rw [if_neg (by simp [hsub, hzero, h0, hw]; omega), if_pos (by simp [hb])]
  have hf' : firstRun (fun i => !((s.take c).sqCfg i).inUse && !(s.take c).queueHolds i) (fieldAt k.params 6 2) 65536 0 0 = none := hf
  rw [hf']

/-- Queues that may be configured are released, or bound as the record says. -/
theorem queueConfigSqCfg_next (hr : SqRecordOk k.params) (hb : fieldAt k.params 4 2 ≠ 0xFFFF) (hq : s.QueuesOk k.params) :
    exec (.queueConfigSqCfg c) s = .next (
      if fieldAt k.params 8 1 = 1 then
        ((s.take c).setQueues (fieldAt k.params 4 2) (fieldAt k.params 6 2) fun _ => {}).configured.finish c stOk [fieldAt k.params 4 2]
      else (s.take c).admitTo ((s.take c).setQueues (fieldAt k.params 4 2) (fieldAt k.params 6 2) fun _ =>
          { port := fieldAt k.params 1 1, vc := fieldAt k.params 2 1, inUse := true, weight := fieldAt k.params 3 1, owner := 1 }) c
        (fieldAt k.params 1 1 ::
          dedup (((List.range (fieldAt k.params 6 2)).map (fieldAt k.params 4 2 + ·)).map fun i => (s.sqCfg i).port))
        [fieldAt k.params 4 2]) := by
  obtain ⟨hsub, hport, hleast, hmost, hmode, hzero, hbind, hrel⟩ := hr
  obtain ⟨hwithin, howned, hstill⟩ := hq
  have hcfg (i : Nat) : (s.take c).sqCfg i = s.sqCfg i := rfl
  have hholds (i : Nat) : (s.take c).queueHolds i = s.queueHolds i := rfl
  have hmapped (i : Nat) : (s.take c).mapped i = s.mapped i := rfl
  have hmine : ∀ i < fieldAt k.params 6 2, (s.sqCfg (fieldAt k.params 4 2 + i)).inUse = true → ∀ j < fieldAt k.params 6 2,
      (s.sqCfg (fieldAt k.params 4 2 + j)).inUse = true ∧ (s.sqCfg (fieldAt k.params 4 2 + j)).owner = 1 :=
    fun i hi huse => howned.resolve_left fun hfree => absurd huse (by simp [hfree i hi])
  show execQueueConfigSqCfg c s = _
  rw [execQueueConfigSqCfg, runSub_next h (by simp [hsub])]
  dsimp only
  rw [if_neg (by simp [hsub, hzero, hb]; omega), if_neg (by simpa using hb)]
  dsimp only
  rw [if_neg (by simpa [State.queueMoves, hcfg, hholds, hmapped, or_assoc] using And.intro hwithin (And.intro hmine hstill))]
  simp only [hcfg, beq_iff_eq]

/-- Queues are bound as a record says when what it leaves of the reservations and the admission of every port concerned is in order. -/
theorem queueConfigSqCfg_bound (hr : SqRecordOk k.params) (h0 : fieldAt k.params 8 1 = 0) (hb : fieldAt k.params 4 2 ≠ 0xFFFF)
    (hq : s.QueuesOk k.params) {s1 : State} (hs1 : s1 = (s.take c).setQueues (fieldAt k.params 4 2) (fieldAt k.params 6 2)
      (fun _ => { port := fieldAt k.params 1 1, vc := fieldAt k.params 2 1, inUse := true, weight := fieldAt k.params 3 1, owner := 1 }))
    (hp : ∀ p ∈ fieldAt k.params 1 1 :: (List.range (fieldAt k.params 6 2)).map (fun i => (s.sqCfg (fieldAt k.params 4 2 + i)).port),
      s1.reservationsOk p = true ∧ s1.admissionOk p = true) :
    exec (.queueConfigSqCfg c) s = .next (s1.configured.finish c stOk [fieldAt k.params 4 2]) := by
  rw [queueConfigSqCfg_next h hr hb hq, if_neg (by simp [h0]), ← hs1, List.map_map, State.admitTo_of_all]
  exact fun p hmem => hp p (List.mem_cons.2 ((List.mem_cons.1 hmem).imp_right mem_of_mem_dedup))

/-! ### SQ_MAP, PORT_WDRR and BUF_CLASS_CFG (06 R192; 07 R207, R209) -/

/-- A run of queues bound to (p, v) becomes its map. -/
theorem queueConfigSqMap_ok (hsub : fieldAt k.params 0 1 = 1) (hp : fieldAt k.params 1 1 < 38) (hv : fieldAt k.params 2 1 ≤ 7)
    (hz : fieldAt k.params 3 1 = 0) (hlg : fieldAt k.params 6 1 ≤ 12) (hzero : allZero (k.params.drop 7) = true)
    (hin : fieldAt k.params 4 2 + 2 ^ fieldAt k.params 6 1 ≤ 65536)
    (hq : ∀ i < 2 ^ fieldAt k.params 6 1, (s.sqCfg (fieldAt k.params 4 2 + i)).inUse = true ∧
      (s.sqCfg (fieldAt k.params 4 2 + i)).port = fieldAt k.params 1 1 ∧ (s.sqCfg (fieldAt k.params 4 2 + i)).vc = fieldAt k.params 2 1 ∧
      (s.sqCfg (fieldAt k.params 4 2 + i)).owner ≠ 3) :
    exec (.queueConfigSqMap c) s = .next (((s.take c).modFab fun b => { b with
      sqMap := SMap.set sqMapAt (8 * fieldAt k.params 1 1 + fieldAt k.params 2 1) (fieldAt k.params 4 2, fieldAt k.params 6 1) b.sqMap }).configured.finish
        c stOk) := by
  have hall : ((List.range (2 ^ fieldAt k.params 6 1)).all fun i =>
      let g := (s.take c).sqCfg (fieldAt k.params 4 2 + i)
      g.inUse && g.port == fieldAt k.params 1 1 && g.vc == fieldAt k.params 2 1 && g.owner != 3) = true := by
    refine List.all_eq_true.2 fun i hi => ?_
    obtain ⟨huse, hport, hvc, howner⟩ := hq i (List.mem_range.1 hi)
    have hcfg : (s.take c).sqCfg (fieldAt k.params 4 2 + i) = s.sqCfg (fieldAt k.params 4 2 + i) := rfl
    simp [hcfg, huse, hport, hvc, howner]
  show execQueueConfigSqMap c s = _
  rw [execQueueConfigSqMap, runSub_next h (by simp [hsub])]
  dsimp only at hall ⊢
  rw [hall, if_neg (by simp [hz, hzero]; omega)]

theorem queueConfigPortWdrr_admitTo (hsub : fieldAt k.params 0 1 = 2) (hp : fieldAt k.params 1 1 < 38) (hz : fieldAt k.params 2 2 = 0)
    (hz' : fieldAt k.params 18 2 = 0) (hw : ∀ v < 7, 1 ≤ fieldAt k.params (4 + 2 * v) 2 ∧ fieldAt k.params (4 + 2 * v) 2 ≤ 1023) :
    exec (.queueConfigPortWdrr c) s = .next ((s.take c).admitTo
      ((s.take c).modPort (fieldAt k.params 1 1) fun P => { P with wdrr := (List.range 7).map fun v => fieldAt k.params (4 + 2 * v) 2 }) c
      [fieldAt k.params 1 1] []) := by
  have hany : (((List.range 7).map fun v => fieldAt k.params (4 + 2 * v) 2).any fun x => x == 0 || decide (1023 < x)) = false := by
    simp only [List.any_map, List.any_eq_false, List.mem_range, Function.comp_apply, Bool.or_eq_true, beq_iff_eq, decide_eq_true_eq]
    intro v hv
    have := hw v hv
    omega
  show execQueueConfigPortWdrr c s = _
  rw [execQueueConfigPortWdrr, runSub_next h (by simp [hsub])]
  dsimp only
  rw [hany, if_neg (by simp [hz, hz']; omega)]

theorem queueConfigBufClass_ok (hsub : fieldAt k.params 0 1 = 3) (hp : fieldAt k.params 1 1 < 38) (hcls : fieldAt k.params 2 1 ≤ 15)
    (hz : fieldAt k.params 3 1 = 0) (hzero : allZero (k.params.drop 12) = true) (hmin : 17 ≤ fieldAt k.params 4 4)
    (hle : fieldAt k.params 4 4 ≤ fieldAt k.params 8 4) (hmax : fieldAt k.params 8 4 ≤ 786432) {m : SMap (Nat × Nat)}
    (hm : m = SMap.set bufCfgAt (16 * fieldAt k.params 1 1 + fieldAt k.params 2 1) (fieldAt k.params 4 4, fieldAt k.params 8 4) s.fab.bufCfg)
    (hroom : sumMinima m + s.slotCells ≤ s.poweredCells) :
    exec (.queueConfigBufClass c) s = .next (((s.take c).modFab fun b => { b with bufCfg := m }).configured.finish c stOk) := by
  subst hm
  show execQueueConfigBufClass c s = _
  rw [execQueueConfigBufClass, runSub_next h (by simp [hsub])]
  dsimp only
  rw [if_neg (by simp [hz, hzero]; omega)]
  exact congrArg _ (if_neg (Nat.not_lt.2 hroom))

end

/-! ### Shapers and policers (07 R212 to R216) -/

/-- The state with the shaper of a level written. -/
def State.writeShaper (s : State) (level i : Nat) (v : BitVec 64) : State :=
  if level = 0 then s.modStrShaper i (·.write v) else if level = 1 then s.modSvcShaper i (·.write v) else s.modPortShaper i (·.write v)

/-- The shapers of a level. -/
def shaperCount (level : Nat) : Nat := if level = 0 then 65536 else if level = 1 then 304 else 38

section
variable {s : State} {c : Nat} {k : Cmd}

/-- A record in range is admitted or not for the port of its shaper: an enabled shaper has a rate, and the shapers of VC0 stay enabled. -/
theorem shaperConfig_admitTo {v : BitVec 64} (h : s.carries 0x0502 c k) (hz : fieldAt k.params 1 1 = 0) (hl : fieldAt k.params 0 1 ≤ 2)
    (hi : fieldAt k.params 2 2 < shaperCount (fieldAt k.params 0 1)) (hv : v = BitVec.ofNat 64 (fieldAt k.params 4 8))
    (hres : v.getLsbD 23 = false) (hhigh : v >>> 49 = 0#64) (hrate : v.getLsbD 48 = true → v.extractLsb' 0 23 ≠ 0#23)
    (hvc0 : fieldAt k.params 0 1 = 1 → fieldAt k.params 2 2 % 8 = 0 → v.getLsbD 48 = true) :
    exec (.shaperConfig c) s = .next ((s.take c).admitTo ((s.take c).writeShaper (fieldAt k.params 0 1) (fieldAt k.params 2 2) v) c
      [s.shaperPort (fieldAt k.params 0 1) (fieldAt k.params 2 2)] []) := by
  subst hv
  show execShaperConfig c s = _
  rw [execShaperConfig, runCmd_next h]
  dsimp only
  rw [if_neg]
  · rfl
  · simpa [shaperCount, hz, hhigh, and_assoc] using And.intro hl (And.intro hi (And.intro hres (And.intro hrate hvc0)))

/-- A shaper in range is written when that leaves the reservations and the admission of its port in order. -/
theorem shaperConfig_ok {v : BitVec 64} {s1 : State} {p : Nat} (h : s.carries 0x0502 c k) (hz : fieldAt k.params 1 1 = 0)
    (hv : v = BitVec.ofNat 64 (fieldAt k.params 4 8)) (hres : v.getLsbD 23 = false) (hhigh : v >>> 49 = 0#64)
    (hrate : v.getLsbD 48 = true → v.extractLsb' 0 23 ≠ 0#23) (hp : p = s.shaperPort (fieldAt k.params 0 1) (fieldAt k.params 2 2))
    (hr : s1.reservationsOk p = true) (ha : s1.admissionOk p = true) (hl : fieldAt k.params 0 1 ≤ 2)
    (hi : fieldAt k.params 2 2 < shaperCount (fieldAt k.params 0 1))
    (hvc0 : fieldAt k.params 0 1 = 1 → fieldAt k.params 2 2 % 8 = 0 → v.getLsbD 48 = true)
    (hs1 : s1 = (s.take c).writeShaper (fieldAt k.params 0 1) (fieldAt k.params 2 2) v) :
    exec (.shaperConfig c) s = .next (s1.configured.finish c stOk) := by
  rw [shaperConfig_admitTo h hz hl hi hv hres hhigh hrate hvc0, ← hs1, ← hp, State.admitTo_of_ok hr ha]

theorem policerConfig_admitTo (h : s.carries 0x0503 c k) (hz : fieldAt k.params 2 2 = 0)
    (hok : policerOk (BitVec.ofNat 128 (fieldAt k.params 4 16)) = true) :
    exec (.policerConfig c) s = .next ((s.take c).admitTo
      ((s.take c).modPolicer (fieldAt k.params 0 2) (·.write (BitVec.ofNat 128 (fieldAt k.params 4 16)))) c
      [(s.sqCfg (fieldAt k.params 0 2)).port] []) := by
  show execPolicerConfig c s = _
  rw [execPolicerConfig, runCmd_next h]
  dsimp only
  rw [if_neg (by simp [hz, hok])]
  rfl

/-! ### Early-drop profiles (06 R199) -/

/-- A map with n values written from a key on. -/
theorem SMap.get_setRange {α : Type} [DecidableEq α] (d : Nat → α) (first : Nat) (v : Nat → α) (n : Nat) (m : SMap α) (e : Nat) :
    SMap.get d ((List.range n).foldl (fun m i => SMap.set d (first + i) (v i) m) m) e =
      if first ≤ e ∧ e < first + n then v (e - first) else SMap.get d m e := by
  induction n with
  | zero => rw [if_neg (by omega)]; rfl
  | succ n ih =>
    rw [List.range_succ, List.foldl_append, List.foldl_cons, List.foldl_nil, SMap.get_set, ih]
    by_cases he : e = first + n
    · rw [if_pos he, if_pos (by omega), he, Nat.add_sub_cancel_left]
    · rw [if_neg he]
      by_cases hin : first ≤ e ∧ e < first + n
      · rw [if_pos hin, if_pos (by omega)]
      · rw [if_neg hin, if_neg (by omega)]

/-- The early-drop profiles with the three colours of profile n written from a record. -/
def redWritten (n : Nat) (params : List Byte) (m : SMap (BitVec 64)) : SMap (BitVec 64) :=
  (List.range 3).foldl (fun m i => SMap.set zeroBits (4 * n + i) (BitVec.ofNat 64 (fieldAt params (4 + 8 * i) 8)) m) m

theorem get_redWritten (n : Nat) (params : List Byte) (m : SMap (BitVec 64)) (e : Nat) :
    SMap.get zeroBits (redWritten n params m) e =
      if e / 4 = n ∧ e % 4 < 3 then BitVec.ofNat 64 (fieldAt params (4 + 8 * (e % 4)) 8) else SMap.get zeroBits m e := by
  rw [redWritten, SMap.get_setRange]
  by_cases he : e / 4 = n ∧ e % 4 < 3
  · rw [if_pos he, if_pos (by omega), show e - 4 * n = e % 4 by omega]
  · rw [if_neg he, if_neg (by omega)]

section
variable (h : s.carries 0x0504 c k)
include h

theorem wredProfileProfile_ok (hsub : fieldAt k.params 0 1 = 0) (hlo : 1 ≤ fieldAt k.params 1 1) (hhi : fieldAt k.params 1 1 ≤ 15)
    (hz : fieldAt k.params 2 2 = 0) (hred : ∀ i < 3, redOk (BitVec.ofNat 64 (fieldAt k.params (4 + 8 * i) 8)) = true) :
    exec (.wredProfileProfile c) s = .next (((s.take c).modFab fun b =>
      { b with red := redWritten (fieldAt k.params 1 1) k.params s.fab.red }).configured.finish c stOk) := by
  show execWredProfileProfile c s = _
  rw [execWredProfileProfile, runSub_next h (by simp [hsub])]
  dsimp only
  rw [if_neg (by simp [hsub, hz, hred 0 (by decide), hred 1 (by decide), hred 2 (by decide)]; omega)]
  rfl

theorem wredProfilePortVcRed_ok (hsub : fieldAt k.params 0 1 = 1) (hp : fieldAt k.params 1 1 < 38) (hz : fieldAt k.params 2 2 = 0)
    (hzero : allZero (k.params.drop 12) = true) (hvc0 : (BitVec.ofNat 64 (fieldAt k.params 4 8)).extractLsb' 0 4 = 0#4)
    (hvc7 : (BitVec.ofNat 64 (fieldAt k.params 4 8)).extractLsb' 56 4 = 0#4) :
    exec (.wredProfilePortVcRed c) s = .next (((s.take c).modPort (fieldAt k.params 1 1) fun P =>
      { P with vcRed := BitVec.ofNat 64 (fieldAt k.params 4 8) }).configured.finish c stOk) := by
  show execWredProfilePortVcRed c s = _
  rw [execWredProfilePortVcRed, runSub_next h (by simp [hsub])]
  dsimp only
  rw [if_neg (by simp [hz, hzero, hvc0, hvc7]; omega)]

end
end

/-! ### The obligation -/

/-- Settles O20: each record in range writes what it names, and is admitted where the ports concerned allow it. -/
theorem queuesShapersAndPoliciesAreConfigured : Obligations.QueuesShapersAndPoliciesAreConfigured := by
  unfold Obligations.QueuesShapersAndPoliciesAreConfigured
  refine ⟨fun s c k => ⟨?bind, ?noFit, ?release, ?map, ?wdrr, ?bufClass⟩, fun s c k => ⟨?shaper, ?policer, ?profile, ?vcRed⟩⟩
  case bind =>
    intro h hsub hp hv hw hlo hin hb hhi h0 hzero hq s1
    have hr : SqRecordOk k.params := ⟨hsub, hp, hlo, hhi, by omega, hzero, fun _ => ⟨hv, hw⟩, fun _ => hb⟩
    exact queueConfigSqCfg_bound h hr h0 hb (hq.elim (.of_free hin) (.of_bound hin h0))
  case noFit =>
    intro h hsub hp hv hw hlo hhi hb h0 hzero
    exact queueConfigSqCfg_noFit h ⟨hsub, hp, hlo, hhi, by omega, hzero, fun _ => ⟨hv, hw⟩, by omega⟩ hb
  case release =>
    intro h hsub hp hlo hin hb hhi h1 hzero hq
    rw [queueConfigSqCfg_next h ⟨hsub, hp, hlo, hhi, by omega, hzero, by omega, fun _ => hb⟩ hb (.of_empty hin hq), if_pos h1]
  case map => exact queueConfigSqMap_ok
  case wdrr =>
    intro h hsub hp hz hz' hw s1 hs1 hr ha
    rw [queueConfigPortWdrr_admitTo h hsub hp hz hz' hw, ← hs1, State.admitTo_of_ok hr ha]
  case bufClass => exact fun h hsub hp hcls hz hzero hmin hle hmax m => queueConfigBufClass_ok h hsub hp hcls hz hzero hmin hle hmax
  case shaper =>
    intro h hz v hv hres hhigh hrate s1 p hp hr ha
    have hok := shaperConfig_ok h hz hv hres hhigh hrate hp hr ha
    refine ⟨fun h0 hs1 => ?stream, fun h1 hi hvc0 hs1 => ?service, fun h2 hi hs1 => ?port⟩
    case stream => exact hok (by omega) (by rw [h0]; exact fieldAt_lt _ _ _) (by omega) (by rw [h0]; exact hs1)
    case service => exact hok (by omega) (by rw [h1]; exact hi) (fun _ => hvc0) (by rw [h1]; exact hs1)
    case port => exact hok (by omega) (by rw [h2]; exact hi) (by omega) (by rw [h2]; exact hs1)
  case policer =>
    intro h hz hpol s1 hs1 hr ha
    rw [policerConfig_admitTo h hz hpol, ← hs1, State.admitTo_of_ok hr ha]
  case profile =>
    intro h hsub hlo hhi hz hred
    exact ⟨_, wredProfileProfile_ok h hsub hlo hhi hz hred, get_redWritten _ _ _⟩
  case vcRed => exact wredProfilePortVcRed_ok

end Sys2Proof.Machine

end

section

/-! The CXL ports and the scrub (08 R227, R229 to R231; 13 R364): how each row completes. -/

namespace Sys2Proof.Machine

/-! ### CXL ports (08 R227, R229; 13 R364) -/

theorem State.after_iff {s : State} {since limit : Nat} : s.after since limit = true ↔ since + limit ≤ s.t3 := decide_eq_true_iff

/-- Port k is down and its link may train: it is not held down, and its clock, its PERST and its power domain let it. -/
structure State.CxlTrains (s : State) (k : Nat) : Prop where
  down : (s.cxl k).up = false
  free : (s.cxl k).heldDown = false
  clock : (s.cxl k).refOk = true
  perst : (s.cxl k).perstN = true
  powered : s.domOn (domCxl k) = true

section
variable {s : State} {k : Nat} (hl : s.live = true) (hk : k < 2)
include hl hk

theorem cxlPortDown_next : exec (.cxlPortDown k) s = .next (s.cxlDown k) := onUnit_next (decide_eq_true hk) hl

/-- Step 4 of a teardown gives the writes of its context 10 ms to be acknowledged. -/
theorem cxlWriteAckTimeout_next {x : Nat} {r : Tear} (hx : x < 256) (hr : (s.ctx x).tear = some r) :
    exec (.cxlWriteAckTimeout x k) s = .next (if r.step = 4 ∧ s.after r.since (msec 10) = true then s.cxlDown k else s) := by
  show execCxlWriteAckTimeout x k s = _
  rw [execCxlWriteAckTimeout, onUnit_next (by simp [hx, hk]) hl, hr]
  simp only [Bool.and_eq_true, decide_eq_true_eq]

/-- A link that trains is refused where the device lies outside the subset, held down where its capacity is another than before, and else up. -/
theorem cxlPortUp_next (ht : s.CxlTrains k) {cap u : Nat} (hu : u = min cap cxlMax) :
    exec (.cxlPortUp k cap) s = .next (
      if u = 0 then s.cxlRefused k
      else if ((s.cxl k).lastCap.any fun c => c != u) = true then s.modCxl k fun x => { x with heldDown := true }
      else ((s.modCxl k fun x => { x with up := true, cap := u, lastCap := some u }).modList (16 + k) fun l =>
        { l with drained := true, rebuilding := true }).passFromNow (24 + k)) := by
  subst hu
  obtain ⟨hdown, hfree, hclock, hperst, hpower⟩ := ht
  show execCxlPortUp k cap s = _
  rw [execCxlPortUp, onUnit_next (decide_eq_true hk) hl]
  dsimp only
  rw [if_neg (by simp [hdown, hfree, hclock, hperst, hpower])]

end

theorem min_cxlMax_ne_zero {cap : Nat} (h : 0 < cap) : min cap cxlMax ≠ 0 := by simp only [cxlMax]; omega

/-! ### The scrub (08 R231) -/

section
variable {s : State} {m : Nat} (hl : s.live = true) (hm : m < 26) (hs : s.scrubs m = true) (ecc : Nat)
include hl hm hs

theorem scrubSlot_writesBack {w : Nat} {rest : List Nat} (hback : (s.ctrl m).back = w :: rest) :
    exec (.scrubSlot m ecc) s = .next ((s.healCe [w]).modCtrl m fun c => { c with back := rest }) := by
  show execScrubSlot m ecc s = _
  rw [execScrubSlot, onUnit_next (decide_eq_true hm) hl, if_neg (by simp [hs])]
  simp only [hback]

theorem scrubSlot_reads (hback : (s.ctrl m).back = []) : exec (.scrubSlot m ecc) s = .next ((s.scrubLine m ecc).scrubStep m) := by
  show execScrubSlot m ecc s = _
  rw [execScrubSlot, onUnit_next (decide_eq_true hm) hl, if_neg (by simp [hs])]
  simp only [hback]

end

/-! ### The obligation -/

/-- Settles O21: each row acts on its port or its memory as the state of that port or memory says. -/
theorem memoryTierEventsTakeEffect : Obligations.MemoryTierEventsTakeEffect := by
  unfold Obligations.MemoryTierEventsTakeEffect
  refine fun s k hl hk => ⟨cxlPortDown_next hl hk, fun x r hx hr hstep hlate => ?late, fun x r hx hr hearly => ?early,
    fun hup hheld href hperst hdom => ?outside, fun cap hcap hup hheld href hperst hdom => ?trained,
    fun m ecc hm hs => ⟨fun w rest => scrubSlot_writesBack hl hm hs ecc, scrubSlot_reads hl hm hs ecc⟩⟩
  case late => rw [cxlWriteAckTimeout_next hl hk hx hr, if_pos ⟨hstep, State.after_iff.2 hlate⟩]
  case early => rw [cxlWriteAckTimeout_next hl hk hx hr, if_neg fun ⟨_, hlate⟩ => Nat.not_lt.2 (State.after_iff.1 hlate) hearly]
  case outside => rw [cxlPortUp_next hl hk ⟨hup, hheld, href, hperst, hdom⟩ rfl, Nat.zero_min, if_pos rfl]
  case trained =>
    rw [cxlPortUp_next hl hk ⟨hup, hheld, href, hperst, hdom⟩ rfl, if_neg (min_cxlMax_ne_zero hcap)]
    refine ⟨fun hsame => ?same, fun u hlast hne => ?changed⟩
    case same => rw [if_neg (by rcases hsame with h | h <;> simp [h])]
    case changed => rw [if_pos (by simp [hlast, hne])]

end Sys2Proof.Machine

end

section

/-! The store of blocks (08 R237, R243 to R250): the requests that its service Tillers take, and the ends of puts. -/

namespace Sys2Proof.Machine

/-! ### The head of a service Tiller's queue (08 R245) -/

/-- Service Tiller t of the enabled store may take packet p from the head of its queue. -/
structure State.ServesHead (s : State) (t : Nat) (p : Pkt) : Prop where
  unit : t < 192
  live : s.live = true
  on : s.pfx.on = true
  mine : s.pfx.tillers.contains t = true
  running : (s.tl t).reset = none
  head : ∃ rest, (s.tl t).recvQ = p :: rest

section
variable {s : State} {t : Nat} {p : Pkt} (h : s.ServesHead t p)
include h

theorem serviceRow_next (op : Nat) (serve : Pkt → PReq → State) :
    onUnit (t < 192) s (s.pfxRow t op serve) = .next (
      if s.pfxRequestOk p = false then (s.takeHead t p).pfxCount 12
      else if (preqOf p).op = op then serve p (preqOf p)
      else s) := by
  obtain ⟨ht, hl, hon, hmine, hrun, rest, hhead⟩ := h
  rw [onUnit_next (decide_eq_true ht) hl, State.pfxRow, if_neg (by rw [hon, hmine, hrun]; decide), hhead]
  simp only [Bool.not_eq_true']

theorem serviceRow_dropped (hbad : s.pfxRequestOk p = false) (op : Nat) (serve : Pkt → PReq → State) :
    onUnit (t < 192) s (s.pfxRow t op serve) = .next ((s.takeHead t p).pfxCount 12) := by
  rw [serviceRow_next h, if_pos hbad]

theorem serviceRow_served (hok : s.pfxRequestOk p = true) {op : Nat} (hop : (preqOf p).op = op) (serve : Pkt → PReq → State) :
    onUnit (t < 192) s (s.pfxRow t op serve) = .next (serve p (preqOf p)) := by
  rw [serviceRow_next h, if_neg (by simp [hok]), if_pos hop]

/-! ### The chunks of a put (08 R237, R246) -/

theorem put_joins (hok : s.pfxRequestOk p = true) (hop : (preqOf p).op = 1) {q : PPut}
    (hq : s.pfx.puts.find? (fun q => q.takes t p (preqOf p)) = some q) (hkept : q.refused = false) (hroom : q.waitDemote = false) :
    exec (.put t) s = .next (
      if q.held.contains (preqOf p).chunk = true then (s.takeHead t p).pfxCount 11
      else (s.takeHead t p).putChunk q (preqOf p).chunk (p.payload.drop 48)) := by
  refine (serviceRow_served h hok hop _).trans ?_
  simp only [hq, hkept, hroom, Bool.false_eq_true, if_false]

end

/-- The put that packet p of Tiller t opens at a time, but for its buffer: its fields are the packet's. -/
def openedPut (pid t : Nat) (p : Pkt) (t3 : Nat) : PPut :=
  { pid := pid, tiller := t, key := (preqOf p).key, big := (preqOf p).big, crc := (preqOf p).crc, req := (preqOf p).req,
    hdr := p.bytes.take 48, openedAt := t3 }

/-- s with a put among those that gather. -/
def State.withPut (s : State) (q : PPut) : State := s.modPfx fun x => { x with puts := x.puts ++ [q], nextPut := x.nextPut + 1 }

/-- s after packet p has opened a put on Tiller t, or waits to, by the room made for its block and the state in which it is made. -/
def State.openPut (s : State) (t : Nat) (p : Pkt) : Room × State → State
  | (.now a, s1) =>
    let q := { openedPut s1.pfx.nextPut t p s.t3 with addr := a }
    (((s1.withPut q).takeHead t p).putChunk q (preqOf p).chunk (p.payload.drop 48)).leaveQueue { tiller := t }
  | (.later a, s1) => (s1.withPut { openedPut s1.pfx.nextPut t p s.t3 with addr := a, waitDemote := true }).leaveQueue { tiller := t }
  | (.no, s1) =>
    let q := { openedPut s1.pfx.nextPut t p s.t3 with refused := true, held := [(preqOf p).chunk] }
    ((((s1.withPut q).takeHead t p).putReply q stPoolEmpty 0).pfxCount 2).leaveQueue { tiller := t }
  | (.wait w, _) => s.await { tiller := t } w

theorem put_opens {s : State} {t : Nat} {p : Pkt} (h : s.ServesHead t p) (hok : s.pfxRequestOk p = true) (hop : (preqOf p).op = 1)
    (hq : s.pfx.puts.find? (fun q => q.takes t p (preqOf p)) = none) :
    exec (.put t) s = .next (s.openPut t p (s.gddrRoom { tiller := t } (preqOf p).big)) := by
  refine (serviceRow_served h hok hop _).trans ?_
  rw [hq]
  dsimp only
  rcases s.gddrRoom { tiller := t } (preqOf p).big with ⟨_ | _ | _ | _, s1⟩ <;> rfl

/-! ### The end of a put (08 R246) -/

section
variable {s : State} {pid : Nat} {q : PPut} (hl : s.live = true) (hq : s.pfx.puts.find? (fun q => q.pid == pid) = some q)
  (hkept : q.refused = false) (hroom : q.waitDemote = false)
include hl hq hkept hroom

theorem putCommit_next (hall : q.held.length = blockChunks q.big) (hearly : s.after q.openedAt (usec s.pfx.tmo) = false) {v : Nat}
    (hv : v = (s.pfx.seq + 1) % 2 ^ 64) :
    exec (.putCommit pid) s = .next (
      if s.pfx.verify = true ∧ crc32c (s.memRead q.addr (blockBytes q.big)) ≠ q.crc then
        ((s.dropPut pid).giveAddr q.addr).putReply q stBadParam 0
      else ((((s.dropPut pid).modPfx fun p => { p with seq := v }).enterBlock
        { key := q.key, big := q.big, version := v, crc := q.crc, addr := q.addr, stamp := v }).putReply q stOk v).pfxCount 0) := by
  subst hv
  show execPutCommit pid s = _
  rw [execPutCommit, onEvent_next hl, hq]
  dsimp only
  rw [if_neg (by simp [hkept, hroom, hall, hearly])]
  simp only [Bool.and_eq_true, bne_iff_ne]

theorem putTimeout_next (hlate : s.after q.openedAt (usec s.pfx.tmo) = true) :
    exec (.putTimeout pid) s = .next ((((s.dropPut pid).giveAddr q.addr).putReply q stTimeout 0).pfxCount 1) := by
  show execPutTimeout pid s = _
  rw [execPutTimeout, onEvent_next hl, hq]
  simp only [hlate, hkept, hroom, Bool.not_true, Bool.false_eq_true, if_false]

end

/-! ### Reads and removals (08 R245, R247, R250) -/

section
variable {s : State} {t : Nat} {p : Pkt} (h : s.ServesHead t p) (hok : s.pfxRequestOk p = true)
include h hok

/-- A hit takes the next commit sequence as its use stamp (log 54), and is promoted later where it lies in the CXL tier. -/
theorem get_next (hop : (preqOf p).op = 2) {hit : Option PBlock}
    (hhit : (s.block? (preqOf p).key).filter (fun b => b.big == (preqOf p).big) = hit) (ce : List Nat) :
    exec (.get t ce) s = .next (hit.elim (((s.takeHead t p).missReply t p.bytes 0x82 (preqOf p) 0).pfxCount 5) fun b =>
      let v := (s.pfx.seq + 1) % 2 ^ 64
      let b' := { b with stamp := v, promote := b.promote || (b.cxl && s.pfx.promote) }
      ((((s.takeHead t p).modBlock b.key fun _ => b').modPfx fun x => { x with seq := v }).sendBlock t p.bytes (preqOf p) b' ce).pfxCount
        (if b.cxl then 4 else 3)) := by
  refine (serviceRow_served h hok hop _).trans ?_
  dsimp only
  rw [hhit]
  cases hit <;> rfl

theorem delete_next (hop : (preqOf p).op = 3) {hit : Option PBlock}
    (hhit : (s.block? (preqOf p).key).filter (fun b => b.big == (preqOf p).big) = hit) :
    exec (.delete t) s = .next (hit.elim ((s.takeHead t p).missReply t p.bytes 0x83 (preqOf p) 0) fun b =>
      ((s.takeHead t p).pfxSend t (pfxReply p.bytes 0x83 stOk (preqOf p) false 0 b.crc.toNat b.version [])).removeBlock b) := by
  refine (serviceRow_served h hok hop _).trans ?_
  dsimp only
  rw [hhit]
  cases hit <;> rfl

theorem probe_next (hop : (preqOf p).op = 4) {hit : Option PBlock} (hhit : s.block? (preqOf p).key = hit) :
    exec (.probe t) s = .next (hit.elim ((s.takeHead t p).missReply t p.bytes 0x84 (preqOf p) 0) fun b =>
      (s.takeHead t p).pfxSend t (pfxReply p.bytes 0x84 stOk { preqOf p with big := b.big } false 0 b.crc.toNat b.version [])) := by
  refine (serviceRow_served h hok hop _).trans ?_
  dsimp only
  rw [hhit]
  cases hit <;> rfl

end

/-! ### The obligations -/

/-- Settles O43: a chunk joins the put that takes it or opens one as the room for its block allows, and a put ends by its commit or its timeout. -/
theorem putsGatherAndCommit : Obligations.PutsGatherAndCommit := by
  unfold Obligations.PutsGatherAndCommit
  refine fun s hl => ⟨fun t p rest r ht hon hmine hrun hhead hok hr hop => ?chunk, fun pid q hq hkept hroom => ⟨fun hall hearly => ?commit,
    putTimeout_next hl hq hkept hroom⟩⟩
  case chunk =>
    subst hr
    have h : s.ServesHead t p := ⟨ht, hl, hon, hmine, hrun, rest, hhead⟩
    refine ⟨fun q hq hkept hroom => ?joins, fun s1 q hnone hq => ?opens⟩
    case joins =>
      rw [put_joins h hok hop hq hkept hroom]
      exact ⟨fun hnew => by rw [if_neg (by rw [hnew]; decide)], fun hheld => by rw [if_pos hheld]⟩
    case opens =>
      subst hq
      rw [put_opens h hok hop hnone]
      exact ⟨fun a q1 hroom hq1 => by subst hq1; rw [hroom]; rfl, fun a hroom => by rw [hroom]; rfl,
        fun q1 hroom hq1 => by subst hq1; rw [hroom]; rfl, fun w hroom => by rw [hroom]; rfl⟩
  case commit =>
    rw [putCommit_next hl hq hkept hroom hall hearly rfl]
    exact ⟨fun hgood v hv => by subst hv; rw [if_neg (fun ⟨hverify, hcrc⟩ => hgood.elim (by simp [hverify]) hcrc)],
      fun hverify hcrc => by rw [if_pos ⟨hverify, hcrc⟩]⟩

/-- Settles O44: whichever row finds a packet at the head that breaks the rules drops it, and the row of its operation answers one that keeps
them as its block is there or not. -/
theorem storeRequestsAreAnswered : Obligations.StoreRequestsAreAnswered := by
  unfold Obligations.StoreRequestsAreAnswered
  intro s t p rest hl ht hon hmine hrun hhead
  have h : s.ServesHead t p := ⟨ht, hl, hon, hmine, hrun, rest, hhead⟩
  refine ⟨fun hbad ce => ⟨serviceRow_dropped h hbad 1 _, serviceRow_dropped h hbad 2 _, serviceRow_dropped h hbad 3 _,
    serviceRow_dropped h hbad 4 _⟩, fun hok hop ce => ⟨fun hmiss => get_next h hok hop hmiss ce, fun b v b' hhit hv hb' => ?hit⟩,
    fun hok hop => ⟨delete_next h hok hop, fun b => delete_next h hok hop⟩, fun hok hop => ⟨probe_next h hok hop, fun b => probe_next h hok hop⟩⟩
  case hit =>
    subst hv hb'
    exact get_next h hok hop hhit ce

end Sys2Proof.Machine

end

section

/-! The store of blocks (08 R243, R244, R248 to R250): demotions that end, promotions, and PREFIX_CONFIG. -/

namespace Sys2Proof.Machine

/-! ### Demotion and promotion (08 R248, R249) -/

section
variable {s : State} {key : List Byte} {b : PBlock} (hl : s.live = true) (hb : s.block? key = some b) (hread : s.reading b = false)
include hl hb hread

/-- A copied block leaves GDDR7 for the CXL tier, or the store where a word of it is uncorrectable. -/
theorem prefixDemoteDone_next {slot : Nat} {s1 : State} (hcopy : b.copying = some slot) (hcxl : b.cxl = false)
    (hs1 : s1 = s.noteRead b.addr (blockBytes b.big)) :
    exec (.prefixDemoteDone key) s = .next (
      if s1.knownUe b.addr (blockBytes b.big) = none then
        (((s1.copyBlock b.addr slot b.big).modBlock key fun x => { x with cxl := true, addr := slot, copying := none }).pfxCount 6).freeStorage
          { b with copying := none }
      else (s1.removeBlock b).pfxCount 9) := by
  subst hs1
  show execPrefixDemoteDone key s = _
  rw [execPrefixDemoteDone, onEvent_next hl, hb]
  simp only [hcopy, hcxl, hread, Bool.or_self, Bool.false_eq_true, if_false]
  cases (s.noteRead b.addr (blockBytes b.big)).knownUe b.addr (blockBytes b.big) <;> simp

/-- s after the promotion of a block has been taken up, or waits to be, by the room made for it and the state in which it is made. -/
def State.promoted (s : State) (key : List Byte) (b : PBlock) : Room × State → State
  | (.now a, s1) => (s1.promoteTo b a).leaveQueue { tiller := 192 }
  | (.later a, s1) => (s1.modBlock key fun x => { x with copying := some a }).leaveQueue { tiller := 192 }
  | (.no, _) => (s.leaveQueue { tiller := 192 }).modBlock key fun x => { x with promote := false }
  | (.wait w, _) => s.await { tiller := 192 } w

theorem prefixPromote_next (hcxl : b.cxl = true) (hhit : b.promote = true) (hcopy : b.copying = none) {s0 : State}
    (hs0 : s0 = s.modBlock key fun x => { x with copying := some b.addr }) :
    exec (.prefixPromote key) s = .next (s.promoted key b (s0.gddrRoom { tiller := 192 } b.big)) := by
  subst hs0
  show execPrefixPromote key s = _
  rw [execPrefixPromote, onEvent_next hl, hb]
  dsimp only
  rw [if_neg (by simp [hcxl, hhit, hread]), hcopy]
  dsimp only
  rcases State.gddrRoom _ { tiller := 192 } b.big with ⟨_ | _ | _ | _, s1⟩ <;> rfl

end

/-! ### PREFIX_CONFIG (08 R243, R244) -/

@[simp] theorem State.take_freeCtx (s : State) (c : Nat) : (s.take c).freeCtx = s.freeCtx := rfl

@[simp] theorem State.take_storeTillers (s : State) (c n : Nat) : (s.take c).storeTillers n = s.storeTillers n := rfl

/-- The power domains that are off among those of the Tillers on which a PREFIX_CONFIG record in order enables the store. -/
def State.storeNeeds (s : State) (r : List Byte) : List Nat :=
  if prefixRecordOk r && fieldAt r 0 1 % 2 == 1 && !s.pfx.on && (s.storeTillers (fieldAt r 1 1)).length == fieldAt r 1 1 then
    (dedup ((s.storeTillers (fieldAt r 1 1)).map fun t => domTiller (t / 8))).filter fun d => !s.domOn d
  else []

theorem State.storeNeeds_of_idle {s : State} {r : List Byte} (h : prefixRecordOk r = false ∨ fieldAt r 0 1 % 2 = 0 ∨ s.pfx.on = true ∨
    (s.storeTillers (fieldAt r 1 1)).length ≠ fieldAt r 1 1) : s.storeNeeds r = [] := by
  rw [State.storeNeeds, if_neg]
  simp only [Bool.and_eq_true, beq_iff_eq, Bool.not_eq_true']
  rintro ⟨⟨⟨hok, hodd⟩, hoff⟩, hlen⟩
  rcases h with h | h | h | h
  · exact absurd hok (by simp [h])
  · omega
  · exact absurd h (by simp [hoff])
  · exact h hlen

theorem State.storeNeeds_of_on {s : State} {r : List Byte} (h : ∀ t ∈ s.storeTillers (fieldAt r 1 1), s.domOn (domTiller (t / 8)) = true) :
    s.storeNeeds r = [] := by
  have hall : ∀ d ∈ dedup ((s.storeTillers (fieldAt r 1 1)).map fun t => domTiller (t / 8)), ¬ (!s.domOn d) = true := by
    intro d hd
    obtain ⟨t, ht, rfl⟩ := List.mem_map.1 (mem_of_mem_dedup hd)
    simp [h t ht]
  rw [State.storeNeeds, List.filter_eq_nil_iff.2 hall, ite_self]

section
variable {s : State} {c : Nat} {k : Cmd} (h : s.carries 0x0604 c k)
include h

/-- Where no domain is needed the row carries its command out. -/
theorem prefixConfig_run {due : Bool} {ask : Host.Outcome State Fault Refusal} {body : Cmd → State → State} (hidle : s.storeNeeds k.params = []) :
    (if due && !(s.storeNeeds k.params).isEmpty then ask else runCmd 0x0604 c s body) = .next (body k (s.take c)) :=
  (if_neg (by simp [hidle])).trans (runCmd_next h body)

/-- A record that needs domains which are off asks for them and waits (01 R38). -/
theorem prefixConfig_asks (hneeds : s.storeNeeds k.params ≠ []) :
    exec (.prefixConfig c) s = .next (s.requestDomains (s.storeNeeds k.params)) := by
  obtain ⟨hcmd, hl, hop, hready, hserved⟩ := h
  have hdue : (s.live && k.opcode == 0x0604 && s.ready k && s.served 0x0604 && !(s.storeNeeds k.params).isEmpty) = true := by
    simp [hl, hop, hready, hserved, hneeds]
  show execPrefixConfig c s = _
  rw [execPrefixConfig, hcmd]
  exact if_pos hdue

theorem prefixConfig_badParam (hbad : prefixRecordOk k.params = false) :
    exec (.prefixConfig c) s = .next ((s.take c).finish c stBadParam) := by
  show execPrefixConfig c s = _
  rw [execPrefixConfig, h.1]
  refine (prefixConfig_run h (State.storeNeeds_of_idle (.inl hbad))).trans ?_
  simp only [hbad, Bool.not_false, if_true]

variable (hok : prefixRecordOk k.params = true)
include hok

/-- A record with the enable flag clear disables the store. -/
theorem prefixConfig_disables (heven : fieldAt k.params 0 1 % 2 = 0) (hon : s.pfx.on = true) {s1 : State}
    (hs1 : s1 = (s.take c).disableStore.modPfx (fun p => p.configured k.params)) :
    exec (.prefixConfig c) s = .next (s1.finish c stOk [s1.pfx.ctx, (s1.epoch s1.pfx.ctx).toNat]) := by
  subst hs1
  show execPrefixConfig c s = _
  rw [execPrefixConfig, h.1]
  refine (prefixConfig_run h (State.storeNeeds_of_idle (.inr (.inl heven)))).trans ?_
  dsimp only
  rw [if_neg (by simp [hok]), if_pos heven, State.take_pfx, if_pos hon]

/-- A record for as many Tillers as the store has, with minima that fit, sets it anew, and the limits it lowers are put in force. -/
theorem prefixConfig_reconfigures (hodd : fieldAt k.params 0 1 % 2 = 1) (hon : s.pfx.on = true)
    (hn : fieldAt k.params 1 1 = s.pfx.tillers.length) (hfit : ((s.take c).setMinima 0x100 (prefixMinima k.params)).minimaFit = true) {s1 : State}
    (hs1 : s1 = (((s.take c).setMinima 0x100 (prefixMinima k.params)).modPfx fun p => p.configured k.params).holdLimits) :
    exec (.prefixConfig c) s = .next (s1.finish c stOk [s1.pfx.ctx, (s1.epoch s1.pfx.ctx).toNat]) := by
  subst hs1
  show execPrefixConfig c s = _
  rw [execPrefixConfig, h.1]
  refine (prefixConfig_run h (State.storeNeeds_of_idle (.inr (.inr (.inl hon))))).trans ?_
  dsimp only
  rw [if_neg (by simp [hok]), if_neg (by omega), State.take_pfx, if_pos hon, if_neg (by simp [hn]), if_neg (by simp [hfit])]

/-- A record with the enable flag set, whose Tillers need no domain, enables the store on the lowest free context, if there are such a context
and as many free Tillers as it names, and its minima fit. -/
theorem prefixConfig_enables (hodd : fieldAt k.params 0 1 % 2 = 1) (hoff : s.pfx.on = false) (hidle : s.storeNeeds k.params = []) {s1 : State}
    (hs1 : s1 = (s.take c).setMinima 0x100 (prefixMinima k.params)) :
    exec (.prefixConfig c) s = .next (s.freeCtx.elim ((s.take c).finish c stNoFit) fun x =>
      let s2 := (s1.modPfx fun p => p.configured k.params).enableStore x (s.storeTillers (fieldAt k.params 1 1))
      if (s.storeTillers (fieldAt k.params 1 1)).length = fieldAt k.params 1 1 ∧ s1.minimaFit = true then
        s2.finish c stOk [s2.pfx.ctx, (s2.epoch s2.pfx.ctx).toNat]
      else (s.take c).finish c stNoFit) := by
  subst hs1
  show execPrefixConfig c s = _
  rw [execPrefixConfig, h.1]
  refine (prefixConfig_run h hidle).trans ?_
  dsimp only
  rw [if_neg (by simp [hok]), if_neg (by omega), State.take_pfx, if_neg (by simp [hoff]), State.take_freeCtx, State.take_storeTillers]
  cases s.freeCtx with
  | none => rfl
  | some x =>
    dsimp only [Option.elim_some]
    by_cases hroom : (s.storeTillers (fieldAt k.params 1 1)).length = fieldAt k.params 1 1 ∧
        ((s.take c).setMinima 0x100 (prefixMinima k.params)).minimaFit = true
    · rw [if_neg (by simp [hroom]), if_pos hroom]
    · have hlacks := Decidable.not_and_iff_or_not.1 hroom
      rw [if_pos (by simpa only [Bool.or_eq_true, decide_eq_true_eq, Bool.not_eq_true', Bool.not_eq_true] using hlacks), if_neg hroom]

theorem prefixConfig_noFit (hodd : fieldAt k.params 0 1 % 2 = 1) (hoff : s.pfx.on = false) (hidle : s.storeNeeds k.params = [])
    (hno : s.freeCtx = none ∨ (s.storeTillers (fieldAt k.params 1 1)).length ≠ fieldAt k.params 1 1 ∨
      ((s.take c).setMinima 0x100 (prefixMinima k.params)).minimaFit = false) :
    exec (.prefixConfig c) s = .next ((s.take c).finish c stNoFit) := by
  rw [prefixConfig_enables h hok hodd hoff hidle rfl]
  cases hx : s.freeCtx with
  | none => rfl
  | some x =>
    rw [Option.elim_some, if_neg]
    rintro ⟨hlen, hfit⟩
    simp [hx, hlen, hfit] at hno

end

/-! ### The obligation -/

/-- Settles O45: a copy or a hit moves its block where that may be, and PREFIX_CONFIG does what its record and the state of the store say. -/
theorem storeMovesAndIsConfigured : Obligations.StoreMovesAndIsConfigured := by
  unfold Obligations.StoreMovesAndIsConfigured
  refine ⟨fun s key b hl hb hread => ⟨fun slot s1 hcopy hcxl hs1 => ?demoted, fun s0 hcxl hhit hcopy hs0 => ?promoted⟩,
    fun s c k h => ⟨prefixConfig_badParam h, fun n ts hok hodd hoff hn hts => ?enables, fun hok heven hon s1 => prefixConfig_disables h hok heven hon,
      fun hok hodd hon hn hfit s1 => prefixConfig_reconfigures h hok hodd hon hn hfit⟩⟩
  case demoted =>
    rw [prefixDemoteDone_next hl hb hread hcopy hcxl hs1]
    exact ⟨fun hgood => by rw [if_pos hgood], fun hbad => by rw [if_neg hbad]⟩
  case promoted =>
    rw [prefixPromote_next hl hb hread hcxl hhit hcopy hs0]
    exact ⟨fun a s1 hroom => by rw [hroom]; rfl, fun a s1 hroom => by rw [hroom]; rfl, fun s1 hroom => by rw [hroom]; rfl⟩
  case enables =>
    subst hn hts
    refine ⟨fun hlen hdoms => ⟨fun x s1 hx hs1 hfit s2 hs2 => ?enabled, fun hno => ?noFit⟩, fun hlen => ?few, fun l hlen hl hne => ?asks⟩
    case enabled =>
      subst hs2
      rw [prefixConfig_enables h hok hodd hoff (State.storeNeeds_of_on hdoms) hs1, hx, Option.elim_some]
      dsimp only
      rw [if_pos ⟨hlen, hfit⟩]
    case noFit => exact prefixConfig_noFit h hok hodd hoff (State.storeNeeds_of_on hdoms) (hno.imp_right .inr)
    case few => exact prefixConfig_noFit h hok hodd hoff (State.storeNeeds_of_idle (.inr (.inr (.inr hlen)))) (.inr (.inl hlen))
    case asks =>
      have hneeds : s.storeNeeds k.params = l := by rw [State.storeNeeds, if_pos (by simp [hok, hodd, hoff, hlen]), hl]
      rw [prefixConfig_asks h (hneeds ▸ hne), hneeds]

end Sys2Proof.Machine

end

section

/-! What the bookkeeping of the module (counters, queues, records, events, notices, finished commands) leaves of the links: the ports, the optical
engines, the time, the device's state and the port groups under reset; and what taking a link down does beside it (09 R264, R267, R270). -/

namespace Sys2Proof.Machine

/-! ### Folds -/

/-- What every step of a fold keeps, the fold keeps. -/
theorem foldl_keeps {σ α β : Type} (v : σ → β) {g : σ → α → σ} (h : ∀ x a, v (g x a) = v x) (l : List α) (x : σ) : v (l.foldl g x) = v x := by
  induction l generalizing x with
  | nil => rfl
  | cons a t ih => exact (ih _).trans (h x a)

section
variable {g : State → Nat → State} (hother : ∀ x p q, q ≠ p → (g x p).port q = x.port q)
include hother

/-- Updates that each touch their own port leave the ports that none of them names. -/
theorem foldl_port_of_not_mem {q : Nat} {l : List Nat} (hq : q ∉ l) (s : State) : (l.foldl g s).port q = s.port q := by
  induction l generalizing s with
  | nil => rfl
  | cons p t ih =>
    obtain ⟨hp, ht⟩ : q ≠ p ∧ q ∉ t := by simpa using hq
    exact (ih ht _).trans (hother _ _ _ hp)

/-- Updates that each touch their own port have made of a port that one of them names what that one makes of it. -/
theorem foldl_port_of_mem {R : Port → Port → Prop} (hself : ∀ x p, R (x.port p) ((g x p).port p)) {q : Nat} {l : List Nat} (hl : l.Nodup) (hq : q ∈ l)
    (s : State) : R (s.port q) ((l.foldl g s).port q) := by
  induction l generalizing s with
  | nil => exact absurd hq List.not_mem_nil
  | cons p t ih =>
    obtain ⟨hp, ht⟩ := List.nodup_cons.1 hl
    by_cases hqp : q = p
    · rw [hqp, List.foldl_cons, foldl_port_of_not_mem hother hp]
      exact hself _ _
    · have h := ih ht ((List.mem_cons.1 hq).resolve_left hqp) (g s p)
      rwa [hother _ _ _ hqp] at h

end

/-! ### The view of the links -/

/-- What the bookkeeping of the module leaves as it is. -/
structure LinkView where
  /-- the scheduler ports with their links -/
  ports : SMap Port
  /-- the optical engines -/
  oes : SMap Engine9
  /-- the clocks -/
  clk : Clock
  /-- the device's state -/
  devState : DevState
  /-- the port groups under reset, each since when -/
  groupReset : SMap (Option Nat)

/-- What a state holds of it. -/
def State.linkView (s : State) : LinkView := ⟨s.ports, s.oes, s.clk, s.dev.state, s.fab.groupReset⟩

theorem State.linkView_devState (s : State) : s.linkView.devState = s.dev.state := rfl

theorem State.linkView_groupReset (s : State) : s.linkView.groupReset = s.fab.groupReset := rfl

section
variable {s s' : State} (h : s'.linkView = s.linkView)
include h

theorem State.port_of_linkView (q : Nat) : s'.port q = s.port q := by
  have hp : s'.ports = s.ports := congrArg LinkView.ports h
  rw [State.port, hp]
  rfl

theorem State.oes_of_linkView : s'.oes = s.oes := congrArg LinkView.oes h

theorem State.t3_of_linkView : s'.t3 = s.t3 := congrArg (fun v => v.clk.third) h

theorem State.devState_of_linkView : s'.dev.state = s.dev.state := congrArg LinkView.devState h

theorem State.groupReset_of_linkView : s'.fab.groupReset = s.fab.groupReset := congrArg LinkView.groupReset h

end

section
variable (s : State)

@[simp] theorem State.countLink_linkView (p item n : Nat) : (s.countLink p item n).linkView = s.linkView := rfl

@[simp] theorem State.countLink_port' (p item n q : Nat) : (s.countLink p item n).port q = s.port q := rfl

@[simp] theorem State.almQueue_linkView (r : ARec) : (s.almQueue r).linkView = s.linkView := by
  unfold State.almQueue
  split <;> rfl

@[simp] theorem State.almHw_linkView (r : ARec) : (s.almHw r).linkView = s.linkView := rfl

/-- An update of the fabric that resets no port group. -/
theorem State.modFab_linkView {f : Fabric → Fabric} (h : (f s.fab).groupReset = s.fab.groupReset) : (s.modFab f).linkView = s.linkView := by
  simp [State.linkView, h]

/-- An update of a link sees no bookkeeping. -/
theorem State.modLink_linkView_congr {s s' : State} (h : s'.linkView = s.linkView) (p : Nat) (f : Link → Link) :
    (s'.modLink p f).linkView = (s.modLink p f).linkView := by
  have hp : s'.ports = s.ports := congrArg LinkView.ports h
  simp only [State.linkView, LinkView.mk.injEq] at h
  obtain ⟨-, ho, hc, hd, hg⟩ := h
  simp [State.linkView, State.port, hp, ho, hc, hd, hg]

@[simp] theorem State.lapseGrants_linkView (p : Nat) : (s.lapseGrants p).linkView = s.linkView := s.modFab_linkView rfl

@[simp] theorem State.pushEvent_linkView (e : Event) : (s.pushEvent e).linkView = s.linkView := by
  unfold State.pushEvent
  split <;> rfl

@[simp] theorem State.devEvent_linkView (code status : Nat) (words : List Nat) : (s.devEvent code status words).linkView = s.linkView := by
  unfold State.devEvent
  split
  · exact State.pushEvent_linkView _ _
  · rfl

@[simp] theorem State.rollWindow_linkView : s.rollWindow.linkView = s.linkView := by
  rcases Nat.lt_or_ge s.now s.dev.telEnd with h | h
  · rw [State.rollWindow_within h]
  · rw [State.rollWindow_over h]; rfl

@[simp] theorem State.pushNotice_linkView (n : Notice) : (s.pushNotice n).linkView = s.linkView := by
  unfold State.pushNotice
  split <;> rfl

/-- A FAULT_NOTICE above level 1 is no Tiller's: it always joins the queue or is lost. -/
theorem State.faultNotice_linkView {level : Nat} (h : 2 ≤ level) (reason : Nat) (ctx : Option Nat) :
    (s.faultNotice level reason ctx).linkView = s.linkView := by
  simp [State.faultNotice, Nat.not_lt.2 h]

@[simp] theorem State.finish_linkView (c status : Nat) (words : List Nat) (data : List Byte) :
    (s.finish c status words data).linkView = s.linkView := by
  unfold State.finish
  split
  · rfl
  · split <;> rfl

@[simp] theorem State.finishAll_linkView (cs : List Nat) (status : Nat) (words : List Nat) : (s.finishAll cs status words).linkView = s.linkView :=
  foldl_keeps State.linkView (fun x _ => x.finish_linkView _ _ _ _) cs s

/-! ### Flushing a port (06 R200) -/

@[simp] theorem State.dropPkt_linkView (k : Pkt) (p reason : Nat) : (s.dropPkt k p reason).linkView = s.linkView := by
  unfold State.dropPkt State.release
  split <;> rfl

@[simp] theorem State.deliveryLost_linkView (k : Pkt) (p reason : Nat) : (s.deliveryLost k p reason).linkView = s.linkView := by
  unfold State.deliveryLost
  split
  · exact State.pushNotice_linkView _ _
  · rfl

@[simp] theorem State.samplePeak_linkView (p v : Nat) : (s.samplePeak p v).linkView = s.linkView := s.rollWindow_linkView

@[simp] theorem State.flushPort_linkView (p : Nat) : (s.flushPort p).linkView = s.linkView := by
  refine (foldl_keeps State.linkView (fun x k => by simp) _ _).trans ((State.modFab_linkView _ ?_).trans ?_)
  · rfl
  · exact foldl_keeps State.linkView (fun x _ => x.modFab_linkView rfl) _ s

/-! ### Going down (09 R264, R267, R270) -/

/-- Beside bookkeeping, a link that goes down forgets its stripe and takes its new state and reason. -/
theorem State.linkDown_linkView (p reason : Nat) (st : LinkState) :
    (s.linkDown p reason st).linkView = (s.modLink p fun L => { L.fresh s.t3 st with reason := reason }).linkView := by
  have hbooks {x : State} (h : x.linkView = s.linkView) :
      (x.modLink p fun L => { L.fresh x.t3 st with reason := reason }).linkView =
        (s.modLink p fun L => { L.fresh s.t3 st with reason := reason }).linkView := by
    rw [State.t3_of_linkView h]
    exact State.modLink_linkView_congr h _ _
  unfold State.linkDown
  dsimp only
  rw [State.devEvent_linkView]
  split
  · rw [State.almQueue_linkView, State.flushPort_linkView, State.lapseGrants_linkView]
    exact hbooks (by split <;> rfl)
  · rw [State.lapseGrants_linkView]
    exact hbooks rfl

theorem State.linkDown_port (p reason : Nat) (st : LinkState) (q : Nat) : (s.linkDown p reason st).port q =
    if q = p then { s.port p with link := { (s.port p).link.fresh s.t3 st with reason := reason } } else s.port q :=
  (State.port_of_linkView (s.linkDown_linkView p reason st) q).trans (s.modLink_port' _ _ _)

theorem State.linkDown_self (p reason : Nat) (st : LinkState) :
    ((s.linkDown p reason st).port p).link = { (s.port p).link.fresh s.t3 st with reason := reason } := by
  rw [State.linkDown_port, if_pos rfl]

theorem State.linkDown_other (p reason : Nat) (st : LinkState) {q : Nat} (hq : q ≠ p) : (s.linkDown p reason st).port q = s.port q := by
  rw [State.linkDown_port, if_neg hq]

theorem State.linkDown_oes (p reason : Nat) (st : LinkState) : (s.linkDown p reason st).oes = s.oes :=
  (State.oes_of_linkView (s.linkDown_linkView p reason st) :)

theorem State.linkDown_t3 (p reason : Nat) (st : LinkState) : (s.linkDown p reason st).t3 = s.t3 :=
  (State.t3_of_linkView (s.linkDown_linkView p reason st) :)

end

/-! ### Rows -/

/-- A row of a unit whose condition holds does what the condition guards. -/
theorem onUnit_if_pos {has : Bool} {c : Prop} [Decidable c] {s a b : State} (h : has = true) (hl : s.live = true) (hc : c) :
    onUnit has s (if c then a else b) = .next a := by
  rw [onUnit_next h hl, if_pos hc]

end Sys2Proof.Machine

end

section

/-! The rows that train a link, bring it up and take it down (09 R255, R259, R263, R265, R267 to R270). -/

namespace Sys2Proof.Machine

/-! ### Blocks on the lanes (09 R255, R268) -/

/-- A block that arrives moves its lane's descrambler and may count among its window's errors; it is the same link otherwise. -/
theorem State.blockIn_keeps {β : Type} (v : Link → β) (h : ∀ L r w, v { L with rxScr := r, winErr := w } = v L) (s : State) (p lane : Nat)
    (b : List Byte) : v ((s.blockIn p lane b).2.port p).link = v (s.port p).link := by
  have hscr (r) : v { (s.port p).link with rxScr := r } = v (s.port p).link := h _ r _
  unfold State.blockIn State.syncErr
  dsimp only
  split
  · simp only [State.modLink_port', State.countLink_port', if_true]
    split
    · exact h _ _ _
    · exact hscr _
  · simpa only [State.modLink_port', if_true] using hscr _

theorem State.blockIn_dev (s : State) (p lane : Nat) (b : List Byte) : (s.blockIn p lane b).2.dev = s.dev := by
  unfold State.blockIn
  dsimp only
  split <;> rfl

theorem State.blockIn_t3 (s : State) (p lane : Nat) (b : List Byte) : (s.blockIn p lane b).2.t3 = s.t3 := by
  unfold State.blockIn
  dsimp only
  split <;> rfl

/-- In one block time a link sends a training block on each usable lane and counts it once (09 R268). -/
theorem Link.trainSlot_counts (L : Link) (t3 : Nat) : (L.trainSlot t3).trainTx = L.trainTx + 1 ∧ (L.trainSlot t3).trainIdx = (L.trainIdx + 1) % 65536 ∧
    (L.trainSlot t3).lastFlit = ((lanesOf (~~~ L.laneBad)).map L.trainingBlock).flatten := by
  refine ⟨(foldl_keeps Link.trainTx ?_ _ _).trans rfl, (foldl_keeps Link.trainIdx ?_ _ _).trans rfl, (foldl_keeps Link.lastFlit ?_ _ _).trans rfl⟩ <;>
    exact fun _ _ => rfl

/-! ### Flits that arrive (09 R259, R261) -/

/-- A row that brings 256 bytes brings the flit itself. -/
theorem State.flitIn_bytes (s : State) (p : Nat) {b : List Byte} (h : b.length ≠ 288) : s.flitIn p b = (b, s) := by
  rw [State.flitIn, if_neg h]

theorem length_of_flitGood {f : List Byte} (h : flitGood f = true) : f.length = 256 := by
  simp only [flitGood, Bool.and_eq_true, beq_iff_eq] at h
  exact h.1

theorem State.takesFlits_of {s : State} {p : Nat} (hst : (s.port p).link.state = .active ∨ (s.port p).link.state = .discovery)
    (hr : (s.port p).link.resetAt = none) : s.takesFlits p = true := by
  rcases hst with h | h <;> simp [State.takesFlits, h, hr]

section
variable {s s1 : State} {p : Nat} {b f : List Byte} {act : List Byte → State → State} (hp : p < 36) (hl : s.live = true)
  (hin : s.flitIn p b = (f, s1)) (ht : s1.takesFlits p = true)
include hp hl hin ht

theorem onFlit_good (hf : flitGood f = true) : onFlit p b s act = .next ((act f s1).slotIn p) := by
  rw [onFlit, onUnit_next (decide_eq_true hp) hl, hin]
  simp [ht, hf]

theorem onFlit_bad (hf : flitGood f = false) : onFlit p b s act = .next ((s1.rxBad p).slotIn p) := by
  rw [onFlit, onUnit_next (decide_eq_true hp) hl, hin]
  simp [ht, hf]

end

/-- A good flit given as its bytes is acted on. -/
theorem onFlit_bytes {s : State} {p : Nat} {f : List Byte} {act : List Byte → State → State} (hp : p < 36) (hl : s.live = true)
    (hst : (s.port p).link.state = .active ∨ (s.port p).link.state = .discovery) (hr : (s.port p).link.resetAt = none) (hf : flitGood f = true) :
    onFlit p f s act = .next ((act f s).slotIn p) :=
  onFlit_good hp hl (s.flitIn_bytes p (by simp [length_of_flitGood hf])) (State.takesFlits_of hst hr) hf

/-- The training block that a row brings, given as its payload or as the lane brings it, aligns its lane. -/
theorem trainingBlockReceive_aligns {s s1 : State} {p lane : Nat} {b d : List Byte} (hp : p < 36) (hl : s.live = true) (hlane : lane < 8)
    (hin : (if b.length = 9 then s.blockIn p lane b else (b, s)) = (d, s1))
    (hst : (s1.port p).link.state = .laneLock ∨ (s1.port p).link.state = .deskew) (hlock : (s1.port p).link.locked.getLsbD lane = true)
    (hhead : d.headD 0#8 = 0x2D#8) (hfw : s1.fwLink = true) :
    exec (.trainingBlockReceive p lane b) s = .next (s1.modLink p fun L => { L.align lane (fieldAt d 4 2) with
      state := .deskew, peerLocked := d.getD 2 0#8, trainRx := if d.getD 2 0#8 = L.peerLocked then L.trainRx + 1 else 1 }) := by
  show execTrainingBlockReceive p lane b s = _
  rw [execTrainingBlockReceive, onUnit_next (by simp [hp, hlane]) hl, hin]
  dsimp only
  rw [if_neg (by rcases hst with h | h <;> simp [h]), if_pos (by rw [hlock, hhead, hfw]; simpa using hst)]

section
variable {s : State} {p : Nat} {L : Link} (hp : p < 36) (hl : s.live = true) (hL : L = (s.port p).link)
include hp hl hL

/-! ### Training (09 R267, R268) -/

theorem retrainTimer_next (hst : L.state = .down) (hheld : (s.port p).isHeld = false) (hfw : s.fwLink = true) (hlate : s.after L.since (msec 1) = true)
    (hg : SMap.get noneAt s.fab.groupReset (p / 4) = none) :
    exec (.retrainTimer p) s = .next (s.modLink p fun L =>
      { L.fresh s.t3 .laneLock with lockAt := s.t3, laneBad := badLanes s.fw.eqTable s.dev.boardId.toNat p }) := by
  subst hL
  exact onUnit_if_pos (decide_eq_true hp) hl (by simp [hst, hheld, hfw, hlate, hg])

theorem flitSlotTransmit_trains (hst : L.state = .laneLock ∨ L.state = .deskew) :
    exec (.flitSlotTransmit p) s = .next (s.modLink p fun L => L.trainSlot s.t3) := by
  subst hL
  show execFlitSlotTransmit p s = _
  rw [execFlitSlotTransmit, onUnit_next (decide_eq_true hp) hl]
  rcases hst with h | h <;> simp only [h]

theorem laneBlockLock_next {lane : Nat} (hlane : lane < 8) (hst : L.state = .laneLock ∨ L.state = .deskew) (hgood : L.laneBad.getLsbD lane = false)
    (hnew : L.locked.getLsbD lane = false) :
    exec (.laneBlockLock p lane) s = .next (s.modLink p fun L => { L with locked := L.locked ||| laneBit lane }) := by
  subst hL
  exact onUnit_if_pos (by simp [hp, hlane]) hl (by simp [hst, hgood, hnew])

theorem enterDiscovery_next (hst : L.state = .deskew) (hrx : 256 ≤ L.trainRx) (htx : 256 ≤ L.trainTx) (hpeer : 6 ≤ laneCount L.peerLocked)
    (hours : 6 ≤ laneCount L.rxLocked) (hfw : s.fwLink = true) :
    exec (.enterDiscovery p) s = .next (s.modLink p fun L => { L with
      state := .discovery, txMap := L.peerLocked, nextMap := L.peerLocked, rxMap := L.rxLocked, slot := 0, since := s.t3, peerSeen := false,
      seenSeen := false, sent16 := 0 }) := by
  subst hL
  exact onUnit_if_pos (decide_eq_true hp) hl (by simp [hst, hrx, htx, hpeer, hours, hfw])

/-- A link that is not ACTIVE within 20 ms of LANE_LOCK goes down for its lanes where they are too few, and trains again without a reason elsewhere. -/
theorem trainingTimeout_next (hst : L.state = .laneLock ∨ L.state = .deskew ∨ L.state = .discovery) (hlate : s.after L.lockAt (msec 20) = true) :
    exec (.trainingTimeout p) s = .next (
      if laneCount L.rxLocked < 6 ∨ (L.state ≠ .laneLock ∧ laneCount L.peerLocked < 6) then (s.countLink p cTrainFail 1).linkDown p 8 .down
      else (s.countLink p cTrainFail 1).modLink p fun L => L.fresh s.t3 .down) := by
  subst hL
  refine (onUnit_if_pos (decide_eq_true hp) hl (by simpa [or_assoc] using ⟨hst, hlate⟩)).trans ?_
  simp only [Bool.or_eq_true, Bool.and_eq_true, decide_eq_true_eq]
  rfl

/-! ### DISCOVERY (09 R269) -/

theorem flitSlotTransmit_discovery (hst : L.state = .discovery) :
    exec (.flitSlotTransmit p) s = .next ((s.modLink p fun L => { L with
      lastFlit := s.discoveryFlit p, sent16 := if L.peerSeen && L.seenSeen then L.sent16 + 1 else L.sent16, slot := L.slot + 1,
      slotAt := s.t3 }).stripeOut p L.txMap L.slot) := by
  subst hL
  show execFlitSlotTransmit p s = _
  rw [execFlitSlotTransmit, onUnit_next (decide_eq_true hp) hl]
  simp only [hst]

section
variable (hr : L.resetAt = none) {f : List Byte} (hf : flitGood f = true)
include hr hf

/-- A discovery flit tells an ACTIVE link that its peer has restarted, and a link in DISCOVERY what its peer has seen. -/
theorem discoveryFlitReceive_next (hst : L.state = .active ∨ L.state = .discovery) (hk : flitKind f = 2) :
    exec (.discoveryFlitReceive p f) s = .next (State.slotIn (
      if L.state = .active then s.linkDown p 0xB .down
      else if discoveryOk f = false then s.linkDown p 5 .down
      else s.modLink p fun L => { L with
        disc := (f.drop 2).take 22, peerSeen := true, seenSeen := L.seenSeen || decide (fieldAt f 17 1 % 2 = 1) }) p) := by
  subst hL
  show execDiscoveryFlitReceive p f s = _
  rw [execDiscoveryFlitReceive, onFlit_bytes hp hl hst hr hf]
  rw [if_pos hk, State.rxDiscovery]
  rcases hst with h | h <;> simp [h]

/-- In DISCOVERY only the reserved fields of a control flit count. -/
theorem controlFlitReceive_discovery (hst : L.state = .discovery) (hk : flitKind f = 1) (hbad : controlOk f = false) :
    exec (.controlFlitReceive p f) s = .next ((s.linkDown p 5 .down).slotIn p) := by
  subst hL
  show execControlFlitReceive p f s = _
  rw [execControlFlitReceive, onFlit_bytes hp hl (.inr hst) hr hf]
  simp [hk, hst, hbad]

/-- A flit of a reserved kind breaks the protocol. -/
theorem dataFlitReceive_reserved (hst : L.state = .active) (hk : 2 < flitKind f) :
    exec (.dataFlitReceive p f) s = .next ((s.linkDown p 5 .down).slotIn p) := by
  subst hL
  show execDataFlitReceive p f s = _
  rw [execDataFlitReceive, onFlit_bytes hp hl (.inl hst) hr hf]
  rw [if_neg (by omega), if_pos hk]

end

/-! ### Coming up (09 R269) -/

/-- The link of port p as it enters ACTIVE: its stripe's counters start at 0, and it notes whether its peer is another than before. -/
def Link.entersActive (L : Link) (t3 now : Nat) : Link :=
  { L with
    state := .active, since := t3, activeAt := now, lastCtl := t3, slotAt := t3, slot := 0, seq := 0#12, expect := 0#12
    grantTx := [], grantRx := [], used := [], rxCnt := [], retry := [], resend := [], rxBuf := [], txBuf := [], txStarts := [], rxSlot := 0
    rxNext := none, rxSkip := 0, rxDrop := false, awaiting := false, naks := 0, nakPend := false, pausedAt := none
    peerChanged := L.peerChanged || (match L.lastPeer with | some x => x != peerOf L.disc | none => false)
    lastPeer := some (peerOf L.disc) }

theorem enterActive_next (hst : L.state = .discovery) (hseen : L.seenSeen = true) (hsent : 16 ≤ L.sent16) (hfw : s.fwLink = true) :
    exec (.enterActive p) s = .next (((s.modLink p fun L => L.entersActive s.t3 s.now).grantAll p).devEvent 3 stOk
      [p, LinkState.active.code, L.reason]) := by
  subst hL
  exact onUnit_if_pos (decide_eq_true hp) hl (by simp [hst, hseen, hsent, hfw])

/-! ### Going down (09 R270) -/

theorem laneLossOfSignal_active {lane : Nat} (hlane : lane < 8) (hst : L.state = .active ∨ L.state = .discovery) (hmap : L.rxMap.getLsbD lane = true) :
    exec (.laneLossOfSignal p lane) s = .next (s.linkDown p 2 .down) := by
  subst hL
  refine (onUnit_if_pos (by simp [hp, hlane]) hl (by simpa using hst)).trans ?_
  rw [if_pos hmap]

theorem laneLossOfSignal_training {lane : Nat} (hlane : lane < 8) (hst : L.state = .laneLock ∨ L.state = .deskew) :
    exec (.laneLossOfSignal p lane) s = .next (s.modLink p fun L => { L with
      locked := L.locked &&& ~~~ laneBit lane, inLine := L.inLine &&& ~~~ laneBit lane, laneCtr := SMap.set noneAt lane none L.laneCtr,
      trainTx := 0 }) := by
  subst hL
  show execLaneLossOfSignal p lane s = _
  rw [execLaneLossOfSignal, onUnit_next (by simp [hp, hlane]) hl]
  dsimp only
  rw [if_neg (by rcases hst with h | h <;> simp [h]), if_pos (by simpa using hst)]

theorem retryExhausted_next (hst : L.state = .active) (hn : 8 ≤ L.naks) : exec (.retryExhausted p) s = .next (s.linkDown p 3 .down) := by
  subst hL
  exact onUnit_if_pos (decide_eq_true hp) hl (by simp [hst, hn])

theorem controlTimeout_next (hst : L.state = .active) (hlate : s.after L.lastCtl (usec 10) = true) :
    exec (.controlTimeout p) s = .next (s.linkDown p 4 .down) := by
  subst hL
  exact onUnit_if_pos (decide_eq_true hp) hl (by simp [hst, hlate])

theorem pauseTimeout_next {t : Nat} (hst : L.state = .active) (hpa : L.pausedAt = some t) (hlate : s.after t (msec 1) = true)
    (hend : t + msec 1 ≤ L.pauseEnd) : exec (.pauseTimeout p) s = .next (s.linkDown p 6 .down) := by
  subst hL
  show execPauseTimeout p s = _
  rw [execPauseTimeout, onUnit_next (decide_eq_true hp) hl, hpa]
  simp [hst, hlate, hend]

/-- A training block on an ACTIVE link comes from a peer that has restarted. -/
theorem trainingBlockReceive_active {lane : Nat} {b : List Byte} (hlane : lane < 8) (hst : L.state = .active) (hb : b.length ≠ 9) :
    exec (.trainingBlockReceive p lane b) s = .next (s.linkDown p 0xB .down) := by
  subst hL
  show execTrainingBlockReceive p lane b s = _
  rw [execTrainingBlockReceive, onUnit_next (by simp [hp, hlane]) hl, if_neg hb]
  exact congrArg _ (if_pos hst)

end

/-! ### The obligations -/

/-- Settles O51: each row of training does what its state calls for, and a block or a flit that a row brings is read before it is acted on. -/
theorem linksTrainAndComeUp : Obligations.LinksTrainAndComeUp := by
  unfold Obligations.LinksTrainAndComeUp
  refine fun s p L hp hl hL => ⟨retrainTimer_next hp hl hL, fun hst => ⟨flitSlotTransmit_trains hp hl hL hst, L.trainSlot_counts s.t3⟩,
    fun lane hlane => laneBlockLock_next hp hl hL hlane, fun lane b hlane hst hlock hb hhead hfw => ?payload,
    fun lane b d s1 hlane hb hin hst hlock hhead hfw => ?block, enterDiscovery_next hp hl hL, flitSlotTransmit_discovery hp hl hL,
    fun f hst hr hf hk hok => ?discovered, fun f hst hr hf => ⟨fun hk hbad => ?reserved, controlFlitReceive_discovery hp hl hL hr hf hst⟩,
    fun hst hseen hsent hfw => ?active, fun hst hlate hours hpeer => ?timeout⟩
  case payload => exact trainingBlockReceive_aligns hp hl hlane (if_neg hb) (hL ▸ hst) (hL ▸ hlock) hhead hfw
  case block =>
    obtain rfl : (s.blockIn p lane b).2 = s1 := by rw [hin]
    have hstate : ((s.blockIn p lane b).2.port p).link.state = L.state := hL ▸ State.blockIn_keeps Link.state (fun _ _ _ => rfl) s p lane b
    have hlocked : ((s.blockIn p lane b).2.port p).link.locked = L.locked := hL ▸ State.blockIn_keeps Link.locked (fun _ _ _ => rfl) s p lane b
    exact trainingBlockReceive_aligns hp hl hlane ((if_pos hb).trans hin) (hstate ▸ hst) (hlocked ▸ hlock) hhead
      (by rw [State.fwLink, State.fwpUp, State.blockIn_dev]; exact hfw)
  case discovered => rw [discoveryFlitReceive_next hp hl hL hr hf (.inr hst) hk, if_neg (by simp [hst]), if_neg (by simp [hok])]
  case reserved => rw [discoveryFlitReceive_next hp hl hL hr hf (.inr hst) hk, if_neg (by simp [hst]), if_pos hbad]
  case active =>
    refine ⟨_, enterActive_next hp hl hL hst hseen hsent hfw, rfl, fun q hq => by rw [State.modLink_port', if_neg hq], ?_⟩
    rw [State.modLink_port', if_pos rfl, hL]
    exact ⟨rfl, rfl, rfl, rfl, rfl, rfl, rfl, rfl, rfl⟩
  case timeout =>
    rw [trainingTimeout_next hp hl hL hst hlate, if_neg]
    rintro (hfew | ⟨hnot, hfew⟩)
    · omega
    · exact absurd (hpeer.resolve_left hnot) (by omega)

/-- Settles O52: each cause that a row brings takes its port down for that cause alone, and going down changes no other port. -/
theorem linksGoDown : Obligations.LinksGoDown := by
  unfold Obligations.LinksGoDown
  refine ⟨fun s p reason st => ⟨by rw [State.linkDown_self]; rfl, by rw [State.linkDown_self], fun q hq => State.linkDown_other _ _ _ _ hq⟩,
    fun s p L hp hl hL => ⟨fun lane => laneLossOfSignal_active hp hl hL, fun lane => laneLossOfSignal_training hp hl hL, retryExhausted_next hp hl hL,
      controlTimeout_next hp hl hL, fun f hst hr hf => dataFlitReceive_reserved hp hl hL hr hf hst, fun t => pauseTimeout_next hp hl hL,
      fun lane b => trainingBlockReceive_active hp hl hL, fun f hst hr hf hk => ?restarted, fun hst hlate hfew => ?timeout⟩⟩
  case restarted => rw [discoveryFlitReceive_next hp hl hL hr hf (.inl hst) hk, if_pos hst]
  case timeout => rw [trainingTimeout_next hp hl hL hst hlate, if_pos hfew]

end Sys2Proof.Machine

end

section

/-! The rows that send, resend, take and acknowledge flits, and their timers (09 R255 to R257, R259 to R262, R264, R265, R271). -/

namespace Sys2Proof.Machine

/-! ### Sending (09 R256, R262, R265, R275) -/

/-- A FLIT loop is a state of its own. -/
theorem Link.state_of_flitLoop {L : Link} (h : L.flitLoop = true) : L.state = .loop := by
  simp only [Link.flitLoop, Bool.and_eq_true, decide_eq_true_eq] at h
  exact h.1

theorem Link.flitLoop_of_active {L : Link} (h : L.state = .active) : L.flitLoop = false := by simp [Link.flitLoop, h]

section
variable {s : State} {p : Nat} {L : Link} (hp : p < 36) (hl : s.live = true) (hL : L = (s.port p).link)
include hL

/-- A resend goes before any new flit, and only a new flit of a FLIT loop draws its payload. -/
theorem State.flitSlot_resends {f : BitVec 12 × List Byte} {rest : List (BitVec 12 × List Byte)}
    (hd : L.sendsData s.t3 (L.flitLoop || !L.txBuf.isEmpty) = true) (hre : L.resend = f :: rest) :
    s.flitSlot p = (((s.countLink p cFlitsTx 1).countLink p cReplay 1).modLink p fun L =>
      { L with lastFlit := f.2, resend := rest, slot := L.slot + 1, slotAt := s.t3 }).stripeOut p L.txMap L.slot := by
  subst hL
  have hsend : s.flitSlot p = (s.sendData p).stripeOut p (s.port p).link.txMap (s.port p).link.slot := by simp [State.flitSlot, hd, hre]
  rw [hsend, State.sendData, hre]

/-- An ACTIVE link keeps the new flit that it sends in its retry buffer. -/
theorem State.flitSlot_sendsNew (hst : L.state = .active) (hd : L.sendsData s.t3 (!L.txBuf.isEmpty) = true) (hre : L.resend = []) {f : List Byte}
    (hf : f = dataFlit L.seq (L.txBuf.take 246)) :
    s.flitSlot p = ((s.countLink p cFlitsTx 1).modLink p fun L => { L.takeStream with
      lastFlit := f, retry := L.retry ++ [(L.seq, f)], seq := L.seq + 1, slot := L.slot + 1, slotAt := s.t3 }).stripeOut p L.txMap L.slot := by
  subst hL hf
  have hsend : s.flitSlot p = (s.sendData p).stripeOut p (s.port p).link.txMap (s.port p).link.slot := by
    simp [State.flitSlot, Link.flitLoop_of_active hst, hd]
  rw [hsend, State.sendData, hre]

theorem State.flitSlot_sendsControl (hd : L.sendsData s.t3 (L.flitLoop || !L.txBuf.isEmpty) = false) :
    s.flitSlot p = (s.sendControl p).stripeOut p L.txMap L.slot := by
  subst hL
  simp [State.flitSlot, hd]

include hp hl

theorem flitSlotTransmit_next (hst : L.state = .active ∨ L.flitLoop = true) : exec (.flitSlotTransmit p) s = .next (s.flitSlot p) := by
  subst hL
  show execFlitSlotTransmit p s = _
  rw [execFlitSlotTransmit, onUnit_next (decide_eq_true hp) hl]
  rcases hst with h | h
  · simp only [h]
  · simp only [Link.state_of_flitLoop h, h, if_true]

/-! ### Timers (09 R261, R265) -/

theorem replayTimerExpiry_next (hst : L.state = .active ∨ L.flitLoop = true) (haw : L.awaiting = true) (hlate : s.after L.replayAt (usec 4) = true) :
    exec (.replayTimerExpiry p) s = .next (s.askResend p) := by
  subst hL
  exact onUnit_if_pos (decide_eq_true hp) hl (by simpa [haw, hlate] using hst)

theorem pauseExpiry_next (hpa : L.pausedAt.isSome = true) (hend : L.pauseEnd ≤ s.t3) :
    exec (.pauseExpiry p) s = .next (s.modLink p fun L => { L with pausedAt := none }) := by
  subst hL
  exact onUnit_if_pos (decide_eq_true hp) hl (by simp [hpa, hend])

end

theorem State.counter_of_ctr {s s' : State} (h : s'.ctr = s.ctr) (k : Nat) : s'.counter k = s.counter k := by
  rw [State.counter, h]
  rfl

/-- A counter that is advanced by n. -/
theorem State.count_counter (s : State) (k n : Nat) : (s.count k n).counter k = s.counter k + BitVec.ofNat 64 n := SMap.get_set_self _ _ _ _

/-! ### What a control flit brings (09 R261, R262, R264) -/

/-- Each class takes its grant as it stood before the flit. -/
theorem get_grantsTaken (v : Nat → BitVec 16) (g : SMap (BitVec 16)) (n c : Nat) :
    SMap.get zeroBits ((List.range n).foldl (fun g c => SMap.set zeroBits c (newGrant (SMap.get zeroBits g c) (v c)) g) g) c =
      if c < n then newGrant (SMap.get zeroBits g c) (v c) else SMap.get zeroBits g c := by
  induction n with
  | zero => rfl
  | succ n ih =>
    rw [List.range_succ, List.foldl_append, List.foldl_cons, List.foldl_nil, SMap.get_set]
    split
    · next h =>
      subst h
      rw [ih, if_neg (Nat.lt_irrefl c), if_pos (Nat.lt_succ_self c)]
    · next h =>
      rw [ih]
      split <;> split <;> first | rfl | omega

/-- A link after a good control flit that leaves kept in its retry buffer: its acknowledgement, its NAK, its pause and its grants taken. -/
def Link.acknowledged (L : Link) (t3 : Nat) (f : List Byte) (kept : List (BitVec 12 × List Byte)) : Link :=
  { L.takePause t3 (fieldAt f 4 2) with
    retry := kept, ackSeen := BitVec.ofNat 12 (fieldAt f 2 2)
    resend := if fieldAt f 2 2 / 4096 % 2 == 1 then kept else L.resend.filter fun x => kept.any fun y => y.1 == x.1
    grantRx := (List.range 16).foldl (fun g c =>
      SMap.set zeroBits c (newGrant (SMap.get zeroBits g c) (BitVec.ofNat 16 (fieldAt f (12 + 2 * c) 2))) g) L.grantRx }

theorem Link.acknowledged_lastCtl (L : Link) (t3 : Nat) (f : List Byte) (kept : List (BitVec 12 × List Byte)) :
    (L.acknowledged t3 f kept).lastCtl = L.lastCtl := by
  unfold Link.acknowledged Link.takePause
  dsimp only
  split <;> rfl

theorem Link.get_acknowledged_grantRx (L : Link) (t3 : Nat) (f : List Byte) (kept : List (BitVec 12 × List Byte)) {c : Nat} (hc : c < 16) :
    SMap.get zeroBits (L.acknowledged t3 f kept).grantRx c = newGrant (SMap.get zeroBits L.grantRx c) (BitVec.ofNat 16 (fieldAt f (12 + 2 * c) 2)) := by
  unfold Link.acknowledged
  dsimp only
  rw [get_grantsTaken fun c => BitVec.ofNat 16 (fieldAt f (12 + 2 * c) 2), if_pos hc]

/-- s after a control flit f has come whole on port p and leaves kept in its retry buffer. -/
def State.acknowledge (s : State) (p : Nat) (f : List Byte) (kept : List (BitVec 12 × List Byte)) : State :=
  let s := s.modLink p fun L => { L with lastCtl := s.t3 }
  let s := if fieldAt f 2 2 / 4096 % 2 == 1 then s.countLink p cNakRx 1 else s
  s.modLink p fun L => L.acknowledged s.t3 f kept

section
variable (s : State) (p : Nat) (f : List Byte) (kept : List (BitVec 12 × List Byte))

theorem State.acknowledge_link : ((s.acknowledge p f kept).port p).link =
    ({ (s.port p).link with lastCtl := s.t3 } : Link).acknowledged s.t3 f kept := by
  unfold State.acknowledge
  dsimp only
  split
  · simp only [State.modLink_port', State.countLink_port', ↓reduceIte]
    rfl
  · simp only [State.modLink_port', ↓reduceIte]
    rfl

theorem State.acknowledge_other {q : Nat} (hq : q ≠ p) : (s.acknowledge p f kept).port q = s.port q := by
  unfold State.acknowledge
  dsimp only
  split <;> simp [hq]

theorem State.acknowledge_eq : s.acknowledge p f kept = { s with ports := (s.acknowledge p f kept).ports, ctr := (s.acknowledge p f kept).ctr } := by
  unfold State.acknowledge
  dsimp only
  split <;> rfl

/-- Only a NAK is counted. -/
theorem State.acknowledge_ctr : (s.acknowledge p f kept).ctr = if fieldAt f 2 2 / 4096 % 2 = 1 then (s.countLink p cNakRx 1).ctr else s.ctr := by
  unfold State.acknowledge
  simp only [beq_iff_eq]
  split <;> rfl

theorem State.rxControl_next (hok : controlOk f = true)
    (hkept : releaseTo (BitVec.ofNat 12 (fieldAt f 2 2)) (s.port p).link.retry (s.port p).link.seq = some kept) :
    s.rxControl p f = (s.acknowledge p f kept).takeMaps p f := by
  unfold State.rxControl
  dsimp only
  rw [if_neg (by simp [hok])]
  simp only [State.modLink_port', ↓reduceIte, hkept]
  rfl

theorem State.rxControl_broken (hbad : controlOk f = false ∨
      releaseTo (BitVec.ofNat 12 (fieldAt f 2 2)) (s.port p).link.retry (s.port p).link.seq = none) :
    s.rxControl p f = (s.modLink p fun L => { L with lastCtl := s.t3 }).linkDown p 5 .down := by
  unfold State.rxControl
  dsimp only
  split
  · rfl
  · next hok =>
    have hnone := hbad.resolve_left (by simpa using hok)
    simp [hnone]

end

/-! ### Receiving on an ACTIVE link (09 R259, R261) -/

theorem State.flitIn_t3 (s : State) (p : Nat) (b : List Byte) : (s.flitIn p b).2.t3 = s.t3 := by
  unfold State.flitIn
  split
  · refine foldl_keeps (fun a : List Byte × State => a.2.t3) ?_ _ _
    exact fun _ _ => State.blockIn_t3 _ _ _ _
  · rfl

section
variable {s s1 : State} {p : Nat} {b f : List Byte} {L : Link} (hp : p < 36) (hl : s.live = true) (hin : s.flitIn p b = (f, s1))
  (hL : L = (s1.port p).link) (hst : L.state = .active) (hr : L.resetAt = none)
include hp hl hin hL hst hr

/-- A data flit is taken when it is the one expected; another asks for a resend unless one is awaited. -/
theorem dataFlitReceive_data (hf : flitGood f = true) (hk : flitKind f = 0) :
    exec (.dataFlitReceive p b) s = .next (State.slotIn (
      if BitVec.ofNat 12 (fieldAt f 0 2) = L.expect then
        ((s1.countLink p cFlitsRx 1).modLink p fun L => { L with expect := L.expect + 1, awaiting := false, naks := 0 }).acceptPayload p
          ((f.drop 2).take 246)
      else if L.awaiting then s1.countLink p cSeqDiscard 1 else (s1.countLink p cSeqDiscard 1).askResend p) p) := by
  subst hL
  show execDataFlitReceive p b s = _
  rw [execDataFlitReceive, onFlit_good hp hl hin (State.takesFlits_of (.inl hst) hr) hf]
  simp [hk, hst, State.rxData, Link.flitLoop_of_active hst]

/-- Whichever row brings a flit whose CRC fails, it is discarded, and asked for again unless that has been done (09 R259, R261). -/
theorem flitReceive_bad (hf : flitGood f = false) {s2 : State}
    (hs2 : s2 = (if L.awaiting then s1.countLink p cCrcErr 1 else (s1.countLink p cCrcErr 1).askResend p).slotIn p) :
    exec (.dataFlitReceive p b) s = .next s2 ∧ exec (.controlFlitReceive p b) s = .next s2 ∧ exec (.discoveryFlitReceive p b) s = .next s2 := by
  subst hL hs2
  have hbad : s1.rxBad p =
      if (s1.port p).link.awaiting then s1.countLink p cCrcErr 1 else (s1.countLink p cCrcErr 1).askResend p := by simp [State.rxBad, hst]
  show execDataFlitReceive p b s = _ ∧ execControlFlitReceive p b s = _ ∧ execDiscoveryFlitReceive p b s = _
  simp only [execDataFlitReceive, execControlFlitReceive, execDiscoveryFlitReceive,
    onFlit_bad hp hl hin (State.takesFlits_of (.inl hst) hr) hf, hbad, and_self]

theorem controlFlitReceive_next (hf : flitGood f = true) (hk : flitKind f = 1) : exec (.controlFlitReceive p b) s = .next ((s1.rxControl p f).slotIn p) := by
  subst hL
  show execControlFlitReceive p b s = _
  rw [execControlFlitReceive, onFlit_good hp hl hin (State.takesFlits_of (.inl hst) hr) hf]
  simp [hk, hst]

end

/-! ### The obligation -/

/-- Settles O53: the slot that begins sends what comes first of resend, new flit and control flit, and what arrives is taken, asked for again or acted on. -/
theorem flitsMoveOnALink : Obligations.FlitsMoveOnALink := by
  unfold Obligations.FlitsMoveOnALink
  refine ⟨fun s p bytes h => State.flitIn_bytes s p h, fun s p L hp hl hL hst => ?sends, fun s s1 p b f L hp hl hin hL hst hr => ?takes,
    fun s p L hp hl hL => ⟨replayTimerExpiry_next hp hl hL, pauseExpiry_next hp hl hL⟩⟩
  case sends =>
    rw [flitSlotTransmit_next hp hl hL hst]
    exact ⟨fun f rest hd hre => by rw [State.flitSlot_resends hL hd hre],
      fun f hact hd hre hf => by rw [State.flitSlot_sendsNew hL hact hd hre hf],
      fun hd => by rw [State.flitSlot_sendsControl hL hd]⟩
  case takes =>
    have hdata := dataFlitReceive_data hp hl hin hL hst hr
    have hcontrol := controlFlitReceive_next hp hl hin hL hst hr
    have ht : s1.t3 = s.t3 := by rw [← s.flitIn_t3 p b, hin]
    refine ⟨fun hf hk he => by rw [hdata hf hk, if_pos he], fun hf hk he => by rw [hdata hf hk, if_neg he],
      fun hf s2 => flitReceive_bad hp hl hin hL hst hr hf,
      fun hf hk hbad => by rw [hcontrol hf hk, State.rxControl_broken _ _ _ (hL ▸ hbad), ht], fun kept hf hk hok hkept => ?control⟩
    case control =>
      have hlink := s1.acknowledge_link p f kept
      have hctr := s1.acknowledge_ctr p f kept
      refine ⟨s1.acknowledge p f kept, by rw [hcontrol hf hk, State.rxControl_next _ _ _ _ hok (hL ▸ hkept)], s1.acknowledge_eq p f kept,
        fun q hq => s1.acknowledge_other p f kept hq, by rw [hlink]; rfl, by rw [hlink, Link.acknowledged_lastCtl, ht], fun hnak => ⟨?_, ?_⟩,
        fun hnak => ⟨?_, ?_⟩, fun c hc => ?_⟩
      · rw [hlink]
        exact if_pos (beq_iff_eq.2 hnak)
      · rw [State.counter_of_ctr (hctr.trans (if_pos hnak)), State.countLink, State.count_counter]
        rfl
      · rw [hctr, if_neg (by omega)]
      · rw [hlink, hL]
        exact if_neg (by simp [hnak])
      · rw [hlink, Link.get_acknowledged_grantRx _ _ _ _ hc, hL]

end Sys2Proof.Machine

end

section

/-! The rows that watch lanes, lasers and link engines (09 R254, R255, R266, R271, R275, R277; 13 R344, R346, R352, R354). -/

namespace Sys2Proof.Machine

/-! ### Masks of lanes -/

theorem laneBit_getLsbD {l i : Nat} (hl : l < 8) (hi : i < 8) : (laneBit l).getLsbD i = decide (i = l) := by
  rw [laneBit, Nat.mod_eq_of_lt hl, BitVec.getLsbD_ofNat, Nat.testBit_two_pow]
  simp [hi, eq_comm]

/-- A mask of the lanes below n that a condition names. -/
theorem getLsbD_laneMask (c : Nat → Prop) [DecidablePred c] {n i : Nat} (hn : n ≤ 8) (hi : i < 8) :
    ((List.range n).foldl (fun m l => if c l then m ||| laneBit l else m) 0#8).getLsbD i = decide (i < n ∧ c i) := by
  induction n with
  | zero => simp
  | succ n ih =>
    rw [List.range_succ, List.foldl_append, List.foldl_cons, List.foldl_nil]
    have hlt (h : i ≠ n) : i < n + 1 ↔ i < n := by omega
    by_cases hc : c n
    · rw [if_pos hc, BitVec.getLsbD_or, ih (by omega), laneBit_getLsbD (by omega) hi]
      by_cases hin : i = n
      · simp [hin, hc]
      · simp [hin, hlt hin]
    · rw [if_neg hc, ih (by omega)]
      by_cases hin : i = n
      · simp [hin, hc]
      · simp [hlt hin]

/-! ### Sparing windows (09 R271) -/

/-- s with the invalid sync headers of lanes 0 to n - 1 of port p counted. -/
def State.countSync (s : State) (p : Nat) (errs : List Nat) (n : Nat) : State :=
  (List.range n).foldl (fun s l => s.countLink p (cSync + l) (errs.getD l 0)) s

theorem State.countSync_succ (s : State) (p : Nat) (errs : List Nat) (n : Nat) :
    s.countSync p errs (n + 1) = (s.countSync p errs n).count (ctrLink p (cSync + n)) (errs.getD n 0) := by
  rw [State.countSync, List.range_succ, List.foldl_append]
  rfl

theorem State.countSync_eq (s : State) (p : Nat) (errs : List Nat) (n : Nat) :
    s.countSync p errs n = { s with ctr := (s.countSync p errs n).ctr } := by
  induction n with
  | zero => rfl
  | succ n ih =>
    rw [State.countSync_succ, ih]
    rfl

theorem State.countSync_fwLink (s : State) (p : Nat) (errs : List Nat) (n : Nat) : (s.countSync p errs n).fwLink = s.fwLink := by
  refine foldl_keeps State.fwLink ?_ _ _
  exact fun _ _ => rfl

theorem State.countSync_port (s : State) (p : Nat) (errs : List Nat) (n q : Nat) : (s.countSync p errs n).port q = s.port q := by
  refine foldl_keeps (fun x : State => x.port q) ?_ _ _
  exact fun _ _ => rfl

/-- Each lane has a counter of its own. -/
theorem State.countSync_counter (s : State) (p : Nat) (errs : List Nat) (n i : Nat) :
    (s.countSync p errs n).counter (ctrLink p (cSync + i)) =
      if i < n then s.counter (ctrLink p (cSync + i)) + BitVec.ofNat 64 (errs.getD i 0) else s.counter (ctrLink p (cSync + i)) := by
  induction n with
  | zero => rfl
  | succ n ih =>
    rw [State.countSync_succ, State.counter, State.count_ctr, SMap.get_set]
    by_cases hin : i = n
    · subst hin
      rw [if_pos rfl, if_pos (Nat.lt_succ_self i), ih, if_neg (Nat.lt_irrefl i)]
    · have hkey : ctrLink p (cSync + i) ≠ ctrLink p (cSync + n) := by
        simp only [ctrLink, ctrKey]
        omega
      rw [if_neg hkey]
      refine ih.trans ?_
      by_cases hlt : i < n
      · rw [if_pos hlt, if_pos (by omega)]
      · rw [if_neg hlt, if_neg (by omega)]

/-- The lanes of port p that have come to its error limit in a window whose blocks and whose row bring so many invalid sync headers. -/
def Port.spareLanes (P : Port) (errs : List Nat) : BitVec 8 :=
  (List.range 8).foldl (fun m l => if P.errLimit ≤ SMap.get zeroAt P.link.winErr l + errs.getD l 0 then m ||| laneBit l else m) 0#8

/-- Port p may ask its peer to drop lanes. -/
def State.sparesOn (s : State) (p : Nat) : Bool :=
  (s.port p).spare && s.fwLink && decide ((s.port p).link.state = .active) && decide (6 < laneCount (s.port p).link.rxMap)

/-- A lane is asked for when the port may spare, the lane is in use and its errors have come to the limit; what was asked for before stays so. -/
theorem State.getLsbD_dropReq (s : State) (p : Nat) (errs : List Nat) {i : Nat} (hi : i < 8) :
    (if s.sparesOn p then (s.port p).link.dropReq ||| ((s.port p).spareLanes errs &&& (s.port p).link.rxMap) else (s.port p).link.dropReq).getLsbD i =
      ((s.port p).link.dropReq.getLsbD i || (s.sparesOn p && (s.port p).link.rxMap.getLsbD i &&
        decide ((s.port p).errLimit ≤ SMap.get zeroAt (s.port p).link.winErr i + errs.getD i 0))) := by
  cases s.sparesOn p with
  | false => simp
  | true =>
    rw [if_pos rfl, BitVec.getLsbD_or, BitVec.getLsbD_and, Port.spareLanes, getLsbD_laneMask _ (Nat.le_refl 8) hi]
    simp [hi, Bool.and_comm]

section
variable {s : State} {p : Nat} (hp : p < 36) (hl : s.live = true)
include hp hl

theorem sparingWindowEnd_next {errs : List Nat} (hend : (s.port p).link.winEnd ≤ s.now) :
    exec (.sparingWindowEnd p errs) s = .next ((s.countSync p errs 8).modLink p fun L => { L with
      winEnd := L.winEnd + 1000000000, winErr := []
      dropReq := if s.sparesOn p then L.dropReq ||| ((s.port p).spareLanes errs &&& L.rxMap) else L.dropReq }) := by
  show execSparingWindowEnd p errs s = _
  rw [execSparingWindowEnd, onUnit_next (decide_eq_true hp) hl]
  dsimp only
  rw [if_pos hend]
  simp only [State.sparesOn, Port.spareLanes, ← s.countSync_fwLink p errs 8, State.countSync]

/-! ### Lanes of a checked loop (09 R275) -/

section
variable {lane : Nat} (hlane : lane < 8) (hc : (s.port p).link.checks = true)
include hlane hc

theorem loopLaneAligned_next (hgood : (s.port p).link.laneBad.getLsbD lane = false) :
    exec (.loopLaneAligned p lane) s = .next (s.modLink p fun L => { L with aligned := L.aligned ||| laneBit lane, lost := L.lost &&& ~~~ laneBit lane }) :=
  onUnit_if_pos (by simp [hp, hlane]) hl (by simp [hc, hgood])

theorem loopLaneAlignmentLost_next (hal : (s.port p).link.aligned.getLsbD lane = true) :
    exec (.loopLaneAlignmentLost p lane) s =
      .next (s.modLink p fun L => { L with aligned := L.aligned &&& ~~~ laneBit lane, lost := L.lost ||| laneBit lane }) :=
  onUnit_if_pos (by simp [hp, hlane]) hl (by simp [hc, hal])

end
end

/-! ### Calibration (09 R254, R277; log 98) -/

/-- The gauges of an engine after a calibration cycle has brought its photodiodes' readings. -/
def Engine9.calibrated (e : Engine9) (power : List Int) : Engine9 :=
  { e with power := ((List.range (min 8 power.length)).zip power).foldl (fun m x => SMap.set (fun _ => (0 : Int)) x.1 x.2 m) e.power }

/-- The readings of the first eight photodiodes become the gauges; the others stay. -/
theorem Engine9.get_calibrated_power (e : Engine9) (power : List Int) (i : Nat) :
    SMap.get (fun _ => (0 : Int)) (e.calibrated power).power i =
      if i < 8 ∧ i < power.length then power.getD i 0 else SMap.get (fun _ => (0 : Int)) e.power i := by
  have hzip : (List.range (min 8 power.length)).zip power = (List.range (min 8 power.length)).map fun j => (0 + j, power.getD j 0) := by
    refine List.ext_getElem (by simp) fun j h1 h2 => ?_
    have hj : j < power.length := by simp at h2; omega
    simp [hj]
  rw [Engine9.calibrated]
  dsimp only
  rw [hzip, List.foldl_map, SMap.get_setRange]
  simp only [Nat.zero_le, true_and, Nat.zero_add, Nat.sub_zero, Nat.lt_min]

theorem oeCalibrationCycle_next {s : State} {o : Nat} (hl : s.live = true) (ho : o < 9) (late : Bool) (power : List Int) :
    exec (.oeCalibrationCycle o late power) s = .next ((if late then s.count (ctrKey 6 o 0) 1 else s).modOe o fun e => e.calibrated power) :=
  onUnit_next (decide_eq_true ho) hl

/-! ### Laser feeds (09 R252, R254, R267) -/

/-- s with port p held for the laser feed that it has lost. -/
def State.feedLost (s : State) (p : Nat) : State := (s.modLink p fun L => { L with heldLaser := true }).hold p 7 (s.port p).link.heldLaser

/-- s with port p no longer held for its laser feed. -/
def State.feedBack (s : State) (p : Nat) : State := (s.modLink p fun L => { L with heldLaser := false }).unhold p

/-- What a lost laser feed makes of a port: it is held for it, but that an ISOLATED one stays ISOLATED. -/
def Port.losesFeed (P P' : Port) : Prop :=
  P'.link.heldLaser = true ∧ (P.link.state = .isolated → P'.link.state = .isolated) ∧
    (P.link.state ≠ .isolated → P.link.heldLaser = false → P'.link.state = .held ∧ P'.link.reason = 7)

/-- What a recovered laser feed makes of a port: it is free unless something else holds it. -/
def Port.regainsFeed (P P' : Port) : Prop :=
  P'.link.heldLaser = false ∧ (P.link.state = .held → P.enable = true → P.link.heldEq = false → P.link.heldPower = false → P'.link.state = .down)

theorem State.feedLost_other (s : State) (p q : Nat) (hq : q ≠ p) : (s.feedLost p).port q = s.port q := by
  unfold State.feedLost State.hold
  split
  · simp [hq]
  · rw [State.linkDown_other _ _ _ _ hq]
    simp [hq]

theorem State.feedLost_self (s : State) (p : Nat) : (s.port p).losesFeed ((s.feedLost p).port p) := by
  unfold State.feedLost State.hold
  split
  · next h =>
    simp only [State.modLink_port', ↓reduceIte, Bool.or_eq_true, decide_eq_true_eq] at h ⊢
    exact ⟨rfl, id, fun hiso hnot => absurd (h.resolve_left hiso) (by simp [hnot])⟩
  · next h =>
    simp only [State.modLink_port', ↓reduceIte, Bool.or_eq_true, decide_eq_true_eq, not_or] at h
    simp only [Port.losesFeed, State.linkDown_self]
    exact ⟨by simp [Link.fresh], fun hiso => absurd hiso h.1, fun _ _ => ⟨by simp [Link.fresh], trivial⟩⟩

theorem State.feedLost_oes (s : State) (p : Nat) : (s.feedLost p).oes = s.oes := by
  unfold State.feedLost State.hold
  split
  · rfl
  · exact State.linkDown_oes _ _ _ _

theorem State.feedBack_other (s : State) (p q : Nat) (hq : q ≠ p) : (s.feedBack p).port q = s.port q := by
  unfold State.feedBack State.unhold
  split <;> simp [hq]

theorem State.feedBack_self (s : State) (p : Nat) : (s.port p).regainsFeed ((s.feedBack p).port p) := by
  unfold State.feedBack State.unhold
  split
  · next h => simp [Port.regainsFeed, Link.fresh]
  · next h =>
    simp only [State.modLink_port', ↓reduceIte, Bool.and_eq_true, decide_eq_true_eq, Bool.not_eq_true', not_and] at h
    simp only [Port.regainsFeed, State.modLink_port', ↓reduceIte, true_and]
    exact fun hst hen heq hpw => absurd (by simp [Port.isHeld, hen, heq, hpw]) (h hst)

theorem State.feedBack_oes (s : State) (p : Nat) : (s.feedBack p).oes = s.oes := by
  unfold State.feedBack State.unhold
  split <;> rfl

theorem feedPorts_nodup (o f : Nat) : (feedPorts o f).Nodup := by simp [feedPorts]

theorem feedMask_getLsbD {f : Nat} (hf : f < 2) : (BitVec.ofNat 2 (2 ^ f)).getLsbD f = true := by
  rw [BitVec.getLsbD_ofNat, Nat.testBit_two_pow_self, decide_eq_true hf]
  rfl

section
variable {s : State} {o f : Nat} (hl : s.live = true) (ho : o < 9) (hf : f < 2)
include hl ho hf

theorem laserFeedLow_next (hlow : (s.oe o).feedLow.getLsbD f = false) :
    exec (.laserFeedLow o f) s = .next ((feedPorts o f).foldl State.feedLost
      (s.modOe o fun e => { e with feedLow := e.feedLow ||| BitVec.ofNat 2 (2 ^ f) })) := by
  show execLaserFeedLow o f s = _
  rw [execLaserFeedLow, onUnit_next (by simp [ho, hf]) hl, if_neg (by simp [hlow])]
  rfl

theorem laserFeedRecovered_next (hlow : (s.oe o).feedLow.getLsbD f = true) :
    exec (.laserFeedRecovered o f) s = .next ((feedPorts o f).foldl State.feedBack
      (s.modOe o fun e => { e with feedLow := e.feedLow &&& ~~~ BitVec.ofNat 2 (2 ^ f) })) := by
  show execLaserFeedRecovered o f s = _
  rw [execLaserFeedRecovered, onUnit_next (by simp [ho, hf]) hl, if_neg (by simp [hlow])]
  rfl

end

/-! ### The reset of a link's engine (09 R266; 13 R344, R346, R352) -/

/-- The record of a link whose engine has started no slot for link_limit_us. -/
def State.linkWatchdogRec (s : State) (p : Nat) : ARec :=
  { type := 1, fault := faultWatchdog, unit := p, engine := 8
    detail := detail (toLE 1 8 ++ [0#8, 0xFF#8, 0#8] ++ toLE 4 noneField ++ toLE 4 0 ++ toLE 4 s.linkLimit ++ toLE 8 (baseAt (s.port p).link.slotAt) ++
      toLE 4 0 ++ toLE 4 p) }

section
variable {s : State} {p : Nat} {L : Link} (hp : p < 36) (hl : s.live = true) (hL : L = (s.port p).link)
include hp hl hL

theorem linkWatchdogFire_next (hst : L.state = .active) (hr : L.resetAt = none) (hlate : s.after L.slotAt (usec s.linkLimit) = true) :
    exec (.linkWatchdogFire p) s = .next ((s.almQueue (s.linkWatchdogRec p)).resetLink p faultWatchdog) := by
  subst hL
  exact onUnit_if_pos (decide_eq_true hp) hl (by simp [hst, hr, hlate])

theorem linkEngineResetDone_next {t : Nat} (hr : L.resetAt = some t) (hearly : s.after t (usec 8) = false) :
    exec (.linkEngineResetDone p) s = .next (((s.almQueue (linkResetRec p L (s.nsSince t) false)).modLink p fun L =>
      { L with resetAt := none, cmds := [], nakPend := true, awaiting := true, replayAt := s.t3, naks := L.naks + 1, slotAt := s.t3 }).finishAll L.cmds
        stOk [s.nextSeq, noneField]) := by
  subst hL
  show execLinkEngineResetDone p s = _
  rw [execLinkEngineResetDone, onUnit_next (decide_eq_true hp) hl]
  dsimp only
  rw [hr]
  dsimp only
  rw [if_neg (by simp [hearly])]

end

/-! ### The reset of a port group (13 R352, R354) -/

/-- s with port q taken down for the reset of its group, unless it is ISOLATED, HELD or in LOOP; its own reset is over. -/
def State.groupDown (s : State) (q : Nat) : State :=
  (if (s.port q).link.state = .isolated || (s.port q).link.state = .held || (s.port q).link.state = .loop then s else s.linkDown q 2 .down).modLink q
    fun L => { L with resetAt := none }

theorem State.clearGroupCmds_fab (s : State) (g : Nat) : (s.clearGroupCmds g).fab = s.fab := by
  refine foldl_keeps State.fab ?_ _ _
  exact fun _ _ => rfl

/-- What the reset of its group makes of a port. -/
def Port.goesDown (P P' : Port) : Prop :=
  P'.link.resetAt = none ∧ (P.link.state = .active → P'.link.state = .down ∧ P'.link.reason = 2)

theorem State.groupDown_other (s : State) (p q : Nat) (hq : q ≠ p) : (s.groupDown p).port q = s.port q := by
  rw [State.groupDown, State.modLink_port', if_neg hq]
  split
  · rfl
  · exact State.linkDown_other _ _ _ _ hq

theorem State.groupDown_self (s : State) (p : Nat) : (s.port p).goesDown ((s.groupDown p).port p) := by
  rw [State.groupDown, State.modLink_port', if_pos rfl]
  refine ⟨rfl, fun hact => ?_⟩
  rw [if_neg (by simp [hact]), State.linkDown_self]
  exact ⟨rfl, rfl⟩

theorem State.groupDown_t3 (s : State) (q : Nat) : (s.groupDown q).t3 = s.t3 := by
  unfold State.groupDown
  rw [State.modLink_t3']
  split
  · rfl
  · exact State.linkDown_t3 _ _ _ _

/-- The ports of electrical port group g. -/
def groupPorts (g : Nat) : List Nat := [4 * g, 4 * g + 1, 4 * g + 2, 4 * g + 3]

theorem mem_groupPorts {g q : Nat} : q ∈ groupPorts g ↔ q / 4 = g := by
  simp only [groupPorts, List.mem_cons, List.not_mem_nil, or_false]
  omega

theorem groupPorts_nodup (g : Nat) : (groupPorts g).Nodup := by simp [groupPorts]

/-- s with its ports of group g taken down, and the reset of the group begun. -/
def State.resetGroup (s : State) (g : Nat) : State :=
  let s := (groupPorts g).foldl State.groupDown s
  s.modFab fun b => { b with groupReset := SMap.set noneAt g (some s.t3) b.groupReset }

theorem State.resetGroup_groupReset (s : State) (g : Nat) : SMap.get noneAt (s.resetGroup g).fab.groupReset g = some s.t3 := by
  rw [State.resetGroup, State.modFab_fab]
  dsimp only
  rw [SMap.get_set_self, foldl_keeps State.t3 State.groupDown_t3]

section
variable {s : State} {g q : Nat}

theorem State.resetGroup_port_of_mem (hq : q / 4 = g) : (s.port q).goesDown ((s.resetGroup g).port q) := by
  rw [State.resetGroup, State.modFab_port']
  exact foldl_port_of_mem State.groupDown_other State.groupDown_self (groupPorts_nodup g) (mem_groupPorts.2 hq) s

theorem State.resetGroup_port_of_not_mem (hq : q / 4 ≠ g) : (s.resetGroup g).port q = s.port q := by
  rw [State.resetGroup, State.modFab_port']
  exact foldl_port_of_not_mem State.groupDown_other (mt mem_groupPorts.1 hq) s

end

theorem linkEngineResetOverrun_next {s : State} {p t : Nat} (hp : p < 36) (hl : s.live = true) (hr : (s.port p).link.resetAt = some t)
    (hlate : s.after t (usec 8) = true) :
    exec (.linkEngineResetOverrun p) s = .next ((s.almQueue (linkResetRec p (s.port p).link noneField false)).resetGroup (p / 4)) := by
  show execLinkEngineResetOverrun p s = _
  rw [execLinkEngineResetOverrun, onUnit_next (decide_eq_true hp) hl]
  dsimp only
  rw [hr]
  dsimp only
  rw [if_pos hlate]
  unfold State.resetGroup State.groupDown groupPorts
  rfl

/-- s with the reset of group g at its end, and that recorded. -/
def State.endGroupReset (s : State) (g : Nat) (r : ARec) : State :=
  ((s.almQueue r).modFab fun b => { b with groupReset := SMap.set noneAt g none b.groupReset }).clearGroupCmds g

theorem State.endGroupReset_groupReset (s : State) (g : Nat) (r : ARec) : SMap.get noneAt (s.endGroupReset g r).fab.groupReset g = none := by
  rw [State.endGroupReset, State.clearGroupCmds_fab, State.modFab_fab]
  exact SMap.get_set_self noneAt _ g none

theorem portGroupResetDone_next {s : State} {g t : Nat} (hl : s.live = true) (hg : g < 9) (hr : SMap.get noneAt s.fab.groupReset g = some t)
    (hearly : s.after t (msec 1) = false) :
    exec (.portGroupResetDone g) s = .next ((s.endGroupReset g (s.groupResetRec g (s.nsSince t))).finishAll (s.groupCmds g) stOk [s.nextSeq, noneField]) := by
  show execPortGroupResetDone g s = _
  rw [execPortGroupResetDone, onUnit_next (decide_eq_true hg) hl, hr]
  dsimp only
  rw [if_neg (by simp [hearly]), State.endGroupReset]

theorem State.withTillers_linkView (s : State) (m : SMap Tiller) : ({ s with tillers := m } : State).linkView = s.linkView := rfl

/-- A WEDGED device keeps its ports and the groups under reset. -/
theorem State.wedge_linkView (s : State) (lastRec reason : Nat) : (s.wedge lastRec reason).linkView = { s.linkView with devState := .wedged } := by
  unfold State.wedge
  dsimp only
  rw [State.modFab_linkView _ rfl, State.withTillers_linkView, State.devEvent_linkView, State.faultNotice_linkView _ (by decide), State.almHw_linkView]
  rfl

theorem portGroupResetOverrun_next {s : State} {g t : Nat} (hl : s.live = true) (hg : g < 9) (hr : SMap.get noneAt s.fab.groupReset g = some t)
    (hlate : s.after t (msec 1) = true) :
    exec (.portGroupResetOverrun g) s = .next (((s.endGroupReset g (s.groupResetRec g noneField)).wedge s.nextSeq (s.groupResetRec g noneField).fault).finishAll
      (s.groupCmds g) stWedged []) := by
  show execPortGroupResetOverrun g s = _
  rw [execPortGroupResetOverrun, onUnit_next (decide_eq_true hg) hl, hr]
  dsimp only
  rw [if_pos hlate, State.endGroupReset]

/-! ### The obligation -/

/-- Settles O54: each row acts on the lanes, the feed or the engines that it names, and a reset in time or an overrun ends as 13 R352 has it. -/
theorem lanesLasersAndLinkEnginesAreWatched : Obligations.LanesLasersAndLinkEnginesAreWatched := by
  unfold Obligations.LanesLasersAndLinkEnginesAreWatched
  refine ⟨fun s hl => ⟨fun p errs hp hend => ?window, fun p lane hp => loopLaneAligned_next hp hl, fun p lane hp => loopLaneAlignmentLost_next hp hl,
      fun o late power ho => ?calibration, fun o f ho hf hlow => ?low, fun o f ho hf hlow => ?recovered⟩,
    fun s hl => ⟨fun p L hp hL hst hr hlate => ⟨s.linkWatchdogRec p, linkWatchdogFire_next hp hl hL hst hr hlate, rfl, rfl, rfl, rfl⟩,
      fun p L t hp hL => linkEngineResetDone_next hp hl hL, fun p t hp hr hlate => ?engineLate, fun g t hg => portGroupResetDone_next hl hg,
      fun g t hg hr hlate => ?groupLate⟩⟩
  case window =>
    have hlink : ((s.countSync p errs 8).port p).link = (s.port p).link := by rw [State.countSync_port]
    obtain ⟨c, hc⟩ : ∃ c, s.countSync p errs 8 = { s with ctr := c } := ⟨_, s.countSync_eq p errs 8⟩
    refine ⟨_, sparingWindowEnd_next hp hl hend, by rw [hc]; rfl, ?_, fun i hi => ?_, fun i hi => ?_, ?_⟩
    · rw [State.modLink_port', if_pos rfl, hlink]
    · rw [State.counter_of_ctr (State.modLink_ctr _ _ _), State.countSync_counter, if_pos hi]
    · rw [State.modLink_port', if_pos rfl, hlink]
      exact s.getLsbD_dropReq p errs hi
    · rw [State.modLink_port', if_pos rfl]
  case calibration =>
    refine ⟨_, oeCalibrationCycle_next hl ho late power, ?_, ?_, ?_, fun q hq => ?_, fun i => ?_⟩
    · cases late <;> rfl
    · cases late <;> rfl
    · rw [State.modOe_oe', if_pos rfl]
      cases late <;> rfl
    · rw [State.modOe_oe', if_neg hq]
      cases late <;> rfl
    · rw [State.modOe_oe', if_pos rfl, Engine9.get_calibrated_power]
      cases late <;> rfl
  case low =>
    refine ⟨_, laserFeedLow_next hl ho hf hlow, ?_, fun p hp => foldl_port_of_mem State.feedLost_other State.feedLost_self (feedPorts_nodup o f) hp _⟩
    rw [State.oe, foldl_keeps State.oes State.feedLost_oes]
    refine (congrArg (fun e : Engine9 => e.feedLow.getLsbD f) (SMap.get_set_self _ _ _ _)).trans ?_
    rw [BitVec.getLsbD_or, feedMask_getLsbD hf, Bool.or_true]
  case recovered =>
    refine ⟨_, laserFeedRecovered_next hl ho hf hlow, ?_, fun p hp => foldl_port_of_mem State.feedBack_other State.feedBack_self (feedPorts_nodup o f) hp _⟩
    rw [State.oe, foldl_keeps State.oes State.feedBack_oes]
    refine (congrArg (fun e : Engine9 => e.feedLow.getLsbD f) (SMap.get_set_self _ _ _ _)).trans ?_
    rw [BitVec.getLsbD_and, BitVec.getLsbD_not, feedMask_getLsbD hf, Bool.not_true, Bool.and_false, Bool.and_false]
  case engineLate =>
    have hport (q : Nat) : (s.almQueue (linkResetRec p (s.port p).link noneField false)).port q = s.port q :=
      State.port_of_linkView (State.almQueue_linkView _ _) q
    have ht : (s.almQueue (linkResetRec p (s.port p).link noneField false)).t3 = s.t3 := State.t3_of_linkView (State.almQueue_linkView _ _)
    have hin (q : Nat) (hq : q / 4 = p / 4) := State.resetGroup_port_of_mem (s := s.almQueue (linkResetRec p (s.port p).link noneField false)) hq
    refine ⟨_, linkEngineResetOverrun_next hp hl hr hlate, ?_, fun q hq => ?_, fun q hq hact => ?_, fun q hq => ?_⟩
    · rw [State.resetGroup_groupReset, ht]
    · exact (hin q hq).1
    · exact (hin q hq).2 (by rw [hport, hact])
    · rw [State.resetGroup_port_of_not_mem hq, hport]
  case groupLate =>
    have hview := State.finishAll_linkView ((s.endGroupReset g (s.groupResetRec g noneField)).wedge s.nextSeq (s.groupResetRec g noneField).fault)
      (s.groupCmds g) stWedged []
    refine ⟨_, portGroupResetOverrun_next hl hg hr hlate, ?_, ?_⟩
    · rw [State.devState_of_linkView hview, ← State.linkView_devState, State.wedge_linkView]
    · rw [State.groupReset_of_linkView hview, ← State.linkView_groupReset, State.wedge_linkView]
      exact s.endGroupReset_groupReset g _

end Sys2Proof.Machine

end

section

/-! Command rings (10 R280, R281, R286 to R288): their doorbells, and what enabling and disabling them does. -/

namespace Sys2Proof.Machine

theorem State.linkUp_of {s : State} (hl : s.live = true) (hup : s.dev.pcieUp = true) : s.linkUp = true := by rw [State.linkUp, hl, hup]; rfl

/-! ### Doorbells (10 R280, R281, R287, R288) -/

theorem doorbell_page {place r : Nat} (hp : place < 0x40000) (hr : r < 256) : doorbell place (0x40000 * r + place) 4 = some r := by
  have hoff : 0x40000 * r + place < barSize 0 := by simp only [barSize]; omega
  have hmod : (0x40000 * r + place) % 0x40000 = place := by omega
  have hdiv : (0x40000 * r + place) / 0x40000 = r := by omega
  rw [doorbell, hdiv, if_pos (by simp [hoff, hmod])]

theorem doorbell_elsewhere {place off w : Nat} (h : w ≠ 4 ∨ off % 0x40000 ≠ place) : doorbell place off w = none := by
  rw [doorbell, if_neg]
  simp only [Bool.and_eq_true, decide_eq_true_eq, beq_iff_eq]
  omega

section
variable {s : State} (hl : s.live = true) (hup : s.dev.pcieUp = true)
include hl hup

theorem cmdTailWrite_elsewhere {off w : Nat} (v : Nat) (h : w ≠ 4 ∨ off % 0x40000 ≠ 0) : exec (.cmdTailWrite off w v) s = .next s := by
  show execCmdTailWrite off w v s = _
  rw [execCmdTailWrite, onEvent_next (State.linkUp_of hl hup), doorbell_elsewhere h]

theorem cplHeadWrite_elsewhere {off w : Nat} (v : Nat) (h : w ≠ 4 ∨ off % 0x40000 ≠ 8) : exec (.cplHeadWrite off w v) s = .next s := by
  show execCplHeadWrite off w v s = _
  rw [execCplHeadWrite, onEvent_next (State.linkUp_of hl hup), doorbell_elsewhere h]

variable {r : Nat} (hr : r < 256)
include hr

theorem cmdTailWrite_page (v : Nat) : exec (.cmdTailWrite (0x40000 * r) 4 v) s = .next
    (if (s.ring r).enabled && !(s.ring r).error then
      if (BitVec.ofNat 32 v - (s.ring r).cmdHead).toNat ≤ (s.ring r).nCmd then s.modRing r fun R => { R with tailDb := BitVec.ofNat 32 v }
      else s.modRing r fun R => { R with error := true, cause := 1 }
    else s) := by
  have hpage : doorbell 0x00 (0x40000 * r) 4 = some r := doorbell_page (place := 0) (by decide) hr
  show execCmdTailWrite (0x40000 * r) 4 v s = _
  rw [execCmdTailWrite, onEvent_next (State.linkUp_of hl hup), hpage]

theorem cplHeadWrite_page (v : Nat) : exec (.cplHeadWrite (0x40000 * r + 8) 4 v) s = .next
    (if (s.ring r).enabled then s.modRing r fun R => { R with headDb := BitVec.ofNat 32 v } else s) := by
  show execCplHeadWrite (0x40000 * r + 8) 4 v s = _
  rw [execCplHeadWrite, onEvent_next (State.linkUp_of hl hup), doorbell_page (by decide) hr]

end

/-! ### RING_CFG (10 R286, R287) -/

/-- The sizes that a value of RING_CFG names are in range. -/
def ringSizesOk (v : BitVec 32) : Prop := (v.extractLsb' 1 4).toNat ≤ 12 ∧ (v.extractLsb' 5 4).toNat ≤ 12

theorem ringSizesOver_iff {v : BitVec 32} :
    (decide (12 < (v.extractLsb' 1 4).toNat) || decide (12 < (v.extractLsb' 5 4).toNat)) = true ↔ ¬ ringSizesOk v := by
  simp only [ringSizesOk, Bool.or_eq_true, decide_eq_true_eq]
  omega

/-- RING_CFG as written to a ring that is not disabled: the sizes stay. -/
def Ring.cfgKeepingSizes (R : Ring) (v : BitVec 32) : BitVec 32 := (v &&& 0xFF01FE01#32) ||| (R.cfg &&& 0x1FE#32)

/-- A ring whose fetching is stopped by a value of RING_CFG; busy as long as commands of it are left to report. -/
def Ring.stoppedBy (R : Ring) (v : BitVec 32) (busy : Bool) : Ring := { R with cfg := R.cfgKeepingSizes v, enabled := busy }

theorem Ring.getLsbD_cfgKeepingSizes_zero (R : Ring) (v : BitVec 32) : (R.cfgKeepingSizes v).getLsbD 0 = v.getLsbD 0 := by
  simp [Ring.cfgKeepingSizes]

theorem Ring.nCmd_stoppedBy (R : Ring) (v : BitVec 32) (busy : Bool) : (R.stoppedBy v busy).nCmd = R.nCmd := by
  have h : (R.cfgKeepingSizes v).extractLsb' 1 4 = R.cfg.extractLsb' 1 4 := by
    have htaken : (0xFF01FE01#32).extractLsb' 1 4 = 0#4 := rfl
    have hkept : (0x1FE#32).extractLsb' 1 4 = BitVec.allOnes 4 := rfl
    rw [Ring.cfgKeepingSizes, BitVec.extractLsb'_or, BitVec.extractLsb'_and, BitVec.extractLsb'_and, htaken, hkept, BitVec.and_zero, BitVec.zero_or,
      BitVec.and_allOnes]
  simp only [Ring.nCmd, Ring.stoppedBy, h]

section
variable (s : State) (r : Nat)

theorem State.settleRing_ring_self (he : (s.ring r).enable = false) :
    (s.settleRing r).ring r = { s.ring r with enabled := (s.ring r).enabled && s.ringBusy r } := by
  cases hb : s.ringBusy r
  · rw [State.settleRing, if_pos (by simp [he, hb]), State.modRing_ring', if_pos rfl, Bool.and_false]
  · rw [State.settleRing, if_neg (by simp [hb]), Bool.and_true]

theorem State.settleRing_ring_other {q : Nat} (hq : q ≠ r) : (s.settleRing r).ring q = s.ring q := by
  unfold State.settleRing
  split
  · rw [State.modRing_ring', if_neg hq]
  · rfl

theorem State.settleRing_eq : s.settleRing r = { s with host := { s.host with rings := (s.settleRing r).host.rings } } := by
  unfold State.settleRing
  split <;> rfl

variable {s r} {v : BitVec 32}

theorem State.writeRingCfg_outOfRange (h : ¬ ringSizesOk v) : s.writeRingCfg r v = s := by
  rw [State.writeRingCfg, if_pos (ringSizesOver_iff.2 h)]

theorem State.writeRingCfg_opens (h : ringSizesOk v) (hv : v.getLsbD 0 = true) (hd : (s.ring r).enabled = false) (he : (s.ring r).enable = false) :
    s.writeRingCfg r v = s.modRing r fun R => { R with
      cfg := (v &&& 0xFF01FE01#32) ||| (v &&& 0x1FE#32), enabled := true, error := false, cause := 0, cmdHead := 0#32, cplTail := 0#32,
      tailDb := 0#32, headDb := 0#32, unsig := none } := by
  rw [State.writeRingCfg, if_neg (fun hover => ringSizesOver_iff.1 hover h)]
  simp [hv, hd, he]

theorem State.writeRingCfg_whileEnabled (h : ringSizesOk v) (hd : (s.ring r).enabled = true) :
    s.writeRingCfg r v = (s.modRing r fun R => { R with cfg := (s.ring r).cfgKeepingSizes v }).settleRing r := by
  rw [State.writeRingCfg, if_neg (fun hover => ringSizesOver_iff.1 hover h)]
  simp [hd, Ring.cfgKeepingSizes]

theorem State.writeRingCfg_stops (h : ringSizesOk v) (hv : v.getLsbD 0 = false) (hd : (s.ring r).enabled = true) :
    (s.writeRingCfg r v).ring r = (s.ring r).stoppedBy v (s.ringBusy r) := by
  have hring : (s.modRing r fun R => { R with cfg := (s.ring r).cfgKeepingSizes v }).ring r =
      { s.ring r with cfg := (s.ring r).cfgKeepingSizes v } := by rw [State.modRing_ring', if_pos rfl]
  have hbusy : (s.modRing r fun R => { R with cfg := (s.ring r).cfgKeepingSizes v }).ringBusy r = s.ringBusy r := rfl
  rw [State.writeRingCfg_whileEnabled h hd, State.settleRing_ring_self, hring, hbusy, hd, Bool.true_and]
  · rfl
  · rw [hring, Ring.enable, Ring.getLsbD_cfgKeepingSizes_zero, hv]

end

theorem getLsbD_zero_ofNat (v : Nat) : (BitVec.ofNat 32 v).getLsbD 0 = decide (v % 2 = 1) := by
  rw [BitVec.getLsbD_ofNat, Nat.testBit_zero]
  rfl

section
variable {s : State} (hl : s.live = true) (hup : s.dev.pcieUp = true) {r : Nat} (hr : r < 256) (v : Nat)
include hl hup hr

theorem ringEnable_next : exec (.ringEnable r v) s = .next (if v % 2 = 1 then s.writeRingCfg r (BitVec.ofNat 32 v) else s) := by
  refine (onUnit_next (decide_eq_true hr) hl).trans ?_
  simp [hup]

theorem ringDisable_next : exec (.ringDisable r v) s = .next (if v % 2 = 0 then s.writeRingCfg r (BitVec.ofNat 32 v) else s) := by
  refine (onUnit_next (decide_eq_true hr) hl).trans ?_
  simp [hup]

end

/-! ### The obligation -/

/-- Settles O10: a doorbell write finds its ring by its place in BAR0, and RING_CFG is written whole or, with sizes out of range, not at all. -/
theorem ringsDoorbellsAndEnables : Obligations.RingsDoorbellsAndEnables := by
  unfold Obligations.RingsDoorbellsAndEnables
  refine ⟨fun s r v hr hl hup => ?doorbells, fun s r v inRange hr hl hup hrange => ?enables⟩
  case doorbells =>
    have htail := cmdTailWrite_page hl hup hr v
    have hhead := cplHeadWrite_page hl hup hr v
    refine ⟨fun he herr hle => ?_, fun he herr hlt => ?_, fun he => ?_, fun he => ⟨?_, ?_⟩, fun off w h => cmdTailWrite_elsewhere hl hup v h,
      fun off w h => cplHeadWrite_elsewhere hl hup v h⟩
    · rw [htail, if_pos (by simp [he, herr]), if_pos hle]
    · rw [htail, if_pos (by simp [he, herr]), if_neg (by omega)]
    · rw [hhead, if_pos he]
    · rw [htail, if_neg (by simp [he])]
    · rw [hhead, if_neg (by simp [he])]
  case enables =>
    have hbit := getLsbD_zero_ofNat v
    have hen := ringEnable_next hl hup hr v
    have hdis := ringDisable_next hl hup hr v
    subst hrange
    refine ⟨fun hbad => ?_, fun hok hodd hd he => ?_, fun hok heven hd => ?stops⟩
    · rw [hen, hdis, State.writeRingCfg_outOfRange hbad, ite_self, ite_self]
      exact ⟨rfl, rfl⟩
    · rw [hen, if_pos hodd, State.writeRingCfg_opens hok (hbit.trans (decide_eq_true hodd)) hd he]
    case stops =>
      have hlow : (BitVec.ofNat 32 v).getLsbD 0 = false := hbit.trans (decide_eq_false (by omega))
      have hring := State.writeRingCfg_stops hok hlow hd
      have hstop : ((s.writeRingCfg r (BitVec.ofNat 32 v)).ring r).enable = false := by
        rw [hring]
        exact (Ring.getLsbD_cfgKeepingSizes_zero _ _).trans hlow
      refine ⟨_, by rw [hdis, if_pos heven], ?_, fun q hq => ?_, hstop, by rw [hring]; rfl, by rw [hring, Ring.nCmd_stoppedBy], by rw [hring]; rfl,
        by rw [hring]; rfl, by simp [State.mayFetch, hstop]⟩
      · rw [State.writeRingCfg_whileEnabled hok hd]
        exact State.settleRing_eq _ _
      · rw [State.writeRingCfg_whileEnabled hok hd, State.settleRing_ring_other _ _ hq, State.modRing_ring', if_neg hq]

end Sys2Proof.Machine

end

section

/-! Records, interrupts and device events (10 R283, R288, R289, R291, R301). -/

namespace Sys2Proof.Machine

/-! ### The message of a vector (10 R283) -/

section
variable {s : State} {v : Nat}

theorem State.msix_unmasked (h : (SMap.get msixAt s.host.msix (4 * v + 3)).getLsbD 0 = false) :
    s.msix v = s.modHost fun h => { h with sent := SMap.set zeroAt v (SMap.get zeroAt h.sent v + 1) h.sent } := by
  rw [State.msix, if_neg (by rw [h]; exact Bool.false_ne_true)]

theorem State.msix_masked (h : (SMap.get msixAt s.host.msix (4 * v + 3)).getLsbD 0 = true) :
    s.msix v = s.modHost fun h => { h with pba := SMap.set falseAt v true h.pba } := by
  rw [State.msix, if_pos h]

theorem State.msix_sends (h : (SMap.get msixAt s.host.msix (4 * v + 3)).getLsbD 0 = false) :
    SMap.get zeroAt (s.msix v).host.sent v = SMap.get zeroAt s.host.sent v + 1 := by
  rw [State.msix_unmasked h, State.modHost_host]
  dsimp only
  rw [SMap.get_set_self]

theorem State.msix_pends (h : (SMap.get msixAt s.host.msix (4 * v + 3)).getLsbD 0 = true) :
    SMap.get falseAt (s.msix v).host.pba v = true ∧ (s.msix v).host.sent = s.host.sent := by
  rw [State.msix_masked h, State.modHost_host]
  dsimp only
  rw [SMap.get_set_self]
  exact ⟨rfl, rfl⟩

theorem State.msix_ring (s : State) (v r : Nat) : (s.msix v).ring r = s.ring r := by
  unfold State.msix
  split <;> rfl

end

/-! ### Records (10 R288, R289) -/

/-- s with one record written into completion ring r and CPL_TAIL advanced, its interrupt still to come. -/
def State.withRecord (s : State) (r status opcode tag : Nat) (event : Bool) (words : List Nat) : State :=
  let R := s.ring r
  let n := R.cplTail.toNat
  let s := s.writeHost (R.cplBase.toNat + 32 * (n % R.nCpl)) (recordBytes status ((n / R.nCpl + 1) % 2) event opcode tag words)
  let s := s.modRing r fun R => { R with cplTail := R.cplTail + 1#32 }
  s.modHost fun h => { h with stats := SMap.set zeroAt r (SMap.get zeroAt h.stats r + 1) h.stats }

section
variable (s : State) (r st op tag : Nat) (ev : Bool) (words : List Nat)

theorem State.withRecord_unsig : ((s.withRecord r st op tag ev words).ring r).unsig = (s.ring r).unsig := by
  simp only [State.withRecord, State.ring, State.modHost_host, State.modRing_host, SMap.get_set_self]
  rfl

variable {s r}

/-- Without coalescing the vector is signalled with the record. -/
theorem State.putRecord_atOnce (h : (s.ring r).coalesce = 0) : s.putRecord r st op tag ev words =
    ((s.withRecord r st op tag ev words).modRing r fun R => { R with unsig := none }).msix (s.ring r).vector := if_pos h

/-- With coalescing the time of the first record not yet signalled is kept. -/
theorem State.putRecord_coalesced (h : (s.ring r).coalesce ≠ 0) : s.putRecord r st op tag ev words =
    (s.withRecord r st op tag ev words).modRing r fun R => { R with unsig := some (R.unsig.getD s.t3) } := by
  refine (if_neg h).trans (congrArg (State.modRing _ r) (funext fun R => ?_))
  cases R.unsig <;> rfl

end

/-! ### INTERRUPT_COALESCE_EXPIRY (10 R289) -/

section
variable {s : State} {r t0 : Nat} (hr : r < 256) (hl : s.live = true) (hu : (s.ring r).unsig = some t0)
include hr hl hu

theorem interruptCoalesceExpiry_next : exec (.interruptCoalesceExpiry r) s = .next
    (if s.after t0 (usec (s.ring r).coalesce) then (s.modRing r fun R => { R with unsig := none }).msix (s.ring r).vector else s) := by
  show execInterruptCoalesceExpiry r s = _
  rw [execInterruptCoalesceExpiry, onUnit_next (decide_eq_true hr) hl, hu]

theorem interruptCoalesceExpiry_early (h : s.t3 < t0 + 3000 * (s.ring r).coalesce) : exec (.interruptCoalesceExpiry r) s = .next s := by
  rw [interruptCoalesceExpiry_next hr hl hu, if_neg (mt of_decide_eq_true (Nat.not_le.2 h) : ¬ s.after _ (usec _) = true)]

theorem interruptCoalesceExpiry_due (h : t0 + 3000 * (s.ring r).coalesce ≤ s.t3) :
    exec (.interruptCoalesceExpiry r) s = .next ((s.modRing r fun R => { R with unsig := none }).msix (s.ring r).vector) := by
  rw [interruptCoalesceExpiry_next hr hl hu, if_pos (show s.after _ (usec _) = true from decide_eq_true h)]

end

/-! ### DEVICE_EVENT_WRITE (10 R291, R301) -/

section
variable {s : State} {r : Nat} (hr : r < 256) (hl : s.live = true) (hup : s.dev.pcieUp = true) (he : (s.ring r).enabled = true)
  (hroom : (s.ring r).room = true)
include hr hl hup he hroom

theorem deviceEventWrite_oldest {e : Event} (h : s.host.events.find? (fun x => x.ring == r) = some e) : exec (.deviceEventWrite r) s = .next
    ((s.modHost fun h => { h with events := h.events.erase e }).putRecord r e.status e.code 0xFFFFFFFF true e.words) := by
  show execDeviceEventWrite r s = _
  rw [execDeviceEventWrite, onUnit_next (decide_eq_true hr) hl, if_pos (by simp [hup, he, hroom]), h]

theorem deviceEventWrite_lost (h : s.host.events.find? (fun x => x.ring == r) = none) (hlost : 0 < (s.ring r).evLost) :
    exec (.deviceEventWrite r) s = .next
      ((s.modRing r fun R => { R with evLost := 0 }).putRecord r stOk 8 0xFFFFFFFF true [(s.ring r).evLost]) := by
  show execDeviceEventWrite r s = _
  rw [execDeviceEventWrite, onUnit_next (decide_eq_true hr) hl, if_pos (by simp [hup, he, hroom]), h]
  dsimp only
  rw [if_pos hlost]

end

/-! ### The obligation -/

/-- Settles O12: a record's vector is signalled with it or waits for its time, and an event is a record with a tag of its own. -/
theorem interruptsAndEventsAreDelivered : Obligations.InterruptsAndEventsAreDelivered := by
  unfold Obligations.InterruptsAndEventsAreDelivered
  refine ⟨⟨fun s r st op tag ev words s' hs' => ?record, fun s r t0 hr hl hu => ?expiry⟩, fun s r hr hl hup he hroom =>
    ⟨fun _ => deviceEventWrite_oldest hr hl hup he hroom, deviceEventWrite_lost hr hl hup he hroom⟩⟩
  case record =>
    subst hs'
    refine ⟨fun h0 => ?_, fun h1 => ?_⟩
    · rw [State.putRecord_atOnce _ _ _ _ _ h0]
      refine ⟨?_, fun hm => ?_, fun hm => ?_⟩
      · rw [State.msix_ring, State.modRing_ring', if_pos rfl]
      · exact State.msix_sends hm
      · exact State.msix_pends hm
    · rw [State.putRecord_coalesced _ _ _ _ _ h1]
      refine ⟨?_, rfl, rfl⟩
      rw [State.modRing_ring', if_pos rfl, State.withRecord_unsig]
  case expiry =>
    refine ⟨interruptCoalesceExpiry_early hr hl hu, fun hdue hm => ?_, fun hdue hm => ?_⟩
    · rw [interruptCoalesceExpiry_due hr hl hu hdue, State.msix_unmasked]
      exact hm
    · rw [interruptCoalesceExpiry_due hr hl hu hdue, State.msix_masked]
      exact hm

end Sys2Proof.Machine

end

section

/-! Accesses of BAR2 (10 R282, R285): which are accepted, and what a write makes of the words it covers. -/

namespace Sys2Proof.Machine

/-- The identity block and the first words of the device block hold no register that a write changes (10 R284, R285). -/
theorem State.writeWord_readOnly (s : State) {off : Nat} (v : BitVec 32) (h : off < 0x1008) : s.writeWord off v = s := by
  have hat {o : Nat} (ho : 0x1008 ≤ o) : ¬ off = o := by omega
  have hin {lo : Nat} {c : Prop} (ho : 0x1008 ≤ lo) : ¬ (lo ≤ off ∧ c) := fun hc => by omega
  simp [State.writeWord, hat, hin]

theorem State.writeWord_hrxHead (s : State) (v : BitVec 32) : s.writeWord 0x1030 v = s.modDev fun d => { d with hrxHead := v } := rfl

theorem State.writeWord_bar4Window (s : State) (v : BitVec 32) : s.writeWord 0x1008 v = s.modDev fun d => { d with bar4Window := v &&& 7#32 } := rfl

theorem State.writeWord_eventCfg (s : State) (v : BitVec 32) : s.writeWord 0x100C v = s.modDev fun d => { d with eventCfg := v &&& 0x1FF#32 } := rfl

section
variable {s : State} {off : Nat} (h : s.linkUp = true) (hoff : off < 0x1000000)
include h hoff

theorem bar2BadAccess_abort {w : Nat} (hbad : bar2Ok off w = false) (wr : Bool) :
    exec (.bar2BadAccess off w wr) s = .next (s.answer .completerAbort) :=
  onEvent_next (by simp [h, hbad, barSize, hoff])

theorem registerWrite_next (w v : Nat) : exec (.registerWrite off w v) s = .next
    (if bar2Ok off w then
      (if w = 8 then (s.writeWord off (BitVec.ofNat 32 v)).writeWord (off + 4) (BitVec.ofNat 32 (v / 2 ^ 32))
       else s.writeWord off (BitVec.ofNat 32 v)).answer .accepted
     else s.answer .completerAbort) :=
  onEvent_next (by simp [h, barSize, hoff])

theorem registerWrite_abort {w : Nat} (v : Nat) (hbad : bar2Ok off w = false) : exec (.registerWrite off w v) s = .next (s.answer .completerAbort) := by
  rw [registerWrite_next h hoff, if_neg (by simp [hbad])]

theorem registerWrite_word (v : Nat) (ha : off % 4 = 0) :
    exec (.registerWrite off 4 v) s = .next ((s.writeWord off (BitVec.ofNat 32 v)).answer .accepted) := by
  rw [registerWrite_next h hoff, if_pos (by simp [bar2Ok, ha]), if_neg (by decide)]

theorem registerWrite_wide (v : Nat) (ha : off % 8 = 0) : exec (.registerWrite off 8 v) s = .next
    (((s.writeWord off (BitVec.ofNat 32 v)).writeWord (off + 4) (BitVec.ofNat 32 (v / 2 ^ 32))).answer .accepted) := by
  rw [registerWrite_next h hoff, if_pos (by simp [bar2Ok, ha]), if_pos rfl]

end

/-! ### The obligation -/

/-- Settles O13: an access is refused for its width or alignment, and else written word by word. -/
theorem registerWritesFollowTheMap : Obligations.RegisterWritesFollowTheMap := by
  unfold Obligations.RegisterWritesFollowTheMap
  intro s off v h hoff
  refine ⟨fun w hbad wr => ⟨bar2BadAccess_abort h hoff hbad wr, registerWrite_abort h hoff v hbad⟩, registerWrite_word h hoff v,
    registerWrite_wide h hoff v, ?_, ?_, ?_, fun hro ha => ?_⟩
  · rw [registerWrite_word h (by decide) v (by decide), State.writeWord_hrxHead]
    rfl
  · rw [registerWrite_word h (by decide) v (by decide), State.writeWord_bar4Window]
    rfl
  · rw [registerWrite_word h (by decide) v (by decide), State.writeWord_eventCfg]
    rfl
  · rw [registerWrite_word h hoff v ha, State.writeWord_readOnly s _ hro]

end Sys2Proof.Machine

end

section

/-! The pins that reset the module, its reference clocks, and PERST_N (13 R357, R360; 15 R391 to R393, R396; 10 R279). -/

namespace Sys2Proof.Machine

theorem State.alive_of_live {s : State} (hl : s.live = true) : s.pwr.alive = true := by
  have hrun : s.pwr.phase = .running := of_decide_eq_true hl
  simp [Power.alive, hrun]

theorem State.powered_of_live {s : State} (hl : s.live = true) : decide (s.pwr.phase ≠ .off) = true := by
  have hrun : s.pwr.phase = .running := of_decide_eq_true hl
  simp [hrun]

/-! ### The cold reset (13 R357, R360) -/

/-- A state without its ports and counters. -/
def State.besidePorts (s : State) : State := { s with ports := [], ctr := [] }

theorem State.eq_of_besidePorts {x y : State} (h : x.besidePorts = y.besidePorts) : x = { y with ports := x.ports, ctr := x.ctr } := by
  have hports (z : State) (p : SMap Port) (c : SMap (BitVec 64)) :
      ({ z with ports := p, ctr := c } : State) = { z.besidePorts with ports := p, ctr := c } := rfl
  rw [hports y, ← h]
  rfl

theorem State.coldPorts_besidePorts (s : State) : s.coldPorts.besidePorts = s.besidePorts := by
  have hisolated (x : State) (p : Nat) :
      (if x.portIsolated p then x.modLink p fun L => { L with state := .isolated } else x).besidePorts = x.besidePorts := by
    split <;> rfl
  have hdark (x : State) (i : Nat) : (if (x.oe (i / 2)).feedLow.getLsbD (i % 2) then (feedPorts (i / 2) (i % 2)).foldl (fun s p =>
      (s.countLink p (cDowns + 7) 1).modLink p fun L => { L with heldLaser := true, state := .held, reason := 7 }) x else x).besidePorts =
      x.besidePorts := by
    split
    · refine foldl_keeps State.besidePorts ?_ _ _
      exact fun _ _ => rfl
    · rfl
  exact (foldl_keeps State.besidePorts hisolated _ _).trans (foldl_keeps State.besidePorts hdark _ _)

/-- Beside the ports and counters, what a cold reset leaves is what its definition names. -/
theorem State.coldReset_eq (s : State) : ∃ ports ctr, s.coldReset = { State.reset with
    ports := ports, ctr := ctr, pending := s.pending, freeCtr := s.freeCtr, part := s.part
    pwr := { phase := .held, pwrOk := s.pwr.pwrOk, modRstN := s.pwr.modRstN, sens := s.pwr.sens }
    dev := { s.dev.cold with bootCnt := (s.dev.bootCnt + 1) % 256 }
    host := s.host.cold, oes := s.oes, mem := s.mem.cold, fw := s.fw.cold, alm := { s.alm with waiting := [] } } := by
  rw [State.coldReset, State.cold, State.eq_of_besidePorts (State.coldPorts_besidePorts _)]
  exact ⟨_, _, rfl⟩

section
variable {s : State} (hl : s.live = true)
include hl

theorem coldResetRequest_next : exec .coldResetRequest s = .next
    ((s.coldReset.waitReady s.coldReset.t3).modPwr fun p => { p with modRstN := false }) := by
  refine (onEvent_next (State.alive_of_live hl)).trans ?_
  rw [if_pos hl]

theorem fabrefLoss_next : exec .fabrefLoss s = .next
    ((s.coldReset.waitReady (s.coldReset.t3 + msec 1)).modDev fun d => { d with fabrefOk := false }) := by
  refine (onEvent_next (State.alive_of_live hl)).trans ?_
  rw [if_pos hl]

/-! ### PERST_N and the host's reference (10 R279; 13 R357; 15 R392, R396) -/

theorem hostRefclkLoss_next : exec .hostRefclkLoss s = .next (s.modDev fun d => { d with pcieUp := false }) := onEvent_next hl

theorem perstNAssert_next : exec .perstNAssert s = .next s.perst := onEvent_next (State.powered_of_live hl)

theorem perstNDeassert_next (w g : Nat) : exec (.perstNDeassert w g) s = .next (s.modDev fun d => { d with
    perstN := true, pcieWidth := w, pcieGen := g, pcieUp := decide (w = 16 ∧ 4 ≤ g ∧ g ≤ 6) }) := by
  have htrains : (s.live && pcieTrains w g) = decide (w = 16 ∧ 4 ≤ g ∧ g ≤ 6) := by
    rw [hl, Bool.true_and, Bool.eq_iff_iff]
    simp [pcieTrains, and_assoc]
  refine (onEvent_next (State.powered_of_live hl)).trans ?_
  rw [htrains]

theorem cxlPerstRelease_next {k : Nat} (hk : k < 2) (hon : s.domOn (domCxl k) = true) (href : (s.cxl k).refOk = true)
    (hclear : (s.cxl k).clearAt + 1000000 ≤ s.now) : exec (.cxlPerstRelease k) s = .next (s.modCxl k fun x => { x with perstN := true }) :=
  onUnit_if_pos (decide_eq_true hk) hl (by simp [hon, href, hclear])

end

/-- Every entry of a map written anew through a function that keeps what unlisted keys read as. -/
theorem SMap.get_foldr_set {α : Type} [DecidableEq α] {d : Nat → α} {f : α → α} (hf : ∀ k, f (d k) = d k) (m : SMap α) (k : Nat) :
    SMap.get d (m.foldr (fun p m => SMap.set d p.1 (f p.2) m) []) k = f (SMap.get d m k) := by
  induction m with
  | nil => exact (hf k).symm
  | cons p t ih =>
    rw [List.foldr_cons, SMap.get_set, ih]
    by_cases hp : p.1 = k
    · rw [if_pos hp.symm, SMap.get, if_pos hp]
    · rw [if_neg (Ne.symm hp), SMap.get, if_neg hp]

/-- PERST_N leaves of a ring register set the count of events not yet reported (log 62). -/
theorem State.perst_ring (s : State) (r : Nat) : s.perst.ring r = { evLost := (s.ring r).evLost } :=
  SMap.get_foldr_set (f := fun R : Ring => { evLost := R.evLost }) (fun _ => rfl) s.host.rings r

/-! ### The obligation -/

/-- Settles O27: the two losses that reset the module begin the same cold reset, and the others touch only what the row names. -/
theorem pinsResetTheModule : Obligations.PinsResetTheModule := by
  unfold Obligations.PinsResetTheModule
  intro s hl
  obtain ⟨ports, ctr, hcold⟩ := s.coldReset_eq
  have hrequest := coldResetRequest_next hl
  have hfabref := fabrefLoss_next hl
  rw [hcold] at hrequest hfabref
  refine ⟨⟨_, hrequest, rfl, rfl, rfl, rfl, rfl, rfl, rfl, rfl, rfl⟩, ⟨_, hfabref, rfl, rfl, rfl, rfl⟩, hostRefclkLoss_next hl,
    ⟨_, perstNAssert_next hl, rfl, rfl, s.perst_ring, rfl, rfl, rfl, rfl, rfl, rfl, rfl, rfl, rfl, rfl⟩, perstNDeassert_next hl, fun _ => cxlPerstRelease_next hl⟩

end Sys2Proof.Machine

end

section

/-! The isolation store (11 R327): every row but a quorum command's, and every tick of the time base, keeps it. -/

namespace Sys2Proof.Machine

theorem step_keeps_isolation {s s' : State} (h : step s = .next s') (hq : ∀ c rest, s.pending = c :: rest → quorumRow c = false) :
    s'.isolation = s.isolation := by
  cases hp : s.pending with
  | nil =>
    obtain ⟨-, -, htick, -, -⟩ := State.tick_sound (.refl s)
    exact step_of_no_pending hp h ▸ htick
  | cons c rest =>
    obtain ⟨-, -, hexec, -, -⟩ := exec_sound (.refl { s with pending := rest }) c (hq c rest hp) s' (step_of_pending hp h)
    exact hexec

/-- Settles O6: a step runs the front command, which is no quorum command's row, or is a tick, and neither writes the isolation store. -/
theorem isolationChangesOnlyByQuorumCommands : Obligations.IsolationChangesOnlyByQuorumCommands := by
  unfold Obligations.IsolationChangesOnlyByQuorumCommands
  exact fun _ _ => step_keeps_isolation

end Sys2Proof.Machine

end

section

/-! What the start of a firmware processor leaves: a link that is held for want of equaliser settings, and the bookkeeping beside it, change nothing
of the image that runs, of the processors or of which are up (09 R274; 11 R315). -/

namespace Sys2Proof.Machine

/-- What the device says of its image, and its processors. -/
structure BootView where
  /-- digest of the running image -/
  fwDigest : List Byte
  /-- FW_VER -/
  fwVer : BitVec 32
  /-- version of the translator -/
  translator : List Byte
  /-- the processors that are up -/
  fwpUp : BitVec 5
  /-- the processors -/
  procs : SMap Proc
  /-- an image has been verified and started -/
  verified : Bool
  /-- 0 slot in force, 1 fallback -/
  bootKind : Nat

/-- What a state holds of it. -/
def State.bootView (s : State) : BootView :=
  ⟨s.dev.fwDigest, s.dev.fwVer, s.dev.translator, s.dev.fwpUp, s.fw.procs, s.fw.verified, s.fw.bootKind⟩

theorem State.proc_of_bootView {s s' : State} (h : s'.bootView.procs = s.bootView.procs) (q : Nat) : s'.proc q = s.proc q :=
  congrArg (fun m => SMap.get procAt m q) h

section
variable (s : State)

/-! ### Bookkeeping -/

@[simp] theorem State.modLink_bootView (p : Nat) (f : Link → Link) : (s.modLink p f).bootView = s.bootView := rfl

@[simp] theorem State.modFab_bootView (f : Fabric → Fabric) : (s.modFab f).bootView = s.bootView := rfl

@[simp] theorem State.countLink_bootView (p item n : Nat) : (s.countLink p item n).bootView = s.bootView := rfl

@[simp] theorem State.lapseGrants_bootView (p : Nat) : (s.lapseGrants p).bootView = s.bootView := rfl

@[simp] theorem State.almQueue_bootView (r : ARec) : (s.almQueue r).bootView = s.bootView := by
  unfold State.almQueue
  split <;> rfl

@[simp] theorem State.devEvent_bootView (code status : Nat) (words : List Nat) : (s.devEvent code status words).bootView = s.bootView := by
  unfold State.devEvent State.pushEvent
  split
  · split <;> rfl
  · rfl

@[simp] theorem State.dropPkt_bootView (k : Pkt) (p reason : Nat) : (s.dropPkt k p reason).bootView = s.bootView := by
  unfold State.dropPkt State.release
  split <;> rfl

@[simp] theorem State.deliveryLost_bootView (k : Pkt) (p reason : Nat) : (s.deliveryLost k p reason).bootView = s.bootView := by
  unfold State.deliveryLost State.pushNotice
  split
  · split <;> rfl
  · rfl

@[simp] theorem State.samplePeak_bootView (p v : Nat) : (s.samplePeak p v).bootView = s.bootView := by
  show s.rollWindow.bootView = s.bootView
  rcases Nat.lt_or_ge s.now s.dev.telEnd with h | h
  · rw [State.rollWindow_within h]
  · rw [State.rollWindow_over h]; rfl

@[simp] theorem State.flushPort_bootView (p : Nat) : (s.flushPort p).bootView = s.bootView := by
  refine (foldl_keeps State.bootView (fun x k => by simp) _ _).trans ((State.modFab_bootView _ _).trans ?_)
  exact foldl_keeps State.bootView (fun x _ => x.modFab_bootView _) _ s

/-! ### Ports held for want of a table (09 R274) -/

@[simp] theorem State.linkDown_bootView (p reason : Nat) (st : LinkState) : (s.linkDown p reason st).bootView = s.bootView := by
  unfold State.linkDown
  dsimp only
  rw [State.devEvent_bootView]
  split
  · rw [State.almQueue_bootView, State.flushPort_bootView, State.lapseGrants_bootView, State.modLink_bootView]
    split
    · exact s.countLink_bootView _ _ _
    · rw [State.countLink_bootView, State.countLink_bootView]
  · rw [State.lapseGrants_bootView, State.modLink_bootView, State.countLink_bootView]

theorem State.hold_bootView (p reason : Nat) (before : Bool) : (s.hold p reason before).bootView = s.bootView := by
  unfold State.hold
  split
  · rfl
  · exact s.linkDown_bootView _ _ _

theorem State.holdNoEq_bootView : s.holdNoEq.bootView = s.bootView :=
  foldl_keeps State.bootView (fun x p => by dsimp only; rw [State.hold_bootView, State.almQueue_bootView, State.modLink_bootView]) _ s

theorem State.readEq_bootView : s.readEq.bootView = s.bootView := by
  unfold State.readEq
  split
  · rfl
  · dsimp only
    split
    · rfl
    · exact State.holdNoEq_bootView _

/-! ### Starting processors (11 R315; 13 R365) -/

/-- A processor that starts is up; the image and the processors' memories are as they were. -/
theorem State.fwpStart_bootView (q : Nat) :
    (s.fwpStart q).bootView = { s.bootView with fwpUp := s.bootView.fwpUp ||| BitVec.ofNat 5 (2 ^ q) } := by
  unfold State.fwpStart
  dsimp only
  split
  · exact (foldl_keeps State.bootView (fun x _ => x.modLink_bootView _ _) _ _).trans (State.readEq_bootView _)
  · split <;> rfl

theorem State.fwpStart_proc (q p : Nat) : (s.fwpStart q).proc p = s.proc p :=
  State.proc_of_bootView (by rw [State.fwpStart_bootView]) p

theorem State.fwpStart_fwpUp {q : Nat} (hq : q < 5) : (s.fwpStart q).fwpUp q = true := by
  show (s.fwpStart q).bootView.fwpUp.getLsbD q = true
  rw [State.fwpStart_bootView, BitVec.getLsbD_or, BitVec.getLsbD_ofNat, Nat.testBit_two_pow_self]
  simp [hq]

theorem State.startAll_bootView : ([0, 1, 2, 3, 4].foldl State.fwpStart s).bootView = { s.bootView with fwpUp := 0x1F#5 } := by
  have hall : ∀ up : BitVec 5, up ||| BitVec.ofNat 5 (2 ^ 0) ||| BitVec.ofNat 5 (2 ^ 1) ||| BitVec.ofNat 5 (2 ^ 2) ||| BitVec.ofNat 5 (2 ^ 3) |||
      BitVec.ofNat 5 (2 ^ 4) = 0x1F#5 := by decide
  simp only [List.foldl_cons, List.foldl_nil, State.fwpStart_bootView, hall]

/-- Processors changed one after the other have each been changed once. -/
theorem State.foldl_modProc_proc (f : Nat → Proc → Proc) {l : List Nat} (hl : l.Nodup) (q : Nat) :
    (l.foldl (fun s p => s.modProc p (f p)) s).proc q = if q ∈ l then f q (s.proc q) else s.proc q := by
  induction l generalizing s with
  | nil => rfl
  | cons p t ih =>
    obtain ⟨hp, ht⟩ := List.nodup_cons.1 hl
    rw [List.foldl_cons, ih _ ht, State.modProc_proc']
    by_cases hq : q = p
    · subst hq; simp [hp]
    · simp [hq]

end

end Sys2Proof.Machine

end

section

/-! Firmware: staging and activation (11 R316 to R319), boot (11 R315, R320, R321), and the restarts of its processors (13 R365). -/

namespace Sys2Proof.Machine

/-! ### FW_STAGE (11 R317) -/

/-- FW_STAGE takes a record with an object: from a ring, for a store that the device serves, and as long as the record says. -/
def State.stagesFrom (s : State) (k : Cmd) (obj : List Byte) : Prop :=
  1 ≤ fieldAt k.params 12 1 ∧ fieldAt k.params 12 1 ≤ 3 ∧ k.viaPort = false ∧ fieldAt k.params 13 3 = 0 ∧
    obj.length = fieldAt k.params 8 4 ∧ (s.dev.state ≠ .noFirmware ∨ fieldAt k.params 12 1 = 1)

section
variable {s : State} {c : Nat} {k : Cmd} {obj : List Byte} (h : s.carries 0x0802 c k)
include h

theorem fwStage_badParam (hbad : fieldAt k.params 12 1 = 0 ∨ 3 < fieldAt k.params 12 1 ∨ k.viaPort = true ∨ fieldAt k.params 13 3 ≠ 0 ∨
    obj.length ≠ fieldAt k.params 8 4) : exec (.fwStage c obj) s = .next ((s.take c).finish c stBadParam) := by
  show execFwStage c obj s = _
  rw [execFwStage, runCmd_next h]
  dsimp only
  rw [if_pos]
  simp only [Bool.or_eq_true, decide_eq_true_eq, or_assoc]
  exact (or_left_comm.trans (or_congr_right or_left_comm)).2 hbad

/-- The object is written into the slot that the store's next write takes, and staged if its checks pass. -/
theorem fwStage_next (hok : s.stagesFrom k obj) {s0 : State} (hs0 : s0 = s.take c) {store : Nat} (hstore : store = fieldAt k.params 12 1) :
    exec (.fwStage c obj) s = .next (
      ((if fitsStore store obj then s0.setFlash store (s0.targetSlot store) (FlashSlot.written store (s0.nextGen store) obj) else s0).modFw fun w =>
        { w with staged := SMap.set noneAt store (if s0.objectStatus store obj = stOk then some (s0.targetSlot store) else none) w.staged }).finish c
          (s0.objectStatus store obj)) := by
  subst hstore hs0
  obtain ⟨hlo, hhi, hk, hz, hlen, hserves⟩ := hok
  show execFwStage c obj s = _
  rw [execFwStage, runCmd_next h]
  dsimp only
  rw [if_neg, if_neg]
  · show ¬ (decide (s.dev.state = .noFirmware) && decide (fieldAt k.params 12 1 ≠ 1)) = true
    simpa [or_iff_not_imp_left] using hserves
  · unfold Cmd.viaPort at hk
    simp [hk, hz, hlen]
    omega

end

/-! ### FW_ACTIVATE (11 R318, R319) -/

/-- FW_ACTIVATE takes a record: for a store that the device serves, with its fuses to be burnt only for an image. -/
def State.activatesFrom (s : State) (q : List Byte) : Prop :=
  1 ≤ fieldAt q 0 1 ∧ fieldAt q 0 1 ≤ 3 ∧ fieldAt q 1 1 ≤ 1 ∧ (fieldAt q 1 1 = 0 ∨ fieldAt q 0 1 = 1) ∧ fieldAt q 2 2 = 0 ∧
    (s.dev.state ≠ .noFirmware ∨ fieldAt q 0 1 = 1)

/-- s with nothing staged for a store any more. -/
def State.unstage (s : State) (store : Nat) : State := s.modFw fun w => { w with staged := SMap.set noneAt store none w.staged }

theorem fwActivate_next {s : State} {c : Nat} {k : Cmd} (h : s.carries 0x0803 c k) (hok : s.activatesFrom k.params) {s0 : State} (hs0 : s0 = s.take c)
    {store : Nat} (hstore : store = fieldAt k.params 0 1) : exec (.fwActivate c) s = .next (
      match SMap.get noneAt s.fw.staged store with
      | none => s0.finish c stBadParam
      | some i =>
        if s.dev.emergency then s0.finish c stEmergency
        else if !(s0.flashSlot store i).good store then (s0.unstage store).finish c stBadParam
        else
          let s1 := (s0.setFlash store i (s0.flashSlot store i).committed).unstage store
          if store = 1 then s1.rebootAt2.modFw fun w => { w with act := some (c, fieldAt k.params 1 1 == 1) } else s1.finish c stOk) := by
  subst hstore hs0
  obtain ⟨hlo, hhi, hf, hburn, hz, hserves⟩ := hok
  show execFwActivate c s = _
  rw [execFwActivate, runCmd_next h]
  dsimp only
  rw [if_neg, if_neg]
  · rfl
  · show ¬ (decide (s.dev.state = .noFirmware) && decide (fieldAt k.params 0 1 ≠ 1)) = true
    simpa [or_iff_not_imp_left] using hserves
  · simp [hz]
    omega

/-! ### Boot (11 R315, R320, R321) -/

/-- s with the sections of an image loaded into every processor. -/
def State.loadAll (s : State) (b : List Byte) : State :=
  [0, 1, 2, 3, 4].foldl (fun s q => s.modProc q fun p => { p.loaded b q with sums := sectionSums b q }) s

theorem State.loadAll_proc (s : State) (b : List Byte) {q : Nat} (hq : q < 5) :
    (s.loadAll b).proc q = { (s.proc q).loaded b q with sums := sectionSums b q } := by
  have hmem : q ∈ [0, 1, 2, 3, 4] := List.mem_range.2 hq
  exact (s.foldl_modProc_proc (fun q p => { p.loaded b q with sums := sectionSums b q }) (by decide) q).trans (if_pos hmem)

/-- s with an image loaded, named in the registers and run: what the processors then start from. -/
def State.imageRuns (s : State) (b : List Byte) (kind : Nat) : State :=
  ((s.loadAll b).modDev fun d => { d with
    fwDigest := sha256 b, fwVer := BitVec.ofNat 32 (fieldAt b 6 3) ||| (if s.fw.act.isSome then 0#32 else 0x80000000#32),
    translator := Machine.slice b 10 3 }).modFw fun w => { w with verified := true, bootKind := kind, bootStep := 6, svRun := fieldAt b 16 4 }

/-- The record of a boot (13 R369). -/
def State.bootRec (s : State) (b : List Byte) (kind : Nat) : ARec :=
  { type := 7, detail := detail (toLE 1 (if kind = 1 then 2 else if s.fw.act.isSome then 1 else 0) ++ Machine.slice b 6 3 ++ (sha256 b).take 28) }

/-- s booted from an image: its sections loaded, the boot recorded and every processor started. -/
def State.bootedFrom (s : State) (b : List Byte) (kind : Nat) : State :=
  [0, 1, 2, 3, 4].foldl State.fwpStart ((s.imageRuns b kind).almQueue (s.bootRec b kind))

section
variable {s : State} (hl : s.live = true) (hb : s.dev.state = .booting) (hw : s.dev.warm = none)
include hl hb hw

theorem bootImageVerified_noImage (hv : s.fw.verified = false) (hslot : s.bootSlot = none) : exec .bootImageVerified s = .next (
    match s.fw.act with
    | none => s.modDev fun d => { d with state := .noFirmware }
    | some a => ((s.modDev fun d => { d with state := .noFirmware }).modFw fun w => { w with act := none }).finish a.1 stAuthFail) := by
  refine (onEvent_next (by simp [hl, hb, hw, hv])).trans ?_
  rw [hslot]
  cases s.fw.act with
  | none => rfl
  | some a => rfl

theorem bootImageVerified_image (hv : s.fw.verified = false) {i kind : Nat} (hslot : s.bootSlot = some (i, kind)) :
    exec .bootImageVerified s = .next (s.bootedFrom (s.flashSlot 1 i).content kind) := by
  refine (onEvent_next (by simp [hl, hb, hw, hv])).trans ?_
  rw [hslot]
  rfl

/-- With all processors up the device is ready, and an activation that led here completes as the boot went (11 R318, R321). -/
theorem deviceReady_next (hv : s.fw.verified = true) (hup : s.dev.fwpUp = 0x1F#5) {s1 : State}
    (hs1 : s1 = ((s.modDev fun d => { d with state := if s.fw.isoDev then .isolated else .ready, fwVer := d.fwVer ||| 0x80000000#32 }).modFw fun w =>
      { w with bootStep := 7, act := none })) : exec .deviceReady s = .next (
    match s.fw.act with
    | none => s1
    | some (c, burn) =>
      if s.fw.bootKind = 1 then s1.finish c stAuthFail
      else ({ s1 with part := { s1.part with svMin := if burn then max s.part.svMin s.fw.svRun else s.part.svMin } } : State).finish c stOk) := by
  subst hs1
  refine (onEvent_next (by simp [hl, hb, hw, hv, hup])).trans ?_
  cases hact : s.fw.act with
  | none => simp [State.modFw, State.modDev, hact]
  | some a => rfl

end

theorem State.bootedFrom_bootView (s : State) (b : List Byte) (kind : Nat) : (s.bootedFrom b kind).bootView =
    { fwDigest := sha256 b, fwVer := BitVec.ofNat 32 (fieldAt b 6 3) ||| (if s.fw.act = none then 0x80000000#32 else 0#32),
      translator := Machine.slice b 10 3, fwpUp := 0x1F#5, procs := (s.loadAll b).fw.procs, verified := true, bootKind := kind } := by
  have hvalid : (if s.fw.act = none then 0x80000000#32 else 0#32) = if s.fw.act.isSome then 0#32 else 0x80000000#32 := by
    cases s.fw.act <;> rfl
  rw [State.bootedFrom, State.startAll_bootView, State.almQueue_bootView, hvalid]
  rfl

theorem State.bootedFrom_proc (s : State) (b : List Byte) (kind : Nat) {q : Nat} (hq : q < 5) :
    (s.bootedFrom b kind).proc q = { (s.proc q).loaded b q with sums := sectionSums b q } :=
  (State.proc_of_bootView (by rw [s.bootedFrom_bootView b kind]; rfl) q).trans (s.loadAll_proc b hq)

/-! ### Restarts (13 R365) -/

/-- s with a restarted processor loaded again and started. -/
def State.reloaded (s : State) (q : Nat) : State := (s.modProc q fun p => { p.loaded (s.stored 1) q with restarting := false }).fwpStart q

theorem State.reloaded_restarting (s : State) (q : Nat) : ((s.reloaded q).proc q).restarting = false := by
  rw [State.reloaded, State.fwpStart_proc, State.modProc_proc', if_pos rfl]

/-- The record of a processor's restart (13 R369). -/
def State.restartRec (s : State) (q : Nat) : ARec :=
  let p := s.proc q
  { type := 9, unit := q, detail := detail (toLE 1 q ++ toLE 1 p.cause ++
      toLE 1 (p.recent.filter fun t => decide (s.now < t + 1000000000)).length ++ [0#8] ++ toLE 4 (s.nsSince p.downAt / 1000) ++ toLE 4 p.pc) }

section
variable {s : State} {q : Nat} (hq : q < 5) (hl : s.live = true)
include hq hl

theorem fwpWatchdogExpiry_next (hr : s.fwpRuns q = true) : exec (.fwpWatchdogExpiry q) s = .next (s.fwpRestart q 1) :=
  onUnit_if_pos (decide_eq_true hq) hl hr

theorem fwpTrap_next (hr : s.fwpRuns q = true) : exec (.fwpTrap q) s = .next (s.fwpRestart q 3) :=
  onUnit_if_pos (decide_eq_true hq) hl hr

theorem fwpMemoryUe_next (hr : s.fwpRuns q = true) {w : Nat} (hw : w < 49152) : exec (.fwpMemoryUe q w) s =
    .next ((((s.almQueue { type := 1, fault := 4, unit := q, detail := memDetail 10 0xFF noneField s.freeNat }).drawn).modProc q fun p =>
      { p with ue := if p.ue.contains w then p.ue else p.ue ++ [w] }).fwpRestart q 2) :=
  onUnit_if_pos (by simp [hq, hw]) hl hr

/-- What a restart comes to, once the security processor can load: a section that fails its check makes the device WEDGED. -/
theorem fwpRestartDone_next (hr : (s.proc q).restarting = true) (hsec : q = 0 ∨ s.fwpUp fwpSec = true) : exec (.fwpRestartDone q) s = .next (
    if sectionSums (s.stored 1) q ≠ (s.proc q).sums then (s.modProc q fun p => { p with restarting := false }).wedge noneField 0
    else ((s.reloaded q).almQueue (s.restartRec q)).devEvent 6 stOk [q]) := by
  refine (onUnit_next (decide_eq_true hq) hl).trans ?_
  dsimp only
  rw [if_neg (by simpa [hr, or_iff_not_imp_left] using hsec)]
  rfl

end

/-! ### The obligation -/

/-- Settles O57: each row completes as its record, the flash stores and the state of the boot say. -/
theorem firmwareBootsStagesAndRestarts : Obligations.FirmwareBootsStagesAndRestarts := by
  unfold Obligations.FirmwareBootsStagesAndRestarts
  refine ⟨?stage, ?activate, ?boot, ?restart⟩
  case stage =>
    intro s s0 c store k obj h hs0 hstore
    refine ⟨?_, fun hbad => ?_⟩
    · rintro hlo hhi hk hz hlen hserves s1 g rfl rfl
      subst hstore
      exact fwStage_next h ⟨hlo, hhi, hk, hz, hlen, hserves⟩ hs0 rfl
    · subst hs0 hstore
      exact fwStage_badParam h hbad
  case activate =>
    intro s s0 c store i k h hs0 hstore hlo hhi hf hburn hz hserves
    rw [fwActivate_next h (by subst hstore; exact ⟨hlo, hhi, hf, hburn, hz, hserves⟩) hs0 hstore]
    refine ⟨fun hnone => ?_, fun hsome => ⟨fun hem => ?_, ?_⟩⟩
    · rw [hnone]
    · rw [hsome]
      exact congrArg _ (if_pos hem)
    · rintro hem hgood s1 rfl
      rw [hsome]
      simp only [hem, hgood, Bool.not_true, Bool.false_eq_true, if_false]
      exact ⟨fun hne => congrArg _ (if_neg hne), fun he => congrArg _ (if_pos he)⟩
  case boot =>
    intro s hl hb hw
    refine ⟨fun hv hslot => ?_, fun i kind b hv hslot hcontent => ?_, fun s1 hv hup hs1 => ?_⟩
    · rw [bootImageVerified_noImage hl hb hw hv hslot]
      exact ⟨fun hact => by rw [hact], fun a hact => by rw [hact]⟩
    · subst hcontent
      have hview := s.bootedFrom_bootView (s.flashSlot 1 i).content kind
      refine ⟨_, bootImageVerified_image hl hb hw hv hslot, congrArg BootView.fwDigest hview, congrArg BootView.fwVer hview,
        congrArg BootView.translator hview, congrArg BootView.verified hview, congrArg BootView.bootKind hview, congrArg BootView.fwpUp hview,
        fun q hq => ?_⟩
      rw [State.bootedFrom_proc _ _ _ hq]
      exact ⟨rfl, rfl, rfl⟩
    · rw [deviceReady_next hl hb hw hv hup hs1]
      exact ⟨fun hact => by rw [hact], fun c burn hact hk => by rw [hact]; exact congrArg _ (if_pos hk),
        fun c burn hact hk => by rw [hact]; exact congrArg _ (if_neg hk)⟩
  case restart =>
    intro s q hq hl
    refine ⟨fun hr => ⟨fwpWatchdogExpiry_next hq hl hr, fwpTrap_next hq hl hr, fun w => fwpMemoryUe_next hq hl hr⟩, fun hr hsec => ?_⟩
    rw [fwpRestartDone_next hq hl hr hsec]
    exact ⟨fun hsums => ⟨_, _, rfl, congrArg _ (if_neg (not_not.2 hsums)), State.fwpStart_fwpUp _ hq, State.reloaded_restarting _ _, rfl, rfl⟩,
      fun hsums => congrArg _ (if_pos hsums)⟩

end Sys2Proof.Machine

end

section

/-! Attestation (11 R322 to R324) and the quorum commands (11 R326 to R329): how each row completes. -/

namespace Sys2Proof.Machine

theorem State.id_of_carries {s : State} {op c : Nat} {k : Cmd} (h : s.carries op c k) : k.id = c := by
  obtain ⟨hfind, -⟩ := h
  simpa using List.find?_some hfind

theorem Cmd.fits_iff {k : Cmd} {n : Nat} : k.fits n = true ↔ k.takes n := by
  unfold Cmd.fits Cmd.takes Cmd.viaPort
  cases k.src <;> simp

/-! ### ATTEST (11 R322 to R324) -/

/-- What signing with the key of index i leaves: it is used up, further ones are reserved where it was not, and where it begins a tree, the next tree
is still to be built (11 R323). -/
def Firmware.signed (w : Firmware) (i : Nat) : Firmware :=
  { w with
    hssIdx := i + 1
    flash := if w.nextResv ≤ i then writeStore w.flash 5 (toLE 8 (w.nextResv + 16384)) else w.flash
    treeReady := if i % hssTree = 0 then false else w.treeReady }

/-- The next key can sign: it lies in the tree in use, in the first tree or in one that is built. -/
def Firmware.treeAtHand (w : Firmware) : Prop := w.hssIdx % hssTree ≠ 0 ∨ w.hssIdx = 0 ∨ w.treeReady = true

/-- The words of an answer: the keys that are left once the one of index i is used. -/
def keysLeft (i : Nat) : List Nat := [(hssTotal - (i + 1)) % 2 ^ 32, (hssTotal - (i + 1)) / 2 ^ 32]

section
variable {s : State} {c i : Nat} {k : Cmd} (h : s.carries 0x0804 c k) (hi : i = s.fw.hssIdx)
include h hi

theorem attest_noFit (hused : hssTotal ≤ i) : exec (.attest c) s = .next ((s.take c).finish c stNoFit) := by
  subst hi
  show execAttest c s = _
  rw [execAttest, runCmd_next h]
  exact congrArg _ (if_pos hused)

theorem attest_retry (hleft : i < hssTotal) (htree : ¬ s.fw.treeAtHand) : exec (.attest c) s = .next ((s.take c).finish c stRetry) := by
  subst hi
  show execAttest c s = _
  rw [execAttest, runCmd_next h]
  refine congrArg _ ((if_neg (Nat.not_le.2 hleft)).trans (if_pos ?_))
  show (decide (s.fw.hssIdx % hssTree = 0) && decide (s.fw.hssIdx ≠ 0) && !s.fw.treeReady) = true
  simpa [Firmware.treeAtHand, and_assoc] using htree

variable {rep data : List Byte} (hleft : i < hssTotal) (htree : s.fw.treeAtHand) (hrep : rep = (s.take c).report (slice k.params 12 32) i)
  (hdata : data = rep ++ hssSign (padTo 32 s.part.secret) i rep ++ s.part.certificate)
include hleft htree hrep hdata

/-- With a key left and its tree at hand, the answer is made; only where it can be given back is the key used. -/
theorem attest_answers : exec (.attest c) s = .next (
    if k.takes data.length then ((s.take c).modFw fun w => w.signed i).finishData k (keysLeft i) data
    else (s.take c).finishData k [] data) := by
  subst hi
  show execAttest c s = _
  rw [execAttest, runCmd_next h]
  have hready : ¬ (decide (s.fw.hssIdx % hssTree = 0) && decide (s.fw.hssIdx ≠ 0) && !s.fw.treeReady) = true := by
    simpa [Firmware.treeAtHand, or_iff_not_imp_left] using htree
  refine congrArg _ ((if_neg (Nat.not_le.2 hleft)).trans ((if_neg hready).trans ?_))
  dsimp only
  rw [State.take_fw, State.take_part, ← hrep, ← hdata]
  by_cases ht : k.takes data.length
  · rw [if_pos ht, if_neg (by simp [Cmd.fits_iff.2 ht])]
    rfl
  · rw [if_neg ht, if_pos (by simpa using mt Cmd.fits_iff.1 ht)]

theorem attest_reported (ht : k.takes data.length) :
    exec (.attest c) s = .next ((s.modFw fun w => w.signed i).reported k (keysLeft i) data) := by
  have hsigned : (s.modFw fun w => w.signed i).carries 0x0804 c k := h
  rw [attest_answers h hi hleft htree hrep hdata, if_pos ht, ← State.finishData_reported hsigned _ ht]
  rfl

theorem attest_notGivenBack (ht : ¬ k.takes data.length) : exec (.attest c) s = .next ((s.take c).finishData k [] data) := by
  rw [attest_answers h hi hleft htree hrep hdata, if_neg ht]

end

/-- The next tree's build ends once half of the current one is used (11 R323). -/
theorem hssTreeBuilt_next {s : State} (hl : s.live = true) (hsec : s.fwpUp fwpSec = true)
    (hhalf : hssTree / 2 ≤ s.fw.hssIdx % hssTree ∨ s.fw.hssIdx % hssTree = 0 ∧ s.fw.hssIdx ≠ 0) :
    exec .hssTreeBuilt s = .next (s.modFw fun w => { w with treeReady := true }) := by
  refine onEvent_next ?_
  rw [hl, hsec]
  simpa using hhalf

/-! ### Quorum commands (11 R326 to R329) -/

/-- The rows that carry a quorum command, each with its opcode and whether its action is a restore. -/
def quorumRows : List ((Nat → Instr) × Nat × Bool) :=
  [(.devIsolate, 0x0105, false), (.devRestore, 0x0105, true), (.portIsolate, 0x0404, false), (.portRestore, 0x0404, true)]

/-- The row of a command's action carries it out, whichever row it is. -/
theorem exec_quorumRows {row : (Nat → Instr) × Nat × Bool} (hrow : row ∈ quorumRows) {s : State} {c : Nat} {k : Cmd}
    (h : s.carries row.2.1 c k) (hact : (fieldAt k.params 2 1 == 1) = row.2.2) :
    exec (row.1 c) s = .next ((s.take c).quorumCmd row.2.1 k) := by
  simp only [quorumRows, List.mem_cons, List.not_mem_nil, or_false] at hrow
  rcases hrow with rfl | rfl | rfl | rfl
  · exact runSub_next h (by rw [bne, hact]; rfl) _
  · exact runSub_next h hact _
  · exact runSub_next h (by rw [bne, hact]; rfl) _
  · exact runSub_next h hact _

section
variable {s : State} {op : Nat} {k : Cmd}

theorem State.quorumCmd_refused (hst : s.quorumCheck op k.params ≠ stOk) :
    s.quorumCmd op k = s.finish k.id (s.quorumCheck op k.params) := if_pos hst

/-- A quorum command from a ring acts at once (11 R329). -/
theorem State.quorumCmd_fromRing (hst : s.quorumCheck op k.params = stOk) (hk : k.viaPort = false) :
    s.quorumCmd op k =
      ((s.applyPending.modFw fun w => w.isolate op k.params).applyIsolation (decide (op = 0x0105))).finish k.id stOk := by
  refine (if_neg (not_not.2 hst)).trans ?_
  unfold Cmd.viaPort at hk
  split
  · next hsrc => rw [hsrc] at hk; cases hk
  · rfl

/-- A quorum command of the fabric manager leaves its action waiting for its reply (11 R329). -/
theorem State.quorumCmd_mgmt {hdr : List Byte} {seq : Nat} (hst : s.quorumCheck op k.params = stOk) (hsrc : k.src = .mgmt hdr seq) :
    s.quorumCmd op k =
      ((s.applyPending.modFw fun w => w.isolate op k.params).modDev fun d => { d with isoPend := some {
        cmd := k.id, action := (if op = 0x0404 then 1 else 3) + fieldAt k.params 2 1, port := fieldAt k.params 3 1, since := s.t3 } }).finish
          k.id stOk := by
  refine (if_neg (not_not.2 hst)).trans ?_
  rw [hsrc]

end

theorem isolationApply_next {s : State} {i : IsoPend} (hl : s.live = true) (hp : s.dev.isoPend = some i)
    (hdue : i.left = true ∨ s.after i.since (usec 100) = true) : exec .isolationApply s = .next s.applyPending := by
  refine onEvent_next ?_
  rw [hl, hp]
  simpa using hdue

theorem State.applyPending_isoPend {s : State} {i : IsoPend} (hp : s.dev.isoPend = some i) : s.applyPending.dev.isoPend = none := by
  rw [State.applyPending, hp]
  rfl

/-! ### The obligation -/

/-- Settles O58: ATTEST uses a key only for an answer that can be given back, and a quorum command acts as its checks and its sender say. -/
theorem attestationAndQuorumCommands : Obligations.AttestationAndQuorumCommands := by
  unfold Obligations.AttestationAndQuorumCommands
  refine ⟨⟨?attest, fun s => hssTreeBuilt_next⟩, ?quorum,
    fun s i hl hp hdue => ⟨isolationApply_next hl hp hdue, State.applyPending_isoPend hp⟩⟩
  case attest =>
    rintro s s1 c i k rep data h rfl
    refine ⟨fun hleft htree hrep hdata ht hs1 => ?_, fun hleft htree hrep hdata => attest_notGivenBack h rfl hleft htree hrep hdata,
      fun hleft hlast hne hnot => attest_retry h rfl hleft ?_, attest_noFit h rfl⟩
    · subst hs1
      exact attest_reported h rfl hleft htree hrep hdata ht
    · simp [Firmware.treeAtHand, hlast, hne, hnot]
  case quorum =>
    intro row hrow s c k h hact
    rw [exec_quorumRows hrow h hact, ← State.id_of_carries h]
    exact ⟨fun hst hk => congrArg _ (State.quorumCmd_fromRing hst hk), fun hst => congrArg _ (State.quorumCmd_refused hst),
      fun hdr seq hst hsrc => congrArg _ (State.quorumCmd_mgmt hst hsrc)⟩

end Sys2Proof.Machine

end

section

/-! The throttle ladder (14 R384, R385, R387) and changes of CORE_CLK (14 R377; 12 R335). -/

namespace Sys2Proof.Machine

/-! ### The throttle ladder (14 R384, R385, R387) -/

/-- Beside a THERMAL_TRIP, which has no release limit, no cause outlives its release (14 R385, R386). -/
theorem releasedCauses_eq_zero {m : BitVec 5} (htrip : m.getLsbD 4 = false) : m &&& 0x10#5 = 0#5 := by
  revert m
  decide

section
variable {s : State} (hl : s.live = true)
include hl

theorem ladderClimb_next (hc : s.pwr.causes ≠ 0#5) (hr : s.pwr.rung < 4) (ht : s.pwr.rungAt + usec 100 ≤ s.t3) :
    exec .ladderClimb s = .next (s.modPwr fun p =>
      { p with rung := p.rung + 1, emRung := max p.emRung (p.rung + 1), rungAt := p.rungAt + usec 100 }) :=
  onEvent_next (by simp [hl, hc, hr, State.after, ht])

theorem emergencyClear_next (hc : s.pwr.causes ≠ 0#5) {t : Nat} (hs : s.pwr.insideSince = some t) (ht : t + msec 10 ≤ s.t3) :
    exec .emergencyClear s = .next (s.modPwr fun p =>
      { p with causes := p.causes &&& 0x10#5, rungAt := if p.causes.getLsbD 4 then p.rungAt else s.t3 }) :=
  onEvent_next (by simp [hl, hc, hs, State.after, ht])

/-- Where no cause is a THERMAL_TRIP, all of them clear, and the ladder's time runs from now. -/
theorem emergencyClear_all (hc : s.pwr.causes ≠ 0#5) (htrip : s.pwr.causes.getLsbD 4 = false) {t : Nat} (hs : s.pwr.insideSince = some t)
    (ht : t + msec 10 ≤ s.t3) : exec .emergencyClear s = .next (s.modPwr fun p => { p with causes := 0#5, rungAt := s.t3 }) := by
  rw [emergencyClear_next hl hc hs ht]
  simp only [State.modPwr, releasedCauses_eq_zero htrip, htrip, Bool.false_eq_true, if_false]

variable (hc : s.pwr.causes = 0#5) (ht : s.pwr.rungAt + msec 10 ≤ s.t3)
include hc ht

theorem ladderDescend_between (hr : 1 < s.pwr.rung) :
    exec .ladderDescend s = .next (s.modPwr fun p => { p with rung := p.rung - 1, rungAt := p.rungAt + msec 10 }) := by
  refine (onEvent_next (by simp [hl, hc, Nat.zero_lt_of_lt hr, State.after, ht])).trans (congrArg _ ?_)
  exact if_neg (Nat.ne_of_gt hr)

/-- The last rung ends the emergency: A is to be p_e at the next tick, and the record and the event go out (14 R385, R387). -/
theorem ladderDescend_last (hr : s.pwr.rung = 1) : exec .ladderDescend s = .next
    (({ s with
        pwr := { s.pwr with rung := 0, rungAt := s.pwr.rungAt + msec 10, setAToPe := true }
        dev := { s.dev with emergency := false } }.almQueue s.emergencyRec).devEvent 5 stOk [0, 0]) := by
  refine (onEvent_next (by simp [hl, hc, hr, State.after, ht])).trans (congrArg _ ?_)
  refine (if_pos hr).trans ?_
  simp only [State.modPwr, State.modDev, hr, hc, Nat.sub_self, BitVec.toNat_zero]

end

/-! ### Changes of CORE_CLK (14 R377; 12 R335) -/

section
variable {s : State} (hl : s.live = true)
include hl

theorem coreClkChangeApply_begins {m : Nat} (hreq : s.pwr.clkReq = some m) (hnone : s.pwr.clkStep = none) (hfree : s.clkHeld = false) :
    exec .coreClkChangeApply s = .next (s.modPwr fun p => { p with clkReq := none, clkStep := some (m, s.t3) }) := by
  refine (onEvent_next hl).trans (congrArg _ ?_)
  rw [hreq]
  exact if_neg (by simp [hnone, hfree])

theorem coreClkChangeApply_held (hheld : s.clkHeld = true) : exec .coreClkChangeApply s = .next s := by
  refine (onEvent_next hl).trans (congrArg _ ?_)
  cases s.pwr.clkReq with
  | none => rfl
  | some m => exact if_pos (by simp [hheld])

theorem coreClkStepDone_reaches {m t : Nat} (hstep : s.pwr.clkStep = some (m, t)) (hfree : s.clkHeld = false) :
    exec .coreClkStepDone s = .next { s with pwr := { s.pwr with clkStep := none }, clk := { s.clk with coreMHz := m } } := by
  refine (onEvent_next hl).trans (congrArg _ ?_)
  rw [hstep]
  exact if_neg (by simp [hfree])

theorem coreClkStepDone_held (hheld : s.clkHeld = true) : exec .coreClkStepDone s = .next s := by
  refine (onEvent_next hl).trans (congrArg _ ?_)
  cases s.pwr.clkStep with
  | none => rfl
  | some a => exact if_pos hheld

end

/-! ### The obligation -/

/-- Settles O23: each row of the ladder moves it by one rung when its time has come, and a CORE_CLK change moves on exactly where no step holds it. -/
theorem ladderAndCoreClockMove : Obligations.LadderAndCoreClockMove := by
  unfold Obligations.LadderAndCoreClockMove
  refine ⟨fun s hl => ⟨ladderClimb_next hl, ?clear, fun hc hr ht => ladderDescend_between hl hc ht hr,
    fun hc hr ht => ladderDescend_last hl hc ht hr⟩, fun s hl => ⟨fun m => coreClkChangeApply_begins hl, fun m t => coreClkStepDone_reaches hl,
    fun hheld => ⟨coreClkChangeApply_held hl hheld, coreClkStepDone_held hl hheld⟩⟩⟩
  case clear =>
    rintro hc htrip ⟨t, hs, ht⟩
    exact emergencyClear_all hl hc htrip hs ht

end Sys2Proof.Machine

end

section

/-! The step and what every step keeps: the queue and CORE_CLK (14 R377), and the state at the release of the cold reset (13 R357, R360). -/

namespace Sys2Proof.Machine

/-- Settles O1: a step looks at the front of the queue first. -/
theorem stepRunsTheFrontCommand : Obligations.StepRunsTheFrontCommand := by
  unfold Obligations.StepRunsTheFrontCommand
  intro s c rest hp
  unfold step
  rw [hp]

/-- Settles O3: the reset state is the one of default fields. -/
theorem resetStateAsTheSpecSays : Obligations.ResetStateAsTheSpecSays := by
  unfold Obligations.ResetStateAsTheSpecSays
  exact ⟨rfl, rfl, rfl, rfl, rfl, rfl, rfl, rfl, fun _ => rfl, fun _ => rfl, fun _ => rfl, fun _ => rfl, fun _ => rfl, fun _ => rfl, rfl⟩

/-- Settles O4: the queue is among what every command keeps. -/
theorem everyCommandKeepsTheQueue : Obligations.EveryCommandKeepsTheQueue := by
  unfold Obligations.EveryCommandKeepsTheQueue
  intro c s s' h
  obtain ⟨hpending, -⟩ := exec_keptByAll h
  exact hpending

theorem step_keeps_clockWf {s s' : State} (hw : s.clockWf = true) (h : step s = .next s') : s'.clockWf = true := by
  cases hp : s.pending with
  | nil =>
    obtain ⟨-, -, -, htick, -⟩ := State.tick_sound (.refl s)
    exact step_of_no_pending hp h ▸ htick hw
  | cons c rest =>
    obtain ⟨-, -, hexec, -⟩ := exec_keptByAll (step_of_pending hp h)
    exact hexec hw

/-- Settles O7: a step runs the front command or is a tick, and both keep CORE_CLK and its changes at operating points. -/
theorem coreClockStaysAtAnOperatingPoint : Obligations.CoreClockStaysAtAnOperatingPoint := by
  unfold Obligations.CoreClockStaysAtAnOperatingPoint
  exact fun _ _ => step_keeps_clockWf

/-- Settles O8: no memory holds a byte at reset, and CORE_CLK runs at 1,700 MHz. -/
theorem invariantsHoldAtReset : Obligations.InvariantsHoldAtReset := by
  unfold Obligations.InvariantsHoldAtReset
  exact ⟨⟨rfl, rfl, fun _ => rfl, fun _ _ hh => nomatch hh⟩, by decide⟩

end Sys2Proof.Machine

end

section

/-! What turning off domains, bookkeeping and Seedbank leave as they are: which domains are on, the causes of an emergency, the device's state, and,
but for the gets that end, the Tillers. -/

namespace Sys2Proof.Machine

/-- Which domains are on, the causes in force, and the device's state. -/
structure PowerView where
  /-- the switched domains -/
  domOn : SMap Bool
  /-- the causes of the emergency -/
  causes : BitVec 5
  /-- the device's state -/
  devState : DevState

/-- What a state holds of it. -/
def State.powerView (s : State) : PowerView := ⟨s.pwr.domOn, s.pwr.causes, s.dev.state⟩

/-- What a state holds of it, with its Tillers. -/
def State.dutyView (s : State) : PowerView × SMap Tiller := (s.powerView, s.tillers)

section
variable {s s' : State}

theorem State.powerView_of_dutyView (h : s'.dutyView = s.dutyView) : s'.powerView = s.powerView := congrArg Prod.fst h

theorem State.tl_of_dutyView (h : s'.dutyView = s.dutyView) (t : Nat) : s'.tl t = s.tl t :=
  congrArg (fun v : PowerView × SMap Tiller => SMap.get tillerAt v.2 t) h

theorem State.domOn_of_powerView (h : s'.powerView = s.powerView) (d : Nat) : s'.domOn d = s.domOn d :=
  congrArg (fun v : PowerView => SMap.get falseAt v.domOn d) h

theorem State.causes_of_powerView (h : s'.powerView = s.powerView) : s'.pwr.causes = s.pwr.causes := congrArg PowerView.causes h

theorem State.devState_of_powerView (h : s'.powerView = s.powerView) : s'.dev.state = s.dev.state := congrArg PowerView.devState h

end

section
variable (s : State)

/-! ### Bookkeeping -/

@[simp] theorem State.modFab_dutyView (f : Fabric → Fabric) : (s.modFab f).dutyView = s.dutyView := rfl

@[simp] theorem State.modPfx_dutyView (f : Prefix → Prefix) : (s.modPfx f).dutyView = s.dutyView := rfl

@[simp] theorem State.modSeed_dutyView (f : Seedbank → Seedbank) : (s.modSeed f).dutyView = s.dutyView := rfl

@[simp] theorem State.modMem_dutyView (f : MemTier → MemTier) : (s.modMem f).dutyView = s.dutyView := rfl

@[simp] theorem State.modLink_dutyView (p : Nat) (f : Link → Link) : (s.modLink p f).dutyView = s.dutyView := rfl

@[simp] theorem State.modEntry_dutyView (L i : Nat) (f : SbEntry → SbEntry) : (s.modEntry L i f).dutyView = s.dutyView := rfl

@[simp] theorem State.modList_dutyView (L : Nat) (f : SbList → SbList) : (s.modList L f).dutyView = s.dutyView := rfl

@[simp] theorem State.count_dutyView (k n : Nat) : (s.count k n).dutyView = s.dutyView := rfl

@[simp] theorem State.requestDomains_dutyView (l : List Nat) : (s.requestDomains l).dutyView = s.dutyView := rfl

@[simp] theorem State.almHw_dutyView (r : ARec) : (s.almHw r).dutyView = s.dutyView := rfl

@[simp] theorem State.almQueue_dutyView (r : ARec) : (s.almQueue r).dutyView = s.dutyView := by
  unfold State.almQueue
  split <;> rfl

@[simp] theorem State.pushEvent_dutyView (e : Event) : (s.pushEvent e).dutyView = s.dutyView := by
  unfold State.pushEvent
  split <;> rfl

@[simp] theorem State.devEvent_dutyView (code status : Nat) (words : List Nat) : (s.devEvent code status words).dutyView = s.dutyView := by
  unfold State.devEvent
  split
  · exact s.pushEvent_dutyView _
  · rfl

@[simp] theorem State.rollWindow_dutyView : s.rollWindow.dutyView = s.dutyView := by
  rcases Nat.lt_or_ge s.now s.dev.telEnd with h | h
  · rw [State.rollWindow_within h]
  · rw [State.rollWindow_over h]; rfl

@[simp] theorem State.pushNotice_dutyView (n : Notice) : (s.pushNotice n).dutyView = s.dutyView := by
  unfold State.pushNotice
  split <;> rfl

@[simp] theorem State.faultNotice_dutyView (level reason : Nat) (ctx : Option Nat) : (s.faultNotice level reason ctx).dutyView = s.dutyView := by
  unfold State.faultNotice
  split
  · cases ctx with
    | none => exact s.rollWindow_dutyView
    | some x => dsimp only; split <;> simp
  · simp

@[simp] theorem State.finish_dutyView (c status : Nat) (words : List Nat) (data : List Byte) :
    (s.finish c status words data).dutyView = s.dutyView := by
  unfold State.finish
  split
  · rfl
  · split <;> rfl

@[simp] theorem State.finishAll_dutyView (cs : List Nat) (status : Nat) (words : List Nat) : (s.finishAll cs status words).dutyView = s.dutyView :=
  foldl_keeps State.dutyView (fun x _ => x.finish_dutyView _ _ _ _) cs s

/-! ### A port that is held (09 R267, R270) -/

@[simp] theorem State.dropPkt_dutyView (k : Pkt) (p reason : Nat) : (s.dropPkt k p reason).dutyView = s.dutyView := by
  unfold State.dropPkt State.release
  split <;> rfl

@[simp] theorem State.deliveryLost_dutyView (k : Pkt) (p reason : Nat) : (s.deliveryLost k p reason).dutyView = s.dutyView := by
  unfold State.deliveryLost
  split
  · exact s.pushNotice_dutyView _
  · rfl

@[simp] theorem State.samplePeak_dutyView (p v : Nat) : (s.samplePeak p v).dutyView = s.dutyView := s.rollWindow_dutyView

@[simp] theorem State.flushPort_dutyView (p : Nat) : (s.flushPort p).dutyView = s.dutyView := by
  refine (foldl_keeps State.dutyView (fun x k => by simp) _ _).trans ((State.modFab_dutyView _ _).trans ?_)
  exact foldl_keeps State.dutyView (fun x _ => x.modFab_dutyView _) _ s

@[simp] theorem State.linkDown_dutyView (p reason : Nat) (st : LinkState) : (s.linkDown p reason st).dutyView = s.dutyView := by
  unfold State.linkDown
  dsimp only
  rw [State.devEvent_dutyView]
  split
  · rw [State.almQueue_dutyView, State.flushPort_dutyView, State.lapseGrants, State.modFab_dutyView, State.modLink_dutyView]
    split
    · exact s.count_dutyView _ _
    · exact (State.count_dutyView _ _ _).trans (s.count_dutyView _ _)
  · rw [State.lapseGrants, State.modFab_dutyView, State.modLink_dutyView]
    exact s.count_dutyView _ _

@[simp] theorem State.holdPower_dutyView (p : Nat) : (s.holdPower p).dutyView = s.dutyView := by
  unfold State.holdPower State.hold
  split
  · rfl
  · exact State.linkDown_dutyView _ _ _ _

/-! ### Seedbank (08 R237, R239, R242) -/

@[simp] theorem State.giveAddr_dutyView (a : Nat) : (s.giveAddr a).dutyView = s.dutyView := by
  unfold State.giveAddr State.giveBack
  split
  · dsimp only
    split
    · exact s.modEntry_dutyView _ _ _
    · split <;> simp
  · rfl

@[simp] theorem State.corrected_dutyView (ws found : List Nat) : (s.corrected ws found).dutyView = s.dutyView :=
  foldl_keeps State.dutyView (fun x _ => x.count_dutyView _ _) _ s

@[simp] theorem State.handOut_dutyView (L i owner : Nat) (slot : Option Nat) (zero : Bool) : (s.handOut L i owner slot zero).dutyView = s.dutyView := by
  simp [State.handOut, State.memZero, State.unlist]

@[simp] theorem State.quarantine_dutyView (L i : Nat) : (s.quarantine L i).dutyView = s.dutyView := by
  unfold State.quarantine State.unlist
  rw [State.almQueue_dutyView, State.modEntry_dutyView, State.modList_dutyView]
  split
  · simp [State.memUe]
  · rfl

@[simp] theorem State.sbReply_dutyView (q : SbReq) (status : Nat) (words : List Nat) : (s.sbReply q status words).dutyView = s.dutyView := by
  unfold State.sbReply
  split
  · exact s.finish_dutyView _ _ _ _
  · rfl

theorem State.sbAsk_dutyView (q : SbReq) : (s.sbAsk q).dutyView = s.dutyView := by
  unfold State.sbAsk
  dsimp only
  split
  · simp
  · split
    · split <;> simp
    · simp
    · split
      · simp
      · split
        · simp
        · split
          · simp
          · simp

theorem State.sbServeList_dutyView (l : List SbReq) : (State.sbServeList l s).dutyView = s.dutyView := by
  induction l generalizing s with
  | nil => rfl
  | cons q t ih =>
    rw [State.sbServeList, ih]
    split
    · split <;> rfl
    · exact s.sbAsk_dutyView q

@[simp] theorem State.sbServe_dutyView (L : Nat) : (s.sbServe L).dutyView = s.dutyView := State.sbServeList_dutyView _ _

/-! ### The blocks of the store (08 R248, R250) -/

@[simp] theorem State.noteRead_dutyView (a n : Nat) : (s.noteRead a n).dutyView = s.dutyView := by
  unfold State.noteRead State.memUe
  dsimp only
  split <;> simp

@[simp] theorem State.copyBlock_dutyView (src dst : Nat) (big : Bool) : (s.copyBlock src dst big).dutyView = s.dutyView := by
  unfold State.copyBlock State.memWrite
  dsimp only
  split <;> simp

@[simp] theorem State.pfxCount_dutyView (item : Nat) : (s.pfxCount item).dutyView = s.dutyView := rfl

@[simp] theorem State.modBlock_dutyView (key : List Byte) (f : PBlock → PBlock) : (s.modBlock key f).dutyView = s.dutyView := rfl

@[simp] theorem State.freeSlabs_dutyView : s.freeSlabs.dutyView = s.dutyView :=
  foldl_keeps State.dutyView (fun x _ => x.giveAddr_dutyView _) _ s

@[simp] theorem State.freeStorage_dutyView (b : PBlock) : (s.freeStorage b).dutyView = s.dutyView := by
  unfold State.freeStorage
  split
  · split
    · rw [State.freeSlabs_dutyView]
      split <;> simp
    · simp
  · split
    · simp
    · split <;> simp

@[simp] theorem State.removeBlock_dutyView (b : PBlock) : (s.removeBlock b).dutyView = s.dutyView := by
  unfold State.removeBlock
  dsimp only
  split <;> simp

variable {s} in
theorem State.takeBuffer_dutyView {who : SbReq} {owner k die : Nat} {slot : Option Nat} {zero : Bool} {a : Nat} {s' : State}
    (h : s.takeBuffer who owner k die slot zero = .got a s') : s'.dutyView = s.dutyView := by
  unfold State.takeBuffer at h
  dsimp only at h
  repeat' split at h
  all_goals cases h
  exact s.handOut_dutyView _ _ _ _ _

variable {s} in
theorem State.cxlRoom_dutyView {who : SbReq} {big : Bool} {a : Nat} {s' : State} (h : s.cxlRoom who big = .got a s') : s'.dutyView = s.dutyView := by
  unfold State.cxlRoom at h
  dsimp only at h
  split at h
  · cases h; rfl
  · split at h
    · next hb =>
      cases h
      split at hb
      · simp [State.takeBuffer_dutyView hb]
      · cases hb
    · cases h
    · split at h
      · cases h; simp
      · cases h

theorem State.lowerGddr_dutyView (big : Bool) (lim n : Nat) : (State.lowerGddr s big lim n).dutyView = s.dutyView := by
  induction n generalizing s with
  | zero => rfl
  | succ n ih =>
    rw [State.lowerGddr]
    split
    · rfl
    · split
      · rfl
      · split
        · rfl
        · next hroom =>
          rw [ih]
          split
          · simp
          · simp [State.cxlRoom_dutyView hroom]
        · rw [ih]; simp

theorem State.lowerSlabs_dutyView (lim n : Nat) : (State.lowerSlabs s lim n).dutyView = s.dutyView := by
  induction n generalizing s with
  | zero => rfl
  | succ n ih =>
    rw [State.lowerSlabs]
    split
    · rfl
    · split
      · rfl
      · rw [ih]; simp

@[simp] theorem State.pfxTick_dutyView : s.pfxTick.dutyView = s.dutyView := by
  have hfreed : (List.foldl State.freeStorage (s.modPfx fun p => { p with dying := p.dying.filter s.reading })
      (s.pfx.dying.filter fun b => !s.reading b)).dutyView = s.dutyView := foldl_keeps State.dutyView (fun x b => x.freeStorage_dutyView b) _ _
  unfold State.pfxTick State.holdLimits
  dsimp only
  split
  · rw [State.lowerSlabs_dutyView, State.lowerGddr_dutyView, State.lowerGddr_dutyView, hfreed]
  · exact hfreed

/-! ### A CXL port that goes down (08 R229) -/

theorem State.modT_powerView (t : Nat) (f : Tiller → Tiller) : (s.modT t f).powerView = s.powerView := rfl

theorem State.cutGets_powerView (b : PBlock) (chunk : Nat) : (s.cutGets b chunk).powerView = s.powerView :=
  foldl_keeps State.powerView (fun x t => State.modT_powerView x t _) _ s

theorem State.dropPortBlocks_powerView (k : Nat) : (s.dropPortBlocks k).powerView = s.powerView := by
  refine foldl_keeps State.powerView (fun x b => ?_) _ s
  dsimp only
  refine Eq.trans ?_ (x.cutGets_powerView b 0)
  split
  · exact State.powerView_of_dutyView (by simp)
  · rfl

theorem State.cxlDown_powerView (k : Nat) : (s.cxlDown k).powerView = s.powerView := by
  unfold State.cxlDown
  split
  · refine (State.powerView_of_dutyView (State.sbServe_dutyView _ _)).trans ((State.powerView_of_dutyView (State.pfxTick_dutyView _)).trans ?_)
    refine (State.dropPortBlocks_powerView _ k).trans ?_
    exact foldl_keeps State.powerView (fun x b => State.powerView_of_dutyView (by simp)) _ _
  · rfl

/-! ### Domains that turn off (14 R375) -/

theorem State.beginOff_powerView (d : Nat) : (s.beginOff d).powerView = { s.powerView with domOn := SMap.set falseAt d false s.pwr.domOn } := by
  have hheld (x : State) : ((domPorts d).foldl State.holdPower x).powerView = x.powerView :=
    State.powerView_of_dutyView (foldl_keeps State.dutyView (fun x p => x.holdPower_dutyView p) _ x)
  unfold State.beginOff
  dsimp only
  split
  · exact (State.cxlDown_powerView _ _).trans (hheld _)
  · exact hheld _

theorem State.beginOff_domOn (d e : Nat) : (s.beginOff d).domOn e = (s.domOn e && e != d) := by
  have h : (s.beginOff d).domOn e = SMap.get falseAt (SMap.set falseAt d false s.pwr.domOn) e :=
    congrArg (fun v : PowerView => SMap.get falseAt v.domOn e) (s.beginOff_powerView d)
  rw [h, SMap.get_set]
  by_cases he : e = d
  · simp [he]
  · simp [he, State.domOn]

/-- s with domain d turning off where it is on. -/
def State.offIfOn (s : State) (d : Nat) : State := if s.domOn d then s.beginOff d else s

theorem State.offIfOn_domOn (d e : Nat) : (s.offIfOn d).domOn e = (s.domOn e && e != d) := by
  unfold State.offIfOn
  split
  · exact s.beginOff_domOn d e
  · next hd =>
    by_cases he : e = d
    · simp [he, hd]
    · simp [he]

theorem State.foldl_offIfOn_domOn (l : List Nat) (e : Nat) : (l.foldl State.offIfOn s).domOn e = (s.domOn e && !l.contains e) := by
  induction l generalizing s with
  | nil => simp
  | cons d t ih =>
    rw [List.foldl_cons, ih, State.offIfOn_domOn, List.contains_cons, Bool.not_or, Bool.and_assoc]
    rfl

theorem State.allOff_powerView : s.allOff.powerView = ((List.range 56).foldl State.offIfOn s).powerView := by
  unfold State.allOff State.offIfOn
  generalize List.range 56 = l
  rfl

/-- No switched domain is on once all of them have been turned off. -/
theorem State.allOff_domOn {d : Nat} (hd : d < 56) : s.allOff.domOn d = false := by
  rw [State.domOn_of_powerView s.allOff_powerView, State.foldl_offIfOn_domOn]
  simp [hd]

theorem State.foldl_offIfOn_kept (l : List Nat) :
    (l.foldl State.offIfOn s).pwr.causes = s.pwr.causes ∧ (l.foldl State.offIfOn s).dev.state = s.dev.state := by
  have hstep (x : State) (d : Nat) : ((x.offIfOn d).pwr.causes, (x.offIfOn d).dev.state) = (x.pwr.causes, x.dev.state) := by
    unfold State.offIfOn
    split
    · exact congrArg (fun v : PowerView => (v.causes, v.devState)) (x.beginOff_powerView d)
    · rfl
  exact Prod.mk.inj (foldl_keeps (fun x : State => (x.pwr.causes, x.dev.state)) hstep l s)

theorem State.allOff_kept : s.allOff.pwr.causes = s.pwr.causes ∧ s.allOff.dev.state = s.dev.state := by
  rw [State.causes_of_powerView s.allOff_powerView, State.devState_of_powerView s.allOff_powerView]
  exact s.foldl_offIfOn_kept _

/-! ### A device that becomes WEDGED (13 R353) -/

theorem State.wedge_powerView (lastRec reason : Nat) : (s.wedge lastRec reason).powerView = { s.powerView with devState := .wedged } := by
  have hrecord (x : State) (r : ARec) : (((x.almHw r).faultNotice 3 reason none).devEvent 7 stWedged []).powerView = x.powerView :=
    State.powerView_of_dutyView (by simp)
  exact hrecord (s.modDev fun d => { d with state := .wedged }) _

end

end Sys2Proof.Machine

end

section

/-! An emergency: the comparators' sample and the causes that it brings into force (14 R385, R386). -/

namespace Sys2Proof.Machine

/-! ### The sample (14 R385) -/

/-- The power state after a sample of the comparators at a time, in thirds and in ns of the always-on domain. -/
def Power.sampled (p : Power) (t3 aonNs : Nat) : Power :=
  { p with
    due := p.over &&& p.beyond, beyond := p.over
    insideSince := if p.inside then some (p.insideSince.getD t3) else none
    emTj := if p.rung = 0 then p.emTj else p.sens.hottest p.emTj
    emVin := if p.rung = 0 then p.emVin else fartherVin p.emVin p.sens.vIn
    nextSample := (aonNs / 10000 + 1) * 10000 }

theorem emergencySample_next {s : State} (v : SensorVals) (ha : s.pwr.alive = true) (hn : s.pwr.nextSample ≤ s.aonNs) :
    exec (.emergencySample v) s = .next ((s.sense v).modPwr fun p => p.sampled s.t3 s.aonNs) := by
  refine (onEvent_next (by simp [ha, hn])).trans ?_
  simp only [State.modPwr, Power.sampled]
  cases (s.sense v).pwr.insideSince <;> rfl

/-! ### The causes that join (14 R385, R386) -/

/-- s with the causes that are due in force, and the emergency announced where it is new. -/
def State.emergencyEntered (s : State) : State :=
  let m := s.pwr.causes ||| s.pwr.due
  let s1 := s.modPwr fun p => { p with
    causes := m, emMask := if s.pwr.rung = 0 then m else p.emMask ||| m, rung := max 1 p.rung, emRung := if s.pwr.rung = 0 then 1 else p.emRung
    rungAt := if p.causes = 0#5 then s.t3 else p.rungAt, emStart := if s.pwr.rung = 0 then s.t3 else p.emStart, warmW := 0
    emTj := if s.pwr.rung = 0 then p.sens.hottest (p.sens.tDie.headD 0) else p.emTj, emVin := if s.pwr.rung = 0 then p.sens.vIn else p.emVin }
  if s.pwr.rung = 0 then (s1.modDev fun d => { d with emergency := true }).devEvent 5 stOk [1, m.toNat] else s1

/-- The power state with the causes m in force. -/
def Power.withCauses (p : Power) (m : BitVec 5) (t3 : Nat) : Power :=
  { p with causes := m, rungAt := if p.causes = 0#5 then t3 else p.rungAt, warmW := 0 }

section
variable (s : State)

/-- On rung 0 the emergency starts. -/
theorem State.emergencyEntered_starts {m : BitVec 5} (hm : m = s.pwr.causes ||| s.pwr.due) (hr : s.pwr.rung = 0) :
    s.emergencyEntered = ({ s with
      pwr := { s.pwr.withCauses m s.t3 with emMask := m, rung := 1, emRung := 1, emStart := s.t3,
                                            emTj := s.pwr.sens.hottest (s.pwr.sens.tDie.headD 0), emVin := s.pwr.sens.vIn }
      dev := { s.dev with emergency := true } }).devEvent 5 stOk [1, m.toNat] := by
  subst hm
  simp only [State.emergencyEntered, State.modPwr, State.modDev, Power.withCauses, hr, if_true]
  rfl

/-- A cause that joins later adds to the mask. -/
theorem State.emergencyEntered_joins {m : BitVec 5} (hm : m = s.pwr.causes ||| s.pwr.due) (hr : s.pwr.rung ≠ 0) :
    s.emergencyEntered = { s with pwr := { s.pwr.withCauses m s.t3 with emMask := s.pwr.emMask ||| m } } := by
  subst hm
  have hmax : max 1 s.pwr.rung = s.pwr.rung := Nat.max_eq_right (Nat.pos_of_ne_zero hr)
  simp only [State.emergencyEntered, State.modPwr, Power.withCauses, hr, hmax, if_false]

theorem State.emergencyEntered_kept :
    s.emergencyEntered.pwr.causes = s.pwr.causes ||| s.pwr.due ∧ s.emergencyEntered.dev.state = s.dev.state := by
  by_cases hr : s.pwr.rung = 0
  · rw [s.emergencyEntered_starts rfl hr]
    have hview := fun x : State => State.powerView_of_dutyView (x.devEvent_dutyView 5 stOk [1, (s.pwr.causes ||| s.pwr.due).toNat])
    exact ⟨(State.causes_of_powerView (hview _)).trans rfl, (State.devState_of_powerView (hview _)).trans rfl⟩
  · rw [s.emergencyEntered_joins rfl hr]
    exact ⟨rfl, rfl⟩

section
variable {s} (hl : s.live = true) (hdue : s.pwr.due &&& ~~~ s.pwr.causes ≠ 0#5)
include hl hdue

theorem emergencyBegin_next : exec .emergencyBegin s = .next (
    if (s.pwr.causes ||| s.pwr.due).getLsbD 4 && !s.pwr.causes.getLsbD 4 then
      (if s.dev.state = .wedged then s.emergencyEntered.allOff else s.emergencyEntered.allOff.wedge noneField 0)
    else s.emergencyEntered) := onEvent_next (by simp [hl, hdue])

theorem emergencyBegin_untripped (h : (s.pwr.causes ||| s.pwr.due).getLsbD 4 = false) : exec .emergencyBegin s = .next s.emergencyEntered := by
  rw [emergencyBegin_next hl hdue, h]
  rfl

/-- A THERMAL_TRIP that joins turns every switched domain off and leaves the device WEDGED (14 R386). -/
theorem emergencyBegin_trips (hnew : s.pwr.due.getLsbD 4 = true) (hold : s.pwr.causes.getLsbD 4 = false) :
    ∃ s', exec .emergencyBegin s = .next s' ∧ s'.dev.state = .wedged ∧ (∀ d < 56, s'.domOn d = false) ∧
      s'.pwr.causes = s.pwr.causes ||| s.pwr.due := by
  have htrip : ((s.pwr.causes ||| s.pwr.due).getLsbD 4 && !s.pwr.causes.getLsbD 4) = true := by rw [BitVec.getLsbD_or, hnew, hold]; rfl
  have hoff (d : Nat) (hd : d < 56) := s.emergencyEntered.allOff_domOn hd
  obtain ⟨hcauses, hstate⟩ := s.emergencyEntered.allOff_kept
  obtain ⟨hentered, hbefore⟩ := s.emergencyEntered_kept
  rw [hentered] at hcauses
  rw [hbefore] at hstate
  rw [emergencyBegin_next hl hdue, if_pos htrip]
  generalize s.emergencyEntered.allOff = x at hoff hcauses hstate
  split
  · next hw => exact ⟨x, rfl, hstate.trans hw, hoff, hcauses⟩
  · have hview := x.wedge_powerView noneField 0
    exact ⟨_, rfl, congrArg PowerView.devState hview, fun d hd => (congrArg (fun v : PowerView => SMap.get falseAt v.domOn d) hview).trans (hoff d hd),
      (congrArg PowerView.causes hview).trans hcauses⟩

end

end

/-! ### The obligation -/

/-- Settles O22: a sample and a beginning each rewrite the power state alone, but for the event, and a THERMAL_TRIP turns domain after domain off. -/
theorem emergencyIsSensedAndBegins : Obligations.EmergencyIsSensedAndBegins := by
  unfold Obligations.EmergencyIsSensedAndBegins
  refine ⟨fun s v ha hn => ⟨_, emergencySample_next v ha hn, rfl, rfl, rfl, rfl, rfl, rfl, rfl, rfl, rfl, rfl⟩,
    fun s hl hdue => ⟨emergencyBegin_trips hl hdue, ?begins⟩⟩
  case begins =>
    rintro hun m _ hm rfl
    have hnext := emergencyBegin_untripped hl hdue hun
    refine ⟨fun hr => ?_, fun hr => ?_⟩
    · rw [hnext, s.emergencyEntered_starts hm hr, hm]; rfl
    · rw [hnext, s.emergencyEntered_joins hm hr, hm]; rfl

end Sys2Proof.Machine

end

section

/-! The Mulch tick and the energy integration (14 R376 to R382). -/

namespace Sys2Proof.Machine

/-! ### The step of CORE_CLK that a tick requests (14 R377) -/

/-- s' is s with, at most, a change of CORE_CLK by 50 MHz requested or begun. -/
def State.clkMoved (s s' : State) : Prop :=
  s' = { s with pwr := { s.pwr with clkReq := s'.pwr.clkReq, clkStep := s'.pwr.clkStep } } ∧
  (∀ m, s'.pwr.clkReq = some m → s.pwr.clkReq = some m ∨ m = s.clk.coreMHz + 50 ∨ m + 50 = s.clk.coreMHz) ∧
  (∀ m t0, s'.pwr.clkStep = some (m, t0) → s.pwr.clkStep = some (m, t0) ∨ m = s.clk.coreMHz + 50 ∨ m + 50 = s.clk.coreMHz)

section
variable (s : State)

theorem State.clkStepTo_adjacent {up : Bool} {m : Nat} (h : s.clkStepTo up = some m) : m = s.clk.coreMHz + 50 ∨ m + 50 = s.clk.coreMHz := by
  unfold State.clkStepTo at h
  dsimp only at h
  repeat' split at h
  all_goals cases h
  all_goals omega

theorem State.requestClk_clkMoved {m : Nat} (hm : m = s.clk.coreMHz + 50 ∨ m + 50 = s.clk.coreMHz) : s.clkMoved (s.requestClk m) := by
  unfold State.requestClk
  split
  · refine ⟨rfl, ?_, ?_⟩
    · intro _ h; cases h
    · intro _ _ h; cases h; exact .inr hm
  · refine ⟨rfl, ?_, fun _ _ => .inl⟩
    intro _ h; cases h; exact .inr hm

theorem State.clkMoved_refl : s.clkMoved s := ⟨rfl, fun _ => .inl, fun _ _ => .inl⟩

/-- s with a step of CORE_CLK up or down requested where there is one. -/
def State.wantClk (s : State) (up : Bool) : State := match s.clkStepTo up with | some m => s.requestClk m | none => s

theorem State.wantClk_clkMoved (up : Bool) : s.clkMoved (s.wantClk up) := by
  unfold State.wantClk
  split
  · next hm => exact s.requestClk_clkMoved (s.clkStepTo_adjacent hm)
  · exact s.clkMoved_refl

theorem State.tickClk_eq (k : Tick) : s.tickClk k =
    if k.u < k.load then s.wantClk false
    else if k.load + s.pwr.diePower * 50 / (s.clk.coreMHz : Rat) ≤ k.u then s.wantClk true
    else if s.clk.coreMHz < 50 * s.pwr.minStep then s.wantClk true else s := rfl

theorem State.tickClk_clkMoved (k : Tick) : s.clkMoved (s.tickClk k) := by
  rw [State.tickClk_eq]
  split
  · exact s.wantClk_clkMoved false
  · split
    · exact s.wantClk_clkMoved true
    · split
      · exact s.wantClk_clkMoved true
      · exact s.clkMoved_refl

/-! ### W and the allowance A (14 R376) -/

theorem State.holdLoad_le (room : Rat) : s.holdLoad room ≤ 720 := by
  unfold State.holdLoad
  split
  · norm_num
  · exact (min_le_right _ _).trans (min_le_left _ _)

theorem State.tickWarm_le (k : Tick) : s.tickWarm k ≤ 720 := by
  unfold State.tickWarm
  split
  · exact max_le ((min_le_left _ _).trans (min_le_right _ _)) (s.holdLoad_le _)
  · norm_num

theorem Power.ramp_nonneg (p : Power) : 0 ≤ p.ramp := by unfold Power.ramp; positivity

theorem clamp_within_ramp (x a : Rat) {r : Rat} (hr : 0 ≤ r) : min (max x (a - r)) (a + r) ≤ a + r ∧ a - r ≤ min (max x (a - r)) (a + r) :=
  ⟨min_le_right _ _, le_min (le_max_right _ _) (by linarith)⟩

/-! ### The tick -/

theorem State.judgeHold_eq : ∃ h, s.judgeHold = { s with shadow := h } := by
  unfold State.judgeHold
  split
  · exact ⟨_, rfl⟩
  · exact ⟨_, rfl⟩

/-- The power state p after a tick on the readings of a state. -/
def Power.ticked (p : Power) (s : State) : Power :=
  let k := s.pwr.tick
  let w := s.tickWarm k
  { p with
    warmW := w, allowA := min (max (k.load + w) (k.a - s.pwr.ramp)) (k.a + s.pwr.ramp), setAToPe := false, pLag := some k.lag, cap := k.cap
    pTh := s.pwr.pThNow, pE := s.pwr.pENow, derating := decide (k.cap < s.pwr.capW), floorShort := decide (w < k.l - k.load)
    rampOverMs := (p.rampOverMs + bit (k.u < k.load + w)) % 2 ^ 32, floorShortMs := (p.floorShortMs + bit (w < k.l - k.load)) % 2 ^ 32
    tickTime := s.now, nextTick := (s.now / 1000000 + 1) * 1000000 }

variable {s} in
/-- A tick changes the power state, and beside it only the temperature that a shadow run holds and the draw of its load. -/
theorem mulchTick_next {v : SensorVals} (hl : s.live = true) (hf : s.fwpUp fwpPwr = true) (hn : s.pwr.nextTick ≤ s.now) {s1 : State}
    (h1 : s1 = s.sense v) :
    ∃ s', exec (.mulchTick v) s = .next s' ∧ s' = { s with pwr := s'.pwr, shadow := s'.shadow, freeCtr := s'.freeCtr } ∧
      s'.pwr = { (s1.tickClk s1.pwr.tick).pwr.ticked s1 with domIdle := s'.pwr.domIdle } := by
  have hnext : exec (.mulchTick v) s = .next (
      let x := ((s1.tickClk s1.pwr.tick).modPwr fun p => p.ticked s1).judgeHold.noteLive
      if s1.holding371.isSome then x.drawn else x) := by
    subst h1
    exact onEvent_next (by simp [hl, hf, hn])
  refine ⟨_, hnext, ?_⟩
  obtain ⟨hclk, -, -⟩ := s1.tickClk_clkMoved s1.pwr.tick
  generalize s1.tickClk s1.pwr.tick = y at hclk ⊢
  obtain ⟨p, hp, hticked⟩ : ∃ p, p = y.pwr.ticked s1 ∧ y.modPwr (fun p => p.ticked s1) = { s with pwr := p } := by
    refine ⟨_, rfl, ?_⟩
    rw [hclk, h1]
    rfl
  obtain ⟨h, hjudged⟩ := (y.modPwr fun p => p.ticked s1).judgeHold_eq
  rw [hjudged, hticked, ← hp]
  split
  · exact ⟨rfl, rfl⟩
  · exact ⟨rfl, rfl⟩

/-! ### The energy integration (14 R382) -/

variable {s} in
theorem energyIntegration_next (v : SensorVals) (hl : s.live = true) (hn : s.pwr.nextInt ≤ s.now) :
    exec (.energyIntegration v) s = .next ((s.rollWindow.sense v).modPwr fun p => { p with
      heat := p.heat + p.pThNow, elec := p.elec + p.pENow, warmE := p.warmE + p.warmW, winSum := p.winSum + p.pThNow, winN := p.winN + 1,
      nextInt := (s.now / 1000000 + 1) * 1000000 }) :=
  onEvent_next (by simp [hl, hn])

end

/-! ### The obligation -/

/-- Settles O24: a tick clamps W and A and moves CORE_CLK by one step at most, and the integration adds to the power state alone. -/
theorem mulchTicksAndIntegrates : Obligations.MulchTicksAndIntegrates := by
  unfold Obligations.MulchTicksAndIntegrates
  refine fun s v hl => ⟨fun hf hn => ?tick, energyIntegration_next v hl⟩
  obtain ⟨s', hnext, hframe, hpwr⟩ := mulchTick_next hl hf hn (v := v) rfl
  obtain ⟨hmoved, hreq, hstep⟩ := (s.sense v).tickClk_clkMoved (s.sense v).pwr.tick
  obtain ⟨hhigh, hlow⟩ := clamp_within_ramp ((s.sense v).pwr.tick.load + (s.sense v).tickWarm (s.sense v).pwr.tick) (s.sense v).pwr.tick.a
    (s.sense v).pwr.ramp_nonneg
  refine ⟨s', hnext, ?_⟩
  generalize (s.sense v).tickClk (s.sense v).pwr.tick = y at hpwr hmoved hreq hstep
  have hrung : y.pwr.rung = s.pwr.rung := by rw [hmoved]; rfl
  have hcfg : y.pwr.mulchCfg = s.pwr.mulchCfg := by rw [hmoved]; rfl
  rw [hpwr]
  exact ⟨rfl, rfl, (s.sense v).tickWarm_le _, hhigh, hlow, by rw [hframe], hreq, hstep, rfl, rfl, rfl, hrung, hcfg, by rw [hframe],
    by rw [hframe], by rw [hframe]⟩

end Sys2Proof.Machine

end

section

/-! The power commands (14 R375, R381, R383, R388): PWR_POLICY, PWR_FLOOR and HEAT_REPORT. -/

namespace Sys2Proof.Machine

section
variable {s : State} {c : Nat} {k : Cmd}

/-! ### PWR_POLICY (14 R375, R388) -/

/-- PWR_POLICY refuses a record: its MULCH_CFG or its mask is out of range, or a domain to be kept off holds live state. -/
def State.policyBad (s : State) (cfg keep : Nat) : Prop :=
  mulchOk cfg = false ∨ 2 ^ 56 ≤ keep ∨ ∃ d < 56, keep / 2 ^ d % 2 = 1 ∧ s.domLive d = true

theorem State.policyBad_iff {cfg keep : Nat} : s.policyBad cfg keep ↔
    (!mulchOk cfg || decide (2 ^ 56 ≤ keep) || (List.range 56).any fun d => keep / 2 ^ d % 2 == 1 && s.domLive d) = true := by
  simp only [State.policyBad, Bool.or_eq_true, Bool.not_eq_true', decide_eq_true_eq, List.any_eq_true, List.mem_range, Bool.and_eq_true, beq_iff_eq,
    or_assoc]

section
variable (h : s.carries 0x0901 c k)
include h

theorem pwrPolicy_badParam (hb : s.policyBad (fieldAt k.params 0 8) (fieldAt k.params 8 8)) :
    exec (.pwrPolicy c) s = .next ((s.take c).finish c stBadParam) := by
  show execPwrPolicy c s = _
  rw [execPwrPolicy, runCmd_next h]
  exact congrArg _ (if_pos (State.policyBad_iff.1 hb))

theorem pwrPolicy_next {cfg keep : Nat} (hcfg : cfg = fieldAt k.params 0 8) (hkeep : keep = fieldAt k.params 8 8) (hb : ¬ s.policyBad cfg keep) :
    exec (.pwrPolicy c) s = .next ((((((List.range 56).filter fun d => keep / 2 ^ d % 2 == 1 && s.domOn d).foldl State.beginOff
      ((s.take c).modPwr fun p => { p with mulchCfg := BitVec.ofNat 64 cfg, keepOff := BitVec.ofNat 64 keep })).requestDomains
      ((List.range 56).filter fun d => keep / 2 ^ d % 2 == 0 && s.pwr.keepOff.getLsbD d)).finish c stOk)) := by
  subst hcfg hkeep
  show execPwrPolicy c s = _
  rw [execPwrPolicy, runCmd_next h]
  exact congrArg _ (if_neg (mt State.policyBad_iff.2 hb))

end

/-! ### PWR_FLOOR (14 R381) -/

/-- PWR_FLOOR refuses a record: the floor is out of range, or a reserved field is not 0. -/
def floorBad (q : List Byte) : Prop := (0 < fieldAt q 0 2 ∧ fieldAt q 0 2 < 100) ∨ 2400 < fieldAt q 0 2 ∨ fieldAt q 2 2 ≠ 0

section
variable (h : s.carries 0x0902 c k)
include h

theorem pwrFloor_badParam (hb : floorBad k.params) : exec (.pwrFloor c) s = .next ((s.take c).finish c stBadParam) := by
  show execPwrFloor c s = _
  rw [execPwrFloor, runCmd_next h]
  refine congrArg _ (if_pos ?_)
  simp only [Bool.or_eq_true, Bool.and_eq_true, decide_eq_true_eq, or_assoc]
  exact hb

theorem pwrFloor_next (hb : ¬ floorBad k.params) : exec (.pwrFloor c) s = .next (((s.take c).modPwr fun p =>
    { p with floorW := fieldAt k.params 0 2 }).finish c stOk [s.warmAvail.floor.toNat]) := by
  show execPwrFloor c s = _
  rw [execPwrFloor, runCmd_next h]
  refine congrArg _ (if_neg ?_)
  simp only [Bool.or_eq_true, Bool.and_eq_true, decide_eq_true_eq, or_assoc]
  exact hb

end

/-! ### HEAT_REPORT (14 R383) -/

theorem heatReport_reported (h : s.carries 0x0903 c k) (ht : k.takes (s.take c).rollWindow.heatReport.length) :
    exec (.heatReport c) s = .next (s.rollWindow.reported k [] (s.take c).rollWindow.heatReport).drawn := by
  show execHeatReport c s = _
  rw [execHeatReport, runCmd_next h, ← State.finishData_reported (State.rollWindow_carries h) [] ht, State.rollWindow_take]

end

/-! ### The obligation -/

/-- Settles O25: each record is refused by its command's own checks, and else written. -/
theorem powerCommandsTakeEffect : Obligations.PowerCommandsTakeEffect := by
  unfold Obligations.PowerCommandsTakeEffect
  rintro s c cfg keep f k off again hcfg hkeep rfl rfl rfl
  refine ⟨fun h hok hrange hlive => pwrPolicy_next h hcfg hkeep ?_, fun h hb => pwrPolicy_badParam h (hcfg ▸ hkeep ▸ hb),
    fun h hf hz => pwrFloor_next h ?_, pwrFloor_badParam, heatReport_reported⟩
  · rintro (hbad | hbad | ⟨d, hd, hon, hbad⟩)
    · exact Bool.false_ne_true (hbad.symm.trans hok)
    · exact absurd hrange (Nat.not_lt.2 hbad)
    · exact Bool.false_ne_true ((hlive d hd hon).symm.trans hbad)
  · unfold floorBad
    omega

end Sys2Proof.Machine

end

section

/-! Switched domains, power-up and power-down (14 R374, R375; 15 R391, R392). -/

namespace Sys2Proof.Machine

/-! ### Switched domains (14 R374, R375; 15 R392) -/

/-- s with domain d on and its request met, the ports that it alone held freed. -/
def State.domainUp (s : State) (d : Nat) : State :=
  (domPorts d).foldl State.freePower (s.modPwr fun p => { p with
    domOn := SMap.set falseAt d true p.domOn, domReq := SMap.set domReqAt d none p.domReq, domIdle := SMap.set zeroAt d s.t3 p.domIdle })

section
variable {s : State} {d : Nat} (hl : s.live = true) (hd : d < 56)
include hl hd

section
variable (hw : s.domWanted d = true) (hb : s.domBehind d = false)
include hw hb

theorem domainPowerOnDone_next : exec (.domainPowerOnDone d) s = .next (
    if d = 42 || d = 43 then (s.domainUp d).modCxl (d - 42) fun x => { x with clearAt := s.now }
    else if 44 ≤ d && d < 48 then
      [0, 1, 2, 3].foldl (fun s k => s.sbServe (4 * k + (d - 44))) ((List.range 6).foldl (fun s j => s.passFromNow (6 * (d - 44) + j)) (s.domainUp d))
    else s.domainUp d) :=
  onUnit_if_pos (decide_eq_true hd) hl (by rw [hw, hb]; rfl)

theorem domainPowerOnDone_plain (hp : d < 42 ∨ 48 ≤ d) : exec (.domainPowerOnDone d) s = .next (s.domainUp d) := by
  rw [domainPowerOnDone_next hl hd hw hb, if_neg (by simp; omega), if_neg (by simp; omega)]

/-- A CXL port's reset may end a millisecond later (15 R392). -/
theorem domainPowerOnDone_cxl (hp : d = 42 ∨ d = 43) :
    exec (.domainPowerOnDone d) s = .next ((s.domainUp d).modCxl (d - 42) fun x => { x with clearAt := s.now }) := by
  rw [domainPowerOnDone_next hl hd hw hb, if_pos (by simpa using hp)]

/-- A GDDR7 group begins its first pass of scrub and serves its lists. -/
theorem domainPowerOnDone_gddr (hlo : 44 ≤ d) (hhi : d < 48) : exec (.domainPowerOnDone d) s = .next (
    [0, 1, 2, 3].foldl (fun s k => s.sbServe (4 * k + (d - 44))) ((List.range 6).foldl (fun s j => s.passFromNow (6 * (d - 44) + j)) (s.domainUp d))) := by
  rw [domainPowerOnDone_next hl hd hw hb, if_neg (by simp; omega), if_pos (by simp [hlo, hhi])]

end

theorem domainPowerOffDone_next : exec (.domainPowerOffDone d) s = .next (s.modPwr fun p => { p with domOff := SMap.set noneAt d none p.domOff }) := by
  have hrun : s.pwr.phase = .running := of_decide_eq_true hl
  refine (if_neg (Nat.not_le.2 hd)).trans (onEvent_next ?_)
  simp [hrun]

theorem domainIdleExpiry_next (hauto : s.pwr.mulchCfg.getLsbD 40 = true) (hf : s.fwpUp fwpPwr = true) (hon : s.domOn d = true)
    (hidle : s.domLive d = false) (hlate : SMap.get zeroAt s.pwr.domIdle d + msec 1001 ≤ s.t3) :
    exec (.domainIdleExpiry d) s = .next (s.beginOff d) :=
  onUnit_if_pos (decide_eq_true hd) hl (by simp [hauto, hf, hon, hidle, State.after, hlate])

end

/-! ### Power-up and power-down (15 R391, R392) -/

section
variable {s : State}

theorem inputPowerUp_next {a b : Nat} (hp : s.pwr.phase = .off) (ha : 5700 ≤ a) (hb : 5700 ≤ b) :
    exec (.inputPowerUp [a, b]) s = .next { s with pwr := { s.pwr with phase := .converters } } :=
  onEvent_next (by simp [hp, ha, hb])

theorem vaonInRegulation_next (hp : s.pwr.phase = .converters) : exec .vaonInRegulation s =
    .next { s with clk := {}, pwr := { s.pwr with phase := .held, readySince := some 0, pwrOk := false, modRstN := false } } :=
  onEvent_next (decide_eq_true hp)

theorem powerDown_next (hp : s.pwr.phase ≠ .off) :
    exec .powerDown s = .next ((s.unpowered .off).modPwr fun p => { p with pwrOk := false, modRstN := false }) :=
  onEvent_next (decide_eq_true hp)

/-- A state that lost its power keeps the part, the isolation store and the queue. -/
theorem State.unpowered_kept (s : State) (phase : PowerPhase) : (s.unpowered phase).pwr.phase = phase ∧ (s.unpowered phase).part = s.part ∧
    (s.unpowered phase).isolation = s.isolation ∧ (s.unpowered phase).pending = s.pending := by
  rw [State.unpowered, State.cold, State.eq_of_besidePorts (State.coldPorts_besidePorts _)]
  exact ⟨rfl, rfl, rfl, rfl⟩

theorem coldResetRelease_next (board : Nat) {t : Nat} (hp : s.pwr.phase = .held) (hr : s.pwr.readySince = some t) (ht : t + msec 10 ≤ s.t3) :
    exec (.coldResetRelease board) s = .next ({ (s.modPwr fun p => { p with
        phase := .running, readySince := none, pwrOk := true, modRstN := true, nextSample := 0, insideSince := p.insideSince.map fun _ => 0 })
      with clk := {} }.modDev fun d =>
        { d with boardId := BitVec.ofNat 6 board, fabrefOk := true, pcieUp := d.perstN && pcieTrains d.pcieWidth d.pcieGen, mgNext := 0 }) := by
  refine (onEvent_next (by simp [hp, hr, State.after, ht])).trans ?_
  simp only [State.modPwr]
  cases s.pwr.insideSince <;> rfl

end

/-! ### The obligation -/

/-- Settles O26: each row of a domain or of the power-up does its own step where the phase or the request calls for it. -/
theorem domainsAndPowerTurnOnAndOff : Obligations.DomainsAndPowerTurnOnAndOff := by
  unfold Obligations.DomainsAndPowerTurnOnAndOff
  refine ⟨fun s d hl hd => ⟨?on, domainPowerOffDone_next hl hd, domainIdleExpiry_next hl hd⟩,
    fun s => ⟨fun a b => inputPowerUp_next, vaonInRegulation_next, fun hp => ?down, fun board t hp hr ht => ?release⟩⟩
  case on =>
    rintro hw hb _ rfl
    exact ⟨domainPowerOnDone_plain hl hd hw hb, domainPowerOnDone_cxl hl hd hw hb, domainPowerOnDone_gddr hl hd hw hb⟩
  case down =>
    have hnext := powerDown_next hp
    obtain ⟨hphase, hpart, hiso, hpending⟩ := s.unpowered_kept .off
    generalize s.unpowered .off = x at hnext hphase hpart hiso hpending
    exact ⟨_, hnext, hphase, rfl, hpart, hiso, hpending⟩
  case release => exact ⟨_, coldResetRelease_next board hp hr ht, rfl, by simp [State.now], rfl, rfl, rfl, rfl⟩

end Sys2Proof.Machine

end

section

/-! The management port and the TAP (15 R398 to R400). -/

namespace Sys2Proof.Machine

/-! ### Free bytes (log 6) -/

theorem State.freeBytes_length (s : State) (n : Nat) : (s.freeBytes n).1.length = n := by
  induction n generalizing s with
  | zero => rfl
  | succ n ih => exact congrArg (· + 1) (ih s.drawn)

/-- Free bytes cost their draws and nothing else. -/
theorem State.freeBytes_state (s : State) (n : Nat) : (s.freeBytes n).2 = { s with freeCtr := s.freeCtr + n } := by
  induction n generalizing s with
  | zero => rfl
  | succ n ih =>
    refine (ih s.drawn).trans ?_
    simp only [State.drawn, Nat.add_assoc, Nat.add_comm 1 n]

section
variable {s : State} (ha : s.pwr.alive = true)
include ha

/-! ### The status block (15 R398) -/

theorem mgmtBlockRefresh_next (hn : s.dev.mgNext ≤ s.aonNs) : exec .mgmtBlockRefresh s =
    .next (s.modDev fun d => { d with mgBlock := s.mgmtBlock, mgNext := (s.aonNs / 1000000 + 1) * 1000000 }).drawn :=
  onEvent_next (by simp [ha, hn])

/-- A read chooses the target's protocol where none is chosen yet, and is answered or not. -/
theorem mgmtStatusRead_next (cmd len : Nat) : ∃ b tail, tail.length = len - 64 ∧ exec (.mgmtStatusRead cmd len) s = .next
    { s with
      dev := { s.dev with
        mgProto := some b
        mgOut := if cmd = 0 then some ((if s.dev.mgBlock = [] then s.mgmtBlock else s.dev.mgBlock).take len ++ tail) else none }
      freeCtr := s.freeCtr + 1 + (len - 64) } := by
  refine ⟨s.dev.mgProto.getD (s.freeNat % 2 == 1), _,
    State.freeBytes_length (s.modDev fun d => { d with mgProto := some (d.mgProto.getD (s.freeNat % 2 == 1)) }).drawn (len - 64), ?_⟩
  refine (onEvent_next ha).trans (congrArg _ ?_)
  simp only [State.freeBytes_state, List.isEmpty_iff, State.modDev, State.drawn]
  cases s.dev.mgProto <;> rfl

/-! ### I3C and the TAP (15 R398, R399) -/

theorem i3cDynamicAddressAssign_next {addr : Nat} (haddr : addr < 128) (hp : s.dev.mgProto ≠ some false) :
    exec (.i3cDynamicAddressAssign addr) s = .next (s.modDev fun d => { d with mgProto := some true, mgAddr := addr }) :=
  onEvent_next (by simp [ha, haddr, hp])

theorem tapInstruction_next (inst : TapInst) : exec (.tapInstruction inst) s = .next (s.modDev fun d => { d with tapInst := inst }) := onEvent_next ha

end

/-! ### The obligation -/

/-- Settles O28: a read is answered from the block of the last millisecond, and each other row writes its own registers. -/
theorem managementPortAnswers : Obligations.ManagementPortAnswers := by
  unfold Obligations.ManagementPortAnswers
  refine fun s ha => ⟨mgmtBlockRefresh_next ha, fun len => ?read, fun cmd len hc => ?other, fun addr => i3cDynamicAddressAssign_next ha,
    tapInstruction_next ha⟩
  case read =>
    obtain ⟨b, tail, hlen, hnext⟩ := mgmtStatusRead_next ha 0 len
    exact ⟨_, tail, hnext, hlen, rfl, rfl, nofun⟩
  case other =>
    obtain ⟨b, tail, -, hnext⟩ := mgmtStatusRead_next ha cmd len
    exact ⟨_, hnext, if_neg hc⟩

end Sys2Proof.Machine

end

section

/-! What a reset leaves of its Tiller (13 R349, R350): its engines are cleared, and its context and the reset's own record are kept. -/

namespace Sys2Proof.Machine

/-! ### What is seen of a Tiller in its reset -/

/-- What the end of a reset depends on. -/
structure ResetView where
  /-- the reset in progress -/
  reset : Option ResetInfo
  /-- the context -/
  ctx : Option Nat
  /-- the scalar registers -/
  regs : SMap Word
  /-- the hazard checker -/
  checker : List Entry
  /-- the return stack -/
  rstack : List Nat

/-- What a Tiller holds of it. -/
def Tiller.resetView (T : Tiller) : ResetView := ⟨T.reset, T.ctx, T.regs, T.checker, T.rstack⟩

section
variable (s : State) (t : Nat)

/-! ### The engines (13 R349) -/

theorem State.resetEngine_tl (e : Nat) : (s.resetEngine t e).tl t = (s.tl t).clearEngine e s.clk.core := by
  unfold State.resetEngine
  dsimp only
  split
  · rw [State.modT_tl', if_pos rfl]; rfl
  · rw [State.modT_tl', if_pos rfl]

theorem State.resetEngine_core (e : Nat) : (s.resetEngine t e).clk.core = s.clk.core := by
  unfold State.resetEngine
  dsimp only
  split <;> rfl

theorem State.foldl_resetEngine_tl (l : List Nat) :
    (l.foldl (fun s e => s.resetEngine t e) s).tl t = l.foldl (fun T e => T.clearEngine e s.clk.core) (s.tl t) := by
  induction l generalizing s with
  | nil => rfl
  | cons e l ih => rw [List.foldl_cons, ih, State.resetEngine_tl, State.resetEngine_core]; rfl

theorem Tiller.clearEngine_zero (T : Tiller) (core : Nat) :
    { (T.clearEngine 0 core).resetView with checker := [] } = ⟨T.reset, T.ctx, [], [], []⟩ := rfl

/-- Beside the checker, an engine other than the control core holds nothing of what is seen. -/
theorem Tiller.clearEngine_pos (T : Tiller) (core : Nat) {e : Nat} (he : e ≠ 0) :
    { (T.clearEngine e core).resetView with checker := [] } = { T.resetView with checker := [] } := by
  unfold Tiller.clearEngine
  dsimp only
  split
  · exact absurd rfl he
  · rfl
  · rfl
  · rfl

/-- With all six engines cleared the registers and the return stack are empty. -/
theorem Tiller.clearAll_resetView (T : Tiller) (core : Nat) :
    { ([0, 1, 2, 3, 4, 5].foldl (fun T e => T.clearEngine e core) T).resetView with checker := [] } = ⟨T.reset, T.ctx, [], [], []⟩ := by
  simp only [List.foldl_cons, List.foldl_nil]
  rw [Tiller.clearEngine_pos _ core (e := 5) (by decide), Tiller.clearEngine_pos _ core (e := 4) (by decide),
    Tiller.clearEngine_pos _ core (e := 3) (by decide), Tiller.clearEngine_pos _ core (e := 2) (by decide),
    Tiller.clearEngine_pos _ core (e := 1) (by decide), Tiller.clearEngine_zero]

/-! ### The Tiller (13 R350) -/

theorem State.loseCommits_tl : (s.loseCommits t).tl t = s.tl t := by
  exact foldl_keeps (fun x : State => x.tl t) (fun x l => x.modSlot_tl' l _ t) _ s

theorem State.dropRecvQ_resetView : ((s.dropRecvQ t).tl t).resetView = (s.tl t).resetView := by
  have hdropped := State.tl_of_dutyView (foldl_keeps State.dutyView (fun x p => x.dropPkt_dutyView p 37 dropCongestion) (s.tl t).recvQ s) t
  unfold State.dropRecvQ
  rw [State.modT_tl', if_pos rfl, hdropped]
  rfl

theorem State.loseResults_dutyView : (s.loseResults t).dutyView = s.dutyView := by
  unfold State.loseResults
  split
  · rfl
  · exact foldl_keeps State.dutyView (fun x _ => x.count_dutyView _ _) _ s

/-- A Tiller reset empties registers, checker and return stack, and keeps the context and the reset in progress. -/
theorem State.resetTiller_resetView (reload : Bool) : ((s.resetTiller t reload).tl t).resetView = ⟨(s.tl t).reset, (s.tl t).ctx, [], [], []⟩ := by
  have hcleared := (s.tl t).clearAll_resetView (s.loseCommits t).clk.core
  rw [← s.loseCommits_tl t, ← State.foldl_resetEngine_tl] at hcleared
  unfold State.resetTiller
  dsimp only
  generalize [0, 1, 2, 3, 4, 5].foldl (fun s e => s.resetEngine t e) (s.loseCommits t) = x at hcleared ⊢
  have hkept : (((x.dropRecvQ t).loseResults t).tl t).resetView = (x.tl t).resetView := by
    rw [State.tl_of_dutyView (State.loseResults_dutyView _ t), State.dropRecvQ_resetView]
  rw [State.modT_tl', if_pos rfl]
  rw [← hkept, s.loseCommits_tl] at hcleared
  exact hcleared

theorem State.dropStoreWork_dutyView : (s.dropStoreWork t).dutyView = s.dutyView := by
  unfold State.dropStoreWork
  split
  · dsimp only
    rw [State.modPfx_dutyView]
    refine foldl_keeps State.dutyView (fun x p => ?_) _ s
    split <;> simp
  · rfl

/-- The record and the notice of a Tiller reset are bookkeeping. -/
theorem State.resetTiller_recorded_dutyView (a : ARec) (reason : Nat) (ctx : Option Nat) :
    ((((s.resetTiller t true).dropStoreWork t).almQueue a).faultNotice 1 reason ctx).dutyView = (s.resetTiller t true).dutyView := by
  rw [State.faultNotice_dutyView, State.almQueue_dutyView, State.dropStoreWork_dutyView]

/-! ### Packets sent for a lane that is out of its reset (05 R153) -/

theorem State.slotSend_resetView (l dest : Nat) (c : CPrefix) (data : List Byte) :
    ((s.slotSend l dest c data).tl t).resetView = (s.tl t).resetView := by
  unfold State.slotSend
  dsimp only
  split
  · rfl
  · rw [State.modT_tl']
    split
    · next ht => rw [ht]; rfl
    · rfl

theorem State.endReset_resetView (r : ResetInfo) : ((s.endReset t r true).tl t).resetView =
    { (s.tl t).resetView with reset := some { r with engines := [], start := none, restart := true } } := by
  unfold State.endReset
  rw [if_pos rfl, State.modT_tl', if_pos rfl]
  rfl

theorem State.sendReplays_resetView : ((s.sendReplays t).tl t).resetView = (s.tl t).resetView := by
  have hsent (x : State) (l : Nat) (c : CPrefix) (dests : List Nat) : ((x.slotSendAll l c dests).tl t).resetView = (x.tl t).resetView :=
    foldl_keeps (fun x : State => (x.tl t).resetView) (fun x _ => x.slotSend_resetView t _ _ _ _) dests x
  refine foldl_keeps (fun x : State => (x.tl t).resetView) (fun x l => ?_) _ s
  dsimp only
  split
  · rfl
  · rw [State.modSlot_tl']
    exact foldl_keeps (fun x : State => (x.tl t).resetView) (fun x q => hsent x _ _ _) _ x

end

end Sys2Proof.Machine

end

section

/-! The resets of Tillers (13 R344 to R354): the watchdog, the sample, the resets and their overruns, and the restart. -/

namespace Sys2Proof.Machine

section
variable {s : State} {t : Nat} (ht : t < 192) (hl : s.live = true)
include ht hl

/-! ### The watchdog (13 R344 to R347) -/

section
variable {e : Nat} (hon : s.dev.wdogCfg.getLsbD 24 = true) (hw : s.watched t e = true)
  (hlate : s.after ((s.tl t).lastProgress e + (s.tl t).skipped e) (usec (s.dev.wdogCfg.toNat % 65536)) = true)
include hon hw hlate

theorem tillerWatchdogFire_next (he : e < 6) : exec (.tillerWatchdogFire t e) s = .next (
    if e = 0 then s.faultReset t faultWatchdog 0 (s.watchdogDetail t 0 0)
    else (s.faultReset t faultWatchdog e (s.watchdogDetail t e s.freeNat)).drawn) :=
  onUnit_if_pos (by simp [ht, he]) hl (by simp [hon, hw, hlate])

end

/-! ### The sample (13 R348) -/

omit ht hl in
theorem State.samplePayload_length : (s.samplePayload t).length = 18432 := by
  have hlines (l : List Nat) (f : Nat → List Byte) (hf : ∀ k, (f k).length = 256) : (l.map f).flatten.length = 256 * l.length := by
    induction l with
    | nil => rfl
    | cons k l ih => rw [List.map_cons, List.flatten_cons, List.length_append, ih, hf, List.length_cons]; omega
  unfold State.samplePayload State.sampleState
  dsimp only
  rw [List.length_append, padTo_length, hlines, List.length_range]
  intro k
  split
  · exact List.length_replicate
  · exact Memory.read_length _ _ _

/-- The record of a sample (13 R348, R369). -/
def State.sampleRec (s : State) (t : Nat) (r : ResetInfo) : ARec :=
  { type := 2, fault := r.cause, ctx := (s.tl t).ctxField, unit := t, engine := r.engines.headD 0xFF, signature := s.sigOf (s.tl t),
    detail := detail (toLE 4 (r.faultSeq.getD noneField)), payload := s.samplePayload t }

theorem sampleComplete_next {r : ResetInfo} (hr : (s.tl t).reset = some r) (hs : r.sample = true) :
    exec (.sampleComplete t) s = .next (((s.almHw (s.sampleRec t r)).modT t fun T =>
      { T with reset := some { r with sample := false, sampleSeq := some s.nextSeq, start := some s.t3 } }).drawn) := by
  refine (onUnit_next (decide_eq_true ht) hl).trans (congrArg _ ?_)
  rw [hr]
  exact if_neg (by simp [hs])

/-! ### The reset of engines (13 R349, R351, R352) -/

section
variable {r : ResetInfo} {t0 : Nat} (hr : (s.tl t).reset = some r) (h0 : r.start = some t0)
include hr h0

section
variable (hne : r.engines ≠ []) (h7 : r.engines.contains 7 = false)
include hne h7

theorem engineResetOverrun_next (hlate : s.after t0 (usec 100) = true) : ∃ (x : State) (seq : Nat), exec (.engineResetOverrun t) s =
    .next (x.modT t fun T => { T with reset := some { r with engines := [7], start := some s.t3, escalated := true, recSeq := some seq } }) := by
  have hexec : exec (.engineResetOverrun t) s = execEngineResetOverrun t s := rfl
  rw [hexec, execEngineResetOverrun, onUnit_next (decide_eq_true ht) hl, hr]
  dsimp only
  rw [h0]
  dsimp only
  rw [if_neg (by rw [List.isEmpty_eq_false_iff.2 hne, h7, hlate]; decide)]
  exact ⟨_, _, rfl⟩

/-- A lane's or a service Tiller's reset goes on as a Tiller reset. -/
theorem engineResetDone_serving (hearly : s.after t0 (usec 100) = false) (hserves : s.serves t = true) (htear : s.tearing t = false) :
    ∃ (x : State) (seq : Nat),
    exec (.engineResetDone t) s =
      .next (x.modT t fun T => { T with reset := some { r with engines := [7], start := some s.t3, restart := true, recSeq := some seq } }) := by
  have hexec : exec (.engineResetDone t) s = execEngineResetDone t s := rfl
  rw [hexec, execEngineResetDone, onUnit_next (decide_eq_true ht) hl, hr]
  dsimp only
  rw [h0]
  dsimp only
  rw [if_neg (by rw [List.isEmpty_eq_false_iff.2 hne, h7, hearly]; decide), if_pos (by rw [hserves, htear]; decide)]
  exact ⟨_, _, rfl⟩

end

/-! ### The reset of a Tiller (13 R350 to R353) -/

section
variable (h7 : r.engines.contains 7 = true)
include h7

theorem tillerResetOverrun_next (hlate : s.after t0 (msec 1) = true) : exec (.tillerResetOverrun t) s = .next
    ((((s.almQueue (s.resetRec t r 4 7 noneField false)).modT t fun T => { T with reset := none }).wedge s.nextSeq r.cause).finishAll r.cmds stWedged []) := by
  refine (onUnit_next (decide_eq_true ht) hl).trans (congrArg _ ?_)
  rw [hr]
  dsimp only
  rw [h0]
  exact if_neg (by rw [h7, hlate]; decide)

section
variable (hearly : s.after t0 (msec 1) = false)
include hearly

theorem tillerResetDone_restarts (hrestart : r.restart = true) (htear : s.tearing t = false) : ∃ (x : State) (seq : Nat),
    exec (.tillerResetDone t false) s = .next ((x.endReset t { r with recSeq := some seq } true).sendReplays t) ∧
      x.dutyView = (s.resetTiller t true).dutyView := by
  have hexec : exec (.tillerResetDone t false) s = execTillerResetDone t false s := rfl
  rw [hexec, execTillerResetDone, onUnit_next (decide_eq_true ht) hl, hr]
  dsimp only
  rw [h0]
  dsimp only
  rw [if_neg (by rw [h7, hearly]; decide), if_neg Bool.false_ne_true, hrestart, htear]
  exact ⟨_, _, rfl, s.resetTiller_recorded_dutyView t _ _ _⟩

theorem tillerResetDone_bad : ∃ (x : State) (words : List Nat),
    exec (.tillerResetDone t true) s = .next ((x.modT t fun T => { T with reset := none, run := if T.ctx.isSome then .faulted else T.run }).finishAll
      r.cmds stFaulted words) ∧ x.dutyView = (s.resetTiller t true).dutyView := by
  have hevent (x : State) (y : Nat) (words : List Nat) : (x.ctxEvent y 2 stFaulted words).dutyView = x.dutyView := x.pushEvent_dutyView _
  have hexec : exec (.tillerResetDone t true) s = execTillerResetDone t true s := rfl
  rw [hexec, execTillerResetDone, onUnit_next (decide_eq_true ht) hl, hr]
  dsimp only
  rw [h0]
  dsimp only
  rw [if_neg (by rw [h7, hearly]; decide), if_pos rfl]
  refine ⟨_, _, rfl, ?_⟩
  split
  · exact (hevent _ _ _).trans (s.resetTiller_recorded_dutyView t _ _ _)
  · exact s.resetTiller_recorded_dutyView t _ _ _

end

end

end

/-! ### The restart (13 R351, R353) -/

theorem tillerRestart_next {r : ResetInfo} (hr : (s.tl t).reset = some r) (he : r.engines = []) (hrestart : r.restart = true) (hf : s.clk.core % 256 = 0) :
    exec (.tillerRestart t) s = .next (
      if s.dev.state = .wedged then (s.modT t fun T => { T with reset := none }).finishAll r.cmds stWedged []
      else ((s.startTiller t).modT t fun T => { T with reset := none }).finishAll r.cmds stOk r.words) := by
  refine (onUnit_next (decide_eq_true ht) hl).trans (congrArg _ ?_)
  rw [hr]
  exact if_neg (by simp [he, hrestart, hf])

end

/-! ### The obligation -/

theorem State.faultReset_reset (s : State) (t code e : Nat) (d : List Byte) : ((s.faultReset t code e d).tl t).reset.isSome = true := by
  unfold State.faultReset State.beginReset
  dsimp only
  rw [State.modT_tl', if_pos rfl]
  split <;> rfl

/-- Settles O55: each row reads the reset in progress, and what it leaves of it follows from what a reset leaves of its Tiller. -/
theorem tillersAreResetAndRestarted : Obligations.TillersAreResetAndRestarted := by
  unfold Obligations.TillersAreResetAndRestarted
  intro s t ht hl
  refine ⟨fun hon hw hlate => ?core, fun e hpos he hon hw hlate => ?engine, fun e cause d => s.faultReset_reset t cause e d, fun r hr hs => ?sample,
    fun r t0 hr h0 hne h7 hlate => ?overrun, fun r t0 hr h0 hne h7 hearly hserves htear => ?serving, fun r t0 hr h0 h7 hlate => ?wedged,
    fun n m => congrArg PowerView.devState (s.wedge_powerView n m), fun r t0 hr h0 h7 hearly hrestart _ htear => ?done,
    fun r t0 hr h0 h7 hearly => ?bad, fun r hr he hrestart hf => ?restart⟩
  case core => exact tillerWatchdogFire_next ht hl hon hw hlate (by decide)
  case engine => exact ⟨_, (tillerWatchdogFire_next ht hl hon hw hlate he).trans (congrArg _ (if_neg (Nat.ne_of_gt hpos)))⟩
  case sample =>
    have hreset (f : Tiller → Tiller) : (((s.almHw (s.sampleRec t r)).modT t f).drawn.tl t) = f (s.tl t) := (State.modT_tl' _ _ _ _).trans (if_pos rfl)
    refine ⟨s.sampleRec t r, _, sampleComplete_next ht hl hr hs, ?_, rfl, rfl, rfl, State.samplePayload_length, ?_⟩
    · rw [hreset]
    · rw [hreset]
  case overrun =>
    obtain ⟨x, seq, hnext⟩ := engineResetOverrun_next ht hl hr h0 hne h7 hlate
    exact ⟨_, _, hnext, by rw [State.modT_tl', if_pos rfl], rfl, rfl, rfl⟩
  case serving =>
    obtain ⟨x, seq, hnext⟩ := engineResetDone_serving ht hl hr h0 hne h7 hearly hserves htear
    exact ⟨_, _, hnext, by rw [State.modT_tl', if_pos rfl], rfl, rfl, rfl⟩
  case wedged => exact tillerResetOverrun_next ht hl hr h0 h7 hlate
  case done =>
    obtain ⟨x, seq, hnext, hx⟩ := tillerResetDone_restarts ht hl hr h0 h7 hearly hrestart htear
    have hview := (State.sendReplays_resetView _ t).trans (x.endReset_resetView t { r with recSeq := some seq })
    rw [State.tl_of_dutyView hx, State.resetTiller_resetView] at hview
    exact ⟨_, _, hnext, congrArg ResetView.reset hview, rfl, rfl, congrArg ResetView.regs hview, congrArg ResetView.checker hview,
      congrArg ResetView.rstack hview⟩
  case bad =>
    obtain ⟨x, words, hnext, hx⟩ := tillerResetDone_bad ht hl hr h0 h7 hearly
    have hview := s.resetTiller_resetView t true
    rw [← State.tl_of_dutyView hx] at hview
    have hctx : (x.tl t).ctx = (s.tl t).ctx := congrArg ResetView.ctx hview
    have htl := State.tl_of_dutyView (State.finishAll_dutyView (x.modT t fun T =>
      { T with reset := none, run := if T.ctx.isSome then .faulted else T.run }) r.cmds stFaulted words) t
    rw [State.modT_tl', if_pos rfl] at htl
    refine ⟨_, hnext, by rw [htl], fun hsome => ?_⟩
    rw [htl]
    exact if_pos (by rw [hctx]; exact Option.isSome_iff_ne_none.2 hsome)
  case restart =>
    have hnext := tillerRestart_next ht hl hr he hrestart hf
    exact ⟨fun hw => hnext.trans (congrArg _ (if_neg hw)), fun hw => hnext.trans (congrArg _ (if_pos hw))⟩

end Sys2Proof.Machine

end

section

/-! The canonical form of the memories: every command and every tick keeps it. -/

namespace Sys2Proof.Machine

theorem step_keeps_memWf {s s' : State} (hw : s.memWf) (h : step s = .next s') : s'.memWf := by
  cases hp : s.pending with
  | nil =>
    obtain ⟨-, -, -, -, htick⟩ := State.tick_sound (.refl s)
    exact step_of_no_pending hp h ▸ htick hw
  | cons c rest =>
    obtain ⟨-, -, -, hexec⟩ := exec_keptByAll (step_of_pending hp h)
    exact hexec hw

/-- Settles O9: a step runs the front command or is a tick, and both keep every byte memory canonical. -/
theorem memoriesStayCanonical : Obligations.MemoriesStayCanonical := by
  unfold Obligations.MemoriesStayCanonical
  exact fun _ _ => step_keeps_memWf

end Sys2Proof.Machine

end

section

/-! Commands that report (10 R293, R295, R296; 11 R313), the records of finished ones (10 R288), and DEV_SET_MODE (01 R36). -/

namespace Sys2Proof.Machine

section
variable {s : State} {c : Nat} {k : Cmd}

/-! ### Commands that report (10 R293) -/

/-- Data longer than out_len is not given back, and its length is (10 R293). -/
theorem State.finishData_tooLong (hid : k.id = c) (words : List Nat) {data : List Byte} (hl : fieldAt k.params 8 4 < data.length)
    (ha : k.viaPort = true ∨ fieldAt k.params 0 8 % 32 = 0) : s.finishData k words data = s.finish c stBadParam [0, 0, 0, 0, 0, data.length] := by
  subst hid
  have hlen : ¬ data.length ≤ fieldAt k.params 8 4 := Nat.not_le.2 hl
  unfold Cmd.viaPort at ha
  unfold State.finishData
  cases hsrc : k.src with
  | mgmt hdr seq => exact if_neg hlen
  | _ =>
    rw [hsrc] at ha
    have h32 : ¬ fieldAt k.params 0 8 % 32 ≠ 0 := fun h => h (ha.resolve_left Bool.false_ne_true)
    exact (if_neg h32).trans (if_neg hlen)

/-- No data is written at a misaligned out_addr (10 R293). -/
theorem State.finishData_misaligned (hid : k.id = c) (words : List Nat) (data : List Byte) (hv : k.viaPort = false)
    (ha : fieldAt k.params 0 8 % 32 ≠ 0) : s.finishData k words data = s.finish c stBadParam := by
  subst hid
  unfold Cmd.viaPort at hv
  unfold State.finishData
  cases hsrc : k.src with
  | mgmt hdr seq => rw [hsrc] at hv; cases hv
  | _ => exact if_pos ha

/-- The 64 bytes of FW_VERSION. -/
def State.versionBytes (s : State) : List Byte :=
  padTo 64 (if s.dev.fwVer.getLsbD 31 then toLE 3 s.dev.fwVer.toNat ++ [0#8] ++ padTo 32 s.dev.fwDigest ++ padTo 3 s.dev.translator else [])

theorem State.versionBytes_length (s : State) : s.versionBytes.length = 64 := padTo_length _ _

theorem State.versionBytes_eq (s : State) : s.versionBytes =
    if s.dev.fwVer.getLsbD 31 then padTo 64 (toLE 3 s.dev.fwVer.toNat ++ [0#8] ++ padTo 32 s.dev.fwDigest ++ padTo 3 s.dev.translator)
    else List.replicate 64 0#8 := by
  unfold State.versionBytes
  split <;> rfl

/-- The 1,160 bytes of DEV_STATUS. -/
def State.statusBytes (s : State) : List Byte := toLE 4 s.devState ++ [0#8, 0#8, 0#8, 0#8] ++ ((List.range 36).map s.portRecord).flatten

theorem State.portRecord_length (s : State) (p : Nat) : (s.portRecord p).length = 32 := by simp [State.portRecord]

theorem State.statusBytes_length (s : State) : s.statusBytes.length = 1160 := by
  have hports : ((List.range 36).map s.portRecord).flatten.length = 36 * 32 := by
    simp [List.length_flatten, Function.comp_def, State.portRecord_length]
  simp [State.statusBytes, hports]

theorem fwVersion_next (h : s.carries 0x0801 c k) : exec (.fwVersion c) s = .next ((s.take c).finishData k [] s.versionBytes) := by
  show execFwVersion c s = _
  rw [execFwVersion, runCmd_next h]
  rfl

theorem devStatus_next (h : s.carries 0x0102 c k) : exec (.devStatus c) s = .next ((s.take c).finishData k [] s.statusBytes) := by
  show execDevStatus c s = _
  rw [execDevStatus, runCmd_next h]
  rfl

/-! ### Commands whose processor is down (10 R295; 01 R37) -/

theorem runCmd_down {op : Nat} (hc : s.cmd? c = some k) (hl : s.live = true) (ho : k.opcode = op) (hr : s.ready k = true) (hd : s.served op = false)
    (body : Cmd → State → State) : runCmd op c s body = .next (s.finish c stRetry) := by
  simp [runCmd, hc, hl, ho, hr, hd]

/-- The commands of the firmware, each with its opcode. -/
def firmwareRows : List ((Nat → Instr) × Nat) :=
  [(Instr.devStatus, 0x0102), (Instr.devSetMode, 0x0103), (Instr.devWarmReset, 0x0104), (Instr.ctxCreate, 0x0201), (Instr.ctxStop, 0x0204),
   (Instr.ctxTeardown, 0x0205), (Instr.collSubstitute, 0x0304), (Instr.routeWrite, 0x0401), (Instr.routeRead, 0x0402), (Instr.portConfig, 0x0403),
   (Instr.portLoop, 0x0405), (Instr.shaperConfig, 0x0502), (Instr.policerConfig, 0x0503), (Instr.telWindow, 0x0702), (Instr.almanacRead, 0x0703),
   (Instr.fwActivate, 0x0803), (Instr.attest, 0x0804), (Instr.pwrPolicy, 0x0901), (Instr.pwrFloor, 0x0902), (Instr.heatReport, 0x0903),
   (Instr.diagScratchSample, 0x0A03), (Instr.engineReset, 0x0A04)]

/-- Each of them is carried out as a command of its opcode. -/
theorem exec_firmwareRows {row : (Nat → Instr) × Nat} (hrow : row ∈ firmwareRows) (c : Nat) (s : State) :
    ∃ body, exec (row.1 c) s = runCmd row.2 c s body := by
  simp only [firmwareRows, List.mem_cons, List.not_mem_nil, or_false] at hrow
  rcases hrow with rfl | rfl | rfl | rfl | rfl | rfl | rfl | rfl | rfl | rfl | rfl | rfl | rfl | rfl | rfl | rfl | rfl | rfl | rfl | rfl | rfl | rfl
  exacts [⟨_, execDevStatus.eq_1 c s⟩, ⟨_, execDevSetMode.eq_1 c s⟩, ⟨_, execDevWarmReset.eq_1 c s⟩, ⟨_, execCtxCreate.eq_1 c s⟩,
    ⟨_, execCtxStop.eq_1 c s⟩, ⟨_, execCtxTeardown.eq_1 c s⟩, ⟨_, execCollSubstitute.eq_1 c s⟩, ⟨_, execRouteWrite.eq_1 c s⟩,
    ⟨_, execRouteRead.eq_1 c s⟩, ⟨_, execPortConfig.eq_1 c s⟩, ⟨_, execPortLoop.eq_1 c s⟩, ⟨_, execShaperConfig.eq_1 c s⟩,
    ⟨_, execPolicerConfig.eq_1 c s⟩, ⟨_, execTelWindow.eq_1 c s⟩, ⟨_, execAlmanacRead.eq_1 c s⟩, ⟨_, execFwActivate.eq_1 c s⟩,
    ⟨_, execAttest.eq_1 c s⟩, ⟨_, execPwrPolicy.eq_1 c s⟩, ⟨_, execPwrFloor.eq_1 c s⟩, ⟨_, execHeatReport.eq_1 c s⟩,
    ⟨_, execDiagScratchSample.eq_1 c s⟩, ⟨_, execEngineReset.eq_1 c s⟩]

theorem firmwareRow_retry {row : (Nat → Instr) × Nat} (hrow : row ∈ firmwareRows) (hc : s.cmd? c = some k) (hl : s.live = true)
    (ho : k.opcode = row.2) (hr : s.ready k = true) (hd : s.served row.2 = false) : exec (row.1 c) s = .next (s.finish c stRetry) := by
  obtain ⟨body, he⟩ := exec_firmwareRows hrow c s
  exact he.trans (runCmd_down hc hl ho hr hd body)

/-! ### Finished commands of a ring (10 R288) -/

theorem State.id_of_cmd? (h : s.cmd? c = some k) : k.id = c := by
  unfold State.cmd? at h
  simpa using List.find?_some h

theorem State.finish_ring {r status : Nat} (words : List Nat) (hc : s.cmd? c = some k) (hsrc : k.src = .ring r) :
    s.finish c status words = { s with host := { s.host with
      cmds := s.host.cmds.filter (fun x => x.id != c), dones := s.host.dones ++ [k.reportedAs status words s.t3] } } := by
  unfold State.finish
  rw [hc]
  dsimp only
  rw [hsrc]
  simp only [Cmd.reportedAs, State.id_of_cmd? hc, hsrc]
  rfl

/-! ### DEV_SET_MODE (01 R36) -/

/-- DEV_SET_MODE with value v is locked out. -/
def State.modeLocked (s : State) (v : BitVec 32) : Prop :=
  (∃ x < 256, (s.ctx x).live = true) ∨ s.pfx.on = true ∨ s.dev.mode.getLsbD 31 = true ∨ v &&& 0x7FFFFFFC#32 ≠ 0#32

theorem State.modeLocked_iff (s : State) (v : BitVec 32) :
    (s.anyContext || s.dev.mode.getLsbD 31 || (v &&& 0x7FFFFFFC#32) != 0#32) = true ↔ s.modeLocked v := by
  simp [State.anyContext, State.modeLocked, or_assoc]

theorem devSetMode_locked {v : BitVec 32} (h : s.carries 0x0103 c k) (hv : v = BitVec.ofNat 32 (fieldAt k.params 0 4)) (hlock : s.modeLocked v) :
    exec (.devSetMode c) s = .next ((s.take c).finish c stBadParam) := by
  subst hv
  show execDevSetMode c s = _
  rw [execDevSetMode, runCmd_next h]
  exact congrArg _ (if_pos ((State.modeLocked_iff s _).2 hlock))

theorem devSetMode_sets {v : BitVec 32} (h : s.carries 0x0103 c k) (hv : v = BitVec.ofNat 32 (fieldAt k.params 0 4)) (hfree : ¬ s.modeLocked v) :
    exec (.devSetMode c) s = .next ((((s.take c).modDev fun d => { d with mode := v }).configured).finish c stOk) := by
  subst hv
  show execDevSetMode c s = _
  rw [execDevSetMode, runCmd_next h]
  exact congrArg _ (if_neg (mt (State.modeLocked_iff s _).1 hfree))

end

/-! ### The obligations -/

/-- Settles O15: each command is carried out as its data and the place for it say, or answered RETRY. -/
theorem deviceCommandsReport : Obligations.DeviceCommandsReport := by
  unfold Obligations.DeviceCommandsReport
  refine ⟨fun s c k ver status hver hstatus => ?_, fun s c k row hrow => firmwareRow_retry hrow, fun s c r status k words => State.finish_ring words⟩
  obtain rfl : ver = s.versionBytes := hver.trans s.versionBytes_eq.symm
  obtain rfl : status = s.statusBytes := hstatus
  have hv : s.versionBytes.length = 64 := s.versionBytes_length
  have hs : s.statusBytes.length = 1160 := s.statusBytes_length
  refine ⟨fun h ht => ?_, fun h ht => ?_, fun h hlen ha => ?_, fun h hlen ha => ?_, fun hvia ha => ⟨fun h => ?_, fun h => ?_⟩⟩
  · rw [fwVersion_next h, State.finishData_reported h [] (hv ▸ ht)]
  · rw [devStatus_next h, State.finishData_reported h [] (hs ▸ ht)]
  · rw [fwVersion_next h, State.finishData_tooLong (State.id_of_carries h) [] (hv ▸ hlen) ha, hv]
  · rw [devStatus_next h, State.finishData_tooLong (State.id_of_carries h) [] (hs ▸ hlen) ha, hs]
  · rw [fwVersion_next h, State.finishData_misaligned (State.id_of_carries h) [] _ hvia ha]
  · rw [devStatus_next h, State.finishData_misaligned (State.id_of_carries h) [] _ hvia ha]

/-- Settles O16: the row refuses exactly where a context, the store, the lock or a reserved bit stands against it. -/
theorem devSetModeObeysItsLocks : Obligations.DevSetModeObeysItsLocks := by
  unfold Obligations.DevSetModeObeysItsLocks
  refine fun s c k v h hv => ⟨devSetMode_locked h hv, fun hctx hpfx hmode hres => devSetMode_sets h hv ?_⟩
  rintro (⟨x, hx, hlive⟩ | hon | hlock | hbits)
  · exact Bool.false_ne_true ((hctx x hx).symm.trans hlive)
  · exact Bool.false_ne_true (hpfx.symm.trans hon)
  · exact Bool.false_ne_true (hmode.symm.trans hlock)
  · exact hbits hres

end Sys2Proof.Machine

end

section

/-! The BAR4 window (01 R30, R32, R33): what a write changes of device memory, as a read of any byte shows, and how the two rows answer. -/

namespace Sys2Proof.Machine

/-! ### A byte of device memory (08 R241) -/

theorem headerBytes_length (next L i : Nat) : (headerBytes next L i).length = 32 := by simp [headerBytes]

theorem State.freshHeader_length {s : State} {a : Nat} {h : List Byte} (hh : s.freshHeader a = some h) : h.length = 32 := by
  unfold State.freshHeader at hh
  split at hh
  · cases hh
  · split at hh
    · cases hh; exact headerBytes_length _ _ _
    · cases hh

/-- The byte at an address: of a never-popped buffer's header, or as memory holds it. -/
def State.memByte (s : State) (x : Nat) : Byte :=
  match s.freshHeader (32 * (x / 32)) with
  | some h => h.getD (x % 32) 0#8
  | none => s.mem.bytes.byte x

theorem take_one_drop {α : Type} {l : List α} {n : Nat} (h : n < l.length) (d : α) : (l.drop n).take 1 = [l.getD n d] := by
  rw [List.drop_eq_getElem_cons h, List.take_succ_cons, List.take_zero, List.getD_eq_getElem _ _ h]

theorem State.memRead_one (s : State) (x : Nat) : s.memRead x 1 = [s.memByte x] := by
  have hone : (x % 32 + 1 + 31) / 32 = 1 := by omega
  have hlt : x % 32 < 32 := Nat.mod_lt _ (by decide)
  unfold State.memRead State.memByte
  rw [hone, State.memWords, State.memWords, List.append_nil, Nat.mul_comm (x / 32)]
  unfold State.memWord
  cases hh : s.freshHeader (32 * (x / 32)) with
  | some h => exact take_one_drop (by rwa [State.freshHeader_length hh]) _
  | none =>
    dsimp only
    rw [take_one_drop (by rwa [Memory.read_length]) 0#8, Memory.read_eq]
    simp [hlt, Nat.div_add_mod]

/-! ### A write (08 R241) -/

theorem mem_wordsOf {a n w : Nat} : w ∈ wordsOf a n ↔ 0 < n ∧ a / 32 ≤ w ∧ w ≤ (a + n - 1) / 32 := by
  unfold wordsOf
  split
  · next h => simp [h]
  · next h =>
    simp only [List.mem_map, List.mem_range]
    constructor
    · rintro ⟨i, hi, rfl⟩; omega
    · rintro ⟨-, hlo, hhi⟩; exact ⟨w - a / 32, by omega, by omega⟩

/-- The words of a write that lie over a header which no write has gone over. -/
def State.headsUnder (s : State) (a n : Nat) : List Nat := (wordsOf a n).filter fun w => (s.freshHeader (32 * w)).isSome

theorem State.mem_headsUnder {s : State} {a n w : Nat} : w ∈ s.headsUnder a n ↔ w ∈ wordsOf a n ∧ (s.freshHeader (32 * w)).isSome = true := List.mem_filter

/-- Memory with the headers at some words written out. -/
def State.withHeads (s : State) (ws : List Nat) (m : Memory) : Memory :=
  ws.foldl (fun (m : Memory) w => m.write (32 * w) ((s.freshHeader (32 * w)).getD [])) m

theorem State.byte_withHeads {s : State} {ws : List Nat} (hws : ∀ w ∈ ws, (s.freshHeader (32 * w)).isSome = true) (m : Memory) (x : Nat) :
    (s.withHeads ws m).byte x = if x / 32 ∈ ws then s.memByte x else m.byte x := by
  induction ws generalizing m with
  | nil => rfl
  | cons w t ih =>
    obtain ⟨h, hh⟩ := Option.isSome_iff_exists.1 (hws w (by simp))
    have hwrite : (s.withHeads (w :: t) m).byte x = if x / 32 ∈ t then s.memByte x else (m.write (32 * w) h).byte x := by
      rw [← ih (fun v hv => hws v (by simp [hv]))]
      simp [State.withHeads, hh]
    rw [hwrite, Memory.byte_write, State.freshHeader_length hh]
    by_cases hx : x / 32 = w
    · have hbyte : h.getD (x - 32 * w) 0#8 = s.memByte x := by
        rw [State.memByte, hx, hh, show x % 32 = x - 32 * w by omega]
      rw [if_pos (by omega : 32 * w ≤ x ∧ x < 32 * w + 32), hbyte, if_pos (List.mem_cons.2 (.inl hx)), ite_self]
    · rw [if_neg (by omega : ¬ (32 * w ≤ x ∧ x < 32 * w + 32))]
      exact if_congr (by simp [hx]) rfl rfl

theorem State.memWrite_eq (s : State) (a : Nat) (d : List Byte) : s.memWrite a d = { s with
    mem := { s.mem with
      bytes := (s.withHeads (s.headsUnder a d.length) s.mem.bytes).write a d
      ue := s.mem.ue.filter fun w => !(fullWords a d.length).contains w
      ce := s.mem.ce.filter fun w => !(fullWords a d.length).contains w }
    seed := { s.seed with touched := s.seed.touched ++ s.headsUnder a d.length } } := by
  unfold State.memWrite
  dsimp only
  split
  · next h =>
    rw [show s.headsUnder a d.length = [] from List.isEmpty_iff.1 h, List.append_nil]
    rw [List.isEmpty_iff.1 h]
    rfl
  · rfl

/-- A header that a write has gone over is read from memory from then on. -/
theorem State.freshHeader_memWrite (s : State) (a : Nat) (d : List Byte) (w : Nat) : (s.memWrite a d).freshHeader (32 * w) =
    if w ∈ s.headsUnder a d.length then none else s.freshHeader (32 * w) := by
  have hbuf : (s.memWrite a d).bufferOf (32 * w) = s.bufferOf (32 * w) := by rw [State.memWrite_eq]; rfl
  have htouched : (s.memWrite a d).seed.touched = s.seed.touched ++ s.headsUnder a d.length := by rw [State.memWrite_eq]
  unfold State.freshHeader
  rw [hbuf, htouched, Nat.mul_div_cancel_left w (by decide)]
  cases s.bufferOf (32 * w) with
  | none => exact (ite_self _).symm
  | some b =>
    obtain ⟨L, i⟩ := b
    have hnext : (s.memWrite a d).freshNext L i = s.freshNext L i := by rw [State.memWrite_eq]; rfl
    have hplace : ((s.memWrite a d).bufAddr L i, (s.memWrite a d).listUp L, (s.memWrite a d).sbList L, (s.memWrite a d).sbEntry L i) =
        (s.bufAddr L i, s.listUp L, s.sbList L, s.sbEntry L i) := by rw [State.memWrite_eq]; rfl
    simp only [Prod.mk.injEq] at hplace
    obtain ⟨haddr, hup, hlist, hentry⟩ := hplace
    simp only [haddr, hup, hlist, hentry, hnext]
    by_cases hw : w ∈ s.headsUnder a d.length <;> simp [hw]

/-- What the read of a byte shows after a write: the byte written there, or what was there. -/
theorem State.memByte_memWrite (s : State) (a : Nat) (d : List Byte) (x : Nat) :
    (s.memWrite a d).memByte x = if a ≤ x ∧ x < a + d.length then d.getD (x - a) 0#8 else s.memByte x := by
  have hheads : ∀ w ∈ s.headsUnder a d.length, (s.freshHeader (32 * w)).isSome = true := fun w hw => (State.mem_headsUnder.1 hw).2
  have hbytes : (s.memWrite a d).mem.bytes = (s.withHeads (s.headsUnder a d.length) s.mem.bytes).write a d := by rw [State.memWrite_eq]
  rw [State.memByte, State.freshHeader_memWrite, hbytes, Memory.byte_write, State.byte_withHeads hheads]
  by_cases hw : x / 32 ∈ s.headsUnder a d.length
  · simp only [if_pos hw]
  · simp only [if_neg hw]
    by_cases hin : a ≤ x ∧ x < a + d.length
    · have hword : x / 32 ∈ wordsOf a d.length := mem_wordsOf.2 (by omega)
      have hnone : s.freshHeader (32 * (x / 32)) = none := Option.not_isSome_iff_eq_none.1 fun h => hw (State.mem_headsUnder.2 ⟨hword, h⟩)
      simp only [hnone, if_pos hin]
    · simp only [if_neg hin, State.memByte]

theorem State.memRead_memWrite (s : State) (a x : Nat) (d : List Byte) : (s.memWrite a d).memRead x 1 =
    if a ≤ x ∧ x < a + d.length then [d.getD (x - a) 0#8] else s.memRead x 1 := by
  rw [State.memRead_one, State.memByte_memWrite, State.memRead_one]
  split <;> rfl

/-! ### Corrected words (01 R33) -/

/-- Correcting counts, and keeps in mind which words were corrected. -/
theorem State.corrected_eq (s : State) (ws found : List Nat) :
    ∃ ctr ce, s.corrected ws found = { s with ctr := ctr, mem := { s.mem with ce := ce } } := by
  have hcount (l : List Nat) (s : State) : ∃ ctr, l.foldl (fun s w => s.count (ctrMem (ctrlOf (32 * w)) 0) 1) s = { s with ctr := ctr } := by
    induction l generalizing s with
    | nil => exact ⟨_, rfl⟩
    | cons w t ih => exact ih _
  unfold State.corrected
  extract_lets hit s1
  obtain ⟨ctr, hctr⟩ := hcount hit s
  exact ⟨ctr, _, by rw [show s1 = _ from hctr]; rfl⟩

theorem State.badAmong_corrected (s : State) (ws found l : List Nat) (ecc : Option Nat) : (s.corrected ws found).badAmong l ecc = s.badAmong l ecc := by
  obtain ⟨ctr, ce, h⟩ := s.corrected_eq ws found
  rw [h]
  rfl

theorem State.memRead_corrected (s : State) (ws found : List Nat) (a n : Nat) : (s.corrected ws found).memRead a n = s.memRead a n := by
  obtain ⟨ctr, ce, h⟩ := s.corrected_eq ws found
  have hwords (n a : Nat) : (s.corrected ws found).memWords a n = s.memWords a n := by
    induction n generalizing a with
    | zero => rfl
    | succ n ih => rw [State.memWords, State.memWords, ih, h]; rfl
  rw [State.memRead, State.memRead, hwords]

/-! ### The words of a write (01 R30) -/

/-- A record queued changes the Almanac alone. -/
theorem State.almQueue_eq (s : State) (r : ARec) : s.almQueue r = { s with alm := (s.almQueue r).alm } := by unfold State.almQueue; split <;> rfl

theorem State.corrected_dev (s : State) (ws found : List Nat) : (s.corrected ws found).dev = s.dev := by
  obtain ⟨ctr, ce, h⟩ := s.corrected_eq ws found
  rw [h]

theorem State.memWrite_dev (s : State) (a : Nat) (d : List Byte) : (s.memWrite a d).dev = s.dev := by rw [State.memWrite_eq]

theorem State.bar4Word_dev (s : State) (a : Nat) (d : List Byte) (ecc : Option Nat) (ce : List Nat) (w : Nat) : (s.bar4Word a d ecc ce w).dev = s.dev := by
  unfold State.bar4Word
  dsimp only
  split
  · rfl
  · split
    · exact State.memWrite_dev _ _ _
    · split
      · rw [State.bar4Ecc, State.almQueue_eq]; rfl
      · rw [State.healCe, State.modMem_dev, State.memWrite_dev, State.corrected_dev]

theorem State.bar4Addr_congr {s s' : State} (h : s'.dev = s.dev) (off : Nat) : s'.bar4Addr off = s.bar4Addr off := by
  unfold State.bar4Addr
  rw [h]

/-- The window stands still while a write is carried out. -/
theorem foldl_bar4Word_window {a off : Nat} (d : List Byte) (ecc : Option Nat) (ce ws : List Nat) {s : State} (ha : s.bar4Addr off = a) :
    ws.foldl (fun x w => x.bar4Word (x.bar4Addr off) d ecc ce w) s = ws.foldl (fun x w => x.bar4Word a d ecc ce w) s := by
  induction ws generalizing s with
  | nil => rw [List.foldl_nil, List.foldl_nil]
  | cons w t ih =>
    rw [List.foldl_cons, List.foldl_cons, ha]
    exact ih ((State.bar4Addr_congr (State.bar4Word_dev _ _ _ _ _ _) off).trans ha)

/-! ### The rows -/

section
variable {s : State} {off len : Nat} {ecc : Option Nat} {ce : List Nat}

theorem bar4Read_next (hl : s.linkUp = true) (hlen : 0 < len) (hin : off + len ≤ 0x1000000000) : exec (.bar4Read off len ecc ce) s = .next (
    if !s.memThere (s.bar4Addr off) then (s.freeBytes len).2.answer (.data (s.freeBytes len).1)
    else match s.badAmong (wordsOf (s.bar4Addr off) len) ecc with
      | some w => ((s.corrected (wordsOf (s.bar4Addr off) len) ce).bar4Ecc w).answer .completerAbort
      | none => (s.corrected (wordsOf (s.bar4Addr off) len) ce).answer (.data (s.memRead (s.bar4Addr off) len))) := by
  show execBar4Read off len ecc ce s = _
  rw [execBar4Read, onEvent_next (by simp [hl, hlen, barSize, hin])]
  simp only [State.badAmong_corrected, State.memRead_corrected] <;> rfl

theorem bar4Write_next {data : List Byte} (hl : s.linkUp = true) (hin : off + data.length ≤ 0x1000000000) : exec (.bar4Write off data ecc ce) s =
    .next (((wordsOf (s.bar4Addr off) data.length).foldl (fun x w => x.bar4Word (s.bar4Addr off) data ecc ce w) s).answer .accepted) := by
  show execBar4Write off data ecc ce s = _
  rw [execBar4Write, onEvent_next (by simp [hl, barSize, hin])]

/-- A write within one word. -/
structure WithinWord (a n w : Nat) : Prop where
  first : a / 32 = w
  last : (a + n - 1) / 32 = w
  some : 0 < n

theorem wordsOf_withinWord {a n w : Nat} (h : WithinWord a n w) : wordsOf a n = [w] := by
  obtain ⟨hfirst, hlast, hpos⟩ := h
  simp [wordsOf, Nat.ne_of_gt hpos, hfirst, hlast]

/-- A word that is there, covered whole or in part. -/
theorem State.bar4Word_withinWord {a w : Nat} {data : List Byte} (h : WithinWord a data.length w) (hthere : s.memThere a = true) :
    s.bar4Word a data ecc ce w = if data.length = 32 then s.memWrite a data
      else match s.badAmong [w] ecc with
        | some w => s.bar4Ecc w
        | none => ((s.corrected [w] ce).memWrite a data).healCe [w] := by
  obtain ⟨hfirst, hlast, hpos⟩ := h
  have hlo : max a (32 * w) = a := by omega
  have hhi : min (a + data.length) (32 * w + 32) - a = data.length := by omega
  unfold State.bar4Word
  simp only [hlo, hhi, hthere, Nat.sub_self, List.drop_zero, List.take_length, Bool.not_true, Bool.false_eq_true, if_false] <;> rfl

end

/-! ### The obligation -/

/-- Settles O14: the rows answer from the words they touch, and a write changes the bytes it covers, headers that it meets being written out first. -/
theorem bar4ReadsAndWritesMemory : Obligations.Bar4ReadsAndWritesMemory := by
  unfold Obligations.Bar4ReadsAndWritesMemory
  refine ⟨fun s off len data ecc ce hl => ⟨fun hlen hin hthere hgood => ?_, fun hlen hin hthere w hbad => ?_, fun hlen hin haway => ?_,
    fun hin w hfirst hlast hpos hthere => ?_, fun hin => ?_⟩, State.memRead_memWrite⟩
  · rw [bar4Read_next hl hlen hin, hthere, hgood]; rfl
  · rw [bar4Read_next hl hlen hin, hthere, hbad]; rfl
  · rw [bar4Read_next hl hlen hin, haway]; rfl
  · have hword : WithinWord (s.bar4Addr off) data.length w := ⟨hfirst, hlast, hpos⟩
    rw [bar4Write_next hl hin, wordsOf_withinWord hword, List.foldl_cons, List.foldl_nil, State.bar4Word_withinWord hword hthere]
    exact ⟨fun hfull => by rw [if_pos hfull], fun hpart hgood => by rw [if_neg (Nat.ne_of_lt hpart), hgood]⟩
  · rw [bar4Write_next hl hin, foldl_bar4Word_window data ecc ce _ rfl]

end Sys2Proof.Machine

end

section

/-! Where an instruction of Shoze is stopped before any effect (03 R78, R89; 01 R32; 04 R118). -/

namespace Sys2Proof.Machine

section
variable {s : State} {t e : Nat} {mn : Mnem} {i : Shoze} {body : Shoze → State}

variable (ht : t < 192) (he : e < 6) (hm : s.mayIssue t e = true)
include ht he hm

theorem issueRow_pastEnd (hc : (s.tl t).img.code[((s.tl t).stream e).pc]? = none) :
    issueRow t e mn s body = .next (s.hazard t (streamEngine (s.tl t) e) ((s.tl t).stream e).pc { cause := 6 }) := by
  simp [issueRow, State.issue, ht, he, hm, hc]

variable (hc : (s.tl t).img.code[((s.tl t).stream e).pc]? = some i) (hi : i.mn = mn)
include hc hi

theorem issueRow_eccFetch (hu : ((s.tl t).stream e).pc ∈ (s.tl t).imUe) :
    issueRow t e mn s body = .next (s.eccFetch t ((s.tl t).stream e).pc) := by
  simp [issueRow, State.issue, ht, he, hm, hc, hi, hu]

theorem issueRow_harrowAbsent (hu : ((s.tl t).stream e).pc ∉ (s.tl t).imUe) (hg : engineOf mn = 1) (hh : s.harrow t = false) :
    issueRow t e mn s body = .next (s.harrowAbsent t ((s.tl t).stream e).pc) := by
  simp [issueRow, State.issue, ht, he, hm, hc, hi, hu, hg, hh]

end

/-! ### The rows of the instructions (03 R78) -/

/-- The rows of the control core's instructions of control and arithmetic. -/
def coreRows : List ((Nat → Nat → Instr) × Mnem) :=
  [(.nop, .nop), (.jmp, .jmp), (.beq, .beq), (.bne, .bne), (.blt, .blt), (.bge, .bge), (.bltu, .bltu), (.bgeu, .bgeu),
   (.call, .call), (.ret, .ret), (.stepEnd, .stepEnd), (.halt, .halt), (.fence, .fence), (.add, .add), (.sub, .sub),
   (.and, .and), (.or, .or), (.xor, .xor), (.shl, .shl), (.shr, .shr)]

/-- The rows of its other instructions, but for the counters of time and the generator. -/
def scalarRows : List ((Nat → Nat → Instr) × Mnem) :=
  [(.sra, .sra), (.slt, .slt), (.sltu, .sltu), (.mul, .mul), (.mulhu, .mulhu), (.div, .div), (.divu, .divu), (.rem, .rem),
   (.remu, .remu), (.li, .li), (.lui, .lui), (.ldB, .ldB), (.ldH, .ldH), (.ldW, .ldW), (.stB, .stB), (.stH, .stH),
   (.stW, .stW), (.spld, .spld), (.spst, .spst), (.rdcyc, .rdcyc)]

/-- The rows of those counters, the generator and the engines' instructions. -/
def engineRows : List ((Nat → Nat → Instr) × Mnem) :=
  [(.rdtime, .rdtime), (.rdtile, .rdtile), (.seed, .seed), (.mm, .mm), (.mmBs, .mmBs), (.mmGs, .mmGs), (.mmBgs, .mmBgs),
   (.trMap, .trMap), (.trRed, .trRed), (.trCvt, .trCvt), (.trLdprog, .trLdprog), (.shPrune, .shPrune), (.shTmask, .shTmask),
   (.mvCopy, .mvCopy), (.mvMesh, .mvMesh), (.mvMrecv, .mvMrecv), (.mvGet, .mvGet), (.mvPut, .mvPut), (.mvSend, .mvSend),
   (.mvRecv, .mvRecv)]

/-- The rows of the check-value unit, the semaphores and the address stream. -/
def unitRows : List ((Nat → Nat → Instr) × Mnem) :=
  [(.cvInit, .cvInit), (.cvWb, .cvWb), (.cvWh, .cvWh), (.cvWw, .cvWw), (.cvRead, .cvRead), (.cvSave, .cvSave),
   (fun t e => .cvRestore t e none, .cvRestore), (.cvFeed, .cvFeed), (.signal, .signal), (.wait, .wait), (.aspush, .aspush)]

/-- A row that issues an instruction at a stream of a Tiller, whatever the instruction then does. -/
def issuesRow (row : (Nat → Nat → Instr) × Mnem) : Prop := ∀ (s : State) (t e : Nat), ∃ body, exec (row.1 t e) s = issueRow t e row.2 s body

theorem coreRows_issue : ∀ row ∈ coreRows, issuesRow row := by
  simp only [coreRows, List.forall_mem_cons, List.not_mem_nil, IsEmpty.forall_iff, implies_true, and_true]
  and_intros <;> exact fun _ _ _ => ⟨_, rfl⟩

theorem scalarRows_issue : ∀ row ∈ scalarRows, issuesRow row := by
  simp only [scalarRows, List.forall_mem_cons, List.not_mem_nil, IsEmpty.forall_iff, implies_true, and_true]
  and_intros <;> exact fun _ _ _ => ⟨_, rfl⟩

theorem engineRows_issue : ∀ row ∈ engineRows, issuesRow row := by
  simp only [engineRows, List.forall_mem_cons, List.not_mem_nil, IsEmpty.forall_iff, implies_true, and_true]
  and_intros <;> exact fun _ _ _ => ⟨_, rfl⟩

theorem unitRows_issue : ∀ row ∈ unitRows, issuesRow row := by
  simp only [unitRows, List.forall_mem_cons, List.not_mem_nil, IsEmpty.forall_iff, implies_true, and_true]
  and_intros <;> exact fun _ _ _ => ⟨_, rfl⟩

theorem mem_rows_issue {row : (Nat → Nat → Instr) × Mnem} (h : row ∈ List.flatten [coreRows, scalarRows, engineRows, unitRows]) : issuesRow row := by
  simp only [List.flatten_cons, List.flatten_nil, List.append_nil, List.mem_append] at h
  rcases h with h | h | h | h
  · exact coreRows_issue _ h
  · exact scalarRows_issue _ h
  · exact engineRows_issue _ h
  · exact unitRows_issue _ h

/-! ### The obligation -/

/-- Settles O35: whatever the instruction would do, its row issues it, and the issue stops at the first of the causes. -/
theorem hazardsFaultTheTiller : Obligations.HazardsFaultTheTiller := by
  unfold Obligations.HazardsFaultTheTiller
  rintro row hrow s t e _ i ecc rfl
  obtain ⟨body, hexec⟩ := mem_rows_issue hrow s t e
  rw [hexec]
  refine ⟨fun h hmeets => ?_, fun ht he hm hc => issueRow_pastEnd ht he hm hc, fun ht he hm hc hi hu => issueRow_eccFetch ht he hm hc hi hu,
    fun ht he hm hc hi hu hg hh => issueRow_harrowAbsent ht he hm hc hi hu hg hh⟩
  obtain ⟨⟨ht, he⟩, hm, hc, hi, hg, hh, hu⟩ := hmeets
  refine ⟨issueRow_hazard ht he hm hc hi hg hh hu body, fun hrestore => ?_⟩
  rw [hrestore] at hi hg
  exact issueRow_hazard ht he hm hc hi hg hh hu _

end Sys2Proof.Machine

end

section

/-! Constants, counters, words of the scratchpad, and the seed of the generator (03 R77, R78, R83; 02 R53). -/

namespace Sys2Proof.Machine

section
variable {s : State} {t e : Nat} {i : Shoze} {mn : Mnem}

/-! ### Constants and counters (03 R78) -/

/-- A row that writes a register with a value which the going on of its stream does not change. -/
theorem retireRow_wrote {r : Instr} {f : Shoze → Tiller → Word} {v : Word}
    (hr : exec r s = issueRow t e mn s fun i => s.retire t e fun T => T.setReg i.sd.toNat (f i T)) (h : s.issues t e mn i)
    (hf : f i ((s.tl t).goto e s.clk.core s.t3 (((s.tl t).stream e).pc + 1) 1) = v) :
    ∃ s', exec r s = .next s' ∧ wrote t e i.sd.toNat v s s' :=
  ⟨_, hr.trans (issueRow_next h _), retire_wrote s t e i.sd v (f i) hf⟩

/-- LUI's word: the immediate above eight zeros. -/
theorem setWidth_shiftLeft_eq_append (x : BitVec 24) : x.setWidth 32 <<< 8 = x ++ 0#8 := by
  apply BitVec.eq_of_getLsbD_eq
  intro k hk
  simp only [BitVec.getLsbD_shiftLeft, BitVec.getLsbD_setWidth, BitVec.getLsbD_append, BitVec.getLsbD_zero, hk]
  by_cases h8 : k < 8
  · simp [h8]
  · simp [h8, show k - 8 < 32 by omega]

/-! ### Instructions with an entry (03 R77, R83, R89) -/

/-- A row that only launches its instruction on the control core: it claims what the instruction reads and writes. -/
theorem launchRow_launched {r : Instr} {vals : Shoze → List Word} {upd : Shoze → Entry → Entry} {lat : Nat}
    (hr : exec r s = issueRow t e mn s fun i => s.launch t e i (vals i) (upd i)) (h : s.issues t e mn i)
    (ha : isAsync i.mn = false) (he : engineOf i.mn = 0) (ht : (s.tl t).timing s.clk.core i = (1, lat)) {b : Bool}
    (hn : (s.tl t).needsEntry s.clk.core i = b) :
    ∃ s', exec r s = .next s' ∧ launched t e 0 (s.clk.core + 1)
      (if b then [upd i ((s.tl t).entryOf s.clk.core ((s.tl t).stream e).pc i (vals i))] else []) s s' := by
  have hl := launch_launched s t e i (vals i) (upd i) ha
  rw [he, ht, hn] at hl
  exact ⟨_, hr.trans (issueRow_next h _), hl⟩

/-- An instruction without row addresses ends when its latency has passed. -/
theorem Tiller.entryOf_done {T : Tiller} {core occ lat : Nat} (hast : i.ast = false) (ht : T.timing core i = (occ, lat)) (pc : Nat) (vals : List Word) :
    (T.entryOf core pc i vals).done = core + lat := by
  simp [Tiller.entryOf, astRows, hast, ht]

theorem natFeet_spWord (T : Tiller) (i : Shoze) : natFeet (T.spWord i) = [(T.effAddr i / 32, T.effAddr i / 32)] := by
  simp only [natFeet, Tiller.spWord, List.map_cons, List.map_nil, Int.toNat_natCast]

theorem spld_launched (h : s.issues t e .spld i) (hast : i.ast = false) : ∃ s' x, exec (.spld t e) s = .next s' ∧
    launched t e 0 (s.clk.core + 1) [x] s s' ∧ x.rows = [(s.tl t).effAddr i] ∧
    x.srcs = [((s.tl t).effAddr i / 32, (s.tl t).effAddr i / 32)] ∧ x.done = s.clk.core + 3 := by
  obtain ⟨-, -, -, hi, -⟩ := id h
  have ht : (s.tl t).timing s.clk.core i = (1, 3) := by simp [Tiller.timing, hi]
  have hn : (s.tl t).needsEntry s.clk.core i = true := by simp [Tiller.needsEntry, hi]
  obtain ⟨s', hexec, hl⟩ := launchRow_launched (r := .spld t e) (vals := fun _ => []) (upd := fun i x => { x with rows := [(s.tl t).effAddr i] }) rfl h
    (by rw [hi]; rfl) (by rw [hi]; rfl) ht hn
  have hsrcs : (s.tl t).reads i = (s.tl t).spWord i := by simp [Tiller.reads, hi]
  exact ⟨s', _, hexec, hl, rfl, (congrArg natFeet hsrcs).trans (natFeet_spWord _ _), Tiller.entryOf_done hast ht ((s.tl t).stream e).pc []⟩

theorem spst_launched (h : s.issues t e .spst i) (hast : i.ast = false) : ∃ s' x, exec (.spst t e) s = .next s' ∧
    launched t e 0 (s.clk.core + 1) [x] s s' ∧ x.rows = [(s.tl t).effAddr i] ∧ x.vals = [s.rb t i] ∧
    x.dsts = [((s.tl t).effAddr i / 32, (s.tl t).effAddr i / 32)] ∧ x.done = s.clk.core + 2 := by
  obtain ⟨-, -, -, hi, -⟩ := id h
  have ht : (s.tl t).timing s.clk.core i = (1, 2) := by simp [Tiller.timing, hi]
  have hn : (s.tl t).needsEntry s.clk.core i = true := by simp [Tiller.needsEntry, hi]
  obtain ⟨s', hexec, hl⟩ := launchRow_launched (r := .spst t e) (vals := fun i => [(s.tl t).reg i.sb.toNat])
    (upd := fun i x => { x with rows := [(s.tl t).effAddr i] }) rfl h (by rw [hi]; rfl) (by rw [hi]; rfl) ht hn
  have hdsts : (s.tl t).writes i = (s.tl t).spWord i := by simp [Tiller.writes, hi]
  exact ⟨s', _, hexec, hl, rfl, rfl, (congrArg natFeet hdsts).trans (natFeet_spWord _ _), Tiller.entryOf_done hast ht ((s.tl t).stream e).pc [s.rb t i]⟩

/-- RDTIME of a register: the register is claimed, and takes the core's copy of the time base. -/
theorem rdtime_launched (h : s.issues t e .rdtime i) {b : Bool} (hn : (s.tl t).needsEntry s.clk.core i = b) :
    ∃ s', exec (.rdtime t e) s = .next s' ∧ launched t e 0 (s.clk.core + 1)
      (if b then [(s.tl t).entryOf s.clk.core ((s.tl t).stream e).pc i [BitVec.ofNat 32 s.coreTime]] else []) s s' := by
  obtain ⟨-, -, -, hi, -⟩ := id h
  exact launchRow_launched (r := .rdtime t e) (vals := fun _ => [BitVec.ofNat 32 s.coreTime]) (upd := fun _ => id) rfl h (by rw [hi]; rfl)
    (by rw [hi]; rfl) (lat := 4) (by simp [Tiller.timing, hi]) hn

/-! ### The generator (02 R53) -/

theorem seed_loads (h : s.issues t e .seed i) : ∃ s', exec (.seed t e) s = .next s' ∧ onlyTiller t s s' ∧
    s'.tl t = { s.tl t with gen := if s.ra t i = 0#32 then 1#32 else s.ra t i, streams := (s'.tl t).streams } ∧
    wentOn e (((s.tl t).stream e).pc + 1) (s.clk.core + 1) s.t3 (s.tl t) (s'.tl t) := by
  refine ⟨_, issueRow_next h _, onlyTiller_modT _ _ _, ?_⟩
  rw [State.retire, State.modT_tl', if_pos rfl]
  exact ⟨rfl, wentOn_of_streams rfl⟩

end

/-! ### The obligation -/

/-- Settles O30: each row writes its register in one cycle, launches its instruction, or loads the generator. -/
theorem constantsCountersAndScratchpadWords : Obligations.ConstantsCountersAndScratchpadWords := by
  unfold Obligations.ConstantsCountersAndScratchpadWords
  refine ⟨fun s t e i => ⟨fun h => retireRow_wrote (f := fun i _ => i.imm.signExtend 32) rfl h rfl,
      fun h => retireRow_wrote (f := fun i _ => i.imm.setWidth 32 <<< 8) rfl h (setWidth_shiftLeft_eq_append _),
      fun h => retireRow_wrote (f := fun _ T => BitVec.ofNat 32 (s.clk.core - T.startCyc)) rfl h rfl,
      fun h => retireRow_wrote (f := fun _ _ => BitVec.ofNat 32 t) rfl h rfl⟩,
    fun s t e i => ⟨spld_launched, spst_launched, fun h hast h0 hds => ?_, fun h hast h0 => ?_, seed_loads⟩⟩
  · obtain ⟨-, -, -, hi, -⟩ := id h
    exact rdtime_launched h (b := false) (by simp [Tiller.needsEntry, hi, hds, isAsync, Tiller.regsWritten, h0])
  · obtain ⟨-, -, -, hi, -⟩ := id h
    have hd : i.sd.toNat ≠ 0 := by simpa [← BitVec.toNat_inj] using h0
    have ht : (s.tl t).timing s.clk.core i = (1, 4) := by simp [Tiller.timing, hi]
    have hn : (s.tl t).needsEntry s.clk.core i = true := by simp [Tiller.needsEntry, hi, ht, Tiller.regsWritten, hd]
    obtain ⟨s', hexec, hl⟩ := rdtime_launched h hn
    exact ⟨s', _, hexec, hl, rfl, by simp [Tiller.entryOf, Tiller.regsWritten, hi, hd], Tiller.entryOf_done hast ht _ _⟩

end Sys2Proof.Machine

end

section

/-! The check-value unit (03 R95 to R98; 01 R32): how each row of it ends. -/

namespace Sys2Proof.Machine

section
variable {s : State} {t e : Nat} {i : Shoze}

/-! ### Algorithms and their bytes (03 R95, R96) -/

theorem cvInit_next (h : s.issues t e .cvInit i) : exec (.cvInit t e) s = .next (s.cvu t e i fun _ => cvuInit (i.imm.toNat % 8)) := by
  show execCvInit t e s = _
  rw [execCvInit, issueRow_next h]

/-- A row that feeds the low bytes of its register. -/
theorem feedRow_next {r : Instr} {mn : Mnem} {n : Nat} (hr : exec r s = issueRow t e mn s (s.cvFeedReg t e n)) (h : s.issues t e mn i) :
    exec r s = .next (s.cvu t e i fun c => c.feed s.clk.core (toLE n (s.ra t i).toNat)) :=
  hr.trans (issueRow_next h _)

theorem cvFeed_next (h : s.issues t e .cvFeed i) : exec (.cvFeed t e) s =
    .next (s.cvu t e i fun c => c.feedSlow s.clk.core ((((s.tl t).resolve i).desc 0).packedBytes (s.tl t).sp)) := by
  show execCvFeed t e s = _
  rw [execCvFeed, issueRow_next h]

/-! ### The value (03 R97) -/

theorem cvRead_digest (h : s.issues t e .cvRead i) (hsha : (s.tl t).cvu.sha = true) : exec (.cvRead t e) s =
    .next ((s.launch t e i [] id).modT t fun T => { T with dmem := T.dmem.write (s.ra t i).toNat (s.tl t).cvu.digest }) := by
  show execCvRead t e s = _
  rw [execCvRead, issueRow_next h, if_pos hsha]
  rfl

theorem cvRead_value (h : s.issues t e .cvRead i) (hsha : (s.tl t).cvu.sha = false) {s1 : State}
    (hs1 : s1 = s.launch t e i ((s.tl t).cvu.value s.freeNat) id) :
    exec (.cvRead t e) s = .next (if (s.tl t).cvu.alg = none then s1.drawn else s1) := by
  subst hs1
  show execCvRead t e s = _
  rw [execCvRead, issueRow_next h, if_neg (by simp [hsha])]
  simp only [Option.isNone_iff_eq_none]

/-! ### The image (03 R98; 01 R32) -/

theorem cvSave_next (h : s.issues t e .cvSave i) {s1 : State} (hs1 : s1 = (s.launch t e i [] id).modT t fun T => { T with
      dmem := T.dmem.write (s.ra t i).toNat ((s.tl t).cvu.image s.freeNat),
      dmUe := T.dmUe.filter fun w => !(wordsOf (s.ra t i).toNat 128).contains w }) :
    exec (.cvSave t e) s = .next (if (s.tl t).cvu.alg = none then s1.drawn else s1) := by
  subst hs1
  show execCvSave t e s = _
  rw [execCvSave, issueRow_next h]
  simp only [Option.isNone_iff_eq_none]
  rfl

theorem cvRestore_next {ecc : Option Nat} (h : s.issues t e .cvRestore i) : exec (.cvRestore t e ecc) s =
    .next (match (wordsOf (s.ra t i).toNat 128).find? (fun w => ecc == some w || (s.tl t).dmUe.contains w) with
    | some w => s.eccCore t ((s.tl t).stream e).pc w
    | none => match cvuOf ((s.tl t).dmem.read (s.ra t i).toNat 128) with
      | none => s.hazard t 5 ((s.tl t).stream e).pc { cause := 6, range := some (((s.ra t i).toNat / 32 : Nat), ((s.ra t i).toNat / 32 : Nat)) }
      | some c => s.cvu t e i fun _ => c) := by
  show execCvRestore t e ecc s = _
  rw [execCvRestore, issueRow_next h]
  rfl

end

/-! ### The obligation -/

/-- Settles O37: each row ends as its algorithm, or the image it reads, says. -/
theorem checkValueUnitRuns : Obligations.CheckValueUnitRuns := by
  unfold Obligations.CheckValueUnitRuns
  refine fun s t e i => ⟨cvInit_next, fun row hrow h => ?feed, cvFeed_next, cvRead_digest, fun h hsha s1 => cvRead_value h hsha, fun h s1 => cvSave_next h,
    fun ecc bad h hbad => ⟨fun w hw => ?_, fun c hgood hc => ?_, fun hgood hc => ?_⟩⟩
  case feed =>
    simp only [List.mem_cons, List.not_mem_nil, or_false] at hrow
    rcases hrow with rfl | rfl | rfl <;> exact feedRow_next rfl h
  · rw [cvRestore_next h, ← hbad, hw]
  · rw [cvRestore_next h, ← hbad, hgood, hc]; rfl
  · rw [cvRestore_next h, ← hbad, hgood, hc]

end Sys2Proof.Machine

end

section

/-! What lands at the end of an engine's instruction (03 R82, R88; 04 R111, R113, R120, R124; 01 R32). -/

namespace Sys2Proof.Machine

section
variable {s : State} {t : Nat} {x : Entry} {ecc : Option Nat}

/-! ### The end of a synchronous entry (03 R82; 01 R32) -/

/-- s with the result of an entry of Tiller t written and the entry gone. -/
def State.landed (s : State) (t : Nat) (x : Entry) : State :=
  (s.dropEntry t x).modT t fun T => { (T.result x) with engProg := SMap.set zeroAt x.engine s.t3 T.engProg }

theorem completeEntry_badLoad {w : Nat} (h : x.badLoad (s.tl t).dmUe ecc = some w) :
    s.completeEntry t x ecc = (s.dropEntry t x).eccCore t x.index w := by
  rw [State.completeEntry]
  simp only [h]

theorem completeEntry_badWord {w : Nat} (hl : x.badLoad (s.tl t).dmUe ecc = none) (h : x.badWord (s.tl t).spUe ecc = some w) :
    s.completeEntry t x ecc = (s.dropEntry t x).eccOperand t x.engine x.index w := by
  rw [State.completeEntry]
  simp only [hl, h]

theorem completeEntry_shears {v : FmtViol} (hl : x.badLoad (s.tl t).dmUe ecc = none) (hw : x.badWord (s.tl t).spUe ecc = none) (h3 : x.engine = 3)
    (h : shearsFault x.inst (s.tl t).sp = some v) :
    s.completeEntry t x ecc = (s.dropEntry t x).fmtViolation t 3 x.index { v with written := 0 } := by
  rw [State.completeEntry]
  simp only [hl, hw, if_pos h3, h]

section
variable (hl : x.badLoad (s.tl t).dmUe ecc = none) (hw : x.badWord (s.tl t).spUe ecc = none)
  (hsh : x.engine ≠ 3 ∨ shearsFault x.inst (s.tl t).sp = none)
include hl hw hsh

theorem completeEntry_good : s.completeEntry t x ecc =
    if x.inst.ast && !(SMap.get nilAt (s.tl t).fifos x.engine).isEmpty then (s.landed t x).hazard t x.engine x.index { cause := 10 }
    else s.landed t x := by
  have hnone : (if x.engine = 3 then shearsFault x.inst (s.tl t).sp else none) = none := by
    split
    · next h3 => exact hsh.resolve_left (not_not_intro h3)
    · rfl
  rw [State.completeEntry]
  simp only [hl, hw, hnone]
  rfl

theorem completeEntry_landed (hf : x.inst.ast = false ∨ SMap.get nilAt (s.tl t).fifos x.engine = []) :
    s.completeEntry t x ecc = s.landed t x := by
  rw [completeEntry_good hl hw hsh, if_neg]
  rcases hf with hf | hf <;> simp [hf]

theorem completeEntry_leftOver (ha : x.inst.ast = true) (hf : SMap.get nilAt (s.tl t).fifos x.engine ≠ []) :
    s.completeEntry t x ecc = (s.landed t x).hazard t x.engine x.index { cause := 10 } := by
  rw [completeEntry_good hl hw hsh, if_pos (by simp [ha, hf])]

end

theorem badLoad_of_not_isLoad {known : List Nat} (h : isLoad x.inst.mn = false) : x.badLoad known ecc = none := by
  simp [Entry.badLoad, h]

/-- An entry that is due ends. -/
theorem engineResultComplete_next {k : Nat} (ht : t < 192) (hs : s.live = true) (hk : (s.tl t).checker[k]? = some x) (ha : x.async = false)
    (hm : (s.tl t).mayComplete x.engine = true) (hd : x.done ≤ s.clk.core) (hfed : x.inst.ast = false ∨ astRows x.inst ≤ x.rows.length)
    (hp : x.inst.mn ≠ .trLdprog ∨ x.finished = true) (ecc : Option Nat) :
    exec (.engineResultComplete t k ecc) s = .next (s.completeEntry t x ecc) := by
  show execEngineResultComplete t k ecc s = _
  rw [execEngineResultComplete, onUnit_next (decide_eq_true ht) hs, hk]
  have hf : (!x.inst.ast || decide (astRows x.inst ≤ x.rows.length)) = true := by rcases hfed with h | h <;> simp [h]
  exact congrArg _ (if_pos (by simpa [ha, hm, hd, hf] using hp))

/-! ### What the result changes -/

theorem landed_onlyTiller (s : State) (t : Nat) (x : Entry) : onlyTiller t s (s.landed t x) :=
  ⟨rfl, fun u hu => by simp [State.landed, State.dropEntry, hu]⟩

/-- The Tiller after the result of an entry: what healing and progress do not reach. -/
theorem landed_tl {T : Tiller} (hT : (({ s.tl t with checker := (s.tl t).checker.filter fun z => z != x } : Tiller).effect x) = T) :
    ((s.landed t x).tl t).regs = T.regs ∧ ((s.landed t x).tl t).sp = T.sp ∧ ((s.landed t x).tl t).dmem = T.dmem ∧
      ((s.landed t x).tl t).streams = T.streams ∧ ((s.landed t x).tl t).checker = T.checker := by
  subst hT
  simp only [State.landed, State.dropEntry, State.modT_tl', if_true, Tiller.result, Tiller.healed]
  split <;> exact ⟨rfl, rfl, rfl, rfl, rfl⟩

/-- Of an entry with one value and one register still pending, that register takes the value. -/
theorem land_one {T : Tiller} {d : Nat} {v : Word} (hr : x.regs = [d]) (hd : x.inst.sd.toNat = d) : T.land x [v] = T.setReg d v := by
  simp [Tiller.land, hr, hd]

theorem landed_mul {d : Nat} {v : Word} (hmn : x.inst.mn = .mul) (hr : x.regs = [d]) (hd : x.inst.sd.toNat = d) (hv : x.vals = [v]) (h0 : 0 < d) :
    (∀ r, ((s.landed t x).tl t).reg r = if r = d then v else (s.tl t).reg r) ∧
      ((s.landed t x).tl t).checker = (s.tl t).checker.filter (fun z => z != x) ∧ ((s.landed t x).tl t).sp = (s.tl t).sp ∧
      ((s.landed t x).tl t).dmem = (s.tl t).dmem ∧ ((s.landed t x).tl t).streams = (s.tl t).streams := by
  have heff (T : Tiller) : T.effect x = T.setReg d v := by rw [Tiller.effect, hmn, hv]; exact land_one hr hd
  obtain ⟨hregs, hsp, hdm, hst, hck⟩ := landed_tl (s := s) (t := t) (heff _)
  rw [Tiller.setReg_eq] at hsp hdm hst hck
  refine ⟨fun r => ?_, hck, hsp, hdm, hst⟩
  rw [Tiller.reg, hregs]
  refine (Tiller.setReg_reg _ d v (hd ▸ x.inst.sd.isLt) r).trans ?_
  exact if_congr (and_iff_left h0.ne') rfl rfl

theorem landed_spst {a : Nat} {v : Word} (hmn : x.inst.mn = .spst) (hr : x.rows = [a]) (hv : x.vals = [v]) :
    (∀ b, ((s.landed t x).tl t).sp.byte b =
      if a ≤ b ∧ b < a + 4 then BitVec.ofNat 8 (v.toNat / 256 ^ (b - a)) else (s.tl t).sp.byte b) ∧
      ((s.landed t x).tl t).regs = (s.tl t).regs ∧ ((s.landed t x).tl t).dmem = (s.tl t).dmem := by
  have heff (T : Tiller) : T.effect x = { T with sp := T.sp.write a (toLE 4 v.toNat) } := by rw [Tiller.effect, hmn, hr, hv]; rfl
  obtain ⟨hregs, hsp, hdm, -, -⟩ := landed_tl (s := s) (t := t) (heff _)
  exact ⟨fun b => by rw [hsp]; exact Memory.byte_write_toLE _ _ _ _ _, hregs, hdm⟩

/-! ### Sparse forms (04 R111, R113) -/

section
variable (ht : t < 192) (hs : s.live = true)
include ht hs

section
variable (hx : (s.tl t).sparse? = some x) (hm : (s.tl t).mayComplete 1 = true)
include hx hm

theorem sparseMmComplete_good (hn : s.sparseFault t x = none) (hd : s.sparseEnd t x ≤ s.clk.core) (hw : x.badWord (s.tl t).spUe ecc = none) :
    exec (.sparseMmComplete t ecc) s = .next ((s.modT t fun T => { T.healed x with
      sp := runSparse x (T.copyOf x.index) T.sp (x.inst.desc 2).rows, engProg := SMap.set zeroAt 1 s.t3 T.engProg }).finishAsync t x) := by
  show execSparseMmComplete t ecc s = _
  rw [execSparseMmComplete, onUnit_next (decide_eq_true ht) hs]
  simp only [hx, hm, hn, hd, hw]
  rfl

theorem sparseMmComplete_badWord {w : Nat} (hn : s.sparseFault t x = none) (hd : s.sparseEnd t x ≤ s.clk.core)
    (hw : x.badWord (s.tl t).spUe ecc = some w) :
    exec (.sparseMmComplete t ecc) s = .next ((s.dropEntry t x).eccOperand t 1 x.index w) := by
  show execSparseMmComplete t ecc s = _
  rw [execSparseMmComplete, onUnit_next (decide_eq_true ht) hs]
  simp only [hx, hm, hn, hd, hw]
  rfl

theorem sparseBandFault_next {c : Nat} {v : FmtViol} (hn : s.sparseFault t x = some (c, v)) (hd : c ≤ s.clk.core) :
    exec (.sparseBandFault t) s = .next ((s.modT t fun T => { T with
      sp := runSparse x (T.copyOf x.index) T.sp v.written, checker := T.checker.filter fun y => y != x }).fmtViolation t 1 x.index v) := by
  show execSparseBandFault t s = _
  rw [execSparseBandFault, onUnit_next (decide_eq_true ht) hs]
  simp only [hx, hm, hn, hd]
  rfl

end

/-! ### Programs (04 R124) -/

/-- T with an entry marked finished. -/
def Tiller.markFinished (T : Tiller) (x : Entry) : Tiller := { T with checker := T.checker.map fun y => if y = x then { y with finished := true } else y }

section
variable (hx : (s.tl t).ldprog? s.clk.core = some x)
include hx

theorem trLdprogCheck_badWord {w : Nat} (hw : x.badWord (s.tl t).spUe ecc = some w) :
    exec (.trLdprogCheck t ecc) s = .next ((s.dropEntry t x).eccOperand t 2 x.index w) := by
  show execTrLdprogCheck t ecc s = _
  rw [execTrLdprogCheck, onUnit_next (decide_eq_true ht) hs]
  simp only [hx, hw]

section
variable {b : List Byte} (hb : b = ((x.inst.desc 0).rowBytes (s.tl t).sp (x.rowsOf 0)).take (4 * (x.inst.desc 0).count.toNat))
  (hw : x.badWord (s.tl t).spUe ecc = none)
include hb hw

theorem trLdprogCheck_loaded (hp : progFault b (s.dev.mode.getLsbD 0 && (s.tl t).img.seed.isNone) = none) :
    exec (.trLdprogCheck t ecc) s = .next (s.modT t fun T =>
      { T.markFinished x with progs := SMap.set progAt (progIndex x.inst) (progOf b) T.progs }) := by
  subst hb
  show execTrLdprogCheck t ecc s = _
  rw [execTrLdprogCheck, onUnit_next (decide_eq_true ht) hs]
  simp only [hx, hw, hp]
  rfl

theorem trLdprogCheck_invalid {o : Nat} (hp : progFault b (s.dev.mode.getLsbD 0 && (s.tl t).img.seed.isNone) = some o) :
    exec (.trLdprogCheck t ecc) s = .next ((s.modT t fun T => T.markFinished x).fmtViolation t 2 x.index
      { reason := 6, addr := (x.inst.desc 0).rowStart (x.rowsOf 0) 0 + o }) := by
  subst hb
  show execTrLdprogCheck t ecc s = _
  rw [execTrLdprogCheck, onUnit_next (decide_eq_true ht) hs]
  simp only [hx, hw, hp]
  rfl

end

end

/-! ### Rows of the address stream (03 R88) -/

section
variable {e : Nat} (h1 : 1 ≤ e) (h4 : e ≤ 4) (hx : (s.tl t).feeding e = some x) (hm : (s.tl t).mayComplete e = true)
  (hd : x.issue + x.rows.length * x.every ≤ s.clk.core)
include h1 h4 hx hm hd

theorem astreamRowFetch_empty (hf : SMap.get nilAt (s.tl t).fifos e = []) :
    exec (.astreamRowFetch t e) s = .next ((s.dropEntry t x).hazard t e x.index { cause := 8 }) := by
  show execAstreamRowFetch t e s = _
  rw [execAstreamRowFetch, onUnit_next (by simp [ht, h1, h4]) hs]
  simp only [hx, hm, hd, hf]
  rfl

theorem astreamRowFetch_row {a : Word} {rest : List Word} {s1 : State} (hf : SMap.get nilAt (s.tl t).fifos e = a :: rest)
    (hs1 : s1 = s.modT t fun T => { T with fifos := SMap.set nilAt e rest T.fifos }) :
    exec (.astreamRowFetch t e) s = .next (match (s.tl t).rowHazard s.clk.core x a.toNat with
      | some h => (s1.dropEntry t x).hazard t e x.index h
      | none => s1.setEntry t x (x.takeRow a.toNat)) := by
  subst hs1
  show execAstreamRowFetch t e s = _
  rw [execAstreamRowFetch, onUnit_next (by simp [ht, h1, h4]) hs]
  simp only [hx, hm, hd, hf]
  rfl

end

end

end

/-! ### The obligation -/

/-- Settles O38: each completion at its case of the model's, with what a result changes. -/
theorem engineResultsLandWithTheirEvents : Obligations.EngineResultsLandWithTheirEvents := by
  unfold Obligations.EngineResultsLandWithTheirEvents
  refine ⟨fun s t k x ht hs hk ha hm hd hfed hp => ?sync, fun s t x ht hs => ⟨fun hx hm hn hd ecc => ⟨sparseMmComplete_good ht hs hx hm hn hd,
      fun w => sparseMmComplete_badWord ht hs hx hm hn hd⟩, fun c v hx hm => sparseBandFault_next ht hs hx hm,
    fun ecc w hx => trLdprogCheck_badWord ht hs hx,
    fun ecc hx hw b hb => ⟨trLdprogCheck_loaded ht hs hx hb hw, fun o => trLdprogCheck_invalid ht hs hx hb hw⟩, fun e h1 h4 hx hm hd => ?feed⟩⟩
  case feed =>
    refine ⟨astreamRowFetch_empty ht hs h1 h4 hx hm hd, fun a rest s1 hf hs1 => ⟨fun hr => ?_, fun h hr => ?_⟩⟩ <;>
      rw [astreamRowFetch_row ht hs h1 h4 hx hm hd hf hs1, hr]
  case sync =>
    have hend := engineResultComplete_next ht hs hk ha hm hd hfed hp
    refine ⟨fun ecc s1 hl hw hsh hs1 => ⟨fun hf => ?_, fun hast hf => ?_⟩, fun ecc w hl => ?_, fun ecc w hl hw => ?_, fun ecc v hl hw h3 hv => ?_,
      fun d v hmn hast hw he hr hsd hv h0 => ?_, fun a v hmn hast hw he hr hv => ?_⟩
    · rw [hend, completeEntry_landed hl hw hsh hf, hs1]; rfl
    · rw [hend, completeEntry_leftOver hl hw hsh hast hf, hs1]; rfl
    · rw [hend, completeEntry_badLoad hl]
    · rw [hend, completeEntry_badWord hl hw]
    · rw [hend, completeEntry_shears hl hw h3 hv]
    · rw [hend, completeEntry_landed (badLoad_of_not_isLoad (by rw [hmn]; rfl)) hw (.inl (by omega)) (.inl hast)]
      exact ⟨_, rfl, landed_onlyTiller s t x, landed_mul hmn hr hsd hv h0⟩
    · rw [hend, completeEntry_landed (badLoad_of_not_isLoad (by rw [hmn]; rfl)) hw (.inl (by omega)) (.inl hast)]
      exact ⟨_, rfl, landed_onlyTiller s t x, landed_spst hmn hr hv⟩

end Sys2Proof.Machine

end

section

/-! The Mover's completions (03 R79, R85, R88, R92 to R94; 06 R202; 01 R20, R29, R32 to R34): the tile mesh, device memory, and packets sent and
received. -/

namespace Sys2Proof.Machine

section
variable {s : State} {t k : Nat} {x : Entry} (ht : t < 192) (hs : s.live = true)
include ht hs

/-! ### The tile mesh (03 R92 to R94) -/

section
variable (hx : s.moverEntry t k .mvMesh = some x)
include hx

section
variable {ecc : Option Nat} (h0 : x.started = none) (hi : x.issue < s.clk.core) (hp : s.clk.core % 256 = x.phase)
include h0 hi hp

theorem meshSlotStart_starts (hw : x.badWord (s.tl t).spUe ecc = none) :
    exec (.meshSlotStart t k ecc) s = .next ((s.setEntry t x { x with started := some s.clk.core }).moverProgress t) := by
  show execMeshSlotStart t k ecc s = _
  rw [execMeshSlotStart, onUnit_next (decide_eq_true ht) hs]
  simp only [hx, hw]
  exact congrArg _ (if_pos (by simp [h0, hi, hp]))

theorem meshSlotStart_badWord {w : Nat} (hw : x.badWord (s.tl t).spUe ecc = some w) :
    exec (.meshSlotStart t k ecc) s = .next ((s.dropEntry t x).eccOperand t 4 x.index w) := by
  show execMeshSlotStart t k ecc s = _
  rw [execMeshSlotStart, onUnit_next (decide_eq_true ht) hs]
  simp only [hx, hw]
  exact congrArg _ (if_pos (by simp [h0, hi, hp]))

end

section
variable {c : Nat} (h0 : x.started = some c)
include h0

/-- What the first word of a transfer finds at its destination (03 R94). -/
theorem meshArrival_next (hsh : s.isShadow t = false) (ha : x.arrived = false) (hd : c + meshHops t (meshDest x.inst) + 2 ≤ s.clk.core) :
    exec (.meshArrival t k) s = .next (match (s.tl (meshDest x.inst)).openClaim (meshChannel x.inst) with
      | some y => if meshBytes y.inst = meshBytes x.inst then
          (s.setEntry t x { x with arrived := true, admitted := true }).modT (meshDest x.inst) fun T =>
            { T with checker := T.checker.map fun z => if z = y then { z with arrived := true, peer := some (t, x.issue) } else z }
        else (s.setEntry t x { x with arrived := true }).hazard (meshDest x.inst) 6 y.index
          { cause := 12, range := y.dsts.head?.map toInt2, otherEngine := 6, otherIndex := y.index }
      | none => if ((s.setEntry t x { x with arrived := true }).tl (meshDest x.inst)).ctx.any (fun c => (s.ctx c).tear.isSome) then
          s.setEntry t x { x with arrived := true }
        else (s.setEntry t x { x with arrived := true }).hazard (meshDest x.inst) 6 0xFFFFFFFF { cause := 12 }) := by
  show execMeshArrival t k s = _
  rw [execMeshArrival, onUnit_next (decide_eq_true ht) hs]
  simp only [hx, h0, hsh]
  exact congrArg _ (if_pos (by simp [ha, hd]))

theorem meshTransferComplete_next (ha : x.arrived = true) (hm : x.admitted = true) (hd : meshEnd t x c ≤ s.clk.core) {y : Entry}
    (hy : (((s.moverProgress t).finishAsync t x).tl (meshDest x.inst)).checker.find?
      (fun z => z.inst.mn = .mvMrecv && z.peer == some (t, x.issue) && !z.finished) = some y) :
    exec (.meshTransferComplete t k) s = .next (((((s.moverProgress t).finishAsync t x).modT (meshDest x.inst) fun T =>
      T.putWords (y.inst.desc 0) [] (x.words (s.tl t))).recordIn (meshDest x.inst) (x.words (s.tl t))).finishAsync (meshDest x.inst) y) := by
  show execMeshTransferComplete t k s = _
  rw [execMeshTransferComplete, onUnit_next (decide_eq_true ht) hs]
  simp only [hx, h0, hm, if_true, hy]
  exact congrArg _ (if_pos (by simp [ha, hd]))

end

end

/-! ### Device memory (03 R85, R88; 01 R29, R32, R33) -/

section
variable (hsh : s.isShadow t = false)
include hsh

theorem mvGetComplete_next {ecc : Bool} {ce : List Nat} (hx : s.moverEntry t k .mvGet = some x) : exec (.mvGetComplete t k ecc ce) s =
    .next (if !s.accessOk t x.devAddr (x.inst.desc 0).words then s.moverFault t x faultNotPresent x.devAddr
      else match (if ecc then some x.devAddr else s.devUe x.devAddr (32 * (x.inst.desc 0).words)) with
        | some w => (s.countUe w).moverFault t x faultEcc w
        | none => (((((s.devCorrected x.devAddr (32 * (x.inst.desc 0).words) ce).modT t fun T =>
            T.putWords (x.inst.desc 0) (x.rowsOf 0) (s.devRead x.devAddr (x.inst.desc 0).words)).recordIn t
              (s.devRead x.devAddr (x.inst.desc 0).words)).moverProgress t).finishAsync t x).astLeft t x) := by
  show execMvGetComplete t k ecc ce s = _
  rw [execMvGetComplete, onUnit_next (decide_eq_true ht) hs]
  simp only [hx, hsh]
  rfl

theorem mvPutComplete_next {ecc : Bool} (hx : s.moverEntry t k .mvPut = some x) : exec (.mvPutComplete t k ecc) s =
    .next (match x.badWord (s.tl t).spUe (if ecc then x.srcs.head?.map (·.1) else none) with
      | some w => (s.dropEntry t x).eccOperand t 4 x.index w
      | none => if !s.accessOk t x.devAddr (x.inst.desc 0).words then s.moverFault t x faultNotPresent x.devAddr
        else ((((s.recordOut t (if x.inst.ast then x.words (s.tl t) else [])).devWrite x.devAddr (x.words (s.tl t))).moverProgress t).finishAsync
          t x).astLeft t x) := by
  show execMvPutComplete t k ecc s = _
  rw [execMvPutComplete, onUnit_next (decide_eq_true ht) hs]
  simp only [hx, hsh]
  rfl

/-! ### Packets sent (06 R202; 01 R32, R34) -/

section
variable {q : SendItem} {ecc : Option Nat} (hq : (s.tl t).sendQ.head? = some q) (hm : (s.tl t).mayComplete 4 = true)
include hq hm

omit hsh in
theorem mvSendAdmit_lane {p : Pkt} {i : Nat} {s1 : State} (hi : q.issue = none) (he : s.enter q.bytes 37 (some t) = some (some (p, i), s1)) :
    exec (.mvSendAdmit t ecc) s = .next ((s1.popSend t).enqueue i p) := by
  show execMvSendAdmit t ecc s = _
  rw [execMvSendAdmit, onUnit_next (decide_eq_true ht) hs]
  simp only [hq, hm, hi, he]
  rfl

section
variable {c : Nat} (hi : q.issue = some c) (hx : (s.tl t).sendEntry c = some x) (hf : x.allFed = true)
include hi hx hf

theorem mvSendAdmit_admits {r : Option (Pkt × Nat)} {s1 : State} (hw : x.badWord (s.tl t).spUe ecc = none)
    (he : s.enter (if x.inst.ast then x.inst.sendPacket (s.tl t).sp x.rows else q.bytes) 37 (some t) = some (r, s1)) :
    exec (.mvSendAdmit t ecc) s = .next (((s1.popSend t).setEntry t x { x with admitted := true, pkt := r.map (·.1) }).moverProgress t) := by
  show execMvSendAdmit t ecc s = _
  rw [execMvSendAdmit, onUnit_next (decide_eq_true ht) hs]
  simp only [hq, hm, hi, hx, hf, hsh, hw, he]
  rfl

theorem mvSendAdmit_badWord {w : Nat} (hw : x.badWord (s.tl t).spUe ecc = some w) :
    exec (.mvSendAdmit t ecc) s = .next (((s.popSend t).dropEntry t x).eccOperand t 4 x.index w) := by
  show execMvSendAdmit t ecc s = _
  rw [execMvSendAdmit, onUnit_next (decide_eq_true ht) hs]
  simp only [hq, hm, hi, hx, hf, hsh, hw]
  rfl

end

end

omit hsh in
theorem mvSendComplete_next {p : Pkt} {i : Nat} (hx : (s.tl t).checker.find? (fun x => x.inst.mn = .mvSend && x.admitted && !x.finished) = some x)
    (hm : (s.tl t).mayComplete 4 = true) (hp : x.pkt = some p) (hi : s.sliceFor 37 t = some i) :
    exec (.mvSendComplete t) s = .next (((((s.enqueue i p).moverProgress t).finishAsync t x).exemptEnds t).astLeft t x) := by
  show execMvSendComplete t s = _
  rw [execMvSendComplete, onUnit_next (decide_eq_true ht) hs]
  simp only [hx, hm, hp, hi]
  rfl

/-! ### Packets received (03 R79; 01 R20, R32; 07 R221) -/

omit hsh in
theorem receiveQueueArrival_next {q : Nat × Pkt} {ecc : Option Nat} {s1 : State} (hq : s.fab.transit.find? (fun q => q.1 == t) = some q)
    (hr : (s.tl t).recvQ.length < recvMax) (hs1 : s1 = s.modFab fun b => { b with transit := b.transit.erase q }) :
    exec (.receiveQueueArrival t ecc) s = .next (match ecc with
      | some w => if 2 ≤ w then (s1.dropPkt q.2 37 dropEcc).deliveryLost q.2 37 dropEcc else s1.dropPkt q.2 37 dropEcc
      | none => s1.modT t fun T => { T with recvQ := T.recvQ ++ [{ q.2 with stamp := s1.coreTime }] }) := by
  subst hs1
  show execReceiveQueueArrival t ecc s = _
  rw [execReceiveQueueArrival, onUnit_next (decide_eq_true ht) hs]
  simp only [hq]
  exact congrArg _ (if_neg (by omega))

theorem mvRecvComplete_next {p : Pkt} {rest : List Pkt} (hx : (s.tl t).recvClaim = some x) (hm : (s.tl t).mayComplete 4 = true)
    (hq : (s.tl t).recvQ = p :: rest) (hp : p.kind = 1 → p.origin ≠ 0) : exec (.mvRecvComplete t) s =
    .next ((((((((s.release p).modT t fun T => { (T.putPacket (x.inst.desc 0) (x.rowsOf 0) (claimBytes p.bytes s.freeNat)) with
      recvQ := rest }).recordIn t p.bytes).drawn).moverProgress t).finishAsync t x).exemptEnds t).astLeft t x) := by
  show execMvRecvComplete t s = _
  rw [execMvRecvComplete, onUnit_next (decide_eq_true ht) hs]
  simp only [hx, hm, hsh, hq]
  have hmgmt : ¬(decide (p.kind = 1) && p.origin == 0) = true := by simpa using hp
  exact congrArg _ (if_neg hmgmt)

end

end

/-! ### The obligations -/

/-- Settles O39: each completion at its case of the model's. -/
theorem transfersReachMeshAndMemory : Obligations.TransfersReachMeshAndMemory := by
  unfold Obligations.TransfersReachMeshAndMemory
  refine ⟨fun s t k x ht hs hx hsh => ⟨fun h0 hi hp ecc => ⟨meshSlotStart_starts ht hs hx h0 hi hp, fun w => meshSlotStart_badWord ht hs hx h0 hi hp⟩,
      fun c y h0 ha hd hy hb => ?other, fun c y h0 ha hd hy hb => ?matched, fun c h0 ha hd hy hctx => ?none,
      fun c y h0 ha hm hd hy => meshTransferComplete_next ht hs hx h0 ha hm hd hy⟩,
    fun s t k x ht hs hsh => ⟨fun hx ce n b hn hb => ?get, fun hx ecc bad hbad => ?put⟩⟩
  case other => rw [meshArrival_next ht hs hx h0 hsh ha hd, hy]; simp only [if_neg hb]
  case matched => rw [meshArrival_next ht hs hx h0 hsh ha hd, hy]; simp only [if_pos hb]
  case none =>
    have hkeep : ((s.setEntry t x { x with arrived := true }).tl (meshDest x.inst)).ctx = (s.tl (meshDest x.inst)).ctx := by
      rw [State.setEntry, State.modT_tl']
      split
      · next he => rw [he]
      · rfl
    rw [meshArrival_next ht hs hx h0 hsh ha hd, hy]
    have hlive : ¬(s.tl (meshDest x.inst)).ctx.any (fun n => (s.ctx n).tear.isSome) = true := by
      rw [Option.any_eq_true]
      rintro ⟨n, hn, ht⟩
      simp [hctx n hn] at ht
    simp only [hkeep, if_neg hlive]
  case get =>
    subst hn hb
    refine ⟨fun hok hue => ?_, fun w hok hue => ?_, fun hok => ?_, fun ecc hok => ?_⟩ <;> rw [mvGetComplete_next ht hs hsh hx, hok]
    · simp [hue]
    · simp [hue]
    · simp
    · simp
  case put =>
    refine ⟨fun hb hok => ?_, fun w hb => ?_, fun hb hok => ?_⟩ <;> rw [mvPutComplete_next ht hs hsh hx, ← hbad, hb]
    · simp [hok]
    · simp [hok]

/-- Settles O40: each completion at its case of the model's. -/
theorem tillersSendAndReceive : Obligations.TillersSendAndReceive := by
  unfold Obligations.TillersSendAndReceive
  refine fun s t ht hs hsh => ⟨fun q p i s1 ecc hq hm => mvSendAdmit_lane ht hs hq hm,
    fun q c x ecc hq hm hi hx hf => ⟨fun r s1 => mvSendAdmit_admits ht hs hsh hq hm hi hx hf, fun w => mvSendAdmit_badWord ht hs hsh hq hm hi hx hf⟩,
    fun x p i => mvSendComplete_next ht hs,
    fun q s1 hq hr hs1 => ⟨?arrives, fun w hw => ?header, fun w hw => ?payload⟩,
    fun x p rest => mvRecvComplete_next ht hs hsh⟩
  case arrives => rw [receiveQueueArrival_next ht hs hq hr hs1]
  case header => rw [receiveQueueArrival_next ht hs hq hr hs1]; exact congrArg _ (if_neg (by omega))
  case payload => rw [receiveQueueArrival_next ht hs hq hr hs1]; exact congrArg _ (if_pos hw)

end Sys2Proof.Machine

end

section

/-! The life of a context (03 R80, R81; 08 R237; 10 R296; 13 R363; 01 R38): created, loaded, started, stopped and torn down. -/

namespace Sys2Proof.Machine

section
variable {s : State} {c x : Nat} {k : Cmd}

/-! ### CTX_CREATE (10 R296) -/

section
variable (h : s.carries 0x0201 c k)
include h

theorem ctxCreate_badParam (hp : 1 < fieldAt k.params 0 1 ∨ fieldAt k.params 2 2 ≠ 0) :
    exec (.ctxCreate c) s = .next ((s.take c).finish c stBadParam) := by
  show execCtxCreate c s = _
  rw [execCtxCreate, runCmd_next h]
  exact congrArg _ (if_pos (by simpa using hp))

section
variable (h0 : fieldAt k.params 0 1 ≤ 1) (h2 : fieldAt k.params 2 2 = 0)
include h0 h2

theorem ctxCreate_created (hx : s.freeCtx = some x) : exec (.ctxCreate c) s = .next (((s.take c).modCtx x fun _ =>
    { live := true, ring := fieldAt k.params 1 1, diag := fieldAt k.params 0 1 == 1 }).finish c stOk [x, (s.epoch x).toNat]) := by
  show execCtxCreate c s = _
  rw [execCtxCreate, runCmd_next h]
  simp only [State.take_freeCtx, hx]
  exact congrArg _ (if_neg (by simp [h0, h2]))

theorem ctxCreate_noFit (hx : s.freeCtx = none) : exec (.ctxCreate c) s = .next ((s.take c).finish c stNoFit) := by
  show execCtxCreate c s = _
  rw [execCtxCreate, runCmd_next h]
  simp only [State.take_freeCtx, hx]
  exact congrArg _ (if_neg (by simp [h0, h2]))

end

end

/-! ### CTX_LOAD (10 R296; 03 R80; 01 R38; 08 R237) -/

theorem State.take_ctxOk (s : State) (c x : Nat) : (s.take c).ctxOk x = s.ctxOk x := rfl

/-- The domains an image needs are told by its context and the power state. -/
theorem State.domainsWanted_congr {s s' : State} (hc : s'.ctx x = s.ctx x) (hp : s'.pwr = s.pwr) (b : List Byte) :
    s'.domainsWanted x b = s.domainsWanted x b := by
  unfold State.domainsWanted State.domOn
  rw [hc, hp]

section
variable {img : List Byte} {sizes phases : List Nat} (h : s.carries 0x0202 c k) (hx : fieldAt k.params 0 4 = x)
include h hx

omit hx in
theorem ctxLoad_badFields (hf : loadFieldsOk k img = false) : exec (.ctxLoad c img sizes phases) s = .next ((s.take c).finish c stBadParam) := by
  show execCtxLoad c img sizes phases s = _
  rw [execCtxLoad, runCmd_next h]
  exact congrArg _ (if_pos (by rw [hf]; rfl))

section
variable (hf : loadFieldsOk k img = true)
include hf

theorem ctxLoad_gone (hc : s.ctxOk x = false) : exec (.ctxLoad c img sizes phases) s = .next ((s.take c).finish c stContextGone) := by
  subst hx
  show execCtxLoad c img sizes phases s = _
  rw [execCtxLoad, runCmd_next h]
  simp [hf, State.take_ctxOk, hc]

section
variable (hc : s.ctxOk x = true)
include hc

theorem ctxLoad_again (hl : (s.ctx x).loaded = true) : exec (.ctxLoad c img sizes phases) s = .next ((s.take c).finish c stBadParam) := by
  subst hx
  show execCtxLoad c img sizes phases s = _
  rw [execCtxLoad, runCmd_next h]
  simp [hf, State.take_ctxOk, hc, hl]

/-- A CTX_LOAD that keeps its own rules ends as the placing of its image does. -/
theorem ctxLoad_next (hl : (s.ctx x).loaded = false) : exec (.ctxLoad c img sizes phases) s =
    .next (match (s.take c).loadImage { cmd := some c } x img sizes phases with
      | .got _ s2 => if (s.domainsWanted x img).isEmpty then (s2.finish c stOk [sizes.foldl max 0]).leaveQueue { cmd := some c }
        else s.requestDomains (s.domainsWanted x img)
      | .empty => ((s.take c).finish c ((s.take c).loadStatus x img sizes phases)).leaveQueue { cmd := some c }
      | .noFit => ((s.take c).finish c stNoFit).leaveQueue { cmd := some c }
      | .wait w => (s.requestDomains (s.domainsWanted x img)).await { cmd := some c } w) := by
  subst hx
  show execCtxLoad c img sizes phases s = _
  rw [execCtxLoad, runCmd_next h]
  simp only [hf, State.take_ctxOk, hc, State.take_ctx', hl, State.domainsWanted_congr (State.take_ctx' s c _) (State.take_pwr s c)]
  rfl

end

end

end

/-! ### CTX_START and CTX_STOP (03 R81; 10 R296) -/

section
variable (h : s.carries 0x0203 c k) (hx : fieldAt k.params 0 4 = x) (hm : s.clk.core % 256 = 0)
include h hx hm

theorem ctxStart_next : exec (.ctxStart c) s = .next (if !s.ctxOk x then (s.take c).finish c stContextGone
    else if !(s.ctx x).loaded || (s.ctx x).started then (s.take c).finish c stBadParam else ((s.take c).startAll x).finish c stOk) := by
  subst hx
  show execCtxStart c s = _
  rw [execCtxStart, if_neg (not_not_intro hm), runCmd_next h]
  rfl

end

section
variable {ms : Nat} (h : s.carries 0x0204 c k) (hx : fieldAt k.params 0 4 = x) (hms : ms = fieldAt k.params 4 4)
include h hx hms

theorem ctxStop_next : exec (.ctxStop c) s = .next (if 60000 < ms then (s.take c).finish c stBadParam
    else if !s.ctxOk x then (s.take c).finish c stContextGone
    else if !(s.ctx x).everStarted then (s.take c).finish c stBadParam
    else ((s.ctx x).tillers.foldl (fun s t => s.modT t fun T => { T with stopReq := T.run == .running })
      ((s.take c).modCtx x fun C => { C with stops := C.stops ++ [(c, s.t3 + msec (if ms = 0 then 1000 else ms))] })).stopCheck x) := by
  subst hx hms
  show execCtxStop c s = _
  rw [execCtxStop, runCmd_next h]
  rfl

end

theorem ctxStopTimeout_next {late : List (Nat × Nat)} {run : List Nat} (hx : x < 256) (hs : s.live = true)
    (hl : late = (s.ctx x).stops.filter fun p => decide (p.2 ≤ s.t3)) (hne : late ≠ [])
    (hr : run = (s.ctx x).tillers.filter fun t => (s.tl t).run = .running) : exec (.ctxStopTimeout x) s =
    .next (((late.foldl (fun s p => s.finish p.1 stTimeout [run.length]) (run.foldl State.stopTiller s)).modCtx x fun C =>
      { C with stops := C.stops.filter fun p => !late.contains p, started := false }).stopCheck x) := by
  subst hl hr
  show execCtxStopTimeout x s = _
  rw [execCtxStopTimeout, onUnit_next (decide_eq_true hx) hs]
  exact congrArg _ (if_neg (by simpa using hne))

/-! ### CTX_TEARDOWN (13 R363) -/

theorem ctxTeardown_next (h : s.carries 0x0205 c k) (hx : fieldAt k.params 0 4 = x) :
    exec (.ctxTeardown c) s = .next (if s.ctxOk x then (s.take c).tearBegin x (some c) else (s.take c).finish c stContextGone) := by
  subst hx
  show execCtxTeardown c s = _
  rw [execCtxTeardown, runCmd_next h]
  rfl

theorem teardownEngineTimeout_next {t e : Nat} {r : Tear} (ht : t < 192) (he : e < 6) (hs : s.live = true) (hx : (s.tl t).ctx = some x)
    (hr : (s.ctx x).tear = some r) (h1 : r.step = 1) (ha : s.after r.since (usec 100) = true) (hn : (s.tl t).reset = none)
    (hw : (s.tl t).working s.clk.core e = true) :
    exec (.teardownEngineTimeout t e) s = .next ((s.discardSteps t).beginReset t [e] 0 none) := by
  show execTeardownEngineTimeout t e s = _
  rw [execTeardownEngineTimeout, onUnit_next (by simp [ht, he]) hs]
  simp only [hx, hr]
  exact congrArg _ (if_pos (by simp [h1, ha, hn, hw]))

theorem teardownWritesAcked_next {r : Tear} (hx : x < 256) (hs : s.live = true) (hr : (s.ctx x).tear = some r) (h4 : r.step = 4)
    (hq : ∀ t ∈ (s.ctx x).tillers, (s.tl t).sendQ = [] ∧ s.quiet t = true) : exec (.teardownWritesAcked x) s =
    .next (match r.cmd with
      | some c => (s.tearRelease x).finish c stOk
      | none => s.tearRelease x) := by
  show execTeardownWritesAcked x s = _
  rw [execTeardownWritesAcked, onUnit_next (decide_eq_true hx) hs]
  simp only [hr]
  exact congrArg _ (if_pos (by simpa [h4] using hq))

end

/-! ### The obligation -/

/-- Settles O41: each command and each timer at its case of the model's. -/
theorem contextsLiveFromCreateToTeardown : Obligations.ContextsLiveFromCreateToTeardown := by
  unfold Obligations.ContextsLiveFromCreateToTeardown
  refine ⟨fun s c k => ⟨fun h => ⟨fun h0 h2 => ⟨fun x => ctxCreate_created h h0 h2, ctxCreate_noFit h h0 h2⟩, ctxCreate_badParam h⟩,
      fun x img sizes phases s1 h hx hs1 => ?load⟩,
    fun s c x k => ⟨fun h hx hm => ⟨fun hc hl hst => ?start, fun hc hl => ?startBad, fun hc => ?startGone⟩,
      fun ms h hx hms => ⟨fun hle hc he => ?stop, fun hlt => ?stopLong, fun hle hc => ?stopGone, fun hle hc he => ?stopNew⟩,
      fun late hx hs hl hne run => ctxStopTimeout_next hx hs hl hne,
      fun h hx => ⟨fun hc => ?tear, fun hc => ?tearGone⟩, fun t e r => teardownEngineTimeout_next,
      fun r hx hs hr h4 hq => ⟨fun c hc => ?acked, fun hc => ?ackedAlone⟩⟩⟩
  case load =>
    subst hs1
    refine ⟨ctxLoad_badFields h, ctxLoad_gone h hx, ctxLoad_again h hx, fun hf hc hl => ?_⟩
    rw [ctxLoad_next h hx hf hc hl]
    refine ⟨fun v s2 hg hd => ?_, fun v s2 hg hd => ?_, fun he => ?_, fun hn => ?_, fun w hw => ?_⟩
    · rw [hg]; simp [hd]
    · rw [hg]; simp [hd]
    · rw [he]
    · rw [hn]
    · rw [hw]
  case start => rw [ctxStart_next h hx hm]; simp [hc, hl, hst]
  case startBad =>
    have hbad : (!(s.ctx x).loaded || (s.ctx x).started) = true := by simpa using hl
    rw [ctxStart_next h hx hm, hbad]
    simp [hc]
  case startGone => rw [ctxStart_next h hx hm]; simp [hc]
  case stop => rw [ctxStop_next h hx hms]; simp [not_lt.mpr hle, hc, he]
  case stopLong => rw [ctxStop_next h hx hms, if_pos hlt]
  case stopGone => rw [ctxStop_next h hx hms]; simp [not_lt.mpr hle, hc]
  case stopNew => rw [ctxStop_next h hx hms]; simp [not_lt.mpr hle, hc, he]
  case tear => rw [ctxTeardown_next h hx, if_pos hc]
  case tearGone => rw [ctxTeardown_next h hx, if_neg (by simp [hc])]
  case acked => rw [teardownWritesAcked_next hx hs hr h4 hq, hc]
  case ackedAlone => rw [teardownWritesAcked_next hx hs hr h4 hq, hc]

end Sys2Proof.Machine

end

section

/-! Seedbank (08 R233 to R242; 01 R38): requests decided, buffers given back, rebuilds ended, pools configured. -/

namespace Sys2Proof.Machine

section
variable {s : State}

/-! ### BUF_ALLOC (08 R237) -/

section
variable {c : Nat} {k : Cmd} (h : s.carries 0x0602 c k)
include h

theorem bufAlloc_badPool (hp : allocPool (fieldAt k.params 2 1) (fieldAt k.params 8 8) = none) :
    exec (.bufAlloc c) s = .next ((s.take c).finish c stBadParam) := by
  show execBufAlloc c s = _
  rw [execBufAlloc, runCmd_next h]
  simp only [hp]

theorem bufAlloc_asks {p : Nat} (hp : allocPool (fieldAt k.params 2 1) (fieldAt k.params 8 8) = some p)
    (hl : listExists p (fieldAt k.params 3 1) = true) (ho : fieldAt k.params 0 2 ≤ 255 ∨ fieldAt k.params 0 2 = 0x101)
    (hz : fieldAt k.params 4 1 ≤ 1) (hr : fieldAt k.params 5 3 = 0) : exec (.bufAlloc c) s = .next ((s.take c).sbAsk
      { cmd := some c, owner := fieldAt k.params 0 2, pool := p, list := fieldAt k.params 3 1, zero := fieldAt k.params 4 1 == 1 }) := by
  have hown : ¬(255 < fieldAt k.params 0 2 ∧ fieldAt k.params 0 2 ≠ 0x101) := by omega
  show execBufAlloc c s = _
  rw [execBufAlloc, runCmd_next h]
  simp only [hp]
  exact congrArg _ (if_neg (by simpa [hl, hr, hz] using hown))

end

/-! ### A request is decided (08 R237, R242; 01 R38) -/

section
variable {q : SbReq} {L : Nat} (hL : L = s.chooseList q.pool q.list)
include hL

omit hL in
theorem sbAsk_gone (ho : q.owner < 0x100) (hc : s.ctxOk q.owner = false) : s.sbAsk q = s.sbReply q stContextGone [] := by
  rw [State.sbAsk]
  exact if_pos (by simp [ho, hc])

section
variable (hc : q.owner < 0x100 → s.ctxOk q.owner = true)
include hc

/-- A request of a context that is there is decided by what it must wait for and what its list holds. -/
theorem sbAsk_decided : s.sbAsk q = (match s.mustWait { q with mark := true } L with
    | some (.domain d) => if s.pwr.keepOff.getLsbD d then s.sbReply q stNoFit []
      else (s.requestDomains [d]).modSeed fun b => { b with waiting := b.waiting ++ [{ q with on := L }] }
    | some (.list _ _) => s.modSeed fun b => { b with waiting := b.waiting ++ [{ q with on := L }] }
    | none =>
      if !s.mayTake q.owner q.pool then s.sbReply q stPoolEmpty []
      else match (if 0 < s.listFree L then s.listHead L else none) with
        | none => s.sbReply q stPoolEmpty []
        | some i => if s.headerOk L i then (s.handOut L i q.owner none q.zero).sbReply q stOk
            [s.bufAddr L i % 2 ^ 32, s.bufAddr L i / 2 ^ 32, q.pool, dieOfList L]
          else ((s.quarantine L i).modList L fun l => { l with rebuilding := true }).modSeed fun b =>
            { b with waiting := b.waiting ++ [{ q with on := L }] }) := by
  subst hL
  rw [State.sbAsk]
  exact if_neg (by simpa using hc)

theorem sbAsk_poolEmpty (hw : s.mustWait { q with mark := true } L = none)
    (he : s.mayTake q.owner q.pool = false ∨ s.listFree L = 0 ∨ s.listHead L = none) : s.sbAsk q = s.sbReply q stPoolEmpty [] := by
  rw [sbAsk_decided hL hc, hw]
  rcases he with he | he | he <;> simp [he]

section
variable {i : Nat} (hw : s.mustWait { q with mark := true } L = none) (hm : s.mayTake q.owner q.pool = true) (hf : 0 < s.listFree L)
  (hh : s.listHead L = some i)
include hw hm hf hh

theorem sbAsk_handsOut (hok : s.headerOk L i = true) : s.sbAsk q = (s.handOut L i q.owner none q.zero).sbReply q stOk
    [s.bufAddr L i % 2 ^ 32, s.bufAddr L i / 2 ^ 32, q.pool, dieOfList L] := by
  rw [sbAsk_decided hL hc, hw, if_pos hf, hh]
  simp only [hm, hok]
  rfl

theorem sbAsk_rebuilds (hok : s.headerOk L i = false) :
    s.sbAsk q = ((s.quarantine L i).modList L fun l => { l with rebuilding := true }).modSeed fun b =>
      { b with waiting := b.waiting ++ [{ q with on := L }] } := by
  rw [sbAsk_decided hL hc, hw, if_pos hf, hh]
  simp only [hm, hok]
  rfl

end

end

end

/-! ### Frees (08 R239) -/

section
variable {o a L i : Nat} (hc : o < 0x100 → s.ctxOk o = true) (hb : s.bufferOf a = some (L, i)) (ha : s.bufAddr L i = a)
include hc hb ha

/-- A free that names a buffer, by an owner that is there. -/
theorem sbFree_buffer : s.sbFree o a = if !(s.sbEntry L i).alloc || (s.sbEntry L i).quar then (stDoubleFree, s)
    else if (s.sbEntry L i).owner ≠ o || (s.sbEntry L i).slot.isSome then (stBadParam, s) else (stOk, s.giveBack L i) := by
  rw [State.sbFree, if_neg (by simpa using hc)]
  simp only [hb, ha, ne_eq, not_true, if_false]

theorem sbFree_given (hal : (s.sbEntry L i).alloc = true) (hq : (s.sbEntry L i).quar = false) (ho : (s.sbEntry L i).owner = o)
    (hs : (s.sbEntry L i).slot = none) : s.sbFree o a = (stOk, s.giveBack L i) := by
  rw [sbFree_buffer hc hb ha]
  simp [hal, hq, ho, hs]

theorem sbFree_double (hd : (s.sbEntry L i).alloc = false ∨ (s.sbEntry L i).quar = true) : s.sbFree o a = (stDoubleFree, s) := by
  rw [sbFree_buffer hc hb ha]
  exact if_pos (by simpa using hd)

end

theorem bufFree_next {c : Nat} {k : Cmd} (h : s.carries 0x0603 c k) (hz : fieldAt k.params 2 6 = 0) {r : Nat × State}
    (hr : (s.take c).sbFree (fieldAt k.params 0 2) (fieldAt k.params 8 8) = r) : exec (.bufFree c) s = .next (r.2.finish c r.1) := by
  subst hr
  show execBufFree c s = _
  rw [execBufFree, runCmd_next h]
  exact congrArg _ (if_neg (not_not_intro hz))

/-! ### Requests of service Tillers (08 R237, R239) -/

section
variable {t : Nat} {r : SbAsk} (ht : t < 192) (hs : s.live = true) (hon : s.pfx.on = true) (htl : s.pfx.tillers.contains t = true)
include ht hs hon htl

theorem seedbankRequest_free (hr : r.free = true) : exec (.seedbankRequest t r) s =
    .next (if (s.sbFree r.owner r.addr).1 = stDoubleFree then
        s.almQueue { type := 0x0B, ctx := s.pfx.ctx, unit := t, detail := memDetail 7 0xFF noneField r.addr }
      else (s.sbFree r.owner r.addr).2) := by
  show execSeedbankRequest t r s = _
  rw [execSeedbankRequest, onUnit_next (decide_eq_true ht) hs]
  simp only [hon, htl, hr]
  rfl

theorem seedbankRequest_asks (hr : r.free = false) (hp : r.pool ≤ 4) (hl : listExists r.pool r.list = true) :
    exec (.seedbankRequest t r) s = .next (s.sbAsk { tiller := t, owner := r.owner, pool := r.pool, list := r.list }) := by
  show execSeedbankRequest t r s = _
  rw [execSeedbankRequest, onUnit_next (decide_eq_true ht) hs]
  have hkeeps : ¬(decide (4 < r.pool) || !listExists r.pool r.list) = true := by simpa [hl] using hp
  exact congrArg _ ((if_neg (by rw [hon, htl]; simp)).trans ((if_neg (by simp [hr])).trans (if_neg hkeeps)))

end

/-! ### Rebuilds (08 R242) -/

theorem seedbankRebuildDone_next {L : Nat} (hL : L < 18) (hs : s.live = true) : exec (.seedbankRebuildDone L) s =
    .next (if (s.sbList L).rebuilding then ((s.modList L fun l => { l with drained := false }).rebuildList L).sbServe L else s.sbServe L) := by
  show execSeedbankRebuildDone L s = _
  rw [execSeedbankRebuildDone, onUnit_next (decide_eq_true hL) hs]

/-! ### POOL_CONFIG (08 R234, R236) -/

/-- Of a little-endian field of several bytes, the first is the low one. -/
theorem fieldAt_mod_256 (l : List Byte) (o n : Nat) : fieldAt l o (n + 1) % 256 = fieldAt l o 1 := by
  unfold fieldAt
  cases l.drop o with
  | nil => rfl
  | cons b t =>
    have hb := b.isLt
    simp only [List.take_succ_cons, leNat, List.take_zero]
    omega

section
variable {c : Nat} {k : Cmd} (h : s.carries 0x0601 c k)
include h

theorem poolConfigMinima_next (hsub : fieldAt k.params 0 4 = 1) (hz : allZero (k.params.drop 24) = true) {s1 : State}
    (hs1 : s1 = (s.take c).setMinima 0x101 ((List.range 5).map fun i => fieldAt k.params (4 + 4 * i) 4)) :
    exec (.poolConfigMinima c) s = .next (if s1.minimaFit then s1.finish c stOk else (s.take c).finish c stNoFit) := by
  have hmine : (fieldAt k.params 0 1 == 1) = true := by rw [← fieldAt_mod_256 _ _ 3, hsub]; rfl
  subst hs1
  show execPoolConfigMinima c s = _
  rw [execPoolConfigMinima, runSub_next h hmine]
  exact congrArg _ (if_neg (by simp [hsub, hz]))

section
variable (hsub : fieldAt k.params 0 4 = 0)
include hsub

theorem poolConfigCounts_next : exec (.poolConfigCounts c) s =
    .next (if (s.seed.entries.any fun p => decide (p.1 / 2 ^ 22 < 16) && (p.2.alloc || p.2.quar)) || !countsFit (poolCounts k.params) then
        (s.take c).finish c stBadParam
      else if 4194304 < (poolCounts k.params).foldl (· + ·) 0 + 122880 then (s.take c).finish c stNoFit
      else if ((s.take c).layPools (poolCounts k.params)).minimaFit then ((s.take c).layPools (poolCounts k.params)).finish c stOk
      else (s.take c).finish c stNoFit) := by
  have hmine : (fieldAt k.params 0 1 != 1) = true := by rw [← fieldAt_mod_256 _ _ 3, hsub]; rfl
  show execPoolConfigCounts c s = _
  rw [execPoolConfigCounts, runSub_next h hmine]
  exact congrArg _ (if_neg (not_not_intro hsub))

theorem poolConfigCounts_badParam (hf : countsFit (poolCounts k.params) = false) :
    exec (.poolConfigCounts c) s = .next ((s.take c).finish c stBadParam) := by
  rw [poolConfigCounts_next h hsub, if_pos (by simp [hf])]

theorem poolConfigCounts_laid {s1 : State} (hs1 : s1 = (s.take c).layPools (poolCounts k.params))
    (hfree : ∀ p ∈ s.seed.entries, p.1 / 2 ^ 22 < 16 → p.2.alloc = false ∧ p.2.quar = false) (hf : countsFit (poolCounts k.params) = true) :
    exec (.poolConfigCounts c) s = .next (if (poolCounts k.params).foldl (· + ·) 0 + 122880 ≤ 4194304 ∧ s1.minimaFit = true then s1.finish c stOk
      else (s.take c).finish c stNoFit) := by
  have hnone : (s.seed.entries.any fun p => decide (p.1 / 2 ^ 22 < 16) && (p.2.alloc || p.2.quar)) = false := by
    rw [List.any_eq_false]
    intro p hp
    by_cases hlow : p.1 / 2 ^ 22 < 16
    · simp [hfree p hp hlow]
    · rw [decide_eq_false hlow]
      simp
  subst hs1
  rw [poolConfigCounts_next h hsub, hnone, hf, if_neg (by simp)]
  by_cases hsum : (poolCounts k.params).foldl (· + ·) 0 + 122880 ≤ 4194304
  · rw [if_neg (by omega)]
    exact congrArg _ (if_congr (by simp [hsum]) rfl rfl)
  · rw [if_pos (by omega), if_neg (fun hboth => hsum hboth.1)]

end

end

end

/-! ### The obligation -/

/-- Settles O42: each request and each command at its case of the model's. -/
theorem seedbankServes : Obligations.SeedbankServes := by
  unfold Obligations.SeedbankServes
  refine ⟨fun s c k h => ⟨fun p hp hl ho hz hr q hq => ?alloc, bufAlloc_badPool h⟩,
    fun s q L hL => ⟨sbAsk_gone, fun hc => ⟨fun l b hw => ?list, fun d hw => ?domain, fun hw => ⟨sbAsk_poolEmpty hL hc hw,
      fun i hm hf hh => ⟨sbAsk_handsOut hL hc hw hm hf hh, sbAsk_rebuilds hL hc hw hm hf hh⟩⟩⟩⟩,
    fun s c k L i h hz hc hb ha => ⟨fun hal hq ho hs => ?given, fun hd => ?double⟩,
    fun s t r ht hs hon htl => ⟨seedbankRequest_asks ht hs hon htl, fun hr hd => ?freed, fun hr hd => ?freedTwice⟩,
    fun s L hL hs => ⟨fun hr => ?rebuilt, fun hr => ?idle⟩,
    fun s s1 c k h hsub hz => poolConfigMinima_next h hsub hz,
    fun s s1 c k h hsub hs1 => ⟨poolConfigCounts_laid h hsub hs1, poolConfigCounts_badParam h hsub⟩⟩
  case alloc => rw [hq, bufAlloc_asks h hp hl ho hz hr]
  case list => rw [sbAsk_decided hL hc, hw]
  case domain => rw [sbAsk_decided hL hc, hw]
  case given =>
    have hfree := sbFree_given (s := s.take c) (a := fieldAt k.params 8 8) hc hb ha hal hq ho hs
    rw [bufFree_next h hz hfree]
  case double =>
    have hfree := sbFree_double (s := s.take c) (a := fieldAt k.params 8 8) hc hb ha hd
    rw [bufFree_next h hz hfree]
  case freed => rw [seedbankRequest_free ht hs hon htl hr, if_neg hd]
  case freedTwice => rw [seedbankRequest_free ht hs hon htl hr, if_pos hd]
  case rebuilt => rw [seedbankRebuildDone_next hL hs, if_pos hr]
  case idle => rw [seedbankRebuildDone_next hL hs, if_neg (by simp [hr])]

end Sys2Proof.Machine

end

section

/-! COLL_POST (10 R299, R300; 05 R172; 01 R32): posts sent, their answers taken at port 36, and STEP_REPLAY. -/

namespace Sys2Proof.Machine

section
variable {s : State} {c : Nat} {k : Cmd}

/-! ### Posts (10 R299) -/

section
variable (h : s.carries 0x0302 c k)
include h

theorem collPostContrib_next {data : List Byte} (hk : fieldAt k.params 1 1 = 0 ∨ 2 < fieldAt k.params 1 1) :
    exec (.collPostContrib c data) s = .next ((s.take c).startPost k data) :=
  runSub_next h (by simpa using hk) _

theorem collPostCounts_next {data : List Byte} (hk : fieldAt k.params 1 1 = 1) :
    exec (.collPostCounts c data) s = .next ((s.take c).startPost k data) :=
  runSub_next h (mine := fun k => fieldAt k.params 1 1 == 1) (by simpa using hk) _

theorem collPostResultRequest_next (hk : fieldAt k.params 1 1 = 2) : exec (.collPostResultRequest c) s = .next ((s.take c).startPost k []) :=
  runSub_next h (mine := fun k => fieldAt k.params 1 1 == 2) (by simpa using hk) _

end

/-- A post of a kind that is not listed is refused. -/
theorem startPost_unlisted {data : List Byte} (hk : 2 < fieldAt k.params 1 1) : s.startPost k data = s.finish k.id stBadParam := by
  have hbad : decide (k.post.kind ≤ 2) = false := decide_eq_false (not_le.mpr hk)
  rw [State.startPost, if_neg]
  simp [State.postOk, hbad]

/-! ### Answers at port 36 (10 R300; 05 R172) -/

section
variable {p : Pkt} {ps : List Post} (hs : s.live = true) (hp : s.postHead = some (p, ps))
include hs hp

theorem postPacketArrival_ecc (w : Nat) : exec (.postPacketArrival (some w)) s =
    .next ((s.dropPkt p 36 dropEcc).modFab fun b => { b with txPkt := SMap.set noneAt 36 none b.txPkt }) := by
  show execPostPacketArrival (some w) s = _
  rw [execPostPacketArrival, onEvent_next hs, hp]
  rfl

theorem postPacketArrival_taken (hk : (readPrefix p.payload).kind ≠ kReplay ∨ replayed ps = []) :
    exec (.postPacketArrival none) s = .next ((s.clear36 p).takePostPacket ps p) := by
  have hans : ¬(decide ((readPrefix p.payload).kind = kReplay) && !(replayed ps).isEmpty) = true := by
    rcases hk with hk | hk <;> simp [hk]
  show execPostPacketArrival none s = _
  rw [execPostPacketArrival, onEvent_next hs, hp]
  exact congrArg _ (if_neg hans)

theorem postStepReplay_next {q : Post} {data : List Byte} (hk : (readPrefix p.payload).kind = kReplay)
    (hq : (replayed ps).find? (fun q => q.cmd == c) = some q) {s1 : State}
    (hs1 : s1 = if (readPrefix p.payload).gen = (s.slot q.slot).bind.gen then s.sendPost q data else s) :
    exec (.postStepReplay c data) s = .next (if (replayed ps).any (fun q => decide (c < q.cmd)) then s1 else s1.clear36 p) := by
  subst hs1
  show execPostStepReplay c data s = _
  rw [execPostStepReplay, onEvent_next hs]
  simp only [hp, hq]
  exact congrArg _ (if_neg (not_not_intro hk))

end

end

/-! ### The obligation -/

/-- Settles O46: each row at its case of the model's. -/
theorem postsAreSentAndAnswered : Obligations.PostsAreSentAndAnswered := by
  unfold Obligations.PostsAreSentAndAnswered
  refine ⟨fun s c k data h => ⟨fun d s1 hd hs1 => ⟨fun hk => ?contrib, fun hk => ?counts, fun hk => ?request⟩, fun hk => ?unlisted⟩,
    fun s p ps hs hp => ⟨postPacketArrival_taken hs hp, postPacketArrival_ecc hs hp, fun c q data hk hq s1 hs1 => ⟨fun hall => ?last, fun hsome => ?more⟩⟩⟩
  case contrib =>
    have hdata : d = data := hd.trans (if_neg (by omega))
    rw [collPostContrib_next h (.inl hk), hs1, hdata]; rfl
  case counts =>
    have hdata : d = data := hd.trans (if_neg (by omega))
    rw [collPostCounts_next h hk, hs1, hdata]; rfl
  case request =>
    have hdata : d = [] := hd.trans (if_pos hk)
    rw [collPostResultRequest_next h hk, hs1, hdata]; rfl
  case unlisted => rw [collPostContrib_next h (.inr hk), startPost_unlisted hk]
  case last => rw [postStepReplay_next hs hp hk hq hs1, if_neg (by simpa using hall)]
  case more => rw [postStepReplay_next hs hp hk hq hs1, if_pos (by simpa using hsome)]

end Sys2Proof.Machine

end

section

/-! A packet's way through the switch (01 R18 to R20; 06 R184, R185, R189, R192, R193; 07 R205 to R222; 10 R301, R305). -/

namespace Sys2Proof.Machine

section
variable {s : State}

/-! ### Entering on port 36 (06 R193) -/

section
variable (hs : s.live = true) (hd : s.fab.drainPause = false) {p : Pkt} {rest : List Pkt} (hq : s.host.admitQ = p :: rest)
include hs hd hq

theorem hostPacketAdmit_waits (he : s.enter p.bytes 36 none = none) : exec .hostPacketAdmit s = .next s := by
  show execHostPacketAdmit s = _
  rw [execHostPacketAdmit, onEvent_next (by simp [hs, hd])]
  simp only [hq, he]

theorem hostPacketAdmit_noRoom {s1 : State} (he : s.enter p.bytes 36 none = some (none, s1)) :
    exec .hostPacketAdmit s = .next (s1.modHost fun h => { h with admitQ := rest }) := by
  show execHostPacketAdmit s = _
  rw [execHostPacketAdmit, onEvent_next (by simp [hs, hd])]
  simp only [hq, he]

theorem hostPacketAdmit_enters {r : Pkt × Nat} {s1 : State} (he : s.enter p.bytes 36 none = some (some r, s1)) :
    exec .hostPacketAdmit s = .next ((s1.modHost fun h => { h with admitQ := rest }).enqueue r.2 { r.1 with origin := p.origin }) := by
  show execHostPacketAdmit s = _
  rw [execHostPacketAdmit, onEvent_next (by simp [hs, hd])]
  simp only [hq, he]

end

/-! ### A turn of a slice, a selection, the last byte (06 R195; 07 R222; 01 R18) -/

section
variable (hs : s.live = true) {i : Nat} (hi : i < 4) {p : Pkt} {rest : List Pkt} (hq : (s.slice i).dq = p :: rest)
include hs hi hq

theorem forwardingDecision_decides (hd : s.fab.drainPause = false) (ht : s.inTurn i = true) (hr : p.rxCyc ≤ s.clk.fab) :
    exec (.forwardingDecision i) s = .next ((((s.takeTurn i).modSlice i fun S => { S with dq := rest }).easeSlice i).decidePkt i p) := by
  show execForwardingDecision i s = _
  rw [execForwardingDecision, onUnit_next (decide_eq_true hi) hs]
  simp only [hq]
  exact congrArg _ (if_neg (by simpa [hd, ht] using hr))

theorem forwardingDecision_waits (hr : s.clk.fab < p.rxCyc) : exec (.forwardingDecision i) s = .next s := by
  show execForwardingDecision i s = _
  rw [execForwardingDecision, onUnit_next (decide_eq_true hi) hs]
  simp only [hq]
  exact congrArg _ (if_pos (by simp [hr]))

end

theorem schedulerSelect_selects (hs : s.live = true) (hd : s.fab.drainPause = false) {p : Nat} (hp : p < 38)
    (ht : SMap.get noneAt s.fab.txPkt p = none) (hu : s.portUp p = true) (hi : s.inTurn 4 = true) :
    exec (.schedulerSelect p) s = .next ((s.takeTurn 4).selectPort p) :=
  onUnit_if_pos (decide_eq_true hp) hs (by simp [hd, ht, hu, hi])

theorem packetTransmitComplete_next (hs : s.live = true) {p : Nat} {k : Pkt} {ecc : Option Nat} {idle : State} (hp : p < 38)
    (ht : SMap.get noneAt s.fab.txPkt p = some k) (hm : s.mayHandOver p k = true)
    (hidle : idle = s.modFab fun b => { b with txPkt := SMap.set noneAt p none b.txPkt }) : exec (.packetTransmitComplete p ecc) s =
    .next ((match ecc with
      | some w => if 2 ≤ w then (idle.dropPkt k p dropEcc).deliveryLost k p dropEcc else idle.dropPkt k p dropEcc
      | none => idle.handOver p k).samplePeak p k.vc) := by
  subst hidle
  show execPacketTransmitComplete p ecc s = _
  rw [execPacketTransmitComplete, onUnit_next (decide_eq_true hp) hs]
  simp only [ht, hm]
  rfl

/-! ### The checks of a decision, in their order (06 R184, R189, R205; 07 R217, R221) -/

section
variable {i : Nat} {p : Pkt}

theorem decidePkt_headerBad (hh : p.headerOk = false) : s.decidePkt i p = s.dropPkt p p.inPort dropHdrErr := by
  rw [State.decidePkt]
  exact if_pos (by simp [hh])

section
variable (hh : p.headerOk = true)
include hh

theorem decidePkt_routeEnd (hr : p.hopCount ≤ p.hopPtr) : s.decidePkt i p = s.dropPkt p p.inPort dropRouteEnd := by
  rw [State.decidePkt]
  simp [hh, hr]

section
variable (hr : p.hopPtr < p.hopCount)
include hr

theorem decidePkt_badHop (hk : p.hopOk = false) : s.decidePkt i p = s.dropPkt p p.inPort dropBadHop := by
  have hne : p.hopCount ≠ 0 := by omega
  rw [State.decidePkt]
  simp [hh, hk, hne, not_le.mpr hr]

section
variable (hk : p.hopOk = true)
include hk

/-! A hop to a fabric port. -/

section
variable (hf : p.hopPort < 36)
include hf

theorem decidePkt_rankBad (hph : p.phase ≠ 0) (hl : p.rankLast ≤ (s.port p.hopPort).rank) :
    s.decidePkt i p = s.windowedDrop p dropRouteRank := by
  have hne : p.hopCount ≠ 0 := by omega
  have hrule : rankRule (s.port p.hopPort).rank p.phase p.rankLast = none := by rw [rankRule, if_neg hph, if_neg (not_lt.mpr hl)]
  rw [State.decidePkt]
  simp [hh, hk, hne, not_le.mpr hr, hf, hrule]

section
variable {sc phase last : Nat} {p' : Pkt} (hrule : rankRule (s.port p.hopPort).rank p.phase p.rankLast = some (sc, phase, last))
  (hp' : p' = { (p.pass sc phase last) with outPort := p.hopPort, outSc := sc, steer := 0 })
include hrule hp'

theorem decidePkt_portDown (hd : (s.port p.hopPort).link.state ≠ .active) :
    s.decidePkt i p = (s.dropPkt p p.hopPort dropPortDown).deliveryLost p' p.hopPort dropPortDown := by
  have hne : p.hopCount ≠ 0 := by omega
  have haim : p.hopPort ≠ 37 := by omega
  have hup : s.portUp p.hopPort = false := by simp [State.portUp, hd, not_le.mpr hf]
  subst hp'
  rw [State.decidePkt]
  simp [hh, hk, hne, not_le.mpr hr, hf, hrule, haim, hup]

theorem decidePkt_links (ha : (s.port p.hopPort).link.state = .active) {q : Nat} (hq : s.classify p' p.hopPort = some q) :
    s.decidePkt i p = s.link i p' q := by
  have hne : p.hopCount ≠ 0 := by omega
  have haim : p.hopPort ≠ 37 := by omega
  have hup : s.portUp p.hopPort = true := by simp [State.portUp, ha]
  subst hp'
  rw [State.decidePkt]
  simp [hh, hk, hne, not_le.mpr hr, hf, hrule, haim, hup, hq]

end

end

/-! A hop to a Tiller. -/

section
variable (h37 : p.hopPort = 37) (h2 : p.kind < 2)
include h37 h2

theorem decidePkt_noSteer (hst : s.steered p = none) :
    s.decidePkt i p = if s.tornEpoch p then s.windowedDrop p dropEpochStale else s.dropPkt p p.inPort dropNoSteer := by
  have hne : p.hopCount ≠ 0 := by omega
  rw [State.decidePkt]
  simp [hh, hk, hne, not_le.mpr hr, h37, h2, hst]

section
variable {t : Nat} (hst : s.steered p = some t)
include hst

theorem decidePkt_epochStale (he : p.epoch ≠ (s.epoch p.ctx).toNat) : s.decidePkt i p = s.windowedDrop p dropEpochStale := by
  have hne : p.hopCount ≠ 0 := by omega
  rw [State.decidePkt]
  simp [hh, hk, hne, not_le.mpr hr, h37, h2, hst, he]

theorem decidePkt_steers (he : p.epoch = (s.epoch p.ctx).toNat) {p' : Pkt} {q : Nat}
    (hp' : p' = { (p.pass 0 p.phase p.rankLast) with outPort := 37, outSc := 0, steer := t }) (hq : s.classify p' 37 = some q) :
    s.decidePkt i p = s.link i p' q := by
  have hne : p.hopCount ≠ 0 := by omega
  have hup : s.portUp 37 = true := rfl
  subst hp'
  rw [State.decidePkt]
  simp [hh, hk, hne, not_le.mpr hr, h37, h2, hst, he, hup, hq]

end

end

end

end

end

end

/-! ### The firmware's mailbox and its notices (06 R185; 10 R301, R305) -/

section
variable (hs : s.live = true)
include hs

section
variable (hf : s.fwpUp fwpCmd = true) {p : Pkt} {rest : List Pkt}
include hf

theorem mgmtRequest_next (hq : takeKind 2 s.fab.mailbox = some (p, rest)) : exec .mgmtRequest s =
    .next (if !s.dev.mgmtCfg.getLsbD p.inPort then (s.modFab fun b => { b with mailbox := rest }).count (ctrDrop p.inPort dropHdrErr) 1
      else if p.payload.headD 0#8 = 1#8 then
        (s.modFab fun b => { b with mailbox := rest }).accept (.mgmt (p.bytes.take 48) (fieldAt p.payload 4 4)) ((p.payload.drop 16).take 64)
          (some (slice p.payload 80 (fieldAt ((p.payload.drop 16).take 64) 8 4))) (mgmtOk p.payload)
      else s.modFab fun b => { b with mailbox := rest }) := by
  show execMgmtRequest s = _
  rw [execMgmtRequest, onEvent_next (by simp [hs, hf])]
  simp only [hq]
  rfl

theorem noticeReceive_next (hq : takeKind 3 s.fab.mailbox = some (p, rest)) : exec .noticeReceive s =
    .next ((s.modFab fun b => { b with mailbox := rest }).devEvent 4 stOk
      [fieldAt p.payload 0 1, fieldAt p.payload 1 1, fieldAt p.payload 2 1, fieldAt p.payload 24 2, fieldAt p.payload 28 4, p.ctx]) := by
  show execNoticeReceive s = _
  rw [execNoticeReceive, onEvent_next (by simp [hs, hf])]
  simp only [hq]

end

theorem noticeQueueSend_next {n : Notice} {rest : List Notice} (hq : s.fab.notices = n :: rest) : exec .noticeQueueSend s =
    .next (if (n.route.headD 0#8).toNat / 16 = 0 then (s.modFab fun b => { b with notices := rest }).almQueue
        { type := 0x0E, detail := detail [n.payload.headD 0#8, n.payload.getD 1 0#8, 0#8, 0#8] }
      else (s.modFab fun b => { b with notices := rest }).sendOn36
        { bytes := mkHeader 3 n.vc 0 0 0 0 0 0 n.tag n.payload.length n.route ++ n.payload }) := by
  show execNoticeQueueSend s = _
  rw [execNoticeQueueSend, onEvent_next hs]
  simp only [hq]

end

end

/-! ### The obligation -/

theorem aimed_iff {p : Pkt} : (p.hopPort == 37 && decide (p.kind < 2)) = true ↔ p.hopPort = 37 ∧ p.kind < 2 := by simp

/-- Settles O17: each row and each check at its case of the model's. -/
theorem packetsMoveThroughTheSwitch : Obligations.PacketsMoveThroughTheSwitch := by
  unfold Obligations.PacketsMoveThroughTheSwitch
  refine ⟨fun s hs hd => ⟨fun p rest hq => ⟨fun r s1 => hostPacketAdmit_enters hs hd hq, fun s1 => hostPacketAdmit_noRoom hs hd hq,
        hostPacketAdmit_waits hs hd hq⟩,
      fun i p rest hi hq => ⟨forwardingDecision_decides hs hi hq hd, forwardingDecision_waits hs hi hq⟩, fun p => schedulerSelect_selects hs hd,
      fun p k idle hp ht hm hidle => ⟨?handed, fun w => ?ecc⟩⟩,
    fun s i p aimed haimed => ⟨decidePkt_headerBad, decidePkt_routeEnd, decidePkt_badHop, decidePkt_rankBad,
      fun hh hr hk ha => ?noSteer, fun hh hr hk ha hst he => ?stale,
      fun sc phase last p' hh hr hk hf hrule hp' => ⟨decidePkt_portDown hh hr hk hf hrule hp', fun ha q => decidePkt_links hh hr hk hf hrule hp' ha⟩,
      fun t q p' hh hr hk ha hst he hp' hq => ?steers⟩,
    fun s hs => ⟨fun hf p rest hq => ⟨fun hm => ?unaccepted, fun hm hb => ?command, fun hm hb => ?reply⟩, fun hf p rest => noticeReceive_next hs hf,
      fun n rest hq => ⟨fun hn => ?sent, fun hn => ?recorded⟩⟩⟩
  case handed => rw [packetTransmitComplete_next hs hp ht hm hidle]
  case ecc => rw [packetTransmitComplete_next hs hp ht hm hidle]
  case noSteer =>
    obtain ⟨h37, h2⟩ := aimed_iff.mp (haimed.symm.trans ha)
    exact decidePkt_noSteer hh hr hk h37 h2
  case stale =>
    obtain ⟨h37, h2⟩ := aimed_iff.mp (haimed.symm.trans ha)
    obtain ⟨t, ht⟩ := Option.ne_none_iff_exists'.mp hst
    exact decidePkt_epochStale hh hr hk h37 h2 ht he
  case steers =>
    obtain ⟨h37, h2⟩ := aimed_iff.mp (haimed.symm.trans ha)
    exact decidePkt_steers hh hr hk h37 h2 hst he hp' hq
  case unaccepted => rw [mgmtRequest_next hs hf hq, hm]; rfl
  case command => rw [mgmtRequest_next hs hf hq, hm, if_pos hb]; rfl
  case reply => rw [mgmtRequest_next hs hf hq, hm, if_neg hb]; rfl
  case sent => rw [noticeQueueSend_next hs hq, if_neg hn]
  case recorded => rw [noticeQueueSend_next hs hq, if_pos hn]

end Sys2Proof.Machine

end

section

/-! An idle step passes time (01 R23, R25, R26; 14 R385): nothing that time does by itself moves the clocks but their own advance. -/

namespace Sys2Proof.Machine

section
variable (s : State)

/-! ### Bookkeeping leaves the clocks -/

@[simp] theorem State.countLink_clk (p item n : Nat) : (s.countLink p item n).clk = s.clk := rfl

@[simp] theorem State.almQueue_clk (r : ARec) : (s.almQueue r).clk = s.clk := congrArg LinkView.clk (s.almQueue_linkView r)

@[simp] theorem State.finish_clk (c status : Nat) (words : List Nat) (data : List Byte) : (s.finish c status words data).clk = s.clk :=
  congrArg LinkView.clk (s.finish_linkView c status words data)

@[simp] theorem State.modEntry_clk (L i : Nat) (f : SbEntry → SbEntry) : (s.modEntry L i f).clk = s.clk := rfl

@[simp] theorem State.modList_clk (L : Nat) (f : SbList → SbList) : (s.modList L f).clk = s.clk := rfl

/-- What is done only under a condition leaves the clocks when doing it does. -/
theorem State.clk_ite {c : Prop} [Decidable c] {a b : State} (h : a.clk = b.clk) : (if c then a else b).clk = b.clk := by
  split
  · exact h
  · rfl

/-! ### Counters of time (06 R204; 09 R275, R277) -/

@[simp] theorem State.countFab_clk : s.countFab.clk = s.clk := by
  refine (foldl_keeps State.clk (fun _ _ => ?_) _ _).trans (foldl_keeps State.clk (fun x p => ?_) _ s)
  · exact State.clk_ite rfl
  · refine (foldl_keeps State.clk (fun _ _ => ?_) _ _).trans (foldl_keeps State.clk (fun _ _ => ?_) _ x)
    · exact State.clk_ite rfl
    · exact State.clk_ite rfl

@[simp] theorem State.refillAll_clk : s.refillAll.clk = s.clk := rfl

@[simp] theorem State.countNs_clk : s.countNs.clk = s.clk := by
  have hadd (b : Bool) (p item : Nat) (x : State) : (if b then x.countLink p item 1 else x).clk = x.clk := State.clk_ite rfl
  exact foldl_keeps State.clk (fun _ _ => (hadd _ _ _ _).trans ((hadd _ _ _ _).trans (hadd _ _ _ _))) _ s

theorem State.checkLane_clk (p l : Nat) (lost : Bool) : (s.checkLane p l lost).clk = s.clk := by
  rw [State.checkLane, State.drawn_clk, State.countLink_clk, State.countLink_clk]

@[simp] theorem State.countLoops_clk : s.countLoops.clk = s.clk :=
  foldl_keeps State.clk (fun x _ => (foldl_keeps State.clk (fun y _ => y.checkLane_clk _ _ _) _ _).trans
    (foldl_keeps State.clk (fun y _ => y.checkLane_clk _ _ _) _ x)) _ s

@[simp] theorem State.skipThird_clk : s.skipThird.clk = s.clk := rfl

@[simp] theorem State.exemptTick_clk : s.exemptTick.clk = s.clk := rfl

/-! ### Teardowns (13 R363) -/

@[simp] theorem State.windowedDrop_clk (p : Pkt) (reason : Nat) : (s.windowedDrop p reason).clk = s.clk := by
  have hdrop : (s.rollWindow.dropPkt p p.inPort reason).clk = s.clk :=
    congrArg LinkView.clk ((State.dropPkt_linkView _ p p.inPort reason).trans s.rollWindow_linkView)
  unfold State.windowedDrop
  exact (State.clk_ite (State.almQueue_clk _ _)).trans hdrop

@[simp] theorem State.takeSteered_clk (x : Nat) (tillers : List Nat) : (s.takeSteered x tillers).2.clk = s.clk :=
  (foldl_keeps State.clk (fun y t => y.modT_clk t _) tillers _).trans (foldl_keeps State.clk (fun y q => y.setSq_clk q _) _ s)

@[simp] theorem State.abortSteps_clk (l status : Nat) (steps : List Nat) (except : Option Nat) : (s.abortSteps l status steps except).clk = s.clk := by
  refine foldl_keeps State.clk (fun x n => ?_) steps s
  have hsent (p : CPrefix) (dests : List Nat) : (x.slotSendAll l p dests).clk = x.clk :=
    foldl_keeps State.clk (fun y d => by unfold State.slotSend; dsimp only; split <;> rfl) dests x
  dsimp only
  split
  · exact hsent _ _
  · exact hsent _ _

@[simp] theorem State.freeQueues_clk (l : List Nat) : (s.freeQueues l).clk = s.clk :=
  foldl_keeps State.clk (fun x _ => foldl_keeps State.clk (fun y _ => y.modFab_clk _) _ x) l s

@[simp] theorem State.unbind_clk (l : Nat) : (s.unbind l).clk = s.clk := by
  have hposts (x : State) : (x.endPosts l stContextGone).clk = x.clk := foldl_keeps State.clk (fun y _ => y.finish_clk _ _ _ _) _ x
  simp [State.unbind, hposts]

theorem State.tearEpoch_clk (x : Nat) : (s.tearEpoch x).clk = s.clk := by
  refine (foldl_keeps State.clk (fun y l => y.unbind_clk l) _ _).trans ((State.almQueue_clk _ _).trans ?_)
  exact (foldl_keeps State.clk (fun y _ => y.windowedDrop_clk _ _) _ _).trans (s.takeSteered_clk x _)

@[simp] theorem State.tearTick_clk : s.tearTick.clk = s.clk := foldl_keeps State.clk (fun y x => y.tearEpoch_clk x) _ s

/-! ### The store and its blocks (08 R248, R250) -/

@[simp] theorem State.giveAddr_clk (a : Nat) : (s.giveAddr a).clk = s.clk := by
  unfold State.giveAddr State.giveBack
  split
  · dsimp only
    split
    · simp
    · split <;> simp
  · rfl

@[simp] theorem State.corrected_clk (ws found : List Nat) : (s.corrected ws found).clk = s.clk :=
  foldl_keeps State.clk (fun x _ => x.count_clk _ _) _ s

@[simp] theorem State.noteRead_clk (a n : Nat) : (s.noteRead a n).clk = s.clk := by
  unfold State.noteRead State.memUe
  dsimp only
  split <;> simp

@[simp] theorem State.copyBlock_clk (src dst : Nat) (big : Bool) : (s.copyBlock src dst big).clk = s.clk := by
  unfold State.copyBlock State.memWrite
  dsimp only
  split <;> rfl

@[simp] theorem State.pfxCount_clk (item : Nat) : (s.pfxCount item).clk = s.clk := rfl

@[simp] theorem State.modBlock_clk (key : List Byte) (f : PBlock → PBlock) : (s.modBlock key f).clk = s.clk := rfl

@[simp] theorem State.freeSlabs_clk : s.freeSlabs.clk = s.clk := foldl_keeps State.clk (fun x _ => x.giveAddr_clk _) _ s

@[simp] theorem State.freeStorage_clk (b : PBlock) : (s.freeStorage b).clk = s.clk := by
  unfold State.freeStorage
  split
  · split
    · rw [State.freeSlabs_clk]
      split <;> simp
    · simp
  · split
    · simp
    · split <;> simp

@[simp] theorem State.removeBlock_clk (b : PBlock) : (s.removeBlock b).clk = s.clk := by
  unfold State.removeBlock
  dsimp only
  split <;> simp

variable {s} in
theorem State.takeBuffer_clk {who : SbReq} {owner k die : Nat} {slot : Option Nat} {zero : Bool} {a : Nat} {s' : State}
    (h : s.takeBuffer who owner k die slot zero = .got a s') : s'.clk = s.clk := by
  unfold State.takeBuffer at h
  dsimp only at h
  repeat' split at h
  all_goals cases h
  simp [State.handOut, State.memZero, State.unlist]

variable {s} in
theorem State.cxlRoom_clk {who : SbReq} {big : Bool} {a : Nat} {s' : State} (h : s.cxlRoom who big = .got a s') : s'.clk = s.clk := by
  unfold State.cxlRoom at h
  dsimp only at h
  split at h
  case h_1 => cases h; rfl
  case h_2 =>
    split at h
    case h_1 hslab =>
      cases h
      split at hslab
      · simp [State.takeBuffer_clk hslab]
      · cases hslab
    case h_2 => cases h
    case h_3 =>
      split at h
      · cases h; simp
      · cases h

theorem State.lowerGddr_clk (big : Bool) (lim n : Nat) : (State.lowerGddr s big lim n).clk = s.clk := by
  induction n generalizing s with
  | zero => rfl
  | succ n ih =>
    rw [State.lowerGddr]
    split
    · rfl
    · split
      · rfl
      · split
        · rfl
        · next hroom =>
          rw [ih]
          split
          · simp
          · simp [State.cxlRoom_clk hroom]
        · rw [ih]; simp

theorem State.lowerSlabs_clk (lim n : Nat) : (State.lowerSlabs s lim n).clk = s.clk := by
  induction n generalizing s with
  | zero => rfl
  | succ n ih =>
    rw [State.lowerSlabs]
    split
    · rfl
    · split
      · rfl
      · rw [ih]; simp

@[simp] theorem State.pfxTick_clk : s.pfxTick.clk = s.clk := by
  have hfreed : (List.foldl State.freeStorage (s.modPfx fun p => { p with dying := p.dying.filter s.reading })
      (s.pfx.dying.filter fun b => !s.reading b)).clk = s.clk := foldl_keeps State.clk (fun x b => x.freeStorage_clk b) _ _
  unfold State.pfxTick State.holdLimits
  dsimp only
  split
  · rw [State.lowerSlabs_clk, State.lowerGddr_clk, State.lowerGddr_clk, hfreed]
  · exact hfreed

/-! ### The tick -/

theorem State.tickRun_clk : s.tickRun.clk = s.clk.advance s.coreStopped := by
  refine (State.exemptTick_clk _).trans ((State.clk_ite (State.skipThird_clk _)).trans ((State.clk_ite (State.countLoops_clk _)).trans
    ((State.clk_ite (State.countNs_clk _)).trans ?_)))
  exact State.clk_ite (by simp)

/-- CORE_CLK counts a cycle when one is due and the ladder does not stop it. -/
theorem Clock.advance_core (k : Clock) (stopped : Bool) :
    (k.advance stopped).core = k.core + if 3000 ≤ k.coreAcc + k.coreMHz ∧ stopped = false then 1 else 0 := by
  unfold Clock.advance
  by_cases hdue : 3000 ≤ k.coreAcc + k.coreMHz <;> cases stopped <;> simp [hdue]

/-- FABREF's cycles and its phase together go on by five fifths of a third of a nanosecond. -/
theorem Clock.advance_fabref (k : Clock) (stopped : Bool) :
    96 * (k.advance stopped).fabref + (k.advance stopped).fabrefAcc = 96 * k.fabref + k.fabrefAcc + 5 := by
  show 96 * (k.fabref + (k.fabrefAcc + 5) / 96) + (k.fabrefAcc + 5) % 96 = _
  omega

theorem State.tick_running (h : s.pwr.phase = .running) : s.tick = s.tickRun := by rw [State.tick, h]

theorem State.tick_held (h : s.pwr.phase = .held) : s.tick = { s with clk := { s.clk with third := s.clk.third + 1 } } := by rw [State.tick, h]

theorem State.tick_unpowered (h : s.pwr.phase = .off ∨ s.pwr.phase = .converters) : s.tick = s := by
  rcases h with h | h <;> rw [State.tick, h]

theorem step_idle (h : s.pending = []) : step s = if s.timeOver then .fault .timeBaseExhausted else .next s.tick := by rw [step, h]

end

/-! ### The obligation -/

/-- Settles O2: what an idle step does besides advancing the clocks leaves them as they are. -/
theorem idleStepPassesTime : Obligations.IdleStepPassesTime := by
  unfold Obligations.IdleStepPassesTime
  refine fun s hp => ⟨fun hover => ?ended, fun hover => ?ticks, fun hrun => ?running, s.tick_held, s.tick_unpowered⟩
  case ended => rw [step_idle s hp, if_pos hover]
  case ticks => rw [step_idle s hp, if_neg (by simp [hover])]
  case running =>
    rw [s.tick_running hrun, s.tickRun_clk]
    exact ⟨rfl, s.clk.advance_fabref _, rfl, rfl, s.clk.advance_core _⟩

end Sys2Proof.Machine

end
